-- ==== Sys2Proof/Word.lean ====
section
/-! DEFINITION. The word types of the machine (R3, R34, R93): bytes, 32-bit instruction words, 64-bit registers. -/

namespace Sys2Proof

/-- A 64-bit general register, address or control register value (R93). -/
abbrev Word := BitVec 64

/-- A 32-bit scalar word, tile command word or FP32 value (R34, R40, R99). -/
abbrev W32 := BitVec 32

/-- The smallest addressable unit. -/
abbrev Byte := BitVec 8

/-- The number of a general register, g0 to g31 (R35). -/
abbrev Reg := BitVec 5

end Sys2Proof
end

