-- ==== Sys2Proof/Syntax.lean ====
section
/-! DEFINITION. The syntax of the machine: one constructor of Instr for every row of the opcode table.
Rows 0 to 201 are instruction words (R34 to R48); the others are the table's operations and events of the
device's other agents (spec/95), with what each needs to be named as an operand. -/

namespace Sys2Proof

/-- The five tile engines (R40). -/
inductive Engine where
  | matrix | vector | convert | copy | collective
  deriving DecidableEq, Repr

/-- The eight words of a tile command (R32, R40 to R48). -/
structure TileWords where
  w0 : W32
  w1 : W32
  w2 : W32
  w3 : W32
  w4 : W32
  w5 : W32
  w6 : W32
  w7 : W32
  deriving DecidableEq, Repr

/-- The causes of R355 that name a fault. -/
inductive Cause where
  | illegal | priv | misalign | prot | xlate | outside | poison | mixsize | waitlong | selfdep | staleh | scope
  | shadowfull | snapdepth | decodemiss | phaseskew | table | bkpt | watch | double | fatalhw
  deriving DecidableEq, Repr

/-- Where an event's subject comes from: number i of this device's own list of such things in flight, or another
device of the domain, which this model does not hold. -/
inductive Src (α : Type) where
  | mine (i : Nat)
  | outside (a : α)
  deriving DecidableEq, Repr

/-- What another device's unit answers to a request of a slot of this device. -/
inductive Answer where
  | val (v : Word)
  | fault (c : Cause)
  deriving DecidableEq, Repr

/-- The bytes of a load from another device, for the slot that waits (R117, R123). -/
structure RemoteData where
  slot : Nat
  line : Word
  /-- None where the version sent was the home's still (R121). -/
  bytes : Option (List Byte)
  poison : Bool
  version : BitVec 48
  fault : Option Cause
  deriving DecidableEq, Repr

/-- A BARD notification in flight (R175): who it is for, the sender's index, round and episode. -/
structure BardNote where
  slot : Nat
  sender : Nat
  round : Nat
  episode : BitVec 2
  region : Nat
  deriving DecidableEq, Repr

/-- An INBOX message in flight (R183 to R186): DATA from a slot, on the channel of its gang context. -/
structure InboxMsg where
  srcdev : BitVec 9
  srcslot : BitVec 13
  slot : Nat
  gen : BitVec 8
  ctx : Nat
  tag : BitVec 25
  payload : List Byte
  deriving DecidableEq, Repr

/-- A TASK message in flight (R188, R189). -/
structure TaskMsg where
  core : Nat
  region : Nat
  ctx : Nat
  pc : Word
  payload : List Byte
  deriving DecidableEq, Repr

/-- An advertisement on its way to the hub (R315), with its sender's slot and generation: of a block that has just been copied,
or of one held already. One that is withdrawn asks the hub to drop the shelf entry (R316, R321). -/
structure Advert where
  grp : Nat
  memb : Nat
  blk : W32
  until_ : Word
  slot : Nat
  gen : Byte
  fresh : Bool
  withdrawn : Bool
  deriving DecidableEq, Repr

/-- One posted block: its id, the member and index it is for, its bytes and its sender's region (R317, R319). -/
structure Post where
  grp : Nat
  blk : W32
  dst : Nat
  arg : Nat
  sender : Nat
  region : Nat
  slot : Nat
  bytes : List Byte
  deriving DecidableEq, Repr

/-- A packet of the hub for one receiver (R318, R319): its components and the XOR of their bytes. -/
structure Packet where
  grp : Nat
  region : Nat
  memb : Nat
  comps : List Post
  bytes : List Byte
  deriving DecidableEq, Repr

/-- A NACK for a component on its way to the hub, or a loss notice on its way back (R319, R320); the slot is that of the member
that sent the block, on whose behalf it is counted (R412). -/
structure Nack where
  grp : Nat
  memb : Nat
  blk : W32
  arg : Nat
  sender : Nat
  slot : Nat
  deriving DecidableEq, Repr

/-- A dispatched token row (R324). -/
structure DispRow where
  grp : Nat
  row : List Byte
  mask : Word
  tok : Nat
  memb : Nat
  dw : Word
  slot : Nat
  gen : Byte
  dev : BitVec 9
  deriving DecidableEq, Repr

/-- What a request from another device asks of this device's memory (R370). -/
inductive RemoteKind where
  /-- The version of the line that the requester holds, where it holds one (R121). -/
  | load (n : Nat) (strong : Bool) (version : Option (BitVec 48))
  | store (bytes : List Byte) (strong : Bool)
  | amo (fn : BitVec 4) (n : Nat) (v : Word)
  | cas (n : Nat) (e v : Word)
  | sch (n : Nat) (v : Word)
  | arrive (p : BitVec 2)
  /-- With the WAITLIM in force there (R167). -/
  | lrw (n : Nat) (lim : W32)
  | waitcnt (thr : Word)
  | waitph (p : BitVec 2)
  /-- NOTIFY and RUPD: the op of R177, its operand, the counted word it bumps. -/
  | update (op : BitVec 3) (v : Word) (cnt : Option Word)
  | withdraw
  deriving DecidableEq, Repr

/-- An access that arrives from another device (R370). -/
structure RemoteAccess where
  dev : BitVec 9
  slot : BitVec 14
  va : Word
  kind : RemoteKind
  /-- The region that the access is made for, and whether it is in debug mode (R156, R412). -/
  region : Nat
  debug : Bool
  /-- It is only checked: an instruction there has yet to have its effect (R94, R378). -/
  look : Bool
  deriving DecidableEq, Repr

/-- The policy that firmware sets within the hardware limits (R31, R119, R216, R260, R311, R327, R370, R197). -/
structure Policy where
  window : Nat
  margin : Nat
  hold : Nat
  sparkPool : Nat
  /-- The lease length, and those of cores that firmware sets apart (R119). -/
  leaselen : Nat
  leaselens : List (Nat × Nat)
  mslot : Word
  collTimeout : Nat
  replayLimit : Nat
  thermal : List (Nat × List Nat)
  deriving DecidableEq, Repr

/-- What every rank of a collective has alike (R327): P, the rank table's bytes, op, M, N, fa and fc. -/
structure CollSig where
  p : Nat
  table : List Byte
  op : Nat
  m : Nat
  n : Nat
  fa : BitVec 4
  fc : BitVec 4
  deriving DecidableEq, Repr

/-- A partner rank's FP32 partial results for one node of a collective's tree (R327): the collective, the k-th on a staging area
counted from 0 (log entry 137), the ranks lo to hi - 1, and what that rank's command has in place of this one's. -/
structure Partial where
  stage : Word
  k : Nat
  sig : CollSig
  lo : Nat
  hi : Nat
  vals : List W32
  deriving DecidableEq, Repr

/-- Where an uncorrectable error strikes state that has no poison bit, outside a failed core (R371, R368). -/
inductive ErrorSite where
  | sharerBitmap (line : Nat)
  | directory
  deriving DecidableEq, Repr

/-- The instructions and the device's operations and events: one constructor per row of the opcode table. -/
inductive Instr where
  /-- ADD (R95): Writes a + b, modulo 2^64, to gd. -/
  | add (gd ga gb : Reg)
  /-- SUB (R95): Writes a − b to gd. -/
  | sub (gd ga gb : Reg)
  /-- AND (R95): Writes a & b to gd. -/
  | and (gd ga gb : Reg)
  /-- OR (R95): Writes a | b to gd. -/
  | or (gd ga gb : Reg)
  /-- XOR (R95): Writes a ^ b to gd. -/
  | xor (gd ga gb : Reg)
  /-- ANDN (R95): Writes a & ~b to gd. -/
  | andn (gd ga gb : Reg)
  /-- SLL (R95): Shifts a left by b[5:0]. -/
  | sll (gd ga gb : Reg)
  /-- SRL (R95): Shifts a right logically by b[5:0]. -/
  | srl (gd ga gb : Reg)
  /-- SRA (R95): Shifts a right arithmetically by b[5:0]. -/
  | sra (gd ga gb : Reg)
  /-- ROL (R95): Rotates a left by b[5:0]. -/
  | rol (gd ga gb : Reg)
  /-- MIN (R95): Writes the signed lesser of a and b. -/
  | min (gd ga gb : Reg)
  /-- MAX (R95): Writes the signed greater of a and b. -/
  | max (gd ga gb : Reg)
  /-- MINU (R95): Writes the unsigned lesser of a and b. -/
  | minu (gd ga gb : Reg)
  /-- MAXU (R95): Writes the unsigned greater of a and b. -/
  | maxu (gd ga gb : Reg)
  /-- SLT (R95): Writes 1 if a < b signed, else 0. -/
  | slt (gd ga gb : Reg)
  /-- SLTU (R95): Writes 1 if a < b unsigned, else 0. -/
  | sltu (gd ga gb : Reg)
  /-- SEQ (R95): Writes 1 if a = b, else 0. -/
  | seq (gd ga gb : Reg)
  /-- SEL (R95): Writes b to gd if a ≠ 0, otherwise leaves gd unwritten. -/
  | sel (gd ga gb : Reg)
  /-- CLZ (R95): Counts the leading zero bits of a. -/
  | clz (gd ga : Reg)
  /-- CTZ (R95): Counts the trailing zero bits of a. -/
  | ctz (gd ga : Reg)
  /-- POPC (R95): Counts the one bits of a. -/
  | popc (gd ga : Reg)
  /-- BSWAP (R95): Reverses the eight bytes of a. -/
  | bswap (gd ga : Reg)
  /-- SEXTB (R95): Sign-extends a[7:0]. -/
  | sextb (gd ga : Reg)
  /-- SEXTH (R95): Sign-extends a[15:0]. -/
  | sexth (gd ga : Reg)
  /-- SEXTW (R95): Sign-extends a[31:0]. -/
  | sextw (gd ga : Reg)
  /-- ZEXTW (R95): Zero-extends a[31:0]. -/
  | zextw (gd ga : Reg)
  /-- ADDI (R96): Adds the sign-extended imm16 to ga. -/
  | addi (gd ga : Reg) (imm : BitVec 16)
  /-- ANDI (R96): ANDs ga with the zero-extended imm16. -/
  | andi (gd ga : Reg) (imm : BitVec 16)
  /-- ORI (R96): ORs ga with the zero-extended imm16. -/
  | ori (gd ga : Reg) (imm : BitVec 16)
  /-- XORI (R96): XORs ga with the zero-extended imm16. -/
  | xori (gd ga : Reg) (imm : BitVec 16)
  /-- SLLI (R96): Shifts ga left by an immediate amount. -/
  | slli (gd ga : Reg) (sh : BitVec 6)
  /-- SRLI (R96): Shifts ga right logically by an immediate amount. -/
  | srli (gd ga : Reg) (sh : BitVec 6)
  /-- SRAI (R96): Shifts ga right arithmetically by an immediate amount. -/
  | srai (gd ga : Reg) (sh : BitVec 6)
  /-- SLTI (R96): Writes 1 if ga is below the 15-bit immediate, compared signed. -/
  | slti (gd ga : Reg) (imm : BitVec 15)
  /-- SLTIU (R96): Writes 1 if ga is below the sign-extended 15-bit immediate, compared unsigned. -/
  | sltiu (gd ga : Reg) (imm : BitVec 15)
  /-- LUI (R97): Writes sext64(imm21 << 11) to gd. -/
  | lui (gd : Reg) (imm : BitVec 21)
  /-- ADPC (R97): Writes PC + sext64(imm21 << 11) to gd. -/
  | adpc (gd : Reg) (imm : BitVec 21)
  /-- MUL (R98): Writes the low 64 bits of a × b. -/
  | mul (gd ga gb : Reg)
  /-- MULH (R98): Writes the high 64 bits of the signed product. -/
  | mulh (gd ga gb : Reg)
  /-- MULHU (R98): Writes the high 64 bits of the unsigned product. -/
  | mulhu (gd ga gb : Reg)
  /-- DIV (R98): Signed division truncated toward zero, with fixed results for zero and overflow. -/
  | div (gd ga gb : Reg)
  /-- DIVU (R98): Unsigned division. -/
  | divu (gd ga gb : Reg)
  /-- REM (R98): Signed remainder. -/
  | rem (gd ga gb : Reg)
  /-- REMU (R98): Unsigned remainder. -/
  | remu (gd ga gb : Reg)
  /-- FADD (R100): FP32 addition rounded to nearest even. -/
  | fadd (gd ga gb : Reg)
  /-- FSUB (R100): FP32 subtraction. -/
  | fsub (gd ga gb : Reg)
  /-- FMUL (R100): FP32 multiplication. -/
  | fmul (gd ga gb : Reg)
  /-- FFMA (R100): FP32 fused multiply-add into the old gd, rounded once. -/
  | ffma (gd ga gb : Reg)
  /-- FMIN (R100): FP32 minimum with the NaN and signed-zero rules. -/
  | fmin (gd ga gb : Reg)
  /-- FMAX (R100): FP32 maximum. -/
  | fmax (gd ga gb : Reg)
  /-- FCMP (R100): FP32 comparison under cc, writing 1 or 0. -/
  | fcmp (gd ga gb : Reg) (cc : BitVec 2)
  /-- FCVTIF (R100): Converts a signed or unsigned 64-bit integer to FP32. -/
  | fcvtif (gd ga : Reg) (u : Bool)
  /-- FCVTFI (R101): Converts FP32 to a saturated 64-bit integer. -/
  | fcvtfi (gd ga : Reg) (u : Bool)
  /-- FNEG (R100): Inverts bit 31 of fa. -/
  | fneg (gd ga : Reg)
  /-- BEQ (R102): Branches if a = b. -/
  | beq (ga gb : Reg) (off : BitVec 16)
  /-- BNE (R102): Branches if a ≠ b. -/
  | bne (ga gb : Reg) (off : BitVec 16)
  /-- BLT (R102): Branches if a < b, signed. -/
  | blt (ga gb : Reg) (off : BitVec 16)
  /-- BGE (R102): Branches if a ≥ b, signed. -/
  | bge (ga gb : Reg) (off : BitVec 16)
  /-- BLTU (R102): Branches if a < b, unsigned. -/
  | bltu (ga gb : Reg) (off : BitVec 16)
  /-- BGEU (R102): Branches if a ≥ b, unsigned. -/
  | bgeu (ga gb : Reg) (off : BitVec 16)
  /-- JMP (R103): Jumps by a signed word offset. -/
  | jmp (off : BitVec 26)
  /-- CALL (R103): Writes PC + 4 to g31, then jumps. -/
  | call (off : BitVec 26)
  /-- JR (R104): Jumps to ga, linking PC + 4 in gd, and faults MISALIGN on an unaligned target. -/
  | jr (gd ga : Reg)
  /-- LD (R124): Loads 1 to 8 bytes, sign-extended, from local or global memory. -/
  | ld (gd ga : Reg) (w : BitVec 2) (off : BitVec 11)
  /-- LD_A8 (R126): Loads 8 bytes single-copy atomic. -/
  | ldA8 (gd ga : Reg) (off : BitVec 11)
  /-- LDU (R124): Loads 1 to 4 bytes, zero-extended. -/
  | ldu (gd ga : Reg) (w : BitVec 2) (off : BitVec 11)
  /-- ST (R124): Stores 1 to 8 bytes into local memory or the store buffer. -/
  | st (gd ga : Reg) (w : BitVec 2) (off : BitVec 11)
  /-- ST_A8 (R126): Stores 8 bytes single-copy atomic. -/
  | stA8 (gd ga : Reg) (off : BitVec 11)
  /-- LDACQ (R146): Strong load that acquires at its scope and expires the core's leases at CORE scope or wider. -/
  | ldacq (gd ga : Reg) (scope : BitVec 3) (w : BitVec 2) (off : BitVec 11)
  /-- STREL (R147): Strong store that releases at its scope, draining the store buffer at CLUSTER scope or wider. -/
  | strel (gd ga : Reg) (scope : BitVec 3) (w : BitVec 2) (off : BitVec 11)
  /-- RENEW (R130): Sends a cached line's version to its home to renew its lease. -/
  | renew (ga : Reg)
  /-- DROP (R130): Removes one line from the data cache. -/
  | drop (ga : Reg)
  /-- PRUNE (R130): Removes every cached line that overlaps a range. -/
  | prune (ga gb : Reg)
  /-- PREF (R130): Requests a line under a fresh lease without waiting. -/
  | pref (ga : Reg)
  /-- FENCE_ACQ (R149): Acquire fence that expires leases at CORE scope or wider. -/
  | fenceAcq (scope : BitVec 3)
  /-- FENCE_REL (R149): Release fence that drains at CLUSTER scope or wider. -/
  | fenceRel (scope : BitVec 3)
  /-- FENCE_FULL (R149): Full fence that drains and then expires leases. -/
  | fenceFull (scope : BitVec 3)
  /-- AMO_ADD (R162): Atomic add at the home, returning the old value. -/
  | amoAdd (gd ga gb : Reg) (scope : BitVec 3) (ord : BitVec 2) (w8 : Bool)
  /-- AMO_AND (R162): Atomic AND at the home. -/
  | amoAnd (gd ga gb : Reg) (scope : BitVec 3) (ord : BitVec 2) (w8 : Bool)
  /-- AMO_OR (R162): Atomic OR at the home. -/
  | amoOr (gd ga gb : Reg) (scope : BitVec 3) (ord : BitVec 2) (w8 : Bool)
  /-- AMO_XOR (R162): Atomic XOR at the home. -/
  | amoXor (gd ga gb : Reg) (scope : BitVec 3) (ord : BitVec 2) (w8 : Bool)
  /-- AMO_MIN (R162): Atomic signed minimum at the home. -/
  | amoMin (gd ga gb : Reg) (scope : BitVec 3) (ord : BitVec 2) (w8 : Bool)
  /-- AMO_MAX (R162): Atomic signed maximum at the home. -/
  | amoMax (gd ga gb : Reg) (scope : BitVec 3) (ord : BitVec 2) (w8 : Bool)
  /-- AMO_MINU (R162): Atomic unsigned minimum at the home. -/
  | amoMinu (gd ga gb : Reg) (scope : BitVec 3) (ord : BitVec 2) (w8 : Bool)
  /-- AMO_MAXU (R162): Atomic unsigned maximum at the home. -/
  | amoMaxu (gd ga gb : Reg) (scope : BitVec 3) (ord : BitVec 2) (w8 : Bool)
  /-- AMO_SWAP (R162): Atomic swap at the home. -/
  | amoSwap (gd ga gb : Reg) (scope : BitVec 3) (ord : BitVec 2) (w8 : Bool)
  /-- AMO_FADD (R162): Atomic 4-byte FP32 add at the home. -/
  | amoFadd (gd ga gb : Reg) (scope : BitVec 3) (ord : BitVec 2)
  /-- CAS (R164): Compare-and-swap at the home with separate success and failure ordering. -/
  | cas (gd ga gb : Reg) (scope : BitVec 3) (sord : BitVec 2) (facq : Bool) (w8 : Bool)
  /-- LRW (R166): Queues the slot at the home for a reservation and returns the value when it holds the reservation. -/
  | lrw (gd ga : Reg) (scope : BitVec 3) (w8 : Bool)
  /-- SCH (R167): Stores as the reservation holder and passes the reservation on. -/
  | sch (gd ga gb : Reg) (scope : BitVec 3) (w8 : Bool)
  /-- LDFE (R170): Waits for a full scratchpad word, reads it and empties the tag. -/
  | ldfe (gd ga : Reg)
  /-- LDFF (R170): Waits for a full scratchpad word and reads it without emptying the tag. -/
  | ldff (gd ga : Reg)
  /-- STEF (R170): Waits for an empty scratchpad word, writes it and fills the tag. -/
  | stef (ga gb : Reg)
  /-- SETE (R170): Sets a scratchpad word's tag to empty. -/
  | sete (ga : Reg)
  /-- ARRIVE (R173): Counts an arrival at a phase barrier and may end the phase. -/
  | arrive (gd ga gb : Reg) (scope : BitVec 3)
  /-- WAITPH (R173): Sleeps until a barrier phase has ended, then acquires. -/
  | waitph (ga gb : Reg) (scope : BitVec 3)
  /-- BARD (R175): Runs a dissemination barrier over a participant table. -/
  | bard (gd ga gb : Reg) (scope : BitVec 3)
  /-- WAITCNT (R176): Sleeps at the home until a counted word reaches a threshold, then acquires. -/
  | waitcnt (gd ga gb : Reg) (scope : BitVec 3)
  /-- NOTIFY (R176): Releases and then posts an add to a counted word. -/
  | notify (ga gb : Reg) (scope : BitVec 3)
  /-- RUPD (R177): Releases and posts a remote update, optionally counting it in a counted word. -/
  | rupd (gd ga gb : Reg) (scope : BitVec 3) (op : BitVec 3)
  /-- LDQ (R125): Loads 16 bytes into an even register pair. -/
  | ldq (gd ga : Reg) (flags : BitVec 2) (off : BitVec 11)
  /-- STQ (R125): Stores 16 bytes from an even register pair. -/
  | stq (gd ga : Reg) (flags : BitVec 2) (off : BitVec 11)
  /-- SEND (R188): Releases and posts an INBOX or TASK message. -/
  | send (gd ga gb : Reg) (scope : BitVec 3)
  /-- SPAWN (R190): Offers a task to a core and waits for its acceptance or refusal. -/
  | spawn (gd ga gb : Reg) (scope : BitVec 3)
  /-- RECV (R192): Sleeps for and takes the slot's oldest inbox entry, acquiring. -/
  | recv (gd ga : Reg)
  /-- PEEK (R193): Returns the header of the oldest inbox entry without removing it. -/
  | peek (gd : Reg)
  /-- MIGRATE (R195): Moves the issuing thread to another core of this device. -/
  | migrate (gd ga : Reg)
  /-- YIELD (R193): Sleeps until an inbox entry arrives or a time passes. -/
  | yield (gd ga : Reg)
  /-- EXIT (R194): Ends the task and frees the slot. -/
  | exit
  /-- SLOTQ (R193): Returns the slot's generation and inbox and slot occupancy. -/
  | slotq (gd : Reg)
  /-- SUSPEND (R207): Builds a thunk record from a command image, or evaluates it strictly when budgets fail. -/
  | suspend (gd ga : Reg)
  /-- FORCE (R213): Demands a handle's value, evaluating or waiting as needed. -/
  | force (gd ga : Reg)
  /-- FPOLL (R215): Demands a value without sleeping. -/
  | fpoll (gd ga : Reg)
  /-- SPARK (R216): Offers a THUNK handle to the cluster spark pool. -/
  | spark (gd ga : Reg)
  /-- RETAIN (R219): Increments a record's reference count. -/
  | retain (ga : Reg)
  /-- RELEASE (R219): Decrements a record's reference count, freeing it at zero, or returns a frame. -/
  | release (ga : Reg)
  /-- MKVAL (R218): Makes an immediate handle for a tile address. -/
  | mkval (gd ga : Reg)
  /-- HSTATE (R220): Reads a handle's record header without acting on it. -/
  | hstate (gd ga : Reg)
  /-- SNAP (R302): Takes a snapshot of a global range and announces it to every home. -/
  | snap (gd ga gb : Reg)
  /-- ACCEPT (R303): Ends the innermost snapshot and discards its shadows. -/
  | accept (ga : Reg)
  /-- REJECT (R303): Ends the innermost snapshot and restores its shadowed lines. -/
  | reject (gd ga : Reg)
  /-- SNAPQ (R304): Reads the region's snapshot stack state. -/
  | snapq (gd ga : Reg)
  /-- SHUF (R317): Posts a 2 KiB block to the hub's coding queue for a member. -/
  | shuf (gd ga gb : Reg)
  /-- SIDE (R315): Copies a block into the cupboard and advertises it on the shelf. -/
  | side (gd ga gb : Reg)
  /-- UNSIDE (R316): Removes this member's shelf entry for a block. -/
  | unside (gd gb : Reg)
  /-- DISP (R324): Sends a token row to a member's experts. -/
  | disp (gd ga gb : Reg)
  /-- SHQ (R325): Reads the state of a shuffle group for this member. -/
  | shq (gd ga : Reg)
  /-- BIND (R291): Binds a stream alias to a descriptor. -/
  | bind (ga : Reg) (q : BitVec 3)
  /-- UNBIND (R293): Ends a stream binding. -/
  | unbind (q : BitVec 3)
  /-- CLOSEB (R288): Makes the open copy batch outstanding. -/
  | closeb (gd : Reg)
  /-- WAITB (R288): Closes the open batch and sleeps until at most n batches are outstanding. -/
  | waitb (gd : Reg) (n : BitVec 4)
  /-- SPOS (R294): Reads a stream's binding, direction and position. -/
  | spos (gd : Reg) (q : BitVec 3)
  /-- LAUNCH (R340): Checks and accepts a launch descriptor for the scheduler. -/
  | launch (gd ga : Reg)
  /-- RCREATE (R336): Creates a child region from an RCB image. -/
  | rcreate (gd ga : Reg)
  /-- RBUDGET (R337): Sets one limit of a region. -/
  | rbudget (gd ga gb : Reg)
  /-- RESIDE_REQ (R338): Requests residency of an allowed range and sleeps until it is resident. -/
  | resideReq (gd ga gb : Reg)
  /-- RESIDE_REL (R338): Releases the residency of a range. -/
  | resideRel (gd ga gb : Reg)
  /-- RESIDE_QRY (R338): Reads the state of a residency entry. -/
  | resideQry (gd ga gb : Reg)
  /-- AT (R343): Arms an alarm that posts a message at a domain time. -/
  | atTime (gd ga gb : Reg)
  /-- WAITT (R342): Sleeps until a domain time. -/
  | waitt (gd ga : Reg)
  /-- GANG (R345): Agrees a gang switch of the partition at time T. -/
  | gang (gd ga : Reg)
  /-- RDONE (R347): Ends a region and its subtree. -/
  | rdone (gd ga : Reg)
  /-- CRR (R350): Reads a control register. -/
  | crr (gd : Reg) (cr : BitVec 6)
  /-- CRW (R350): Writes a control register, applying the field access rules. -/
  | crw (ga : Reg) (cr : BitVec 6)
  /-- CRS (R350): Sets bits of a control register and returns the old value. -/
  | crs (gd ga : Reg) (cr : BitVec 6)
  /-- CRC (R350): Clears bits of a control register and returns the old value. -/
  | crc (gd ga : Reg) (cr : BitVec 6)
  /-- TRAP (R359): Raises a chosen cause precisely in the slot. -/
  | trap (ga : Reg) (cc : BitVec 5)
  /-- ERET_SELF (R358): Leaves the handler and re-executes the instruction at EPC. -/
  | eretSelf
  /-- ERET_RESUME (R358): Restarts a parked slot. -/
  | eretResume (gd ga gb : Reg)
  /-- ERET_END (R358): Ends a parked slot's task. -/
  | eretEnd (gd ga : Reg)
  /-- TQPOP (R364): Removes the oldest trap record into local memory. -/
  | tqpop (gd ga : Reg)
  /-- TLBINV_RANGE (R369): Invalidates cached translations of a range at every sharer. -/
  | tlbinvRange (gd ga gb : Reg)
  /-- TLBINV_ALL (R369): Invalidates every cached translation of the device. -/
  | tlbinvAll (gd : Reg)
  /-- TLBINV_REPLAY (R370): Retries or fails a parked remote access. -/
  | tlbinvReplay (gd ga gb : Reg)
  /-- NOP (R38): Does nothing. -/
  | nop
  /-- ENUM (R388): Reads one enumeration table entry. -/
  | enum (gd ga : Reg)
  /-- BKPT (R376): Raises BKPT with the code as TVAL. -/
  | bkpt (code : BitVec 6)
  /-- WATCH (R377): Sets a watchpoint on a byte range for an access kind. -/
  | watch (ga gb : Reg) (kind : BitVec 2) (wp : Bool)
  /-- XTRIG_HALT (R380): Halts a cluster through its debug module. -/
  | xtrigHalt (gd ga : Reg)
  /-- XTRIG_RESUME (R379): Resumes a halted cluster. -/
  | xtrigResume (gd ga : Reg)
  /-- XTRIG_QUERY (R379): Returns the mask of halted clusters. -/
  | xtrigQuery (gd ga : Reg)
  /-- TRACEW_START (R382): Clears the mirror and starts recording. -/
  | tracewStart (gd ga gb : Reg)
  /-- TRACEW_STOP (R382): Stops recording after a number of cycles. -/
  | tracewStop (gd ga gb : Reg)
  /-- TRACEW_DUMP (R382): Writes the mirror image to global memory. -/
  | tracewDump (gd ga gb : Reg)
  /-- FLASH (R383): Arms the device's sampling pulse for time T. -/
  | flash (gd ga gb : Reg)
  /-- HSIFT (R279): Offers an entry to a TCM gating heap. -/
  | hsift (gd ga gb : Reg)
  /-- HTAKE (R280): Removes and returns the worst entry of a gating heap. -/
  | htake (gd ga : Reg)
  /-- KSET (R259): Writes an arrival counter. -/
  | kset (ga : Reg) (kc : BitVec 5)
  /-- KWAIT (R259): Sleeps until an arrival counter reaches a threshold, then acquires. -/
  | kwait (gd ga : Reg) (kc : BitVec 5)
  /-- KREAD (R259): Reads an arrival counter and acquires. -/
  | kread (gd : Reg) (kc : BitVec 5)
  /-- MMA (R253): Matrix multiply accumulating into an accumulator, optionally over a shape record or the ring. -/
  | mma (t : TileWords)
  /-- MMAR (R253): Matrix multiply overwriting an accumulator. -/
  | mmar (t : TileWords)
  /-- ROT (R256): Moves an accumulator to or from memory. -/
  | rot (t : TileWords)
  /-- ZACC (R257): Zeroes the accumulators selected by a mask. -/
  | zacc (t : TileWords)
  /-- TADD (R268): Elementwise tile addition. -/
  | tadd (t : TileWords)
  /-- TSUB (R268): Elementwise tile subtraction. -/
  | tsub (t : TileWords)
  /-- TMUL (R268): Elementwise tile multiplication. -/
  | tmul (t : TileWords)
  /-- TFMA (R268): Elementwise fused multiply-add into c. -/
  | tfma (t : TileWords)
  /-- TMAX (R268): Elementwise maximum. -/
  | tmax (t : TileWords)
  /-- TMIN (R268): Elementwise minimum. -/
  | tmin (t : TileWords)
  /-- TEXP (R269): Correctly rounded e^x per element. -/
  | texp (t : TileWords)
  /-- TRCP (R269): Correctly rounded reciprocal per element. -/
  | trcp (t : TileWords)
  /-- TRSQ (R269): Correctly rounded reciprocal square root per element. -/
  | trsq (t : TileWords)
  /-- TSILU (R269): Correctly rounded SiLU per element. -/
  | tsilu (t : TileWords)
  /-- TGELU (R269): Correctly rounded GELU per element. -/
  | tgelu (t : TileWords)
  /-- TCMP (R270): Elementwise comparison giving an INT8 mask. -/
  | tcmp (t : TileWords)
  /-- TSEL (R270): Writes elements of a where the mask is not zero. -/
  | tsel (t : TileWords)
  /-- TTRN (R271): Transposes a tile, copying element bytes unchanged. -/
  | ttrn (t : TileWords)
  /-- TRED (R272): Reduces rows or columns by sum, max or min. -/
  | tred (t : TileWords)
  /-- TBCAST (R271): Broadcasts row 0 or column 0 of a. -/
  | tbcast (t : TileWords)
  /-- TFILL (R271): Fills a tile with one value. -/
  | tfill (t : TileWords)
  /-- COMBINE (R273): Forms weighted sums of expert output rows per token group. -/
  | combine (t : TileWords)
  /-- LDTAB (R238): Loads the 256-entry decode table. -/
  | ldtab (t : TileWords)
  /-- CVT (R240): Converts a tile element by element between formats. -/
  | cvt (t : TileWords)
  /-- QNT (R243): Quantises under SX8 scales, computing or taking them. -/
  | qnt (t : TileWords)
  /-- DQT (R244): Dequantises codes under SX8 scales. -/
  | dqt (t : TileWords)
  /-- AMAX (R241): Writes FP32 maxima of magnitude per row or tile. -/
  | amax (t : TileWords)
  /-- SCL (R242): Turns maxima into SX8 scale codes. -/
  | scl (t : TileWords)
  /-- COPY (R284): Moves M rows with strides on the cluster copy engine. -/
  | copy (t : TileWords)
  /-- GATHER (R284): Gathers rows by an index list. -/
  | gather (t : TileWords)
  /-- SCATTER (R284): Scatters rows by an index list. -/
  | scatter (t : TileWords)
  /-- COLL (R327): Deterministic tree reduction across ranks. -/
  | coll (t : TileWords)
  /-- ILLEGAL_ENCODING (R55): A slot issues a word that is not an instruction (major 0x00, a reserved major, an unlisted
  selector or a non-zero reserved field) and raises ILLEGAL. -/
  | illegalEncoding (word : W32) (idx : BitVec 3)
  /-- TILE_DISPATCH (R50): An engine at a command boundary scans the queues and starts the next ready command. -/
  | tileDispatch (e : Engine) (unit : Nat)
  /-- TILE_COMPLETION (R48): A command's results are in place, so it bumps its counter and places its message. -/
  | tileCompletion (e : Engine) (unit : Nat)
  /-- COMPLETION_MESSAGE_PLACE (R182): A held completion message is placed once the COMPLETE share has room. -/
  | completionMessagePlace (core : Nat)
  /-- RING_HANDOFF (R255): An injector or consumer hands Bᵀ bytes to its successor's latch once it is empty. -/
  | ringHandoff (core : Nat)
  /-- FETCH_LINE_FILL (R415): A missed instruction line arrives and replaces the slot's fetch buffer. -/
  | fetchLineFill (slot : Nat)
  /-- STREAM_STALL_RESUME (R94): A stalled instruction takes effect once its streams have elements or room. -/
  | streamStallResume (slot : Nat)
  /-- STORE_DRAIN (R122): A store-buffer entry arrives at its home and is applied with a new version. -/
  | storeDrain (core i : Nat)
  /-- REMOTE_STORE_ACCEPT (R122): The receiving device's interface accepts or refuses a remote store. -/
  | remoteStoreAccept (slot : Nat) (ans : Answer)
  /-- HOME_LOAD_REQUEST (R121): A home answers a load or renewal by data or by version match. -/
  | homeLoadRequest (i : Nat)
  /-- LOAD_REPLY (R123): A home's reply reaches the core, fills the cache and completes the load. -/
  | loadReply (src : Src RemoteData)
  /-- LEASE_EXPIRY (R118): A cached line's lease runs out at grant + LEASELEN. -/
  | leaseExpiry (core i : Nat)
  /-- HOME_EVICTION (R116): A home evicts a line to the memory-side cache, invalidating sharers of table lines. -/
  | homeEviction (line : Nat)
  /-- ATOMIC_AT_HOME (R142): An atomic request executes at its home in the location's total order. -/
  | atomicAtHome (i : Nat)
  /-- UPDATE_ENTRY_ARRIVAL (R178): A NOTIFY or RUPD update entry is applied at its home. -/
  | updateEntryArrival (core i : Nat)
  /-- RUPD_COUNT_ADD (R177): The add of an RUPD reaches the counted word's home. -/
  | rupdCountAdd (i : Nat)
  /-- LRW_RESEND (R166): A refused LRW is resent every 64 ns. -/
  | lrwResend (slot : Nat)
  /-- RESERVATION_TIMEOUT (R167): A holder loses its reservation after holding it beyond its WAITLIM. -/
  | reservationTimeout (i : Nat)
  /-- BARD_NOTIFICATION_ARRIVAL (R175): A BARD round notification reaches its slot's interface, or is refused. -/
  | bardNotificationArrival (src : Src BardNote)
  /-- BARD_RESEND (R175): A refused BARD notification is resent every 64 ns. -/
  | bardResend (i : Nat)
  /-- SLEEP_WAKE (R169): A sleeping instruction's wake reply arrives and it completes. -/
  | sleepWake (slot : Nat) (ans : Option Answer)
  /-- WAITLIM_EXPIRY (R169): A sleep reaches start + LIM and the slot sends a withdrawal. -/
  | waitlimExpiry (slot : Nat)
  /-- WITHDRAWAL_RESULT (R169): A withdrawal either fails because the request was satisfied, or removes the waiter and
  raises WAITLONG. -/
  | withdrawalResult (slot : Nat)
  /-- MESSAGE_ARRIVAL (R185): An INBOX message reaches its target and enters the inbox or is discarded on a generation
  mismatch. -/
  | messageArrival (src : Src InboxMsg)
  /-- TASK_START (R189): A TASK message claims a free slot within the region's budget and starts a task. -/
  | taskStart (src : Src TaskMsg)
  /-- TASK_BUDGET_RETEST (R189): A waiting TASK message retests the region's slot budget at least every 64 ns. -/
  | taskBudgetRetest (i : Nat)
  /-- SPAWN_REQUEST_ARRIVAL (R190): A SPAWN reaches its target, which accepts or refuses it at once. -/
  | spawnRequestArrival (i : Nat)
  /-- SPAWN_ANSWER_ARRIVAL (R190): A SPAWN answer reaches the sender and writes its status. -/
  | spawnAnswerArrival (i : Nat)
  /-- MIGRATE_TRANSFER (R195): A moved thread arrives on its new core, which performs ExpireAll and resumes it. -/
  | migrateTransfer (i : Nat)
  /-- YIELD_TIMEOUT (R193): A YIELD reaches its time limit with no entry. -/
  | yieldTimeout (slot : Nat)
  /-- CORE_HOT (R197): The sensor marks a core hot or cool. -/
  | coreHot (core : Nat) (hot : Bool)
  /-- THERMAL_DISPLACEMENT (R197): A hot core displaces one eligible slot at least every 10 µs, or is throttled. -/
  | thermalDisplacement (core : Nat)
  /-- SPARK_TAKE (R216): An idle thunk engine takes a spark and evaluates it or discards it. -/
  | sparkTake (core : Nat)
  /-- SPARK_DROP (R216): Firmware drops sparks from the pool. -/
  | sparkDrop (cluster i : Nat)
  /-- EVAL_WAKE (R212): A wake message reaches a parked evaluation or sleeping slot. -/
  | evalWake (i : Nat)
  /-- FRAME_GRANT (R211): A waiting evaluation takes a frame once one is free. -/
  | frameGrant (ev : Nat)
  /-- EVAL_COMMAND_COMPLETE (R211): An evaluation's command completes and the record becomes VALUE with waiters woken. -/
  | evalCommandComplete (ev : Nat)
  /-- REFERENCE_DROP (R219): The engine drops a freed record's references on its operands. -/
  | referenceDrop (i : Nat)
  /-- SNAP_ANNOUNCE (R299): A home records a new snapshot's range. -/
  | snapAnnounce (seq home : Nat)
  /-- SNAPSHOT_END_ANNOUNCE (R303): A home carries out the end of a snapshot, freeing or restoring its shadows. -/
  | snapshotEndAnnounce (seq home : Nat)
  /-- ADVERTISEMENT_ARRIVAL (R315): The hub accepts or refuses an advertisement onto the shelf. -/
  | advertisementArrival (src : Src Advert)
  /-- SHELF_EXPIRY (R315): The hub drops a shelf entry at its valid-until time. -/
  | shelfExpiry (i : Nat)
  /-- CUPBOARD_EXPIRY (R315): A cupboard entry is freed once its valid-until time passes. -/
  | cupboardExpiry (i : Nat)
  /-- BLOCK_POST_ARRIVAL (R317): A posted block enters the hub's coding queue or is refused. -/
  | blockPostArrival (src : Src Post)
  /-- SHUF_RESEND (R317): A refused SHUF is resent every 64 ns. -/
  | shufResend (slot : Nat)
  /-- CODING_WINDOW_EXPIRY (R318): A queued block reaches Arrived + W and is sent uncoded. -/
  | codingWindowExpiry
  /-- RETRANSMIT_RELEASE (R318): A block leaves the retransmit buffer after its hold time. -/
  | retransmitRelease (i : Nat)
  /-- PACKET_RECEIVE (R319): A receiver decodes a packet and delivers it, or sends a NACK. -/
  | packetReceive (src : Src Packet)
  /-- NACK_ARRIVAL (R320): The hub resends the component uncoded or sends a loss notice. -/
  | nackArrival (src : Src Nack)
  /-- LOSS_NOTICE (R320): A receiver writes a DECODEMISS record and counts the block as lost. -/
  | lossNotice (src : Src Nack)
  /-- CUPBOARD_EVICTION (R321): A forced eviction removes a cupboard entry and its shelf entry. -/
  | cupboardEviction (i : Nat)
  /-- DISPATCH_ARRIVAL (R324): A destination drops invalid mask bits and sends the row to each die named. -/
  | dispatchArrival (src : Src DispRow)
  /-- PLACE (R324): A die places a token row in an expert's slots or counts it in overflow. -/
  | placeRow (i : Nat)
  /-- COLL_TIMEOUT (R327): A COLL whose partners do not arrive completes with WAITLONG. -/
  | collTimeout (i : Nat)
  /-- LAUNCH_PLACEMENT (R340): A held launch whose conditions hold places its tasks, copies local images and writes windows. -/
  | launchPlacement (i : Nat)
  /-- RESIDENCY_GRANT (R338): The scheduler makes a requested range resident, setting st = 2. -/
  | residencyGrant (region entry : Nat)
  /-- RESIDENCY_RELEASE (R338): The scheduler removes a released or revoked lease once the region's accesses complete. -/
  | residencyRelease (region entry : Nat)
  /-- ALARM (R343): An alarm posts its message at time T and is freed. -/
  | alarm (core i : Nat)
  /-- WAITT_WAKE (R342): A WAITT wakes at its time and writes TIME. -/
  | waittWake (slot : Nat)
  /-- GANG_SWITCH_OUT (R346): At T every core stops the outgoing context and saves it in the drawers. -/
  | gangSwitchOut (part : Nat)
  /-- GANG_SWITCH_IN (R346): Once every core has switched out, the incoming context is restored and its messages re-injected. -/
  | gangSwitchIn (part : Nat)
  /-- TRAP_RECORD_APPEND (R360): A trap record reaches the west I/O die and enters the queue or is held, dropped or stops
  the partition. -/
  | trapRecordAppend (i : Nat)
  /-- HELD_RECORD_APPEND (R361): A held precise or replayable record enters the queue when room appears. -/
  | heldRecordAppend (i : Nat)
  /-- REMOTE_ACCESS_ARRIVAL (R370): An access from another device is translated or parked as a replayable XLATE record. -/
  | remoteAccessArrival (a : RemoteAccess)
  /-- XLATE_REPLAY_TIMEOUT (R370): A parked access unresolved after the replay limit fails with XLATE. -/
  | xlateReplayTimeout (i : Nat)
  /-- SHARER_INVALIDATE (R369): A sharer drops walk-cache entries and acknowledges an invalidation. -/
  | sharerInvalidate (reader line : Nat)
  /-- LINE_POISON (R371): An uncorrectable error poisons a line and writes an imprecise POISON record. -/
  | linePoison (line : Nat)
  /-- BUILT_IN_SELF_CHECK (R18): Service cores run the self-check on every core at a firmware interval. -/
  | builtInSelfCheck (core : Nat) (faulty : Bool)
  /-- CORE_FAIL (R18): A live core fails in service, stops, loses its state and is taken over or retired. -/
  | coreFail (core : Nat)
  /-- CLOCK_FAULT (R27): A die's time copy drifts over 8 ns, so leases and advertisements are dropped. -/
  | clockFault (die : Nat)
  /-- DOMAIN_JOIN (R26): A module joining a domain adopts the domain's time. -/
  | domainJoin (dev : BitVec 9) (time : Word)
  /-- POWER_ON (R331): The module resets, creates the root region and sets JBASE. -/
  | powerOn
  /-- LINK_WIDTH_CHANGE (R11): A link that loses lanes drops to half or quarter width. -/
  | linkWidthChange (link : Nat) (width : BitVec 2)
  /-- LINK_LOSS (R387): A link that cannot run at quarter width takes the device out of service. -/
  | linkLoss (link : Nat)
  /-- MODULE_RESET (R387): Host reset retests every link. -/
  | moduleReset (linksRun : Bool)
  /-- MODULE_REMOVAL (R21): A module leaves or joins a running domain. -/
  | moduleRemoval (dev : BitVec 9) (joins : Bool)
  /-- HOST_MEM_WRITE (R90): A host CXL.mem write reaches device memory. -/
  | hostMemWrite (addr : Nat) (bytes : List Byte)
  /-- HOST_LAUNCH (R390): Command LAUNCH checks a launch descriptor against the root and accepts it. -/
  | hostLaunch (cmd : List Byte)
  /-- ALLOW (R390): Command ALLOW writes a residency entry with st = 0. -/
  | allow (cmd : List Byte)
  /-- REVOKE (R390): Command REVOKE sets a residency entry to st = 3. -/
  | revoke (cmd : List Byte)
  /-- END (R390): Command END ends a region as RDONE does. -/
  | endRegion (cmd : List Byte)
  /-- ACKSTOP (R390): Command ACKSTOP acknowledges a partition stop. -/
  | ackstop (cmd : List Byte)
  /-- FWLOAD (R394): Command FWLOAD verifies and accepts a signed firmware image. -/
  | fwload (cmd : List Byte)
  /-- MARK (R390): Command MARK appends a journal entry only. -/
  | markCmd (cmd : List Byte)
  /-- DISCARDED_WRITE (R390): A partial or unaligned write to the command aperture is discarded and counted in DISC. -/
  | discardedWrite
  /-- DISC_CLEAR (R391): A host write to DISC clears it. -/
  | discClear
  /-- POLICY_ACTIVATE (R394): Service cores take up accepted firmware policy at their next policy point. -/
  | policyActivate (p : Policy)
  /-- HGDATA_WRITE (R114): A write to HGDATA completes once every home slice holds the new mask word. -/
  | hgdataWrite (slot : Nat)
  /-- RAF_WRITE (R365): A write to a RAF register completes once every die's copy holds it. -/
  | rafWrite (slot : Nat)
  /-- TQNOTE_WRITE (R363): A write to TQNOTE accepts 0 or a global multiple of 8, and otherwise raises PROT. -/
  | tqnoteWrite (slot : Nat)
  /-- TQSTAT_WRITE (R363): Writing 1 to OVF clears OVF and LOST. -/
  | tqstatWrite (slot : Nat)
  /-- TRACE_STOP (R382): The mirror stops recording when a delayed stop count runs out. -/
  | traceStop (cluster : Nat)
  /-- FLASH_PULSE (R384): At T every core latches slot state and the trace unit writes the records, then notifies. -/
  | flashPulse
  /-- CLOCK_FAULT_CLEAR (R27): A die's time copy comes back within 1 ns of the reference, and the device again takes timed
  launches, gang agreements and flashes. -/
  | clockFaultClear (die : Nat)
  /-- MATRIX_BLOCK_END (R254): A multi-block shape-record MMA finishes one 32-row block and starts the next, reading the
  rows word afresh with an acquire. -/
  | matrixBlockEnd (core : Nat)
  /-- PARTIAL_RESULT_ARRIVAL (R327): A partner rank's partial FP32 result reaches this rank's staging area and the
  collective tree proceeds at that node. -/
  | partialResultArrival (p : Partial)
  /-- UNCORRECTABLE_ERROR (R371): An uncorrectable error strikes state without a poison bit outside a failed core, such as a
  directory or a sharer bitmap, and appends a fatal FATALHW record or marks every sharer bit set. -/
  | uncorrectableError (u : ErrorSite)
  /-- OTHER_OP_COMMAND (R390): An aligned 64-byte command write with an unlisted op is refused with code 1 into the refusal
  ring. -/
  | otherOpCommand (cmd : List Byte)
  deriving DecidableEq, Repr

end Sys2Proof
end

