-- ==== Sys2Proof/WellFormed.lean ====
section
/-! DEFINITION. Which terms of Instr are instructions: the rules of R36, R39, R40, R41, R125 and R177 that the
fields' widths do not already hold, and the shape of a command of the command port (R390). Fields that an
instruction checks when it executes (scopes, the static checks of a tile command, control register numbers) are
not here: breaking those is a fault of the instruction, not an ill-formed term. -/

namespace Sys2Proof

/-- Bits lo + len - 1 to lo of an instruction word (R3). -/
def bitsOf (w : W32) (lo len : Nat) : BitVec len := w.extractLsb' lo len

/-- w0 of a tile command names this engine and op (R40, R41). -/
def TileWords.isOp (t : TileWords) (engine : BitVec 4) (op : BitVec 8) : Bool :=
  bitsOf t.w0 26 6 == 0x3F#6 && bitsOf t.w0 22 4 == engine && bitsOf t.w0 14 8 == op

/-- A register pair of LDQ and STQ is even and not g0 (R125). -/
def pairOk (gd : Reg) : Bool := gd != 0#5 && bitsOf (gd.zeroExtend 32) 0 1 == 0#1

/-- A write to the command aperture that is one whole command with this op (R390). -/
def isCommand (cmd : List Byte) (op : Byte) : Bool := cmd.length == 64 && cmd.head? == some op

/-- The ops of R390 that are listed. -/
def listedOp (b : Byte) : Bool := 1#8 ≤ b && b ≤ 7#8

/-- The check of every constructor; most fields are of the width the word gives them and need none. -/
def WellFormed : Instr → Bool
  | .ldu _ _ w _ => w != 3#2
  | .ldq gd _ flags _ => pairOk gd && flags != 3#2
  | .stq gd _ flags _ => pairOk gd && flags != 3#2
  | .rupd _ _ _ _ op => op.toNat < 6
  | .mma t => t.isOp 0 0x00
  | .mmar t => t.isOp 0 0x01
  | .rot t => t.isOp 0 0x02
  | .zacc t => t.isOp 0 0x03
  | .tadd t => t.isOp 1 0x00
  | .tsub t => t.isOp 1 0x01
  | .tmul t => t.isOp 1 0x02
  | .tfma t => t.isOp 1 0x03
  | .tmax t => t.isOp 1 0x04
  | .tmin t => t.isOp 1 0x05
  | .texp t => t.isOp 1 0x06
  | .trcp t => t.isOp 1 0x07
  | .trsq t => t.isOp 1 0x08
  | .tsilu t => t.isOp 1 0x09
  | .tgelu t => t.isOp 1 0x0A
  | .tcmp t => t.isOp 1 0x0B
  | .tsel t => t.isOp 1 0x0C
  | .ttrn t => t.isOp 1 0x0D
  | .tred t => t.isOp 1 0x0E
  | .tbcast t => t.isOp 1 0x0F
  | .tfill t => t.isOp 1 0x10
  | .combine t => t.isOp 1 0x11
  | .ldtab t => t.isOp 2 0x00
  | .cvt t => t.isOp 2 0x01
  | .qnt t => t.isOp 2 0x02
  | .dqt t => t.isOp 2 0x03
  | .amax t => t.isOp 2 0x04
  | .scl t => t.isOp 2 0x05
  | .copy t => t.isOp 3 0x00
  | .gather t => t.isOp 3 0x01
  | .scatter t => t.isOp 3 0x02
  | .coll t => t.isOp 4 0x00
  | .hostLaunch cmd => isCommand cmd 1#8
  | .allow cmd => isCommand cmd 2#8
  | .revoke cmd => isCommand cmd 3#8
  | .endRegion cmd => isCommand cmd 4#8
  | .ackstop cmd => isCommand cmd 5#8
  | .fwload cmd => isCommand cmd 6#8
  | .markCmd cmd => isCommand cmd 7#8
  | .otherOpCommand cmd => cmd.length == 64 && !(listedOp (cmd.headD 0))
  | _ => true

end Sys2Proof
end

