-- ==== Sys2Proof/Decode.lean ====
section
/-! DEFINITION. The decoder, total on any bytes (R32 to R43, R55, R145, R148, R163), and after it the encoder,
written from the same encoding tables. A word that is not an instruction is rejected by name; the machine then
takes ILLEGAL for it (R55). -/

namespace Sys2Proof

/-- Why bytes are no instruction (R55). -/
inductive Reject where
  /-- Fewer bytes than the instruction has. -/
  | tooShort
  /-- Major 0x00 or a major that R37 marks with a dash. -/
  | reservedMajor
  /-- A selector that R38 or R39 does not list. -/
  | unlistedSelector
  /-- A form, kind or op in the member bits that the entry does not list. -/
  | unlistedForm
  /-- A reserved field or reserved bit that is not zero (R9). -/
  | reservedField
  /-- A size or flags combination of R36 or R39 that is reserved, or a bad register pair (R125). -/
  | reservedSize
  /-- Engine 5 to 15 (R40). -/
  | reservedEngine
  /-- An op that R41 does not list for its engine. -/
  | unlistedOp
  deriving DecidableEq, Repr

/-- The major opcode, bits 31:26 (R34). -/
def fMaj (w : W32) : BitVec 6 := bitsOf w 26 6

/-- gd, bits 25:21 (R34). -/
def fGd (w : W32) : Reg := bitsOf w 21 5

/-- ga, bits 20:16 (R34); the first field of a B word stands at 25:21, see fGd. -/
def fGa (w : W32) : Reg := bitsOf w 16 5

/-- gb, bits 15:11 (R34). -/
def fGb (w : W32) : Reg := bitsOf w 11 5

/-- The selector of an R word, fn bits 10:6 (R38). -/
def fSel (w : W32) : BitVec 5 := bitsOf w 6 5

/-- The instruction, where its reserved fields are zero (R9). -/
def need (ok : Bool) (i : Instr) : Except Reject Instr := if ok then .ok i else .error .reservedField

/-- The instruction, where its size and flags are not reserved (R36, R39). -/
def needSize (ok : Bool) (i : Instr) : Except Reject Instr := if ok then .ok i else .error .reservedSize

/-- The members of major 0x01 by their selector (R38). -/
def decodeInt (w : W32) : Except Reject Instr :=
  match (fSel w).toNat with
  | 0 => need (bitsOf w 0 6 == 0) (.add (fGd w) (fGa w) (fGb w))
  | 1 => need (bitsOf w 0 6 == 0) (.sub (fGd w) (fGa w) (fGb w))
  | 2 => need (bitsOf w 0 6 == 0) (.and (fGd w) (fGa w) (fGb w))
  | 3 => need (bitsOf w 0 6 == 0) (.or (fGd w) (fGa w) (fGb w))
  | 4 => need (bitsOf w 0 6 == 0) (.xor (fGd w) (fGa w) (fGb w))
  | 5 => need (bitsOf w 0 6 == 0) (.andn (fGd w) (fGa w) (fGb w))
  | 6 => need (bitsOf w 0 6 == 0) (.sll (fGd w) (fGa w) (fGb w))
  | 7 => need (bitsOf w 0 6 == 0) (.srl (fGd w) (fGa w) (fGb w))
  | 8 => need (bitsOf w 0 6 == 0) (.sra (fGd w) (fGa w) (fGb w))
  | 9 => need (bitsOf w 0 6 == 0) (.rol (fGd w) (fGa w) (fGb w))
  | 10 => need (bitsOf w 0 6 == 0) (.min (fGd w) (fGa w) (fGb w))
  | 11 => need (bitsOf w 0 6 == 0) (.max (fGd w) (fGa w) (fGb w))
  | 12 => need (bitsOf w 0 6 == 0) (.minu (fGd w) (fGa w) (fGb w))
  | 13 => need (bitsOf w 0 6 == 0) (.maxu (fGd w) (fGa w) (fGb w))
  | 14 => need (bitsOf w 0 6 == 0) (.slt (fGd w) (fGa w) (fGb w))
  | 15 => need (bitsOf w 0 6 == 0) (.sltu (fGd w) (fGa w) (fGb w))
  | 16 => need (bitsOf w 0 6 == 0) (.seq (fGd w) (fGa w) (fGb w))
  | 17 => need (bitsOf w 0 6 == 0) (.sel (fGd w) (fGa w) (fGb w))
  | 18 => need (fGb w == 0 && bitsOf w 0 6 == 0) (.clz (fGd w) (fGa w))
  | 19 => need (fGb w == 0 && bitsOf w 0 6 == 0) (.ctz (fGd w) (fGa w))
  | 20 => need (fGb w == 0 && bitsOf w 0 6 == 0) (.popc (fGd w) (fGa w))
  | 21 => need (fGb w == 0 && bitsOf w 0 6 == 0) (.bswap (fGd w) (fGa w))
  | 22 => need (fGb w == 0 && bitsOf w 0 6 == 0) (.sextb (fGd w) (fGa w))
  | 23 => need (fGb w == 0 && bitsOf w 0 6 == 0) (.sexth (fGd w) (fGa w))
  | 24 => need (fGb w == 0 && bitsOf w 0 6 == 0) (.sextw (fGd w) (fGa w))
  | 25 => need (fGb w == 0 && bitsOf w 0 6 == 0) (.zextw (fGd w) (fGa w))
  | _ => .error .unlistedSelector

/-- The members of major 0x0A by their selector (R38). -/
def decodeMuldiv (w : W32) : Except Reject Instr :=
  match (fSel w).toNat with
  | 0 => need (bitsOf w 0 6 == 0) (.mul (fGd w) (fGa w) (fGb w))
  | 1 => need (bitsOf w 0 6 == 0) (.mulh (fGd w) (fGa w) (fGb w))
  | 2 => need (bitsOf w 0 6 == 0) (.mulhu (fGd w) (fGa w) (fGb w))
  | 3 => need (bitsOf w 0 6 == 0) (.div (fGd w) (fGa w) (fGb w))
  | 4 => need (bitsOf w 0 6 == 0) (.divu (fGd w) (fGa w) (fGb w))
  | 5 => need (bitsOf w 0 6 == 0) (.rem (fGd w) (fGa w) (fGb w))
  | 6 => need (bitsOf w 0 6 == 0) (.remu (fGd w) (fGa w) (fGb w))
  | _ => .error .unlistedSelector

/-- The members of major 0x0B by their selector (R38). -/
def decodeFp (w : W32) : Except Reject Instr :=
  match (fSel w).toNat with
  | 0 => need (bitsOf w 0 6 == 0) (.fadd (fGd w) (fGa w) (fGb w))
  | 1 => need (bitsOf w 0 6 == 0) (.fsub (fGd w) (fGa w) (fGb w))
  | 2 => need (bitsOf w 0 6 == 0) (.fmul (fGd w) (fGa w) (fGb w))
  | 3 => need (bitsOf w 0 6 == 0) (.ffma (fGd w) (fGa w) (fGb w))
  | 4 => need (bitsOf w 0 6 == 0) (.fmin (fGd w) (fGa w) (fGb w))
  | 5 => need (bitsOf w 0 6 == 0) (.fmax (fGd w) (fGa w) (fGb w))
  | 6 => need (bitsOf w 2 4 == 0) (.fcmp (fGd w) (fGa w) (fGb w) (bitsOf w 0 2))
  | 7 => need (fGb w == 0 && bitsOf w 1 5 == 0) (.fcvtif (fGd w) (fGa w) (bitsOf w 0 1 == 1#1))
  | 8 => need (fGb w == 0 && bitsOf w 1 5 == 0) (.fcvtfi (fGd w) (fGa w) (bitsOf w 0 1 == 1#1))
  | 9 => need (fGb w == 0 && bitsOf w 0 6 == 0) (.fneg (fGd w) (fGa w))
  | _ => .error .unlistedSelector

/-- The members of major 0x24 by their selector (R38). -/
def decodeLease (w : W32) : Except Reject Instr :=
  match (fSel w).toNat with
  | 0 => need (fGd w == 0 && fGb w == 0 && bitsOf w 0 6 == 0) (.renew (fGa w))
  | 1 => need (fGd w == 0 && fGb w == 0 && bitsOf w 0 6 == 0) (.drop (fGa w))
  | 2 => need (fGd w == 0 && bitsOf w 0 6 == 0) (.prune (fGa w) (fGb w))
  | 3 => need (fGd w == 0 && fGb w == 0 && bitsOf w 0 6 == 0) (.pref (fGa w))
  | _ => .error .unlistedSelector

/-- The members of major 0x26 by their selector (R38). -/
def decodeAmo (w : W32) : Except Reject Instr :=
  match (fSel w).toNat with
  | 0 => need (true) (.amoAdd (fGd w) (fGa w) (fGb w) (bitsOf w 3 3) (bitsOf w 1 2) (bitsOf w 0 1 == 1#1))
  | 1 => need (true) (.amoAnd (fGd w) (fGa w) (fGb w) (bitsOf w 3 3) (bitsOf w 1 2) (bitsOf w 0 1 == 1#1))
  | 2 => need (true) (.amoOr (fGd w) (fGa w) (fGb w) (bitsOf w 3 3) (bitsOf w 1 2) (bitsOf w 0 1 == 1#1))
  | 3 => need (true) (.amoXor (fGd w) (fGa w) (fGb w) (bitsOf w 3 3) (bitsOf w 1 2) (bitsOf w 0 1 == 1#1))
  | 4 => need (true) (.amoMin (fGd w) (fGa w) (fGb w) (bitsOf w 3 3) (bitsOf w 1 2) (bitsOf w 0 1 == 1#1))
  | 5 => need (true) (.amoMax (fGd w) (fGa w) (fGb w) (bitsOf w 3 3) (bitsOf w 1 2) (bitsOf w 0 1 == 1#1))
  | 6 => need (true) (.amoMinu (fGd w) (fGa w) (fGb w) (bitsOf w 3 3) (bitsOf w 1 2) (bitsOf w 0 1 == 1#1))
  | 7 => need (true) (.amoMaxu (fGd w) (fGa w) (fGb w) (bitsOf w 3 3) (bitsOf w 1 2) (bitsOf w 0 1 == 1#1))
  | 8 => need (true) (.amoSwap (fGd w) (fGa w) (fGb w) (bitsOf w 3 3) (bitsOf w 1 2) (bitsOf w 0 1 == 1#1))
  | 9 => need (bitsOf w 0 1 == 0) (.amoFadd (fGd w) (fGa w) (fGb w) (bitsOf w 3 3) (bitsOf w 1 2))
  | _ => .error .unlistedSelector

/-- The members of major 0x28 by their selector (R38). -/
def decodeQres (w : W32) : Except Reject Instr :=
  match (fSel w).toNat with
  | 0 => need (fGb w == 0 && bitsOf w 1 2 == 0) (.lrw (fGd w) (fGa w) (bitsOf w 3 3) (bitsOf w 0 1 == 1#1))
  | 1 => need (bitsOf w 1 2 == 0) (.sch (fGd w) (fGa w) (fGb w) (bitsOf w 3 3) (bitsOf w 0 1 == 1#1))
  | _ => .error .unlistedSelector

/-- The members of major 0x29 by their selector (R38). -/
def decodeFe (w : W32) : Except Reject Instr :=
  match (fSel w).toNat with
  | 0 => need (fGb w == 0 && bitsOf w 0 6 == 0) (.ldfe (fGd w) (fGa w))
  | 1 => need (fGb w == 0 && bitsOf w 0 6 == 0) (.ldff (fGd w) (fGa w))
  | 2 => need (fGd w == 0 && bitsOf w 0 6 == 0) (.stef (fGa w) (fGb w))
  | 3 => need (fGd w == 0 && fGb w == 0 && bitsOf w 0 6 == 0) (.sete (fGa w))
  | _ => .error .unlistedSelector

/-- The members of major 0x2A by their selector (R38). -/
def decodeBar (w : W32) : Except Reject Instr :=
  match (fSel w).toNat with
  | 0 => need (bitsOf w 0 3 == 0) (.arrive (fGd w) (fGa w) (fGb w) (bitsOf w 3 3))
  | 1 => need (fGd w == 0 && bitsOf w 0 3 == 0) (.waitph (fGa w) (fGb w) (bitsOf w 3 3))
  | 2 => need (bitsOf w 0 3 == 0) (.bard (fGd w) (fGa w) (fGb w) (bitsOf w 3 3))
  | _ => .error .unlistedSelector

/-- The members of major 0x2B by their selector (R38). -/
def decodeCnt (w : W32) : Except Reject Instr :=
  match (fSel w).toNat with
  | 0 => need (bitsOf w 0 3 == 0) (.waitcnt (fGd w) (fGa w) (fGb w) (bitsOf w 3 3))
  | 1 => need (fGd w == 0 && bitsOf w 0 3 == 0) (.notify (fGa w) (fGb w) (bitsOf w 3 3))
  | 2 => need ((bitsOf w 0 3).toNat < 6) (.rupd (fGd w) (fGa w) (fGb w) (bitsOf w 3 3) (bitsOf w 0 3))
  | _ => .error .unlistedSelector

/-- The members of major 0x30 by their selector (R38). -/
def decodeMsg (w : W32) : Except Reject Instr :=
  match (fSel w).toNat with
  | 0 => need (bitsOf w 0 3 == 0) (.send (fGd w) (fGa w) (fGb w) (bitsOf w 3 3))
  | 1 => need (bitsOf w 0 3 == 0) (.spawn (fGd w) (fGa w) (fGb w) (bitsOf w 3 3))
  | 2 => need (fGb w == 0 && bitsOf w 0 6 == 0) (.recv (fGd w) (fGa w))
  | 3 => need (fGa w == 0 && fGb w == 0 && bitsOf w 0 6 == 0) (.peek (fGd w))
  | 4 => need (fGb w == 0 && bitsOf w 0 6 == 0) (.migrate (fGd w) (fGa w))
  | 5 => need (fGb w == 0 && bitsOf w 0 6 == 0) (.yield (fGd w) (fGa w))
  | 6 => need (fGd w == 0 && fGa w == 0 && fGb w == 0 && bitsOf w 0 6 == 0) (.exit)
  | 7 => need (fGa w == 0 && fGb w == 0 && bitsOf w 0 6 == 0) (.slotq (fGd w))
  | _ => .error .unlistedSelector

/-- The members of major 0x31 by their selector (R38). -/
def decodeThunk (w : W32) : Except Reject Instr :=
  match (fSel w).toNat with
  | 0 => need (fGb w == 0 && bitsOf w 0 6 == 0) (.suspend (fGd w) (fGa w))
  | 1 => need (fGb w == 0 && bitsOf w 0 6 == 0) (.force (fGd w) (fGa w))
  | 2 => need (fGb w == 0 && bitsOf w 0 6 == 0) (.fpoll (fGd w) (fGa w))
  | 3 => need (fGb w == 0 && bitsOf w 0 6 == 0) (.spark (fGd w) (fGa w))
  | 4 => need (fGd w == 0 && fGb w == 0 && bitsOf w 0 6 == 0) (.retain (fGa w))
  | 5 => need (fGd w == 0 && fGb w == 0 && bitsOf w 0 6 == 0) (.release (fGa w))
  | 6 => need (fGb w == 0 && bitsOf w 0 6 == 0) (.mkval (fGd w) (fGa w))
  | 7 => need (fGb w == 0 && bitsOf w 0 6 == 0) (.hstate (fGd w) (fGa w))
  | _ => .error .unlistedSelector

/-- The members of major 0x32 by their selector (R38). -/
def decodeSnapshot (w : W32) : Except Reject Instr :=
  match (fSel w).toNat with
  | 0 => need (bitsOf w 0 6 == 0) (.snap (fGd w) (fGa w) (fGb w))
  | 1 => need (fGd w == 0 && fGb w == 0 && bitsOf w 0 6 == 0) (.accept (fGa w))
  | 2 => need (fGb w == 0 && bitsOf w 0 6 == 0) (.reject (fGd w) (fGa w))
  | 3 => need (fGb w == 0 && bitsOf w 0 6 == 0) (.snapq (fGd w) (fGa w))
  | _ => .error .unlistedSelector

/-- The members of major 0x33 by their selector (R38). -/
def decodeShuffle (w : W32) : Except Reject Instr :=
  match (fSel w).toNat with
  | 0 => need (bitsOf w 0 6 == 0) (.shuf (fGd w) (fGa w) (fGb w))
  | 1 => need (bitsOf w 0 6 == 0) (.side (fGd w) (fGa w) (fGb w))
  | 2 => need (fGa w == 0 && bitsOf w 0 6 == 0) (.unside (fGd w) (fGb w))
  | 3 => need (bitsOf w 0 6 == 0) (.disp (fGd w) (fGa w) (fGb w))
  | 4 => need (fGb w == 0 && bitsOf w 0 6 == 0) (.shq (fGd w) (fGa w))
  | _ => .error .unlistedSelector

/-- The members of major 0x34 by their selector (R38). -/
def decodeStream (w : W32) : Except Reject Instr :=
  match (fSel w).toNat with
  | 0 => need (fGd w == 0 && fGb w == 0 && bitsOf w 3 3 == 0) (.bind (fGa w) (bitsOf w 0 3))
  | 1 => need (fGd w == 0 && fGa w == 0 && fGb w == 0 && bitsOf w 3 3 == 0) (.unbind (bitsOf w 0 3))
  | 2 => need (fGa w == 0 && fGb w == 0 && bitsOf w 0 6 == 0) (.closeb (fGd w))
  | 3 => need (fGa w == 0 && fGb w == 0 && bitsOf w 4 2 == 0) (.waitb (fGd w) (bitsOf w 0 4))
  | 4 => need (fGa w == 0 && fGb w == 0 && bitsOf w 3 3 == 0) (.spos (fGd w) (bitsOf w 0 3))
  | _ => .error .unlistedSelector

/-- The members of major 0x35 by their selector (R38). -/
def decodeRegion (w : W32) : Except Reject Instr :=
  match (fSel w).toNat with
  | 0 => need (fGb w == 0 && bitsOf w 0 6 == 0) (.launch (fGd w) (fGa w))
  | 1 => need (fGb w == 0 && bitsOf w 0 6 == 0) (.rcreate (fGd w) (fGa w))
  | 2 => need (bitsOf w 0 6 == 0) (.rbudget (fGd w) (fGa w) (fGb w))
  | 3 =>
    match (bitsOf w 0 2).toNat with
    | 0 => need (bitsOf w 2 4 == 0) (.resideReq (fGd w) (fGa w) (fGb w))
    | 1 => need (bitsOf w 2 4 == 0) (.resideRel (fGd w) (fGa w) (fGb w))
    | 2 => need (bitsOf w 2 4 == 0) (.resideQry (fGd w) (fGa w) (fGb w))
    | _ => .error .unlistedForm
  | 4 => need (bitsOf w 0 6 == 0) (.atTime (fGd w) (fGa w) (fGb w))
  | 5 => need (fGb w == 0 && bitsOf w 0 6 == 0) (.waitt (fGd w) (fGa w))
  | 6 => need (fGb w == 0 && bitsOf w 0 6 == 0) (.gang (fGd w) (fGa w))
  | 7 => need (fGb w == 0 && bitsOf w 0 6 == 0) (.rdone (fGd w) (fGa w))
  | _ => .error .unlistedSelector

/-- The members of major 0x36 by their selector (R38). -/
def decodeSys (w : W32) : Except Reject Instr :=
  match (fSel w).toNat with
  | 0 => need (fGa w == 0 && fGb w == 0) (.crr (fGd w) (bitsOf w 0 6))
  | 1 => need (fGd w == 0 && fGb w == 0) (.crw (fGa w) (bitsOf w 0 6))
  | 2 => need (fGb w == 0) (.crs (fGd w) (fGa w) (bitsOf w 0 6))
  | 3 => need (fGb w == 0) (.crc (fGd w) (fGa w) (bitsOf w 0 6))
  | 4 => need (fGd w == 0 && fGb w == 0 && bitsOf w 5 1 == 0) (.trap (fGa w) (bitsOf w 0 5))
  | 5 =>
    match (bitsOf w 0 2).toNat with
    | 0 => need (fGd w == 0 && fGa w == 0 && fGb w == 0 && bitsOf w 2 4 == 0) (.eretSelf)
    | 1 => need (bitsOf w 2 4 == 0) (.eretResume (fGd w) (fGa w) (fGb w))
    | 2 => need (fGb w == 0 && bitsOf w 2 4 == 0) (.eretEnd (fGd w) (fGa w))
    | _ => .error .unlistedForm
  | 6 => need (fGb w == 0 && bitsOf w 0 6 == 0) (.tqpop (fGd w) (fGa w))
  | 7 =>
    match (bitsOf w 0 2).toNat with
    | 0 => need (bitsOf w 2 4 == 0) (.tlbinvRange (fGd w) (fGa w) (fGb w))
    | 1 => need (fGa w == 0 && fGb w == 0 && bitsOf w 2 4 == 0) (.tlbinvAll (fGd w))
    | 2 => need (bitsOf w 2 4 == 0) (.tlbinvReplay (fGd w) (fGa w) (fGb w))
    | _ => .error .unlistedForm
  | 8 => need (fGd w == 0 && fGa w == 0 && fGb w == 0 && bitsOf w 0 6 == 0) (.nop)
  | 9 => need (fGb w == 0 && bitsOf w 0 6 == 0) (.enum (fGd w) (fGa w))
  | _ => .error .unlistedSelector

/-- The members of major 0x37 by their selector (R38). -/
def decodeDebug (w : W32) : Except Reject Instr :=
  match (fSel w).toNat with
  | 0 => need (fGd w == 0 && fGa w == 0 && fGb w == 0) (.bkpt (bitsOf w 0 6))
  | 1 => need (fGd w == 0 && bitsOf w 3 3 == 0) (.watch (fGa w) (fGb w) (bitsOf w 1 2) (bitsOf w 0 1 == 1#1))
  | 2 =>
    match (bitsOf w 0 2).toNat with
    | 0 => need (fGb w == 0 && bitsOf w 2 4 == 0) (.xtrigHalt (fGd w) (fGa w))
    | 1 => need (fGb w == 0 && bitsOf w 2 4 == 0) (.xtrigResume (fGd w) (fGa w))
    | 2 => need (fGb w == 0 && bitsOf w 2 4 == 0) (.xtrigQuery (fGd w) (fGa w))
    | _ => .error .unlistedForm
  | 3 =>
    match (bitsOf w 0 2).toNat with
    | 0 => need (bitsOf w 2 4 == 0) (.tracewStart (fGd w) (fGa w) (fGb w))
    | 1 => need (bitsOf w 2 4 == 0) (.tracewStop (fGd w) (fGa w) (fGb w))
    | 2 => need (bitsOf w 2 4 == 0) (.tracewDump (fGd w) (fGa w) (fGb w))
    | _ => .error .unlistedForm
  | 4 => need (bitsOf w 0 6 == 0) (.flash (fGd w) (fGa w) (fGb w))
  | _ => .error .unlistedSelector

/-- The members of major 0x38 by their selector (R38). -/
def decodeHeapk (w : W32) : Except Reject Instr :=
  match (fSel w).toNat with
  | 0 => need (bitsOf w 0 6 == 0) (.hsift (fGd w) (fGa w) (fGb w))
  | 1 => need (fGb w == 0 && bitsOf w 0 6 == 0) (.htake (fGd w) (fGa w))
  | 2 => need (fGd w == 0 && fGb w == 0 && bitsOf w 5 1 == 0) (.kset (fGa w) (bitsOf w 0 5))
  | 3 => need (fGb w == 0 && bitsOf w 5 1 == 0) (.kwait (fGd w) (fGa w) (bitsOf w 0 5))
  | 4 => need (fGa w == 0 && fGb w == 0 && bitsOf w 5 1 == 0) (.kread (fGd w) (bitsOf w 0 5))
  | _ => .error .unlistedSelector

/-- SHI: the selector in imm16 bits 15:14, bits 13:6 reserved (R39). -/
def decodeShi (w : W32) : Except Reject Instr :=
  match (bitsOf w 14 2).toNat with
  | 0 => need (bitsOf w 6 8 == 0) (.slli (fGd w) (fGa w) (bitsOf w 0 6))
  | 1 => need (bitsOf w 6 8 == 0) (.srli (fGd w) (fGa w) (bitsOf w 0 6))
  | 2 => need (bitsOf w 6 8 == 0) (.srai (fGd w) (fGa w) (bitsOf w 0 6))
  | _ => .error .unlistedSelector

/-- SETI: the selector in imm16 bit 15 (R39). -/
def decodeSeti (w : W32) : Except Reject Instr :=
  match (bitsOf w 15 1).toNat with
  | 0 => .ok (.slti (fGd w) (fGa w) (bitsOf w 0 15))
  | _ => .ok (.sltiu (fGd w) (fGa w) (bitsOf w 0 15))

/-- LD, LDU and LD with .A8 (R36). -/
def decodeLd (w : W32) : Except Reject Instr :=
  match (bitsOf w 11 2).toNat, (bitsOf w 15 1).toNat with
  | 0, 0 => .ok (.ld (fGd w) (fGa w) (bitsOf w 13 2) (bitsOf w 0 11))
  | 0, _ => needSize (bitsOf w 13 2 != 3) (.ldu (fGd w) (fGa w) (bitsOf w 13 2) (bitsOf w 0 11))
  | 1, 0 => needSize (bitsOf w 13 2 == 3) (.ldA8 (fGd w) (fGa w) (bitsOf w 0 11))
  | _, _ => .error .reservedSize

/-- ST and ST with .A8 (R36). -/
def decodeSt (w : W32) : Except Reject Instr :=
  match (bitsOf w 11 2).toNat, (bitsOf w 15 1).toNat with
  | 0, 0 => .ok (.st (fGd w) (fGa w) (bitsOf w 13 2) (bitsOf w 0 11))
  | 1, 0 => needSize (bitsOf w 13 2 == 3) (.stA8 (fGd w) (fGa w) (bitsOf w 0 11))
  | _, _ => .error .reservedSize

/-- LDQ and STQ: the size field selects, the pair is even and not g0 (R39, R125). -/
def decodeMemq (w : W32) : Except Reject Instr :=
  match (bitsOf w 13 3).toNat with
  | 0 => needSize (pairOk (fGd w) && bitsOf w 11 2 != 3) (.ldq (fGd w) (fGa w) (bitsOf w 11 2) (bitsOf w 0 11))
  | 1 => needSize (pairOk (fGd w) && bitsOf w 11 2 != 3) (.stq (fGd w) (fGa w) (bitsOf w 11 2) (bitsOf w 0 11))
  | _ => .error .unlistedSelector

/-- FENCE: scope in fn 10:8, kind in fn 1:0, kind 0 illegal (R148). -/
def decodeFence (w : W32) : Except Reject Instr :=
  let clear := fGd w == 0 && fGa w == 0 && fGb w == 0 && bitsOf w 2 6 == 0
  match (bitsOf w 0 2).toNat with
  | 1 => need clear (.fenceAcq (bitsOf w 8 3))
  | 2 => need clear (.fenceRel (bitsOf w 8 3))
  | 3 => need clear (.fenceFull (bitsOf w 8 3))
  | _ => .error .unlistedForm

/-- CAS: the fields of R163; a failure order of 2 or 3 is illegal. -/
def decodeCas (w : W32) : Except Reject Instr :=
  need (bitsOf w 0 3 == 0 && bitsOf w 5 1 == 0)
    (.cas (fGd w) (fGa w) (fGb w) (bitsOf w 8 3) (bitsOf w 6 2) (bitsOf w 4 1 == 1#1) (bitsOf w 3 1 == 1#1))

/-- A scalar word: the major fixes the format (R37). -/
def decodeScalar (w : W32) : Except Reject Instr :=
  match (fMaj w).toNat with
  | 0x01 => decodeInt w
  | 0x0A => decodeMuldiv w
  | 0x0B => decodeFp w
  | 0x24 => decodeLease w
  | 0x26 => decodeAmo w
  | 0x28 => decodeQres w
  | 0x29 => decodeFe w
  | 0x2A => decodeBar w
  | 0x2B => decodeCnt w
  | 0x30 => decodeMsg w
  | 0x31 => decodeThunk w
  | 0x32 => decodeSnapshot w
  | 0x33 => decodeShuffle w
  | 0x34 => decodeStream w
  | 0x35 => decodeRegion w
  | 0x36 => decodeSys w
  | 0x37 => decodeDebug w
  | 0x38 => decodeHeapk w
  | 0x02 => .ok (.addi (fGd w) (fGa w) (bitsOf w 0 16))
  | 0x03 => .ok (.andi (fGd w) (fGa w) (bitsOf w 0 16))
  | 0x04 => .ok (.ori (fGd w) (fGa w) (bitsOf w 0 16))
  | 0x05 => .ok (.xori (fGd w) (fGa w) (bitsOf w 0 16))
  | 0x06 => decodeShi w
  | 0x07 => decodeSeti w
  | 0x08 => .ok (.lui (fGd w) (bitsOf w 0 21))
  | 0x09 => .ok (.adpc (fGd w) (bitsOf w 0 21))
  | 0x10 => .ok (.beq (fGd w) (fGa w) (bitsOf w 0 16))
  | 0x11 => .ok (.bne (fGd w) (fGa w) (bitsOf w 0 16))
  | 0x12 => .ok (.blt (fGd w) (fGa w) (bitsOf w 0 16))
  | 0x13 => .ok (.bge (fGd w) (fGa w) (bitsOf w 0 16))
  | 0x14 => .ok (.bltu (fGd w) (fGa w) (bitsOf w 0 16))
  | 0x15 => .ok (.bgeu (fGd w) (fGa w) (bitsOf w 0 16))
  | 0x16 => .ok (.jmp (bitsOf w 0 26))
  | 0x17 => .ok (.call (bitsOf w 0 26))
  | 0x18 => need (bitsOf w 0 16 == 0) (.jr (fGd w) (fGa w))
  | 0x20 => decodeLd w
  | 0x21 => decodeSt w
  | 0x22 => .ok (.ldacq (fGd w) (fGa w) (bitsOf w 13 3) (bitsOf w 11 2) (bitsOf w 0 11))
  | 0x23 => .ok (.strel (fGd w) (fGa w) (bitsOf w 13 3) (bitsOf w 11 2) (bitsOf w 0 11))
  | 0x25 => decodeFence w
  | 0x27 => decodeCas w
  | 0x2C => decodeMemq w
  | _ => .error .reservedMajor

/-- A tile command: engine and op of w0 name the constructor (R40, R41). Its other static checks are made when it
issues (R49), since they need the slot's registers. -/
def decodeTile (t : TileWords) : Except Reject Instr :=
  match (bitsOf t.w0 22 4).toNat, (bitsOf t.w0 14 8).toNat with
  | 0, 0x00 => .ok (.mma t)
  | 0, 0x01 => .ok (.mmar t)
  | 0, 0x02 => .ok (.rot t)
  | 0, 0x03 => .ok (.zacc t)
  | 1, 0x00 => .ok (.tadd t)
  | 1, 0x01 => .ok (.tsub t)
  | 1, 0x02 => .ok (.tmul t)
  | 1, 0x03 => .ok (.tfma t)
  | 1, 0x04 => .ok (.tmax t)
  | 1, 0x05 => .ok (.tmin t)
  | 1, 0x06 => .ok (.texp t)
  | 1, 0x07 => .ok (.trcp t)
  | 1, 0x08 => .ok (.trsq t)
  | 1, 0x09 => .ok (.tsilu t)
  | 1, 0x0A => .ok (.tgelu t)
  | 1, 0x0B => .ok (.tcmp t)
  | 1, 0x0C => .ok (.tsel t)
  | 1, 0x0D => .ok (.ttrn t)
  | 1, 0x0E => .ok (.tred t)
  | 1, 0x0F => .ok (.tbcast t)
  | 1, 0x10 => .ok (.tfill t)
  | 1, 0x11 => .ok (.combine t)
  | 2, 0x00 => .ok (.ldtab t)
  | 2, 0x01 => .ok (.cvt t)
  | 2, 0x02 => .ok (.qnt t)
  | 2, 0x03 => .ok (.dqt t)
  | 2, 0x04 => .ok (.amax t)
  | 2, 0x05 => .ok (.scl t)
  | 3, 0x00 => .ok (.copy t)
  | 3, 0x01 => .ok (.gather t)
  | 3, 0x02 => .ok (.scatter t)
  | 4, 0x00 => .ok (.coll t)
  | e, _ => .error (if e < 5 then .unlistedOp else .reservedEngine)

/-- A word from its bytes, lowest address first (R3). -/
def wordOfBytes (b0 b1 b2 b3 : Byte) : W32 := b3 ++ b2 ++ b1 ++ b0

/-- The words that whole groups of four bytes hold. -/
def wordsOfBytes : List Byte → List W32
  | b0 :: b1 :: b2 :: b3 :: rest => wordOfBytes b0 b1 b2 b3 :: wordsOfBytes rest
  | _ => []

/-- A tile command from eight words. -/
def tileOfWords : List W32 → Option TileWords
  | w0 :: w1 :: w2 :: w3 :: w4 :: w5 :: w6 :: w7 :: _ => some ⟨w0, w1, w2, w3, w4, w5, w6, w7⟩
  | _ => none

/-- The words of an instruction stream, first word first: a 0x3F word leads a tile command of eight (R32). -/
def decodeWords : List W32 → Except Reject Instr
  | [] => .error .tooShort
  | w :: rest =>
    if fMaj w == 0x3F then
      match tileOfWords (w :: rest) with
      | some t => decodeTile t
      | none => .error .tooShort
    else decodeScalar w

/-- The decoder on bytes, lowest address first. -/
def decode (bs : List Byte) : Except Reject Instr := decodeWords (wordsOfBytes bs)

/-- The count low bytes of a number, lowest first (R3). -/
def bytesOfNat : Nat → Nat → List Byte
  | 0, _ => []
  | k + 1, n => BitVec.ofNat 8 n :: bytesOfNat k (n / 256)

/-- What the decoder reads from an instruction whose bits are w, numbered as the opcode table numbers them: the first
32 bytes at and after it, the bits above nbits zero. -/
def decodeTableWord (nbits w : Nat) : Option Instr :=
  match decode (bytesOfNat 32 (w % 2 ^ nbits)) with
  | .ok i => some i
  | .error _ => none

/-- An R word: major, gd, ga, gb and fn (R34). -/
def rWord (maj : BitVec 6) (gd ga gb : Reg) (fn : BitVec 11) : W32 := maj ++ gd ++ ga ++ gb ++ fn

/-- An I or B word: major, two registers and a 16-bit field (R34). -/
def iWord (maj : BitVec 6) (r1 r2 : Reg) (imm : BitVec 16) : W32 := maj ++ r1 ++ r2 ++ imm

/-- A U word (R34). -/
def uWord (maj : BitVec 6) (gd : Reg) (imm : BitVec 21) : W32 := maj ++ gd ++ imm

/-- A J word (R34). -/
def jWord (maj : BitVec 6) (off : BitVec 26) : W32 := maj ++ off

/-- An M word: major, gd, ga, size, flags and off11 (R34, R36, R145). -/
def mWord (maj : BitVec 6) (gd ga : Reg) (size : BitVec 3) (flags : BitVec 2) (off : BitVec 11) : W32 :=
  maj ++ gd ++ ga ++ size ++ flags ++ off

/-- The word of a scalar instruction. Tile commands and the events of the table have none here: 0. -/
def encodeScalar : Instr → W32
  | .add gd ga gb => rWord 0x01 gd ga gb (0#5 ++ 0#6)
  | .sub gd ga gb => rWord 0x01 gd ga gb (1#5 ++ 0#6)
  | .and gd ga gb => rWord 0x01 gd ga gb (2#5 ++ 0#6)
  | .or gd ga gb => rWord 0x01 gd ga gb (3#5 ++ 0#6)
  | .xor gd ga gb => rWord 0x01 gd ga gb (4#5 ++ 0#6)
  | .andn gd ga gb => rWord 0x01 gd ga gb (5#5 ++ 0#6)
  | .sll gd ga gb => rWord 0x01 gd ga gb (6#5 ++ 0#6)
  | .srl gd ga gb => rWord 0x01 gd ga gb (7#5 ++ 0#6)
  | .sra gd ga gb => rWord 0x01 gd ga gb (8#5 ++ 0#6)
  | .rol gd ga gb => rWord 0x01 gd ga gb (9#5 ++ 0#6)
  | .min gd ga gb => rWord 0x01 gd ga gb (10#5 ++ 0#6)
  | .max gd ga gb => rWord 0x01 gd ga gb (11#5 ++ 0#6)
  | .minu gd ga gb => rWord 0x01 gd ga gb (12#5 ++ 0#6)
  | .maxu gd ga gb => rWord 0x01 gd ga gb (13#5 ++ 0#6)
  | .slt gd ga gb => rWord 0x01 gd ga gb (14#5 ++ 0#6)
  | .sltu gd ga gb => rWord 0x01 gd ga gb (15#5 ++ 0#6)
  | .seq gd ga gb => rWord 0x01 gd ga gb (16#5 ++ 0#6)
  | .sel gd ga gb => rWord 0x01 gd ga gb (17#5 ++ 0#6)
  | .clz gd ga => rWord 0x01 gd ga 0 (18#5 ++ 0#6)
  | .ctz gd ga => rWord 0x01 gd ga 0 (19#5 ++ 0#6)
  | .popc gd ga => rWord 0x01 gd ga 0 (20#5 ++ 0#6)
  | .bswap gd ga => rWord 0x01 gd ga 0 (21#5 ++ 0#6)
  | .sextb gd ga => rWord 0x01 gd ga 0 (22#5 ++ 0#6)
  | .sexth gd ga => rWord 0x01 gd ga 0 (23#5 ++ 0#6)
  | .sextw gd ga => rWord 0x01 gd ga 0 (24#5 ++ 0#6)
  | .zextw gd ga => rWord 0x01 gd ga 0 (25#5 ++ 0#6)
  | .mul gd ga gb => rWord 0x0A gd ga gb (0#5 ++ 0#6)
  | .mulh gd ga gb => rWord 0x0A gd ga gb (1#5 ++ 0#6)
  | .mulhu gd ga gb => rWord 0x0A gd ga gb (2#5 ++ 0#6)
  | .div gd ga gb => rWord 0x0A gd ga gb (3#5 ++ 0#6)
  | .divu gd ga gb => rWord 0x0A gd ga gb (4#5 ++ 0#6)
  | .rem gd ga gb => rWord 0x0A gd ga gb (5#5 ++ 0#6)
  | .remu gd ga gb => rWord 0x0A gd ga gb (6#5 ++ 0#6)
  | .fadd gd ga gb => rWord 0x0B gd ga gb (0#5 ++ 0#6)
  | .fsub gd ga gb => rWord 0x0B gd ga gb (1#5 ++ 0#6)
  | .fmul gd ga gb => rWord 0x0B gd ga gb (2#5 ++ 0#6)
  | .ffma gd ga gb => rWord 0x0B gd ga gb (3#5 ++ 0#6)
  | .fmin gd ga gb => rWord 0x0B gd ga gb (4#5 ++ 0#6)
  | .fmax gd ga gb => rWord 0x0B gd ga gb (5#5 ++ 0#6)
  | .fcmp gd ga gb cc => rWord 0x0B gd ga gb (6#5 ++ 0#4 ++ cc)
  | .fcvtif gd ga u => rWord 0x0B gd ga 0 (7#5 ++ 0#5 ++ (BitVec.ofBool u))
  | .fcvtfi gd ga u => rWord 0x0B gd ga 0 (8#5 ++ 0#5 ++ (BitVec.ofBool u))
  | .fneg gd ga => rWord 0x0B gd ga 0 (9#5 ++ 0#6)
  | .renew ga => rWord 0x24 0 ga 0 (0#5 ++ 0#6)
  | .drop ga => rWord 0x24 0 ga 0 (1#5 ++ 0#6)
  | .prune ga gb => rWord 0x24 0 ga gb (2#5 ++ 0#6)
  | .pref ga => rWord 0x24 0 ga 0 (3#5 ++ 0#6)
  | .amoAdd gd ga gb scope ord w8 => rWord 0x26 gd ga gb (0#5 ++ scope ++ ord ++ (BitVec.ofBool w8))
  | .amoAnd gd ga gb scope ord w8 => rWord 0x26 gd ga gb (1#5 ++ scope ++ ord ++ (BitVec.ofBool w8))
  | .amoOr gd ga gb scope ord w8 => rWord 0x26 gd ga gb (2#5 ++ scope ++ ord ++ (BitVec.ofBool w8))
  | .amoXor gd ga gb scope ord w8 => rWord 0x26 gd ga gb (3#5 ++ scope ++ ord ++ (BitVec.ofBool w8))
  | .amoMin gd ga gb scope ord w8 => rWord 0x26 gd ga gb (4#5 ++ scope ++ ord ++ (BitVec.ofBool w8))
  | .amoMax gd ga gb scope ord w8 => rWord 0x26 gd ga gb (5#5 ++ scope ++ ord ++ (BitVec.ofBool w8))
  | .amoMinu gd ga gb scope ord w8 => rWord 0x26 gd ga gb (6#5 ++ scope ++ ord ++ (BitVec.ofBool w8))
  | .amoMaxu gd ga gb scope ord w8 => rWord 0x26 gd ga gb (7#5 ++ scope ++ ord ++ (BitVec.ofBool w8))
  | .amoSwap gd ga gb scope ord w8 => rWord 0x26 gd ga gb (8#5 ++ scope ++ ord ++ (BitVec.ofBool w8))
  | .amoFadd gd ga gb scope ord => rWord 0x26 gd ga gb (9#5 ++ scope ++ ord ++ 0#1)
  | .lrw gd ga scope w8 => rWord 0x28 gd ga 0 (0#5 ++ scope ++ 0#2 ++ (BitVec.ofBool w8))
  | .sch gd ga gb scope w8 => rWord 0x28 gd ga gb (1#5 ++ scope ++ 0#2 ++ (BitVec.ofBool w8))
  | .ldfe gd ga => rWord 0x29 gd ga 0 (0#5 ++ 0#6)
  | .ldff gd ga => rWord 0x29 gd ga 0 (1#5 ++ 0#6)
  | .stef ga gb => rWord 0x29 0 ga gb (2#5 ++ 0#6)
  | .sete ga => rWord 0x29 0 ga 0 (3#5 ++ 0#6)
  | .arrive gd ga gb scope => rWord 0x2A gd ga gb (0#5 ++ scope ++ 0#3)
  | .waitph ga gb scope => rWord 0x2A 0 ga gb (1#5 ++ scope ++ 0#3)
  | .bard gd ga gb scope => rWord 0x2A gd ga gb (2#5 ++ scope ++ 0#3)
  | .waitcnt gd ga gb scope => rWord 0x2B gd ga gb (0#5 ++ scope ++ 0#3)
  | .notify ga gb scope => rWord 0x2B 0 ga gb (1#5 ++ scope ++ 0#3)
  | .rupd gd ga gb scope op => rWord 0x2B gd ga gb (2#5 ++ scope ++ op)
  | .send gd ga gb scope => rWord 0x30 gd ga gb (0#5 ++ scope ++ 0#3)
  | .spawn gd ga gb scope => rWord 0x30 gd ga gb (1#5 ++ scope ++ 0#3)
  | .recv gd ga => rWord 0x30 gd ga 0 (2#5 ++ 0#6)
  | .peek gd => rWord 0x30 gd 0 0 (3#5 ++ 0#6)
  | .migrate gd ga => rWord 0x30 gd ga 0 (4#5 ++ 0#6)
  | .yield gd ga => rWord 0x30 gd ga 0 (5#5 ++ 0#6)
  | .exit => rWord 0x30 0 0 0 (6#5 ++ 0#6)
  | .slotq gd => rWord 0x30 gd 0 0 (7#5 ++ 0#6)
  | .suspend gd ga => rWord 0x31 gd ga 0 (0#5 ++ 0#6)
  | .force gd ga => rWord 0x31 gd ga 0 (1#5 ++ 0#6)
  | .fpoll gd ga => rWord 0x31 gd ga 0 (2#5 ++ 0#6)
  | .spark gd ga => rWord 0x31 gd ga 0 (3#5 ++ 0#6)
  | .retain ga => rWord 0x31 0 ga 0 (4#5 ++ 0#6)
  | .release ga => rWord 0x31 0 ga 0 (5#5 ++ 0#6)
  | .mkval gd ga => rWord 0x31 gd ga 0 (6#5 ++ 0#6)
  | .hstate gd ga => rWord 0x31 gd ga 0 (7#5 ++ 0#6)
  | .snap gd ga gb => rWord 0x32 gd ga gb (0#5 ++ 0#6)
  | .accept ga => rWord 0x32 0 ga 0 (1#5 ++ 0#6)
  | .reject gd ga => rWord 0x32 gd ga 0 (2#5 ++ 0#6)
  | .snapq gd ga => rWord 0x32 gd ga 0 (3#5 ++ 0#6)
  | .shuf gd ga gb => rWord 0x33 gd ga gb (0#5 ++ 0#6)
  | .side gd ga gb => rWord 0x33 gd ga gb (1#5 ++ 0#6)
  | .unside gd gb => rWord 0x33 gd 0 gb (2#5 ++ 0#6)
  | .disp gd ga gb => rWord 0x33 gd ga gb (3#5 ++ 0#6)
  | .shq gd ga => rWord 0x33 gd ga 0 (4#5 ++ 0#6)
  | .bind ga q => rWord 0x34 0 ga 0 (0#5 ++ 0#3 ++ q)
  | .unbind q => rWord 0x34 0 0 0 (1#5 ++ 0#3 ++ q)
  | .closeb gd => rWord 0x34 gd 0 0 (2#5 ++ 0#6)
  | .waitb gd n => rWord 0x34 gd 0 0 (3#5 ++ 0#2 ++ n)
  | .spos gd q => rWord 0x34 gd 0 0 (4#5 ++ 0#3 ++ q)
  | .launch gd ga => rWord 0x35 gd ga 0 (0#5 ++ 0#6)
  | .rcreate gd ga => rWord 0x35 gd ga 0 (1#5 ++ 0#6)
  | .rbudget gd ga gb => rWord 0x35 gd ga gb (2#5 ++ 0#6)
  | .resideReq gd ga gb => rWord 0x35 gd ga gb (3#5 ++ 0#4 ++ 0#2)
  | .resideRel gd ga gb => rWord 0x35 gd ga gb (3#5 ++ 0#4 ++ 1#2)
  | .resideQry gd ga gb => rWord 0x35 gd ga gb (3#5 ++ 0#4 ++ 2#2)
  | .atTime gd ga gb => rWord 0x35 gd ga gb (4#5 ++ 0#6)
  | .waitt gd ga => rWord 0x35 gd ga 0 (5#5 ++ 0#6)
  | .gang gd ga => rWord 0x35 gd ga 0 (6#5 ++ 0#6)
  | .rdone gd ga => rWord 0x35 gd ga 0 (7#5 ++ 0#6)
  | .crr gd cr => rWord 0x36 gd 0 0 (0#5 ++ cr)
  | .crw ga cr => rWord 0x36 0 ga 0 (1#5 ++ cr)
  | .crs gd ga cr => rWord 0x36 gd ga 0 (2#5 ++ cr)
  | .crc gd ga cr => rWord 0x36 gd ga 0 (3#5 ++ cr)
  | .trap ga cc => rWord 0x36 0 ga 0 (4#5 ++ 0#1 ++ cc)
  | .eretSelf => rWord 0x36 0 0 0 (5#5 ++ 0#4 ++ 0#2)
  | .eretResume gd ga gb => rWord 0x36 gd ga gb (5#5 ++ 0#4 ++ 1#2)
  | .eretEnd gd ga => rWord 0x36 gd ga 0 (5#5 ++ 0#4 ++ 2#2)
  | .tqpop gd ga => rWord 0x36 gd ga 0 (6#5 ++ 0#6)
  | .tlbinvRange gd ga gb => rWord 0x36 gd ga gb (7#5 ++ 0#4 ++ 0#2)
  | .tlbinvAll gd => rWord 0x36 gd 0 0 (7#5 ++ 0#4 ++ 1#2)
  | .tlbinvReplay gd ga gb => rWord 0x36 gd ga gb (7#5 ++ 0#4 ++ 2#2)
  | .nop => rWord 0x36 0 0 0 (8#5 ++ 0#6)
  | .enum gd ga => rWord 0x36 gd ga 0 (9#5 ++ 0#6)
  | .bkpt code => rWord 0x37 0 0 0 (0#5 ++ code)
  | .watch ga gb kind wp => rWord 0x37 0 ga gb (1#5 ++ 0#3 ++ kind ++ (BitVec.ofBool wp))
  | .xtrigHalt gd ga => rWord 0x37 gd ga 0 (2#5 ++ 0#4 ++ 0#2)
  | .xtrigResume gd ga => rWord 0x37 gd ga 0 (2#5 ++ 0#4 ++ 1#2)
  | .xtrigQuery gd ga => rWord 0x37 gd ga 0 (2#5 ++ 0#4 ++ 2#2)
  | .tracewStart gd ga gb => rWord 0x37 gd ga gb (3#5 ++ 0#4 ++ 0#2)
  | .tracewStop gd ga gb => rWord 0x37 gd ga gb (3#5 ++ 0#4 ++ 1#2)
  | .tracewDump gd ga gb => rWord 0x37 gd ga gb (3#5 ++ 0#4 ++ 2#2)
  | .flash gd ga gb => rWord 0x37 gd ga gb (4#5 ++ 0#6)
  | .hsift gd ga gb => rWord 0x38 gd ga gb (0#5 ++ 0#6)
  | .htake gd ga => rWord 0x38 gd ga 0 (1#5 ++ 0#6)
  | .kset ga kc => rWord 0x38 0 ga 0 (2#5 ++ 0#1 ++ kc)
  | .kwait gd ga kc => rWord 0x38 gd ga 0 (3#5 ++ 0#1 ++ kc)
  | .kread gd kc => rWord 0x38 gd 0 0 (4#5 ++ 0#1 ++ kc)
  | .addi gd ga imm => iWord 0x02 gd ga imm
  | .andi gd ga imm => iWord 0x03 gd ga imm
  | .ori gd ga imm => iWord 0x04 gd ga imm
  | .xori gd ga imm => iWord 0x05 gd ga imm
  | .slli gd ga sh => iWord 0x06 gd ga (0#2 ++ 0#8 ++ sh)
  | .srli gd ga sh => iWord 0x06 gd ga (1#2 ++ 0#8 ++ sh)
  | .srai gd ga sh => iWord 0x06 gd ga (2#2 ++ 0#8 ++ sh)
  | .slti gd ga imm => iWord 0x07 gd ga (0#1 ++ imm)
  | .sltiu gd ga imm => iWord 0x07 gd ga (1#1 ++ imm)
  | .lui gd imm => uWord 0x08 gd imm
  | .adpc gd imm => uWord 0x09 gd imm
  | .beq ga gb off => iWord 0x10 ga gb off
  | .bne ga gb off => iWord 0x11 ga gb off
  | .blt ga gb off => iWord 0x12 ga gb off
  | .bge ga gb off => iWord 0x13 ga gb off
  | .bltu ga gb off => iWord 0x14 ga gb off
  | .bgeu ga gb off => iWord 0x15 ga gb off
  | .jmp off => jWord 0x16 off
  | .call off => jWord 0x17 off
  | .jr gd ga => rWord 0x18 gd ga 0 0
  | .ld gd ga w off => mWord 0x20 gd ga (0#1 ++ w) 0 off
  | .ldA8 gd ga off => mWord 0x20 gd ga 3 1 off
  | .ldu gd ga w off => mWord 0x20 gd ga (1#1 ++ w) 0 off
  | .st gd ga w off => mWord 0x21 gd ga (0#1 ++ w) 0 off
  | .stA8 gd ga off => mWord 0x21 gd ga 3 1 off
  | .ldacq gd ga scope w off => mWord 0x22 gd ga scope w off
  | .strel gd ga scope w off => mWord 0x23 gd ga scope w off
  | .fenceAcq scope => rWord 0x25 0 0 0 (scope ++ 0#6 ++ 1#2)
  | .fenceRel scope => rWord 0x25 0 0 0 (scope ++ 0#6 ++ 2#2)
  | .fenceFull scope => rWord 0x25 0 0 0 (scope ++ 0#6 ++ 3#2)
  | .cas gd ga gb scope sord facq w8 =>
    rWord 0x27 gd ga gb (scope ++ sord ++ 0#1 ++ BitVec.ofBool facq ++ BitVec.ofBool w8 ++ 0#3)
  | .ldq gd ga flags off => mWord 0x2C gd ga 0 flags off
  | .stq gd ga flags off => mWord 0x2C gd ga 1 flags off
  | _ => 0

/-- The eight words of a tile command. -/
def TileWords.words (t : TileWords) : List W32 := [t.w0, t.w1, t.w2, t.w3, t.w4, t.w5, t.w6, t.w7]

/-- The tile words of a tile command's constructor. -/
def Instr.tile? : Instr → Option TileWords
  | .mma t | .mmar t | .rot t | .zacc t | .tadd t | .tsub t | .tmul t | .tfma t | .tmax t | .tmin t | .texp t
  | .trcp t | .trsq t | .tsilu t | .tgelu t | .tcmp t | .tsel t | .ttrn t | .tred t | .tbcast t | .tfill t
  | .combine t | .ldtab t | .cvt t | .qnt t | .dqt t | .amax t | .scl t | .copy t | .gather t | .scatter t
  | .coll t => some t
  | _ => none

/-- The words of a well-formed instruction, first word first. -/
def encode (i : Instr) : List W32 :=
  match i.tile? with
  | some t => t.words
  | none => [encodeScalar i]

/-- How many bytes the program counter moves past an instruction (R32). -/
def Instr.size (i : Instr) : Nat := if i.tile?.isSome then 32 else 4

end Sys2Proof
end

