-- ==== Sys2Proof/Config.lean ====
section
/-! DEFINITION. What the module fixes (R1, R14, R16) and the free values: constants with no body, so that no proof
can rest on a value the spec leaves open (R8). -/

namespace Sys2Proof.Config

/-- Physical cores of a cluster (R14). -/
def clusterCores : Nat := 18

/-- Clusters of the module (R14). -/
def clusters : Nat := 64

/-- Physical cores of the module (R14). -/
def physCores : Nat := 1152

/-- The last two cores of each cluster, which are not live in the module held at reset (R14; log entry 6). -/
def spareMask : Nat :=
  0xC00030000C00030000C00030000C00030000C00030000C00030000C00030000C00030000C00030000C00030000C00030000C00030000C00030000C00030000C00030000C00030000C00030000C00030000C00030000C00030000C00030000C00030000C00030000C00030000C00030000C00030000C00030000C00030000C00030000C00030000C00030000C00030000

/-- The most logical cores that a grade has (R1). -/
def maxCores : Nat := 1024

/-- Lines of a level-two slice of 512 KiB (R16). -/
def sliceLines : Nat := 4096

/-- Bytes of a line (R113). -/
def lineBytes : Nat := 128

/-- Entries of the data cache's 64 sets (R118). -/
def cacheWays : Nat := 8

/-- Entries of a store buffer (R122). -/
def storeBuffer : Nat := 32

/-- Entries of each tile queue (R49). -/
def tileQueue : Nat := 32

/-- A value the spec leaves undefined (R8); number n is drawn by advancing State.freeCtr (log entry 2). -/
opaque freeWord : Nat → BitVec 64

/-- The SHA-256 of the firmware key fused at manufacture (R394; log entry 12). -/
opaque fusedKey : List (BitVec 8)

/-- Torus hops between two devices of the domain by number (R20): the spec places no device number in the torus, and
bounds the distance by 11 (R311; log entry 19). -/
opaque hopTable : Nat → Nat → Nat

/-- See hopTable: different devices are 1 to 11 hops apart. -/
def hops (a b : Nat) : Nat := if a = b then 0 else max 1 (min 11 (hopTable a b))

/-- Whether a core of another device is live there (R184), which that device alone knows (log entry 80). -/
opaque remoteLive : BitVec 9 → Nat → Bool

/-- The security version of a firmware image, 32 bits of its 64-byte header, whose layout the spec does not give (R394; log
entry 12). -/
opaque fwSvn : List (BitVec 8) → BitVec 32

/-- Tvedid's vendor ID (R389), which the spec does not give. -/
opaque vendorId : BitVec 16

/-- The words of the device's vendor-specific capability whose contents the spec does not give (R389). -/
opaque capabilityWord : Nat → BitVec 32

end Sys2Proof.Config
end

