-- ==== Sys2Proof/Machine/State.lean ====
section
/-! DEFINITION. The state of the machine as plain data, the reasons a step can stop, and the state after reset.
One device is held whole: its slots, cores, homes, memories, regions and the units of its I/O dies. A slot is
numbered 8 × logical core + slot (R174, R358). Sparse tables are lists of number and value pairs with rising
numbers; a number that is not listed has the table's default. -/

namespace Sys2Proof.Machine

/-- A sparse table by number. -/
abbrev SMap (α : Type) := List (Nat × α)

/-- Bytes by address in canonical form: see Memory.wf in Machine/Ops.lean. -/
abbrev Memory := List Host.Cell

/-- Why a step of the machine itself stops. -/
inductive Fault where
  /-- Raised by nothing in this model: the spec gives every instruction's fault an entry (R356), which is a next
  state. Kept so that a stop of the machine would have a name. Safe. -/
  | deviceStopped
  deriving DecidableEq, Repr

/-- Why an instruction has no meaning. -/
inductive Refusal where
  /-- An arm of exec whose instruction is not modelled. Safe: nothing can be proved of a run past it. -/
  | notModelled (mnemonic : String)
  deriving DecidableEq, Repr

/-- Where the bytes of a checked access live: a bank of local memory (key in State.mem), this device's global memory
(physical address and home, R113), or another device (R109). -/
inductive Loc where
  | bank (key : Nat)
  | home (p : Nat) (h : Nat)
  | away (a : Word)
  deriving DecidableEq, Repr

/-- A trap record (R360), with the home slice that has raised it, where one has: no part of the record's bytes. -/
structure TrapRec where
  kind : BitVec 2
  cause : BitVec 5
  origin : Byte
  region : Nat
  dev : BitVec 9
  slot : Nat
  epc : Word
  tval : Word
  aux : Word
  time : Word
  seq : W32
  home : Option Nat
  deriving DecidableEq, Repr

/-- A value found, or the cause of the fault met in its place. -/
inductive Found (α : Type) where
  | value (a : α)
  | fault (c : Cause)
  deriving DecidableEq, Repr

/-- What a waiting request is answered with, until the instruction executes with it. -/
inductive Reply where
  | val (v : Word)
  | fault (c : Cause) (v : Word)
  deriving DecidableEq, Repr

/-- Why a slot is out of the rotation (R28) without sleeping. -/
inductive Wait where
  /-- A reply of a home, a unit or another device. -/
  | reply
  /-- Room, a drain or another condition on this core that the instruction tests again. -/
  | poll
  /-- The line of code at this address (R415). -/
  | fetch (line : Word)
  /-- The receiving device's acceptance of a store (R122). -/
  | accept
  /-- The services of the banks of its cluster's scratchpad that its access names (R110). -/
  | bank
  deriving DecidableEq, Repr

/-- What a sleeping instruction sleeps for (R169, R413). -/
inductive SleepFor where
  | ldfe (key : Nat)
  | ldff (key : Nat)
  | stef (key : Nat) (v : Word)
  | lrw (loc : Loc) (n : Nat)
  | waitph (loc : Loc) (p : BitVec 2)
  | waitcnt (loc : Loc) (thr : Word)
  | bard
  | recv
  | yield (until_ : Word)
  | waitt (until_ : Word)
  | kwait (kc : BitVec 5) (thr : W32)
  | closeb
  | waitb (n : Nat)
  | thunk (rec : Word)
  /-- A free evaluation of the core's engine (R213). -/
  | engine (rec : Word)
  | shuf
  | reside (entry : Nat)
  /-- Chunk number r of the stream of an alias (R292). -/
  | ring (q : BitVec 3) (r : Nat)
  /-- The last write of a dump (R382). -/
  | dump
  | remote
  deriving DecidableEq, Repr

/-- A sleep (R169): when it began, the limit in force, TVAL for WAITLONG, and whether the withdrawal has been sent. -/
structure Sleep where
  kind : SleepFor
  start : Word
  lim : W32
  tval : Word
  withdrawn : Bool
  deriving DecidableEq, Repr

/-- A read of the instruction in progress that has been answered: its address and width, and what it found. -/
structure Got where
  addr : Word
  n : Nat
  res : Found (List Byte)
  deriving DecidableEq, Repr

/-- An access of a slot to a scratchpad, whose banks serve it word by word (R110): its place, the bytes of a store, the
words not served yet, those that a read has had, and whether a switch waits for it (R181). A store has the address too, as
the slot gave it. -/
structure BankAccess where
  key : Nat
  n : Nat
  store : Option (Word × List Byte)
  due : List Nat
  had : List (Nat × List Byte)
  must : Bool
  deriving DecidableEq, Repr

/-- Whether a slot issues (R28, R91, R356). -/
inductive Status where
  | noTask
  | ready
  | waiting (w : Wait)
  | asleep (sl : Sleep)
  | parked (held : Option TrapRec)
  deriving DecidableEq, Repr

/-- A watchpoint of a slot (R377). -/
structure Watch where
  kind : BitVec 2
  base : Word
  len : Word
  deriving DecidableEq, Repr

/-- A bound stream (R289, R292). -/
structure Stream where
  desc : Word
  base : Word
  s0 : W32
  s1 : W32
  n0 : Nat
  n1 : Nat
  ew : BitVec 2
  write : Bool
  ring : Bool
  sx : Bool
  kc : BitVec 5
  scope : BitVec 3
  cw : Word
  pos : Nat
  f0 : W32
  /-- Chunks entered and chunks published, of a ring. -/
  entered : Nat
  deriving DecidableEq, Repr

/-- What an evaluation holds of a record or of a strict SUSPEND's temporary frame (R208, R211): its handle (0 for the
temporary frame), the command image, the operands' handles and those already values, and its frame. -/
structure EvalFrame where
  hdl : Word
  w0 : W32
  w4 : W32
  w5 : W32
  satf : Bool
  ops : List Word
  addrs : List Word
  frame : Option Word
  deriving DecidableEq, Repr

/-- A SUSPEND under way (R207, R208): the frame of its image, the depth, and whether it is lazy, with the pinned bytes
charged; else it is strict. -/
structure Susp where
  frame : EvalFrame
  depth : Nat
  pin : Option Nat
  deriving DecidableEq, Repr

/-- One slot (R93, R352, R354). -/
structure Slot where
  g : Vector Word 32
  pc : Word
  region : Nat
  rcb : Word
  ctx : Nat
  gen : Byte
  epc : Word
  cause : BitVec 5
  tval : Word
  tvec : Word
  tscr : Word
  inh : Bool
  waitlim : W32
  fmta : BitVec 4
  fmtb : BitVec 4
  fmtc : BitVec 4
  scla : Word
  sclb : Word
  sclc : Word
  round : Bool
  flags : BitVec 3
  migok : Bool
  wp0 : Watch
  wp1 : Watch
  /-- The next instruction is not checked against the watchpoints (R378). -/
  wpSkip : Bool
  streams : SMap Stream
  /-- The open batch: its number and the commands in it, which leave it as they complete; and the outstanding ones. -/
  batchId : Nat
  batchPending : Nat
  batches : SMap Nat
  /-- BARD: completed episodes, rounds done of the one under way, the rounds whose notification went, those held, and a refusal
  that the instruction has yet to raise, with its round. -/
  bardEpisode : BitVec 2
  bardRound : Nat
  bardNoted : List Nat
  bardHeld : List BardNote
  bardFault : Option (Cause × Nat)
  fetch : Option (Word × List Byte)
  link : Word
  status : Status
  reply : Option Reply
  /-- Reads answered, and stores that another device or a checking home has answered, for the instruction in progress. -/
  got : List Got
  sent : List (Word × Option Cause)
  /-- Stores that another device or a home has only checked, before any effect of the instruction (R94, R378). -/
  looked : List (Word × Option Cause)
  /-- A load that waits for the entries that overlapped it (R123): its address, its width, and the store-buffer number
  below which they lie. -/
  step2 : Option (Word × Nat × Nat)
  /-- The store-buffer number below which entries must drain (R147). -/
  drain : Option Nat
  /-- It holds, or is queued for, a reservation at another device (R166). -/
  awayResv : Bool
  /-- The access to a scratchpad of the instruction in progress, or of its fetch (R110). -/
  bank : Option BankAccess
  /-- The elements that the instruction in progress has popped so far in this turn, and those that it has popped for good, since
  it has made an effect with them (R94, R292). -/
  popped : List (List Byte)
  kept : List (List Byte)
  /-- Its loads so far in this turn. -/
  reads : List Got
  /-- Where its push goes, as checked before its effect outside the core (R94): the element's address and its place. -/
  room : Option (Word × Loc)
  /-- Its effect is made, and this push of its result is all that is left of it (R94). -/
  push : Option (Reg × Word)
  /-- The instruction in progress, once it has issued (log entry 115). -/
  inst : Option Instr
  /-- A SUSPEND that has been decided (R207). -/
  susp : Option Susp
  /-- When the instruction in progress first issued (R169). -/
  since : Option Word
  /-- The home phase of the instruction in progress, for instructions that make several requests. -/
  phase : Nat
  deriving DecidableEq, Repr

/-- A slot before any task (log entry 10). -/
def Slot.idle : Slot where
  g := Vector.replicate 32 0
  pc := 0
  region := 0
  rcb := 0
  ctx := 0
  gen := 0
  epc := 0
  cause := 0
  tval := 0
  tvec := 0
  tscr := 0
  inh := false
  waitlim := 0
  fmta := 0
  fmtb := 0
  fmtc := 0
  scla := 0
  sclb := 0
  sclc := 0
  round := false
  flags := 0
  migok := false
  wp0 := ⟨0, 0, 0⟩
  wp1 := ⟨0, 0, 0⟩
  wpSkip := false
  streams := []
  batchId := 0
  batchPending := 0
  batches := []
  bardEpisode := 0
  bardRound := 0
  bardNoted := []
  bardHeld := []
  bardFault := none
  fetch := none
  link := 0
  status := .noTask
  reply := none
  got := []
  sent := []
  looked := []
  step2 := none
  drain := none
  awayResv := false
  bank := none
  popped := []
  kept := []
  reads := []
  room := none
  push := none
  inst := none
  susp := none
  since := none
  phase := 0

/-- A line of a data cache (R118): its address as the slot gave it with 0x1FF for this device (R414), the physical
address where it is of this device, its bytes, those that its home gave it, which a fetch takes (R415), and whether
its lease has not been ended before its time. -/
structure CacheLine where
  addr : Word
  phys : Option Nat
  bytes : List Byte
  homeBytes : List Byte
  poison : Bool
  version : BitVec 48
  grant : Word
  live : Bool
  used : Nat
  deriving DecidableEq, Repr

/-- What a store-buffer entry does at its home (R122, R147, R178). -/
inductive SbKind where
  | plain
  /-- A strong store; one of debug mode is checked at its home before any slot may read it (R156). -/
  | strong (check : Bool)
  /-- A plain store of debug mode into a region's record arena, which its home checks too (R203). -/
  | checked
  /-- A store, strong or not, that its home would check and only checks, since a watchpoint has matched (R378). -/
  | look (strong : Bool)
  /-- An update: the op of R177 (0 ADD of a NOTIFY), its operand, and the counted word it bumps. -/
  | update (op : BitVec 3) (v : Word) (cnt : Option Word)
  deriving DecidableEq, Repr

/-- An entry of a store buffer: its number on its core, the slot and region that made it, where it goes. -/
structure SbEntry where
  id : Nat
  slot : Nat
  region : Nat
  addr : Word
  loc : Loc
  bytes : List Byte
  kind : SbKind
  scope : BitVec 3
  /-- It reaches its home only after every older entry has (R159, R292). -/
  after : Bool
  deriving DecidableEq, Repr

/-- A translation a reader has walked (R368): the virtual page, its size in bits, the leaf, the table lines read. -/
structure WalkEntry where
  page : Nat
  bits : Nat
  leaf : Word
  lines : List Nat
  deriving DecidableEq, Repr

/-- An inbox entry (R182, R183). -/
structure InboxEntry where
  slot : Nat
  header : Word
  payload : List Byte
  deriving DecidableEq, Repr

/-- A completion message that an engine holds for want of room (R182), with the issuing task's generation and gang
context. -/
structure Held where
  engine : Engine
  gen : Byte
  ctx : Nat
  entry : InboxEntry
  deriving DecidableEq, Repr

/-- What an alarm posts and when (R343). -/
structure Alarm where
  time : Word
  slot : Nat
  region : Nat
  ctx : Nat
  dest : Word
  x : Word
  payload : List Byte
  deriving DecidableEq, Repr

/-- A tile command in a queue or an engine: its words, the captured operands (R49), and who issued it. -/
structure TileCmd where
  words : TileWords
  v1 : Word
  v2 : Word
  v3 : Word
  v6 : Word
  fa : BitVec 4
  fb : BitVec 4
  fc : BitVec 4
  slot : Nat
  region : Nat
  ctx : Nat
  at_ : Word
  /-- The store-buffer number reached at issue: older entries of a line drain first (R153). -/
  mark : Nat
  batch : Option Nat
  scla : Word
  sclb : Word
  sclc : Word
  round : Bool
  /-- The evaluation that issued it, for a command of a thunk engine (R209). -/
  eval : Option Nat
  /-- The slot's generation at issue: a task that has ended receives no message (R194). -/
  gen : Byte
  /-- The shape record's trigger, once read: the word, or the cause of its faulting read (R45). -/
  trig : Option (Found W32)
  deriving DecidableEq, Repr

/-- The bytes of a ring latch or a handoff (R255): Bᵀ tiles, how many they are, and the count r. -/
structure Latch where
  bytes : List Byte
  tiles : Nat
  r : Nat
  deriving DecidableEq, Repr

/-- How far a COPY command has come (R284, R380): the moves of its rows as their indices have been read, the fault that debug
mode met as it read them ahead, and the writes of the row's 128-byte beats still to come. -/
structure CopyProgress where
  rows : List (Option (Option Word × Word))
  stop : Option (Cause × Word)
  beats : List (List (Word × Loc × List Byte))
  deriving DecidableEq, Repr

/-- A COPY command of which no row has been read. -/
def CopyProgress.init : CopyProgress := ⟨[], none, []⟩

/-- A command an engine executes: the command, the block it starts next, the cause of a fault found (R53), the FLAGS
bits it sets (R236), and the accumulators as they stood before it (R263). -/
structure Running where
  cmd : TileCmd
  block : Nat
  cause : Option Cause
  flags : BitVec 3
  acc : SMap W32
  /-- The Bᵀ bytes copied from the latch, or those an injector has read (R255). -/
  ring : Option Latch
  copy : CopyProgress
  deriving DecidableEq, Repr

/-- A collective in progress (R327): the command, the core it came from, its staging area and its number there, when it began,
its rank, what every rank has alike, the FP32 values known of the tree's nodes, and whether it has ended. -/
structure CollRun where
  run : Running
  core : Nat
  stage : Word
  k : Nat
  start : Word
  rank : Nat
  sig : CollSig
  nodes : List Partial
  finished : Bool
  deriving DecidableEq, Repr

/-- One core engine: the command it executes and the run of priority dispatches (R50). -/
structure EngineState where
  run : Option Running
  prio : Nat
  deriving DecidableEq, Repr

/-- A cluster's copy engine (R282): its command and the core it served last. -/
structure CopyEngine where
  run : Option Running
  last : Nat
  deriving DecidableEq, Repr

/-- One core, by its logical number (R16). -/
structure Core where
  pw : Vector Word 8
  leaselen : Nat
  mslot : Word
  tabbase : Word
  part : BitVec 6
  /-- The decode table; none is the reset image (R225). -/
  table : Option (List W32)
  /-- Accumulator elements by 1024 × acc + 32 × row + column; unlisted +0 (R248). -/
  acc : SMap W32
  /-- The ring latch, where full, and a handoff that waits for the successor's latch (R255). -/
  latch : Option Latch
  handoff : Option Latch
  k : Vector W32 32
  qn : List TileCmd
  qp : List TileCmd
  matrix : EngineState
  vector : EngineState
  convert : EngineState
  /-- Priority dispatches taken from this core by the copy engine and by the collective unit (R282). -/
  copyPrio : Nat
  collPrio : Nat
  /-- A COPY command of this core that a switch-out interrupted, with its next row, until the cluster's engine takes it up
  again (R286). -/
  copyRest : Option Running
  cache : List CacheLine
  tick : Nat
  sbuf : List SbEntry
  sbNext : Nat
  walks : List WalkEntry
  inbox : List InboxEntry
  held : List Held
  alarms : List Alarm
  hot : Bool
  /-- No slot could be displaced: the slots issue in alternate rotations while it is hot (R197). -/
  throttled : Bool
  lastDisp : Option Word
  /-- Stopped by a failure, or retired (R18). -/
  stopped : Bool
  deriving DecidableEq, Repr

/-- A core at reset. -/
def Core.init : Core where
  pw := Vector.replicate 8 0
  leaselen := 512
  mslot := BitVec.allOnes 64
  tabbase := 0
  part := 0
  table := none
  acc := []
  latch := none
  handoff := none
  k := Vector.replicate 32 0
  qn := []
  qp := []
  matrix := ⟨none, 0⟩
  vector := ⟨none, 0⟩
  convert := ⟨none, 0⟩
  copyPrio := 0
  collPrio := 0
  copyRest := none
  cache := []
  tick := 0
  sbuf := []
  sbNext := 0
  walks := []
  inbox := []
  held := []
  alarms := []
  hot := false
  throttled := false
  lastDisp := none
  stopped := false

/-- A shadow of a line (R297): its line of the pool, the saved bytes and poison bit, the levels it serves, the region it
is charged to, and the home that keeps it. -/
structure Shadow where
  at_ : Word
  bytes : List Byte
  poison : Bool
  mask : BitVec 8
  region : Nat
  home : Nat
  deriving DecidableEq, Repr

/-- A line as its home and the memory behind it keep it (R115, R128, R156, R368). -/
structure LineInfo where
  version : BitVec 48
  poison : Bool
  /-- First byte and length of the last strong access (R156). -/
  strong : Option (Nat × Nat)
  /-- The slice that holds the line, and whether it has writes not written back (R18). -/
  slice : Option Nat
  dirty : Bool
  sharers : List Nat
  /-- The copy-on-write engine's tag and chain of shadows, newest first (R297). -/
  tag : Nat
  shadows : List Shadow
  deriving DecidableEq, Repr

/-- A line no access has reached. -/
def LineInfo.init : LineInfo where
  version := 0
  poison := false
  strong := none
  slice := none
  dirty := false
  sharers := []
  tag := 0
  shadows := []

/-- A budget of a region: its limit and count (R331). -/
structure Budget where
  limit : Word
  count : Nat
  deriving DecidableEq, Repr

/-- The five budgets of a block, in order: slots, rec, pin, frm, shd (R331). -/
inductive BudgetName where
  | slots | recs | pins | frames | shadows
  deriving DecidableEq, Repr

/-- An entry of a residency table (R332). -/
structure ResEntry where
  base : Word
  len : Word
  st : BitVec 2
  deriving DecidableEq, Repr

/-- The life of a region (R331). -/
inductive RegionState where
  | free | live | ending | done
  deriving DecidableEq, Repr

/-- A region (R331). Budgets: slots, rec, pin, frm, shd. -/
structure Region where
  addr : Word
  phys : Option Nat
  parent : Nat
  prio : Nat
  fdom : Nat
  state : RegionState
  part : Nat
  ctx : Nat
  debug : Bool
  hmask : W32
  fault : Word
  snaps : Vector Word 8
  budgets : Vector Budget 5
  cap : Nat
  mshare : Nat
  recBase : Word
  recSize : Word
  frmBase : Word
  frmSize : Word
  shdBase : Word
  shdSize : Word
  drwBase : Word
  drwSize : Word
  shuf : Word
  expt : Word
  res : Vector ResEntry 8
  deriving DecidableEq, Repr

/-- The root region at power-on (R331): live, every limit at its maximum, an empty residency table. -/
def Region.root : Region where
  addr := 0
  phys := none
  parent := 0
  prio := 7
  fdom := 0
  state := .live
  part := 0
  ctx := 0
  debug := false
  hmask := 0
  fault := 0
  snaps := Vector.replicate 8 0
  budgets := Vector.replicate 5 ⟨BitVec.allOnes 64, 0⟩
  cap := 64
  mshare := 16
  recBase := 0
  recSize := 0
  frmBase := 0
  frmSize := 0
  shdBase := 0
  shdSize := 0
  drwBase := 0
  drwSize := 0
  shuf := 0
  expt := 0
  res := Vector.replicate 8 ⟨0, 0, 0⟩

/-- What a request does at its home or bank in the location's total order (R142, R157). -/
inductive AtomOp where
  /-- AMO: the selector of R161, the width in bytes, the operand. -/
  | amo (fn : BitVec 4) (n : Nat) (v : Word)
  | cas (n : Nat) (e v : Word)
  | sch (n : Nat) (v : Word)
  | arrive (p : BitVec 2)
  | lrw (n : Nat)
  | waitcnt (thr : Word)
  | waitph (p : BitVec 2)
  deriving DecidableEq, Repr

/-- An atomic request on its way to its home; entries of its line below mark drain first (R142). One that a watchpoint has
matched is only checked there (R378). -/
structure AtomReq where
  slot : Nat
  addr : Word
  loc : Loc
  op : AtomOp
  mark : Nat
  look : Bool
  deriving DecidableEq, Repr

/-- A home's answer (R121): the bytes unless the version matched, the line's poison bit and version, the line as the
waiting slot sees it, and a fault found at the home. -/
structure LoadAnswer where
  bytes : Option (List Byte)
  poison : Bool
  version : BitVec 48
  seen : List Byte
  fault : Option Cause
  deriving DecidableEq, Repr

/-- A load or renewal on its way to a home, or to another device (R121, R123): the slot that waits, if one does, the
access it waits for, the version and bytes of the line that the core holds, and the TIME of the request. -/
structure LoadReq where
  core : Nat
  slot : Option Nat
  line : Word
  addr : Word
  n : Nat
  loc : Loc
  version : Option (BitVec 48)
  kept : List Byte
  grant : Word
  /-- A strong load, which the home checks and records, and whether debug mode applies (R156). -/
  strong : Option Bool
  /-- The bytes of a load that the home only checks (R156). -/
  fwd : Option (List Byte)
  /-- The line of code that a fetch waits for (R415). -/
  code : Bool
  /-- No ExpireAll has come to the core since the request left (R146). -/
  live : Bool
  /-- The home's answer once given. -/
  answer : Option LoadAnswer
  deriving DecidableEq, Repr

/-- A task that waits for something to finish without its slot (R308, R347, R374). -/
structure Waiter where
  slot : Nat
  gen : Byte
  ctx : Nat
  deriving DecidableEq, Repr

/-- A queued reservation (R166): the slot, the home that queues it, its width and address, when it came to hold, and the
WAITLIM in force at its LRW. -/
structure Resv where
  slot : Nat
  home : Option Nat
  n : Nat
  addr : Word
  held : Option Word
  lim : W32
  deriving DecidableEq, Repr

/-- A message or transfer in flight between cores of this device. -/
inductive Flight where
  | inbox (m : InboxMsg) (src : Nat)
  | task (m : TaskMsg) (src : Nat)
  /-- A SPAWN on its way, and its answer on the way back (R190). -/
  | spawn (m : TaskMsg) (src : Nat)
  | spawned (src : Nat) (st : Nat)
  /-- A BARD notification, with whether it was refused and waits to be resent (R175). -/
  | bard (n : BardNote) (refused : Bool) (src : Nat)
  /-- A thread on its way from its slot to a claimed one (R195), which holds its registers already: the gd that MIGRATE writes,
  and how the slot resumes. -/
  | thread (src to_ : Nat) (gd : Option Reg) (st : Status)
  deriving DecidableEq, Repr

/-- A request that has left for another device (R20), with the slot that made it. -/
inductive Out where
  | load (slot : Nat) (a : Word) (n : Nat) (version : Option (BitVec 48))
  /-- A store or an atomic request; with look it is only checked (R94, R378). -/
  | store (slot : Nat) (a : Word) (bytes : List Byte) (strong look : Bool)
  | atom (slot : Nat) (a : Word) (op : AtomOp) (look : Bool)
  | update (slot : Nat) (a : Word) (op : BitVec 3) (v : Word) (cnt : Option Word)
  | inbox (m : InboxMsg) (dev : BitVec 9)
  | task (m : TaskMsg) (dev : BitVec 9)
  | bard (n : BardNote) (dev : BitVec 9) (slot : Nat)
  | withdraw (slot : Nat)
  /-- The answer to an access of another device's slot: bytes or a value, or its fault (R370). -/
  | reply (dev : BitVec 9) (slot : BitVec 14) (r : Found (List Byte))
  /-- The answer to such a load: the line as its home answers a load of this device (R121). -/
  | line (dev : BitVec 9) (slot : BitVec 14) (a : LoadAnswer)
  /-- A collective's partial result for a partner rank's device (R327), on behalf of a slot. -/
  | coll (p : Partial) (slot dev : Nat)
  /-- Shuffle traffic for another device (R315 to R320, R324). -/
  | advert (a : Advert) (dev : Nat)
  | unside (grp memb : Nat) (blk : W32) (slot dev : Nat)
  | post (p : Post) (dev : Nat)
  | packet (p : Packet) (dev : Nat)
  | nack (n : Nack) (dev : Nat)
  | loss (n : Nack) (dev : Nat)
  | row (r : DispRow) (dev : Nat)
  /-- Bytes that an engine writes in another device's memory (R20). -/
  | write (slot : Nat) (a : Word) (bytes : List Byte)
  | message (slot : Nat) (what : String) (words : List Word)
  deriving DecidableEq, Repr

/-- A live snapshot (R296, R299): its range, the slot that issued its SNAP, the homes that have recorded it, and where
it is ending. Each home takes announcements in the order of the list. -/
structure Snap where
  region : Nat
  level : Nat
  seq : Nat
  base : Word
  len : Nat
  broken : Bool
  slot : Nat
  /-- The homes that have recorded the range. -/
  recorded : BitVec 1024
  /-- While ending: whether by REJECT, the homes that have carried the end out, and the lines restored so far. -/
  ending : Option (Bool × BitVec 1024 × Nat)
  /-- The task whose SNAP waits for every home, and the one whose ACCEPT or REJECT does. -/
  snapWait : Option Waiter
  endWait : Option Waiter
  deriving DecidableEq, Repr

/-- A residency lease that has ended and whose region's accesses to the range are not done (R338): whether the host ended
it (R309). -/
structure LeaseEnd where
  region : Nat
  entry : Nat
  base : Word
  len : Nat
  host : Bool
  deriving DecidableEq, Repr

/-- Regions on their way to their end, in order (R347): the task that ends last, and the one whose RDONE waits. -/
structure Ending where
  regions : List Nat
  keep : Option Waiter
  waiter : Option Waiter
  deriving DecidableEq, Repr

/-- What an evaluation waits for (R211, R212): nothing, a frame and room in the queue, its command, or a record. -/
inductive EvalPhase where
  | idle
  | frame
  | command
  | parked (x : Word)
  deriving DecidableEq, Repr

/-- An evaluation of a thunk engine (R205, R210). -/
structure Eval where
  seq : BitVec 2
  phase : EvalPhase
  region : Nat
  ctx : Nat
  spark : Bool
  /-- The slot that started it, while it waits (R208, R213, R214). -/
  waiter : Option Nat
  strict : Bool
  stack : List EvalFrame
  link : Word
  /-- Its command is complete, with the cause of a fault (R209). -/
  done : Option (Option Cause)
  deriving DecidableEq, Repr

/-- An evaluation at reset: its sequence count and link word are 0 (R210, R212; log entry 121). -/
def Eval.init : Eval where
  seq := 0
  phase := .idle
  region := 0
  ctx := 0
  spark := false
  waiter := none
  strict := false
  stack := []
  link := 0
  done := none

/-- A spark (R216): its handle, and the partition and gang context that it belongs to (R333). -/
structure Spark where
  hdl : Word
  part : Nat
  ctx : Nat
  deriving DecidableEq, Repr

/-- What a wake carries (R212). -/
inductive WakeEvent where
  | value
  /-- The immediate handle of a strict SUSPEND (R208). -/
  | handle (v : Word)
  | retry
  | fault (c : Cause) (v : Word)
  | staleh
  deriving DecidableEq, Repr

/-- A wake on its way to a slot or an evaluation (R212), as its link word names it, for a record. -/
structure Wake where
  to_ : Word
  hdl : Word
  what : WakeEvent
  deriving DecidableEq, Repr

/-- How a CRW, CRS or CRC changes a register (R350). -/
inductive CrOp where
  | write | set | clear
  deriving DecidableEq, Repr

/-- A write of a device register on its way to every die's copy (R114, R363, R365). -/
structure DevWrite where
  slot : Nat
  cr : BitVec 6
  op : CrOp
  v : Word
  deriving DecidableEq, Repr

/-- An invalidate on its way to a sharer (R369): the sharer's bit, the table line, the task whose TLBINV waits, or none where
the home evicts the line (R368), and, once the sharer has dropped its entries, those whose accesses it waits for. -/
structure Inval where
  reader : Nat
  line : Nat
  who : Option Waiter
  pages : Option (List WalkEntry)
  deriving DecidableEq, Repr

/-- A parked access of another device (R370): its record, the seq once the record has entered, and when it came. -/
structure ParkedAccess where
  acc : RemoteAccess
  record : TrapRec
  seq : Option W32
  since : Word
  deriving DecidableEq, Repr

/-- An entry of the group table that is valid (R310). -/
structure Group where
  devs : List Nat
  region : Nat
  hub : Nat
  cnt : Nat
  memb : Nat
  nrecv : Nat
  rcv : Word
  rbase : Word
  deriving DecidableEq, Repr

/-- A shelf entry (R311). -/
structure Shelved where
  grp : Nat
  memb : Nat
  blk : W32
  until_ : Word
  deriving DecidableEq, Repr

/-- A block in the coding queue, with its arrival, or in the retransmit buffer, with its packet's departure (R318). -/
structure Queued where
  post : Post
  time : Word
  deriving DecidableEq, Repr

/-- A cupboard entry (R315), and whether the hub has it on the shelf as far as this member has been told. -/
structure CupEntry where
  grp : Nat
  blk : W32
  until_ : Word
  bytes : List Byte
  shown : Bool
  deriving DecidableEq, Repr

/-- A valid entry of the expert placement table (R323), with the owner and Kept (R324). -/
structure Expert where
  region : Nat
  die : Nat
  cap : Nat
  ovf : Word
  cnt : Word
  ilist : Word
  rbase : Word
  kept : Nat
  deriving DecidableEq, Repr

/-- A row on its way through one die: the experts left, in order (R324). -/
structure PlaceReq where
  row : DispRow
  experts : List Nat
  deriving DecidableEq, Repr

/-- A launch that the scheduler holds (R340): the target, its rank, the descriptor's fields (R339), and the group and expert
entries that it installs, as checked (R341). -/
structure Launch where
  region : Nat
  order : Nat
  time : Word
  pc : Word
  args : Word
  limg : Word
  ranges : List (Word × Nat)
  tag : W32
  host : Bool
  groups : List (Nat × Group)
  experts : List (Nat × Expert)
  deriving DecidableEq, Repr

/-- An agreed gang switch of a partition (R345), and whether every core has switched out (R346). -/
structure Gang where
  part : Nat
  time : Word
  out : Option Nat
  in_ : Option Nat
  outDone : Bool
  deriving DecidableEq, Repr

/-- A core's state in the drawers (R344, R264, R380). -/
structure CoreSave where
  acc : SMap W32
  k : Vector W32 32
  latch : Option Latch
  handoff : Option Latch
  table : Option (List W32)
  tabbase : Word
  qn : List TileCmd
  qp : List TileCmd
  matrix : EngineState
  held : List Held
  /-- The command of the cluster's copy engine that came from this core, with its next row (R286). -/
  copy : Option Running
  deriving DecidableEq, Repr

/-- An armed flash (R383). -/
structure Flash where
  time : Word
  area : Word
  cw : Word
  slot : Nat
  region : Nat
  deriving DecidableEq, Repr

/-- A cluster's mirror (R381, R382): whether it records, from which cycle, the cycle at which it stops, the cycles held,
newest first, with an entry for each physical core. -/
structure Mirror where
  recording : Bool
  since : Nat
  stopAt : Option Nat
  cycles : List (Nat × List Word)
  deriving DecidableEq, Repr

/-- A mirror being written to memory (R382): the task that waits, its region, where the next cycle's entries go, the cycles held
that are still to be written, oldest first, and how many cycles of the image are left. -/
structure Dump where
  who : Waiter
  region : Nat
  at_ : Word
  rows : List (List Word)
  left : Nat
  deriving DecidableEq, Repr

/-- What moves next (log entry 1): a slot takes its turn, an event of the table happens, or cycles pass. -/
inductive Move where
  | turn (slot : Nat)
  | event (i : Instr)
  | pass (cycles : Nat)
  /-- The host writes a word of the device's vendor-specific capability in configuration space (R389). -/
  | config (offset : Nat) (v : W32)
  /-- The oldest dump of a mirror writes a cycle's entries (R382). -/
  | dumpRow
  /-- What has left for another device at this place of the outbox, and has no answer, is there (log entry 34). -/
  | delivered (i : Nat)
  deriving DecidableEq, Repr

/-- The machine. -/
structure State where
  /-- Domain time in ns, and the part of a ns gone by, in 21sts (R22, R19). -/
  time : Word
  sub : Nat
  /-- For how many ns the copy of time holds still (R26). -/
  timeHold : Nat
  cycle : Nat
  /-- The cores that have had their turn in this cycle (R91), the slot whose turn it is, and the moves laid down (log
  entry 1). -/
  turned : List Nat
  cur : Nat
  /-- The arrival counters bumped in this cycle: core and number (R258). -/
  bumped : List (Nat × Nat)
  /-- FLAGS bits that completions have set in this cycle: slot, generation and bits (R236). -/
  flagged : List (Nat × Byte × BitVec 3)
  /-- The core that each bank of a scratchpad served last, and the banks that have served in this cycle (R110). -/
  bankLast : SMap Nat
  bankServed : List Nat
  agenda : List Move
  /-- How many free values have been drawn (log entry 2). -/
  freeCtr : Nat
  slots : SMap Slot
  cores : SMap Core
  mem : Memory
  lines : SMap LineInfo
  sliceVer : SMap (BitVec 48)
  feFull : SMap Bool
  feSleep : List Nat
  resv : SMap (List Resv)
  loads : List LoadReq
  atoms : List AtomReq
  /-- Adds of RUPDs on their way to their counted words (R177): address, slot, region, scope. -/
  cntAdds : List (Word × Nat × Nat × BitVec 3)
  /-- Such adds of other devices' RUPDs. -/
  guestAdds : List RemoteAccess
  flights : List Flight
  outbox : List Out
  dev : BitVec 9
  /-- Other devices of the domain that are present (R21). -/
  present : List Nat
  raf : Vector Word 16
  hgsel : Word
  /-- Core-group masks that have been written; the others are the table of R114. -/
  hg : SMap (BitVec 1152)
  trapsInFlight : List TrapRec
  tq : List TrapRec
  tqSeq : W32
  tqLost : BitVec 16
  tqOvf : Bool
  tqnote : Word
  regions : SMap Region
  snaps : List Snap
  snapSerial : Nat
  /-- The grade, 0 to 2 for Kysil 1024, 960 and 896, the physical cores that were not live at manufacture, and those of
  them that failed manufacture test (R1, R17; log entry 6). -/
  grade : Nat
  nonlive : BitVec 1152
  defect : List Nat
  /-- Logical ids taken over by a spare, with the spare's physical index; ids retired; physical cores failed, with the
  id they held (R17, R18, R386). -/
  takeover : SMap Nat
  retired : List Nat
  failed : SMap Nat
  /-- Walk caches of the west and the east I/O die (R368). -/
  westWalks : List WalkEntry
  eastWalks : List WalkEntry
  stoppedParts : List Nat
  /-- The gang context resident in a partition, 0 where unlisted (R344; log entry 9). -/
  resident : SMap Nat
  /-- Slot drawers in use, by 8192 × context + slot: the saved slot and its inbox entries (R344). -/
  drawers : SMap (Slot × List InboxEntry)
  /-- Clusters halted by the cross-trigger (R379). -/
  halted : List Nat
  policy : Policy
  copies : SMap CopyEngine
  colls : List CollRun
  collCounts : SMap Nat
  earlyParts : List Partial
  devWrites : List DevWrite
  invals : List Inval
  /-- Evaluations by 4 × core + number; wakes and reference drops on their way; frames in use, with their region; the
  clusters' spark pools (R205, R212, R219, R207, R216). -/
  evals : SMap Eval
  wakes : List Wake
  refDrops : List Word
  frames : List (Nat × Word)
  sparks : SMap (List Spark)
  /-- The 64 entries of the east I/O die's fault buffer (R370). -/
  faultBuf : List ParkedAccess
  /-- Records charged, with their region (R206, R89). -/
  records : List (Nat × Word)
  /-- Records that launches have taken as THUNK sections of their images (R89). -/
  sections : List Word
  /-- Records in EVAL that are marked to free, by physical address (R204). -/
  doomed : List Nat
  /-- The east I/O die's group and expert tables (R310, R323). -/
  groups : SMap Group
  experts : SMap Expert
  /-- The hub's shelf, coding queue and retransmit buffer; this device's cupboard and its retired entries (R311, R321);
  the deliveries that have been counted (R319). -/
  shelf : List Shelved
  codeQueue : List Queued
  retransmit : List Queued
  cupboard : List CupEntry
  cupLost : Nat
  settled : List (Nat × W32 × Nat)
  /-- Blocks that a hub on another device has accepted from this one and may not have sent, by group (R325). -/
  accepted : SMap Nat
  /-- Shuffle traffic of this device on its way, and blocks that the hub refused (R317). -/
  adverts : List Advert
  posts : List Post
  refused : List Post
  packets : List Packet
  nacks : List Nack
  losses : List Nack
  rows : List DispRow
  places : List PlaceReq
  /-- Held launches and how many have been accepted; agreed gang switches; the core drawers, by 2048 × context + core,
  and clusters halted in a context that is switched out, with the context (R340, R345, R344, R380). -/
  launches : List Launch
  /-- Residency leases that have ended and whose accesses are not done (R338). -/
  leaseEnds : List LeaseEnd
  /-- Residency entries that have been requested, oldest first: region and entry (R334, R338). -/
  resReqs : List (Nat × Nat)
  launchSeq : Nat
  gangs : List Gang
  coreDrawers : SMap CoreSave
  savedHalts : List (Nat × Nat)
  /-- Messages in the routers' spill buffers, with the partition and context they are for, in the order they were
  spilled (R346). -/
  spill : List (Nat × Nat × Flight)
  /-- Regions on their way to their end (R347). -/
  endings : List Ending
  /-- The command port (R389, R391): ESEL, JBASE, JHEAD, DISC, RFCNT and the refusal ring; firmware's least security
  version, and whether an accepted image's policy waits to be taken up (R394). -/
  esel : W32
  jbase : Word
  jhead : Nat
  disc : Nat
  rfcnt : Nat
  refusals : SMap Word
  fwMinSvn : Nat
  fwPending : Bool
  /-- Dies whose time copies have a clock fault; whether a lost link has taken the device out of service; link widths;
  the enumeration table's gen; pages with an uncorrectable error (R27, R387, R386). -/
  clockFaults : List Nat
  outOfService : Bool
  linkWidth : SMap (BitVec 2)
  enumGen : Byte
  badPages : List Nat
  /-- The armed flash, the mirrors by cluster, and the slots that issued or faulted in this cycle while a mirror records:
  the slot, whether it faulted, its pc (R383, R381). -/
  flash : Option Flash
  mirrors : SMap Mirror
  /-- Dumps under way (R382). -/
  dumps : List Dump
  issued : List (Nat × Bool × Word)
  deriving DecidableEq, Repr

/-- The policy at power-on (R311, R216, R119, R260, R327, R370; log entry 7). -/
def Policy.reset : Policy where
  window := 256
  margin := 64
  hold := 4096
  sparkPool := 256
  leaselen := 512
  leaselens := []
  mslot := BitVec.allOnes 64
  collTimeout := 1000000
  replayLimit := 1000000
  thermal := []

/-- The machine at power-on (R331, R360, R114, R353). -/
def State.reset : State where
  time := 0
  sub := 0
  timeHold := 0
  cycle := 0
  turned := []
  cur := 0
  bumped := []
  flagged := []
  bankLast := []
  bankServed := []
  agenda := []
  freeCtr := 0
  slots := []
  cores := []
  mem := []
  lines := []
  sliceVer := []
  feFull := []
  feSleep := []
  resv := []
  loads := []
  atoms := []
  cntAdds := []
  guestAdds := []
  flights := []
  outbox := []
  dev := 0x1FF
  present := []
  raf := Vector.replicate 16 0
  hgsel := 0
  hg := []
  trapsInFlight := []
  tq := []
  tqSeq := 1
  tqLost := 0
  tqOvf := false
  tqnote := 0
  regions := [(0, Region.root)]
  snaps := []
  snapSerial := 1
  grade := 0
  nonlive := BitVec.ofNat 1152 Config.spareMask
  defect := []
  takeover := []
  retired := []
  failed := []
  westWalks := []
  eastWalks := []
  stoppedParts := []
  resident := []
  drawers := []
  halted := []
  policy := Policy.reset
  copies := []
  colls := []
  collCounts := []
  earlyParts := []
  devWrites := []
  invals := []
  evals := []
  wakes := []
  refDrops := []
  frames := []
  sparks := []
  faultBuf := []
  records := []
  sections := []
  doomed := []
  groups := []
  experts := []
  shelf := []
  codeQueue := []
  retransmit := []
  cupboard := []
  cupLost := 0
  settled := []
  accepted := []
  adverts := []
  posts := []
  refused := []
  packets := []
  nacks := []
  losses := []
  rows := []
  places := []
  launches := []
  leaseEnds := []
  resReqs := []
  launchSeq := 0
  gangs := []
  coreDrawers := []
  savedHalts := []
  spill := []
  endings := []
  esel := 0
  jbase := 0xFFFF000000
  jhead := 1
  disc := 0
  rfcnt := 0
  refusals := []
  fwMinSvn := 0
  fwPending := false
  clockFaults := []
  outOfService := false
  linkWidth := []
  enumGen := 0
  badPages := []
  flash := none
  mirrors := []
  dumps := []
  issued := []

end Sys2Proof.Machine
end

