-- ==== Sys2Proof/Machine/Maps.lean ====
section
/-! DEFINITION. Operations on sparse tables, memory and bytes (R3). -/

namespace Sys2Proof.Machine

/-- The entry of a number. -/
def mapGet {α : Type} : SMap α → Nat → Option α
  | [], _ => none
  | (k, v) :: m, n => if n = k then some v else mapGet m n

/-- The table with an entry written. -/
def mapPut {α : Type} : SMap α → Nat → α → SMap α
  | [], n, v => [(n, v)]
  | (k, w) :: m, n, v =>
    if n = k then (n, v) :: m else if n < k then (n, v) :: (k, w) :: m else (k, w) :: mapPut m n v

/-- The table without the entries of a number. -/
def mapDel {α : Type} (m : SMap α) (n : Nat) : SMap α := m.filter (fun e => e.1 != n)

/-- What a byte that memory does not list reads as: the zero fill of R134 (log entry 3). -/
def unlistedByte : Byte := 0

/-- The byte at an address. -/
def byteAt (m : Memory) (a : Nat) : Byte := (mapGet m a).getD unlistedByte

/-- Memory with one byte written: the value an unlisted byte reads as is not listed. -/
def putByte (m : Memory) (a : Nat) (b : Byte) : Memory := if b = unlistedByte then mapDel m a else mapPut m a b

/-- n bytes from an address up. -/
def readBytes (m : Memory) (a : Nat) : Nat → List Byte
  | 0 => []
  | n + 1 => byteAt m a :: readBytes m (a + 1) n

/-- Memory with bytes written from an address up. -/
def writeBytes (m : Memory) (a : Nat) : List Byte → Memory
  | [] => m
  | b :: bs => writeBytes (putByte m a b) (a + 1) bs

/-- Addresses strictly rising from lo and no entry equal to an unlisted byte. -/
def memOk (lo : Nat) : Memory → Bool
  | [] => true
  | (a, b) :: m => decide (lo ≤ a) && decide (b ≠ unlistedByte) && memOk (a + 1) m

/-- The canonical form of memory: equal memories are equal lists. -/
def Memory.wf (m : Memory) : Bool := memOk 0 m

/-- The number that bytes hold, lowest first (R3). -/
def natOfBytes : List Byte → Nat
  | [] => 0
  | b :: bs => b.toNat + 256 * natOfBytes bs

/-- Bytes as a register value, zero-extended. -/
def wordOf (bs : List Byte) : Word := BitVec.ofNat 64 (natOfBytes bs)

/-- The low n bytes of a register value, lowest first. -/
def bytesOf (n : Nat) (v : Word) : List Byte := bytesOfNat n v.toNat

/-- The 4-byte word at an offset of some bytes. -/
def w32At (bs : List Byte) (o : Nat) : W32 := BitVec.ofNat 32 (natOfBytes ((bs.drop o).take 4))

/-- The 8-byte word at an offset of some bytes. -/
def w64At (bs : List Byte) (o : Nat) : Word := wordOf ((bs.drop o).take 8)

/-- Bytes with others written over them at an offset. -/
def overlay (bs : List Byte) (o : Nat) (new : List Byte) : List Byte :=
  bs.take o ++ new ++ bs.drop (o + new.length)

/-- A register value from its low n bytes, sign-extended. -/
def sextBytes (n : Nat) (v : Word) : Word := BitVec.ofInt 64 ((BitVec.ofNat (8 * n) v.toNat).toInt)

/-- The first element that meets a test, with its position. -/
def findIdx {α : Type} (f : α → Bool) : List α → Option (Nat × α)
  | [] => none
  | x :: xs => if f x then some (0, x) else (findIdx f xs).map (fun r => (r.1 + 1, r.2))

/-- A list without the element at a position. -/
def dropAt {α : Type} : List α → Nat → List α
  | [], _ => []
  | _ :: xs, 0 => xs
  | x :: xs, n + 1 => x :: dropAt xs n

/-- A list with the element at a position changed. -/
def modAt {α : Type} (f : α → α) : List α → Nat → List α
  | [], _ => []
  | x :: xs, 0 => f x :: xs
  | x :: xs, n + 1 => x :: modAt f xs n

end Sys2Proof.Machine
end

