-- ==== Sys2Proof/Machine/Ops.lean ====
section
/-! DEFINITION. Named operations over slots, cores and registers; instructions as computations; taking an exception
(R356) and returning from one (R358). -/

namespace Sys2Proof.Machine

/-- A slot by its number, 8 × logical core + slot. -/
def State.slot (s : State) (i : Nat) : Slot := (mapGet s.slots i).getD Slot.idle

/-- A core by its logical number. -/
def State.core (s : State) (c : Nat) : Core := (mapGet s.cores c).getD Core.init

/-- A slot replaced. -/
def State.setSlot (s : State) (i : Nat) (sl : Slot) : State := { s with slots := mapPut s.slots i sl }

/-- A core replaced. -/
def State.setCore (s : State) (c : Nat) (k : Core) : State := { s with cores := mapPut s.cores c k }

/-- A slot changed. -/
def State.modSlot (s : State) (i : Nat) (f : Slot → Slot) : State := s.setSlot i (f (s.slot i))

/-- A core changed. -/
def State.modCore (s : State) (c : Nat) (f : Core → Core) : State := s.setCore c (f (s.core c))

/-- The core of a slot. -/
def coreOf (slot : Nat) : Nat := slot / 8

/-- Live cores of a cluster, by grade (R1). -/
def State.liveCores (s : State) : Nat := 16 - s.grade

/-- Logical cores of the module (R1, R6). -/
def State.logicalCores (s : State) : Nat := Config.clusters * s.liveCores

/-- The cluster of a logical core, 8 × die + cluster: ids are dense over the live cores (R6, R353). -/
def clusterOf (s : State) (core : Nat) : Nat := core / s.liveCores

/-- The die of a logical core. -/
def dieOf (s : State) (core : Nat) : Nat := core / (8 * s.liveCores)

/-- The slot whose turn it is. -/
def State.me (s : State) : Slot := s.slot s.cur

/-- Its core's number. -/
def State.myCore (s : State) : Nat := coreOf s.cur

/-- The slot whose turn it is, changed. -/
def State.modMe (s : State) (f : Slot → Slot) : State := s.modSlot s.cur f

/-- A region by its number. -/
def State.region (s : State) (r : Nat) : Region := (mapGet s.regions r).getD { Region.root with state := .free }

/-- A value the spec leaves undefined, different from every one drawn before (R8, log entry 2). -/
def State.draw (s : State) : Word × State := (Config.freeWord s.freeCtr, { s with freeCtr := s.freeCtr + 1 })

/-- n undefined bytes. -/
def State.drawBytes (s : State) : Nat → List Byte × State
  | 0 => ([], s)
  | n + 1 =>
    let (v, s) := s.draw
    let (bs, s) := s.drawBytes n
    (v.setWidth 8 :: bs, s)

/-- n undefined words. -/
def State.drawWords (s : State) : Nat → List Word × State
  | 0 => ([], s)
  | n + 1 =>
    let (v, s) := s.draw
    let (vs, s) := s.drawWords n
    (v :: vs, s)

/-- A fault's code (R355). -/
def causeCode : Cause → BitVec 5
  | .illegal => 0x01
  | .priv => 0x02
  | .misalign => 0x03
  | .prot => 0x04
  | .xlate => 0x05
  | .outside => 0x06
  | .poison => 0x07
  | .mixsize => 0x08
  | .waitlong => 0x09
  | .selfdep => 0x0A
  | .staleh => 0x0B
  | .scope => 0x0C
  | .shadowfull => 0x0D
  | .snapdepth => 0x0E
  | .decodemiss => 0x0F
  | .phaseskew => 0x10
  | .table => 0x11
  | .bkpt => 0x12
  | .watch => 0x13
  | .double => 0x14
  | .fatalhw => 0x1F

/-- The cause of a code, where one has it (R355). -/
def causeOf (c : BitVec 5) : Option Cause :=
  match c.toNat with
  | 0x01 => some .illegal
  | 0x02 => some .priv
  | 0x03 => some .misalign
  | 0x04 => some .prot
  | 0x05 => some .xlate
  | 0x06 => some .outside
  | 0x07 => some .poison
  | 0x08 => some .mixsize
  | 0x09 => some .waitlong
  | 0x0A => some .selfdep
  | 0x0B => some .staleh
  | 0x0C => some .scope
  | 0x0D => some .shadowfull
  | 0x0E => some .snapdepth
  | 0x0F => some .decodemiss
  | 0x10 => some .phaseskew
  | 0x11 => some .table
  | 0x12 => some .bkpt
  | 0x13 => some .watch
  | 0x14 => some .double
  | 0x1F => some .fatalhw
  | _ => none

/-- Record kinds (R360): 0 precise, 1 imprecise, 2 replayable, 3 fatal. -/
def trapRec (s : State) (kind : BitVec 2) (cause : BitVec 5) (origin : Byte) (region slot : Nat) (epc tval aux : Word) :
    TrapRec :=
  { kind, cause, origin, region, dev := s.dev, slot, epc, tval, aux, time := s.time, seq := 0, home := none }

/-- A record leaves for the trap queue (R360); TRAP_RECORD_APPEND brings it in. -/
def State.sendRecord (s : State) (r : TrapRec) : State := { s with trapsInFlight := s.trapsInFlight ++ [r] }

/-- The key of a location's home or bank, and whether it is of this device. -/
def locKey : Loc → Option Nat
  | .bank k => some k
  | .home p _ => some p
  | .away _ => none

/-- What a sleeper's request reads as it is satisfied at its home or bank: POISON where its home's line holds poison (R128,
R160). -/
def lateRead (s : State) (home : Bool) (key n : Nat) : Reply :=
  if home && ((mapGet s.lines (key / 128)).getD LineInfo.init).poison then .fault .poison 0
  else .val (wordOf (readBytes s.mem key n))

/-- The next slot of a reservation queue comes to hold it: its LRW reads the latest write (R166, R167). -/
def grantHead (s : State) (key : Nat) : State :=
  match mapGet s.resv key with
  | some (r :: rest) =>
    match r.held with
    | some _ => s
    | none =>
      let v := lateRead s r.home.isSome key r.n
      let s := { s with resv := mapPut s.resv key ({ r with held := some s.time } :: rest) }
      s.modSlot r.slot (fun sl => { sl with reply := some v })
  | _ => s

/-- A slot leaves the queue of one location; a holder passes the reservation on (R167). -/
def leaveQueue (s : State) (slot key : Nat) : State :=
  match mapGet s.resv key with
  | none => s
  | some q =>
    match q.filter (fun r => r.slot != slot) with
    | [] => { s with resv := mapDel s.resv key }
    | q' => grantHead { s with resv := mapPut s.resv key q' } key

/-- A slot's reservation at another device is given up there (R166, R167). -/
def dropAway (s : State) (slot : Nat) : State :=
  if (s.slot slot).awayResv then
    { s.modSlot slot (fun sl => { sl with awayResv := false }) with outbox := s.outbox ++ [Out.withdraw slot] }
  else s

/-- A slot gives up the reservation it holds or is queued for, here or at another device (R167). -/
def State.giveUpReservation (s : State) (slot : Nat) : State :=
  dropAway ((s.resv.filter (fun e => e.2.any (fun r => r.slot == slot))).foldl (fun s e => leaveQueue s slot e.1) s) slot

/-- A slot with nothing of an instruction in progress. -/
def clearProgress (sl : Slot) : Slot :=
  { sl with
    reply := none, got := [], sent := [], looked := [], step2 := none, drain := none, bank := none
    popped := [], kept := [], reads := [], room := none, push := none, inst := none, susp := none, since := none, phase := 0 }

/-- The slot parks, keeping its task, its charge and its registers (R356). -/
def State.park (s : State) (slot : Nat) : State :=
  s.modSlot slot (fun sl => { clearProgress sl with status := .parked none })

/-- Whether a region's mask handles a cause (R357): DOUBLE and FATALHW never. -/
def handles (r : Region) (c : Cause) : Bool :=
  match c with
  | .double | .fatalhw => false
  | c => r.hmask.getLsbD (causeCode c).toNat

/-- A synchronous fault of a slot (R356); the aux of its record is the TVAL for SHADOWFULL (R360, log entry 100). -/
def takeFaultOf (s : State) (slot : Nat) (c : Cause) (v : Word) : State :=
  let s := s.giveUpReservation slot
  let old := s.slot slot
  let pc := old.pc
  let s := s.modSlot slot (fun sl => { clearProgress sl with
    epc := sl.pc, cause := causeCode c, tval := v, status := .ready, wpSkip := false })
  if c = .fatalhw then
    (s.park slot).sendRecord (trapRec s 3 (causeCode c) 0 old.region slot pc v 0)
  else if old.inh then
    let s := s.modSlot slot (fun sl => { sl with cause := causeCode .double })
    (s.park slot).sendRecord
      (trapRec s 0 (causeCode .double) 0 old.region slot pc v ((causeCode c).setWidth 64))
  else if handles (s.region old.region) c && old.tvec != 0 then
    s.modSlot slot (fun sl => { sl with inh := true, pc := sl.tvec })
  else
    (s.park slot).sendRecord (trapRec s 0 (causeCode c) 0 old.region slot pc v (if c = .shadowfull then v else 0))

/-- The fault of the slot whose turn it is. -/
def takeFault (s : State) (c : Cause) (v : Word) : State := takeFaultOf s s.cur c v

/-- A fault that a slot takes between its turns is its next entry in its cluster's mirror (R381, log entry 106). -/
def noteFault (s : State) (slot : Nat) (pc : Word) : State :=
  if s.mirrors.isEmpty then s else { s with issued := s.issued ++ [(slot, true, pc)] }

/-- The return of ERET SELF (R358): INH := 0 and pc := EPC. After a WATCH fault the instruction executes afresh
unchecked (R378). -/
def returnSelf (s : State) : State :=
  s.modMe (fun sl => { clearProgress sl with
    inh := false, pc := sl.epc, status := .ready, wpSkip := sl.cause == causeCode .watch })

/-- What an instruction comes to: a value and the state so far; a stall or sleep, told as what it does to the state
the instruction began in (nothing else of it takes effect, R94); or a fault with its TVAL, taken in the state the
instruction began in. -/
inductive Eff (α : Type) where
  | ok (a : α) (s : State)
  /-- As ok, of an instruction whose access has matched a watchpoint, at this byte first (R378). -/
  | seen (a : α) (s : State) (b : Word)
  /-- A wait that may have made a request with an effect of its own. -/
  | wait (f : State → State)
  /-- A wait before any effect, or for a request that look only has checked where a watchpoint has matched (R378). -/
  | pause (f look : State → State)
  /-- A fault with its TVAL, taken in the state the instruction began in but for the walk that met it (R368). -/
  | trap (c : Cause) (v : Word) (walked : State → State := id)

/-- The rest of an instruction whose access has matched a watchpoint (R378): its faults come first, and no effect does. -/
def Eff.watched {α : Type} (b : Word) (e : Eff α) : Eff α :=
  match e with
  | .ok a s => .seen a s b
  | .seen a s _ => .seen a s b
  | .wait _ => .trap .watch b
  | .pause _ look => .pause look look
  | .trap c v w => .trap c v w

/-- One part of an instruction after another. -/
def Eff.andThen {α β : Type} (e : Eff α) (k : α → State → Eff β) : Eff β :=
  match e with
  | .ok a s => k a s
  | .seen a s b => (k a s).watched b
  | .wait f => .wait f
  | .pause f look => .pause f look
  | .trap c v w => .trap c v w

/-- The outcome of an instruction that began in a state. -/
def conclude (s : State) (e : Eff Unit) : Host.Outcome State Fault Refusal :=
  match e with
  | .ok _ s' => .next s'
  | .seen _ _ b => .next (takeFault s .watch b)
  | .wait f => .next (f s)
  | .pause f _ => .next (f s)
  | .trap c v w => .next (takeFault (w s) c v)

/-- A fault unless a check holds. -/
def check (s : State) (ok : Bool) (c : Cause) (v : Word) : Eff Unit := if ok then .ok () s else .trap c v

/-- The instruction is complete: its progress is cleared and the pc stands at the given address. -/
def State.finish (s : State) (pc : Word) : State :=
  s.modMe (fun sl => { clearProgress sl with pc := pc, status := .ready, wpSkip := false })

/-- The instruction is complete and the pc moves past its bytes (R32). -/
def State.retire (s : State) (k : Nat) : State := s.finish (s.me.pc + BitVec.ofNat 64 k)

/-- A completed scalar instruction. -/
def done (s : State) : Eff Unit := .ok () (s.retire 4)

/-- The slot waits out of the rotation (R28); what it has read of a scratchpad but not used it reads again (R110). -/
def State.stall (s : State) (w : Wait) : State :=
  s.modMe (fun sl => { sl with status := .waiting w, bank := sl.bank.filter (fun x => x.store.isSome) })

/-- A wait before any effect. -/
def hold {α : Type} (f : State → State) : Eff α := .pause f f

/-- A store that the banks of a scratchpad have served is made (R110): the slot's access is over, and the instruction knows
it as it knows a store that has been answered. -/
def storeMade (sl : Slot) : Slot :=
  let made := match sl.bank with
    | some x => if x.due.isEmpty then (x.store.map (fun w => (w.1, none))).toList else []
    | none => []
  { sl with sent := made ++ sl.sent, bank := none }

/-- The elements that an instruction has popped are popped for good, what it has read it keeps, and its push goes where it
has been checked (R94). -/
def keepPops (s s0 : State) : State :=
  s0.modMe (fun sl => { storeMade sl with got := s.me.reads ++ s.me.got, kept := s.me.popped, room := s.me.room })

/-- A wait after an effect, told as what it does to the state the instruction began in. -/
def act {α : Type} (s : State) (f : State → State) : Eff α := .wait (fun s0 => f (keepPops s s0))

/-- A stall. -/
def stall {α : Type} (w : Wait) : Eff α := hold (fun s => s.stall w)

/-- The slot sleeps (R169), from the time its instruction issued; a sleep under way stays as it is. -/
def State.sleepFor (s : State) (k : SleepFor) (tval : Word) : State :=
  s.modMe (fun sl =>
    match sl.status with
    | .asleep _ => sl
    | _ =>
      let t := sl.since.getD s.time
      { sl with status := .asleep ⟨k, t, sl.waitlim, tval, false⟩, since := some t })

/-- A sleep. -/
def sleep {α : Type} (k : SleepFor) (tval : Word) : Eff α := hold (fun s => s.sleepFor k tval)

/-- ExpireAll (R146): the core's leases end, those still on their way to it too, and its slots' fetch buffers are
emptied. -/
def expireAll (s : State) (c : Nat) : State :=
  let s := s.modCore c (fun k => { k with cache := k.cache.map (fun l => { l with live := false }) })
  { s with
    slots := s.slots.map (fun e => if coreOf e.1 = c then (e.1, { e.2 with fetch := none }) else e)
    loads := s.loads.map (fun l => if l.core = c then { l with live := false } else l) }

/-- Acquire(scope): ExpireAll at CORE scope or wider (R159). -/
def acquire (s : State) (scope : BitVec 3) : State := if 1 ≤ scope.toNat then expireAll s s.myCore else s

/-- WaitDrained (R147): out of the rotation until every entry in the core's store buffer at issue has drained. -/
def waitDrained (s : State) : Eff Unit :=
  let k := s.core s.myCore
  let mark := s.me.drain.getD k.sbNext
  if k.sbuf.any (fun e => e.id < mark) then
    hold (fun s => s.modMe (fun sl => { sl with drain := some mark, status := .waiting .poll }))
  else .ok () (s.modMe (fun sl => { sl with drain := some mark }))

/-- A wait after WaitDrained keeps the mark, so that what the instruction itself puts in the buffer is not waited for. -/
def keepDrain (s : State) (f : State → State) (s0 : State) : State := f (s0.modMe (fun sl => { sl with drain := s.me.drain }))

/-- Release(scope): WaitDrained at CLUSTER scope or wider (R159). -/
def release (s : State) (scope : BitVec 3) : Eff Unit := if 2 ≤ scope.toNat then waitDrained s else .ok () s

/-- What an instruction does after its Release. -/
def released {α : Type} (s : State) (scope : BitVec 3) (k : State → Eff α) : Eff α :=
  if 2 ≤ scope.toNat then
    (waitDrained s).andThen fun _ s' =>
    match k s' with
    | .wait f => .wait (keepDrain s' f)
    | .pause f look => .pause (keepDrain s' f) (keepDrain s' look)
    | e => e
  else k s

/-- What an instruction does after WaitDrained, whatever its scope (R147). -/
def afterDrain {α : Type} (s : State) (k : State → Eff α) : Eff α := released s 2 k

/-- A scope field of 6 or 7 raises SCOPE, with the instruction word as TVAL (R135, R54). -/
def checkScope (s : State) (scope : BitVec 3) (word : W32) : Eff Unit :=
  check s (decide (scope.toNat < 6)) .scope (word.setWidth 64)

/-- Privilege (R349): a user slot takes PRIV with the instruction word as TVAL (R54). -/
def checkSup (s : State) (word : W32) : Eff Unit := check s (decide (s.me.region = 0)) .priv (word.setWidth 64)

/-- This device's spelling of an address: 0x1FF in place of its own number (R414). -/
def normAddr (s : State) (a : Word) : Word :=
  if a.extractLsb' 63 1 = 0#1 ∧ a.extractLsb' 54 9 = s.dev then (0#1 ++ 0x1FF#9 ++ a.extractLsb' 0 54) else a

/-- Whether a time has come (R24). -/
def State.reached (s : State) (t : Word) : Bool := decide (t.toNat ≤ s.time.toNat)

end Sys2Proof.Machine
end

