-- ==== Sys2Proof/Machine/Regions.lean ====
section
/-! DEFINITION. Home lines and their versions (R115), region control blocks and their image in memory (R331 to R333),
budgets (R206). -/

namespace Sys2Proof.Machine

/-- The bytes of a line, by its number p / 128. -/
def State.line (s : State) (l : Nat) : LineInfo := (mapGet s.lines l).getD LineInfo.init

/-- A line's record changed. -/
def State.modLine (s : State) (l : Nat) (f : LineInfo → LineInfo) : State :=
  { s with lines := mapPut s.lines l (f (s.line l)) }

/-- The next version of a slice's counter for a line (R115): the counter only increases, and a line that comes from
another slice takes a version that it has not had. -/
def nextVersion (s : State) (h : Nat) (old : BitVec 48) : BitVec 48 × State :=
  let v := BitVec.ofNat 48 (max ((mapGet s.sliceVer h).getD 0).toNat old.toNat) + 1
  (v, { s with sliceVer := mapPut s.sliceVer h v })

/-- The lines that a slice holds. -/
def sliceLines (s : State) (h : Nat) : List Nat := (s.lines.filter (fun e => e.2.slice == some h)).map Prod.fst

/-- The place of the k-th core of a cluster that was live at manufacture, among the n places from p up (R6). -/
def nthLive (s : State) (cl k p : Nat) : Nat → Nat
  | 0 => p
  | n + 1 =>
    if s.nonlive.getLsbD (cl * Config.clusterCores + p) then nthLive s cl k (p + 1) n
    else if k = 0 then p
    else nthLive s cl (k - 1) (p + 1) n

/-- The physical core that held a logical id at manufacture: ids are dense over the live cores (R6). -/
def origOf (s : State) (l : Nat) : Nat :=
  clusterOf s l * Config.clusterCores + nthLive s (clusterOf s l) (l % s.liveCores) 0 Config.clusterCores

/-- The physical core that holds a logical id: a spare that has taken it over, else the first that held it (R17). -/
def physOf (s : State) (l : Nat) : Nat := (mapGet s.takeover l).getD (origOf s l)

/-- A reader drops what it derived from a table line (R369). -/
def invalidate (s : State) (bit line : Nat) : State :=
  let drop := fun (c : List WalkEntry) => c.filter (fun e => !(e.lines.contains line))
  if bit = 1152 then { s with westWalks := drop s.westWalks }
  else if bit = 1153 then { s with eastWalks := drop s.eastWalks }
  else { s with cores := s.cores.map (fun e => if physOf s e.1 = bit then (e.1, { e.2 with walks := drop e.2.walks }) else e) }

/-- Invalidates leave for every sharer of some lines, and the bitmaps are cleared (R368, R369). -/
def sendInvals (s : State) (who : Option Waiter) (f : Nat → Bool) : State :=
  let out := (s.lines.filter (fun e => f e.1)).flatMap (fun e => e.2.sharers.map (fun b => Inval.mk b e.1 who none))
  { s with
    invals := s.invals ++ out
    lines := s.lines.map (fun e => if f e.1 then (e.1, { e.2 with sharers := [] }) else e) }

/-- Whether a table line has sharers, or invalidates of it that are not acknowledged (R368). -/
def isShared (s : State) (l : Nat) : Bool := !(s.line l).sharers.isEmpty || s.invals.any (fun v => v.line == l)

/-- A line leaves its slice for the memory behind it (R116, R156), with no sharers left (R368): its strong record is cleared; it
takes a new version at its return (R115). -/
def evictLine (s : State) (l : Nat) : State :=
  s.modLine l (fun i => { i with slice := none, dirty := false, strong := none })

/-- A slice of 512 KiB that is full makes room (R16): which of its lines leaves is a free choice, of those without sharers where
there are any; else a table line's sharers are invalidated first, and it leaves when they have acknowledged (R368; log entry
76). -/
def makeRoom (s : State) (h : Nat) : State :=
  let ls := sliceLines s h
  if ls.length < Config.sliceLines then s
  else
    let (v, s) := s.draw
    let free := ls.filter (fun l => !(isShared s l))
    if free.isEmpty then
      let l := ls.getD (v.toNat % ls.length) 0
      sendInvals s none (fun k => k == l)
    else evictLine s (free.getD (v.toNat % free.length) 0)

/-- A line comes to its home: one that no slice holds takes a new version at its return (R115). -/
def touchLine (s : State) (l h : Nat) : State :=
  match (s.line l).slice with
  | some _ => s
  | none =>
    let (v, s) := nextVersion (makeRoom s h) h (s.line l).version
    s.modLine l (fun i => { i with slice := some h, version := v })

/-- A line takes a new version at a write (R115). -/
def bumpLine (s : State) (l : Nat) : State :=
  match (s.line l).slice with
  | none => s
  | some h =>
    let (v, s) := nextVersion s h (s.line l).version
    s.modLine l (fun i => { i with version := v, dirty := true })

/-- Bytes written by the device itself at their home, all in one line. -/
def rawWrite (s : State) (p : Nat) (bs : List Byte) : State :=
  bumpLine { s with mem := writeBytes s.mem p bs } (p / 128)

/-- Bytes written by the device itself, line after line. -/
def rawWriteLines (s : State) (p : Nat) (bs : List Byte) : Nat → State
  | 0 => s
  | n + 1 => rawWriteLines (rawWrite s p (bs.take 128)) (p + 128) (bs.drop 128) n

/-- A region's state as its block holds it (R331). -/
def regionStateCode : RegionState → Nat
  | .free => 0
  | .live => 1
  | .ending => 2
  | .done => 3

/-- A byte of a number. -/
def byteOf (n : Nat) : Byte := BitVec.ofNat 8 n

/-- The 512 bytes of a region control block (R331). -/
def rcbImage (s : State) (r : Nat) (g : Region) : List Byte :=
  let b := fun (i : Fin 5) => bytesOf 8 g.budgets[i].limit ++ bytesOfNat 8 g.budgets[i].count
  let e := fun (i : Fin 8) => bytesOf 8 (g.res[i].base ||| g.res[i].st.setWidth 64) ++ bytesOf 8 g.res[i].len
  bytesOf 8 (s.region g.parent).addr ++ bytesOfNat 2 r ++
  [byteOf g.prio, byteOf g.fdom, byteOf (regionStateCode g.state), byteOf g.part, byteOf g.ctx,
    byteOf (if g.debug then 1 else 0)] ++
  bytesOfNat 4 g.hmask.toNat ++ List.replicate 4 0 ++ bytesOf 8 g.fault ++ List.replicate 32 0 ++
  g.snaps.toList.flatMap (bytesOf 8) ++ b 0 ++ b 1 ++ b 2 ++ b 3 ++ b 4 ++
  [byteOf g.cap, byteOf g.mshare] ++ List.replicate 46 0 ++
  [g.recBase, g.recSize, g.frmBase, g.frmSize, g.shdBase, g.shdSize, g.drwBase, g.drwSize, g.shuf, g.expt].flatMap
    (bytesOf 8) ++ List.replicate 48 0 ++
  e 0 ++ e 1 ++ e 2 ++ e 3 ++ e 4 ++ e 5 ++ e 6 ++ e 7

/-- A region's block changed by hardware: its record, and its bytes in global memory; the root's is kept by the
command core alone (R331). -/
def putRegion (s : State) (r : Nat) (g : Region) : State :=
  let s := { s with regions := mapPut s.regions r g }
  match g.phys with
  | none => s
  | some p => rawWriteLines s p (rcbImage s r g) 4

/-- A region changed. -/
def State.modRegion (s : State) (r : Nat) (f : Region → Region) : State := putRegion s r (f (s.region r))

/-- A budget's place in the block (R331). -/
def budgetIdx : BudgetName → Fin 5
  | .slots => 0
  | .recs => 1
  | .pins => 2
  | .frames => 3
  | .shadows => 4

/-- Whether every amount fits its limit (R206). -/
def chargeFits (g : Region) (xs : List (BudgetName × Nat)) : Bool :=
  xs.all (fun x => g.budgets[budgetIdx x.1].count + x.2 ≤ g.budgets[budgetIdx x.1].limit.toNat)

/-- The region with amounts added to its counts. -/
def addCounts (g : Region) : List (BudgetName × Nat) → Region
  | [] => g
  | (b, n) :: xs =>
    let i := budgetIdx b
    addCounts { g with budgets := g.budgets.set i { g.budgets[i] with count := g.budgets[i].count + n } } xs

/-- The region with amounts taken from its counts. -/
def subCounts (g : Region) : List (BudgetName × Nat) → Region
  | [] => g
  | (b, n) :: xs =>
    let i := budgetIdx b
    subCounts { g with budgets := g.budgets.set i { g.budgets[i] with count := g.budgets[i].count - n } } xs

/-- Charge (R206): every amount in one step, or none. -/
def charge (s : State) (r : Nat) (xs : List (BudgetName × Nat)) : Option State :=
  if chargeFits (s.region r) xs then some (s.modRegion r (fun g => addCounts g xs)) else none

/-- Refund (R206). -/
def refund (s : State) (r : Nat) (xs : List (BudgetName × Nat)) : State := s.modRegion r (fun g => subCounts g xs)

/-- Whether an address range lies under one residency lease of a region (R117, R332). -/
def resident (s : State) (r : Nat) (a : Word) (n : Nat) : Bool :=
  (s.region r).res.toList.any (fun e =>
    e.st == 2 && (normAddr s e.base).toNat ≤ (normAddr s a).toNat &&
      (normAddr s a).toNat + n ≤ (normAddr s e.base).toNat + e.len.toNat)

/-- Whether r is anc or lies below it in the tree; the tree is at most as deep as the fuel. -/
def isBelow (s : State) (r anc : Nat) : Nat → Bool
  | 0 => r == anc
  | fuel + 1 => r == anc || (r != 0 && isBelow s (s.region r).parent anc fuel)

/-- A region that lives. -/
def isLive (s : State) (r : Nat) : Bool := (s.region r).state == .live

/-- The region whose block lies at an address, of those that are live or ending (R335). -/
def regionAt (s : State) (a : Word) : Option Nat :=
  if a = 0 then some 0
  else (s.regions.find? (fun e => e.1 != 0 && normAddr s e.2.addr == normAddr s a && (e.2.state == .live || e.2.state == .ending))).map
    Prod.fst

end Sys2Proof.Machine
end

