-- ==== Sys2Proof/Machine/Translate.lean ====
section
/-! DEFINITION. Where an access goes: homes (R113, R114), the walk (R365 to R368) and the checks of R108, R109, R112,
R117 in the order of R129. -/

namespace Sys2Proof.Machine

/-- Whether a logical id names a live core (R17, R18). -/
def isLiveCore (s : State) (l : Nat) : Bool := decide (l < s.logicalCores) && !(s.retired.contains l)

/-- The live cores of a cluster, in logical order. -/
def clusterLive (s : State) (cl : Nat) : List Nat :=
  (List.range' (cl * s.liveCores) s.liveCores).filter (fun l => isLiveCore s l)

/-- RINGLEN: the grade's cores of the cluster less its retired ids (R249). -/
def ringLen (s : State) (core : Nat) : Nat := (clusterLive s (clusterOf s core)).length

/-- The first live core of a cluster after an id in logical order, wrapping. -/
def nextLive (s : State) (l : Nat) : Option Nat :=
  let c := clusterLive s (clusterOf s l)
  (c.find? (fun x => decide (l < x))).or c.head?

/-- The physical cores that are not DEFECT, as a mask. -/
def soundCores (s : State) : BitVec 1152 := s.defect.foldl (fun m p => m &&& ~~~(1#1152 <<< p)) (BitVec.allOnes 1152)

/-- The table of core groups at power-on (R114): every live or spare core, those of each die, or none. -/
def resetGroup (s : State) (n : Nat) : BitVec 1152 :=
  if n = 0 then soundCores s
  else if n ≤ 8 then ((BitVec.allOnes 144).setWidth 1152 <<< (144 * (n - 1))) &&& soundCores s
  else 0

/-- A core-group mask (R114). -/
def groupMask (s : State) (n : Nat) : BitVec 1152 := (mapGet s.hg n).getD (resetGroup s n)

/-- Whether a mask holds the bit of any physical core that holds an id or held it until it failed (R113). -/
def namesId (s : State) (m : BitVec 1152) (l : Nat) : Bool :=
  m.getLsbD (origOf s l) || m.getLsbD (physOf s l) || s.failed.any (fun f => f.2 == l && m.getLsbD f.1)

/-- LiveIds of a mask (R113): an id counts once however many of its cores' bits are set, and a retired id's place
goes to the next live core of its cluster. -/
def liveIds (s : State) (m : BitVec 1152) : List Nat :=
  ((List.range s.logicalCores).filter (namesId s m)).filterMap
    (fun l => if isLiveCore s l then some l else nextLive s l)

/-- Home of a physical address under a homing attribute; none where the attribute raises PROT (R113). -/
def homeOf (s : State) (attr : BitVec 12) (p : Nat) : Option Nat :=
  if attr.getLsbD 11 then
    if bitsZero attr then
      let g := liveIds s (groupMask s (attr.extractLsb' 0 6).toNat)
      let l := BitVec.ofNat 47 (p / 128)
      let h := (l.extractLsb' 0 16 ^^^ l.extractLsb' 16 16 ^^^ (l.extractLsb' 32 15).setWidth 16).toNat
      if g.length = 0 then none else g[h % g.length]?
    else none
  else if isLiveCore s (attr.extractLsb' 0 11).toNat then some (attr.extractLsb' 0 11).toNat else none
where
  /-- The reserved bits 10:6 of sel are clear. -/
  bitsZero (attr : BitVec 12) : Bool := attr.extractLsb' 6 5 == 0

/-- Who makes an access: a core, and the slot and region on whose behalf it is made. The numbers after the cores' are the
west and the east I/O die. -/
structure Who where
  core : Nat
  slot : Nat
  region : Nat
  deriving DecidableEq, Repr

/-- The slot whose turn it is, as it makes accesses. -/
def State.who (s : State) : Who := ⟨s.myCore, s.cur, s.me.region⟩

/-- The number by which Who names the west I/O die. -/
def westDie : Nat := 2048

/-- The number by which Who names the east I/O die. -/
def eastDie : Nat := 2049

/-- What an access needs (R112, R160, R367). -/
inductive Need where
  | load | store | fetch | rmw | look
  deriving DecidableEq, Repr

/-- The walker's readers (R368). -/
inductive Reader where
  | core (c : Nat) | west | east
  deriving DecidableEq, Repr

/-- Who walks for an access. -/
def Who.reader (w : Who) : Reader := if w.core = westDie then .west else if w.core = eastDie then .east else .core w.core

/-- A reader's bit in a sharer bitmap (R368). -/
def readerBit (s : State) : Reader → Nat
  | .core c => physOf s c
  | .west => 1152
  | .east => 1153

/-- A reader's walk cache. -/
def walksOf (s : State) : Reader → List WalkEntry
  | .core c => (s.core c).walks
  | .west => s.westWalks
  | .east => s.eastWalks

/-- A reader's walk cache changed. -/
def modWalks (s : State) (r : Reader) (f : List WalkEntry → List WalkEntry) : State :=
  match r with
  | .core c => s.modCore c (fun k => { k with walks := f k.walks })
  | .west => { s with westWalks := f s.westWalks }
  | .east => { s with eastWalks := f s.eastWalks }

/-- Offset bits of a page size (R366). -/
def pageBits (psize : BitVec 2) : Nat :=
  match psize.toNat with
  | 0 => 12
  | 1 => 16
  | 2 => 21
  | _ => 30

/-- The index fields of a walk, root first: lowest bit and width (R366). -/
def walkLevels (psize : BitVec 2) : List (Nat × Nat) :=
  match psize.toNat with
  | 0 => [(48, 2), (39, 9), (30, 9), (21, 9), (12, 9)]
  | 1 => [(43, 7), (34, 9), (25, 9), (16, 9)]
  | 2 => [(48, 2), (39, 9), (30, 9), (21, 9)]
  | _ => [(48, 2), (39, 9), (30, 9)]

/-- What a walk comes to, with the table lines it read: no translation, a poisoned table line, or a leaf. -/
inductive Walked where
  | none (lines : List Nat)
  | poison (lines : List Nat)
  | leaf (w : Word) (lines : List Nat)
  deriving DecidableEq, Repr

/-- The walk from a table down (R366, R367). -/
def walkFrom (s : State) (va table : Nat) (lines : List Nat) : List (Nat × Nat) → Walked
  | [] => .none lines
  | (lo, w) :: rest =>
    let a := table + 8 * (va / 2 ^ lo % 2 ^ w)
    let e := wordOf (readBytes s.mem a 8)
    let lines := lines ++ [a / 128]
    if (s.line (a / 128)).poison then .poison lines
    else if e.getLsbD 63 then
      match rest with
      | [] => .leaf e lines
      | _ => walkFrom s va ((e.extractLsb' 12 36).toNat * 4096) lines rest
    else .none lines

/-- The sharer bits a walk sets (R368). -/
def markSharers (s : State) (bit : Nat) (lines : List Nat) : State :=
  lines.foldl (fun s l =>
    s.modLine l (fun i => { i with sharers := if i.sharers.contains bit then i.sharers else bit :: i.sharers })) s

/-- Whether a reader has a translation of a va in its walk cache. -/
def isWalked (s : State) (r : Reader) (va : Nat) : Bool := (walksOf s r).any (fun e => e.page == va / 2 ^ e.bits)

/-- A leaf and the offset bits of its page, for a va of this device, and the state after: from the reader's walk cache, or by
a walk that it then keeps. A walk sets the reader's bit at every line it reads; one that finds nothing keeps nothing (R368). -/
def walk (s : State) (r : Reader) (va : Nat) : Except Cause (Word × Nat) × State :=
  match (walksOf s r).find? (fun e => e.page == va / 2 ^ e.bits) with
  | some e => (.ok (e.leaf, e.bits), s)
  | none =>
    let raf := s.raf[va / 2 ^ 50 % 16]'(Nat.mod_lt _ (by decide))
    if raf.getLsbD 63 then
      let psize := raf.extractLsb' 61 2
      match walkFrom s va ((raf.extractLsb' 12 36).toNat * 4096) [] (walkLevels psize) with
      | .none lines => (.error .outside, markSharers s (readerBit s r) lines)
      | .poison lines => (.error .poison, markSharers s (readerBit s r) lines)
      | .leaf w lines =>
        let s := markSharers s (readerBit s r) lines
        (.ok (w, pageBits psize), modWalks s r (fun c => ⟨va / 2 ^ pageBits psize, pageBits psize, w, lines⟩ :: c))
    else (.error .outside, s)

/-- What a walk finds, with the state after it where it finds a translation (R368). -/
def leafFor (s : State) (r : Reader) (va : Nat) : Except Cause ((Word × Nat) × State) :=
  match walk s r va with
  | (.ok x, s) => .ok (x, s)
  | (.error c, _) => .error c

/-- The physical address a leaf gives a va (R367). -/
def frameOf (leaf : Word) (bits va : Nat) : Nat :=
  (leaf.extractLsb' 12 28).toNat * 4096 / 2 ^ bits * 2 ^ bits + va % 2 ^ bits

/-- Whether a leaf permits an access (R367). -/
def leafPermits (leaf : Word) : Need → Bool
  | .load | .look => leaf.getLsbD 62
  | .store | .rmw => leaf.getLsbD 61
  | .fetch => leaf.getLsbD 60

/-- A local address: bits 63:48 all set (R108). -/
def isLocal (a : Word) : Bool := a.extractLsb' 48 16 == 0xFFFF#16

/-- The bank key of a core's TCM, a cluster's scratchpad and a die's shared SRAM in State.mem. -/
def tcmKey (core off : Nat) : Nat := 2 ^ 48 + core * 2 ^ 18 + off

/-- See tcmKey. -/
def spadKey (cluster off : Nat) : Nat := 2 ^ 49 + cluster * 2 ^ 22 + off

/-- See tcmKey. -/
def sramKey (die off : Nat) : Nat := 2 ^ 50 + die * 2 ^ 26 + off

/-- The space of R112 that a local address lies in, with its offset (R108). -/
def localSpace (a : Word) : Option (Nat × Nat) :=
  let o := (a.extractLsb' 0 48).toNat
  if o < 2 ^ 18 then some (0, o)
  else if 2 ^ 32 ≤ o ∧ o < 2 ^ 32 + 2 ^ 22 then some (1, o - 2 ^ 32)
  else if 2 ^ 33 ≤ o ∧ o < 2 ^ 33 + 2 ^ 26 then some (2, o - 2 ^ 33)
  else none

/-- The size of a space. -/
def spaceSize (sp : Nat) : Nat := if sp = 0 then 2 ^ 18 else if sp = 1 then 2 ^ 22 else 2 ^ 26

/-- The bank key of a space's byte, for a core. -/
def spaceKey (s : State) (core sp off : Nat) : Nat :=
  if sp = 0 then tcmKey core off else if sp = 1 then spadKey (clusterOf s core) off else sramKey (dieOf s core) off

/-- Whether a protection window passes an access (R112). -/
def windowPasses (pw : Word) (region sp off n : Nat) (need : Need) : Bool :=
  let base := (pw.extractLsb' 25 19).toNat * 128
  let len := ((pw.extractLsb' 6 19).toNat + 1) * 128
  pw.getLsbD 63 && (pw.extractLsb' 61 2).toNat == sp && (pw.extractLsb' 44 14).toNat == region &&
    decide (base ≤ off) && decide (off + n ≤ base + len) && decide (off + n ≤ spaceSize sp) &&
    match need with
    | .load | .look => pw.getLsbD 60
    | .store => pw.getLsbD 59
    | .rmw => pw.getLsbD 60 && pw.getLsbD 59
    | .fetch => pw.getLsbD 58

/-- The check of a local access (R108, R112). -/
def localLoc (s : State) (w : Who) (a : Word) (n : Nat) (need : Need) : Except Cause Loc :=
  match localSpace a with
  | none => .error .prot
  | some (sp, off) =>
    if (s.core w.core).pw.toList.any (fun pw => windowPasses pw w.region sp off n need) then
      .ok (.bank (spaceKey s w.core sp off))
    else .error .prot

/-- The device an address names, 0x1FF for this one (R109, R414). -/
def devOf (s : State) (a : Word) : BitVec 9 := (normAddr s a).extractLsb' 54 9

/-- The va of an address (R109). -/
def vaOf (a : Word) : Nat := (a.extractLsb' 0 54).toNat

/-- Whether a module is present at a device number, this device apart (R21, R109). -/
def isPresent (s : State) (d : BitVec 9) : Bool := decide (d.toNat < 432) && s.present.contains d.toNat

/-- Whether a range meets the first 512 bytes of a live or ending region's block (R331). -/
def inRcb (s : State) (p n : Nat) : Bool :=
  s.regions.any (fun e => (e.2.state == .live || e.2.state == .ending) &&
    match e.2.phys with
    | some q => decide (p < q + 512) && decide (q < p + n)
    | none => false)

/-- The size of the journal (R392). -/
def journalSize : Nat := 2 ^ 24

/-- Whether a range of device memory meets the journal's (R391). -/
def inJournal (s : State) (p n : Nat) : Bool := decide (s.jbase.toNat < p + n) && decide (p < s.jbase.toNat + journalSize)

/-- Whether an address lies in a range of this device's memory that a base and a size give. -/
def inRange (s : State) (a base size : Word) : Bool :=
  base != 0 && decide ((normAddr s base).toNat ≤ (normAddr s a).toNat) &&
    decide ((normAddr s a).toNat < (normAddr s base).toNat + size.toNat)

/-- Whether n bytes at an address meet a range of this device's memory that a base and a size give. -/
def meetsRange (s : State) (a : Word) (n : Nat) (base size : Word) : Bool :=
  base != 0 && size != 0 && decide ((normAddr s base).toNat < (normAddr s a).toNat + n) &&
    decide ((normAddr s a).toNat < (normAddr s base).toNat + size.toNat)

/-- The records, not FREE, of a live region's arena that n bytes at an address meet, all in one line (R203). -/
def recordsMet (s : State) (a : Word) (p n : Nat) : List Nat :=
  (([p / 64 * 64, (p + n - 1) / 64 * 64]).eraseDups).filter (fun q =>
    let at_ := normAddr s a + BitVec.ofNat 64 q - BitVec.ofNat 64 p
    s.regions.any (fun e => e.2.state == .live && inRange s at_ e.2.recBase e.2.recSize) &&
      decide ((byteAt s.mem q).toNat % 8 ≠ 0))

/-- Whether n bytes at an address meet a record of a live region's arena that is not FREE (R203). -/
def inLiveRecord (s : State) (a : Word) (p n : Nat) : Bool := !(recordsMet s a p n).isEmpty

/-- Whether n bytes at an address meet a live region's record arena (R203). -/
def inRecords (s : State) (a : Word) (n : Nat) : Bool :=
  s.regions.any (fun e => e.2.state == .live && meetsRange s a n e.2.recBase e.2.recSize)

/-- Whether n bytes at an address meet a live region's shadow pool (R298). -/
def inShadowPool (s : State) (a : Word) (n : Nat) : Bool :=
  s.regions.any (fun e => e.2.state == .live && meetsRange s a n e.2.shdBase e.2.shdSize)

/-- The bytes of the staging area of a collective of n columns (R326). -/
def stageBytes (n : Nat) : Nat := 9 * 2048 * ((4 * n + 63) / 64)

/-- Whether n bytes at an address meet the staging area of a collective of several ranks that runs (R327). -/
def inStaging (s : State) (a : Word) (n : Nat) : Bool :=
  s.colls.any (fun r => !r.finished && r.sig.p != 1 && meetsRange s a n r.stage (BitVec.ofNat 64 (stageBytes r.sig.n)))

/-- What debug mode refuses (R203, R298, R331): a store into a live block or record, any access to a shadow pool. -/
def softRefuses (s : State) (debug : Bool) (a : Word) (p n : Nat) (need : Need) : Bool :=
  debug &&
    (inShadowPool s a n ||
      match need with
      | .store | .rmw => inRcb s p n || inLiveRecord s a p n
      | _ => false)

/-- What debug mode refuses an access of a region. -/
def debugRefuses (s : State) (w : Who) (a : Word) (p n : Nat) (need : Need) : Bool :=
  softRefuses s (s.region w.region).debug a p n need

/-- The check of a global access of n bytes in one line (R109, R113, R117, R367), in the order of R129: PROT, then
FATALHW, then OUTSIDE, then POISON of a table line. No lease covers the journal, whatever the tables say by now (R391; log entry
140). -/
def globalLoc (s : State) (w : Who) (a : Word) (n : Nat) (need : Need) : Except Cause (Loc × State) :=
  if a.getLsbD 63 then .error .prot
  else if devOf s a = 0x1FF then
    match leafFor s w.reader (vaOf a) with
    | .error c => if c = .poison && !(resident s w.region a n) then .error .outside else .error c
    | .ok ((leaf, bits), s') =>
      let p := frameOf leaf bits (vaOf a)
      match homeOf s (leaf.extractLsb' 44 12) p with
      | none => .error .prot
      | some h =>
        if !(leafPermits leaf need) || debugRefuses s w a p n need then .error .prot
        else if resident s w.region a n && !(inJournal s p n) then .ok (.home p h, s')
        else .error .outside
  else if isPresent s (devOf s a) then
    if resident s w.region a n then .ok (.away a, s) else .error .outside
  else .error .fatalhw

/-- Whether an access is one that needs a walk of this device's tables (R109, R368). -/
def walksFor (s : State) (w : Who) (a : Word) : Bool :=
  !(a.getLsbD 63) && devOf s a == 0x1FF && !(isWalked s w.reader (vaOf a))

/-- The walk that an access makes, which stands whatever becomes of the access (R368). -/
def afterWalk (s : State) (w : Who) (a : Word) : State := if walksFor s w a then (walk s w.reader (vaOf a)).2 else s

/-- The checks of an access after MISALIGN. -/
def accessLoc (s : State) (w : Who) (a : Word) (n : Nat) (need : Need) : Except Cause (Loc × State) :=
  if isLocal a then (localLoc s w a n need).map (fun l => (l, s)) else globalLoc s w a n need

end Sys2Proof.Machine
end

