-- ==== Sys2Proof/Machine/Home.lean ====
section
/-! DEFINITION. What happens at a home or a bank: reads, writes with their shadows (R297 to R300), the record of strong
accesses (R156), the words that software must not store to (R203, R298, R331), and who is woken (R176). -/

namespace Sys2Proof.Machine

/-- Whether a location is one that a home serves. -/
def atSomeHome : Loc → Bool
  | .home _ _ => true
  | _ => false

/-- A WAITCNT sleeper whose word has reached its threshold is satisfied with the word's value (R176), or meets POISON
(R160). -/
def wakeCounter (s : State) (key len : Nat) (sl : Slot) : Slot :=
  match sl.status, sl.reply with
  | .asleep z, none =>
    match z.kind with
    | .waitcnt loc thr =>
      match locKey loc with
      | some k =>
        let r := lateRead s (atSomeHome loc) k 8
        let met := match r with
          | .val v => decide (thr.toNat ≤ v.toNat)
          | .fault _ _ => true
        if k < key + len ∧ key < k + 8 ∧ met = true then { sl with reply := some r } else sl
      | none => sl
    | _ => sl
  | _, _ => sl

/-- Whether a slot's request is still on its way to its home. -/
def onWay (s : State) (slot : Nat) : Bool := s.atoms.any (fun q => q.slot == slot)

/-- Every sleeper on a counted word that a write reached, whose request has come there (R176). -/
def wakeCounters (s : State) (key len : Nat) : State :=
  { s with slots := s.slots.map (fun e => (e.1, if onWay s e.1 then e.2 else wakeCounter s key len e.2)) }

/-- A write to a bank of local memory (R111). -/
def bankWrite (s : State) (key : Nat) (bs : List Byte) : State :=
  wakeCounters { s with mem := writeBytes s.mem key bs } key bs.length

/-- Whether a snapshot covers an address (R297). -/
def snapCovers (s : State) (n : Snap) (a : Word) : Bool :=
  decide ((normAddr s n.base).toNat ≤ (normAddr s a).toNat) &&
    decide ((normAddr s a).toNat < (normAddr s n.base).toNat + n.len)

/-- Whether a home has recorded a snapshot and not yet carried out its end (R299). -/
def recordedAt (h : Nat) (n : Snap) : Bool :=
  n.recorded.getLsbD h && match n.ending with
    | none => true
    | some (_, ended, _) => !(ended.getLsbD h)

/-- The snapshots in need at a write (R297). -/
def inNeed (s : State) (a : Word) (p h : Nat) : List Snap :=
  s.snaps.filter (fun n => recordedAt h n && snapCovers s n a && decide ((s.line (p / 128)).tag < n.seq) && !n.broken)

/-- A snapshot breaks, at a home where one finds it so, with one imprecise record (R300). -/
def breakSnap (s : State) (n : Snap) (a : Word) (home : Option Nat) : State :=
  let s := { s with snaps := s.snaps.map (fun m : Snap => if m.seq = n.seq then { m with broken := true } else m) }
  let id : Word := BitVec.ofNat 64 (n.level * 2 ^ 61 + n.seq)
  s.sendRecord { trapRec s 1 (causeCode .shadowfull) 6 n.region n.slot 0 a id with home := home }

/-- The lines of pools that shadows take (R298). -/
def poolLines (s : State) : List Word := s.lines.flatMap (fun e => e.2.shadows.map Shadow.at_)

/-- A free line of a region's pool (R298): which one is a free choice (log entry 77). -/
def chooseLine (s : State) (r : Nat) : Option (Word × State) :=
  let g := s.region r
  let n := g.shdSize.toNat / 128
  let used := poolLines s
  let (v, s') := s.draw
  let at_ := fun (i : Nat) => normAddr s (g.shdBase + BitVec.ofNat 64 (128 * ((v.toNat + i) % n)))
  if n = 0 then none
  else ((List.range (min n (used.length + 1))).find? (fun i => !(used.contains (at_ i)))).map (fun i => (at_ i, s'))

/-- A line of the pool that a home can write a shadow to (R300): none where there is none free, where its line gives no
translation or lies under no lease, or where an error has struck it. -/
def takePoolLine (s : State) (r h : Nat) : Option (Word × State) :=
  match chooseLine s r with
  | none => none
  | some (a, s) =>
    match leafFor s (.core h) (vaOf a) with
    | .error _ => none
    | .ok ((leaf, bits), s) =>
      if resident s r a 128 && !((s.line (frameOf leaf bits (vaOf a) / 128)).poison) then some (a, s) else none

/-- The walk for a line of the pool, which stands though no shadow is written (R368). -/
def poolMiss (s : State) (r h : Nat) : State :=
  match chooseLine s r with
  | none => s
  | some (a, _) => (walk s (.core h) (vaOf a)).2

/-- The levels of some snapshots as a mask. -/
def levelMask (ns : List Snap) : BitVec 8 := ns.foldl (fun m n => m ||| (1#8 <<< n.level)) 0

/-- The copy-on-write step before a write is applied (R297). -/
def shadowStep (s : State) (a : Word) (p h : Nat) : State :=
  match inNeed s a p h with
  | [] => s
  | n :: ns =>
    let need := n :: ns
    match (takePoolLine s n.region h).bind (fun x => (charge x.2 n.region [(.shadows, 1)]).map (fun s => (x.1, s))) with
    | none => need.foldl (fun s n => breakSnap s n (a &&& ~~~ (127 : Word)) (some h)) (poolMiss s n.region h)
    | some (b, s') =>
      let l := p / 128
      s'.modLine l (fun i => { i with
        tag := need.foldl (fun t n => max t n.seq) 0,
        shadows := ⟨b, readBytes s.mem (l * 128) 128, i.poison, levelMask need, n.region, h⟩ :: i.shadows })

/-- The part of an access that overlaps the recorded strong access without being equal to it, as first offset in the
access and length; none where the access is not mixed-size (R156). -/
def mixedPart (s : State) (p n : Nat) : Option (Nat × Nat) :=
  match (s.line (p / 128)).strong with
  | none => none
  | some (o, m) =>
    let q := p % 128
    if (q = o ∧ n = m) ∨ q + n ≤ o ∨ o + m ≤ q then none
    else
      let lo := max q o
      let hi := min (q + n) (o + m)
      some (lo - q, hi - lo)

/-- What a home finds in an access of debug mode as it comes there: PROT where it is refused (R203, R298, R331), MIXSIZE
where it is strong and mixed-size (R156). -/
def homeRefuses (s : State) (debug strong : Bool) (a : Word) (p n : Nat) (need : Need) : Option Cause :=
  if softRefuses s debug a p n need then some .prot
  else if debug && strong && (mixedPart s p n).isSome then some .mixsize
  else none

/-- Bytes with a part replaced by undefined ones (R8). -/
def blur (s : State) (bs : List Byte) (part : Option (Nat × Nat)) : List Byte × State :=
  match part with
  | none => (bs, s)
  | some (o, m) =>
    let (fs, s) := s.drawBytes m
    (overlay bs o fs, s)

/-- The home's record of a strong access (R156). -/
def recordStrong (s : State) (p n : Nat) : State :=
  s.modLine (p / 128) (fun i => { i with strong := some (p % 128, n) })

/-- A write that is not strong clears a record that it covers (R156). -/
def clearStrong (s : State) (p n : Nat) : State :=
  match (s.line (p / 128)).strong with
  | none => s
  | some (o, m) =>
    if p % 128 ≤ o ∧ o + m ≤ p % 128 + n then s.modLine (p / 128) (fun i => { i with strong := none }) else s

/-- A write arrives at its home (R115, R297): the shadow, the bytes, the new version, the sleepers it wakes. -/
def homeWrite (s : State) (a : Word) (p h : Nat) (bs : List Byte) : State :=
  let s := shadowStep (touchLine s (p / 128) h) a p h
  wakeCounters (rawWrite s p bs) p bs.length

/-- A region whose block was stored to: its budgets and stack are undefined (R331). -/
def scrambleRegion (s : State) (r : Nat) : State :=
  let (ws, s) := s.drawWords 18
  { s with regions := mapPut s.regions r { s.region r with
      budgets := Vector.ofFn (fun i : Fin 5 => ⟨ws.getD (2 * i.val) 0, (ws.getD (2 * i.val + 1) 0).toNat⟩),
      snaps := Vector.ofFn (fun i : Fin 8 => ws.getD (10 + i.val) 0) } }

/-- The shadows in a pool that software accessed are undefined (R298). -/
def scramblePool (s : State) (a : Word) (n : Nat) : State :=
  let (bs, s) := s.drawBytes 128
  { s with lines := s.lines.map (fun e => (e.1, { e.2 with shadows := e.2.shadows.map (fun h =>
      if meetsRange s a n (s.region h.region).shdBase (s.region h.region).shdSize then { h with bytes := bs } else h) })) }

/-- Bytes of memory that are undefined (R8). -/
def scrambleBytes (s : State) (p n : Nat) : State :=
  let (bs, s) := s.drawBytes n
  { s with mem := writeBytes s.mem p bs }

/-- What a store by software makes undefined: the budgets and stack of a live region whose block it meets (R331), the
contents of a record that is not FREE (R203), the contents of a shadow pool (R298), the bytes of a staging area in use
(R327). -/
def softHarm (before : State) (s : State) (a : Word) (p n : Nat) : State :=
  let s := if inRcb before p n then
      (before.regions.filter (fun e => (e.2.state == .live || e.2.state == .ending) && match e.2.phys with
        | some q => decide (p < q + 512) && decide (q < p + n)
        | none => false)).foldl (fun s e => scrambleRegion s e.1) s
    else s
  let s := (recordsMet before a p n).foldl (fun s q => scrambleBytes s q 64) s
  let s := if inStaging before a n then scrambleBytes s p n else s
  if inShadowPool before a n then scramblePool s a n else s

/-- A plain store of software arrives at its home. -/
def plainStore (s : State) (a : Word) (p h : Nat) (bs : List Byte) : State :=
  clearStrong (softHarm s (homeWrite s a p h bs) a p bs.length) p bs.length

/-- A strong store arrives at its home outside debug mode: the part that is mixed-size is undefined (R156). -/
def strongStore (s : State) (a : Word) (p h : Nat) (bs : List Byte) : State :=
  let (bs, s') := blur s bs (mixedPart s p bs.length)
  recordStrong (softHarm s (homeWrite s' a p h bs) a p bs.length) p bs.length

/-- Whether two homes serve a line: another slice holds it than the one the access came to (R113, R114). -/
def twoHomes (s : State) (p h : Nat) : Bool :=
  match (s.line (p / 128)).slice with
  | some h' => h' != h
  | none => false

/-- The bytes a load finds at the home: undefined where two homes serve the line, in a staging area in use (R327), or in a
shadow pool, whose contents such a load makes undefined too (R298). -/
def homeBytes (s : State) (a : Word) (p h n : Nat) : List Byte × State :=
  if inShadowPool s a n then (scramblePool s a n).drawBytes n
  else if twoHomes s p h || inStaging s a n then s.drawBytes n
  else (readBytes s.mem p n, s)

/-- The bytes a strong access reads at its home outside debug mode (R156). -/
def strongBytes (s : State) (a : Word) (p h n : Nat) : List Byte × State :=
  let (bs, s) := homeBytes s a p h n
  blur s bs (mixedPart s p n)

end Sys2Proof.Machine
end

