-- ==== Sys2Proof/Machine/Records.lean ====
section
/-! DEFINITION. Thunk records at their homes (R202, R203), handles (R200), waiter lists (R212), and the frames, charges
and references that end with them (R219). -/

namespace Sys2Proof

/-- A handle's type (R200): 0 null, 1 immediate, 2 record, 3 reserved. -/
def hType (h : Word) : Nat := (h.extractLsb' 62 2).toNat

/-- A handle's region. -/
def hRegion (h : Word) : Nat := (h.extractLsb' 48 14).toNat

/-- The address that a handle names (R200). -/
def hAddr (h : Word) : Word := 0#1 ++ 0x1FF#9 ++ 0#6 ++ h.extractLsb' 6 42 ++ 0#6

/-- A record handle's generation. -/
def hGen (h : Word) : BitVec 6 := h.extractLsb' 0 6

/-- A handle from its fields. -/
def mkHandle (type : BitVec 2) (region : Nat) (a : Word) (gen : BitVec 6) : Word :=
  type ++ BitVec.ofNat 14 region ++ a.extractLsb' 6 42 ++ gen

/-- The fields of a record's header (R203). -/
structure Header where
  evid : BitVec 16
  refs : Nat
  satf : Bool
  depth : Nat
  gen : BitVec 6
  cause : BitVec 5
  st : Nat
  deriving DecidableEq, Repr

/-- A header word read. -/
def headerOf (w : Word) : Header :=
  ⟨w.extractLsb' 48 16, (w.extractLsb' 32 16).toNat, w.getLsbD 23, (w.extractLsb' 16 7).toNat, w.extractLsb' 8 6,
    w.extractLsb' 3 5, (w.extractLsb' 0 3).toNat⟩

/-- A header as its word. -/
def Header.word (h : Header) : Word :=
  h.evid ++ BitVec.ofNat 16 h.refs ++ 0#8 ++ BitVec.ofBool h.satf ++ BitVec.ofNat 7 h.depth ++ 0#2 ++ h.gen ++ h.cause ++
    BitVec.ofNat 3 h.st

end Sys2Proof

namespace Sys2Proof.Machine

/-- Record states (R203): FREE, THUNK, EVAL, VALUE, FAULTED. -/
def stFree : Nat := 0

/-- See stFree. -/
def stThunk : Nat := 1

/-- See stFree. -/
def stEval : Nat := 2

/-- See stFree. -/
def stValue : Nat := 3

/-- See stFree. -/
def stFaulted : Nat := 4

/-- A record found at its home. -/
structure RecAt where
  a : Word
  p : Nat
  h : Nat
  deriving DecidableEq, Repr

/-- Where an engine finds the record at an address, by the tables alone. -/
def recAt (s : State) (core : Nat) (a : Word) : Option (RecAt × State) :=
  match leafFor s (Who.reader ⟨core, 0, 0⟩) (vaOf a) with
  | .error _ => none
  | .ok ((leaf, bits), s) =>
    let p := frameOf leaf bits (vaOf a)
    (homeOf s (leaf.extractLsb' 44 12) p).map (fun h => (⟨a, p, h⟩, s))

/-- The state after a walk for a record that finds none: it has read its table lines all the same (R368). -/
def recMiss (s : State) (core : Nat) (a : Word) : State := (walk s (Who.reader ⟨core, 0, 0⟩) (vaOf a)).2

/-- An 8-byte word of a record, read strongly at its home (R203). -/
def recRead (s : State) (r : RecAt) (off : Nat) : Word × State :=
  let s := touchLine s (r.p / 128) r.h
  let (bs, s) := strongBytes s (r.a + BitVec.ofNat 64 off) (r.p + off) r.h 8
  (wordOf bs, recordStrong s (r.p + off) 8)

/-- An 8-byte word of a record, written strongly at its home. -/
def recWrite (s : State) (r : RecAt) (off : Nat) (v : Word) : State :=
  recordStrong (homeWrite s (r.a + BitVec.ofNat 64 off) (r.p + off) r.h (bytesOf 8 v)) (r.p + off) 8

/-- A record's header. -/
def recHeader (s : State) (r : RecAt) : Header × State :=
  let (w, s) := recRead s r 0
  (headerOf w, s)

/-- A record's header written. -/
def putHeader (s : State) (r : RecAt) (h : Header) : State := recWrite s r 0 h.word

/-- The operand handles of a record (R202). -/
def recOps (s : State) (r : RecAt) : List Word × State :=
  let (a, s) := recRead s r 24
  let (b, s) := recRead s r 32
  let (c, s) := recRead s r 40
  ([a, b, c], s)

/-- The evaluation of a number, 4 × core + number. -/
def State.eval (s : State) (e : Nat) : Eval := (mapGet s.evals e).getD Eval.init

/-- An evaluation changed. -/
def State.modEval (s : State) (e : Nat) (f : Eval → Eval) : State :=
  { s with evals := mapPut s.evals e (f (s.eval e)) }

/-- An evaluation's id (R210). -/
def evalId (s : State) (e : Nat) : BitVec 16 := 1#1 ++ (s.eval e).seq ++ BitVec.ofNat 11 (e / 4) ++ BitVec.ofNat 2 (e % 4)

/-- The number of the evaluation that an id names. -/
def evalNum (id : BitVec 16) : Nat := 4 * (id.extractLsb' 2 11).toNat + (id.extractLsb' 0 2).toNat

/-- The waiter word of a slot and of an evaluation (R212). -/
def slotLink (slot : Nat) : Word := 1#2 ++ BitVec.ofNat 62 slot

/-- See slotLink. -/
def evalLink (s : State) (e : Nat) : Word := 2#2 ++ 0#46 ++ evalId s e

/-- The number of the slot or evaluation that a waiter word names. -/
def linkNum (w : Word) : Nat :=
  if (w.extractLsb' 62 2).toNat = 1 then (w.extractLsb' 0 14).toNat else evalNum (w.extractLsb' 0 16)

/-- A waiter's own link word (R205). -/
def linkOf (s : State) (w : Word) : Word :=
  if (w.extractLsb' 62 2).toNat = 1 then (s.slot (linkNum w)).link else (s.eval (linkNum w)).link

/-- A waiter's own link word written. -/
def setLink (s : State) (w : Word) (v : Word) : State :=
  if (w.extractLsb' 62 2).toNat = 1 then s.modSlot (linkNum w) (fun sl => { sl with link := v })
  else s.modEval (linkNum w) (fun e => { e with link := v })

/-- The waiters of a list from its head; it holds each slot and evaluation of the device once. -/
def chainFrom (s : State) (w : Word) : Nat → List Word
  | 0 => []
  | fuel + 1 =>
    let kind := (w.extractLsb' 62 2).toNat
    if kind = 1 ∨ kind = 2 then w :: chainFrom s (linkOf s w) fuel else []

/-- A record's waiters, head first. -/
def waitersOf (s : State) (r : RecAt) : List Word × State :=
  let (w, s) := recRead s r 8
  (chainFrom s w (12 * s.logicalCores), s)

/-- Waiters linked in an order. -/
def linkChain (s : State) : List Word → State
  | [] => s
  | w :: ws => linkChain (setLink s w (ws.headD 0)) ws

/-- A waiter joins a record's list at the head (R212). -/
def joinWaiters (s : State) (r : RecAt) (w : Word) : State :=
  let (old, s) := recRead s r 8
  recWrite (setLink s w old) r 8 w

/-- A waiter leaves a record's list. -/
def leaveWaiters (s : State) (r : RecAt) (w : Word) : State :=
  let (ws, s) := waitersOf s r
  if ws.contains w then
    let ws := ws.filter (fun x => x != w)
    recWrite (linkChain s ws) r 8 (ws.headD 0)
  else s

/-- Wake (R212): one message to each waiter of a record, head to tail, and the list is empty. -/
def wakeWaiters (s : State) (r : RecAt) (hdl : Word) (what : WakeEvent) : State :=
  let (ws, s) := waitersOf s r
  let s := recWrite s r 8 0
  { s with wakes := s.wakes ++ ws.map (fun w => Wake.mk w hdl what) }

/-- A frame goes back to its region (R219). -/
def returnFrame (s : State) (rg : Nat) (f : Word) : State :=
  if s.frames.contains (rg, f) then
    refund { s with frames := s.frames.filter (fun x => x != (rg, f)) } rg [(.frames, 1)]
  else s

/-- Bytes that a record's immediate operands pin (R207). -/
def pinned (ops : List Word) : Nat := 2048 * (ops.filter (fun x => hType x == 1)).length

/-- Freeing a record that is not in EVAL (R219): its operands' references are dropped by the engine later and its pins
refunded, for a THUNK or FAULTED one; its frame returns; rec; the next generation, with no result (R202). -/
def freeRecord (s : State) (rg : Nat) (r : RecAt) (hd : Header) : State :=
  let (ops, s) := recOps s r
  let (result, s) := recRead s r 16
  let open_ := hd.st == stThunk || hd.st == stFaulted
  let drops := if open_ then ops.filter (fun x => hType x == 2) else []
  let s := { s with refDrops := s.refDrops ++ drops }
  let s := if open_ then refund s rg [(.pins, pinned ops)] else s
  let s := if hd.st = stValue then returnFrame s rg result else s
  let s := refund s rg [(.recs, 1)]
  let s : State := { s with
    records := s.records.filter (fun x => x.2 != normAddr s r.a), doomed := s.doomed.filter (fun p => p != r.p) }
  let s := if result = 0 then s else recWrite s r 16 0
  putHeader s r ⟨0, 0, hd.satf, hd.depth, hd.gen + 1, 0, stFree⟩

/-- A reference to a record is dropped (R219): at 0 it is freed; one in EVAL is marked to free, and freed when its
evaluation ends, whatever references it gains meanwhile (R204). Where there is none, nothing happens (log entry 119). -/
def dropCount (s : State) (rg : Nat) (r : RecAt) (hd : Header) : State :=
  if hd.refs = 65535 ∨ hd.refs = 0 then s
  else if hd.refs = 1 ∧ hd.st ≠ stEval then freeRecord s rg r hd
  else
    let s := putHeader s r { hd with refs := hd.refs - 1 }
    if hd.refs = 1 then { s with doomed := r.p :: s.doomed } else s

/-- The engine drops the reference that a record held on an operand (R219): nothing where the operand is FREE or of
another generation. -/
def dropRef (s : State) (core : Nat) (x : Word) : State :=
  match recAt s core (hAddr x) with
  | none => recMiss s core (hAddr x)
  | some (r, s) =>
    let (hd, s) := recHeader s r
    if hd.st = stFree ∨ hd.gen ≠ hGen x then s else dropCount s (hRegion x) r hd

/-- A SUSPEND under way leaves its slot: what a lazy one has charged is refunded, and the frame of a strict one whose
handle the slot holds returns (R207, R208). -/
def dropSusp (s : State) (slot : Nat) : State :=
  let sl := s.slot slot
  match sl.susp with
  | none => s
  | some u =>
    let s := s.modSlot slot (fun sl => { sl with susp := none })
    match u.pin, sl.reply with
    | some p, _ => refund s sl.region [(.recs, 1), (.pins, p)]
    | none, some (.val v) => if v = 0 then s else returnFrame s (hRegion v) (hAddr v)
    | none, _ => s

/-- A slot that sleeps on a thunk is withdrawn (R212, R213, R208): it leaves the record's list, no evaluation knows it
any more, a SUSPEND under way is given up, and a strict one's handle that is on its way to it is given back. -/
def withdrawThunk (s : State) (slot : Nat) : State :=
  let s := dropSusp s slot
  let s : State := match (s.slot slot).status with
    | .asleep z =>
      (match z.kind with
        | .thunk h =>
          if hType h = 2 then
            match recAt s (coreOf slot) (hAddr h) with
            | some (r, s) => leaveWaiters s r (slotLink slot)
            | none => recMiss s (coreOf slot) (hAddr h)
          else s
        | _ => s)
    | _ => s
  let s : State := { s with evals := s.evals.map (fun (e : Nat × Eval) => if e.2.waiter = some slot then (e.1, { e.2 with waiter := none }) else e) }
  let mine := s.wakes.filter (fun w => w.to_ == slotLink slot)
  let s : State := { s with wakes := s.wakes.filter (fun w => w.to_ != slotLink slot) }
  mine.foldl (fun s w => match w.what with
    | .handle v => returnFrame s (hRegion v) (hAddr v)
    | _ => s) s

end Sys2Proof.Machine
end

