-- ==== Sys2Proof/Machine/Float.lean ====
section
/-! DEFINITION. Numbers read from formats as exact values, exact arithmetic on them, and rounding to nearest, ties to
even, once at the end (R99, R226, R231, R232). -/

namespace Sys2Proof.Machine

/-- What an element holds: a NaN with its sign bit, a signed infinity, or (−1)^neg × m × 2^e; zero keeps its sign. -/
inductive Num where
  | nan (neg : Bool)
  | inf (neg : Bool)
  | fin (neg : Bool) (m : Nat) (e : Int)
  deriving DecidableEq, Repr

/-- A binary format: exponent bits and fraction bits (R226). -/
structure Fmt where
  eb : Nat
  mb : Nat
  deriving DecidableEq, Repr

/-- FP32 (R99, R226). -/
def fp32 : Fmt := ⟨8, 23⟩

/-- FP16 (R226). -/
def fp16 : Fmt := ⟨5, 10⟩

/-- BF16 (R226). -/
def bf16 : Fmt := ⟨8, 7⟩

/-- E8M10 (R227). -/
def e8m10 : Fmt := ⟨8, 10⟩

/-- The exponent bias. -/
def Fmt.bias (f : Fmt) : Nat := 2 ^ (f.eb - 1) - 1

/-- The exponent of the last place of the least normal value. -/
def Fmt.qmin (f : Fmt) : Int := 1 - (f.bias : Int) - (f.mb : Int)

/-- The value of some bits of a format (R226). -/
def unpack (f : Fmt) (bits : Nat) : Num :=
  let frac := bits % 2 ^ f.mb
  let ex := bits / 2 ^ f.mb % 2 ^ f.eb
  let neg := decide (bits / 2 ^ (f.mb + f.eb) % 2 = 1)
  if ex = 2 ^ f.eb - 1 then (if frac = 0 then .inf neg else .nan neg)
  else if ex = 0 then .fin neg frac f.qmin
  else .fin neg (2 ^ f.mb + frac) (f.qmin + ex - 1)

/-- m × 2^e, a little more if sticky, rounded to nearest, ties to even, at the last place that the format gives it, as
mantissa and exponent, the exponent unbounded above. A sticky value must carry at least two bits below that place. -/
def roundTo (f : Fmt) (m : Nat) (e : Int) (sticky : Bool) : Nat × Int :=
  if m = 0 then (0, f.qmin)
  else
    let q := max (e + (Nat.log2 m : Int) - (f.mb : Int)) f.qmin
    let sh := q - e
    if sh ≤ 0 then (m * 2 ^ (-sh).toNat, q)
    else
      let k := sh.toNat
      let hi := m / 2 ^ k
      let lo := m % 2 ^ k
      let half := 2 ^ (k - 1)
      let up := decide (half < lo) || (decide (lo = half) && (sticky || decide (hi % 2 = 1)))
      let r := if up then hi + 1 else hi
      if r = 2 ^ (f.mb + 1) then (2 ^ f.mb, q + 1) else (r, q)

/-- Whether a rounded value is beyond the largest finite one. -/
def tooBig (f : Fmt) (r : Nat × Int) : Bool :=
  decide (2 ^ f.mb ≤ r.1) && decide ((2 ^ f.eb - 2 : Int) < r.2 - f.qmin + 1)

/-- The bits of a sign and a rounded value that is not too big. -/
def packFin (f : Fmt) (neg : Bool) (r : Nat × Int) : Nat :=
  let s := if neg then 2 ^ (f.eb + f.mb) else 0
  if r.1 < 2 ^ f.mb then s + r.1
  else s + (r.2 - f.qmin + 1).toNat * 2 ^ f.mb + (r.1 - 2 ^ f.mb)

/-- The bits of an infinity. -/
def packInf (f : Fmt) (neg : Bool) : Nat :=
  (if neg then 2 ^ (f.eb + f.mb) else 0) + (2 ^ f.eb - 1) * 2 ^ f.mb

/-- The bits of the largest finite value of a sign. -/
def packMax (f : Fmt) (neg : Bool) : Nat := packInf f neg - 1

/-- The bits of the quiet NaN of a sign. -/
def packNan (f : Fmt) (neg : Bool) : Nat := packInf f neg + 2 ^ (f.mb - 1)

/-- The FP32 value of a word. -/
def num32 (w : W32) : Num := unpack fp32 w.toNat

/-- A value rounded to FP32 by R99: overflow to infinity, one quiet NaN. -/
def round32 (x : Num) (sticky : Bool) : W32 :=
  BitVec.ofNat 32 (match x with
    | .nan _ => packNan fp32 false
    | .inf neg => packInf fp32 neg
    | .fin neg m e =>
      let r := roundTo fp32 m e sticky
      if tooBig fp32 r then packInf fp32 neg else packFin fp32 neg r)

/-- The integer that a sign and magnitude stand for at an exponent no greater than their own. -/
def atExp (neg : Bool) (m : Nat) (e to_ : Int) : Int :=
  let v : Int := (m * 2 ^ (e - to_).toNat : Nat)
  if neg then -v else v

/-- A finite value from an integer and an exponent; a zero takes the sign given. -/
def ofInt (i : Int) (e : Int) (zneg : Bool) : Num := if i = 0 then .fin zneg 0 e else .fin (decide (i < 0)) i.natAbs e

/-- The exact sum (R99): opposite infinities give a NaN; an exact zero is negative only if both terms are. -/
def addNum (x y : Num) : Num :=
  match x, y with
  | .nan _, _ | _, .nan _ => .nan false
  | .inf a, .inf b => if a = b then .inf a else .nan false
  | .inf a, _ => .inf a
  | _, .inf b => .inf b
  | .fin a m e, .fin b n d =>
    let q := min e d
    ofInt (atExp a m e q + atExp b n d q) q (if m = 0 ∧ n = 0 then a && b else false)

/-- The value with its sign changed. -/
def negNum : Num → Num
  | .nan s => .nan (!s)
  | .inf s => .inf (!s)
  | .fin s m e => .fin (!s) m e

/-- The exact product (R99): zero times infinity gives a NaN. -/
def mulNum (x y : Num) : Num :=
  match x, y with
  | .nan _, _ | _, .nan _ => .nan false
  | .inf a, .inf b => .inf (a != b)
  | .inf a, .fin b m _ => if m = 0 then .nan false else .inf (a != b)
  | .fin a m _, .inf b => if m = 0 then .nan false else .inf (a != b)
  | .fin a m e, .fin b n d => .fin (a != b) (m * n) (e + d)

/-- Whether a value is a NaN. -/
def isNan : Num → Bool
  | .nan _ => true
  | _ => false

/-- Whether one value is less than another, neither being a NaN; −0 and +0 are equal. -/
def ltNum (x y : Num) : Bool :=
  match x, y with
  | .nan _, _ | _, .nan _ => false
  | .inf a, .inf b => a && !b
  | .inf a, .fin _ _ _ => a
  | .fin _ _ _, .inf b => !b
  | .fin a m e, .fin b n d => let q := min e d; decide (atExp a m e q < atExp b n d q)

/-- Whether two values are equal, neither being a NaN. -/
def eqNum (x y : Num) : Bool := !isNan x && !isNan y && !ltNum x y && !ltNum y x

/-- The sign bit of a value. -/
def signOf : Num → Bool
  | .nan s => s
  | .inf s => s
  | .fin s _ _ => s

/-- An integer as a value. -/
def numOfInt (i : Int) : Num := ofInt i 0 false

/-- A value rounded to an integer, ties to even; none for a NaN, an infinity as a number beyond every bound. -/
def roundInt (x : Num) : Option Int :=
  match x with
  | .nan _ => none
  | .inf neg => some (if neg then -(2 ^ 200 : Int) else 2 ^ 200)
  | .fin neg m e =>
    let v : Nat :=
      if 0 ≤ e then m * 2 ^ e.toNat
      else
        let k := (-e).toNat
        let hi := m / 2 ^ k
        let lo := m % 2 ^ k
        let half := 2 ^ (k - 1)
        if half < lo ∨ (lo = half ∧ hi % 2 = 1) then hi + 1 else hi
    some (if neg then -(v : Int) else v)

/-- An integer held within bounds. -/
def clampInt (lo hi i : Int) : Int := if i < lo then lo else if hi < i then hi else i

end Sys2Proof.Machine
end

