-- ==== Sys2Proof/Machine/Access.lean ====
section
/-! DEFINITION. The loads and stores of a slot: watchpoints (R378), the store buffer (R122, R178), the leased data cache
(R118 to R121, R123) and the requests that leave for homes and other devices. -/

namespace Sys2Proof.Machine

/-- The spellings of an address: both of those that name a byte of this device (R414). -/
def spellings (s : State) (a : Word) : List Word :=
  if !(a.getLsbD 63) && (a.extractLsb' 54 9 == s.dev || a.extractLsb' 54 9 == 0x1FF) then
    [0#1 ++ 0x1FF#9 ++ a.extractLsb' 0 54, 0#1 ++ s.dev ++ a.extractLsb' 0 54]
  else [a]

/-- Whether a watchpoint's kind names an access (R377, R378). -/
def watchNames (w : Watch) (ld st : Bool) : Bool :=
  match w.kind.toNat with
  | 1 => ld
  | 2 => st
  | 3 => ld || st
  | _ => false

/-- Whether a watchpoint covers a byte, the two spellings of this device alike (R378, R414). -/
def watchCovers (s : State) (w : Watch) (a : Word) : Bool :=
  (spellings s a).any (fun b => decide ((b - w.base).toNat < w.len.toNat))

/-- The first byte of an access that matches a watchpoint of the slot (R378). -/
def watchHit (s : State) (a : Word) (n : Nat) (ld st : Bool) : Option Word :=
  if s.me.wpSkip then none
  else ((List.range n).map (fun i => a + BitVec.ofNat 64 i)).find? (fun b =>
    (watchNames s.me.wp0 ld st && watchCovers s s.me.wp0 b) || (watchNames s.me.wp1 ld st && watchCovers s s.me.wp1 b))

/-- The watchpoints' part of an access: WATCH comes after the instruction's other faults and before any effect (R378). -/
def checkWatch (s : State) (a : Word) (n : Nat) (ld st : Bool) : Eff Unit :=
  match watchHit s a n ld st with
  | some b => .seen () s b
  | none => .ok () s

/-- The walk of the slot whose turn it is, where its core has not the translation: the walk comes first, and what it has
found stays whatever becomes of the instruction (R368). -/
def walkFirst (s : State) (a : Word) : Eff Unit :=
  if walksFor s s.who a && (walk s s.who.reader (vaOf a)).1.isOk then hold (fun s0 => (afterWalk s0 s0.who a).stall .poll)
  else .ok () s

/-- The checked location of an access of the slot whose turn it is. -/
def slotLoc (s : State) (a : Word) (n : Nat) (need : Need) : Eff Loc :=
  (walkFirst s a).andThen fun _ s =>
  match accessLoc s s.who a n need with
  | .ok (l, s') => .ok l s'
  | .error c => .trap c a (fun s0 => afterWalk s0 s0.who a)

/-- MISALIGN unless an address is a multiple of the width. -/
def checkAlign (s : State) (a : Word) (n : Nat) : Eff Unit := check s (decide (a.toNat % n = 0)) .misalign a

/-- Where two checked locations overlap: how far the second's first byte lies past the first's, if their bytes meet. -/
def overlapAt (l : Loc) (n : Nat) (m : Loc) (k : Nat) : Bool :=
  match l, m with
  | .bank a, .bank b => decide (a < b + k) && decide (b < a + n)
  | .home a _, .home b _ => decide (a < b + k) && decide (b < a + n)
  | .away a, .away b => decide (a.toNat < b.toNat + k) && decide (b.toNat < a.toNat + n)
  | _, _ => false

/-- The first byte of a location as a number within its own memory. -/
def locNat : Loc → Nat
  | .bank k => k
  | .home p _ => p
  | .away a => a.toNat

/-- Whether two locations lie in one line, or in 128 bytes of one bank. -/
def sameLine (l m : Loc) : Bool :=
  match l, m with
  | .bank a, .bank b => a / 128 == b / 128
  | .home a _, .home b _ => a / 128 == b / 128
  | .away a, .away b => a.toNat / 128 == b.toNat / 128
  | _, _ => false

/-- What the store buffer says to a load (R123): bytes to forward, or to wait, or nothing. -/
inductive Looked where
  | forward (bs : List Byte)
  | conflict
  | nothing
  deriving DecidableEq, Repr

/-- The youngest entry of a store buffer that overlaps a load decides (R123); a store of debug mode that its home checks
shows to no load before that (R156, R203). -/
def lookSbuf (sb : List SbEntry) (l : Loc) (n : Nat) : Looked :=
  match sb.reverse.find? (fun e => overlapAt l n e.loc e.bytes.length) with
  | none => .nothing
  | some e =>
    let o := locNat l - locNat e.loc
    match e.kind with
    | .update _ _ _ | .strong true | .checked | .look _ => .conflict
    | _ =>
      if locNat e.loc ≤ locNat l ∧ locNat l + n ≤ locNat e.loc + e.bytes.length then .forward ((e.bytes.drop o).take n)
      else .conflict

/-- The address of the line an address lies in, this device spelt 0x1FF (R414). -/
def lineAddr (s : State) (a : Word) : Word := normAddr s a &&& ~~~ (127 : Word)

/-- Whether a cached line's lease is valid (R118). -/
def leaseValid (s : State) (k : Core) (l : CacheLine) : Bool :=
  l.live && decide (s.time.toNat < l.grant.toNat + k.leaselen)

/-- A cached line at an address. -/
def cachedLine (s : State) (c : Nat) (a : Word) : Option CacheLine :=
  (s.core c).cache.find? (fun l => l.addr == lineAddr s a)

/-- A cached line has been used: least-recently-used order (R118). -/
def useLine (s : State) (c : Nat) (a : Word) : State :=
  s.modCore c (fun k => { k with
    tick := k.tick + 1, cache := k.cache.map (fun l => if l.addr = lineAddr s a then { l with used := k.tick } else l) })

/-- The bytes of an access within its line. -/
def inLine (line : List Byte) (a : Word) (n : Nat) : List Byte := (line.drop (a.toNat % 128)).take n

/-- A request of a slot for a line leaves its core, for a home or another device (R121, R123): the version of the line it
holds, and its TIME as grant time. The slot waits for it, or not. -/
def requestLine (s : State) (from_ : Nat) (waits : Bool) (a : Word) (n : Nat) (loc : Loc) (strong : Option Bool)
    (fwd : Option (List Byte)) (code : Bool) : State :=
  let held := cachedLine s (coreOf from_) a
  let s : State := { s with loads := s.loads ++ [{
      core := coreOf from_, slot := if waits then some from_ else none, line := lineAddr s a, addr := a, n,
      loc := match loc with
        | .home p h => .home (p / 128 * 128) h
        | l => l
      version := held.map CacheLine.version
      kept := (held.map (if code then CacheLine.homeBytes else CacheLine.bytes)).getD []
      grant := s.time, strong, fwd, code, live := true, answer := none }] }
  match loc with
  | .away b => { s with outbox := s.outbox ++ [Out.load from_ b n (held.map CacheLine.version)] }
  | _ => s

/-- The first element that meets a test, and the list without it. -/
def takeFirst {α : Type} (f : α → Bool) : List α → Option (α × List α)
  | [] => none
  | x :: xs => if f x then some (x, xs) else (takeFirst f xs).map (fun r => (r.1, x :: r.2))

/-- A read of the instruction in progress that has been answered, used once. -/
def takeGot (s : State) (a : Word) (n : Nat) : Option (Found (List Byte) × State) :=
  (takeFirst (fun g : Got => g.addr == a && g.n == n) s.me.got).map
    (fun r => (r.1.res, s.modMe (fun sl => { sl with got := r.2 })))

/-- The slot waits, and its load goes on with step 2 of R123 once the entries that overlap it now have drained. -/
def waitOverlap (s : State) (a : Word) (n : Nat) : State → State :=
  let mark := match s.me.step2 with
    | some (b, m, k) => if b = a ∧ m = n then k else (s.core s.myCore).sbNext
    | none => (s.core s.myCore).sbNext
  fun s0 => s0.modMe (fun sl => { sl with step2 := some (a, n, mark), status := .waiting .poll })

/-- What the store buffer says to a load of the slot whose turn it is (R123): one that has met an overlap only waits for
the entries that overlapped it then. -/
def lookFirst (s : State) (sb : List SbEntry) (a : Word) (loc : Loc) (n : Nat) : Looked :=
  match s.me.step2 with
  | some (b, m, mark) =>
    if b = a ∧ m = n then
      if sb.any (fun e => decide (e.id < mark) && overlapAt loc n e.loc e.bytes.length) then .conflict else .nothing
    else lookSbuf sb loc n
  | none => lookSbuf sb loc n

/-- Whether no update of the core waits for some bytes of a bank: an access of them comes after it (R136, R178). -/
def bankFree (s : State) (c k n : Nat) : Bool :=
  !((s.core c).sbuf.any (fun e => overlapAt (.bank k) n e.loc e.bytes.length))

/-- Whether a place in local memory is of a scratchpad, whose banks serve one word each in a cycle (R110). -/
def inBanks (k : Nat) : Bool := decide (2 ^ 49 ≤ k) && decide (k < 2 ^ 50)

/-- The words that hold some bytes, by number. -/
def wordsIn (k n : Nat) : List Nat := List.range' (k / 8) ((k + n + 7) / 8 - k / 8)

/-- The bank that holds a word of a scratchpad, of 64 to a cluster (R110). -/
def bankOf (w : Nat) : Nat := (8 * w - 2 ^ 49) / 2 ^ 22 * 64 + w % 64

/-- The slot's access to a scratchpad is before its banks (R110): what the instruction has read so far it keeps meanwhile. -/
def askBanks (s : State) (k n : Nat) (store : Option (Word × List Byte)) (must : Bool) (s0 : State) : State :=
  s0.modMe (fun sl => { storeMade sl with
    got := s.me.reads ++ s.me.got, kept := s.me.popped, room := s.me.room
    bank := some ⟨k, n, store, wordsIn k n, [], must⟩, status := .waiting .bank })

/-- The access of the instruction to a place in a scratchpad, once the banks have served each of its words (R110). -/
def bankDone (s : State) (k n : Nat) (store : Bool) : Option BankAccess :=
  s.me.bank.filter (fun x => x.key == k && x.n == n && x.store.isSome == store && x.due.isEmpty)

/-- A slot's fetch of a line of code from a scratchpad is before its banks (R110, R415): the pc lies at a place in it. -/
def fetchBanks (s : State) (slot k : Nat) : State :=
  let base := k - (s.slot slot).pc.toNat % 128
  s.modSlot slot (fun sl => { sl with bank := some ⟨base, 128, none, wordsIn base 128, [], false⟩ })

/-- The bytes that a read of a scratchpad has had. -/
def BankAccess.bytes (x : BankAccess) : List Byte :=
  (List.range x.n).map (fun i => ((mapGet x.had ((x.key + i) / 8)).getD []).getD ((x.key + i) % 8) 0)

/-- The access to a scratchpad is over. -/
def bankOver (s : State) : State := s.modMe (fun sl => { sl with bank := none })

/-- What reads and writes one word takes effect as its bank serves it (R110). -/
def atService {α : Type} (s : State) (k n : Nat) (must : Bool) (e : Eff α) : Eff α :=
  if inBanks k && (bankDone s k n false).isNone then hold (askBanks s k n none must) else e

/-- Such an access, after the core's updates of those bytes (R136, R178). -/
def atFreeBank {α : Type} (s : State) (k n : Nat) (must : Bool) (e : Eff α) : Eff α :=
  if bankFree s s.myCore k n then atService s k n must e else stall .poll

/-- A read of a bank by the slot whose turn it is, after the core's updates of those bytes (R111, R136, R178); a scratchpad's
words are read as their banks serve them (R110). -/
def bankRead (s : State) (k n : Nat) : Eff (List Byte) :=
  match bankDone s k n false with
  | some x => .ok x.bytes (bankOver s)
  | none => atFreeBank s k n false (.ok (readBytes s.mem k n) s)

/-- A write of a bank by the slot whose turn it is (R111, R136, R178); a scratchpad's words are written as their banks serve
them (R110), and where a watchpoint has matched they are not. -/
def bankStore (s : State) (a : Word) (k : Nat) (bs : List Byte) : Eff Unit :=
  if inBanks k then
    match bankDone s k bs.length true, bankDone s k bs.length false with
    | none, none =>
      if bankFree s s.myCore k bs.length then
        .pause (askBanks s k bs.length (some (a, bs)) false) (askBanks s k bs.length none false)
      else stall .poll
    | _, _ => .ok () (bankOver s)
  else if bankFree s s.myCore k bs.length then .ok () (bankWrite s k bs)
  else stall .poll

/-- Bytes that a load takes from its own core: undefined where they lie in a shadow pool, as the pool then is (R298), or in a
staging area in use (R327). -/
def coreBytes (s : State) (a : Word) (n : Nat) (bs : List Byte) : List Byte × State :=
  if inShadowPool s a n then (scramblePool s a n).drawBytes n
  else if inStaging s a n then s.drawBytes n
  else (bs, s)

/-- A load that takes its bytes from its own core, whose address its home checks and records in debug mode (R156). -/
def fromCore (s : State) (a : Word) (n : Nat) (bs : List Byte) (ask : Option (State → State)) : Eff (List Byte) :=
  match ask with
  | some f => hold f
  | none =>
    let (bs, s) := coreBytes s a n bs
    .ok bs s

/-- Read of n bytes in one line by the slot whose turn it is (R111, R123): cached says whether step 2 may serve it,
strong whether the home checks and records it (R146, R156). -/
def fetchBytes (s : State) (a : Word) (n : Nat) (cached strong : Bool) : Eff (List Byte) :=
  match takeGot s a n with
  | some (.fault c, _) => .trap c a
  | some (.value bs, s) => .ok bs s
  | none =>
    (slotLoc s a n .load).andThen fun loc s =>
    match loc with
    | .bank k => bankRead s k n
    | loc =>
      let k := s.core s.myCore
      let debug := strong && (s.region s.me.region).debug
      let ask : Option (List Byte) → State → State := fun fwd s0 =>
        (requestLine s0 s0.cur true a n loc (if strong then some debug else none) fwd false).stall .reply
      match lookFirst s k.sbuf a loc n with
      | .conflict => hold (waitOverlap s a n)
      | .forward bs => fromCore s a n bs (if debug then some (ask (some bs)) else none)
      | .nothing =>
        match cachedLine s s.myCore a with
        | some l =>
          let bs := inLine l.bytes a n
          if cached && leaseValid s k l then
            if l.poison then .trap .poison a
            else fromCore (useLine s s.myCore a) a n bs
              (if debug then some (fun s0 => ask (some bs) (useLine s0 s0.myCore a)) else none)
          else hold (ask none)
        | none => hold (ask none)

/-- A read that the instruction has made in this turn. -/
def noteRead (s : State) (a : Word) (bs : List Byte) : State :=
  s.modMe (fun sl => { sl with reads := sl.reads ++ [⟨a, bs.length, .value bs⟩] })

/-- A load of the slot whose turn it is, checked against the watchpoints before it takes effect (R378). -/
def loadBytes (s : State) (a : Word) (n : Nat) (cached strong : Bool) : Eff (List Byte) :=
  (fetchBytes s a n cached strong).andThen fun bs s =>
  (checkWatch s a n true false).andThen fun _ s =>
  .ok bs (noteRead s a bs)

/-- The core updates the bytes of the lines it holds as a store enters its buffer; their version stays (R122), and it is no use
of them (R118; log entry 116). -/
def updateCache (s : State) (c : Nat) (a : Word) (loc : Loc) (bs : List Byte) : State :=
  s.modCore c (fun k => { k with cache := k.cache.map (fun l =>
    let here := match loc, l.phys with
      | .home p _, some q => q == p / 128 * 128
      | _, _ => l.addr == lineAddr s a
    if here then { l with bytes := overlay l.bytes (a.toNat % 128) bs } else l) })

/-- Whether an entry waits for the receiving device's acceptance (R122): the youngest of its slot, while that waits. -/
def unaccepted (s : State) (e : SbEntry) : Bool :=
  (s.slot e.slot).status == .waiting .accept &&
    !((s.core (coreOf e.slot)).sbuf.any (fun o => o.slot == e.slot && decide (e.id < o.id)))

/-- Whether an entry is a store that has completed, which the core's loads see (R122, R156). -/
def showsStore (s : State) (e : SbEntry) : Bool :=
  match e.kind with
  | .update _ _ _ | .strong true | .checked | .look _ => false
  | _ => !(unaccepted s e)

/-- A store completes while it is in the buffer: the core's cached bytes take it, under the younger stores that have
completed before it (R122). -/
def storeShows (s : State) (c : Nat) (e : SbEntry) : State :=
  ((s.core c).sbuf.filter (fun o => decide (e.id < o.id) && showsStore s o)).foldl
    (fun s o => updateCache s c o.addr o.loc o.bytes) (updateCache s c e.addr e.loc e.bytes)

/-- What the core has asked for of a line may be older than a write or answer of its own that has reached the home: it
comes without a lease (R136, R141). -/
def staleLoads (s : State) (c : Nat) (a : Word) : State :=
  { s with loads := s.loads.map (fun r =>
    let may := match r.loc with
      | .away _ => true
      | _ => r.answer.isSome
    if r.core = c ∧ r.line = lineAddr s a ∧ may = true then { r with live := false } else r) }

/-- A store or update enters the core's store buffer (R122, R178). -/
def enterSbuf (s : State) (c slot region : Nat) (a : Word) (loc : Loc) (bs : List Byte) (kind : SbKind)
    (scope : BitVec 3) (after : Bool) : State :=
  let k := s.core c
  s.setCore c { k with
    sbuf := k.sbuf ++ [⟨k.sbNext, slot, region, a, loc, bs, kind, scope, after⟩], sbNext := k.sbNext + 1 }

/-- Whether a core's store buffer has a free entry (R122). -/
def sbufRoom (s : State) : Bool := decide ((s.core s.myCore).sbuf.length < Config.storeBuffer)

/-- The answer to a store that waited for one (R122, R156), used once. -/
def takeSent (s : State) (a : Word) : Option (Option Cause × State) :=
  (takeFirst (fun x : Word × Option Cause => x.1 == a) s.me.sent).map
    (fun r => (r.1.2, s.modMe (fun sl => { sl with sent := r.2 })))

/-- What a store has been answered that was only checked (R94, R378). -/
def lookedAt (s : State) (a : Word) : Option (Option Cause) := (s.me.looked.find? (fun x => x.1 == a)).map Prod.snd

/-- A store leaves for another device to be checked there (R94, R378). -/
def lookAway (b : Word) (bs : List Byte) (strong : Bool) (s0 : State) : State :=
  { s0 with outbox := s0.outbox ++ [Out.store s0.cur b bs strong true] }.stall .reply

/-- A store goes on unless it has been checked and refused; where a watchpoint has matched, one that has passed its checks
goes no further (R378). -/
def lookedFirst (s : State) (a : Word) (e : Eff Unit) : Eff Unit :=
  match lookedAt s a, e with
  | some (some c), _ => .trap c a
  | some none, .pause f _ => .wait f
  | _, e => e

/-- A store of the instruction is checked to go to a place. -/
def atPlace (s : State) (a : Word) (loc : Loc) : State := s.modMe (fun sl => { sl with room := some (a, loc) })

/-- Write of bytes in one line at a checked place by the slot whose turn it is (R111, R122, R147): a store of this device
completes as it enters the buffer, one to another device once that device has accepted it, in debug mode a strong one, or
one into a record arena, once its home has checked it (R156, R203). -/
def storeAt (s : State) (a : Word) (loc : Loc) (bs : List Byte) (strong : Bool) (scope : BitVec 3) : Eff Unit :=
  (checkWatch s a bs.length false true).andThen fun _ s =>
  let debug := (s.region s.me.region).debug && (strong || inRecords s a bs.length)
  let kind := if strong then SbKind.strong debug else if debug then .checked else .plain
  let s := atPlace s a loc
  match loc with
  | .bank k => bankStore s a k bs
  | .home p h =>
    if sbufRoom s then
      if debug then
        let enter : SbKind → State → State := fun kind s0 =>
          (enterSbuf s0 s0.myCore s0.cur s0.me.region a (.home p h) bs kind scope false).stall .reply
        lookedFirst s a (.pause (fun s0 => enter kind (keepPops s s0)) (enter (.look strong)))
      else .ok () (enterSbuf (updateCache s s.myCore a loc bs) s.myCore s.cur s.me.region a loc bs kind scope false)
    else stall .poll
  | .away b =>
    if sbufRoom s then
      lookedFirst s a (.pause (fun s0 =>
        let s0 := keepPops s s0
        let s0 := enterSbuf s0 s0.myCore s0.cur s0.me.region a (.away b) bs (if strong then .strong false else .plain) scope false
        { s0 with outbox := s0.outbox ++ [Out.store s0.cur b bs strong false] }.stall .accept) (lookAway b bs strong))
    else stall .poll

/-- Write of bytes in one line by the slot whose turn it is: the answer to it that has come, or its check and the write (R111,
R122). -/
def storeBytes (s : State) (a : Word) (bs : List Byte) (strong : Bool) (scope : BitVec 3) : Eff Unit :=
  match takeSent s a with
  | some (some c, _) => .trap c a
  | some (none, s) => .ok () s
  | none => (slotLoc s a bs.length .store).andThen fun loc s => storeAt s a loc bs strong scope

/-- An update entry (R178): NOTIFY and RUPD, the chunk notifications of streams. -/
def enterUpdate (s : State) (a : Word) (loc : Loc) (n : Nat) (op : BitVec 3) (v : Word) (cnt : Option Word)
    (scope : BitVec 3) (after : Bool) : State :=
  enterSbuf s s.myCore s.cur s.me.region a loc (List.replicate n 0) (.update op v cnt) scope after

/-- Read of n bytes of local memory by the slot whose turn it is (R111). -/
def readLocal (s : State) (a : Word) (n : Nat) (need : Need) : Eff (List Byte) :=
  if isLocal a then
    match localLoc s s.who a n need with
    | .ok (.bank k) => (checkWatch s a n true false).andThen fun _ s => bankRead s k n
    | _ => .trap .prot a
  else .trap .prot a

/-- Write of bytes to local memory by the slot whose turn it is (R111). -/
def writeLocal (s : State) (a : Word) (bs : List Byte) : Eff Unit :=
  if isLocal a then
    match localLoc s s.who a bs.length .store with
    | .ok (.bank k) =>
      (checkWatch s a bs.length false true).andThen fun _ s => bankStore s a k bs
    | _ => .trap .prot a
  else .trap .prot a

end Sys2Proof.Machine
end

