-- ==== Sys2Proof/Machine/Operands.lean ====
section
/-! DEFINITION. Operands of scalar instructions (R93, R94): general registers, and the stream aliases q0 to q7 while
bound (R289 to R293). -/

namespace Sys2Proof.Machine

/-- A general register's own value; g0 reads as 0 (R93). -/
def Slot.reg (sl : Slot) (r : Reg) : Word := if r = 0 then 0 else sl.g[r.toNat]'(by have := r.isLt; omega)

/-- A slot with a general register written; g0 discards it (R93). -/
def Slot.setReg (sl : Slot) (r : Reg) (v : Word) : Slot :=
  if r = 0 then sl else { sl with g := sl.g.set r.toNat v (by have := r.isLt; omega) }

/-- The alias number of a register: g24 to g31 are q0 to q7 (R93). -/
def aliasOf (r : Reg) : Option Nat := if 24 ≤ r.toNat then some (r.toNat - 24) else none

/-- The stream a register is bound to (R94). -/
def boundStream (sl : Slot) (r : Reg) : Option (Nat × Stream) :=
  match aliasOf r with
  | some q => (mapGet sl.streams q).map (fun st => (q, st))
  | none => none

/-- The address of element p (R289): a ring takes the outer index modulo its chunks. -/
def elemAddr (st : Stream) (p : Nat) : Word :=
  let i1 := if st.ring then p / st.n0 % st.n1 else p / st.n0
  st.base + BitVec.ofNat 64 i1 * st.s1.signExtend 64 + BitVec.ofNat 64 (p % st.n0) * st.s0.signExtend 64

/-- x stands at or ahead of y in serial order modulo 2^32 (R292). -/
def serialGe (x y : W32) : Bool := decide ((x - y).toNat < 2 ^ 31)

/-- The condition to enter chunk r of a ring (R292). -/
def chunkOpen (s : State) (c : Nat) (st : Stream) (r : Nat) : Bool :=
  let d := (s.core c).k[st.kc.toNat]'(by have := st.kc.isLt; omega) - st.f0
  if st.write then serialGe (d + BitVec.ofNat 32 st.n1) (BitVec.ofNat 32 (r + 1)) else serialGe d (BitVec.ofNat 32 (r + 1))

/-- A slot's stream written back. -/
def setStream (s : State) (q : Nat) (st : Stream) : State :=
  s.modMe (fun sl => { sl with streams := mapPut sl.streams q st })

/-- Before element p of a ring: its chunk is entered when its condition holds, with ExpireAll; until then the slot's
stall is a sleep that WAITLIM bounds (R292). -/
def enterChunk (s : State) (q : Nat) (st : Stream) : Eff Stream :=
  let r := st.pos / st.n0
  if !st.ring || decide (r < st.entered) then .ok st s
  else if chunkOpen s s.myCore st r then
    let st := { st with entered := r + 1 }
    .ok st (expireAll (setStream s q st) s.myCore)
  else sleep (.ring (BitVec.ofNat 3 q) r) (elemAddr st st.pos)

/-- The chunk's notification after its last element (R292): an update entry that drains after every older entry at
CLUSTER scope or wider; a counted word that fails its checks discards it with an imprecise record (R179, R412). -/
def leaveChunk (s : State) (st : Stream) : Eff Unit :=
  if st.ring && decide ((st.pos + 1) % st.n0 = 0) then
    match accessLoc s s.who st.cw 8 .rmw with
    | .error c => .ok () (s.sendRecord (trapRec s 1 (causeCode c) 0 s.me.region s.cur 0 st.cw 0))
    | .ok (loc, s) =>
      if sbufRoom s then .ok () (enterUpdate s st.cw loc 8 0 1 none st.scope (decide (2 ≤ st.scope.toNat)))
      else stall .poll
  else .ok () s

/-- The position advances by one element. -/
def advance (s : State) (q : Nat) (st : Stream) : Eff Unit :=
  (leaveChunk s st).andThen fun _ s => .ok () (setStream s q { st with pos := st.pos + 1 })

/-- A non-ring stream that is exhausted raises OUTSIDE (R292). -/
def checkStream (s : State) (st : Stream) : Eff Unit :=
  check s (st.ring || decide (st.pos < st.n0 * st.n1)) .outside st.desc

/-- The number of bytes of a width field: 1, 2, 4 or 8 (R36, R289). -/
def widthBytes (w : BitVec 2) : Nat := 2 ^ w.toNat

/-- A ring's chunk is entered, whatever its condition says by now (R292). -/
def forceChunk (s : State) (q : Nat) (st : Stream) : Stream × State :=
  let r := st.pos / st.n0
  if !st.ring || decide (r < st.entered) then (st, s)
  else
    let st := { st with entered := r + 1 }
    (st, expireAll (setStream s q st) s.myCore)

/-- An element that the instruction has popped. -/
def notePop (s : State) (bs : List Byte) : State := s.modMe (fun sl => { sl with popped := sl.popped ++ [bs] })

/-- The bytes of an element that is popped, with the stream in its chunk: a plain load by the slot, its checks in their order
(R292); one that has been popped for good is not loaded again. -/
def popBytes (s : State) (q : Nat) (st : Stream) : Eff (List Byte × Stream) :=
  let n := widthBytes st.ew
  let e : Eff (List Byte × Stream) := match s.me.kept[s.me.popped.length]? with
    | some bs =>
      let (st, s) := forceChunk s q st
      .ok (bs, st) s
    | none =>
      (checkStream s st).andThen fun _ s =>
      (enterChunk s q st).andThen fun st s =>
      (fetchBytes s (elemAddr st st.pos) n true false).andThen fun bs s => .ok (bs, st) s
  e.andThen fun x s => (checkWatch s (elemAddr st st.pos) n true false).andThen fun _ s => .ok x (notePop s x.1)

/-- Pop of one element (R292). -/
def popStream (s : State) (q : Nat) (st : Stream) : Eff Word :=
  (popBytes s q st).andThen fun x s =>
  (advance s q x.2).andThen fun _ s =>
  .ok (if st.sx then sextBytes (widthBytes st.ew) (wordOf x.1) else wordOf x.1) s

/-- Where the instruction's push of a stream goes, if that has been checked before an effect (R94): as the tables place it
now, or where they no longer do, as it was checked (log entry 136). -/
def roomFor (s : State) (st : Stream) : Option Loc :=
  match s.me.room with
  | some (a, loc) =>
    if a = elemAddr st st.pos then
      match accessLoc s s.who a (widthBytes st.ew) .store with
      | .ok (l, _) => some l
      | .error _ => some loc
    else none
  | none => none

/-- Push of one element: a plain store by the slot (R292); one that has been checked before the instruction's effect is not
checked again (R94). -/
def pushStream (s : State) (q : Nat) (st : Stream) (v : Word) : Eff Unit :=
  let bs := bytesOf (widthBytes st.ew) v
  let a := elemAddr st st.pos
  match roomFor s st with
  | some loc =>
    let (st, s) := forceChunk s q st
    (match takeSent s a with
      | some (some c, _) => Eff.trap c a
      | some (none, s) => .ok () s
      | none => storeAt s a loc bs false 0).andThen fun _ s => advance s q st
  | none =>
    (checkStream s st).andThen fun _ s =>
    (enterChunk s q st).andThen fun st s =>
    (storeBytes s a bs false 0).andThen fun _ s => advance s q st

/-- Before an instruction has an effect outside its core: the push that its destination will make has room and raises no
fault, on another device neither (R94, R106). -/
def probeG (s : State) (r : Reg) : Eff Unit :=
  match boundStream s.me r with
  | none => .ok () s
  | some (q, st) =>
    let a := elemAddr st st.pos
    let n := widthBytes st.ew
    if (roomFor s st).isSome then .ok () s
    else
    (checkStream s st).andThen fun _ _ =>
    (enterChunk s q st).andThen fun _ _ =>
    (slotLoc s a n .store).andThen fun loc _ =>
    (checkWatch s a n false true).andThen fun _ s =>
    match loc, lookedAt s a with
    | .away _, some (some c) => .trap c a
    | .away b, none => hold (lookAway b (List.replicate n 0) false)
    | _, _ => .ok () (atPlace s a loc)

/-- Whether a destination's push is one that an instruction waits for once it has its result: to another device, or to a
scratchpad (R110). -/
def pushWaits (s : State) (r : Reg) : Bool :=
  match boundStream s.me r with
  | none => false
  | some (_, st) =>
    match accessLoc s s.who (elemAddr st st.pos) (widthBytes st.ew) .store with
    | .ok (.away _, _) => true
    | .ok (.bank k, _) => inBanks k
    | _ => false

/-- Two destinations, of which the second's push is checked before the first is made (R94). -/
def probeBoth (s : State) (r q : Reg) : Eff Unit :=
  match boundStream s.me r, boundStream s.me q with
  | some _, some _ => (probeG s r).andThen fun _ _ => (probeG s q).andThen fun _ _ => .ok () s
  | _, _ => .ok () s

/-- One source read (R94). -/
def readG (s : State) (r : Reg) : Eff Word :=
  match boundStream s.me r with
  | some (q, st) => popStream s q st
  | none => .ok (s.me.reg r) s

/-- The destination write (R94). -/
def writeG (s : State) (r : Reg) (v : Word) : Eff Unit :=
  match boundStream s.me r with
  | some (q, st) => pushStream s q st v
  | none => .ok () (s.modMe (fun sl => sl.setReg r v))

/-- The destination is written and the instruction is complete. -/
def writeDone (s : State) (r : Reg) (v : Word) : Eff Unit := (writeG s r v).andThen fun _ s => done s

/-- An instruction's effect is made, and its push is all that is left (R94). -/
def pushLater (r : Reg) (v : Word) (sl : Slot) : Slot :=
  { clearProgress sl with
    push := some (r, v), inst := sl.inst, since := sl.since, looked := sl.looked, room := sl.room, status := .waiting .poll }

/-- The destination is written and the instruction complete, whose effect others see: where its push is one that it waits for,
the effect is made at once, the push checked before it (R94, R106; log entry 136). -/
def effectDone (s : State) (r : Reg) (v : Word) : Eff Unit :=
  if pushWaits s r then (probeG s r).andThen fun _ s => .wait (fun _ => s.modMe (pushLater r v))
  else writeDone s r v

end Sys2Proof.Machine
end

