-- ==== Sys2Proof/Machine/Flags.lean ====
section
/-! DEFINITION. The comparisons and conversions of scalar instructions (R95, R98, R100, R101) and the FLAGS bits that
commands set (R234, R236). -/

namespace Sys2Proof.Machine

/-- 1 where a relation holds, else 0. -/
def boolWord (b : Bool) : Word := if b then 1 else 0

/-- The signed lesser (R95). -/
def minS (a b : Word) : Word := if a.slt b then a else b

/-- The signed greater (R95). -/
def maxS (a b : Word) : Word := if a.slt b then b else a

/-- The unsigned lesser (R95). -/
def minU (a b : Word) : Word := if a.ult b then a else b

/-- The unsigned greater (R95). -/
def maxU (a b : Word) : Word := if a.ult b then b else a

/-- Leading zero bits among the low n, counted down from bit n − 1 (R95). -/
def clzFrom (a : Word) : Nat → Nat
  | 0 => 0
  | n + 1 => if a.getLsbD n then 0 else 1 + clzFrom a n

/-- Trailing zero bits from bit 64 − n up (R95). -/
def ctzFrom (a : Word) : Nat → Nat
  | 0 => 0
  | n + 1 => if a.getLsbD (63 - n) then 0 else 1 + ctzFrom a n

/-- One bits among the low n (R95). -/
def popcFrom (a : Word) : Nat → Nat
  | 0 => 0
  | n + 1 => (a.getLsbD n).toNat + popcFrom a n

/-- The eight bytes in reverse order (R95). -/
def bswap (a : Word) : Word := wordOf (bytesOf 8 a).reverse

/-- Signed division truncated toward zero, with the fixed results of R98. -/
def divS (a b : Word) : Word := if b = 0 then BitVec.allOnes 64 else BitVec.ofInt 64 (a.toInt.tdiv b.toInt)

/-- Unsigned division, with the fixed result of R98. -/
def divU (a b : Word) : Word := if b = 0 then BitVec.allOnes 64 else BitVec.ofNat 64 (a.toNat / b.toNat)

/-- Signed remainder (R98). -/
def remS (a b : Word) : Word := if b = 0 then a else a - b * divS a b

/-- Unsigned remainder (R98). -/
def remU (a b : Word) : Word := if b = 0 then a else a - b * divU a b

/-- The high 64 bits of the signed product (R98). -/
def mulHS (a b : Word) : Word := BitVec.ofInt 64 (a.toInt * b.toInt / 2 ^ 64)

/-- The high 64 bits of the unsigned product (R98). -/
def mulHU (a b : Word) : Word := BitVec.ofNat 64 (a.toNat * b.toNat / 2 ^ 64)

/-- Bits 31:0 of a register (R93). -/
def low32 (a : Word) : W32 := a.setWidth 32

/-- FP32 addition (R100). -/
def fadd32 (a b : W32) : W32 := round32 (addNum (num32 a) (num32 b)) false

/-- FP32 subtraction (R100). -/
def fsub32 (a b : W32) : W32 := round32 (addNum (num32 a) (negNum (num32 b))) false

/-- FP32 multiplication (R100). -/
def fmul32 (a b : W32) : W32 := round32 (mulNum (num32 a) (num32 b)) false

/-- FP32 fused multiply-add, rounded once (R100). -/
def ffma32 (a b c : W32) : W32 := round32 (addNum (mulNum (num32 a) (num32 b)) (num32 c)) false

/-- Whether a stands below b for FMIN and FMAX: −0 below +0 (R100). -/
def fBelow (a b : W32) : Bool :=
  ltNum (num32 a) (num32 b) || (eqNum (num32 a) (num32 b) && signOf (num32 a) && !signOf (num32 b))

/-- FP32 minimum (R100). -/
def fmin32 (a b : W32) : W32 :=
  if isNan (num32 a) then (if isNan (num32 b) then 0x7FC00000 else b)
  else if isNan (num32 b) then a
  else if fBelow b a then b else a

/-- FP32 maximum (R100). -/
def fmax32 (a b : W32) : W32 :=
  if isNan (num32 a) then (if isNan (num32 b) then 0x7FC00000 else b)
  else if isNan (num32 b) then a
  else if fBelow a b then b else a

/-- FP32 comparison under cc: 0 EQ, 1 LT, 2 LE, 3 UN (R100). -/
def fcmp32 (cc : BitVec 2) (a b : W32) : Bool :=
  let x := num32 a
  let y := num32 b
  match cc.toNat with
  | 0 => eqNum x y
  | 1 => ltNum x y
  | 2 => ltNum x y || eqNum x y
  | _ => isNan x || isNan y

/-- An integer register as FP32 (R100). -/
def intToF32 (u : Bool) (a : Word) : W32 := round32 (numOfInt (if u then a.toNat else a.toInt)) false

/-- FP32 as a saturated integer (R101). -/
def f32ToInt (u : Bool) (a : W32) : Word :=
  match roundInt (num32 a) with
  | none => 0
  | some i =>
    BitVec.ofInt 64 (if u then clampInt 0 (2 ^ 64 - 1) i else clampInt (-(2 ^ 63)) (2 ^ 63 - 1) i)

/-- FLAGS of a slot with bits added by OR (R236). -/
def orFlags (s : State) (slot : Nat) (f : BitVec 3) : State := s.modSlot slot (fun sl => { sl with flags := sl.flags ||| f })

end Sys2Proof.Machine
end

