-- ==== Sys2Proof/Machine/Atomic.lean ====
section
/-! DEFINITION. What requests and updates do at their home or bank, in the location's one order (R142, R157, R162 to
R167, R173, R176 to R179). -/

namespace Sys2Proof.Machine

/-- A read-modify-write's new value at a width of n bytes: the selector of R161. -/
def amoOp (fn : BitVec 4) (n : Nat) (m v : Word) : Word :=
  let a := BitVec.ofNat (8 * n) m.toNat
  let b := BitVec.ofNat (8 * n) v.toNat
  BitVec.setWidth 64 (match fn.toNat with
    | 0 => a + b
    | 1 => a &&& b
    | 2 => a ||| b
    | 3 => a ^^^ b
    | 4 => if a.slt b then a else b
    | 5 => if a.slt b then b else a
    | 6 => if a.ult b then a else b
    | 7 => if a.ult b then b else a
    | 8 => b
    | _ => (fadd32 (low32 m) (low32 v)).setWidth (8 * n))

/-- The AMO selector and width of an update's op (R177). -/
def updateFn (op : BitVec 3) : BitVec 4 × Nat :=
  match op.toNat with
  | 0 => (0, 8)
  | 1 => (9, 4)
  | 2 => (4, 8)
  | 3 => (5, 8)
  | 4 => (6, 8)
  | _ => (7, 8)

/-- The fields of a phase barrier's word (R172): ph, E, nxt, cur. -/
structure Phase where
  ph : Nat
  e : Nat
  nxt : Nat
  cur : Nat
  deriving DecidableEq, Repr

/-- A word as a phase barrier. -/
def phaseOf (w : Word) : Phase :=
  ⟨(w.extractLsb' 62 2).toNat, (w.extractLsb' 32 16).toNat, (w.extractLsb' 16 16).toNat, (w.extractLsb' 0 16).toNat⟩

/-- A phase barrier as a word, its reserved bits 0 (R9, R172). -/
def phaseWord (b : Phase) : Word :=
  BitVec.ofNat 2 b.ph ++ 0#14 ++ BitVec.ofNat 16 b.e ++ BitVec.ofNat 16 b.nxt ++ BitVec.ofNat 16 b.cur

/-- The loop of ARRIVE: phases end while cur = E, at most twice; the phases that ended (R173). -/
def endPhases (b : Phase) : Nat → Phase × List Nat
  | 0 => (b, [])
  | fuel + 1 =>
    if b.cur = b.e then
      let (b', ps) := endPhases { b with ph := (b.ph + 1) % 4, cur := b.nxt, nxt := 0 } fuel
      (b', b.ph :: ps)
    else (b, [])

/-- One ARRIVE for phase p: none is PHASESKEW, else the word after it and the phases that ended (R173). -/
def arriveStep (w : Word) (p : BitVec 2) : Option (Word × List Nat) :=
  let b := phaseOf w
  let d := (p.toNat + 4 - b.ph) % 4
  if b.e = 0 ∨ 2 ≤ d ∨ (d = 1 ∧ b.nxt = b.e) then none
  else if d = 1 then some (phaseWord { b with nxt := b.nxt + 1 }, [])
  else
    let (b', ps) := endPhases { b with cur := b.cur + 1 } 2
    some (phaseWord b', ps)

/-- Whether WAITPH for phase p sleeps on a word (R173). -/
def phasePending (w : Word) (p : BitVec 2) : Bool := decide ((p.toNat + 4 - (phaseOf w).ph) % 4 < 2)

/-- Sleepers of WAITPH on a location for a phase that ended, whose request has come there, are satisfied (R173). -/
def wakePhase (s : State) (key : Nat) (ph : Nat) : State :=
  { s with slots := s.slots.map (fun e => (e.1,
      match e.2.status, e.2.reply with
      | .asleep z, none =>
        (match z.kind with
        | .waitph loc p => if locKey loc = some key ∧ p.toNat = ph ∧ onWay s e.1 = false then { e.2 with reply := some (.val 0) } else e.2
        | _ => e.2)
      | _, _ => e.2)) }

/-- What a request comes to at its place. -/
inductive AtomRes where
  | value (v : Word)
  | sleeps
  | refused
  | fault (c : Cause)
  deriving DecidableEq, Repr

/-- The bytes a request works on. -/
def atomWidth : AtomOp → Nat
  | .amo _ n _ | .cas n _ _ | .sch n _ | .lrw n => n
  | .arrive _ | .waitcnt _ | .waitph _ => 8

/-- The holder of a location's reservation (R166). -/
def holderOf (s : State) (key : Nat) : Option Nat :=
  match mapGet s.resv key with
  | some (r :: _) => some r.slot
  | _ => none

/-- Queued slots at one home (R166). -/
def queuedAt (s : State) (h : Nat) : Nat :=
  (s.resv.map (fun e => (e.2.filter (fun r => r.home == some h)).length)).sum

/-- The holder passes a reservation on (R167). -/
def passOn (s : State) (key : Nat) : State :=
  match mapGet s.resv key with
  | some (_ :: r :: rest) => grantHead { s with resv := mapPut s.resv key (r :: rest) } key
  | some _ => { s with resv := mapDel s.resv key }
  | none => s

/-- Whether a home, where there is one, has no room for another queued slot (R166). -/
def queueFull (s : State) (home : Option Nat) : Bool :=
  match home with
  | some h => decide (256 ≤ queuedAt s h)
  | none => false

/-- An LRW joins its location's queue, after giving up any other reservation (R166): it reads m where it holds at once,
and is refused by a home that has no room. -/
def joinQueue (s : State) (slot : Nat) (a : Word) (key n : Nat) (m : Word) (home : Option Nat) : State × AtomRes :=
  let s := s.giveUpReservation slot
  if queueFull s home then (s, .refused)
  else
    match mapGet s.resv key with
    | none | some [] =>
      ({ s with resv := mapPut s.resv key [⟨slot, home, n, a, some s.time, (s.slot slot).waitlim⟩] }, .value m)
    | some q => ({ s with resv := mapPut s.resv key (q ++ [⟨slot, home, n, a, none, (s.slot slot).waitlim⟩]) }, .sleeps)

/-- The step at the place once the location's value m is read (R162, R164, R167, R173, R176): the value to write, if
one is written, and the answer; the queue's and sleepers' part follows in atomFinish. -/
def atomStep (s : State) (slot key : Nat) (m : Word) (op : AtomOp) : Option Word × AtomRes :=
  match op with
  | .amo fn n v => (some (amoOp fn n m v), .value m)
  | .cas n e v =>
    if BitVec.ofNat (8 * n) m.toNat = BitVec.ofNat (8 * n) e.toNat then (some v, .value m) else (none, .value m)
  | .sch _ v => if holderOf s key = some slot then (some v, .value 0) else (none, .value 1)
  | .arrive p =>
    match arriveStep m p with
    | none => (none, .fault .phaseskew)
    | some (w, ps) => (some w, .value (if ps = [] then 0 else 1))
  | .lrw _ => (none, .value m)
  | .waitcnt thr => (none, if thr.toNat ≤ m.toNat then .value m else .sleeps)
  | .waitph p => (none, if phasePending m p then .sleeps else .value 0)

/-- After the write: SCH passes the reservation on, ARRIVE wakes the phases that ended, LRW joins the queue. -/
def atomFinish (s : State) (slot : Nat) (a : Word) (key : Nat) (m : Word) (op : AtomOp) (r : AtomRes)
    (home : Option Nat) : State × AtomRes :=
  match op, r with
  | .sch _ _, .value 0 => (passOn s key, r)
  | .arrive p, .value _ =>
    (match arriveStep m p with
      | some (_, ps) => ps.foldl (fun s ph => wakePhase s key ph) s
      | none => s, r)
  | .lrw n, .value _ => joinQueue s slot a key n m home
  | _, r => (s, r)

/-- A request at a bank of local memory (R157). -/
def atBank (s : State) (slot : Nat) (a : Word) (key : Nat) (op : AtomOp) : State × AtomRes :=
  let n := atomWidth op
  let m := wordOf (readBytes s.mem key n)
  let (w, r) := atomStep s slot key m op
  let s := match w with
    | some v => bankWrite s key (bytesOf n v)
    | none => s
  atomFinish s slot a key m op r none

/-- Whether a request meets POISON at its home: every one but SCH reads the location (R160). -/
def atomPoisoned (s : State) (p : Nat) (op : AtomOp) : Bool :=
  match op with
  | .sch _ _ => false
  | _ => (s.line (p / 128)).poison

/-- Whether a request writes its location, so that the core's older copy of the line is no longer what its slot reads (R136,
R141). -/
def atomWrites : AtomOp → Bool
  | .amo _ _ _ | .cas _ _ _ | .sch _ _ | .arrive _ => true
  | .lrw _ | .waitcnt _ | .waitph _ => false

/-- A request at its home (R142), for a region in debug mode or not: what debug mode refuses, PROT, then POISON, then MIXSIZE in
debug mode (R129, R203); outside it a mixed-size part is undefined both as read and as left (R156). One that faults leaves the
record of strong accesses (log entry 118). -/
def atHomeIn (s : State) (debug : Bool) (slot : Nat) (a : Word) (p h : Nat) (op : AtomOp) : State × AtomRes :=
  let n := atomWidth op
  let s := touchLine s (p / 128) h
  let part := mixedPart s p n
  if softRefuses s debug a p n (if atomWrites op then .rmw else .load) then (s, .fault .prot)
  else if atomPoisoned s p op then (s, .fault .poison)
  else if part.isSome && debug then (s, .fault .mixsize)
  else
    let (bs, s) := strongBytes s a p h n
    let m := wordOf bs
    let (w, r) := atomStep s slot p m op
    match r with
    | .fault c => (s, .fault c)
    | r =>
      let s := match w with
        | some v => strongStore s a p h (bytesOf n v)
        | none => recordStrong s p n
      atomFinish s slot a p m op r (some h)

/-- The region number that stands for another device's region out of debug mode; the next one for one in it. -/
def guestRegion : Nat := 16384

/-- Whether the region that a slot's request is made for is in debug mode (R156, R412). -/
def debugOf (s : State) (slot : Nat) : Bool :=
  (s.region (s.slot slot).region).debug || (s.slot slot).region == guestRegion + 1

/-- A slot's request at its home. -/
def atHome (s : State) (slot : Nat) (a : Word) (p h : Nat) (op : AtomOp) : State × AtomRes :=
  atHomeIn s (debugOf s slot) slot a p h op

/-- A slot's request that its home only checks, for a watchpoint that has matched (R378): its fault, or no more. -/
def lookAtHome (s : State) (slot : Nat) (a : Word) (p h : Nat) (op : AtomOp) : State × AtomRes :=
  match (atHome s slot a p h op).2 with
  | .fault c => (touchLine s (p / 128) h, .fault c)
  | _ => (touchLine s (p / 128) h, .value 0)

/-- The core's own atomic or update ends its lease on the line, so that a later load of the slot finds it (R136). -/
def endLease (s : State) (c : Nat) (a : Word) : State :=
  (staleLoads s c a).modCore c
    (fun k => { k with cache := k.cache.map (fun l => if l.addr = lineAddr s a then { l with live := false } else l) })

/-- An imprecise record of an update that is discarded, on behalf of a slot of a device, from the home that refuses it where
one does (R179, R412). -/
def updateFault (s : State) (dev : BitVec 9) (home : Option Nat) (c : Cause) (region slot : Nat) (a : Word) : State :=
  s.sendRecord { trapRec s 1 (causeCode c) 6 region slot 0 a 0 with dev := dev, home := home }

/-- An update applied at a bank or a home, for a region in debug mode or not: whether it was, and else what the home does
with its fault (R177 to R179, R412). -/
def updateAt (s : State) (debug : Bool) (refuse : State → Nat → Cause → State) (a : Word) (loc : Loc) (op : BitVec 3) (v : Word) :
    State × Bool :=
  let (fn, n) := updateFn op
  match loc with
  | .bank k => (bankWrite s k (bytesOf n (amoOp fn n (wordOf (readBytes s.mem k n)) v)), true)
  | .home p h =>
    let s := touchLine s (p / 128) h
    if softRefuses s debug a p n .rmw then (refuse s h .prot, false)
    else if (s.line (p / 128)).poison then (refuse s h .poison, false)
    else if (mixedPart s p n).isSome && debug then (refuse s h .mixsize, false)
    else
      let (bs, s) := strongBytes s a p h n
      (strongStore s a p h (bytesOf n (amoOp fn n (wordOf bs) v)), true)
  | .away _ => (s, false)

/-- An address as another device reads it: this device by its number (R109). -/
def outAddr (s : State) (a : Word) : Word := if devOf s a = 0x1FF then 0#1 ++ s.dev ++ a.extractLsb' 0 54 else a

/-- An update of NOTIFY or RUPD, or a counted word's add, on behalf of a device's slot, applied at its place: whether it was
(R177 to R179, R412). One for another device leaves with the word that the home there counts it in; where no module is there
any more it is discarded (R21, R179). -/
def applyUpdateFrom (dev : BitVec 9) (s : State) (region slot : Nat) (a : Word) (loc : Loc) (op : BitVec 3) (v : Word)
    (cnt : Option Word) : State × Bool :=
  match loc with
  | .away b =>
    if isPresent s (devOf s b) then ({ s with outbox := s.outbox ++ [Out.update slot b op v (cnt.map (outAddr s))] }, false)
    else (updateFault s dev none .fatalhw region slot a, false)
  | loc => updateAt s (s.region region).debug (fun s h c => updateFault s dev (some h) c region slot a) a loc op v

/-- An update of a slot of this device applied at its place. -/
def applyUpdate (s : State) (region slot : Nat) (a : Word) (loc : Loc) (op : BitVec 3) (v : Word) (cnt : Option Word) :
    State × Bool := applyUpdateFrom s.dev s region slot a loc op v cnt

/-- The device's own NOTIFY of an amount to a word, on behalf of a region and a device's slot (R412, R363, R384); the walk
that finds no translation has read its table lines all the same (R368). -/
def notifyFrom (dev : BitVec 9) (s : State) (w : Who) (a : Word) (v : Word) : State :=
  match accessLoc s w a 8 .rmw with
  | .error c => updateFault (afterWalk s w a) dev none c w.region w.slot a
  | .ok (loc, s) => (applyUpdateFrom dev s w.region w.slot a loc 0 v none).1

/-- Such a NOTIFY on behalf of a slot of this device. -/
def notifyFor (s : State) (w : Who) (a : Word) (v : Word) : State := notifyFrom s.dev s w a v

end Sys2Proof.Machine
end

