-- ==== Sys2Proof/Machine/MemoryOps.lean ====
section
/-! DEFINITION. Memory access instructions and the lease group (R108 to R133), ordering instructions (R145 to R149),
and the events of the store buffer, the data cache and the fetch buffers. -/

namespace Sys2Proof.Machine

/-- The effective address of the M format (R35, R124). -/
def effAddr (base : Word) (off : BitVec 11) : Word := base + off.signExtend 64

/-- LD and LDU (R124): the bytes, extended, to gd. A plain access is never torn into its units (log entry 75). -/
def loadInstr (s : State) (gd ga : Reg) (n : Nat) (off : BitVec 11) (sx : Bool) : Eff Unit :=
  (readG s ga).andThen fun b s =>
  let ea := effAddr b off
  (checkAlign s ea n).andThen fun _ s =>
  (loadBytes s ea n true false).andThen fun bs s =>
  writeDone s gd (if sx then sextBytes n (wordOf bs) else wordOf bs)

/-- ST (R124): gd is read after ga. -/
def storeInstr (s : State) (gd ga : Reg) (n : Nat) (off : BitVec 11) : Eff Unit :=
  (readG s ga).andThen fun b s =>
  let ea := effAddr b off
  (checkAlign s ea n).andThen fun _ s =>
  (readG s gd).andThen fun v s =>
  (storeBytes s ea (bytesOf n v) false 0).andThen fun _ s => done s

/-- LD (R124). -/
def execLd (gd ga : Reg) (w : BitVec 2) (off : BitVec 11) (s : State) : Host.Outcome State Fault Refusal :=
  conclude s (loadInstr s gd ga (widthBytes w) off true)

/-- LD with .A8: the 8 bytes are single-copy atomic (R126). -/
def execLdA8 (gd ga : Reg) (off : BitVec 11) (s : State) : Host.Outcome State Fault Refusal :=
  conclude s (loadInstr s gd ga 8 off true)

/-- LDU (R124). -/
def execLdu (gd ga : Reg) (w : BitVec 2) (off : BitVec 11) (s : State) : Host.Outcome State Fault Refusal :=
  conclude s (loadInstr s gd ga (widthBytes w) off false)

/-- ST (R124). -/
def execSt (gd ga : Reg) (w : BitVec 2) (off : BitVec 11) (s : State) : Host.Outcome State Fault Refusal :=
  conclude s (storeInstr s gd ga (widthBytes w) off)

/-- ST with .A8 (R126). -/
def execStA8 (gd ga : Reg) (off : BitVec 11) (s : State) : Host.Outcome State Fault Refusal :=
  conclude s (storeInstr s gd ga 8 off)

/-- LDQ: gd, then gd + 1 (R125). -/
def execLdq (gd ga : Reg) (_flags : BitVec 2) (off : BitVec 11) (s : State) : Host.Outcome State Fault Refusal :=
  conclude s (
    (readG s ga).andThen fun b s =>
    let ea := effAddr b off
    (checkAlign s ea 16).andThen fun _ s =>
    (loadBytes s ea 16 true false).andThen fun bs s =>
    (probeBoth s gd (gd + 1)).andThen fun _ s =>
    (writeG s gd (wordOf (bs.take 8))).andThen fun _ s => writeDone s (gd + 1) (wordOf (bs.drop 8)))

/-- STQ: reads ga, then gd, then gd + 1 (R125). -/
def execStq (gd ga : Reg) (_flags : BitVec 2) (off : BitVec 11) (s : State) : Host.Outcome State Fault Refusal :=
  conclude s (
    (readG s ga).andThen fun b s =>
    let ea := effAddr b off
    (checkAlign s ea 16).andThen fun _ s =>
    (readG s gd).andThen fun lo s =>
    (readG s (gd + 1)).andThen fun hi s =>
    (storeBytes s ea (bytesOf 8 lo ++ bytesOf 8 hi) false 0).andThen fun _ s => done s)

/-- Whether RENEW and PREF act on an address: it is global and passes the checks of a load (R130). -/
def leasable (s : State) (a : Word) : Option Loc :=
  if isLocal a then none
  else
    match globalLoc s s.who a 1 .load with
    | .ok (l, _) => some l
    | .error _ => none

/-- A request for a line that no slot waits for (R130). -/
def askLine (s : State) (a : Word) (loc : Loc) : State :=
  requestLine s s.cur false a 0 loc none none false

/-- RENEW (R130), after the walk that its address needs (log entry 138). -/
def execRenew (ga : Reg) (s : State) : Host.Outcome State Fault Refusal :=
  conclude s (
    (readG s ga).andThen fun x s =>
    (walkFirst s x).andThen fun _ s =>
    match leasable s (x &&& ~~~ (127 : Word)), cachedLine s s.myCore x with
    | some loc, some _ => done (askLine s (x &&& ~~~ (127 : Word)) loc)
    | _, _ => done s)

/-- Lines dropped from the core's cache (R130). -/
def dropLines (s : State) (f : CacheLine → Bool) : State :=
  s.modCore s.myCore (fun k => { k with cache := k.cache.filter (fun l => !(f l)) })

/-- DROP (R130). -/
def execDrop (ga : Reg) (s : State) : Host.Outcome State Fault Refusal :=
  conclude s ((readG s ga).andThen fun x s => done (dropLines s (fun l => l.addr == lineAddr s x)))

/-- Whether a line, in any spelling of its address (R414), overlaps the range [b, b + n), taken modulo 2^64 (R130). -/
def lineInRange (s : State) (l b n : Word) : Bool :=
  n != 0 && (spellings s l).any (fun l => decide ((l - b).toNat < n.toNat) || decide ((b - l).toNat < 128))

/-- What a slot's instruction has written at the homes of a range ends the core's leases there, so that a later load of the
slot finds it (R136). -/
def endRange (s : State) (c : Nat) (a n : Word) : State :=
  (((s.core c).cache.map CacheLine.addr ++ s.loads.map LoadReq.line).filter (fun l => lineInRange s l a n)).foldl
    (fun s l => endLease s c l) s

/-- PRUNE (R130). -/
def execPrune (ga gb : Reg) (s : State) : Host.Outcome State Fault Refusal :=
  conclude s (
    (readG s ga).andThen fun b s =>
    (readG s gb).andThen fun n s => done (dropLines s (fun l => lineInRange s l.addr b n)))

/-- PREF (R130), after the walk that its address needs (log entry 138). -/
def execPref (ga : Reg) (s : State) : Host.Outcome State Fault Refusal :=
  conclude s (
    (readG s ga).andThen fun x s =>
    (walkFirst s x).andThen fun _ s =>
    match leasable s (x &&& ~~~ (127 : Word)) with
    | none => done s
    | some loc =>
      match cachedLine s s.myCore x with
      | some l => if leaseValid s (s.core s.myCore) l then done s else done (askLine s (x &&& ~~~ (127 : Word)) loc)
      | none => done (askLine s (x &&& ~~~ (127 : Word)) loc))

/-- LDACQ (R146). -/
def execLdacq (gd ga : Reg) (scope : BitVec 3) (w : BitVec 2) (off : BitVec 11) (s : State) :
    Host.Outcome State Fault Refusal :=
  conclude s (
    let n := widthBytes w
    (checkScope s scope (encodeScalar (.ldacq gd ga scope w off))).andThen fun _ s =>
    (readG s ga).andThen fun b s =>
    let ea := effAddr b off
    (checkAlign s ea n).andThen fun _ s =>
    (loadBytes s ea n (decide (scope = 0)) true).andThen fun bs s =>
    writeDone (acquire s scope) gd (wordOf bs))

/-- STREL (R147): the checks of the issuing core come before the drain (R150). -/
def execStrel (gd ga : Reg) (scope : BitVec 3) (w : BitVec 2) (off : BitVec 11) (s : State) :
    Host.Outcome State Fault Refusal :=
  conclude s (
    let n := widthBytes w
    (checkScope s scope (encodeScalar (.strel gd ga scope w off))).andThen fun _ s =>
    (readG s ga).andThen fun b s =>
    let ea := effAddr b off
    (checkAlign s ea n).andThen fun _ s =>
    (readG s gd).andThen fun v s =>
    (slotLoc s ea n .store).andThen fun _ s =>
    released s scope fun s =>
    (storeBytes s ea (bytesOf n v) true scope).andThen fun _ s => done s)

/-- FENCE ACQ (R149). -/
def execFenceAcq (scope : BitVec 3) (s : State) : Host.Outcome State Fault Refusal :=
  conclude s (
    (checkScope s scope (encodeScalar (.fenceAcq scope))).andThen fun _ s => done (acquire s scope))

/-- FENCE REL (R149). -/
def execFenceRel (scope : BitVec 3) (s : State) : Host.Outcome State Fault Refusal :=
  conclude s (
    (checkScope s scope (encodeScalar (.fenceRel scope))).andThen fun _ s =>
    released s scope fun s => done s)

/-- FENCE FULL: the drain first, then the leases expire (R149). -/
def execFenceFull (scope : BitVec 3) (s : State) : Host.Outcome State Fault Refusal :=
  conclude s (
    (checkScope s scope (encodeScalar (.fenceFull scope))).andThen fun _ s =>
    released s scope fun s => done (acquire s scope))

/-- A waiting slot takes its turn again, in the rotation's order (R91). -/
def resume (s : State) (slot : Nat) : State := s.modSlot slot (fun sl => { sl with status := .ready })

/-- A slot that waits is answered and takes its turn. -/
def answer (s : State) (slot : Nat) (r : Reply) : State :=
  resume (s.modSlot slot (fun sl => { sl with reply := some r })) slot

/-- Whether a slot waits for a reply. -/
def awaits (s : State) (slot : Nat) : Bool := (s.slot slot).status == .waiting .reply

/-- Whether one live snapshot covers two stores of one slot: they reach their homes in the order of the program (R403; log
entry 109). -/
def snapOrdered (s : State) (o e : SbEntry) : Bool :=
  o.slot == e.slot && s.snaps.any (fun n => snapCovers s n o.addr && snapCovers s n e.addr)

/-- Whether an entry of a store buffer may reach its home: none older of its line, nor of its slot under one snapshot, and none
older at all where it is ordered after them (R122, R159, R403); one for another device only once accepted. -/
def mayDrain (s : State) (sb : List SbEntry) (e : SbEntry) : Bool :=
  !(sb.any (fun o => decide (o.id < e.id) && (e.after || sameLine o.loc e.loc || snapOrdered s o e))) &&
    match e.loc, e.kind with
    | .away _, .plain | .away _, .strong _ => !(unaccepted s e)
    | _, _ => true

/-- A store that waited is answered, and its slot takes its turn (R122, R156). -/
def answerStore (s : State) (slot : Nat) (a : Word) (c : Option Cause) : State :=
  resume (s.modSlot slot (fun sl => { sl with sent := sl.sent ++ [(a, c)] })) slot

/-- A store that was only checked is answered, and its slot takes its turn (R94, R378). -/
def answerLook (s : State) (slot : Nat) (a : Word) (c : Option Cause) : State :=
  resume (s.modSlot slot (fun sl => { sl with looked := sl.looked ++ [(a, c)] })) slot

/-- A store of debug mode that its home checks (R156, R203): only then is it made, and read by the core. -/
def checkedStore (s : State) (c : Nat) (e : SbEntry) (p h : Nat) (strong : Bool) : State :=
  match homeRefuses s true strong e.addr p e.bytes.length .store with
  | some k => answerStore s e.slot e.addr (some k)
  | none =>
    let s := if strong then strongStore s e.addr p h e.bytes else plainStore s e.addr p h e.bytes
    answerStore (storeShows s c e) e.slot e.addr none

/-- Such a store that a watchpoint has matched: checked and no more (R378). -/
def lookedStore (s : State) (e : SbEntry) (p h : Nat) (strong : Bool) : State :=
  let s := touchLine s (p / 128) h
  answerLook s e.slot e.addr (homeRefuses s true strong e.addr p e.bytes.length .store)

/-- The add of an RUPD that has been applied (R177): on the same home, or in local memory as the update is, it follows at
once; else it is on its way. -/
def countAdd (s : State) (c : Nat) (e : SbEntry) (w : Word) : State :=
  let who : Who := ⟨c, e.slot, e.region⟩
  let later := { s with cntAdds := s.cntAdds ++ [(w, e.slot, e.region, e.scope)] }
  match accessLoc s who w 8 .rmw, e.loc with
  | .ok (.home _ h, _), .home _ h' => if h = h' then notifyFor s who w 1 else later
  | .ok (.bank _, _), .bank _ => notifyFor s who w 1
  | _, _ => later

/-- An update at its place, with the add to its counted word (R177). Another device's home makes the add itself; a counted
word of local memory has its add where that device has applied the update, which a free value says (log entry 78). -/
def drainUpdate (s : State) (c : Nat) (e : SbEntry) (op : BitVec 3) (v : Word) (cnt : Option Word) : State :=
  let home := cnt.filter (fun w => !(isLocal w))
  let (s, ok) := applyUpdate s e.region e.slot e.addr e.loc op v home
  let s := endLease s c e.addr
  match ok, cnt, e.loc with
  | true, some w, _ => countAdd s c e w
  | false, some w, .away _ =>
    if isLocal w then
      let (f, s) := s.draw
      if f.getLsbD 0 then countAdd s c e w else s
    else s
  | _, _, _ => s

/-- An entry applied at its home (R122, R156, R178). -/
def applyEntry (s : State) (c : Nat) (e : SbEntry) : State :=
  match e.kind with
  | .update op v cnt => drainUpdate s c e op v cnt
  | .plain =>
    (match e.loc with
      | .bank k => bankWrite s k e.bytes
      | .home p h => staleLoads (plainStore s e.addr p h e.bytes) c e.addr
      | .away _ => staleLoads s c e.addr)
  | .strong check =>
    (match e.loc with
      | .bank k => bankWrite s k e.bytes
      | .home p h => staleLoads (if check then checkedStore s c e p h true else strongStore s e.addr p h e.bytes) c e.addr
      | .away _ => staleLoads s c e.addr)
  | .checked =>
    (match e.loc with
      | .home p h => staleLoads (checkedStore s c e p h false) c e.addr
      | _ => s)
  | .look strong =>
    (match e.loc with
      | .home p h => lookedStore s e p h strong
      | _ => s)

/-- STORE_DRAIN (R122): entry i of a core's buffer reaches its home, where it may. -/
def execStoreDrain (core i : Nat) (s : State) : Host.Outcome State Fault Refusal :=
  .next (
    match (s.core core).sbuf[i]? with
    | some e =>
      if mayDrain s (s.core core).sbuf e then
        applyEntry (s.modCore core (fun k => { k with sbuf := dropAt k.sbuf i })) core e
      else s
    | none => s)

/-- A store of a slot to another device that waits for its acceptance. -/
def asksStore (slot : Nat) : Out → Bool
  | .store sl _ _ _ look => sl == slot && !look
  | _ => false

/-- Bytes of an engine, for a command of a slot, on their way to another device. -/
def isWriteOf (slot : Nat) : Out → Bool
  | .write sl _ _ => sl == slot
  | _ => false

/-- A write of an engine for a slot has reached its home on another device (R48, R285). -/
def writeLanded (s : State) (slot : Nat) : State :=
  match takeFirst (isWriteOf slot) s.outbox with
  | some (_, rest) => { s with outbox := rest }
  | none => s

/-- REMOTE_STORE_ACCEPT (R122): accepted, the store completes and keeps its entry, and the core's cached bytes take it;
refused, it leaves the buffer and raises its fault. With no store of the slot waiting, it is the oldest write of an engine
for the slot that the other device has taken. -/
def execRemoteStoreAccept (slot : Nat) (ans : Answer) (s : State) : Host.Outcome State Fault Refusal :=
  .next (
    let c := coreOf slot
    match (s.core c).sbuf.find? (fun e => e.slot == slot && unaccepted s e), takeFirst (asksStore slot) s.outbox with
    | some e, some (_, rest) =>
      let s : State := { s with outbox := rest }
      match ans with
      | .val _ => answerStore (storeShows s c e) slot e.addr none
      | .fault k =>
        answerStore (s.modCore c (fun k => { k with sbuf := k.sbuf.filter (fun o => o.id != e.id) })) slot e.addr (some k)
    | _, _ => match ans with
      | .val _ => writeLanded s slot
      | .fault _ => s)

/-- A home's answer to a load or renewal (R121, R156). A load that takes its bytes elsewhere is only checked. One whose
version is unchanged sees the home's bytes (log entry 117); one that faults leaves the record of strong accesses (log entry
118). -/
def homeAnswer (s : State) (r : LoadReq) (p h : Nat) : LoadAnswer × State :=
  let s := touchLine s (p / 128) h
  let i := s.line (p / 128)
  let (bs, s) := homeBytes s r.line p h 128
  let hit := r.version == some i.version && !twoHomes s p h
  let ans := fun (seen : List Byte) (c : Option Cause) (s : State) =>
    (LoadAnswer.mk (if hit then none else some bs) i.poison i.version seen c, s)
  let o := r.addr.toNat % 128
  match r.strong with
  | none => ans bs none s
  | some debug =>
    if i.poison && r.fwd.isNone then ans bs none s
    else
      match mixedPart s (p + o) r.n with
      | some (q, m) =>
        if debug then ans bs (some .mixsize) s
        else
          let (fs, s) := s.drawBytes m
          ans (overlay bs (o + q) fs) none (recordStrong s (p + o) r.n)
      | none => ans bs none (recordStrong s (p + o) r.n)

/-- HOME_LOAD_REQUEST (R121). -/
def execHomeLoadRequest (i : Nat) (s : State) : Host.Outcome State Fault Refusal :=
  .next (
    match s.loads[i]? with
    | some r =>
      match r.answer, r.loc with
      | none, .home p h =>
        let (a, s) := homeAnswer s r p h
        { s with loads := modAt (fun r => { r with answer := some a }) s.loads i }
      | _, _ => s
    | none => s)

/-- Stores that wait in the core's buffer for a line, over the bytes that came for it (R122): those that have completed. -/
def overPending (s : State) (c : Nat) (loc : Loc) (bs : List Byte) : List Byte :=
  (s.core c).sbuf.foldl (fun bs e =>
    if sameLine loc e.loc && showsStore s e then overlay bs (locNat e.loc % 128) e.bytes else bs) bs

/-- The set of the cache that a line lies in (R118): by its physical address on this device (log entry 13). -/
def cacheSet (l : CacheLine) : Nat := l.phys.getD l.addr.toNat / 128 % 64

/-- A line comes into a cache of 64 sets of 8 ways, replacing the least recently used (R118; log entry 13). -/
def fillCache (k : Core) (l : CacheLine) : Core :=
  let others := k.cache.filter (fun o => o.addr != l.addr)
  let set := others.filter (fun o => cacheSet o == cacheSet l)
  let others := if set.length < Config.cacheWays then others
    else
      let oldest := set.foldl (fun m o => min m o.used) k.tick
      others.filter (fun o => !(cacheSet o == cacheSet l && o.used == oldest))
  { k with cache := { l with used := k.tick } :: others, tick := k.tick + 1 }

/-- Whether a core holds a line better than an answer to it (R140, R141): a later version, or the same under a lease that
is no older. -/
def holdsNewer (k : Core) (r : LoadReq) (a : LoadAnswer) : Bool :=
  k.cache.any (fun l => l.addr == r.line &&
    (decide (a.version < l.version) ||
      (l.version == a.version && (!r.live || (l.live && decide (r.grant.toNat ≤ l.grant.toNat))))))

/-- Answers of a line that left before one that has come: they come without a lease (R141). -/
def outrun (s : State) (r : LoadReq) (v : BitVec 48) : State :=
  { s with loads := s.loads.map (fun q =>
    let older := match q.answer, q.loc with
      | some b, _ => decide (b.version < v)
      | none, .away _ => true
      | none, _ => false
    if q.core = r.core ∧ q.line = r.line ∧ older = true then { q with live := false } else q) }

/-- A reply fills the cache with a fresh lease, or renews the line's (R121, R123); either is a use of the line (R118). -/
def fillFrom (s : State) (r : LoadReq) (a : LoadAnswer) : State :=
  let s := outrun s r a.version
  let k := s.core r.core
  if holdsNewer k r a then s
  else
    match a.bytes with
    | none =>
      let renew : CacheLine → CacheLine := fun l =>
        if l.addr = r.line ∧ some l.version = r.version then
          { l with grant := r.grant, live := r.live, poison := a.poison, used := k.tick }
        else l
      s.setCore r.core { k with cache := k.cache.map renew, tick := k.tick + 1 }
    | some bs =>
      let phys := match r.loc with
        | .home p _ => some p
        | _ => none
      s.setCore r.core (fillCache k
        ⟨r.line, phys, overPending s r.core r.loc bs, bs, a.poison, a.version, r.grant, r.live, 0⟩)

/-- What a load finds in its answer (R128, R156). -/
def loadResult (r : LoadReq) (a : LoadAnswer) : Found (List Byte) :=
  match r.fwd with
  | some bs => (match a.fault with
      | some c => .fault c
      | none => .value bs)
  | none =>
    if a.poison then .fault .poison
    else
      match a.fault with
      | some c => .fault c
      | none => .value (inLine a.seen r.addr r.n)

/-- A fault of a fetch that has waited for its line (R105, R381); a SUSPEND under way gives up what it holds (R207). -/
def lateFault (s : State) (slot : Nat) (c : Cause) : State :=
  noteFault (takeFaultOf (dropSusp s slot) slot c (s.slot slot).pc) slot (s.slot slot).pc

/-- Whether a slot's cluster is halted (R380). -/
def isHalted (s : State) (slot : Nat) : Bool := s.halted.contains (clusterOf s (coreOf slot))

/-- Whether an answer is a fault of a fetch that a halt holds: it is taken at resume (R380). -/
def faultHeld (s : State) (r : LoadReq) (a : LoadAnswer) : Bool :=
  r.code && (a.poison || a.fault.isSome) && r.slot.any (fun i => isHalted s i)

/-- A line of code has come for a slot that waits for it (R415, R105): one that an ExpireAll, or a store's drain, has overtaken
is asked for again (log entry 114). -/
def codeReply (s : State) (slot : Nat) (r : LoadReq) (a : LoadAnswer) : State :=
  match (s.slot slot).status with
  | .waiting (.fetch line) =>
    if lineAddr s line ≠ r.line then s
    else
      (match a.poison, a.fault with
        | true, _ => lateFault s slot .poison
        | false, some c => lateFault s slot c
        | false, none =>
          if r.live then resume (s.modSlot slot (fun sl => { sl with fetch := some (line, a.seen) })) slot
          else requestLine s slot true r.addr r.n r.loc none none true)
  | _ => s

/-- A load's answer reaches its core (R123): it fills the cache, and the slot that waits completes its load in its turn. -/
def deliverLoad (s : State) (r : LoadReq) (a : LoadAnswer) : State :=
  let s := if r.fwd.isSome || (a.fault.isSome && a.fault != some .mixsize) then s else fillFrom s r a
  match r.slot with
  | none => s
  | some sl =>
    if r.code then codeReply s sl r a
    else if awaits s sl then
      resume (s.modSlot sl (fun x => { x with got := x.got ++ [⟨r.addr, r.n, loadResult r a⟩] })) sl
    else s

/-- A load's answer from outside the core's homes reaches it; a fault of a fetch that a halt holds waits there (R380). -/
def arriveLoad (s : State) (r : LoadReq) (a : LoadAnswer) : State :=
  if faultHeld s r a then { s with loads := s.loads ++ [{ r with answer := some a }] } else deliverLoad s r a

/-- What another device has answered a load with (R121, R370): without data where it has found the version unchanged; a fetch
then takes the bytes that the home gave (R415). -/
def remoteAnswer (s : State) (r : LoadReq) (d : RemoteData) : LoadAnswer :=
  let kept := match (s.core r.core).cache.find? (fun l => l.addr == r.line && some l.version == r.version) with
    | some l => if r.code then l.homeBytes else l.bytes
    | none => r.kept
  match d.bytes, r.version with
  | none, some v => ⟨none, d.poison, v, kept, d.fault⟩
  | bs, _ => ⟨some ((bs.getD []).take 128), d.poison, d.version, (bs.getD []).take 128, d.fault⟩

/-- Whether a request is a load of a slot for a line of another device. -/
def asksLine (s : State) (slot : Nat) (line : Word) : Out → Bool
  | .load sl a _ _ => sl == slot && lineAddr s a == lineAddr s line
  | _ => false

/-- LOAD_REPLY (R123): from a home of this device, or from another device. -/
def execLoadReply (src : Src RemoteData) (s : State) : Host.Outcome State Fault Refusal :=
  .next (
    match src with
    | .mine i =>
      (match s.loads[i]? with
        | some r =>
          match r.answer with
          | none => s
          | some a => if faultHeld s r a then s else deliverLoad { s with loads := dropAt s.loads i } r a
        | none => s)
    | .outside d =>
      let mine := fun (r : LoadReq) => r.core == coreOf d.slot && r.line == lineAddr s d.line &&
        (r.slot.isNone || r.slot == some d.slot) && (match r.loc with
          | .away _ => true
          | _ => false)
      match takeFirst (asksLine s d.slot d.line) s.outbox, takeFirst mine s.loads with
      | some (_, outs), some (r, loads) =>
        arriveLoad { s with outbox := outs, loads } r (remoteAnswer s r d)
      | _, _ => s)

/-- LEASE_EXPIRY (R118): a lease that has run out leaves its line in place. -/
def execLeaseExpiry (core i : Nat) (s : State) : Host.Outcome State Fault Refusal :=
  .next (s.modCore core (fun k =>
    let expire : CacheLine → CacheLine := fun l =>
      if s.time.toNat < l.grant.toNat + k.leaselen then l else { l with live := false }
    { k with cache := modAt expire k.cache i }))

/-- HOME_EVICTION (R116, R156, R368): a table line leaves once its sharers have acknowledged that it is invalid. -/
def execHomeEviction (line : Nat) (s : State) : Host.Outcome State Fault Refusal :=
  .next (
    if (s.line line).slice.isNone then s
    else if isShared s line then sendInvals s none (fun l => l == line)
    else evictLine s line)

/-- The line of code that the core's data cache gives a fetch while its lease is valid (R415): the bytes that its home
gave, since a fetch never takes them from a store that has not reached it; or its poison. -/
def codeHit (s : State) (c : Nat) (a : Word) : Option (Found (List Byte) × State) :=
  match cachedLine s c a with
  | some l =>
    if leaseValid s (s.core c) l then
      some (if l.poison then (.fault .poison, s) else (.value l.homeBytes, useLine s c a))
    else none
  | none => none

/-- Whether a slot's request for a line of code is on its way. -/
def codeAsked (s : State) (slot : Nat) (line : Word) : Bool :=
  s.loads.any (fun r => r.code && r.slot == some slot && r.line == lineAddr s line)

/-- FETCH_LINE_FILL (R415): the missed line replaces the slot's fetch buffer, or the fetch faults (R105), after a halt (R380); a
line that the core does not hold, and that nothing brings, is asked for. -/
def execFetchLineFill (slot : Nat) (s : State) : Host.Outcome State Fault Refusal :=
  .next (
    match (s.slot slot).status with
    | .waiting (.fetch line) =>
      let w : Who := ⟨coreOf slot, slot, (s.slot slot).region⟩
      let pc := (s.slot slot).pc
      let fill := fun (s : State) (bs : List Byte) => resume (s.modSlot slot (fun sl => { sl with fetch := some (line, bs) })) slot
      (match accessLoc s w pc 4 .fetch with
        | .error c => if isHalted s slot then s else lateFault s slot c
        | .ok (.bank k, s) =>
          if inBanks k = false then fill s (readBytes s.mem (k - pc.toNat % 128) 128)
          else if (s.slot slot).bank.isSome then s
          else fetchBanks s slot k
        | .ok (loc, s') =>
          match codeHit s' w.core pc with
          | some (.fault c, s') => if isHalted s slot then s else lateFault s' slot c
          | some (.value bs, s') => fill s' bs
          | none => if codeAsked s slot line then s else requestLine s' slot true line 128 loc none none true)
    | _ => s)

/-- STREAM_STALL_RESUME (R94): a slot stalled on its streams takes its turn again. -/
def execStreamStallResume (slot : Nat) (s : State) : Host.Outcome State Fault Refusal :=
  .next (
    match (s.slot slot).status with
    | .asleep z =>
      (match z.kind with
        | .ring q r =>
          match mapGet (s.slot slot).streams q.toNat with
          | some st => if chunkOpen s (coreOf slot) st r then resume s slot else s
          | none => s
        | _ => s)
    | _ => s)

end Sys2Proof.Machine
end

