-- ==== Sys2Proof/Machine/Sync.lean ====
section
/-! DEFINITION. Atomic and synchronisation instructions (R157 to R181) and their events at homes and interfaces. -/

namespace Sys2Proof.Machine

/-- The watchpoints' part of a request (R378). -/
def watchAtom (s : State) (a : Word) (op : AtomOp) : Eff Unit :=
  let (ld, st) := match op with
    | .amo _ _ _ | .cas _ _ _ | .arrive _ => (true, true)
    | .sch _ _ => (false, true)
    | _ => (true, false)
  checkWatch s a (atomWidth op) ld st

/-- A request to a bank or another device waits for the entries of its line that are in the core's buffer when it issues
(R142, R136). -/
def lineWait (s : State) (a : Word) (loc : Loc) : Option (State → State) :=
  let k := s.core s.myCore
  let mark := match s.me.step2 with
    | some (b, 0, m) => if b = lineAddr s a then m else k.sbNext
    | _ => k.sbNext
  if k.sbuf.any (fun e => decide (e.id < mark) && sameLine loc e.loc) then
    some (fun s0 => s0.modMe (fun sl => { sl with step2 := some (lineAddr s a, 0, mark), status := .waiting .poll }))
  else none

/-- A request leaves for its home, or for another device (R157): an LRW there gives up what reservation the slot has, and
its place there is the slot's reservation (R166). One that is only checked does neither. -/
def sendAtom (s : State) (a : Word) (loc : Loc) (op : AtomOp) (look : Bool) : State :=
  match loc with
  | .away b =>
    let s := match op, look with
      | .lrw _, false => (s.giveUpReservation s.cur).modMe (fun sl => { sl with awayResv := true })
      | _, _ => s
    { s with outbox := s.outbox ++ [Out.atom s.cur b op look] }
  | loc => { s with atoms := s.atoms ++ [⟨s.cur, a, loc, op, (s.core s.myCore).sbNext, look⟩] }

/-- What an instruction has come to with its effect made: it goes on with its result in its next turn, where a push to another
device is still to be accepted (R94). -/
def withResult (s0 : State) (v : Word) : State :=
  s0.modMe (fun sl => { sl with reply := some (.val v), status := .waiting .poll })

/-- The requests for whose reply a switch waits (R181). -/
def mustReply : AtomOp → Bool
  | .amo _ _ _ | .cas _ _ _ | .sch _ _ | .arrive _ => true
  | .lrw _ | .waitcnt _ | .waitph _ => false

/-- The request of an instruction of this class and its answer (R157 to R160): the checks in their order, the release side
before it leaves, the push that gd will make (R94), at a bank at once, at a home by a request that the slot waits for,
asleep where the entry says that it sleeps. -/
def request (s : State) (gd : Reg) (a : Word) (op : AtomOp) (need : Need) (rel : Bool) (scope : BitVec 3)
    (asleep : Option (Loc → SleepFor)) : Eff Word :=
  let n := atomWidth op
  match s.me.reply with
  | some (.fault c _) => .trap c a
  | some (.val v) => (watchAtom s a op).andThen fun _ s => .ok v s
  | none =>
    (checkAlign s a n).andThen fun _ s =>
    (slotLoc s a n need).andThen fun loc s =>
    (watchAtom s a op).andThen fun _ s =>
    (probeG s gd).andThen fun _ s =>
    released s (if rel then scope else 0) fun s =>
    let rest : State → State := fun s0 =>
      match asleep with
      | some k => s0.sleepFor (k loc) a
      | none => s0.stall .reply
    match lineWait s a loc, loc with
    | some f, .bank _ | some f, .away _ => hold f
    | _, .bank k =>
      atService s k n (mustReply op) (match atBank s s.cur a k op with
        | (s', .value v) => if pushWaits s gd then act s (fun s0 => withResult (atBank s0 s0.cur a k op).1 v) else .ok v s'
        | (_, .fault c) => .trap c a
        | (_, _) => act s (fun s0 => rest (atBank s0 s0.cur a k op).1))
    | _, loc =>
      .pause (fun s0 => rest (sendAtom (keepPops s s0) a loc op false)) (fun s0 => (sendAtom s0 a loc op true).stall .reply)

/-- The width of a w bit (R158). -/
def wBytes (w8 : Bool) : Nat := if w8 then 8 else 4

/-- Whether an order field releases (R158): REL or ACQREL. -/
def relOrd (ord : BitVec 2) : Bool := ord.getLsbD 1

/-- Whether an order field acquires (R158): ACQ or ACQREL. -/
def acqOrd (ord : BitVec 2) : Bool := ord.getLsbD 0

/-- AMO (R162). -/
def amoInstr (s : State) (word : W32) (fn : BitVec 4) (gd ga gb : Reg) (scope : BitVec 3) (ord : BitVec 2) (n : Nat) :
    Eff Unit :=
  (checkScope s scope word).andThen fun _ s =>
  (readG s ga).andThen fun ea s =>
  (readG s gb).andThen fun v s =>
  (request s gd ea (.amo fn n v) .rmw (relOrd ord) scope none).andThen fun old s =>
  writeDone (if acqOrd ord then acquire s scope else s) gd old

/-- AMO ADD (R162). -/
def execAmoAdd (gd ga gb : Reg) (scope : BitVec 3) (ord : BitVec 2) (w8 : Bool) (s : State) :
    Host.Outcome State Fault Refusal :=
  conclude s (amoInstr s (encodeScalar (.amoAdd gd ga gb scope ord w8)) 0 gd ga gb scope ord (wBytes w8))

/-- AMO AND (R162). -/
def execAmoAnd (gd ga gb : Reg) (scope : BitVec 3) (ord : BitVec 2) (w8 : Bool) (s : State) :
    Host.Outcome State Fault Refusal :=
  conclude s (amoInstr s (encodeScalar (.amoAnd gd ga gb scope ord w8)) 1 gd ga gb scope ord (wBytes w8))

/-- AMO OR (R162). -/
def execAmoOr (gd ga gb : Reg) (scope : BitVec 3) (ord : BitVec 2) (w8 : Bool) (s : State) :
    Host.Outcome State Fault Refusal :=
  conclude s (amoInstr s (encodeScalar (.amoOr gd ga gb scope ord w8)) 2 gd ga gb scope ord (wBytes w8))

/-- AMO XOR (R162). -/
def execAmoXor (gd ga gb : Reg) (scope : BitVec 3) (ord : BitVec 2) (w8 : Bool) (s : State) :
    Host.Outcome State Fault Refusal :=
  conclude s (amoInstr s (encodeScalar (.amoXor gd ga gb scope ord w8)) 3 gd ga gb scope ord (wBytes w8))

/-- AMO MIN (R162). -/
def execAmoMin (gd ga gb : Reg) (scope : BitVec 3) (ord : BitVec 2) (w8 : Bool) (s : State) :
    Host.Outcome State Fault Refusal :=
  conclude s (amoInstr s (encodeScalar (.amoMin gd ga gb scope ord w8)) 4 gd ga gb scope ord (wBytes w8))

/-- AMO MAX (R162). -/
def execAmoMax (gd ga gb : Reg) (scope : BitVec 3) (ord : BitVec 2) (w8 : Bool) (s : State) :
    Host.Outcome State Fault Refusal :=
  conclude s (amoInstr s (encodeScalar (.amoMax gd ga gb scope ord w8)) 5 gd ga gb scope ord (wBytes w8))

/-- AMO MINU (R162). -/
def execAmoMinu (gd ga gb : Reg) (scope : BitVec 3) (ord : BitVec 2) (w8 : Bool) (s : State) :
    Host.Outcome State Fault Refusal :=
  conclude s (amoInstr s (encodeScalar (.amoMinu gd ga gb scope ord w8)) 6 gd ga gb scope ord (wBytes w8))

/-- AMO MAXU (R162). -/
def execAmoMaxu (gd ga gb : Reg) (scope : BitVec 3) (ord : BitVec 2) (w8 : Bool) (s : State) :
    Host.Outcome State Fault Refusal :=
  conclude s (amoInstr s (encodeScalar (.amoMaxu gd ga gb scope ord w8)) 7 gd ga gb scope ord (wBytes w8))

/-- AMO SWAP (R162). -/
def execAmoSwap (gd ga gb : Reg) (scope : BitVec 3) (ord : BitVec 2) (w8 : Bool) (s : State) :
    Host.Outcome State Fault Refusal :=
  conclude s (amoInstr s (encodeScalar (.amoSwap gd ga gb scope ord w8)) 8 gd ga gb scope ord (wBytes w8))

/-- AMO FADD, on 4 bytes (R161, R162). -/
def execAmoFadd (gd ga gb : Reg) (scope : BitVec 3) (ord : BitVec 2) (s : State) : Host.Outcome State Fault Refusal :=
  conclude s (amoInstr s (encodeScalar (.amoFadd gd ga gb scope ord)) 9 gd ga gb scope ord 4)

/-- CAS (R164): reads ga, gb, then gd (R158). -/
def execCas (gd ga gb : Reg) (scope : BitVec 3) (sord : BitVec 2) (facq w8 : Bool) (s : State) :
    Host.Outcome State Fault Refusal :=
  conclude s (
    let n := wBytes w8
    (checkScope s scope (encodeScalar (.cas gd ga gb scope sord facq w8))).andThen fun _ s =>
    (readG s ga).andThen fun ea s =>
    (readG s gb).andThen fun nv s =>
    (readG s gd).andThen fun e s =>
    (request s gd ea (.cas n e nv) .rmw (relOrd sord) scope none).andThen fun old s =>
    let ok := decide (BitVec.ofNat (8 * n) old.toNat = BitVec.ofNat (8 * n) e.toNat)
    writeDone (if (ok && acqOrd sord) || (!ok && facq) then acquire s scope else s) gd old)

/-- LRW (R166). -/
def execLrw (gd ga : Reg) (scope : BitVec 3) (w8 : Bool) (s : State) : Host.Outcome State Fault Refusal :=
  conclude s (
    (checkScope s scope (encodeScalar (.lrw gd ga scope w8))).andThen fun _ s =>
    (readG s ga).andThen fun ea s =>
    (request s gd ea (.lrw (wBytes w8)) .rmw false scope (some (fun l => SleepFor.lrw l (wBytes w8)))).andThen fun v s =>
    writeDone (acquire s scope) gd v)

/-- SCH (R167). -/
def execSch (gd ga gb : Reg) (scope : BitVec 3) (w8 : Bool) (s : State) : Host.Outcome State Fault Refusal :=
  conclude s (
    (checkScope s scope (encodeScalar (.sch gd ga gb scope w8))).andThen fun _ s =>
    (readG s ga).andThen fun ea s =>
    (readG s gb).andThen fun v s =>
    (request s gd ea (.sch (wBytes w8) v) .rmw true scope none).andThen fun st s => writeDone s gd st)

/-- ARRIVE (R173). -/
def execArrive (gd ga gb : Reg) (scope : BitVec 3) (s : State) : Host.Outcome State Fault Refusal :=
  conclude s (
    (checkScope s scope (encodeScalar (.arrive gd ga gb scope))).andThen fun _ s =>
    (readG s ga).andThen fun ea s =>
    (readG s gb).andThen fun p s =>
    (request s gd ea (.arrive (p.setWidth 2)) .rmw true scope none).andThen fun ended s => writeDone s gd ended)

/-- WAITPH (R173). -/
def execWaitph (ga gb : Reg) (scope : BitVec 3) (s : State) : Host.Outcome State Fault Refusal :=
  conclude s (
    (checkScope s scope (encodeScalar (.waitph ga gb scope))).andThen fun _ s =>
    (readG s ga).andThen fun ea s =>
    (readG s gb).andThen fun p s =>
    (request s 0 ea (.waitph (p.setWidth 2)) .look false scope (some (fun l => SleepFor.waitph l (p.setWidth 2)))).andThen
      fun _ s => done (acquire s scope))

/-- WAITCNT (R176). -/
def execWaitcnt (gd ga gb : Reg) (scope : BitVec 3) (s : State) : Host.Outcome State Fault Refusal :=
  conclude s (
    (checkScope s scope (encodeScalar (.waitcnt gd ga gb scope))).andThen fun _ s =>
    (readG s ga).andThen fun ea s =>
    (readG s gb).andThen fun thr s =>
    (request s gd ea (.waitcnt thr) .look false scope (some (fun l => SleepFor.waitcnt l thr))).andThen fun v s =>
    writeDone (acquire s scope) gd v)

/-- NOTIFY (R176): an update entry of the store buffer (R178). -/
def execNotify (ga gb : Reg) (scope : BitVec 3) (s : State) : Host.Outcome State Fault Refusal :=
  conclude s (
    (checkScope s scope (encodeScalar (.notify ga gb scope))).andThen fun _ s =>
    (readG s ga).andThen fun ea s =>
    (readG s gb).andThen fun v s =>
    (checkAlign s ea 8).andThen fun _ s =>
    (slotLoc s ea 8 .rmw).andThen fun loc s =>
    (checkWatch s ea 8 false true).andThen fun _ s =>
    released s scope fun s =>
    if sbufRoom s then done (enterUpdate s ea loc 8 0 v none scope false) else stall .poll)

/-- How early a cause stands in the order of R160. -/
def causeRank : Cause → Nat
  | .prot => 0
  | .fatalhw => 1
  | .outside => 2
  | _ => 3

/-- The checks of RUPD's two addresses, one fault kind at a time, the target first within each kind (R177). -/
def rupdLocs (s : State) (a : Word) (n : Nat) (cnt : Option Word) : Eff Loc :=
  (walkFirst s a).andThen fun _ s =>
  (walkFirst s (cnt.getD (BitVec.allOnes 64))).andThen fun _ s =>
  let first := accessLoc s s.who a n .rmw
  let second := match cnt with
    | none => none
    | some w => some (w, accessLoc s s.who w 8 .rmw)
  match first, second with
  | .ok (l, s'), none => .ok l s'
  | .ok (l, s'), some (_, .ok _) => .ok l s'
  | .ok _, some (w, .error c) => .trap c w
  | .error c, some (w, .error d) => if causeRank d < causeRank c then .trap d w else .trap c a
  | .error c, _ => .trap c a

/-- RUPD (R177): if gd is not g0, ReadG(gd) names the counted word. -/
def execRupd (gd ga gb : Reg) (scope : BitVec 3) (op : BitVec 3) (s : State) : Host.Outcome State Fault Refusal :=
  conclude s (
    let n := (updateFn op).2
    (checkScope s scope (encodeScalar (.rupd gd ga gb scope op))).andThen fun _ s =>
    (readG s ga).andThen fun ea s =>
    (readG s gb).andThen fun v s =>
    (if gd = 0 then Eff.ok none s else (readG s gd).andThen fun w s => Eff.ok (some w) s).andThen fun cnt s =>
    (checkAlign s ea n).andThen fun _ s =>
    (check s (decide ((cnt.getD 0).toNat % 8 = 0)) .misalign (cnt.getD 0)).andThen fun _ s =>
    (rupdLocs s ea n cnt).andThen fun loc s =>
    (checkWatch s ea n false true).andThen fun _ s =>
    released s scope fun s =>
    if sbufRoom s then done (enterUpdate s ea loc n op v cnt scope false) else stall .poll)

/-- Whether a scratchpad word's tag is full (R110, R170). -/
def isFull (s : State) (key : Nat) : Bool := (mapGet s.feFull key).getD false

/-- A tag set or cleared. -/
def setFull (s : State) (key : Nat) (f : Bool) : State :=
  { s with feFull := if f then mapPut s.feFull key true else mapDel s.feFull key }

/-- What a slot sleeps for. -/
def sleepKind (s : State) (slot : Nat) : Option SleepFor :=
  match (s.slot slot).status, (s.slot slot).reply with
  | .asleep z, none => some z.kind
  | _, _ => none

/-- A sleeper of a bank is satisfied and leaves the bank's list (R171). -/
def satisfy (s : State) (slot : Nat) (v : Word) : State :=
  { s.modSlot slot (fun sl => { sl with reply := some (.val v) }) with feSleep := s.feSleep.filter (fun x => x != slot) }

/-- A word has become full: the bank serves its waiting loads in order, up to the first LDFE (R171). -/
def serveLoads (s : State) (key : Nat) : List Nat → State
  | [] => s
  | x :: xs =>
    let v := wordOf (readBytes s.mem key 8)
    match sleepKind s x with
    | some (.ldff k) => if k = key then serveLoads (satisfy s x v) key xs else serveLoads s key xs
    | some (.ldfe k) => if k = key then setFull (satisfy s x v) key false else serveLoads s key xs
    | _ => serveLoads s key xs

/-- A word is written and its tag set to full; the waiting loads are served. -/
def fillWord (s : State) (key : Nat) (v : Word) : State :=
  let s := setFull (bankWrite s key (bytesOf 8 v)) key true
  serveLoads s key s.feSleep

/-- A word has become empty: the oldest waiting STEF writes it (R171). -/
def serveStore (s : State) (key : Nat) : List Nat → State
  | [] => s
  | x :: xs =>
    match sleepKind s x with
    | some (.stef k v) => if k = key then fillWord (satisfy s x 0) key v else serveStore s key xs
    | _ => serveStore s key xs

/-- A tag becomes empty. -/
def emptyWord (s : State) (key : Nat) : State := serveStore (setFull s key false) key s.feSleep

/-- The checks of a full/empty member (R170): MISALIGN, then PROT where the address is not in the scratchpad or the
windows refuse it. -/
def feLoc (s : State) (a : Word) (need : Need) : Eff Nat :=
  (checkAlign s a 8).andThen fun _ s =>
  if isLocal a then
    match localSpace a, localLoc s s.who a 8 need with
    | some (1, _), .ok (.bank k) => .ok k s
    | _, _ => .trap .prot a
  else .trap .prot a

/-- The slot sleeps at a bank, at the end of its list (R171). -/
def bankSleep (k : SleepFor) (a : Word) (s0 : State) : State :=
  { s0.sleepFor k a with feSleep := if s0.feSleep.contains s0.cur then s0.feSleep else s0.feSleep ++ [s0.cur] }

/-- LDFE (R170). -/
def execLdfe (gd ga : Reg) (s : State) : Host.Outcome State Fault Refusal :=
  conclude s (
    (readG s ga).andThen fun ea s =>
    match s.me.reply with
    | some (.val v) => writeDone (acquire s 2) gd v
    | _ =>
      (feLoc s ea .rmw).andThen fun key s =>
      (checkWatch s ea 8 true false).andThen fun _ s =>
      (probeG s gd).andThen fun _ s =>
      atFreeBank s key 8 false (
      if isFull s key then
        let v := wordOf (readBytes s.mem key 8)
        if pushWaits s gd then act s (fun s0 => withResult (emptyWord s0 key) v)
        else writeDone (acquire (emptyWord s key) 2) gd v
      else act s (bankSleep (.ldfe key) ea)))

/-- LDFF (R170). -/
def execLdff (gd ga : Reg) (s : State) : Host.Outcome State Fault Refusal :=
  conclude s (
    (readG s ga).andThen fun ea s =>
    match s.me.reply with
    | some (.val v) => writeDone (acquire s 2) gd v
    | _ =>
      (feLoc s ea .look).andThen fun key s =>
      (checkWatch s ea 8 true false).andThen fun _ s =>
      (probeG s gd).andThen fun _ s =>
      atFreeBank s key 8 false (
      if isFull s key then
        let v := wordOf (readBytes s.mem key 8)
        if pushWaits s gd then act s (fun s0 => withResult s0 v) else writeDone (acquire s 2) gd v
      else act s (bankSleep (.ldff key) ea)))

/-- STEF (R170): the release at CLUSTER comes before its request. -/
def execStef (ga gb : Reg) (s : State) : Host.Outcome State Fault Refusal :=
  conclude s (
    (readG s ga).andThen fun ea s =>
    (readG s gb).andThen fun v s =>
    match s.me.reply with
    | some (.val _) => done s
    | _ =>
      (feLoc s ea .store).andThen fun key s =>
      (checkWatch s ea 8 false true).andThen fun _ s =>
      released s 2 fun s =>
      atFreeBank s key 8 false (if isFull s key then act s (bankSleep (.stef key v) ea) else done (fillWord s key v)))

/-- SETE (R170): data unchanged, no order and no edge. -/
def execSete (ga : Reg) (s : State) : Host.Outcome State Fault Refusal :=
  conclude s (
    (readG s ga).andThen fun ea s =>
    (feLoc s ea .store).andThen fun key s => atFreeBank s key 8 true (done (emptyWord s key)))

/-- ceil(log2 n): the rounds of a BARD of n participants (R175). -/
def bardRounds (n : Nat) : Nat := if n ≤ 1 then 0 else Nat.log2 (n - 1) + 1

/-- Whether a slot number's core is live on this device (R174, R358). -/
def isLiveSlot (s : State) (slot : Nat) : Bool := isLiveCore s (coreOf slot)

/-- The check of a participant's entry as it is read (R174): its device and slot, or the fault. -/
def bardEntry (s : State) (e : Word) : Except Cause (BitVec 9 × Nat) :=
  let d := e.extractLsb' 32 9
  let here := d = 0x1FF ∨ d = s.dev
  let slot := (e.extractLsb' 0 14).toNat
  if !(decide here) && !(isPresent s d) then .error .fatalhw
  else if e.extractLsb' 41 23 ≠ 0 ∨ e.extractLsb' 14 18 ≠ 0 then .error .prot
  else if here then (if isLiveSlot s slot then .ok (0x1FF, slot) else .error .prot)
  else .ok (d, slot)

/-- A notification leaves the interface (R175). -/
def sendBard (s : State) (d : BitVec 9) (n : BardNote) : State :=
  if d = 0x1FF then { s with flights := s.flights ++ [.bard n false s.cur] }
  else { s with outbox := s.outbox ++ [Out.bard n d s.cur] }

/-- The notification that a BARD waits for in its round: the sender's index, the round and the episode (R175). -/
def bardNeeds (sl : Slot) (i n : Nat) (x : BardNote) : Bool :=
  x.round == sl.bardRound && x.episode == sl.bardEpisode && x.sender == (i + n - 2 ^ sl.bardRound % n) % n

/-- The BARD's progress is kept whatever becomes of the instruction (R175); it goes on in the slot's next turn. -/
def bardProgress (f : Slot → Slot) (s0 : State) : State :=
  s0.modMe (fun sl => { f sl with got := [], status := .waiting .poll, since := some (sl.since.getD s0.time) })

/-- The address of the entry that a BARD notifies in a round (R175). -/
def bardAt (table : Word) (i n r : Nat) : Word := table + BitVec.ofNat 64 (8 * ((i + 2 ^ r) % n))

/-- One part of a round: the notification of the round is sent once, then the partner's is waited for (R175). -/
def bardRound (s : State) (table : Word) (i n : Nat) : Eff Unit :=
  let r := s.me.bardRound
  if s.me.bardNoted.contains r then
    match findIdx (bardNeeds s.me i n) s.me.bardHeld with
    | some _ => act s (bardProgress (fun sl => { sl with bardRound := sl.bardRound + 1 }))
    | none => sleep .bard table
  else
    let ea := bardAt table i n r
    (loadBytes s ea 8 true false).andThen fun bs s =>
    match bardEntry s (wordOf bs) with
    | .error c => .trap c ea
    | .ok (d, slot) =>
      act s (fun s0 => bardProgress (fun sl => { sl with bardNoted := r :: sl.bardNoted })
        (sendBard s0 d ⟨slot, i, r, s0.me.bardEpisode, s0.me.region⟩))

/-- BARD (R174, R175): a refusal that another device has answered is raised first. -/
def execBard (gd ga gb : Reg) (scope : BitVec 3) (s : State) : Host.Outcome State Fault Refusal :=
  conclude s (
    (checkScope s scope (encodeScalar (.bard gd ga gb scope))).andThen fun _ s =>
    (readG s ga).andThen fun table s =>
    (readG s gb).andThen fun x s =>
    let i := (x.extractLsb' 0 13).toNat
    let n := (x.extractLsb' 16 13).toNat
    if n = 0 ∨ 4096 < n ∨ n ≤ i then writeDone s gd 1
    else
      (checkAlign s table 8).andThen fun _ s =>
      let first := decide (s.me.bardRound = 0) && s.me.bardNoted.isEmpty
      match s.me.bardFault with
      | some (c, r) => .trap c (bardAt table i n r) (fun s0 => s0.modMe (fun sl => { sl with bardFault := none }))
      | none =>
        (if first then probeG s gd else .ok () s).andThen fun _ s =>
        released s (if first then scope else 0) fun s =>
        if s.me.bardRound = bardRounds n then
          writeDone (acquire (s.modMe (fun sl => { sl with
            bardHeld := sl.bardHeld.filter (fun x => x.episode != sl.bardEpisode)
            bardRound := 0, bardNoted := [], bardEpisode := sl.bardEpisode + 1 })) scope) gd 0
        else bardRound s table i n)

/-- ATOMIC_AT_HOME (R142): request i executes at its home once the older entries of its core's buffer for the line have
drained. -/
def execAtomicAtHome (i : Nat) (s : State) : Host.Outcome State Fault Refusal :=
  .next (
    match s.atoms[i]? with
    | none => s
    | some q =>
      match q.loc with
      | .home p h =>
        if (s.core (coreOf q.slot)).sbuf.any (fun e => decide (e.id < q.mark) && sameLine q.loc e.loc) then s
        else
          let run := if q.look then lookAtHome else atHome
          let (s, r) := run { s with atoms := dropAt s.atoms i } q.slot q.addr p h q.op
          let give := fun (r : Reply) => if 16384 ≤ q.slot then s.modSlot q.slot (fun sl => { sl with reply := some r })
            else answer (endLease s (coreOf q.slot) q.addr) q.slot r
          (match r with
            | .value v => give (.val v)
            | .fault c => give (.fault c q.addr)
            | .sleeps | .refused => if 16384 ≤ q.slot then s else endLease s (coreOf q.slot) q.addr)
      | _ => s)

/-- LRW_RESEND (R166): an LRW that found its home full asks again. -/
def execLrwResend (slot : Nat) (s : State) : Host.Outcome State Fault Refusal :=
  .next (
    match sleepKind s slot with
    | some (.lrw (.home p h) n) =>
      if s.resv.any (fun e => e.2.any (fun r => r.slot == slot)) || s.atoms.any (fun q => q.slot == slot) then s
      else
        match (s.slot slot).status with
        | .asleep z => { s with atoms := s.atoms ++ [⟨slot, z.tval, .home p h, .lrw n, 0, false⟩] }
        | _ => s
    | _ => s)

/-- RESERVATION_TIMEOUT (R167): the holder of location i of the table has held it beyond its WAITLIM. -/
def execReservationTimeout (i : Nat) (s : State) : Host.Outcome State Fault Refusal :=
  .next (
    match s.resv[i]? with
    | some (key, r :: _) =>
      (match r.held with
        | some t => if r.lim ≠ 0 ∧ t.toNat + r.lim.toNat < s.time.toNat then passOn s key else s
        | none => s)
    | _ => s)

/-- The notifications that a slot's BARD has yet to use; those of its finished rounds stay until it completes, since it can
go back to a round that has failed (R174, R175). -/
def bardAhead (sl : Slot) : List BardNote :=
  sl.bardHeld.filter (fun x => !(x.episode == sl.bardEpisode && decide (x.round < sl.bardRound)))

/-- A notification reaches a slot's interface (R175): none if it is refused, for want of a task or of a place among the
16 that are not needed yet. It is the task that sits in the slot, whatever its context (log entry 79). -/
def takeNote (s : State) (n : BardNote) : Option State :=
  let sl := s.slot n.slot
  let needed := sl.bardNoted.contains n.round && n.round == sl.bardRound && n.episode == sl.bardEpisode
  match sl.status with
  | .noTask => none
  | _ => if 16 ≤ (bardAhead sl).length ∧ needed = false then none
      else some (s.modSlot n.slot (fun sl => { sl with bardHeld := sl.bardHeld ++ [n] }))

/-- BARD_NOTIFICATION_ARRIVAL (R175): one of another device for a slot whose core is not live is answered with PROT
(R174). -/
def execBardNotificationArrival (src : Src BardNote) (s : State) : Host.Outcome State Fault Refusal :=
  .next (
    match src with
    | .mine i =>
      (match s.flights[i]? with
        | some (.bard n false _) =>
          match takeNote s n with
          | some s' => { s' with flights := dropAt s'.flights i }
          | none =>
            let refuse : Flight → Flight := fun f => match f with
              | .bard n _ src => .bard n true src
              | f => f
            { s with flights := modAt refuse s.flights i }
        | _ => s)
    | .outside n =>
      let back := fun (what : String) => { s with outbox := s.outbox ++ [Out.message n.slot what []] }
      if isLiveSlot s n.slot then (takeNote s n).getD (back "BARD refused") else back "BARD PROT")

/-- BARD_RESEND (R175): a refused notification is sent again, unless the sender's region has ended. -/
def execBardResend (i : Nat) (s : State) : Host.Outcome State Fault Refusal :=
  .next (
    match s.flights[i]? with
    | some (.bard n true _) =>
      if isLive s n.region then
        let again : Flight → Flight := fun f => match f with
          | .bard n _ src => .bard n false src
          | f => f
        { s with flights := modAt again s.flights i }
      else { s with flights := dropAt s.flights i }
    | _ => s)

end Sys2Proof.Machine
end

