-- ==== Sys2Proof/Machine/Tasks.lean ====
section
/-! DEFINITION. Tasks: how one starts in a slot (R93, R185, R189), how it ends (R194), and what a slot holds. -/

namespace Sys2Proof.Machine

/-- Whether a thread that leaves a slot has yet to arrive where it goes (R195). -/
def leaving (s : State) (i : Nat) : Bool :=
  s.flights.any (fun f => match f with
    | .thread src _ _ _ => src == i
    | _ => false)

/-- Whether a slot is free: no task, no thread that is still leaving it and no switched-out context, on a core that runs (R18,
R189, R195). -/
def slotFree (s : State) (i : Nat) : Bool :=
  (s.slot i).status == .noTask && !(leaving s i) && !((s.core (coreOf i)).stopped) && (List.range 4).all (fun c => (mapGet s.drawers (8192 * c + i)).isNone)

/-- The lowest-numbered free slot of a core (R189). -/
def freeSlot (s : State) (core : Nat) : Option Nat :=
  ((List.range 8).map (fun i => 8 * core + i)).find? (fun i => slotFree s i)

/-- The number that a partition without a resident context has in its place. -/
def noContext : Nat := 4

/-- The context resident on a core (R344). -/
def residentCtx (s : State) (core : Nat) : Nat := (mapGet s.resident (s.core core).part.toNat).getD 0

/-- A slot's own inbox entries, oldest first (R182). -/
def entriesOf (s : State) (slot : Nat) : List InboxEntry := (s.core (coreOf slot)).inbox.filter (fun e => e.slot == slot)

/-- Whether a core has reached the time of an agreed switch of its resident context (R346): its slots issue only what a
reply under way completes, and its engines take no command. -/
def switchDue (s : State) (core : Nat) : Bool :=
  s.gangs.any (fun g => g.part == (s.core core).part.toNat && !g.outDone && s.reached g.time &&
    g.out == some (residentCtx s core))

/-- A slot's task, as what finishes without it names it. -/
def waiterOf (s : State) (i : Nat) : Waiter := ⟨i, (s.slot i).gen, (s.slot i).ctx⟩

/-- The destination of an instruction that finishes without its slot (R308, R347, R374). -/
def lateResult (i : Instr) : Reg :=
  match i with
  | .snap gd _ _ | .reject gd _ | .tlbinvRange gd _ _ | .tlbinvAll gd | .rdone gd _ => gd
  | _ => 0

/-- An instruction that finishes without its slot completes in the slot's drawer (R308, R374): its gd is written there and
the pc advances. One whose operands are streams has its answer there, and moves its streams as the slot comes back (log
entry 141). -/
def answerDrawer (d : Slot) (r : Reply) : Slot :=
  match d.inst, r with
  | some i, .val v =>
    if d.kept.isEmpty && (boundStream d (lateResult i)).isNone then
      { clearProgress (d.setReg (lateResult i) v) with pc := d.pc + 4, status := .ready, wpSkip := false }
    else { d with reply := some r, status := .ready }
  | _, _ => { d with reply := some r, status := .ready }

/-- A task is answered: in its slot, or in its drawer, where its instruction then completes (R308, R374). -/
def answerTask (s : State) (w : Waiter) (r : Reply) : State :=
  let sl := s.slot w.slot
  if sl.gen = w.gen ∧ sl.ctx = w.ctx ∧ awaits s w.slot = true then answer s w.slot r
  else
    match mapGet s.drawers (8192 * w.ctx + w.slot) with
    | some (d, inbox) =>
      if d.gen = w.gen ∧ d.status = .waiting .reply then
        { s with drawers := mapPut s.drawers (8192 * w.ctx + w.slot) (answerDrawer d r, inbox) }
      else s
    | none => s

/-- A payload as g1 to g8 (R93). -/
def payloadRegs (payload : List Byte) : Vector Word 32 :=
  Vector.ofFn (fun i : Fin 32 => if 1 ≤ i.val ∧ i.val ≤ 8 then w64At payload (8 * (i.val - 1)) else 0)

/-- A task starts in a slot (R93, R185, R189): registers and per-slot control registers at their task-start values, the
generation advanced, ExpireAll on the core. The charge has been made. -/
def startTask (s : State) (i region : Nat) (pc : Word) (payload : List Byte) : State :=
  let g := s.region region
  let s := s.setSlot i { Slot.idle with
    g := payloadRegs payload, pc, region, rcb := g.addr, ctx := g.ctx, gen := (s.slot i).gen + 1,
    link := (s.slot i).link, status := .ready }
  expireAll s (coreOf i)

/-- A request of a slot to another device that waits for its answer. -/
def asked (i : Nat) : Out → Bool
  | .atom j _ _ _ | .unside _ _ _ j _ => i == j
  | .store j _ _ _ look => i == j && look
  | .advert a _ => a.slot == i
  | .post p _ => p.slot == i
  | .row r _ => r.slot == i
  | _ => false

/-- Requests of a slot to other devices are withdrawn there (R132, R169). -/
def withdrawAway (s : State) (i : Nat) : State :=
  let mine := fun (o : Out) => asked i o || asksStore i o
  if s.outbox.any mine then { s with outbox := s.outbox.filter (fun o => !(mine o)) ++ [Out.withdraw i] } else s

/-- Loads of a slot from other devices are withdrawn there (R132). -/
def withdrawLoads (s : State) (i : Nat) : State :=
  let mine := fun (r : LoadReq) => r.slot == some i && match r.loc with
    | .away _ => true
    | _ => false
  let asks := s.loads.filter mine
  if asks.isEmpty then s
  else
    { s with
      loads := s.loads.filter (fun r => !(mine r))
      outbox := asks.foldl (fun o r => ((takeFirst (asksLine s i r.line) o).map Prod.snd).getD o) s.outbox ++ [Out.withdraw i] }

/-- Whether a store waits for its home's check in debug mode (R156). -/
def checkedKind : SbKind → Bool
  | .strong true | .checked | .look _ => true
  | _ => false

/-- A store of a slot that waits for its acceptance, or in debug mode for its home's check, leaves the buffer (R132). -/
def withdrawStore (s : State) (i : Nat) : State :=
  s.modCore (coreOf i) (fun k => { k with
    sbuf := k.sbuf.filter (fun e => !(e.slot == i && (unaccepted s e || checkedKind e.kind))) })

/-- What stands for the sender of a message that has come from outside the device. -/
def outsideSrc : Nat := 16384

/-- A SPAWN of a slot goes on without it, and its answer finds no one (R190); a thread on its way to the slot whose task ends
does not arrive. -/
def forgetSpawn (i : Nat) (f : Flight) : List Flight :=
  match f with
  | .spawn m src => [.spawn m (if src = i then outsideSrc else src)]
  | .spawned src st => if src = i then [] else [.spawned src st]
  | .thread src to_ gd st => if to_ = i then [] else [.thread src to_ gd st]
  | f => [f]

/-- What a slot has on its way is withdrawn: requests, stores not accepted, sleeps at banks and homes, a reservation
(R132, R167, R169, R194); the reply to a load is discarded. -/
def withdrawSlot (s : State) (i : Nat) : State :=
  let s := withdrawLoads (withdrawAway (withdrawStore (withdrawThunk (s.giveUpReservation i) i) i) i) i
  { s with
    loads := s.loads.filter (fun l => l.slot != some i)
    atoms := s.atoms.filter (fun a => a.slot != i)
    feSleep := s.feSleep.filter (fun x => x != i)
    posts := s.posts.filter (fun p => p.slot != i)
    rows := s.rows.filter (fun r => !(r.slot == i && r.dev == s.dev))
    refused := s.refused.filter (fun p => p.slot != i)
    flights := s.flights.flatMap (forgetSpawn i) }

/-- The record that a parked slot holds for want of room leaves for the queue as its task ends (R361). -/
def sendHeld (s : State) (sl : Slot) : State :=
  match sl.status with
  | .parked (some r) => s.sendRecord r
  | _ => s

/-- The task of a slot ends (R194). Its store-buffer entries drain as usual and its tile commands complete; their
messages find no task, those that an engine holds too. -/
def endTask (s : State) (i : Nat) : State :=
  let sl := s.slot i
  match sl.status with
  | .noTask => s
  | _ =>
    let s := withdrawSlot (sendHeld s sl) i
    let s := s.modCore (coreOf i) (fun k => { k with
      inbox := k.inbox.filter (fun e => e.slot != i)
      held := k.held.filter (fun h => !(h.entry.slot == i && h.ctx == sl.ctx)) })
    let s := s.setSlot i { clearProgress sl with
      status := .noTask, awayResv := false, streams := [], bardHeld := [], bardRound := 0, bardNoted := [], bardFault := none, bardEpisode := 0
      fetch := none }
    refund s sl.region [(.slots, 1)]

/-- Whether an engine's command is one that a slot issued, and no evaluation (R209). -/
def runsFor (i : Nat) (e : EngineState) : Bool :=
  match e.run with
  | some r => r.cmd.slot == i && r.cmd.eval.isNone
  | none => false

end Sys2Proof.Machine
end

