-- ==== Sys2Proof/Machine/Msg.lean ====
section
/-! DEFINITION. Message, spawn and migration instructions (R182 to R199) and their events. -/

namespace Sys2Proof.Machine

/-- Whether an inbox entry is a COMPLETE message (R183). -/
def isComplete (e : InboxEntry) : Bool := (e.header.extractLsb' 62 2).toNat == 2

/-- Entries of one share of a core's inbox (R182). -/
def shareUsed (s : State) (core : Nat) (complete : Bool) : Nat :=
  ((s.core core).inbox.filter (fun e => isComplete e == complete)).length

/-- The header of a DATA message (R183). -/
def dataHeader (m : InboxMsg) : Word := 1#2 ++ 0#6 ++ m.srcdev ++ m.srcslot ++ 0#9 ++ m.tag

/-- The header of a COMPLETE message (R183). -/
def completeHeader (dev : BitVec 9) (slot : Nat) (status : BitVec 6) (tag : BitVec 25) : Word :=
  2#2 ++ status ++ dev ++ BitVec.ofNat 13 slot ++ 0#9 ++ tag

/-- Messages that a core's interface holds (R182): those of this device that have not arrived; one for another device has
left it at once (log entry 14). -/
def outgoing (s : State) (core : Nat) : Nat :=
  (s.flights.filter (fun f => match f with
    | .inbox _ src | .task _ src => coreOf src == core
    | _ => false)).length

/-- The fields of a destination word (R184): device, core, slot, generation. -/
def destDev (d : Word) : BitVec 9 := d.extractLsb' 54 9

/-- See destDev. -/
def destCore (d : Word) : Nat := (d.extractLsb' 43 11).toNat

/-- See destDev. -/
def destSlot (d : Word) : Nat := 8 * destCore d + (d.extractLsb' 40 3).toNat

/-- Whether a device number is this device's (R109, R414). -/
def isHere (s : State) (d : BitVec 9) : Bool := d == 0x1FF || d == s.dev

/-- Whether a destination names a core that no device has (R1, R184): this device knows its own live cores, and no device
has more than 1,024. -/
def coreAbsent (s : State) (d : Word) : Bool :=
  if isHere s (destDev d) then !(isLiveCore s (destCore d)) else decide (Config.maxCores ≤ destCore d)

/-- PROT for a core that is not live, and FATALHW for a device that is not there (R184). -/
def checkDest (s : State) (d : Word) : Eff Unit :=
  (check s (!(coreAbsent s d)) .prot d).andThen fun _ s =>
  (check s (isHere s (destDev d) || isPresent s (destDev d)) .fatalhw d).andThen fun _ s =>
  check s (isHere s (destDev d) || Config.remoteLive (destDev d) (destCore d)) .prot d

/-- The bank key of a checked local range. -/
def localKey (s : State) (a : Word) (n : Nat) (need : Need) : Eff Nat :=
  if isLocal a then
    match localLoc s s.who a n need with
    | .ok (.bank k) => .ok k s
    | _ => .trap .prot a
  else .trap .prot a

/-- A checked local range as the instruction reads it (R111, R136), once. -/
def localRead (s : State) (a : Word) (n : Nat) : Eff (List Byte) :=
  match takeGot s a n with
  | some (.value bs, s) => .ok bs (noteRead s a bs)
  | _ =>
    (localKey s a n .load).andThen fun key s =>
    (bankRead s key n).andThen fun bs s => .ok bs (noteRead s a bs)

/-- The context that a core has or, in a gang switch, is about to have. -/
def comingCtx (s : State) (core : Nat) : Nat :=
  let c := residentCtx s core
  if c = noContext then ((s.gangs.find? (fun g => g.part == (s.core core).part.toNat)).bind Gang.in_).getD 0 else c

/-- The context an INBOX message is for: the sender's where the target's core is of its partition, else the one
resident there (R185; log entry 11). -/
def messageCtx (s : State) (srcSlot : Nat) (core : Nat) : Nat :=
  if (s.core core).part = (s.core (coreOf srcSlot)).part then (s.slot srcSlot).ctx else comingCtx s core

/-- A message enters the interface (R188). -/
def post (s : State) (src region : Nat) (d x : Word) (payload : List Byte) : State :=
  if d.getLsbD 63 then
    let m : TaskMsg := ⟨destCore d, region, (s.region region).ctx, x, payload⟩
    if isHere s (destDev d) then { s with flights := s.flights ++ [Flight.task m src] }
    else { s with outbox := s.outbox ++ [Out.task m (destDev d)] }
  else
    let m : InboxMsg := ⟨s.dev, BitVec.ofNat 13 src, destSlot d, d.extractLsb' 32 8, messageCtx s src (destCore d),
      x.setWidth 25, payload⟩
    if isHere s (destDev d) then { s with flights := s.flights ++ [Flight.inbox m src] }
    else { s with outbox := s.outbox ++ [Out.inbox m (destDev d)] }

/-- An instruction with bytes that it captured at issue: whatever it waits for, it goes on with them (R188). -/
def holding (a : Word) (bs : List Byte) (e : Eff Unit) : Eff Unit :=
  match e with
  | .wait f => .wait (fun s0 => f (s0.modMe keep))
  | .pause f look => .pause (fun s0 => f (s0.modMe keep)) (fun s0 => look (s0.modMe keep))
  | e => e
where
  /-- The slot with the bytes captured. -/
  keep (sl : Slot) : Slot :=
    { sl with got := if sl.got.any (fun g => g.addr == a) then sl.got else ⟨a, bs.length, .value bs⟩ :: sl.got }

/-- The part that SEND and SPAWN share (R188, R190): the checks and the payload, captured at issue, then the release; and
what follows it. -/
def sendPart (s : State) (word : W32) (task : Word → Bool) (gd ga gb : Reg) (dest : Option Reg) (scope : BitVec 3)
    (k : Word → Word → List Byte → State → Eff Unit) : Eff Unit :=
  (checkScope s scope word).andThen fun _ s =>
  (readG s ga).andThen fun d s =>
  (readG s gb).andThen fun pa s =>
  (readG s gd).andThen fun x s =>
  (match takeGot s pa 64 with
    | some (.value bs, s) => (checkWatch s pa 64 true false).andThen fun _ s => .ok bs s
    | _ =>
      (checkAlign s pa 64).andThen fun _ s =>
      (check s (!(task d) || decide (x.toNat % 4 = 0)) .misalign x).andThen fun _ s =>
      (localKey s pa 64 .load).andThen fun key s =>
      (checkDest s d).andThen fun _ s =>
      (checkWatch s pa 64 true false).andThen fun _ s =>
      (probeG s (dest.getD 0)).andThen fun _ s => bankRead s key 64).andThen fun pl s =>
  holding pa pl (released (noteRead s pa pl) scope fun s => k d x pl s)

/-- SEND (R188). -/
def execSend (gd ga gb : Reg) (scope : BitVec 3) (s : State) : Host.Outcome State Fault Refusal :=
  conclude s (
    sendPart s (encodeScalar (.send gd ga gb scope)) (fun d => d.getLsbD 63) gd ga gb none scope fun d x pl s =>
    if outgoing s s.myCore < 4 then done (post s s.cur s.me.region d x pl) else stall .poll)

/-- SPAWN (R190): refused at once where dev is not this device, else it waits for the target's answer. -/
def execSpawn (gd ga gb : Reg) (scope : BitVec 3) (s : State) : Host.Outcome State Fault Refusal :=
  conclude s (
    sendPart s (encodeScalar (.spawn gd ga gb scope)) (fun _ => true) gd ga gb (some gd) scope fun d x pl s =>
    if isHere s (destDev d) then
      match s.me.reply with
      | some (.val st) => writeDone s gd st
      | _ =>
        let m : TaskMsg := ⟨destCore d, s.me.region, (s.region s.me.region).ctx, x, pl⟩
        act s (fun s0 => { s0 with flights := s0.flights ++ [Flight.spawn m s0.cur] }.stall .reply)
    else writeDone s gd 3)

/-- An inbox entry is removed: the oldest of a slot. -/
def dropOldest (s : State) (slot : Nat) : State :=
  s.modCore (coreOf slot) (fun k =>
    match findIdx (fun e : InboxEntry => e.slot == slot) k.inbox with
    | some (i, _) => { k with inbox := dropAt k.inbox i }
    | none => k)

/-- RECV (R192). -/
def execRecv (gd ga : Reg) (s : State) : Host.Outcome State Fault Refusal :=
  conclude s (
    (readG s ga).andThen fun pa s =>
    (if ga = 0 then Eff.ok 0 s
      else (checkAlign s pa 64).andThen fun _ s => localKey s pa 64 .store).andThen fun key s =>
    match entriesOf s s.cur with
    | [] => sleep .recv pa
    | e :: _ =>
      (if ga = 0 then Eff.ok () s
        else (checkWatch s pa 64 false true).andThen fun _ s => bankStore s pa key e.payload).andThen fun _ s =>
      let s := dropOldest s s.cur
      effectDone (expireAll s s.myCore) gd e.header)

/-- PEEK (R193). -/
def execPeek (gd : Reg) (s : State) : Host.Outcome State Fault Refusal :=
  conclude s (
    match entriesOf s s.cur with
    | [] => writeDone s gd 0
    | e :: _ => writeDone s gd e.header)

/-- YIELD (R193): the limit counts from its issue. -/
def execYield (gd ga : Reg) (s : State) : Host.Outcome State Fault Refusal :=
  conclude s (
    (readG s ga).andThen fun x s =>
    let t := (s.me.since.getD s.time).toNat + x.toNat
    match entriesOf s s.cur with
    | _ :: _ => writeDone s gd 1
    | [] =>
      if t ≤ s.time.toNat then writeDone s gd 0
      else sleep (.yield (if t < 2 ^ 64 then BitVec.ofNat 64 t else BitVec.allOnes 64)) 0)

/-- EXIT (R194). -/
def execExit (s : State) : Host.Outcome State Fault Refusal := .next (endTask s s.cur)

/-- SLOTQ (R193). -/
def execSlotq (gd : Reg) (s : State) : Host.Outcome State Fault Refusal :=
  conclude s (
    let free : Nat := (List.range 8).foldl (fun m i => if slotFree s (8 * s.myCore + i) then m + 2 ^ i else m) 0
    writeDone s gd (0#32 ++ s.me.gen ++ BitVec.ofNat 8 (32 - shareUsed s s.myCore false) ++
      BitVec.ofNat 8 (entriesOf s s.cur).length ++ BitVec.ofNat 8 free))

/-- Whether a tile command of a slot is queued or executing (R195, R197). -/
def hasTile (s : State) (i : Nat) : Bool :=
  let k := s.core (coreOf i)
  s.colls.any (fun c => c.run.cmd.slot == i) ||
  k.qn.any (fun c => c.slot == i && c.eval.isNone) || k.qp.any (fun c => c.slot == i && c.eval.isNone) ||
    runsFor i k.matrix || runsFor i k.vector || runsFor i k.convert ||
    (s.copies.map (fun e => e.2.run) ++ [k.copyRest]).any (fun e => match e with
      | some r => r.cmd.slot == i
      | none => false)

/-- A completion message that an engine holds for a thread is for the slot to which the thread goes (R182; log entry 122). -/
def heldMoves (src dst : Nat) (sl : Slot) (gen : Byte) (h : Held) : Held :=
  if h.entry.slot = src ∧ h.gen = sl.gen ∧ h.ctx = sl.ctx then { h with gen, entry := { h.entry with slot := dst } } else h

/-- A thread leaves its slot for a claimed one (R195, R197): its registers, inbox entries and progress go with it, and the
claimed slot's generation advances; the old slot is free once the thread has arrived. Entries that find the new core's share
full are kept over it (log entry 81). After MIGRATE the next instruction is checked against the watchpoints again (R378). -/
def moveThread (s : State) (src dst : Nat) (pc : Word) (gd : Option Reg) (st : Status) : State :=
  let sl := s.slot src
  let gen := (s.slot dst).gen + 1
  let inbox := (entriesOf s src).map (fun e => { e with slot := dst })
  let s := withdrawSlot s src
  let s := s.modCore (coreOf src) (fun k => { k with inbox := k.inbox.filter (fun e => e.slot != src) })
  let s := s.modCore (coreOf dst) (fun k => { k with inbox := k.inbox ++ inbox })
  let moved : Nat × Core → Nat × Core := fun e => (e.1, { e.2 with held := e.2.held.map (heldMoves src dst sl gen) })
  let s : State := { s with cores := s.cores.map moved }
  let s := s.setSlot dst { clearProgress sl with
    pc, gen, fetch := none, link := (s.slot dst).link, status := .waiting .reply, awayResv := false
    batchId := 0, batchPending := 0, batches := [], wpSkip := sl.wpSkip && gd.isNone }
  let s := s.modSlot src (fun sl => { clearProgress sl with
    status := .noTask, bardHeld := [], bardRound := 0, bardNoted := [], bardFault := none, fetch := none })
  { s with flights := s.flights ++ [.thread src dst gd st] }

/-- MIGRATE (R195), to a core of any partition (log entry 126). -/
def execMigrate (gd ga : Reg) (s : State) : Host.Outcome State Fault Refusal :=
  conclude s (
    (readG s ga).andThen fun d s =>
    (checkDest s d).andThen fun _ s =>
    if !(isHere s (destDev d)) || destCore d == s.myCore then writeDone s gd 3
    else if s.me.streams ≠ [] then writeDone s gd 2
    else if hasTile s s.cur || (s.core s.myCore).sbuf.any (fun e => e.slot == s.cur) then stall .poll
    else
      let s := s.giveUpReservation s.cur
      match freeSlot s (destCore d) with
      | none => writeDone s gd 1
      | some dst => .ok () (moveThread s s.cur dst (s.me.pc + 4) (some gd) .ready))

/-- Whether the task that a held completion message is for still holds its slot (R185, R194). -/
def heldFor (s : State) (h : Held) : Bool :=
  let sl := s.slot h.entry.slot
  sl.status != .noTask && sl.gen == h.gen && sl.ctx == h.ctx

/-- COMPLETION_MESSAGE_PLACE (R182): a held message enters the COMPLETE share of the core where its thread is by now, or is
discarded where its task has ended (R194). -/
def execCompletionMessagePlace (core : Nat) (s : State) : Host.Outcome State Fault Refusal :=
  .next (
    match (s.core core).held with
    | [] => s
    | h :: rest =>
      let to_ := coreOf h.entry.slot
      let s' := s.modCore core (fun k => { k with held := rest })
      if !(heldFor s h) then s'
      else if shareUsed s to_ true < 32 then s'.modCore to_ (fun k => { k with inbox := k.inbox ++ [h.entry] })
      else s)

/-- Whether a message may not yet pass: its context is not resident, the cluster is halted, or the share is full
(R182, R185, R380). Whether a task takes it is seen only as it enters (log entry 82). -/
def messageWaits (s : State) (m : InboxMsg) : Bool :=
  let core := coreOf m.slot
  m.ctx != residentCtx s core || s.halted.contains (clusterOf s core) || decide (32 ≤ shareUsed s core false)

/-- A message enters the inbox, or is discarded where its generation or context has no task (R185). -/
def deliver (s : State) (m : InboxMsg) : State :=
  let sl := s.slot m.slot
  if sl.status != .noTask && sl.gen == m.gen && sl.ctx == m.ctx then
    s.modCore (coreOf m.slot) (fun k => { k with inbox := k.inbox ++ [⟨m.slot, dataHeader m, m.payload⟩] })
  else s

/-- Whether a port has as many messages from outside the device on a channel as it takes (R185). -/
def portFull (s : State) (core ctx : Nat) : Bool :=
  decide (2 ≤ (s.flights.filter (fun f => match f with
    | .inbox n src => src == outsideSrc && coreOf n.slot == core && n.ctx == ctx
    | .task n src => src == outsideSrc && n.core == core && n.ctx == ctx
    | _ => false)).length)

/-- Whether an earlier message of the same sender to the same slot, on the same channel, is still on its way (R185,
R186). -/
def earlierOnWay (s : State) (i : Nat) (m : InboxMsg) : Bool :=
  (s.flights.take i).any (fun f => match f with
    | .inbox n _ => n.srcdev == m.srcdev && n.srcslot == m.srcslot && n.slot == m.slot && n.ctx == m.ctx
    | _ => false)

/-- MESSAGE_ARRIVAL (R185): one from outside the device that its channel has no room for has not come yet (log entry 103). -/
def execMessageArrival (src : Src InboxMsg) (s : State) : Host.Outcome State Fault Refusal :=
  .next (
    match src with
    | .mine i =>
      (match s.flights[i]? with
        | some (.inbox m _) =>
          if messageWaits s m || earlierOnWay s i m then s else deliver { s with flights := dropAt s.flights i } m
        | _ => s)
    | .outside m =>
      if messageWaits s m || earlierOnWay s s.flights.length m then
        (if portFull s (coreOf m.slot) m.ctx then s else { s with flights := s.flights ++ [.inbox m outsideSrc] })
      else deliver s m)

/-- Whether an earlier TASK message of the same slot to the same core, on the same channel, is still on its way (R186). -/
def earlierTask (s : State) (i src : Nat) (m : TaskMsg) : Bool :=
  (s.flights.take i).any (fun f => match f with
    | .task n src' => src' == src && src != outsideSrc && n.core == m.core && n.ctx == m.ctx
    | _ => false)

/-- Whether a task of a message can run where it is going: its context resident, its region live, the cluster not halted
(R185, R189); a core of another partition is no different (log entry 126). One whose region has ended stays on its way (log
entry 83). -/
def taskFits (s : State) (m : TaskMsg) : Bool :=
  m.ctx == residentCtx s m.core && isLive s m.region && !(s.halted.contains (clusterOf s m.core))

/-- A TASK message claims a slot, where one is free and the region's budget has room (R189). -/
def tryTask (s : State) (m : TaskMsg) : Option State :=
  if taskFits s m then
    match freeSlot s m.core, charge s m.region [(.slots, 1)] with
    | some i, some s' => some (startTask s' i m.region m.pc m.payload)
    | _, _ => none
  else none

/-- TASK_START (R189). -/
def execTaskStart (src : Src TaskMsg) (s : State) : Host.Outcome State Fault Refusal :=
  .next (
    match src with
    | .mine i =>
      (match s.flights[i]? with
        | some (.task m src) =>
          if earlierTask s i src m then s else (tryTask { s with flights := dropAt s.flights i } m).getD s
        | _ => s)
    | .outside m =>
      (tryTask s m).getD (if portFull s m.core m.ctx then s else { s with flights := s.flights ++ [.task m outsideSrc] }))

/-- TASK_BUDGET_RETEST (R189): a waiting TASK message tests the budget again. -/
def execTaskBudgetRetest (i : Nat) (s : State) : Host.Outcome State Fault Refusal :=
  .next (
    match s.flights[i]? with
    | some (.task m src) =>
      if chargeFits (s.region m.region) [(.slots, 1)] && !(earlierTask s i src m) then (tryTask { s with flights := dropAt s.flights i } m).getD s else s
    | _ => s)

/-- SPAWN_REQUEST_ARRIVAL (R190): the budget is tested before a free slot is looked for; a core where the task cannot run
now has no slot for it (log entry 84). -/
def execSpawnRequestArrival (i : Nat) (s : State) : Host.Outcome State Fault Refusal :=
  .next (
    match s.flights[i]? with
    | some (.spawn m src) =>
      let s := { s with flights := dropAt s.flights i }
      let reply := fun (s : State) (st : Nat) => { s with flights := s.flights ++ [Flight.spawned src st] }
      (match charge s m.region [(.slots, 1)] with
        | none => reply s 2
        | some s' =>
          match freeSlot s m.core, taskFits s m with
          | none, _ | _, false => reply s 1
          | some k, true => reply (startTask s' k m.region m.pc m.payload) 0)
    | _ => s)

/-- SPAWN_ANSWER_ARRIVAL (R190). -/
def execSpawnAnswerArrival (i : Nat) (s : State) : Host.Outcome State Fault Refusal :=
  .next (
    match s.flights[i]? with
    | some (.spawned src st) =>
      let s := { s with flights := dropAt s.flights i }
      if awaits s src then answer s src (.val (BitVec.ofNat 64 st)) else s
    | _ => s)

/-- MIGRATE_TRANSFER (R195): the thread has arrived; its new core performs ExpireAll and it resumes. -/
def execMigrateTransfer (i : Nat) (s : State) : Host.Outcome State Fault Refusal :=
  .next (
    match s.flights[i]? with
    | some (.thread _ dst gd st) =>
      let s := expireAll { s with flights := dropAt s.flights i } (coreOf dst)
      s.modSlot dst (fun sl =>
        let sl := { sl with status := st }
        match gd with
        | some r => sl.setReg r 0
        | none => sl)
    | _ => s)

/-- YIELD_TIMEOUT (R193): a YIELD that has reached its limit takes its turn. -/
def execYieldTimeout (slot : Nat) (s : State) : Host.Outcome State Fault Refusal :=
  .next (
    match (s.slot slot).status with
    | .asleep z =>
      (match z.kind with
        | .yield t => if s.reached t then resume s slot else s
        | _ => s)
    | _ => s)

/-- CORE_HOT (R197). -/
def execCoreHot (core : Nat) (hot : Bool) (s : State) : Host.Outcome State Fault Refusal :=
  .next (s.modCore core (fun k => { k with hot, throttled := k.throttled && hot }))

/-- Whether a slot waits for the bytes of a load, which a switch abandons (R132); not those of a region's block, whose
instruction is completed (R348). -/
def waitsLoad (s : State) (i : Nat) : Bool := s.loads.any (fun l => l.slot == some i) && (s.slot i).phase == 0

/-- Whether what a SHUF or DISP has sent is on its way, or at its destination, so that the reply is awaited (R330). -/
def shuffleSent (s : State) (i : Nat) : Bool :=
  s.posts.any (fun p => p.slot == i) || s.rows.any (fun r => r.slot == i) || s.places.any (fun q => q.row.slot == i) ||
    s.outbox.any (asked i)

/-- Whether a slot waits only for a check: of a store by its home in debug mode, or of a request that a watchpoint has matched
(R152, R378). -/
def waitsCheck (s : State) (i : Nat) : Bool :=
  (s.core (coreOf i)).sbuf.any (fun e => e.slot == i && checkedKind e.kind) || s.atoms.any (fun q => q.slot == i && q.look) ||
    s.outbox.any (fun o => match o with
      | .store j _ _ _ look | .atom j _ _ look => j == i && look
      | _ => false)

/-- Whether a slot has a part of a region's block that its instruction reads (R348). -/
def holdsBlock (sl : Slot) : Bool := sl.phase == 1 && !sl.got.isEmpty

/-- Whether a slot's access to a scratchpad is one that must finish: one whose reply a switch waits for, or a store of which
a word is written (R181, R111). -/
def bankBegun (sl : Slot) : Bool :=
  match sl.bank with
  | some x => x.must || (x.store.isSome && decide (x.due.length < (wordsIn x.key x.n).length))
  | none => false

/-- Whether a slot has what a switch or a displacement waits for (R107, R132, R152, R181, R199, R330, R348, R374): an effect
that has been made, or a reply to come whose effect is under way. A reservation granted is given up all the same (R181). -/
def mustFinish (s : State) (i : Nat) : Bool :=
  let sl := s.slot i
  !sl.sent.isEmpty || holdsBlock sl || sl.push.isSome || bankBegun sl ||
  match sl.status with
  | .waiting .reply => !(waitsLoad s i || waitsCheck s i)
  | .parked _ => false
  | .asleep z => (match z.kind with
      | .lrw _ _ => false
      | .dump => true
      | .shuf => sl.reply.isSome || shuffleSent s i
      | _ => sl.reply.isSome)
  | _ => sl.reply.isSome

/-- Whether a slot is one that its hot core displaces (R197): MIGOK, no alias bound, no tile command. -/
def eligible (s : State) (i : Nat) : Bool :=
  let sl := s.slot i
  sl.status != .noTask && sl.migok && sl.streams.isEmpty && !(hasTile s i)

/-- Whether an eligible slot can leave now (R133, R181): its own stores have drained, and nothing of it must finish first. -/
def canLeave (s : State) (i : Nat) : Bool :=
  !(mustFinish s i) && (s.slot i).status != .waiting .accept && !((s.core (coreOf i)).sbuf.any (fun e => e.slot == i))

/-- The target of a displacement (R197): the first core of the ranking that is live, not hot, and has a free slot. -/
def coolTarget (s : State) (core : Nat) : Option Nat :=
  match mapGet s.policy.thermal core with
  | none => none
  | some row =>
    match row.find? (fun c => isLiveCore s c && !(s.core c).hot && (freeSlot s c).isSome) with
    | none => none
    | some c => freeSlot s c

/-- How a displaced slot resumes: parked as it was, else at its instruction (R196, R197). -/
def displacedStatus (sl : Slot) : Status :=
  match sl.status with
  | .parked h => .parked h
  | _ => .ready

/-- THERMAL_DISPLACEMENT (R197): the lowest-numbered eligible slot moves, as soon as it can leave; where there is none, or no
target, the core is throttled until it is no longer hot. -/
def execThermalDisplacement (core : Nat) (s : State) : Host.Outcome State Fault Refusal :=
  .next (
    let k := s.core core
    let due := match k.lastDisp with
      | none => true
      | some t => decide (t.toNat + 10000 ≤ s.time.toNat)
    if k.hot && due then
      match ((List.range 8).map (fun i => 8 * core + i)).find? (fun i => eligible s i), coolTarget s core with
      | some i, some dst =>
        let sl := s.slot i
        if canLeave s i then
          (moveThread s i dst sl.pc none (displacedStatus sl)).modCore core (fun k => { k with lastDisp := some s.time })
        else s
      | _, _ => s.modCore core (fun k => { k with throttled := true })
    else s)

end Sys2Proof.Machine
end

