-- ==== Sys2Proof/Machine/System.lean ====
section
/-! DEFINITION. Control registers (R349 to R354, R363), ERET and TRAP (R358, R359), TQPOP (R364), TLBINV RANGE and ALL
(R369), and the events that carry their writes and invalidates. -/

namespace Sys2Proof.Machine

/-- How a control register may be used (R351): fields all RO, RW with or without W1C, or all SUP. -/
inductive CrKind where
  | ro | rw | sup
  deriving DecidableEq, Repr

/-- The control registers by number; none is unassigned (R352). -/
def crKind (cr : BitVec 6) : Option CrKind :=
  let n := cr.toNat
  if n ≤ 0x08 then some .ro
  else if n = 0x0D ∨ n = 0x0F ∨ n = 0x16 ∨ n = 0x1A then some .ro
  else if n ≤ 0x19 ∨ n = 0x1E then some .rw
  else if n = 0x1F ∨ 0x3A ≤ n then none
  else some .sup

/-- TQSTAT (R363). -/
def tqstat (s : State) : Word :=
  BitVec.ofBool s.tqOvf ++ 0#31 ++ s.tqLost ++ 0#3 ++ BitVec.ofNat 13 s.tq.length

/-- The group and word that HGSEL selects (R114). -/
def hgGroup (s : State) : Nat × Nat := ((s.hgsel.extractLsb' 5 6).toNat, (s.hgsel.extractLsb' 0 5).toNat)

/-- HGDATA (R114): 0 at words 18 to 31. -/
def hgdata (s : State) : Word :=
  let (g, w) := hgGroup s
  if w < 18 then (groupMask s g).extractLsb' (64 * w) 64 else 0

/-- TSTAT of the slot whose turn it is (R354). -/
def tstat (s : State) : Word :=
  0#61 ++ BitVec.ofBool (s.region s.me.region).debug ++ BitVec.ofBool (s.me.region == 0) ++ BitVec.ofBool s.me.inh

/-- The value of a control register as the slot whose turn it is reads it (R352). -/
def crValue (s : State) (cr : BitVec 6) : Word :=
  let sl := s.me
  let k := s.core s.myCore
  match cr.toNat with
  | 0x00 => BitVec.ofNat 64 (s.cur % 8)
  | 0x01 => BitVec.ofNat 64 s.myCore
  | 0x02 => BitVec.ofNat 64 (clusterOf s s.myCore)
  | 0x03 => BitVec.ofNat 64 (dieOf s s.myCore)
  | 0x04 => s.dev.setWidth 64
  | 0x05 => s.time
  | 0x06 => BitVec.ofNat 64 sl.region
  | 0x07 => sl.rcb
  | 0x08 => k.part.setWidth 64
  | 0x09 => sl.epc
  | 0x0A => sl.cause.setWidth 64
  | 0x0B => sl.tval
  | 0x0C => sl.tvec
  | 0x0D => tstat s
  | 0x0E => sl.waitlim.setWidth 64
  | 0x0F => BitVec.ofNat 64 k.leaselen
  | 0x10 => sl.fmta.setWidth 64
  | 0x11 => sl.fmtb.setWidth 64
  | 0x12 => sl.fmtc.setWidth 64
  | 0x13 => sl.scla
  | 0x14 => sl.sclb
  | 0x15 => sl.sclc
  | 0x16 => k.tabbase
  | 0x17 => boolWord sl.round
  | 0x18 => sl.flags.setWidth 64
  | 0x19 => boolWord sl.migok
  | 0x1A => BitVec.ofNat 64 (ringLen s s.myCore)
  | 0x1B => k.mslot
  | 0x1C => tqstat s
  | 0x1D => s.tqnote
  | 0x1E => sl.tscr
  | 0x38 => s.hgsel
  | 0x39 => hgdata s
  | n =>
    if 0x20 ≤ n ∧ n < 0x28 then k.pw[n % 8]'(Nat.mod_lt _ (by decide))
    else if 0x28 ≤ n ∧ n < 0x38 then s.raf[(n - 0x28) % 16]'(Nat.mod_lt _ (by decide))
    else 0

/-- The value an op leaves in RW and SUP fields (R350). -/
def crNext (op : CrOp) (old a : Word) : Word :=
  match op with
  | .write => a
  | .set => old ||| a
  | .clear => old &&& ~~~a

/-- The bits that an op writes 1 to in a W1C field (R350). -/
def crOnes (op : CrOp) (a : Word) : Word :=
  match op with
  | .write | .set => a
  | .clear => 0

/-- The FLAGS bits that completions have set in this cycle for the slot whose turn it is: a clearing write of the same cycle
leaves them set (R236). -/
def flaggedNow (s : State) : BitVec 3 :=
  s.flagged.foldl (fun m e => if e.1 = s.cur ∧ e.2.1 = s.me.gen then m ||| e.2.2 else m) 0

/-- Apply to a register that is not of the device's dies' copies: reserved bits are dropped (R9); a protection window
that names the reserved space is ignored (R112). -/
def crApply (s : State) (cr : BitVec 6) (v ones : Word) : State :=
  match cr.toNat with
  | 0x09 => s.modMe (fun sl => { sl with epc := v })
  | 0x0A => s.modMe (fun sl => { sl with cause := v.setWidth 5 })
  | 0x0B => s.modMe (fun sl => { sl with tval := v })
  | 0x0C => s.modMe (fun sl => { sl with tvec := v &&& ~~~(3 : Word) })
  | 0x0E => s.modMe (fun sl => { sl with waitlim := v.setWidth 32 })
  | 0x10 => s.modMe (fun sl => { sl with fmta := v.setWidth 4 })
  | 0x11 => s.modMe (fun sl => { sl with fmtb := v.setWidth 4 })
  | 0x12 => s.modMe (fun sl => { sl with fmtc := v.setWidth 4 })
  | 0x13 => s.modMe (fun sl => { sl with scla := v })
  | 0x14 => s.modMe (fun sl => { sl with sclb := v })
  | 0x15 => s.modMe (fun sl => { sl with sclc := v })
  | 0x17 => s.modMe (fun sl => { sl with round := v.getLsbD 0 })
  | 0x18 => s.modMe (fun sl => { sl with flags := (sl.flags &&& ~~~(ones.setWidth 3)) ||| flaggedNow s })
  | 0x19 => s.modMe (fun sl => { sl with migok := v.getLsbD 0 })
  | 0x1B => s.modCore s.myCore (fun k => { k with mslot := v })
  | 0x1E => s.modMe (fun sl => { sl with tscr := v })
  | 0x38 => { s with hgsel := v &&& 0x7FF }
  | n =>
    if 0x20 ≤ n ∧ n < 0x28 ∧ v.extractLsb' 61 2 ≠ 3#2 then
      s.modCore s.myCore (fun k => { k with pw := k.pw.set (n % 8) (v &&& ~~~(63 : Word)) (Nat.mod_lt _ (by decide)) })
    else s

/-- A device register whose write completes by an event: HGDATA, RAF0 to RAF15, TQSTAT, TQNOTE (R114, R363, R365). -/
def crRemote (cr : BitVec 6) : Bool :=
  let n := cr.toNat
  n == 0x1C || n == 0x1D || n == 0x39 || (decide (0x28 ≤ n) && decide (n < 0x38))

/-- CRR's checks (R351): ILLEGAL for an unassigned number, PRIV for a register of SUP fields in a user slot. -/
def crReadable (s : State) (cr : BitVec 6) (word : W32) : Eff CrKind :=
  match crKind cr with
  | none => .trap .illegal (word.setWidth 64)
  | some .sup => (checkSup s word).andThen fun _ s => .ok .sup s
  | some k => .ok k s

/-- The checks of CRW, CRS and CRC (R351): a register of RO fields too raises PRIV in a user slot. -/
def crWritable (s : State) (cr : BitVec 6) (word : W32) : Eff CrKind :=
  match crKind cr with
  | none => .trap .illegal (word.setWidth 64)
  | some .rw => .ok .rw s
  | some k => (checkSup s word).andThen fun _ s => .ok k s

/-- A CRW, CRS or CRC up to its gd: the old value (R350). -/
def crChange (s : State) (cr : BitVec 6) (op : CrOp) (word : W32) (gd ga : Reg) : Eff Word :=
  (crWritable s cr word).andThen fun k s =>
  (readG s ga).andThen fun a s =>
  if k = .ro then .ok (crValue s cr) s
  else if crRemote cr then
    match s.me.reply with
    | some (.val old) => .ok old s
    | some (.fault c v) => .trap c v
    | none =>
      (probeG s gd).andThen fun _ s =>
      act s (fun s0 => { s0 with devWrites := s0.devWrites ++ [DevWrite.mk s0.cur cr op a] }.stall .reply)
  else
    let old := crValue s cr
    .ok old (crApply s cr (crNext op old a) (crOnes op a))

/-- CRR (R350). -/
def execCrr (gd : Reg) (cr : BitVec 6) (s : State) : Host.Outcome State Fault Refusal :=
  conclude s ((crReadable s cr (encodeScalar (.crr gd cr))).andThen fun _ s => writeDone s gd (crValue s cr))

/-- CRW (R350). -/
def execCrw (ga : Reg) (cr : BitVec 6) (s : State) : Host.Outcome State Fault Refusal :=
  conclude s ((crChange s cr .write (encodeScalar (.crw ga cr)) 0 ga).andThen fun _ s => done s)

/-- CRS (R350). -/
def execCrs (gd ga : Reg) (cr : BitVec 6) (s : State) : Host.Outcome State Fault Refusal :=
  conclude s ((crChange s cr .set (encodeScalar (.crs gd ga cr)) gd ga).andThen fun old s => effectDone s gd old)

/-- CRC (R350). -/
def execCrc (gd ga : Reg) (cr : BitVec 6) (s : State) : Host.Outcome State Fault Refusal :=
  conclude s ((crChange s cr .clear (encodeScalar (.crc gd ga cr)) gd ga).andThen fun old s => effectDone s gd old)

/-- The pending write of a slot to a register that a test names. -/
def pendingWrite (s : State) (slot : Nat) (f : BitVec 6 → Bool) : Option (Nat × DevWrite) :=
  findIdx (fun w : DevWrite => w.slot == slot && f w.cr) s.devWrites

/-- A device register write is complete: the slot goes on with the old value (R350). -/
def writeBack (s : State) (i slot : Nat) (r : Reply) : State :=
  let s := { s with devWrites := dropAt s.devWrites i }
  if awaits s slot then answer s slot r else s

/-- The leaf that the tables give a va now (R366). -/
def tableLeaf (s : State) (va : Nat) : Option (Word × Nat) :=
  let raf := s.raf[va / 2 ^ 50 % 16]'(Nat.mod_lt _ (by decide))
  let psize := raf.extractLsb' 61 2
  if raf.getLsbD 63 then
    match walkFrom s va ((raf.extractLsb' 12 36).toNat * 4096) [] (walkLevels psize) with
    | .leaf w _ => some (w, pageBits psize)
    | _ => none
  else none

/-- Whether a residency lease covers a page whose frame holds a line (R114, R332). -/
def leaseHolds (s : State) (l : Nat) : Bool :=
  s.regions.any (fun e => e.2.res.toList.any (fun x => x.st == 2 && devOf s x.base == 0x1FF &&
    (List.range (x.len.toNat / 4096)).any (fun i =>
      let va := vaOf x.base + 4096 * i
      match tableLeaf s va with
      | some (leaf, bits) => frameOf leaf bits va / 4096 == l / 32
      | none => false)))

/-- The lines that leave their slices as a group changes (R114): those that no lease covers, so that their next access finds
them at their new home. A line that a lease covers stays, and two homes may then serve it. -/
def leavingLines (s : State) : List Nat :=
  (s.lines.filter (fun e => e.2.slice.isSome && !(leaseHolds s e.1))).map Prod.fst

/-- HGDATA_WRITE (R114): to the group and word that HGSEL selects as the write completes (log entry 85), which it does once the
sharers of the table lines that leave have acknowledged that these are invalid (R368). -/
def execHgdataWrite (slot : Nat) (s : State) : Host.Outcome State Fault Refusal :=
  .next (
    match pendingWrite s slot (fun c => c.toNat == 0x39) with
    | none => s
    | some (i, w) =>
      let (g, n) := hgGroup s
      let old := hgdata s
      let v := crNext w.op old w.v
      let mask : BitVec 1152 := (BitVec.allOnes 64).setWidth 1152 <<< (64 * n)
      let m := (groupMask s g &&& ~~~mask) ||| (v.setWidth 1152 <<< (64 * n))
      let ls := if n < 18 then leavingLines s else []
      if ls.any (isShared s) then sendInvals s none (fun l => ls.contains l)
      else
        let t : State := if n < 18 then { ls.foldl evictLine s with hg := mapPut s.hg g m } else s
        writeBack t i slot (.val old))

/-- RAF_WRITE (R365). -/
def execRafWrite (slot : Nat) (s : State) : Host.Outcome State Fault Refusal :=
  .next (
    match pendingWrite s slot (fun c => decide (0x28 ≤ c.toNat) && decide (c.toNat < 0x38)) with
    | none => s
    | some (i, w) =>
      let n := (w.cr.toNat - 0x28) % 16
      let old := s.raf[n]'(Nat.mod_lt _ (by decide))
      let v := crNext w.op old w.v &&& 0xE000FFFFFFFFF000
      writeBack { s with raf := s.raf.set n v (Nat.mod_lt _ (by decide)) } i slot (.val old))

/-- Whether TQNOTE accepts a value (R363). -/
def noteOk (s : State) (v : Word) : Bool :=
  v == 0 || (decide (v.toNat % 8 = 0) && !(v.getLsbD 63) && devOf s v == 0x1FF)

/-- TQNOTE_WRITE (R363). -/
def execTqnoteWrite (slot : Nat) (s : State) : Host.Outcome State Fault Refusal :=
  .next (
    match pendingWrite s slot (fun c => c.toNat == 0x1D) with
    | none => s
    | some (i, w) =>
      let v := crNext w.op s.tqnote w.v
      if noteOk s v then writeBack { s with tqnote := v } i slot (.val s.tqnote)
      else writeBack s i slot (.fault .prot v))

/-- TQSTAT_WRITE (R363): clearing OVF clears LOST; LOST and USED are not written. -/
def execTqstatWrite (slot : Nat) (s : State) : Host.Outcome State Fault Refusal :=
  .next (
    match pendingWrite s slot (fun c => c.toNat == 0x1C) with
    | none => s
    | some (i, w) =>
      let old := tqstat s
      writeBack (if (crOnes w.op w.v).getLsbD 63 then { s with tqOvf := false, tqLost := 0 } else s) i slot (.val old))

/-- TRAP (R359): a cause that may not be raised is ILLEGAL, with the instruction word as TVAL. DOUBLE is never handled,
and in a handler it becomes DOUBLE again with its own code as the second cause (R356). -/
def execTrap (ga : Reg) (cc : BitVec 5) (s : State) : Host.Outcome State Fault Refusal :=
  conclude s (
    match causeOf cc with
    | none | some .fatalhw => .trap .illegal ((encodeScalar (.trap ga cc)).setWidth 64)
    | some c => (readG s ga).andThen fun v _ => .trap c v)

/-- ERET SELF (R358). -/
def execEretSelf (s : State) : Host.Outcome State Fault Refusal :=
  if s.me.inh then .next (returnSelf s) else .next (takeFault s .illegal ((encodeScalar .eretSelf).setWidth 64))

/-- Whether a number names a slot of a live core whose own context is switched out (R344, R358). -/
def switchedOut (s : State) (i : Nat) : Bool :=
  (s.slot i).status == .noTask && (List.range 4).any (fun c => (mapGet s.drawers (8192 * c + i)).isSome)

/-- What ERET RESUME and END find at the slot that a register names: 0 parked, 1 not parked, 2 switched out (R358). -/
def parkedAt (s : State) (n : Word) : Nat :=
  let i := n.toNat
  if i < 8 * s.logicalCores ∧ isLiveCore s (coreOf i) then
    match (s.slot i).status with
    | .parked _ => 0
    | _ => if switchedOut s i then 2 else 1
  else 1

/-- ERET RESUME (R358): at gb, or at the slot's EPC where gb is g0; a held record leaves with the slot's fault. -/
def execEretResume (gd ga gb : Reg) (s : State) : Host.Outcome State Fault Refusal :=
  conclude s (
    (checkSup s (encodeScalar (.eretResume gd ga gb))).andThen fun _ s =>
    (readG s ga).andThen fun n s =>
    (readG s gb).andThen fun pc s =>
    let st := parkedAt s n
    let s := if st = 0 then
        (let s := match (s.slot n.toNat).status with
          | .parked (some r) => s.sendRecord r
          | _ => s
        s.modSlot n.toNat (fun sl => { clearProgress sl with
          inh := false, pc := if gb = 0 then sl.epc else pc, status := .ready }))
      else s
    effectDone s gd (BitVec.ofNat 64 st))

/-- ERET END (R358). -/
def execEretEnd (gd ga : Reg) (s : State) : Host.Outcome State Fault Refusal :=
  conclude s (
    (checkSup s (encodeScalar (.eretEnd gd ga))).andThen fun _ s =>
    (readG s ga).andThen fun n s =>
    let st := parkedAt s n
    effectDone (if st = 0 then endTask s n.toNat else s) gd (BitVec.ofNat 64 st))

/-- A trap record's 64 bytes (R360). -/
def recordBytes (r : TrapRec) : List Byte :=
  bytesOf 8 (r.seq ++ r.kind ++ r.cause ++ 0#9 ++ r.origin ++ 0#8) ++
  bytesOf 8 (0#2 ++ BitVec.ofNat 14 r.region ++ 0#7 ++ r.dev ++ 0#18 ++ BitVec.ofNat 14 r.slot) ++
  bytesOf 8 r.epc ++ bytesOf 8 r.tval ++ bytesOf 8 r.aux ++ bytesOf 8 r.time ++ List.replicate 16 0

/-- A record is popped to a scratchpad: it leaves the queue as the banks are asked, and the instruction goes on once they have
its bytes (R110, R364). Where a watchpoint has matched it stays. -/
def popToBanks (s : State) (a : Word) (key : Nat) (r : TrapRec) (rest : List TrapRec) : Eff Unit :=
  if bankFree s s.myCore key 64 then
    .pause (fun s0 => { askBanks s key 64 (some (a, recordBytes r)) true s0 with tq := rest }) (askBanks s key 64 none false)
  else stall .poll

/-- Whether the slot's store to a scratchpad is made (R110). -/
def bankStored (s : State) : Bool :=
  match s.me.bank with
  | some x => x.store.isSome && x.due.isEmpty
  | none => false

/-- TQPOP (R364). -/
def execTqpop (gd ga : Reg) (s : State) : Host.Outcome State Fault Refusal :=
  conclude s (
    (checkSup s (encodeScalar (.tqpop gd ga))).andThen fun _ s =>
    (readG s ga).andThen fun a s =>
    if bankStored s then effectDone (acquire (bankOver s) 4) gd 0
    else
      (checkAlign s a 64).andThen fun _ s =>
      (localKey s a 64 .store).andThen fun key s =>
      match s.tq with
      | [] => writeDone s gd 1
      | r :: rest =>
        (checkWatch s a 64 false true).andThen fun _ s =>
        if inBanks key && (bankDone s key 64 false).isNone then popToBanks s a key r rest
        else if bankFree s s.myCore key 64 then effectDone (acquire (bankWrite { s with tq := rest } key (recordBytes r)) 4) gd 0
        else stall .poll)

/-- The table lines that a walk of any va in [lo, hi) reads below a table; the bounds count from the first va that the
table serves (R366, R369). -/
def tableLines (s : State) (table lo hi : Nat) : List (Nat × Nat) → List Nat
  | [] => []
  | (sh, w) :: rest =>
    (List.range (2 ^ w)).flatMap (fun i =>
      if i * 2 ^ sh < hi ∧ lo < (i + 1) * 2 ^ sh then
        let e := wordOf (readBytes s.mem (table + 8 * i) 8)
        (table + 8 * i) / 128 ::
          (if e.getLsbD 63 then
            tableLines s ((e.extractLsb' 12 36).toNat * 4096) (lo - i * 2 ^ sh) (min (hi - i * 2 ^ sh) (2 ^ sh)) rest
          else [])
      else [])

/-- The table lines of a range of vas, none of an empty one (R369). -/
def rangeLines (s : State) (lo hi : Nat) : List Nat :=
  (List.range 16).flatMap (fun i =>
    let raf := s.raf[i % 16]'(Nat.mod_lt _ (by decide))
    if lo < hi ∧ raf.getLsbD 63 ∧ i * 2 ^ 50 < hi ∧ lo < (i + 1) * 2 ^ 50 then
      tableLines s ((raf.extractLsb' 12 36).toNat * 4096) (lo - i * 2 ^ 50) (hi - i * 2 ^ 50) (walkLevels (raf.extractLsb' 61 2))
    else [])

/-- Invalidates leave for every sharer of some table lines, and the bitmaps are cleared; what earlier invalidates of those
lines wait for is waited for here too (R369). -/
def sendInvalidates (s : State) (slot : Nat) (f : Nat → Bool) : State :=
  let w := some (waiterOf s slot)
  let under := (s.invals.filter (fun v => f v.line)).map (fun v => { v with who := w })
  sendInvals { s with invals := s.invals ++ under } w f

/-- TLBINV once the lines are known: it waits for every acknowledgement (R369). -/
def tlbinv (s : State) (gd : Reg) (f : Nat → Bool) : Eff Unit :=
  (probeG s gd).andThen fun _ s =>
  if s.lines.any (fun e => f e.1 && !e.2.sharers.isEmpty) || s.invals.any (fun v => f v.line) then
    act s (fun s0 => (sendInvalidates s0 s0.cur f).stall .reply)
  else writeDone s gd 0

/-- TLBINV RANGE (R369): MISALIGN before PROT; the drain comes first. -/
def execTlbinvRange (gd ga gb : Reg) (s : State) : Host.Outcome State Fault Refusal :=
  conclude s (
    (checkSup s (encodeScalar (.tlbinvRange gd ga gb))).andThen fun _ s =>
    match s.me.reply with
    | some _ =>
      (readG s ga).andThen fun _ s =>
      (readG s gb).andThen fun _ s => writeDone s gd 0
    | none =>
      (waitDrained s).andThen fun _ s =>
      (readG s ga).andThen fun b s =>
      (readG s gb).andThen fun n s =>
      (checkAlign s b 4096).andThen fun _ s =>
      (checkAlign s n 4096).andThen fun _ s =>
      (check s (!(b.getLsbD 63) && devOf s b == 0x1FF) .prot b).andThen fun _ s =>
      let ls := rangeLines s (vaOf b) (vaOf b + n.toNat)
      tlbinv s gd (fun l => ls.contains l))

/-- TLBINV ALL (R369). -/
def execTlbinvAll (gd : Reg) (s : State) : Host.Outcome State Fault Refusal :=
  conclude s (
    (checkSup s (encodeScalar (.tlbinvAll gd))).andThen fun _ s =>
    match s.me.reply with
    | some _ => writeDone s gd 0
    | none => (waitDrained s).andThen fun _ s => tlbinv s gd (fun _ => true))

/-- Whether an address lies in one of some pages of this device. -/
def inPages (s : State) (ps : List WalkEntry) (a : Word) : Bool :=
  !(a.getLsbD 63) && devOf s a == 0x1FF && ps.any (fun p => vaOf a / 2 ^ p.bits == p.page)

/-- Whether beats of a row that a copy command of a core moves are still to be written in some pages (R282, R369). -/
def beatsUse (s : State) (bit : Nat) (ps : List WalkEntry) (x : Option Running) : Bool :=
  match x with
  | some r => physOf s (coreOf r.cmd.slot) == bit && r.copy.beats.any (fun b => b.any (fun w => inPages s ps w.1))
  | none => false

/-- Whether an access that a sharer translated by some pages has not replied or reached its home (R369). -/
def usesPages (s : State) (bit : Nat) (ps : List WalkEntry) : Bool :=
  s.copies.any (fun e => beatsUse s bit ps e.2.run) ||
  s.slots.any (fun e => physOf s (coreOf e.1) == bit && e.2.push.isSome && match e.2.room with
    | some (a, _) => inPages s ps a
    | none => false) ||
  s.loads.any (fun l => physOf s l.core == bit && l.answer.isNone && inPages s ps l.line) ||
  s.atoms.any (fun a => physOf s (coreOf a.slot) == bit && inPages s ps a.addr) ||
  s.cores.any (fun c => physOf s c.1 == bit && c.2.sbuf.any (fun e => inPages s ps e.addr))

/-- The entries that a reader derived from a table line: those it has, and those that it has dropped for another line while
their accesses are not done. -/
def pagesOf (s : State) (bit line : Nat) : List WalkEntry :=
  let of := fun (c : List WalkEntry) => c.filter (fun e => e.lines.contains line)
  (s.invals.filter (fun v => v.reader == bit)).flatMap (fun v => of (v.pages.getD [])) ++
  if bit = 1152 then of s.westWalks
  else if bit = 1153 then of s.eastWalks
  else (s.cores.filter (fun e => physOf s e.1 == bit)).flatMap (fun e => of e.2.walks)

/-- With the last acknowledgement a TLBINV is answered (R369), and a line that its home evicts leaves (R368). -/
def acknowledged (s : State) (line : Nat) (w : Option Waiter) : State :=
  match w with
  | some t => if s.invals.any (fun v => v.who == w) then s else answerTask s t (.val 0)
  | none => if isShared s line then s else evictLine s line

/-- SHARER_INVALIDATE (R369): the sharer drops what it derived from the line, and acknowledges every invalidate of it once each
access it translated so is done. -/
def execSharerInvalidate (reader line : Nat) (s : State) : Host.Outcome State Fault Refusal :=
  .next (
    let mine := fun (v : Inval) => v.reader == reader && v.line == line
    let asks := s.invals.filter mine
    if asks.isEmpty then s
    else
      let ps := (asks.flatMap (fun v => v.pages.getD []) ++ pagesOf s reader line).eraseDups
      let s := invalidate s reader line
      if usesPages s reader ps then
        { s with invals := s.invals.map (fun v => if mine v then { v with pages := some ps } else v) }
      else
        let s : State := { s with invals := s.invals.filter (fun v => !(mine v)) }
        (asks.map Inval.who).eraseDups.foldl (fun s w => acknowledged s line w) s)

/-- NOP (R38). -/
def execNop (s : State) : Host.Outcome State Fault Refusal := conclude s (done s)

/-- The enumeration table has changed: gen advances (R386). -/
def tableChanged (s : State) : State := { s with enumGen := s.enumGen + 1 }

/-- A page with an uncorrectable error counts as retired (R386). -/
def retirePage (s : State) (page : Nat) : State :=
  if s.badPages.contains page then s else tableChanged { s with badPages := s.badPages ++ [page] }

/-- LINE_POISON (R371). -/
def execLinePoison (line : Nat) (s : State) : Host.Outcome State Fault Refusal :=
  .next (
    let s := retirePage (s.modLine line (fun i => { i with poison := true })) (line / 32)
    s.sendRecord { trapRec s 1 (causeCode .poison) 6 0 0 0 (BitVec.ofNat 64 (line * 128)) 0 with home := (s.line line).slice })

/-- UNCORRECTABLE_ERROR (R368, R371): a sharer bitmap counts every bit as set; any other state writes a fatal record. -/
def execUncorrectableError (u : ErrorSite) (s : State) : Host.Outcome State Fault Refusal :=
  .next (
    match u with
    | .sharerBitmap line => s.modLine line (fun i => { i with sharers := List.range 1154 })
    | .directory => s.sendRecord (trapRec s 3 (causeCode .fatalhw) 9 0 0 0 0 0))

end Sys2Proof.Machine
end

