-- ==== Sys2Proof/Machine/Streams.lean ====
section
/-! DEFINITION. Stream bindings (R289 to R294), copy batches (R287, R288), arrival counters (R259) and gating heaps
(R277 to R280). -/

namespace Sys2Proof.Machine

/-- The stream that a descriptor's 64 bytes describe (R289). -/
def streamOf (desc : Word) (bs : List Byte) : Stream :=
  let ctl := w64At bs 24
  { desc
    base := w64At bs 0
    s0 := w32At bs 8
    s1 := w32At bs 12
    n0 := (w32At bs 16).toNat
    n1 := (w32At bs 20).toNat
    ew := ctl.extractLsb' 0 2
    write := ctl.getLsbD 2
    ring := ctl.getLsbD 3
    sx := ctl.getLsbD 4
    kc := ctl.extractLsb' 8 5
    scope := ctl.extractLsb' 13 3
    cw := w64At bs 32
    pos := 0
    f0 := 0
    entered := 0 }

/-- Whether a descriptor's fields are aligned (R291). -/
def streamAligned (st : Stream) : Bool :=
  let n := widthBytes st.ew
  decide (st.base.toNat % n = 0) && decide (st.s0.toNat % n = 0) && decide (st.s1.toNat % n = 0) &&
    (!st.ring || decide (st.cw.toNat % 8 = 0))

/-- An arrival counter of a core (R248). -/
def Core.counter (k : Core) (kc : BitVec 5) : W32 := k.k[kc.toNat]'(by have := kc.isLt; omega)

/-- BIND (R291). -/
def execBind (ga : Reg) (q : BitVec 3) (s : State) : Host.Outcome State Fault Refusal :=
  conclude s (
    (readG s ga).andThen fun a s =>
    (checkAlign s a 64).andThen fun _ s =>
    (localRead s a 64).andThen fun bs s =>
    let st := streamOf a bs
    (check s (streamAligned st) .misalign a).andThen fun _ s =>
    (check s (decide (st.n0 ≠ 0) && decide (st.n1 ≠ 0)) .prot a).andThen fun _ s =>
    (check s (!st.ring || decide (st.scope.toNat < 6)) .scope a).andThen fun _ s =>
    (checkWatch s a 64 true false).andThen fun _ s =>
    done (setStream s q.toNat { st with f0 := if st.ring then (s.core s.myCore).counter st.kc else 0 }))

/-- UNBIND (R293). -/
def execUnbind (q : BitVec 3) (s : State) : Host.Outcome State Fault Refusal :=
  conclude s (done (s.modMe (fun sl => { sl with streams := mapDel sl.streams q.toNat })))

/-- SPOS (R294). -/
def execSpos (gd : Reg) (q : BitVec 3) (s : State) : Host.Outcome State Fault Refusal :=
  conclude s (
    match mapGet s.me.streams q.toNat with
    | none => writeDone s gd 0
    | some st =>
      let ended := !st.ring && decide (st.n0 * st.n1 ≤ st.pos)
      writeDone s gd (1#1 ++ BitVec.ofBool st.write ++ BitVec.ofBool ended ++ 0#29 ++ BitVec.ofNat 32 st.pos))

/-- The outstanding batches of a slot: closed, with a command not complete (R287). -/
def outstanding (sl : Slot) : Nat := sl.batches.length

/-- The open batch becomes outstanding and a new one opens (R288). -/
def closeBatch (sl : Slot) : Slot :=
  { sl with
    batches := mapPut sl.batches sl.batchId sl.batchPending
    batchId := sl.batchId + 1, batchPending := 0 }

/-- The closing that CLOSEB and WAITB share (R288): of an open batch with commands in it, which those that are complete have
left (R285). -/
def closing (s : State) (tval : Word) : Eff Unit :=
  if s.me.batchPending = 0 then .ok () s
  else if outstanding s.me < 15 then .ok () (s.modMe closeBatch)
  else sleep .closeb tval

/-- CLOSEB (R288). -/
def execCloseb (gd : Reg) (s : State) : Host.Outcome State Fault Refusal :=
  conclude s ((closing s 0).andThen fun _ s => writeDone s gd (BitVec.ofNat 64 (outstanding s.me)))

/-- WAITB (R288): a closing already done stays in place while it sleeps. -/
def execWaitb (gd : Reg) (n : BitVec 4) (s : State) : Host.Outcome State Fault Refusal :=
  conclude s (
    (closing s (n.setWidth 64)).andThen fun _ s =>
    if outstanding s.me ≤ n.toNat then
      let s := expireAll s s.myCore
      writeDone s gd (BitVec.ofNat 64 (outstanding s.me))
    else
      act s (fun s0 => (if s0.me.batchPending = 0 then s0 else s0.modMe closeBatch).sleepFor (.waitb n.toNat) (n.setWidth 64)))

/-- KSET (R259): a bump of the same cycle comes after it (R258). -/
def execKset (ga : Reg) (kc : BitVec 5) (s : State) : Host.Outcome State Fault Refusal :=
  conclude s (
    (readG s ga).andThen fun v s =>
    let bumps := s.bumped.filter (fun b => b == (s.myCore, kc.toNat))
    done (s.modCore s.myCore (fun k => { k with k := k.k.set kc.toNat (low32 v + BitVec.ofNat 32 bumps.length) (by have := kc.isLt; omega) })))

/-- KWAIT (R259). -/
def execKwait (gd ga : Reg) (kc : BitVec 5) (s : State) : Host.Outcome State Fault Refusal :=
  conclude s (
    (readG s ga).andThen fun t s =>
    let v := (s.core s.myCore).counter kc
    if (low32 t).toNat ≤ v.toNat then writeDone (expireAll s s.myCore) gd (v.setWidth 64)
    else sleep (.kwait kc (low32 t)) ((low32 t).setWidth 64))

/-- KREAD (R259). -/
def execKread (gd : Reg) (kc : BitVec 5) (s : State) : Host.Outcome State Fault Refusal :=
  conclude s (
    let v := (s.core s.myCore).counter kc
    writeDone (expireAll s s.myCore) gd (v.setWidth 64))

/-- Whether an entry is worse than another (R277). -/
def worse (x y : Word) : Bool :=
  let a := num32 (low32 x)
  let b := num32 (low32 y)
  ltNum a b || (eqNum a b && decide ((y.extractLsb' 32 16).toNat < (x.extractLsb' 32 16).toNat))

/-- Two entries of a heap exchanged. -/
def swapAt (es : List Word) (i j : Nat) : List Word := (es.set i (es.getD j 0)).set j (es.getD i 0)

/-- An entry rises while it is worse than its parent (R279). -/
def siftUp (es : List Word) (e : Nat) : Nat → List Word
  | 0 => es
  | fuel + 1 =>
    let p := (e - 1) / 2
    if e ≠ 0 ∧ worse (es.getD e 0) (es.getD p 0) then siftUp (swapAt es e p) p fuel else es

/-- An entry sinks while its worse child is worse than it (R279); of children neither of which is worse, the left (log entry
132). -/
def siftDown (es : List Word) (e : Nat) : Nat → List Word
  | 0 => es
  | fuel + 1 =>
    let l := 2 * e + 1
    let r := 2 * e + 2
    let c := if r < es.length ∧ worse (es.getD r 0) (es.getD l 0) then r else l
    if c < es.length ∧ worse (es.getD c 0) (es.getD e 0) then siftDown (swapAt es e c) c fuel else es

/-- A heap as HSIFT and HTAKE find it: its place, capacity and entries; none for a bad header (R279). -/
structure Heap where
  key : Nat
  hdr : Word
  kcap : Nat
  es : List Word
  deriving DecidableEq, Repr

/-- A word as a heap entry: its reserved bits 63:48 read as 0 (R9, R277). -/
def heapEntry (w : Word) : Word := w &&& 0x0000FFFFFFFFFFFF

/-- The window check in its two steps and the header (R279): MISALIGN, then PROT at ea. -/
def heapAt (s : State) (ea : Word) : Eff (Option Heap) :=
  (checkAlign s ea 8).andThen fun _ s =>
  let at_ := fun (n : Nat) => match isLocal ea, localSpace ea, localLoc s s.who ea n .rmw with
    | true, some (0, _), .ok (.bank k) => some k
    | _, _, _ => none
  match at_ 8 with
  | none => .trap .prot ea
  | some key =>
    atFreeBank s key 8 false <|
    let h := wordOf (readBytes s.mem key 8)
    let kcap := (h.extractLsb' 8 8).toNat
    let n := (h.extractLsb' 0 8).toNat
    if kcap < 1 ∨ 16 < kcap ∨ kcap < n then .ok none s
    else
      match at_ (8 + 8 * kcap) with
      | none => .trap .prot ea
      | some key => atFreeBank s key (8 + 8 * kcap) false <|
        .ok (some ⟨key, h, kcap, (List.range n).map (fun e => heapEntry (wordOf (readBytes s.mem (key + 8 + 8 * e) 8)))⟩) s

/-- A heap written back: the header's count and the entries, their reserved bits 0 (R9, R277). -/
def putHeap (s : State) (h : Heap) (es : List Word) : State :=
  bankWrite s h.key (bytesOf 8 (0#48 ++ h.hdr.extractLsb' 8 8 ++ BitVec.ofNat 8 es.length) ++ es.flatMap (bytesOf 8))

/-- The watchpoints' test of a heap access (R378). -/
def watchHeap (s : State) (ea : Word) (h : Option Heap) (st : Bool) : Eff Unit :=
  let n := match h with
    | some h => 8 + 8 * h.kcap
    | none => 8
  checkWatch s ea n true st

/-- HSIFT's status and, where it keeps the entry, the entries after it (R279). -/
def hsift (h : Heap) (x : Word) : Nat × Option (List Word) :=
  if isNan (num32 (low32 x)) then (2, none)
  else if h.es.length < h.kcap then (1, some (siftUp (h.es ++ [x]) h.es.length 16))
  else if worse (h.es.getD 0 0) x then (1, some (siftDown (h.es.set 0 x) 0 16))
  else (0, none)

/-- HSIFT (R279). -/
def execHsift (gd ga gb : Reg) (s : State) : Host.Outcome State Fault Refusal :=
  conclude s (
    (readG s ga).andThen fun ea s =>
    (readG s gb).andThen fun x s =>
    (heapAt s ea).andThen fun h s =>
    match h with
    | none => (watchHeap s ea none false).andThen fun _ s => writeDone s gd 3
    | some h =>
      let (st, es) := hsift h (heapEntry x)
      (watchHeap s ea (some h) es.isSome).andThen fun _ s =>
      effectDone (match es with
        | some es => putHeap s h es
        | none => s) gd (BitVec.ofNat 64 st))

/-- HTAKE (R280): the entry bytes past the new count keep their values. -/
def execHtake (gd ga : Reg) (s : State) : Host.Outcome State Fault Refusal :=
  conclude s (
    (readG s ga).andThen fun ea s =>
    (heapAt s ea).andThen fun h s =>
    match h with
    | none => (watchHeap s ea none false).andThen fun _ s => writeDone s gd 0x4000000000000000
    | some h =>
      match h.es with
      | [] => (watchHeap s ea (some h) false).andThen fun _ s => writeDone s gd 0
      | x :: rest =>
        (watchHeap s ea (some h) true).andThen fun _ s =>
        let es := match rest.getLast? with
          | none => []
          | some y => siftDown (y :: rest.dropLast) 0 16
        effectDone (putHeap s h es) gd (1#1 ++ 0#15 ++ x.extractLsb' 0 48))

end Sys2Proof.Machine
end

