-- ==== Sys2Proof/Machine/TileIssue.lean ====
section
/-! DEFINITION. Issue of tile commands (R49): the static checks of R40 to R48 and of each op's entry (R237, R251, R267,
R283, R326), and one meaning per op. -/

namespace Sys2Proof

/-- A word of a tile command. -/
def TileWords.word (t : TileWords) (i : Nat) : W32 :=
  match i with
  | 0 => t.w0
  | 1 => t.w1
  | 2 => t.w2
  | 3 => t.w3
  | 4 => t.w4
  | 5 => t.w5
  | 6 => t.w6
  | _ => t.w7

/-- Fields of w4 and w5 (R43, R46). -/
def TileWords.m (t : TileWords) : Nat := (bitsOf t.w4 0 10).toNat

/-- See TileWords.m. -/
def TileWords.n (t : TileWords) : Nat := (bitsOf t.w4 10 10).toNat

/-- See TileWords.m. -/
def TileWords.k (t : TileWords) : Nat := (bitsOf t.w4 20 10).toNat

/-- See TileWords.m. -/
def TileWords.smode (t : TileWords) : Nat := (bitsOf t.w4 30 2).toNat

/-- See TileWords.m. -/
def TileWords.smd (t : TileWords) : Nat := (bitsOf t.w5 12 4).toNat

/-- See TileWords.m. -/
def TileWords.aux (t : TileWords) : BitVec 8 := bitsOf t.w5 16 8

/-- Opflags bit i of w0 (R40). -/
def TileWords.flag (t : TileWords) (i : Nat) : Bool := t.w0.getLsbD i

end Sys2Proof

namespace Sys2Proof.Machine

/-- What an op accepts for an operand (R42). -/
inductive RefRule where
  | none | mems | reg | noneOrReg | memsOrRing | memsOrZero | acc | memsOrAcc
  deriving DecidableEq, Repr

/-- The fields an op accepts. -/
structure OpSpec where
  engine : Engine
  op : BitVec 8
  /-- Opflags bits 11:8 that the op names. -/
  opflags : BitVec 4
  a : RefRule
  b : RefRule
  c : RefRule
  fa : List Nat
  fb : List Nat
  fc : List Nat
  m : Nat × Nat
  n : Nat × Nat
  k : Nat × Nat
  smd : List Nat
  record : Bool
  /-- Aux values, where they do not depend on other words. -/
  aux : BitVec 8 → Bool

/-- A reference word's mode (R42). -/
def refMode (w : W32) : Nat := (bitsOf w 30 2).toNat

/-- The register of a reference word in mode 10. -/
def refReg (w : W32) : Reg := bitsOf w 0 5

/-- A special's code where a reference word names one: 0 RING, 1 ZERO, 2 NONE, 3 ACC (R42). -/
def refSpecial (w : W32) : Option Nat := if refMode w = 3 then some (bitsOf w 0 4).toNat else none

/-- Whether a reference word is NONE. -/
def isNone (w : W32) : Bool := refSpecial w == some 2

/-- Whether a reference word is ACC. -/
def isAcc (w : W32) : Bool := refSpecial w == some 3

/-- Whether a reference word keeps R42 by itself. -/
def refOk (w : W32) : Bool :=
  match refMode w with
  | 0 => bitsOf w 18 12 == 0
  | 1 => bitsOf w 22 8 == 0
  | 2 => bitsOf w 5 25 == 0 && bitsOf w 0 5 != 0
  | _ => decide ((bitsOf w 0 4).toNat < 4) && bitsOf w 6 24 == 0 && (bitsOf w 0 4 == 3 || bitsOf w 4 2 == 0)

/-- Whether an op accepts a reference word. -/
def refAccepted (r : RefRule) (w : W32) : Bool :=
  let mem := decide (refMode w < 3)
  match r with
  | .none => isNone w
  | .mems => mem
  | .reg => refMode w == 2
  | .noneOrReg => isNone w || refMode w == 2
  | .memsOrRing => mem || refSpecial w == some 0
  | .memsOrZero => mem || refSpecial w == some 1
  | .acc => isAcc w
  | .memsOrAcc => mem || isAcc w

/-- The three format fields with code 15 resolved by format registers (R46, R49). -/
def formats (t : TileWords) (fmta fmtb fmtc : BitVec 4) : BitVec 4 × BitVec 4 × BitVec 4 :=
  let r := fun (f reg : BitVec 4) => if f = 15 then reg else f
  (r (bitsOf t.w5 0 4) fmta, r (bitsOf t.w5 4 4) fmtb, r (bitsOf t.w5 8 4) fmtc)

/-- Bytes of an element of a format (R250, R266). -/
def fmtBytes (f : BitVec 4) : Nat :=
  match f.toNat with
  | 1 | 2 => 2
  | 3 | 4 => 1
  | _ => 4

/-- Whether a number lies in a range. -/
def within (r : Nat × Nat) (n : Nat) : Bool := decide (r.1 ≤ n) && decide (n ≤ r.2)

/-- The rules of an op that join words, beside its accepted fields: the failing word where one is broken (R54). ROT
names one accumulator; a hop count is below RINGLEN; TTRN keeps its format; TFILL of ZERO has fa 0; COMBINE's M is
a multiple of kk. -/
def jointWord (t : TileWords) (sp : OpSpec) (fa fc : BitVec 4) (ringlen : Nat) : Option Nat :=
  match sp.engine, sp.op.toNat with
  | .matrix, 0 | .matrix, 1 =>
    let h := t.aux.toNat
    if refSpecial t.w2 = some 0 then (if h = 0 then none else some 5) else if h < ringlen then none else some 5
  | .matrix, 2 =>
    if isAcc t.w1 = isAcc t.w3 then some 3
    else if isAcc t.w1 then (if fa = 0 ∧ t.aux.toNat < 2 then none else some 5)
    else if fc = 0 ∧ t.aux = 0 then none else some 5
  | .vector, 0x0D => if fa = fc then none else some 5
  | .vector, 0x10 => if refSpecial t.w1 = some 1 ∧ fa ≠ 0 then some 5 else none
  | .vector, 0x11 =>
    let kk := (t.aux.extractLsb' 0 5).toNat
    if 1 ≤ kk ∧ kk ≤ 16 ∧ t.m % kk = 0 then none else some 5
  | _, _ => none

/-- Whether an op reads operand c as a source (R267, R274). -/
def readsC (t : TileWords) (sp : OpSpec) : Bool :=
  match sp.engine, sp.op.toNat with
  | .vector, 3 | .vector, 0x0C => true
  | .vector, 0x11 => t.flag 9
  | _, _ => false

/-- Elements per row of a destination (R271, R272). -/
def destRow (t : TileWords) (sp : OpSpec) : Nat :=
  match sp.engine, sp.op.toNat with
  | .vector, 0x0D => t.m
  | .vector, 0x0E => if t.aux.getLsbD 2 then t.n else 1
  | _, _ => t.n

/-- Whether a command's format fields name codes themselves where its op does not take them from a format register: the
matrix ops take only fa and fb of MMA and MMAR from one (R251). -/
def rawFormats (t : TileWords) (sp : OpSpec) : Bool :=
  sp.engine != .matrix || (bitsOf t.w5 8 4 != 15 && (decide (sp.op.toNat < 2) || bitsOf t.w5 0 4 != 15))

/-- Whether a word of a command keeps the rules. In a thunk record's image (R209), operands that the op reads are in
mode 10, c is NONE where the op only writes it, and a vector op's destination spans one tile (R274). -/
def wordOk (t : TileWords) (sp : OpSpec) (image : Bool) (f : BitVec 4 × BitVec 4 × BitVec 4) (ringlen i : Nat) : Bool :=
  let (fa, fb, fc) := f
  let record := sp.record && t.smode == 1
  let image2 := fun (r : RefRule) (w : W32) => if r = .none then isNone w else refMode w == 2
  let fmtOk := fun (w : W32) (raw code : BitVec 4) (codes : List Nat) =>
    if isNone w then raw == 0 else codes.contains code.toNat
  (jointWord t sp fa fc ringlen != some i) &&
  match i with
  | 0 => bitsOf t.w0 0 8 == 0 && !(t.flag 12) && (bitsOf t.w0 8 4 &&& ~~~(sp.opflags ||| (if record then 8 else 0))) == 0
  | 1 => refOk t.w1 && if image then image2 sp.a t.w1 else refAccepted sp.a t.w1
  | 2 => refOk t.w2 && if image then image2 sp.b t.w2 else refAccepted sp.b t.w2
  | 3 => refOk t.w3 && if image then (if readsC t sp then refMode t.w3 == 2 else isNone t.w3) else refAccepted sp.c t.w3
  | 4 => (t.smode == 0 || (record && !image)) &&
      within (if record then (1, 128) else sp.m) t.m && within sp.n t.n && within sp.k t.k
  | 5 => bitsOf t.w5 24 8 == 0 && rawFormats t sp && sp.smd.contains t.smd && sp.aux t.aux &&
      fmtOk t.w1 (bitsOf t.w5 0 4) fa sp.fa && fmtOk t.w2 (bitsOf t.w5 4 4) fb sp.fb &&
      (if image then sp.fc.contains fc.toNat else fmtOk t.w3 (bitsOf t.w5 8 4) fc sp.fc) &&
      (!(image && sp.engine == .vector) || decide (destRow t sp * fmtBytes fc ≤ 64))
  | 6 => if image then t.w6 == 0
      else if record then refOk t.w6 && decide (refMode t.w6 < 3) else t.w6.getLsbD 31 || t.w6 == 0
  | _ => if image then t.w7 == 0
      else (t.w7.getLsbD 31 || bitsOf t.w7 26 5 == 0) && (t.w7.getLsbD 25 || bitsOf t.w7 0 25 == 0)

/-- The lowest-numbered failing word (R54). -/
def badWord (t : TileWords) (sp : OpSpec) (image : Bool) (f : BitVec 4 × BitVec 4 × BitVec 4) (ringlen : Nat) :
    Option Nat :=
  (List.range 8).find? (fun i => !(wordOk t sp image f ringlen i))

/-- TVAL of an ILLEGAL tile command or image (R54). -/
def badTval (t : TileWords) (i : Nat) : Word := (BitVec.ofNat 3 i ++ t.word i).setWidth 64

/-- The value of word i where it is a reference in mode 10, captured from its register (R49). -/
def capture (s : State) (t : TileWords) (i : Nat) (used : Bool) : Eff Word :=
  if used && refMode (t.word i) == 2 then readG s (refReg (t.word i)) else .ok 0 s

/-- A command goes to the end of its queue (R49). -/
def pushCmd (s : State) (core : Nat) (c : TileCmd) : State :=
  s.modCore core (fun k =>
    if c.words.w0.getLsbD 13 then { k with qp := k.qp ++ [c] } else { k with qn := k.qn ++ [c] })

/-- Whether a queue has a free entry (R49). -/
def queueRoom (s : State) (core : Nat) (t : TileWords) : Bool :=
  let k := s.core core
  decide ((if t.w0.getLsbD 13 then k.qp else k.qn).length < Config.tileQueue)

/-- A copy command joins the slot's open batch (R287). -/
def join (sl : Slot) : Slot := { sl with batchPending := sl.batchPending + 1 }

/-- IssueTile (R49): the static check, the wait for room and for stream elements, the captured values (R235, R251,
R265), the slot's open batch (R287). -/
def issueTile (s : State) (t : TileWords) (sp : OpSpec) : Eff Unit :=
  let f := formats t s.me.fmta s.me.fmtb s.me.fmtc
  match badWord t sp false f (ringLen s s.myCore) with
  | some i => .trap .illegal (badTval t i)
  | none =>
    if queueRoom s s.myCore t then
      let at_ := s.me.pc
      (capture s t 1 true).andThen fun v1 s =>
      (capture s t 2 true).andThen fun v2 s =>
      (capture s t 3 true).andThen fun v3 s =>
      (capture s t 6 (t.smode == 1)).andThen fun v6 s =>
      let sl := s.me
      let copy := sp.engine == .copy
      let c : TileCmd :=
        ⟨t, v1, v2, v3, v6, f.1, f.2.1, f.2.2, s.cur, sl.region, sl.ctx, at_, (s.core s.myCore).sbNext,
          if copy then some sl.batchId else none, sl.scla, sl.sclb, sl.sclc, sl.round, none, sl.gen, none⟩
      let s := pushCmd s s.myCore c
      let s := if copy then s.modMe join else s
      .ok () (s.retire 32)
    else stall .poll

/-- Source codes of the vector ops (R266). -/
def fmtS : List Nat := [0, 1, 2, 3, 6]

/-- Destination codes of the vector ops (R266). -/
def fmtD : List Nat := [0, 1, 2, 6]

/-- Every format code (R46). -/
def fmtAll : List Nat := [0, 1, 2, 3, 4, 5, 6]

/-- Aux that must be 0 (R46). -/
def auxZero (x : BitVec 8) : Bool := x == 0

/-- MMA and MMAR (R251); the hop count is joined with b and RINGLEN. -/
def mmaSpec (op : BitVec 8) : OpSpec :=
  ⟨.matrix, op, 0, .mems, .memsOrRing, .acc, [1, 2, 3, 4], [1, 2, 3, 4], [0], (1, 32), (1, 32), (1, 64), [0, 1, 2], true,
    fun _ => true⟩

/-- ROT (R251). -/
def rotSpec : OpSpec :=
  ⟨.matrix, 2, 0, .memsOrAcc, .none, .memsOrAcc, fmtD, [0], fmtD, (1, 32), (1, 32), (0, 0), [0], false, fun _ => true⟩

/-- ZACC (R251). -/
def zaccSpec : OpSpec :=
  ⟨.matrix, 3, 0, .none, .none, .none, [0], [0], [0], (0, 0), (0, 0), (0, 0), [0], false,
    fun x => x != 0 && x.extractLsb' 4 4 == 0⟩

/-- The vector ops (R267). -/
def vectorSpec (op : BitVec 8) : OpSpec :=
  let base : OpSpec :=
    ⟨.vector, op, 0, .mems, .none, .mems, fmtS, [0], fmtD, (1, 32), (1, 64), (0, 0), [0], false, auxZero⟩
  match op.toNat with
  | 0 | 1 | 2 | 3 | 4 | 5 => { base with b := .mems, fb := fmtS }
  | 0x0B => { base with b := .mems, fb := fmtS, fc := [4], aux := fun x => x.extractLsb' 2 6 == 0 }
  | 0x0C => { base with b := .mems, fb := [4] }
  | 0x0D => { base with fa := fmtAll, fc := fmtAll, n := (1, 32) }
  | 0x0E => { base with aux := fun x => x.extractLsb' 3 5 == 0 && x.extractLsb' 0 2 != 3 }
  | 0x0F => { base with aux := fun x => x.extractLsb' 1 7 == 0 }
  | 0x10 => { base with a := .memsOrZero }
  | 0x11 => { base with b := .mems, fb := [0], opflags := 3, aux := fun x => x.extractLsb' 5 3 == 0 }
  | _ => base

/-- The conversion ops (R237). -/
def convertSpec (op : BitVec 8) : OpSpec :=
  let base : OpSpec :=
    ⟨.convert, op, 0, .mems, .none, .mems, fmtAll, [0], fmtAll, (1, 32), (1, 64), (0, 0), [0], false, auxZero⟩
  match op.toNat with
  | 0 => { base with c := .none, fa := [6], fc := [0], m := (0, 0), n := (0, 0) }
  | 1 => { base with opflags := 2 }
  | 2 => { base with opflags := 3, fa := fmtD, fc := [3, 4], smd := [1, 2] }
  | 3 => { base with fa := [3, 4], fc := fmtD, smd := [1, 2] }
  | 4 => { base with opflags := 1, fc := [0], smd := [1, 2] }
  | _ => { base with fa := [0], fc := [0], smd := [1, 2], aux := fun x => x == 3 || x == 4 }

/-- The copy ops (R283). -/
def copySpec (op : BitVec 8) : OpSpec :=
  let base : OpSpec :=
    ⟨.copy, op, 0, .mems, .noneOrReg, .mems, [0], [0], [0], (1, 1023), (1, 1023), (0, 0), [0], false, auxZero⟩
  match op.toNat with
  | 0 => base
  | 1 => { base with a := .reg, b := .mems, fb := [5] }
  | _ => { base with b := .mems, c := .reg, fb := [5] }

/-- COLL (R326). -/
def collSpec : OpSpec :=
  ⟨.collective, 0, 0, .mems, .reg, .mems, [0, 1, 2], [0], [0, 1, 2], (1, 32), (1, 64), (0, 0), [0], false,
    fun x => x.extractLsb' 2 6 == 0 && x.extractLsb' 0 2 != 3⟩

/-- MMA (R253) is issued to its queue (R49); its engine executes it. -/
def execMma (t : TileWords) (s : State) : Host.Outcome State Fault Refusal := conclude s (issueTile s t (mmaSpec 0))

/-- MMAR (R253) is issued to its queue (R49); its engine executes it. -/
def execMmar (t : TileWords) (s : State) : Host.Outcome State Fault Refusal := conclude s (issueTile s t (mmaSpec 1))

/-- ROT (R256) is issued to its queue (R49); its engine executes it. -/
def execRot (t : TileWords) (s : State) : Host.Outcome State Fault Refusal := conclude s (issueTile s t rotSpec)

/-- ZACC (R257) is issued to its queue (R49); its engine executes it. -/
def execZacc (t : TileWords) (s : State) : Host.Outcome State Fault Refusal := conclude s (issueTile s t zaccSpec)

/-- TADD (R268) is issued to its queue (R49); its engine executes it. -/
def execTadd (t : TileWords) (s : State) : Host.Outcome State Fault Refusal := conclude s (issueTile s t (vectorSpec 0))

/-- TSUB (R268) is issued to its queue (R49); its engine executes it. -/
def execTsub (t : TileWords) (s : State) : Host.Outcome State Fault Refusal := conclude s (issueTile s t (vectorSpec 1))

/-- TMUL (R268) is issued to its queue (R49); its engine executes it. -/
def execTmul (t : TileWords) (s : State) : Host.Outcome State Fault Refusal := conclude s (issueTile s t (vectorSpec 2))

/-- TFMA (R268) is issued to its queue (R49); its engine executes it. -/
def execTfma (t : TileWords) (s : State) : Host.Outcome State Fault Refusal := conclude s (issueTile s t (vectorSpec 3))

/-- TMAX (R268) is issued to its queue (R49); its engine executes it. -/
def execTmax (t : TileWords) (s : State) : Host.Outcome State Fault Refusal := conclude s (issueTile s t (vectorSpec 4))

/-- TMIN (R268) is issued to its queue (R49); its engine executes it. -/
def execTmin (t : TileWords) (s : State) : Host.Outcome State Fault Refusal := conclude s (issueTile s t (vectorSpec 5))

/-- TEXP (R269) is issued to its queue (R49); its engine executes it. -/
def execTexp (t : TileWords) (s : State) : Host.Outcome State Fault Refusal := conclude s (issueTile s t (vectorSpec 6))

/-- TRCP (R269) is issued to its queue (R49); its engine executes it. -/
def execTrcp (t : TileWords) (s : State) : Host.Outcome State Fault Refusal := conclude s (issueTile s t (vectorSpec 7))

/-- TRSQ (R269) is issued to its queue (R49); its engine executes it. -/
def execTrsq (t : TileWords) (s : State) : Host.Outcome State Fault Refusal := conclude s (issueTile s t (vectorSpec 8))

/-- TSILU (R269) is issued to its queue (R49); its engine executes it. -/
def execTsilu (t : TileWords) (s : State) : Host.Outcome State Fault Refusal := conclude s (issueTile s t (vectorSpec 9))

/-- TGELU (R269) is issued to its queue (R49); its engine executes it. -/
def execTgelu (t : TileWords) (s : State) : Host.Outcome State Fault Refusal := conclude s (issueTile s t (vectorSpec 10))

/-- TCMP (R270) is issued to its queue (R49); its engine executes it. -/
def execTcmp (t : TileWords) (s : State) : Host.Outcome State Fault Refusal := conclude s (issueTile s t (vectorSpec 11))

/-- TSEL (R270) is issued to its queue (R49); its engine executes it. -/
def execTsel (t : TileWords) (s : State) : Host.Outcome State Fault Refusal := conclude s (issueTile s t (vectorSpec 12))

/-- TTRN (R271) is issued to its queue (R49); its engine executes it. -/
def execTtrn (t : TileWords) (s : State) : Host.Outcome State Fault Refusal := conclude s (issueTile s t (vectorSpec 13))

/-- TRED (R272) is issued to its queue (R49); its engine executes it. -/
def execTred (t : TileWords) (s : State) : Host.Outcome State Fault Refusal := conclude s (issueTile s t (vectorSpec 14))

/-- TBCAST (R271) is issued to its queue (R49); its engine executes it. -/
def execTbcast (t : TileWords) (s : State) : Host.Outcome State Fault Refusal := conclude s (issueTile s t (vectorSpec 15))

/-- TFILL (R271) is issued to its queue (R49); its engine executes it. -/
def execTfill (t : TileWords) (s : State) : Host.Outcome State Fault Refusal := conclude s (issueTile s t (vectorSpec 16))

/-- COMBINE (R273) is issued to its queue (R49); its engine executes it. -/
def execCombine (t : TileWords) (s : State) : Host.Outcome State Fault Refusal := conclude s (issueTile s t (vectorSpec 17))

/-- LDTAB (R238) is issued to its queue (R49); its engine executes it. -/
def execLdtab (t : TileWords) (s : State) : Host.Outcome State Fault Refusal := conclude s (issueTile s t (convertSpec 0))

/-- CVT (R240) is issued to its queue (R49); its engine executes it. -/
def execCvt (t : TileWords) (s : State) : Host.Outcome State Fault Refusal := conclude s (issueTile s t (convertSpec 1))

/-- QNT (R243) is issued to its queue (R49); its engine executes it. -/
def execQnt (t : TileWords) (s : State) : Host.Outcome State Fault Refusal := conclude s (issueTile s t (convertSpec 2))

/-- DQT (R244) is issued to its queue (R49); its engine executes it. -/
def execDqt (t : TileWords) (s : State) : Host.Outcome State Fault Refusal := conclude s (issueTile s t (convertSpec 3))

/-- AMAX (R241) is issued to its queue (R49); its engine executes it. -/
def execAmax (t : TileWords) (s : State) : Host.Outcome State Fault Refusal := conclude s (issueTile s t (convertSpec 4))

/-- SCL (R242) is issued to its queue (R49); its engine executes it. -/
def execScl (t : TileWords) (s : State) : Host.Outcome State Fault Refusal := conclude s (issueTile s t (convertSpec 5))

/-- COPY (R284) is issued to its queue (R49); its engine executes it. -/
def execCopy (t : TileWords) (s : State) : Host.Outcome State Fault Refusal := conclude s (issueTile s t (copySpec 0))

/-- GATHER (R284) is issued to its queue (R49); its engine executes it. -/
def execGather (t : TileWords) (s : State) : Host.Outcome State Fault Refusal := conclude s (issueTile s t (copySpec 1))

/-- SCATTER (R284) is issued to its queue (R49); its engine executes it. -/
def execScatter (t : TileWords) (s : State) : Host.Outcome State Fault Refusal := conclude s (issueTile s t (copySpec 2))

/-- COLL (R326) is issued to its queue (R49); its engine executes it. -/
def execColl (t : TileWords) (s : State) : Host.Outcome State Fault Refusal := conclude s (issueTile s t collSpec)

end Sys2Proof.Machine
end

