-- ==== Sys2Proof/Machine/Formats.lean ====
section
/-! DEFINITION. The formats of tile commands (R226 to R229), reading, rounding and encoding (R231 to R233), scale codes
(R242), and the functions of R269 by intervals narrow enough to decide their one rounding. -/

namespace Sys2Proof.Machine

/-- FLAGS bits (R234). -/
def flagSat : BitVec 3 := 1

/-- See flagSat. -/
def flagScluf : BitVec 3 := 2

/-- See flagSat. -/
def flagNans : BitVec 3 := 4

/-- Entry c of the E4M3 image (R230). -/
def e4m3 (c : Nat) : W32 :=
  let neg := decide (128 ≤ c)
  let e := c / 8 % 16
  let m := c % 8
  if e = 15 ∧ m = 7 then BitVec.ofNat 32 (packNan fp32 neg)
  else round32 (if e = 0 then .fin neg m (-9) else .fin neg (8 + m) ((e : Int) - 10)) false

/-- A core's decode table (R225). -/
def tableOf (k : Core) : List W32 := k.table.getD ((List.range 256).map e4m3)

/-- The value of an E8M10 container: bits 12:0 are ignored (R227). -/
def numE8 (w : W32) : Num := unpack e8m10 (w.toNat / 2 ^ 13)

/-- Value of an element's bytes (R231). -/
def elemValue (tab : List W32) (f : BitVec 4) (bs : List Byte) : Num :=
  let n := natOfBytes bs
  match f.toNat with
  | 0 => unpack fp32 n
  | 1 => unpack fp16 n
  | 2 => unpack bf16 n
  | 3 => numE8 (tab.getD n 0)
  | 4 => numOfInt (BitVec.ofNat 8 n).toInt
  | 5 => numOfInt (BitVec.ofNat 32 n).toInt
  | _ => numE8 (BitVec.ofNat 32 n)

/-- A floating format of a code. -/
def floatFmt (f : BitVec 4) : Fmt :=
  match f.toNat with
  | 1 => fp16
  | 2 => bf16
  | 6 => e8m10
  | _ => fp32

/-- Round into a floating format (R232): the bits and the FLAGS set. -/
def roundFloat (f : Fmt) (satf : Bool) (x : Num) (sticky : Bool) : Nat × BitVec 3 :=
  match x with
  | .nan _ => (packNan f false, 0)
  | .inf neg => (packInf f neg, 0)
  | .fin neg m e =>
    let r := roundTo f m e sticky
    if tooBig f r then (if satf then (packMax f neg, flagSat) else (packInf f neg, 0)) else (packFin f neg r, 0)

/-- Round into an integer format of a width (R232). -/
def roundSigned (n : Nat) (x : Num) : Nat × BitVec 3 :=
  match roundInt x with
  | none => (0, flagSat)
  | some i =>
    let lo : Int := -(2 ^ (n - 1))
    let hi : Int := 2 ^ (n - 1) - 1
    let v := clampInt lo hi i
    ((BitVec.ofInt n v).toNat, if v = i then 0 else flagSat)

/-- Round into a format other than CODE8 (R232): the element's bytes and the FLAGS set. -/
def roundElem (f : BitVec 4) (satf : Bool) (x : Num) (sticky : Bool) : List Byte × BitVec 3 :=
  let r := match f.toNat with
    | 4 => roundSigned 8 x
    | 5 => roundSigned 32 x
    | 6 => let (b, fl) := roundFloat e8m10 satf x sticky; (b * 2 ^ 13, fl)
    | _ => roundFloat (floatFmt f) satf x sticky
  (bytesOfNat (fmtBytes f) r.1, r.2)

/-- FP32 by R232. -/
def roundF32 (satf : Bool) (x : Num) : W32 × BitVec 3 :=
  let (b, fl) := roundFloat fp32 satf x false
  (BitVec.ofNat 32 b, fl)

/-- Whether a value is zero. -/
def isZero : Num → Bool
  | .fin _ 0 _ => true
  | _ => false

/-- The magnitude of a value. -/
def absNum : Num → Num
  | .nan s => .nan s
  | .inf _ => .inf false
  | .fin _ m e => .fin false m e

/-- The greater of two values by the rule of TMAX (R268). -/
def maxNum (x y : Num) : Num :=
  if isNan x then (if isNan y then .nan false else y)
  else if isNan y then x
  else if ltNum x y || (isZero x && isZero y && signOf x && !signOf y) then y else x

/-- The lesser of two values by the rule of TMIN (R268). -/
def minNum (x y : Num) : Num :=
  if isNan x then (if isNan y then .nan false else y)
  else if isNan y then x
  else if ltNum y x || (isZero x && isZero y && !signOf x && signOf y) then y else x

/-- The exact sum of some values (R252, R272): +0 of none. -/
def exactSum : List Num → Num
  | [] => .fin false 0 0
  | x :: xs => xs.foldl addNum x

/-- The NaN code of a sign (R233, step 6). -/
def nanCode (tab : List W32) (s : Bool) : Option Nat :=
  let nans := (List.range 256).filter (fun c => isNan (numE8 (tab.getD c 0)))
  (nans.find? (fun c => signOf (numE8 (tab.getD c 0)) == s)).or nans.head?

/-- Whether a value is finite. -/
def isFin : Num → Bool
  | .fin _ _ _ => true
  | _ => false

/-- The finite entries of a table, with their codes (R233, step 3). -/
def finEntries (tab : List W32) : List (Nat × Num) :=
  ((List.range 256).map (fun c => (c, numE8 (tab.getD c 0)))).filter (fun e => isFin e.2)

/-- The greatest entry of some by value, the lowest code of it. -/
def greatest : List (Nat × Num) → Option (Nat × Num)
  | [] => none
  | e :: es => some (es.foldl (fun m x => if ltNum m.2 x.2 then x else m) e)

/-- The least entry of some by value, the lowest code of it. -/
def least : List (Nat × Num) → Option (Nat × Num)
  | [] => none
  | e :: es => some (es.foldl (fun m x => if ltNum x.2 m.2 then x else m) e)

/-- The code of a chosen entry: of the two zeros, that of x's sign (R233, step 4), the lowest of several (log entry 130). -/
def codeFor (fs : List (Nat × Num)) (e : Nat × Num) (neg : Bool) : Nat :=
  if isZero e.2 then ((fs.find? (fun z => isZero z.2 && signOf z.2 == neg)).getD e).1 else e.1

/-- Encode (R233): the code and the FLAGS set. The edge that a zero out of range takes is by its sign, and of two entries at the
same distance from 0 that no rule of step 4 tells apart it takes the lower (log entries 128 and 129). -/
def encodeNum (tab : List W32) (nanc : Bool) (x : Num) : Nat × BitVec 3 :=
  let fs := finEntries tab
  let beyond := fun (neg nanc : Bool) (fl : BitVec 3) =>
    let edge := (((if neg then least fs else greatest fs).map Prod.fst).getD 0)
    if nanc then
      match nanCode tab neg with
      | some c => (c, fl ||| flagSat)
      | none => (edge, fl ||| flagSat ||| flagNans)
    else (edge, fl ||| flagSat)
  match x with
  | .nan s =>
    match nanCode tab s with
    | some c => (c, 0)
    | none => beyond s false flagNans
  | .inf s =>
    match (List.range 256).find? (fun c => numE8 (tab.getD c 0) == .inf s) with
    | some c => (c, 0)
    | none => beyond s nanc 0
  | .fin neg _ _ =>
    match greatest (fs.filter (fun e => !(ltNum x e.2))), least (fs.filter (fun e => !(ltNum e.2 x))) with
    | some lo, some hi =>
      let dl := addNum x (negNum lo.2)
      let dh := addNum hi.2 (negNum x)
      let bit := fun (e : Nat × Num) => (tab.getD e.1 0).getLsbD 13
      let pick :=
        if ltNum dl dh then lo
        else if ltNum dh dl then hi
        else if bit lo != bit hi then (if bit lo then hi else lo)
        else if ltNum (absNum hi.2) (absNum lo.2) then hi else lo
      (codeFor fs pick neg, 0)
    | _, _ => beyond neg nanc 0

/-- ScaleCode (R242): the code and the FLAGS set. Below 0 every power of two is great enough, so that the code is the least. -/
def scaleCode (m v : Num) : Nat × BitVec 3 :=
  match m, v with
  | .inf true, _ => (1, flagScluf)
  | .fin neg mm me, .fin _ vm ve =>
    if mm = 0 then (0, 0)
    else if neg then (1, flagScluf)
    else
      let d0 : Int := (Nat.log2 mm : Int) - (Nat.log2 vm : Int)
      let d := if atExp false mm 0 (min 0 d0) ≤ atExp false vm d0 (min 0 d0) then d0 else d0 + 1
      let c := d + me - ve + 127
      if c < 1 then (1, flagScluf) else if 254 < c then (254, flagSat) else (c.toNat, 0)
  | _, _ => (255, flagNans)

/-- V of R242 for a target format: none where a table has no finite positive entry. -/
def scaleV (tab : List W32) (f : BitVec 4) : Option Num :=
  if f = 4 then some (numOfInt 127)
  else
    match greatest ((finEntries tab).filter (fun e => ltNum (.fin false 0 0) e.2)) with
    | some e => some e.2
    | none => none

/-- A value times a power of two. -/
def scaleNum (x : Num) (k : Int) : Num :=
  match x with
  | .fin s m e => .fin s m (e + k)
  | x => x

/-- The quotient of two values, truncated far below every format's last place, and whether something is left
over (R269, R273). -/
def quotNum (x y : Num) : Num × Bool :=
  match x, y with
  | .nan _, _ | _, .nan _ => (.nan false, false)
  | .inf _, .inf _ => (.nan false, false)
  | .inf a, .fin b _ _ => (.inf (a != b), false)
  | .fin a _ _, .inf b => (.fin (a != b) 0 0, false)
  | .fin a m e, .fin b n d =>
    if n = 0 then (if m = 0 then (.nan false, false) else (.inf (a != b), false))
    else
      let p := 512 + Nat.log2 n
      (.fin (a != b) (m * 2 ^ p / n) (e - d - p), decide (m * 2 ^ p % n ≠ 0))

/-- The integer square root, bit by bit. -/
def isqrtFrom (n r : Nat) : Nat → Nat
  | 0 => r
  | i + 1 => if (r + 2 ^ i) * (r + 2 ^ i) ≤ n then isqrtFrom n (r + 2 ^ i) i else isqrtFrom n r i

/-- See isqrtFrom. -/
def isqrt (n : Nat) : Nat := isqrtFrom n 0 (Nat.log2 n / 2 + 1)

/-- a × 2^e rounded down. -/
def shiftFloor (a : Nat) (e : Int) : Nat := if 0 ≤ e then a * 2 ^ e.toNat else a / 2 ^ (-e).toNat

/-- Division rounded up. -/
def divCeil (a b : Nat) : Nat := (a + b - 1) / b

/-- Bounds of a real number at a scale of 2^p. -/
structure Bounds where
  lo : Nat
  hi : Nat
  deriving DecidableEq, Repr

/-- The sum of t^i / i! up to a number of terms, as bounds; i counts the terms done, term the last (R269). -/
def expTaylor (p tl th : Nat) (i : Nat) (term sum : Bounds) : Nat → Bounds
  | 0 => ⟨sum.lo, sum.hi + term.hi + 1⟩
  | fuel + 1 =>
    let term : Bounds := ⟨term.lo * tl / 2 ^ p / (i + 1), divCeil (divCeil (term.hi * th) (2 ^ p)) (i + 1)⟩
    expTaylor p tl th (i + 1) term ⟨sum.lo + term.lo, sum.hi + term.hi⟩ fuel

/-- Bounds squared a number of times. -/
def squareBounds (p : Nat) (b : Bounds) : Nat → Bounds
  | 0 => b
  | n + 1 => squareBounds p ⟨b.lo * b.lo / 2 ^ p, divCeil (b.hi * b.hi) (2 ^ p)⟩ n

/-- Bounds of e^y for y = m × 2^e from 0 to below 128. -/
def expBounds (p m : Nat) (e : Int) : Bounds :=
  let t := shiftFloor m (e + p - 16)
  let one : Bounds := ⟨2 ^ p, 2 ^ p⟩
  squareBounds p (expTaylor p t (t + 1) 0 one one (p / 9 + 4)) 16

/-- atan(1 / q) at a scale of 2^p, within a unit for each term, from alternating terms. -/
def atanTerms (q : Nat) (pow k acc : Nat) : Nat → Nat
  | 0 => acc
  | fuel + 1 =>
    let term := pow / (2 * k + 1)
    atanTerms q (pow / (q * q)) (k + 1) (if k % 2 = 0 then acc + term else acc - term) fuel

/-- Bounds of 2π, by Machin's formula. -/
def twoPi (p : Nat) : Bounds :=
  let a := atanTerms 5 (2 ^ p / 5) 0 0 (p / 4 + 4)
  let b := atanTerms 239 (2 ^ p / 239) 0 0 (p / 4 + 4)
  let v := 32 * a - 8 * b
  ⟨v - 100 * (p + 8), v + 100 * (p + 8)⟩

/-- The sum of x^(2n+1) / (2n+1)!! from x² at a scale of 2^p, as bounds (R269). -/
def oddSeries (p : Nat) (sq : Bounds) (n : Nat) (term sum : Bounds) : Nat → Bounds
  | 0 => ⟨sum.lo, sum.hi + term.hi + 1⟩
  | fuel + 1 =>
    let term : Bounds := ⟨term.lo * sq.lo / 2 ^ p / (2 * n + 3), divCeil (divCeil (term.hi * sq.hi) (2 ^ p)) (2 * n + 3)⟩
    oddSeries p sq (n + 1) term ⟨sum.lo + term.lo, sum.hi + term.hi⟩ fuel

/-- Bounds of the normal distribution's integral from 0 to y, for y = m × 2^e below 16. -/
def normalBounds (p m : Nat) (e : Int) : Bounds :=
  let y := shiftFloor m (e + p)
  let sq : Bounds := ⟨shiftFloor (m * m) (2 * e + p), shiftFloor (m * m) (2 * e + p) + 1⟩
  let s := oddSeries p sq 0 ⟨y, y + 1⟩ ⟨y, y + 1⟩ (p + 400)
  let ex := expBounds p (m * m) (2 * e - 1)
  let pi := twoPi p
  let d : Bounds := ⟨isqrt (pi.lo * 2 ^ p), isqrt (pi.hi * 2 ^ p) + 1⟩
  ⟨s.lo * 2 ^ (2 * p) / (ex.hi * d.hi), divCeil (s.hi * 2 ^ (2 * p)) (ex.lo * d.lo)⟩

/-- The first precision whose bounds round to one value: the lower bound stands for the number, with something left
over. -/
def decideBounds (f : Fmt) (neg : Bool) (g : Nat → Bounds) : List Nat → Num × Bool
  | [] => (.nan false, false)
  | [p] => (.fin neg (g p).lo (-(p : Int)), true)
  | p :: ps =>
    let b := g p
    if roundTo f b.lo (-(p : Int)) true = roundTo f b.hi (-(p : Int)) false then (.fin neg b.lo (-(p : Int)), true)
    else decideBounds f neg g ps

/-- The precisions tried. -/
def precisions : List Nat := [256, 512, 1024, 2048]

/-- Whether |m × 2^e| is below 2^k. -/
def magBelow (m : Nat) (e k : Int) : Bool := decide (m = 0) || decide ((Nat.log2 m : Int) + 1 + e ≤ k)

/-- A value a hair above or below m × 2^e: no rounding boundary lies between. -/
def hair (neg : Bool) (m : Nat) (e : Int) (above : Bool) : Num × Bool :=
  if above then (.fin neg (m * 2 ^ 90) (e - 90), true) else (.fin neg (m * 2 ^ 90 - 1) (e - 90), true)

/-- A value too small for every format, above zero in magnitude. -/
def tiny (neg : Bool) : Num × Bool := (.fin neg 1 (-400), true)

/-- e^x (R269). -/
def texpNum (f : Fmt) (x : Num) : Num × Bool :=
  match x with
  | .nan _ => (.nan false, false)
  | .inf neg => (if neg then .fin false 0 0 else .inf false, false)
  | .fin neg m e =>
    if m = 0 then (.fin false 1 0, false)
    else if magBelow m e (-60) then hair false 1 0 (!neg)
    else if !(magBelow m e 7) then (if neg then tiny false else (.fin false 1 400, true))
    else decideBounds f false (fun p =>
      let b := expBounds p m e
      if neg then ⟨2 ^ (2 * p) / b.hi, divCeil (2 ^ (2 * p)) b.lo⟩ else b) precisions

/-- 1 / x (R269). -/
def trcpNum (x : Num) : Num × Bool :=
  match x with
  | .fin neg 0 _ => (.inf neg, false)
  | x => quotNum (.fin false 1 0) x

/-- 1 / √x (R269). -/
def trsqNum (x : Num) : Num × Bool :=
  match x with
  | .nan _ => (.nan false, false)
  | .inf neg => (if neg then .nan false else .fin false 0 0, false)
  | .fin neg m e =>
    if m = 0 then (.inf neg, false)
    else if neg then (.nan false, false)
    else
      let n := 2 ^ (1024 - e).toNat
      let r := isqrt (n / m)
      (.fin false r (-512), decide (r * r * m ≠ n))

/-- x / (1 + e^−x) (R269). -/
def tsiluNum (f : Fmt) (x : Num) : Num × Bool :=
  match x with
  | .nan _ => (.nan false, false)
  | .inf neg => (if neg then .fin true 0 0 else .inf false, false)
  | .fin neg m e =>
    if m = 0 then (.fin neg 0 0, false)
    else if magBelow m e (-60) then hair neg m (e - 1) (!neg)
    else if !(magBelow m e 7) then (if neg then tiny true else hair false m e false)
    else decideBounds f neg (fun p =>
      let b := expBounds p m e
      let y := shiftFloor (m * 2 ^ p) e
      if neg then ⟨y * 2 ^ p / (b.hi + 2 ^ p), divCeil ((y + 1) * 2 ^ p) (b.lo + 2 ^ p)⟩
      else ⟨y * b.lo / (b.lo + 2 ^ p), divCeil ((y + 1) * b.hi) (b.hi + 2 ^ p)⟩) precisions

/-- (x / 2) × (1 + erf(x / √2)) (R269). -/
def tgeluNum (f : Fmt) (x : Num) : Num × Bool :=
  match x with
  | .nan _ => (.nan false, false)
  | .inf neg => (if neg then .fin true 0 0 else .inf false, false)
  | .fin neg m e =>
    if m = 0 then (.fin neg 0 0, false)
    else if magBelow m e (-60) then hair neg m (e - 1) (!neg)
    else if !(magBelow m e 4) then (if neg then tiny true else hair false m e false)
    else decideBounds f neg (fun p =>
      let g := normalBounds p m e
      let half := 2 ^ (p - 1)
      let c : Bounds := if neg then ⟨half - g.hi, half - g.lo⟩ else ⟨half + g.lo, half + g.hi⟩
      let y := shiftFloor (m * 2 ^ p) e
      ⟨y * c.lo / 2 ^ p, divCeil ((y + 1) * c.hi) (2 ^ p)⟩) precisions

end Sys2Proof.Machine
end

