-- ==== Sys2Proof/Machine/EngineMem.lean ====
section
/-! DEFINITION. The memory accesses of tile engines: operand addresses (R42), the layout of R237, reads and writes by a
command (R111, R134, R153), faults (R53) and the clearing of poison (R372). -/

namespace Sys2Proof.Machine

/-- What a part of a command comes to: a value; a fault with its address and the count of free values drawn so far (log
entry 2), nothing else of the part taking effect; or a wait for older stores (R153). -/
inductive Work (α : Type) where
  | ok (a : α) (s : State)
  | fault (c : Cause) (a : Word) (drawn : Nat)
  | blocked

/-- One part after another. -/
def Work.andThen {α β : Type} (e : Work α) (k : α → State → Work β) : Work β :=
  match e with
  | .ok a s => k a s
  | .fault c a n => .fault c a n
  | .blocked => .blocked

/-- A fault found in a state. -/
def Work.fails {α : Type} (s : State) (c : Cause) (a : Word) : Work α := .fault c a s.freeCtr

/-- Who a command's accesses are made for (R117, R282). -/
def TileCmd.who (c : TileCmd) : Who := ⟨coreOf c.slot, c.slot, c.region⟩

/-- The address of operand i of a command (R42). -/
def opAddr (c : TileCmd) (i : Nat) : Word :=
  let w := c.words.word i
  match refMode w with
  | 0 => 0xFFFF#16 ++ (bitsOf w 0 18).setWidth 48
  | 1 => 0xFFFF#16 ++ 1#16 ++ (bitsOf w 0 22).setWidth 32
  | _ =>
    match i with
    | 1 => c.v1
    | 2 => c.v2
    | 3 => c.v3
    | _ => c.v6

/-- The pieces of a byte range that lie in one line each. -/
def linePieces (a : Word) (n : Nat) : Nat → List (Word × Nat)
  | 0 => []
  | fuel + 1 =>
    let room := 128 - a.toNat % 128
    if n = 0 then []
    else if n ≤ room then [(a, n)]
    else (a, room) :: linePieces (a + BitVec.ofNat 64 room) (n - room) fuel

/-- The pieces of a range. -/
def piecesOf (a : Word) (n : Nat) : List (Word × Nat) := linePieces a n (n / 128 + 2)

/-- The checked location of a piece; blocked while the issuing core's buffer holds an entry of the line that it held at
issue (R153). -/
def engLoc (s : State) (c : TileCmd) (a : Word) (n : Nat) (need : Need) : Work Loc :=
  match accessLoc s c.who a n need with
  | .error e => .fails (afterWalk s c.who a) e a
  | .ok (loc, s) =>
    if (s.core (coreOf c.slot)).sbuf.any (fun e => decide (e.id < c.mark) && sameLine loc e.loc) then .blocked
    else .ok loc s

/-- The fault, if any, that another device finds for an access of an engine (R53, R370): a free value says which, and only
a read meets POISON (log entry 86). -/
def remoteCause (v : Word) (read : Bool) : Option Cause :=
  match (v.extractLsb' 0 3).toNat with
  | 0 => some .xlate
  | 1 => some .prot
  | 2 => if read then some .poison else none
  | 3 => some .fatalhw
  | _ => none

/-- An access of another device, as far as it finds no fault there. -/
def remotePart (s : State) (a : Word) (read : Bool) : Work Unit :=
  let (v, s) := s.draw
  match remoteCause v read with
  | some c => .fails s c a
  | none => .ok () s

/-- A read of one piece: a bank, a home, or another device, whose memory this model does not hold (R20). -/
def engReadPiece (s : State) (c : TileCmd) (a : Word) (n : Nat) : Work (List Byte) :=
  (engLoc s c a n .load).andThen fun loc s =>
  match loc with
  | .bank k => .ok (readBytes s.mem k n) s
  | .home p h =>
    let s := touchLine s (p / 128) h
    if (s.line (p / 128)).poison then .fails s .poison a
    else
      let (bs, s) := homeBytes s a p h n
      .ok bs s
  | .away _ =>
    (remotePart s a true).andThen fun _ s =>
    let (bs, s) := s.drawBytes n
    .ok bs s

/-- Reads of some pieces, one after another. -/
def engReads (s : State) (c : TileCmd) (acc : List Byte) : List (Word × Nat) → Work (List Byte)
  | [] => .ok acc s
  | (a, n) :: ps => (engReadPiece s c a n).andThen fun bs s => engReads s c (acc ++ bs) ps

/-- A read of a byte range. -/
def engRead (s : State) (c : TileCmd) (a : Word) (n : Nat) : Work (List Byte) := engReads s c [] (piecesOf a n)

/-- MISALIGN unless an operand's address is a multiple (R237, R250, R266). -/
def engAlign (s : State) (a : Word) (n : Nat) : Work Unit := if a.toNat % n = 0 then .ok () s else .fails s .misalign a

/-- The pieces of row i of an operand of n elements of w bytes (R237). -/
def rowPieces (base : Word) (i n w : Nat) : List (Word × Nat) :=
  (List.range ((n * w + 63) / 64)).map (fun t =>
    (base + BitVec.ofNat 64 (2048 * t + 64 * i), min 64 (n * w - 64 * t)))

/-- The address of element (i, j) (R237). -/
def elemAt (base : Word) (i j w : Nat) : Word := base + BitVec.ofNat 64 (2048 * (j * w / 64) + 64 * i + j * w % 64)

/-- Some bytes cut into elements of w bytes. -/
def chop (bs : List Byte) (w : Nat) : Nat → List (List Byte)
  | 0 => []
  | n + 1 => bs.take w :: chop (bs.drop w) w n

/-- The elements of rows of an operand, as bytes. -/
def readRows (s : State) (c : TileCmd) (base : Word) (n w : Nat) (acc : List (List (List Byte))) :
    List Nat → Work (List (List (List Byte)))
  | [] => .ok acc s
  | i :: is =>
    (engReads s c [] (rowPieces base i n w)).andThen fun bs s => readRows s c base n w (acc ++ [chop bs w n]) is

/-- An operand of m rows of n elements, at an aligned address. -/
def readTile (s : State) (c : TileCmd) (base : Word) (m n w : Nat) : Work (List (List (List Byte))) :=
  (engAlign s base 64).andThen fun _ s => readRows s c base n w [] (List.range m)

/-- An operand's values. -/
def readVals (s : State) (c : TileCmd) (base : Word) (m n : Nat) (f : BitVec 4) : Work (List (List Num)) :=
  (readTile s c base m n (fmtBytes f)).andThen fun rows s =>
  .ok (rows.map (fun r => r.map (elemValue (tableOf (s.core (coreOf c.slot))) f))) s

/-- The locations of pieces to be written, checked before any is. -/
def engCheckWrites (s : State) (c : TileCmd) (acc : List (Word × Loc × List Byte)) :
    List (Word × List Byte) → Work (List (Word × Loc × List Byte))
  | [] => .ok acc s
  | (a, bs) :: ws =>
    (engLoc s c a bs.length .store).andThen fun loc s =>
    (match loc with
      | .away _ => remotePart s a false
      | _ => .ok () s).andThen fun _ s => engCheckWrites s c (acc ++ [(a, loc, bs)]) ws

/-- One piece written: a plain write of the engine (R134). One for another device is on its way until its home has it, and
the command's completion waits for that (R48, R285). -/
def engWritePiece (s : State) (c : TileCmd) (w : Word × Loc × List Byte) : State :=
  match w.2.1 with
  | .bank k => bankWrite s k w.2.2
  | .home p h => plainStore s w.1 p h w.2.2
  | .away b => { s with outbox := s.outbox ++ [Out.write c.slot b w.2.2] }

/-- The bytes of a line of this device that some writes cover. -/
def coveredOf (ws : List (Word × Loc × List Byte)) (l : Nat) : List Nat :=
  (List.range 128).filter (fun o => ws.any (fun w => match w.2.1 with
    | .home p _ => p / 128 == l && decide (p % 128 ≤ o) && decide (o < p % 128 + w.2.2.length)
    | _ => false))

/-- Poison clears in the lines whose 128 bytes the command's writes cover (R372). -/
def clearPoison (s : State) (ws : List (Word × Loc × List Byte)) : State :=
  ws.foldl (fun s w => match w.2.1 with
    | .home p _ =>
      if (s.line (p / 128)).poison && (coveredOf ws (p / 128)).length == 128 then
        s.modLine (p / 128) (fun i => { i with poison := false })
      else s
    | _ => s) s

/-- Writes cut at line boundaries. -/
def lineWrites (ws : List (Word × List Byte)) : List (Word × List Byte) :=
  ws.flatMap (fun w => (piecesOf w.1 w.2.length).map (fun p =>
    (p.1, (w.2.drop (p.1 - w.1).toNat).take p.2)))

/-- Writes, all checked before the first takes effect, with where they went. -/
def engPut (s : State) (c : TileCmd) (ws : List (Word × List Byte)) : Work (List (Word × Loc × List Byte)) :=
  (engCheckWrites s c [] (lineWrites ws)).andThen fun ws s => .ok ws (ws.foldl (fun s w => engWritePiece s c w) s)

/-- The writes of a command that makes them all at once (R372). -/
def engWrites (s : State) (c : TileCmd) (ws : List (Word × List Byte)) : Work Unit :=
  (engPut s c ws).andThen fun ws s => .ok () (clearPoison s ws)

/-- Whether bytes that a fault leaves undefined lie in lines for which older stores still wait: the command then waits too, so
that no such store comes after (R153, R285). -/
def harmWaits (s : State) (c : TileCmd) (ps : List (Word × Nat)) : Bool :=
  !((s.region c.region).debug) && ps.any (fun p => (piecesOf p.1 p.2).any (fun q => match engLoc s c q.1 q.2 .store with
    | .blocked => true
    | _ => false))

/-- The destination of a command that faulted: undefined where it can be written (R8, R53), as it stood in debug mode. Which
of its writes to another device had left by then is a free value. -/
def scramble (s : State) (c : TileCmd) (ps : List (Word × Nat)) : State :=
  if (s.region c.region).debug then s
  else ps.foldl (fun s p =>
    (piecesOf p.1 p.2).foldl (fun s q =>
      match engLoc s c q.1 q.2 .store with
      | .ok loc s =>
        let (bs, s) := s.drawBytes q.2
        let (v, s) := s.draw
        (match loc with
          | .away _ => if v.getLsbD 0 then engWritePiece s c (q.1, loc, bs) else s
          | _ => engWritePiece s c (q.1, loc, bs))
      | _ => s) s) s

/-- Whether a write of a command to another device is on its way. -/
def writesAway (s : State) (c : TileCmd) : Bool :=
  s.outbox.any (isWriteOf c.slot)

/-- The pieces of a destination of m rows of n elements. -/
def tilePieces (base : Word) (m n w : Nat) : List (Word × Nat) := (List.range m).flatMap (fun i => rowPieces base i n w)

/-- The writes of a destination: rows of elements' bytes, an absent element left as it is. -/
def elemWrites (base : Word) (w : Nat) (rows : List (List (Option (List Byte)))) : List (Word × List Byte) :=
  rows.zipIdx.flatMap (fun r => r.1.zipIdx.filterMap (fun e => e.1.map (fun bs => (elemAt base r.2 e.2 w, bs))))

/-- Scale bytes of a captured address: one for a tile, n with one for each row, from row i0 on (R235). -/
def readScales (s : State) (c : TileCmd) (addr : Word) (i0 n : Nat) : Work (List Byte) :=
  match c.words.smd with
  | 1 => (engRead s c addr 1).andThen fun bs s => .ok (List.replicate n (bs.headD 0)) s
  | _ => (engAlign s addr 32).andThen fun _ s => engRead s c (addr + BitVec.ofNat 64 i0) n

end Sys2Proof.Machine
end

