-- ==== Sys2Proof/Machine/Vector.lean ====
section
/-! DEFINITION. What vector commands (R265 to R276) and conversion commands (R237 to R245) do when their engine executes
them. -/

namespace Sys2Proof.Machine

/-- Rows of values rounded into a format: the elements' bytes and the FLAGS set (R232). -/
def roundRows (f : BitVec 4) (satf : Bool) (rows : List (List (Num × Bool))) : List (List (List Byte)) × BitVec 3 :=
  let rs := rows.map (fun r => r.map (fun x => roundElem f satf x.1 x.2))
  (rs.map (fun r => r.map Prod.fst), rs.foldl (fun a r => r.foldl (fun a x => a ||| x.2) a) 0)

/-- The writes of row i of elements of w bytes (R237). -/
def rowWrite (base : Word) (w i : Nat) (row : List (List Byte)) : List (Word × List Byte) :=
  let bs := row.flatten
  (rowPieces base i row.length w).zipIdx.map (fun p => (p.1.1, (bs.drop (64 * p.2)).take p.1.2))

/-- The writes of whole rows of elements of w bytes (R237). -/
def rowWrites (base : Word) (w : Nat) (rows : List (List (List Byte))) : List (Word × List Byte) :=
  rows.zipIdx.flatMap (fun r => rowWrite base w r.2 r.1)

/-- Values written to a destination: the FLAGS set (R266). -/
def writeVals (s : State) (c : TileCmd) (base : Word) (f : BitVec 4) (rows : List (List (Num × Bool))) :
    Work (BitVec 3) :=
  let (bs, fl) := roundRows f c.round rows
  (engWrites s c (rowWrites base (fmtBytes f) bs)).andThen fun _ s => .ok fl s

/-- Values with nothing left over. -/
def exactly (rows : List (List Num)) : List (List (Num × Bool)) := rows.map (fun r => r.map (fun x => (x, false)))

/-- Two operands combined element by element. -/
def zipRows {α β γ : Type} (f : α → β → γ) (a : List (List α)) (b : List (List β)) : List (List γ) :=
  List.zipWith (fun x y => List.zipWith f x y) a b

/-- A binary op's result (R268). -/
def binaryNum (op : Nat) (x y : Num) : Num :=
  match op with
  | 0 => addNum x y
  | 1 => addNum x (negNum y)
  | 2 => mulNum x y
  | 4 => maxNum x y
  | _ => minNum x y

/-- A unary op's result (R269). -/
def unaryNum (op : Nat) (f : Fmt) (x : Num) : Num × Bool :=
  match op with
  | 6 => texpNum f x
  | 7 => trcpNum x
  | 8 => trsqNum x
  | 9 => tsiluNum f x
  | _ => tgeluNum f x

/-- TCMP's relation (R270). -/
def compareNum (cc : Nat) (x y : Num) : Bool :=
  match cc with
  | 0 => eqNum x y
  | 1 => ltNum x y
  | 2 => ltNum x y || eqNum x y
  | _ => isNan x || isNan y

/-- A reduction of some values (R272). -/
def reduceNum (op : Nat) (xs : List Num) : Num :=
  match op, xs with
  | 0, xs => exactSum xs
  | 1, x :: xs => xs.foldl maxNum x
  | _, x :: xs => xs.foldl minNum x
  | _, [] => .fin false 0 0

/-- Column j of some rows. -/
def column {α : Type} (rows : List (List α)) (j : Nat) : List α := rows.filterMap (fun r => r[j]?)

/-- COMBINE's value of one element (R273): the kept weights and their values, RN, and C[g, j] where ACC is set. -/
def combineNum (kept : List (Num × Num)) (rn : Bool) (old : Option Num) : Num × Bool :=
  let sum := exactSum (kept.map (fun k => mulNum k.1 k.2))
  let d := exactSum (kept.map Prod.fst)
  if rn && !(isZero d) then
    match old with
    | none => quotNum sum d
    | some c =>
      if isFin sum && isFin d && isFin c && !(isZero sum) then
        (let n := addNum (mulNum c d) sum
        if isZero n then (.fin false 0 0, false) else quotNum n d)
      else (addNum c (quotNum sum d).1, false)
  else
    let q := if rn then .fin false 0 0 else sum
    (match old with
      | none => q
      | some c => addNum c q, false)

/-- The rows of COMBINE's group g: the kept rows' numbers and weights (R273). -/
def keptRows (ws : List W32) (kk g : Nat) : List (Nat × Num) :=
  (List.range' (kk * g) kk).filterMap (fun i =>
    let w := ws.getD i 0
    if w = 0xFFFFFFFF then none else some (i, num32 w))

/-- COMBINE (R273). -/
def combineWork (s : State) (c : TileCmd) (m n : Nat) : Work (BitVec 3) :=
  let t := c.words
  let kk := (t.aux.extractLsb' 0 5).toNat
  let (a, b, d) := (opAddr c 1, opAddr c 2, opAddr c 3)
  (engAlign s a 64).andThen fun _ s =>
  (engAlign s b 64).andThen fun _ s =>
  (engAlign s d 64).andThen fun _ s =>
  (engRead s c b (4 * m)).andThen fun wbs s =>
  let ws := (List.range m).map (fun i => w32At wbs (4 * i))
  let used := (List.range m).filter (fun i => ws.getD i 0 != 0xFFFFFFFF)
  (readRows s c a n (fmtBytes c.fa) [] used).andThen fun rows s =>
  let tab := tableOf (s.core (coreOf c.slot))
  let val := fun (i j : Nat) =>
    match findIdx (fun x => x == i) used with
    | some (p, _) => elemValue tab c.fa ((rows.getD p []).getD j [])
    | none => .fin false 0 0
  (if t.flag 9 then readVals s c d (m / kk) n c.fc else .ok [] s).andThen fun old s =>
  writeVals s c d c.fc ((List.range (m / kk)).map (fun g =>
    let ks := keptRows ws kk g
    (List.range n).map (fun j =>
      combineNum (ks.map (fun k => (k.2, val k.1 j))) (t.flag 8)
        (if t.flag 9 then some ((old.getD g []).getD j (.fin false 0 0)) else none))))

/-- A vector command's reads, results and writes (R268 to R273): the FLAGS it sets. The order in which its operands' faults
are met is log entry 133. -/
def vectorWork (s : State) (c : TileCmd) : Work (BitVec 3) :=
  let t := c.words
  let (m, n) := (t.m, t.n)
  let op := (bitsOf t.w0 14 8).toNat
  let (a, b, d) := (opAddr c 1, opAddr c 2, opAddr c 3)
  let f := floatFmt c.fc
  if op = 0x11 then combineWork s c m n
  else
    (engAlign s d 64).andThen fun _ s =>
    if op = 0x10 then
      (if refSpecial t.w1 = some 1 then .ok (.fin false 0 0) s
        else (readVals s c a 1 1 c.fa).andThen fun v s => .ok ((v.getD 0 []).getD 0 (.fin false 0 0)) s).andThen fun x s =>
      writeVals s c d c.fc (exactly (List.replicate m (List.replicate n x)))
    else if op = 0x0D then
      (readTile s c a m n (fmtBytes c.fa)).andThen fun rows s =>
      (engWrites s c (rowWrites d (fmtBytes c.fc) ((List.range n).map (fun j => column rows j)))).andThen fun _ s => .ok 0 s
    else if op = 0x0F then
      let axis := t.aux.getLsbD 0
      (if axis then readVals s c a m 1 c.fa else readVals s c a 1 n c.fa).andThen fun v s =>
      writeVals s c d c.fc (exactly ((List.range m).map (fun i => (List.range n).map (fun j =>
        if axis then (v.getD i []).getD 0 (.fin false 0 0) else (v.getD 0 []).getD j (.fin false 0 0)))))
    else
      (readVals s c a m n c.fa).andThen fun x s =>
      if op = 0x0E then
        let o := (t.aux.extractLsb' 0 2).toNat
        let out := if t.aux.getLsbD 2 then [(List.range n).map (fun j => reduceNum o (column x j))]
          else x.map (fun r => [reduceNum o r])
        writeVals s c d c.fc (exactly out)
      else if 6 ≤ op ∧ op ≤ 10 then writeVals s c d c.fc (x.map (fun r => r.map (unaryNum op f)))
      else
        (readVals s c b m n c.fb).andThen fun y s =>
        if op = 0x0B then
          let cc := (t.aux.extractLsb' 0 2).toNat
          let out := zipRows (fun p q => [if compareNum cc p q then (1 : Byte) else 0]) x y
          (engWrites s c (rowWrites d 1 out)).andThen fun _ s => .ok 0 s
        else if op = 0x0C then
          (readVals s c d m n c.fc).andThen fun _ s =>
          let out := zipRows (fun p q => if isZero q then none else some (roundElem c.fc c.round p false)) x y
          let fl := out.foldl (fun a r => r.foldl (fun a e => match e with
            | some v => a ||| v.2
            | none => a) a) 0
          (engWrites s c (elemWrites d (fmtBytes c.fc) (out.map (fun r => r.map (Option.map Prod.fst))))).andThen
            fun _ s => .ok fl s
        else if op = 3 then
          (readVals s c d m n c.fc).andThen fun z s =>
          writeVals s c d c.fc (exactly (zipRows addNum (zipRows mulNum x y) z))
        else writeVals s c d c.fc (exactly (zipRows (binaryNum op) x y))

/-- A value into the destination format of a conversion (R233, R232). -/
def convertElem (tab : List W32) (f : BitVec 4) (satf nanc : Bool) (x : Num) : List Byte × BitVec 3 :=
  if f = 3 then
    (let (code, fl) := encodeNum tab nanc x
    ([BitVec.ofNat 8 code], fl))
  else roundElem f satf x false

/-- The groups of a command: rows, or all of a tile (R241, R243). -/
def groupsOf {α : Type} (t : TileWords) (rows : List (List α)) : List (List α) :=
  if t.smd = 2 then rows else [rows.flatten]

/-- The greatest magnitude of some values, rounded to FP32; any NaN gives NaN (R241). -/
def amaxNum (satf : Bool) (xs : List Num) : W32 × BitVec 3 :=
  if xs.any isNan then (0x7FC00000, 0)
  else roundF32 satf (xs.foldl (fun m x => if ltNum m (absNum x) then absNum x else m) (.fin false 0 0))

/-- LDTAB's table: none where R238 refuses it. -/
def loadedTable (bs : List Byte) : Option (List W32) :=
  let tab := (List.range 256).map (fun c => w32At bs (4 * c))
  let key := fun (w : W32) => (w.toNat / 2 ^ 13)
  let plain := tab.filter (fun w => !(isNan (numE8 w)) && !(isZero (numE8 w)))
  if (plain.map key).eraseDups.length = plain.length ∧ tab.any (fun w => isFin (numE8 w)) then some tab else none

/-- LDTAB (R238). -/
def ldtabWork (s : State) (c : TileCmd) : Work (BitVec 3) :=
  let a := opAddr c 1
  (engAlign s a 64).andThen fun _ s =>
  (engRead s c a 1024).andThen fun bs s =>
  match loadedTable bs with
  | none => .fails s .table a
  | some tab => .ok 0 (s.modCore (coreOf c.slot) (fun k => { k with table := some tab, tabbase := a }))

/-- QNT's element under a scale code (R243). -/
def quantElem (tab : List W32) (f : BitVec 4) (satf nanc : Bool) (code : Nat) (x : Num) : List Byte × BitVec 3 :=
  let y := if code = 0 then .fin (signOf x) 0 0
    else if code = 255 then .nan (signOf x)
    else scaleNum x (127 - (code : Int))
  convertElem tab f satf nanc y

/-- The writes of QNT (R243): the code that it computes for a group before the group's elements. -/
def qntWrites (t : TileWords) (d scl : Word) (codes : List Nat) (rows : List (List (List Byte))) : List (Word × List Byte) :=
  let code := fun (i : Nat) => (scl + BitVec.ofNat 64 i, [BitVec.ofNat 8 (codes.getD i 0)])
  if t.flag 8 then rowWrites d 1 rows
  else if t.smd = 2 then rows.zipIdx.flatMap (fun r => code r.2 :: rowWrite d 1 r.2 r.1)
  else code 0 :: rowWrites d 1 rows

/-- QNT (R243): codes that it computes are written with the elements. A TABLE fault names no address, so its record has the
command's own (log entry 87). -/
def qntWork (s : State) (c : TileCmd) : Work (BitVec 3) :=
  let t := c.words
  let (m, n) := (t.m, t.n)
  let d := opAddr c 3
  let given := t.flag 8
  let tab := tableOf (s.core (coreOf c.slot))
  let ng := if t.smd = 2 then m else 1
  (engAlign s d 64).andThen fun _ s =>
  (if t.smd = 2 then engAlign s c.sclc 32 else .ok () s).andThen fun _ s =>
  (readVals s c (opAddr c 1) m n c.fa).andThen fun x s =>
  (if given then (engRead s c c.sclc ng).andThen fun bs s => .ok (bs.map (fun b => (b.toNat, (0 : BitVec 3)))) s
    else
      match scaleV tab c.fc with
      | none => .fails s .table c.at_
      | some v => .ok ((groupsOf t x).map (fun g => scaleCode (num32 (amaxNum c.round g).1) v)) s).andThen fun codes s =>
  let code := fun (i : Nat) => (codes.getD (if t.smd = 2 then i else 0) (0, 0)).1
  let out := x.zipIdx.map (fun r => r.1.map (quantElem tab c.fc c.round (t.flag 9) (code r.2)))
  let fl := out.foldl (fun a r => r.foldl (fun a e => a ||| e.2) a) (codes.foldl (fun a e => a ||| e.2) 0)
  (engWrites s c (qntWrites t d c.sclc (codes.map Prod.fst) (out.map (fun r => r.map Prod.fst)))).andThen fun _ s => .ok fl s

/-- DQT's value under a scale code (R244). -/
def dequantNum (code : Byte) (x : Num) : Num :=
  if code = 0 then .fin false 0 0 else if code = 255 then .nan false else scaleNum x ((code.toNat : Int) - 127)

/-- A conversion command's reads, results and writes (R238 to R244): the FLAGS it sets. SCL's TABLE fault names no address, so
its record has the command's own (log entry 87). -/
def convertWork (s : State) (c : TileCmd) : Work (BitVec 3) :=
  let t := c.words
  let (m, n) := (t.m, t.n)
  let d := opAddr c 3
  let tab := tableOf (s.core (coreOf c.slot))
  let ng := if t.smd = 2 then m else 1
  match (bitsOf t.w0 14 8).toNat with
  | 0 => ldtabWork s c
  | 1 =>
    (engAlign s d 64).andThen fun _ s =>
    (readVals s c (opAddr c 1) m n c.fa).andThen fun x s =>
    let out := x.map (fun r => r.map (convertElem tab c.fc c.round (t.flag 9)))
    (engWrites s c (rowWrites d (fmtBytes c.fc) (out.map (fun r => r.map Prod.fst)))).andThen fun _ s =>
    .ok (out.foldl (fun a r => r.foldl (fun a e => a ||| e.2) a) 0) s
  | 2 => qntWork s c
  | 3 =>
    (engAlign s d 64).andThen fun _ s =>
    (readVals s c (opAddr c 1) m n c.fa).andThen fun x s =>
    (readScales s c c.scla 0 m).andThen fun sc s =>
    writeVals s c d c.fc (exactly (x.zipIdx.map (fun r => r.1.map (dequantNum (sc.getD r.2 0)))))
  | 4 =>
    (engAlign s d 64).andThen fun _ s =>
    (readVals s c (opAddr c 1) m n c.fa).andThen fun x s =>
    let new := (groupsOf t x).map (amaxNum c.round)
    (if t.flag 8 then engRead s c d (4 * ng) else .ok [] s).andThen fun old s =>
    let out := new.zipIdx.map (fun v =>
      if t.flag 8 then
        (let o := w32At old (4 * v.2)
        if isNan (num32 v.1.1) || isNan (num32 o) then (0x7FC00000 : W32)
        else if ltNum (num32 v.1.1) (num32 o) then o else v.1.1)
      else v.1.1)
    (engWrites s c [(d, out.flatMap (fun w => bytesOfNat 4 w.toNat))]).andThen fun _ s =>
    .ok (new.foldl (fun a e => a ||| e.2) 0) s
  | _ =>
    let a := opAddr c 1
    (engAlign s a 64).andThen fun _ s =>
    (engAlign s d 64).andThen fun _ s =>
    (engRead s c a (4 * ng)).andThen fun bs s =>
    match scaleV tab (t.aux.extractLsb' 0 4) with
    | none => .fails s .table c.at_
    | some v =>
      let codes := (List.range ng).map (fun i => scaleCode (num32 (w32At bs (4 * i))) v)
      (engWrites s c [(d, codes.map (fun e => BitVec.ofNat 8 e.1))]).andThen fun _ s =>
      .ok (codes.foldl (fun a e => a ||| e.2) 0) s

/-- The bytes that a vector command's destination takes (R267). -/
def vectorDest (c : TileCmd) : List (Word × Nat) :=
  let t := c.words
  let d := opAddr c 3
  let w := fmtBytes c.fc
  match (bitsOf t.w0 14 8).toNat with
  | 0x0D => tilePieces d t.n t.m w
  | 0x0E => if t.aux.getLsbD 2 then tilePieces d 1 t.n w else tilePieces d t.m 1 w
  | 0x11 => tilePieces d (t.m / (t.aux.extractLsb' 0 5).toNat) t.n w
  | _ => tilePieces d t.m t.n w

/-- The bytes that a conversion command's destination takes (R237): no scale byte is written by a fault (R245). -/
def convertDest (c : TileCmd) : List (Word × Nat) :=
  let t := c.words
  let d := opAddr c 3
  let ng := if t.smd = 2 then t.m else 1
  match (bitsOf t.w0 14 8).toNat with
  | 0 => []
  | 4 => [(d, 4 * ng)]
  | 5 => []
  | _ => tilePieces d t.m t.n (fmtBytes c.fc)

end Sys2Proof.Machine
end

