-- ==== Sys2Proof/Machine/Matrix.lean ====
section
/-! DEFINITION. What matrix commands do when the unit executes them (R248 to R257, R263). -/

namespace Sys2Proof.Machine

/-- The place of an accumulator's element. -/
def accAt (n i j : Nat) : Nat := 1024 * n + 32 * i + j

/-- An accumulator's element (R248). -/
def accGet (a : SMap W32) (n i j : Nat) : W32 := (mapGet a (accAt n i j)).getD 0

/-- The accumulator that an ACC word names (R42). -/
def accNum (w : W32) : Nat := (bitsOf w 4 2).toNat

/-- The scaled group sum of some products, rounded once to FP32 (R252): a scale code 255 makes it NaN, else a code 0
makes it +0. -/
def groupSum (satf : Bool) (xs : List (Num × Num)) (sa sb : Option Byte) : W32 × BitVec 3 :=
  let is := fun (v : Byte) => sa == some v || sb == some v
  if is 255 then (0x7FC00000, 0)
  else if is 0 then (0, 0)
  else
    let k := fun (o : Option Byte) => match o with
      | some b => (b.toNat : Int) - 127
      | none => 0
    roundF32 satf (scaleNum (exactSum (xs.map (fun p => mulNum p.1 p.2))) (k sa + k sb))

/-- The groups of 16 products of R252, added in order to an old value. -/
def elementFrom (satf : Bool) (x : W32) (fl : BitVec 3) (xs : List (Num × Num)) (sa sb : Option Byte) :
    Nat → W32 × BitVec 3
  | 0 => (x, fl)
  | fuel + 1 =>
    match xs with
    | [] => (x, fl)
    | _ =>
      let (g, f1) := groupSum satf (xs.take 16) sa sb
      let (y, f2) := roundF32 satf (addNum (num32 x) (num32 g))
      elementFrom satf y (fl ||| f1 ||| f2) (xs.drop 16) sa sb fuel

/-- Bᵀ's values from tile bytes; bytes beyond those held read as zero (R255). -/
def latchRows (tab : List W32) (f : BitVec 4) (bs : List Byte) (n k : Nat) : List (List Num) :=
  let w := fmtBytes f
  (List.range n).map (fun j => (List.range k).map (fun x =>
    let o := 2048 * (x * w / 64) + 64 * j + x * w % 64
    elemValue tab f ((List.range w).map (fun i => bs.getD (o + i) 0))))

/-- The rows word of a shape record, read afresh (R254): a strong read at the record's home, or in local memory. -/
def readRowCount (s : State) (c : TileCmd) : Work Nat :=
  let a := opAddr c 6
  (engAlign s a 16).andThen fun _ s =>
  (engLoc s c a 4 .load).andThen fun loc s =>
  match loc with
  | .bank k => .ok (natOfBytes (readBytes s.mem k 4)) s
  | .home p h =>
    let s := touchLine s (p / 128) h
    if (s.line (p / 128)).poison then .fails s .poison a
    else if (mixedPart s p 4).isSome && (s.region c.region).debug then .fails s .mixsize a
    else
      let (bs, s) := strongBytes s a p h 4
      .ok (natOfBytes bs) (recordStrong s p 4)
  | .away _ =>
    (remotePart s a true).andThen fun _ s =>
    let (bs, s) := s.drawBytes 4
    .ok (natOfBytes bs) s

/-- Tiles that K elements of a format span (R250). -/
def spanOf (k : Nat) (f : BitVec 4) : Nat := (k * fmtBytes f + 63) / 64

/-- Whether a command's b is the ring latch. -/
def fromRing (t : TileWords) : Bool := refSpecial t.w2 == some 0

/-- The hop count of an injector (R255): 0 where a command injects nothing. -/
def hopsOf (t : TileWords) : Nat := if fromRing t then 0 else t.aux.toNat

/-- Bᵀ whole tiles, as an injector reads them (R255). -/
def readWholeB (s : State) (c : TileCmd) : Work Latch :=
  let b := opAddr c 2
  let tb := spanOf c.words.k c.fb
  (engAlign s b 64).andThen fun _ s =>
  (engRead s c b (2048 * tb)).andThen fun bs s => .ok ⟨bs, tb, hopsOf c.words⟩ s

/-- Bᵀ's values for a block, and the bytes read where the command is an injector. -/
def readB (s : State) (r : Running) : Work (List (List Num) × Option Latch) :=
  let c := r.cmd
  let tab := tableOf (s.core (coreOf c.slot))
  let (n, k) := (c.words.n, c.words.k)
  if fromRing c.words then .ok (latchRows tab c.fb ((r.ring.map Latch.bytes).getD []) n k, r.ring) s
  else if hopsOf c.words = 0 then
    (readVals s c (opAddr c 2) n k c.fb).andThen fun v s => .ok (v, none) s
  else (readWholeB s c).andThen fun l s => .ok (latchRows tab c.fb l.bytes n k, some l) s

/-- The scale codes of some rows of an operand: none without scales (R252). -/
def rowScales (s : State) (c : TileCmd) (addr : Word) (i0 n : Nat) : Work (List (Option Byte)) :=
  if c.words.smd = 0 then .ok (List.replicate n none) s
  else (readScales s c addr i0 n).andThen fun bs s => .ok (bs.map some) s

/-- The blocks of a command (R253). -/
def blocksOf (t : TileWords) : Nat := if t.smode = 1 then (t.m + 31) / 32 else 1

/-- The products of a block written to its accumulator, row by row (R253). -/
def productRows (satf mmar : Bool) (n : Nat) (b : List (List Num)) (sb : List (Option Byte)) (acc : SMap W32)
    (fl : BitVec 3) : Nat → List (List Num × Option Byte) → SMap W32 × BitVec 3
  | _, [] => (acc, fl)
  | i, (a, sa) :: rows =>
    let out := (b.zip sb).zipIdx.foldl (fun (st : SMap W32 × BitVec 3) col =>
      let x := if mmar then 0 else accGet st.1 n i col.2
      let (v, f) := elementFrom satf x 0 (a.zip col.1.1) sa col.1.2 (a.length / 16 + 1)
      (mapPut st.1 (accAt n i col.2) v, st.2 ||| f)) (acc, fl)
    productRows satf mmar n b sb out.1 out.2 (i + 1) rows

/-- One block of an MMA or MMAR (R253, R254): the running command after it. A block of no rows is skipped; an injector
whose every block is skipped still reads its Bᵀ tiles after the last (R255). -/
def mmaBlock (s : State) (r : Running) : Work Running :=
  let c := r.cmd
  let t := c.words
  (if t.smode = 1 then (readRowCount s c).andThen fun x s => .ok (min x t.m) s else .ok t.m s).andThen fun rows s =>
  let rows := min 32 (rows - 32 * r.block)
  let next := { r with block := r.block + 1 }
  if rows = 0 then
    if next.block = blocksOf t ∧ hopsOf t ≠ 0 ∧ r.ring = none then
      (readWholeB s c).andThen fun l s => .ok { next with ring := some l } s
    else .ok next s
  else
    let ta := spanOf t.k c.fa
    let a := opAddr c 1
    (engAlign s a 64).andThen fun _ s =>
    (readVals s c (a + BitVec.ofNat 64 (2048 * ta * r.block)) rows t.k c.fa).andThen fun av s =>
    (readB s r).andThen fun (bv, ring) s =>
    (rowScales s c c.scla (32 * r.block) rows).andThen fun sa s =>
    (rowScales s c c.sclb 0 t.n).andThen fun sb s =>
    let k := s.core (coreOf c.slot)
    let n := (accNum t.w3 + r.block) % 4
    let (acc, fl) := productRows c.round (bitsOf t.w0 14 8 == 1) n bv sb k.acc r.flags 0 (av.zip sa)
    .ok { next with ring, flags := fl } (s.setCore (coreOf c.slot) { k with acc })

/-- An accumulator's 1,024 elements set to words. -/
def accFill (a : SMap W32) (n : Nat) (ws : List Word) : SMap W32 :=
  ws.zipIdx.foldl (fun a w => mapPut a (1024 * n + w.2) (low32 w.1)) a

/-- Whether a block of a faulting command has rows, so that it is not skipped (R254); all have, as far as can be told,
where the rows word itself cannot be read. -/
def hasRows (s : State) (c : TileCmd) (b : Nat) : Bool :=
  c.words.smode != 1 ||
    match readRowCount s c with
    | .ok rows _ => decide (32 * b < rows)
    | _ => true

/-- What a faulting MMA or MMAR leaves (R263): in debug mode the accumulators as they stood before it, else those of the
faulting block and of later blocks that have rows undefined. -/
def mmaHarm (s : State) (r : Running) : State :=
  let c := coreOf r.cmd.slot
  if (s.region r.cmd.region).debug then s.modCore c (fun k => { k with acc := r.acc })
  else
    (((List.range (blocksOf r.cmd.words)).filter (fun b => decide (r.block ≤ b) && hasRows s r.cmd b)).map
      (fun b => (accNum r.cmd.words.w3 + b) % 4)).foldl (fun s n =>
        let (ws, s) := s.drawWords 1024
        s.modCore c (fun k => { k with acc := accFill k.acc n ws })) s

/-- ROT (R256). -/
def rotWork (s : State) (c : TileCmd) : Work (BitVec 3) :=
  let t := c.words
  let core := coreOf c.slot
  if isAcc t.w1 then
    let n := accNum t.w1
    let a := (s.core core).acc
    let d := opAddr c 3
    (engAlign s d 64).andThen fun _ s =>
    (writeVals s c d c.fc (exactly ((List.range t.m).map (fun i => (List.range t.n).map (fun j =>
      num32 (accGet a n i j)))))).andThen fun fl s =>
    .ok fl (if t.aux.getLsbD 0 then s.modCore core (fun k => { k with acc := accFill k.acc n (List.replicate 1024 0) }) else s)
  else
    (readVals s c (opAddr c 1) t.m t.n c.fa).andThen fun v s =>
    let n := accNum t.w3
    let acc := v.zipIdx.foldl (fun a r => r.1.zipIdx.foldl (fun a e => mapPut a (accAt n r.2 e.2) (roundF32 false e.1).1) a)
      (s.core core).acc
    .ok 0 (s.modCore core (fun k => { k with acc }))

/-- ZACC (R257). -/
def zaccWork (s : State) (c : TileCmd) : Work (BitVec 3) :=
  .ok 0 (s.modCore (coreOf c.slot) (fun k => { k with
    acc := k.acc.filter (fun e => !(c.words.aux.getLsbD (e.1 / 1024))) }))

/-- The bytes that a ROT's destination takes. -/
def rotDest (c : TileCmd) : List (Word × Nat) :=
  if isAcc c.words.w1 then tilePieces (opAddr c 3) c.words.m c.words.n (fmtBytes c.fc) else []

/-- What a faulting load-in ROT leaves of the elements that it names (R53): in debug mode they stand as before. -/
def rotHarm (s : State) (c : TileCmd) : State :=
  if isAcc c.words.w1 || (s.region c.region).debug then s
  else
    let n := accNum c.words.w3
    let at_ := (List.range c.words.m).flatMap (fun i => (List.range c.words.n).map (fun j => accAt n i j))
    let (ws, s) := s.drawWords at_.length
    s.modCore (coreOf c.slot) (fun k => { k with acc := (at_.zip ws).foldl (fun a x => mapPut a x.1 (low32 x.2)) k.acc })

end Sys2Proof.Machine
end

