-- ==== Sys2Proof/Machine/Copy.lean ====
section
/-! DEFINITION. What copy commands do when a cluster's copy engine executes them (R282 to R285). -/

namespace Sys2Proof.Machine

/-- Where a row goes: nowhere, or from a source, or zeros, to a destination (R284). -/
abbrev RowMove := Option (Option Word × Word)

/-- What a row of a copy comes to: its move and the writes of its beats, a fault, or a wait for older stores. -/
inductive Moved where
  | ready (m : RowMove) (beats : List (List (Word × Loc × List Byte))) (s : State)
  | stopped (s : State) (c : Cause) (a : Word)
  | blocked

/-- The length of a row (R284). -/
def rowLen (c : TileCmd) : Nat := 64 * c.words.n

/-- The two strides of COPY (R284). -/
def strides (c : TileCmd) : Nat × Nat :=
  if isNone c.words.w2 then (rowLen c, rowLen c) else ((c.v2.extractLsb' 0 32).toNat, (c.v2.extractLsb' 32 32).toNat)

/-- Source and destination of row i: none where nothing moves; no source where zeros are written (R284). -/
def rowMove (s : State) (c : TileCmd) (i : Nat) : Work RowMove :=
  let (a, b, d) := (opAddr c 1, opAddr c 2, opAddr c 3)
  let at_ := fun (base : Word) (k : Nat) => base + BitVec.ofNat 64 k
  match (bitsOf c.words.w0 14 8).toNat with
  | 0 => let (sa, sc) := strides c; .ok (some (some (at_ a (i * sa)), at_ d (i * sc))) s
  | op =>
    (engRead s c (at_ b (4 * i)) 4).andThen fun bs s =>
    let x := natOfBytes bs
    let skip := decide (x = 0xFFFFFFFF)
    if op = 1 then
      .ok (some (if skip then none else some (at_ a (x * rowLen c)), at_ d (i * rowLen c))) s
    else .ok (if skip then none else some (some (at_ a (i * rowLen c)), at_ d (x * rowLen c))) s

/-- Whether any of some pieces overlaps a location's bytes. -/
def meetsAny (l : Loc) (n : Nat) (ps : List (Loc × Nat)) : Bool := ps.any (fun p => overlapAt l n p.1 p.2)

/-- The locations of a range's pieces, of those that can be accessed. -/
def locsOf (s : State) (c : TileCmd) (need : Need) (a : Word) (n : Nat) : List (Loc × Nat) :=
  (piecesOf a n).filterMap (fun p => match accessLoc s c.who p.1 p.2 need with
    | .ok (l, _) => some (l, p.2)
    | .error _ => none)

/-- The moves of some rows, read one after another, and the fault that ends them; none where one must wait. -/
def movesOf (s : State) (c : TileCmd) (acc : List RowMove) : List Nat → Option (List RowMove × Option (Cause × Word) × State)
  | [] => some (acc, none, s)
  | i :: is =>
    match rowMove s c i with
    | .ok m s => movesOf s c (acc ++ [m]) is
    | .fault e a n => some (acc, some (e, a), { s with freeCtr := n })
    | .blocked => none

/-- The moves of a command's rows: of COPY all, else those whose indices have been read. -/
def knownMoves (s : State) (c : TileCmd) (rows : List RowMove) : List RowMove :=
  if (bitsOf c.words.w0 14 8).toNat = 0 then ((movesOf s c [] (List.range c.words.m)).map Prod.fst).getD rows else rows

/-- The locations that the sources take. -/
def sourceLocs (s : State) (c : TileCmd) (rows : List RowMove) : List (Loc × Nat) :=
  rows.flatMap (fun r => match r with
    | some (some a, _) => locsOf s c .load a (rowLen c)
    | _ => [])

/-- The locations that the rows write, as far as it can be told. -/
def destLocs (s : State) (c : TileCmd) (rows : List RowMove) : List (Loc × Nat) :=
  rows.flatMap (fun r => match r with
    | some (_, d) => locsOf s c .store d (rowLen c)
    | none => [])

/-- The destination bytes of some rows, one by one, that overlap a source of the command (R284). -/
def overlapped (s : State) (c : TileCmd) (rows dests : List RowMove) : List Word :=
  let src := sourceLocs s c rows
  (dests.filterMap id).flatMap (fun r => (piecesOf r.2 (rowLen c)).flatMap (fun p =>
    match accessLoc s c.who p.1 p.2 .store with
    | .ok (l, _) =>
      if meetsAny l p.2 src then
        (List.range p.2).filterMap (fun i =>
          let b := p.1 + BitVec.ofNat 64 i
          match accessLoc s c.who b 1 .store with
          | .ok (l, _) => if meetsAny l 1 src then some b else none
          | .error _ => none)
      else []
    | .error _ => []))

/-- Bytes cut into beats of 128 (R282), with their addresses. -/
def beatsOf (a : Word) (bs : List Byte) : List (Word × List Byte) :=
  (List.range ((bs.length + 127) / 128)).map (fun k => (a + BitVec.ofNat 64 (128 * k), (bs.drop (128 * k)).take 128))

/-- The writes of some beats, all checked before the first is made. -/
def checkBeats (s : State) (c : TileCmd) (acc : List (List (Word × Loc × List Byte))) :
    List (Word × List Byte) → Work (List (List (Word × Loc × List Byte)))
  | [] => .ok acc s
  | b :: bs => (engCheckWrites s c [] (lineWrites [b])).andThen fun ws s => checkBeats s c (acc ++ [ws]) bs

/-- A row read, or zeros, and its writes checked. -/
def rowBeats (s : State) (c : TileCmd) (src : Option Word) (dst : Word) : Work (List (List (Word × Loc × List Byte))) :=
  (match src with
    | some a => engRead s c a (rowLen c)
    | none => .ok (List.replicate (rowLen c) 0) s).andThen fun bs s => checkBeats s c [] (beatsOf dst bs)

/-- The locations that the rows from row i on are to write, as far as it can be told. -/
def laterDests (s : State) (c : TileCmd) (i : Nat) : List (Loc × Nat) :=
  destLocs s c (((movesOf s c [] (List.range' i (c.words.m - i))).map Prod.fst).getD [])

/-- Poison clears in the lines of some locations that the rows moved so far cover, with the command's last write to them
(R372). -/
def rowClears (s : State) (c : TileCmd) (moved : List RowMove) (at_ : List (Loc × Nat)) : State :=
  let poisoned := at_.filterMap (fun l => match l.1 with
    | .home p h => if (s.line (p / 128)).poison then some (p / 128, h) else none
    | _ => none)
  if poisoned.isEmpty then s
  else
    let written := destLocs s c moved
    let later := laterDests s c moved.length
    poisoned.foldl (fun s l =>
      if (List.range 128).all (fun o => meetsAny (.home (128 * l.1 + o) l.2) 1 written) &&
          !(meetsAny (.home (128 * l.1) l.2) 128 later) then
        s.modLine l.1 (fun x => { x with poison := false })
      else s) s

/-- The row's destination where a fault is found: undefined, in debug mode as it stood (R285). -/
def rowHarm (s : State) (c : TileCmd) (dst : Word) : State := scramble s c [(dst, rowLen c)]

/-- The first operand address or stride that is not a multiple of 64 (R283). -/
def copyMisaligned (c : TileCmd) : Option Word :=
  let (sa, sc) := strides c
  let op := (bitsOf c.words.w0 14 8).toNat
  let as := [opAddr c 1, opAddr c 3] ++ (if op = 0 then [BitVec.ofNat 64 sa, BitVec.ofNat 64 sc] else [opAddr c 2])
  as.find? (fun a => decide (a.toNat % 64 ≠ 0))

/-- Whether the index of row i lies in another device. -/
def indexAway (s : State) (c : TileCmd) (i : Nat) : Bool :=
  (bitsOf c.words.w0 14 8).toNat != 0 && match accessLoc s c.who (opAddr c 2 + BitVec.ofNat 64 (4 * i)) 4 .load with
    | .ok (.away _, _) => true
    | _ => false

/-- The move of row i as it comes to it: another device's index as debug mode has read it ahead, else as it reads now. -/
def nextMove (s : State) (c : TileCmd) (p : CopyProgress) (i : Nat) : Work RowMove :=
  if indexAway s c i then
    match p.rows[i]?, p.stop with
    | some m, _ => .ok m s
    | none, some (e, a) => .fails s e a
    | none, none => rowMove s c i
  else rowMove s c i

/-- A fault in a row: its bytes are undefined, once no older store waits for them (R153, R285). -/
def rowStops (s : State) (c : TileCmd) (dst : Word) (e : Cause) (a : Word) : Moved :=
  if harmWaits s c [(dst, rowLen c)] then .blocked else .stopped (rowHarm s c dst) e a

/-- Row i (R284); a fault ends the command, and the row's bytes are undefined. A SCATTER's fault in the read of an index
names no row. -/
def copyRow (s : State) (c : TileCmd) (p : CopyProgress) (i : Nat) : Moved :=
  match nextMove s c p i with
  | .blocked => .blocked
  | .fault e a n =>
    let s := { s with freeCtr := n }
    if (bitsOf c.words.w0 14 8).toNat = 2 then .stopped s e a
    else rowStops s c (opAddr c 3 + BitVec.ofNat 64 (i * rowLen c)) e a
  | .ok none s => .ready none [] s
  | .ok (some (src, dst)) s =>
    match rowBeats s c src dst with
    | .blocked => .blocked
    | .fault e a n => rowStops { s with freeCtr := n } c dst e a
    | .ok beats s => .ready (some (src, dst)) beats s

/-- The alignment that a copy command checks before its first row (R283): what a fault leaves. -/
def copyRefused (s : State) (c : TileCmd) : Option Moved :=
  (copyMisaligned c).map (fun a =>
    if (bitsOf c.words.w0 14 8).toNat = 2 then .stopped s .misalign a else rowStops s c (opAddr c 3) .misalign a)

/-- What debug mode reads ahead of a command's first row, and the overlap that it refuses (R284); none where it must wait. -/
def copyAhead (s : State) (c : TileCmd) : Option (CopyProgress × Option Word × State) :=
  if (s.region c.region).debug then
    (movesOf s c [] (List.range c.words.m)).map (fun x => (⟨x.1, x.2.1, []⟩, (overlapped x.2.2 c x.1 x.1).head?, x.2.2))
  else some (CopyProgress.init, none, s)

/-- After a command's last row, or a fault: the destination bytes of the rows done that overlap a source are undefined (R284);
those of later rows stay (R285). -/
def copyEnd (s : State) (c : TileCmd) (rows : List RowMove) : State :=
  scramble s c ((overlapped s c (knownMoves s c rows) rows).map (fun b => (b, 1)))

end Sys2Proof.Machine
end

