-- ==== Sys2Proof/Machine/Engines.lean ====
section
/-! DEFINITION. How tile engines take commands (R45, R50, R239, R255, R261, R282), what faults they report (R53), how
commands complete (R48, R236, R285), the ring's handoffs (R255), and collectives (R326 to R328). -/

namespace Sys2Proof.Machine

/-- The engine that a command is for (R40). -/
def engineOf (t : TileWords) : Engine :=
  match (bitsOf t.w0 22 4).toNat with
  | 0 => .matrix
  | 1 => .vector
  | 2 => .convert
  | 3 => .copy
  | _ => .collective

/-- The origin code of an engine's records (R360). -/
def originOf (e : Engine) : Byte :=
  match e with
  | .matrix => 1
  | .vector => 2
  | .convert => 3
  | .copy => 4
  | .collective => 5

/-- Whether a trigger word is satisfied: kc in bits 30:26, thr in bits 25:0 (R47, R258). -/
def trigMet (k : Core) (w : W32) : Bool := decide ((bitsOf w 0 26).toNat ≤ (k.counter (bitsOf w 26 5)).toNat)

/-- A command's trigger tested (R45, R47): whether it is satisfied, the command with a record's trig word as first read,
and the state; a read that faults counts as satisfied, one that must wait for older stores does not. -/
def testTrigger (s : State) (core : Nat) (c : TileCmd) : Bool × TileCmd × State :=
  let k := s.core core
  if c.words.smode = 1 then
    if c.words.flag 11 then
      match c.trig with
      | some (.value w) => (trigMet k w, c, s)
      | some (.fault _) => (true, c, s)
      | none =>
        let a := opAddr c 6
        match (engAlign s a 16).andThen fun _ s => engRead s c (a + 4) 4 with
        | .ok bs s => (trigMet k (w32At bs 0), { c with trig := some (.value (w32At bs 0)) }, s)
        | .fault e _ n => (true, { c with trig := some (.fault e) }, { s with freeCtr := n })
        | .blocked => (false, c, s)
    else (true, c, s)
  else if c.words.w6.getLsbD 31 then (trigMet k c.words.w6, c, s)
  else (true, c, s)

/-- Whether a command reads the decode table (R239). -/
def readsTable (c : TileCmd) : Bool :=
  c.fa == 3 || c.fb == 3 || c.fc == 3 ||
    (engineOf c.words == .convert && bitsOf c.words.w0 14 8 == 5 && c.words.aux.extractLsb' 0 4 == 3)

/-- Whether a command is LDTAB. -/
def isLdtab (c : TileCmd) : Bool := engineOf c.words == .convert && bitsOf c.words.w0 14 8 == 0

/-- Whether an engine executes a command that a test names. -/
def runs (e : EngineState) (f : TileCmd → Bool) : Bool :=
  match e.run with
  | some r => f r.cmd
  | none => false

/-- Whether a command has what it needs beside its trigger to be ready: a full latch for b = RING (R255). -/
def ringReady (k : Core) (c : TileCmd) : Bool := engineOf c.words != .matrix || !(fromRing c.words) || k.latch.isSome

/-- Whether LDTAB and the commands that read the table keep apart (R239). -/
def tableFree (k : Core) (c : TileCmd) : Bool :=
  (!(isLdtab c) || (!(runs k.matrix readsTable) && !(runs k.convert readsTable))) &&
  (!(readsTable c && (engineOf c.words == .matrix || engineOf c.words == .convert)) || !(runs k.convert isLdtab))

/-- Whether a command waits on no counter (R45, R47). -/
def untriggered (c : TileCmd) : Bool := if c.words.smode = 1 then !(c.words.flag 11) else !(c.words.w6.getLsbD 31)

/-- What a scan finds: nothing, a command at its turn that R239 holds back, or the command taken. -/
inductive Scan where
  | none
  | held
  | taken (c : TileCmd)

/-- The scan of one queue from its oldest command (R50): the queue with the trig words read, and what is found. Behind an
untriggered command that is not ready no untriggered command of the engine passes (R51), which late says of those scanned so
far; nothing passes one at its turn that R239 holds back. -/
def scanQueue (s : State) (core : Nat) (e : Engine) (f : TileCmd → Bool) (late : Bool) :
    List TileCmd → List TileCmd × Scan × State
  | [] => ([], .none, s)
  | c :: cs =>
    if engineOf c.words = e ∧ f c ∧ (late && untriggered c) = false then
      let (ok, c, s) := testTrigger s core c
      if ok && ringReady (s.core core) c then
        (c :: cs, if tableFree (s.core core) c then .taken c else .held, s)
      else
        let (cs, r, s) := scanQueue s core e f (late || untriggered c) cs
        (c :: cs, r, s)
    else
      let (cs, r, s) := scanQueue s core e f late cs
      (c :: cs, r, s)

/-- A queue scanned: what is found, and the state with the trig words that were read. -/
def takeFrom (s : State) (core : Nat) (e : Engine) (f : TileCmd → Bool) (prio : Bool) : Scan × State :=
  let k := s.core core
  let (q, r, s) := scanQueue s core e f false (if prio then k.qp else k.qn)
  (r, s.modCore core (fun k => if prio then { k with qp := q } else { k with qn := q }))

/-- The scan of R50, after a number of consecutive priority dispatches: the command, whether it came from the priority
queue, and the state. -/
def takeCmd (s : State) (core : Nat) (e : Engine) (f : TileCmd → Bool) (prio : Nat) : Option (TileCmd × Bool) × State :=
  let first := decide (prio < 8)
  match takeFrom s core e f first with
  | (.taken c, s) => (some (c, first), s)
  | (.held, s) => (none, s)
  | (.none, s) =>
    match takeFrom s core e f (!first) with
    | (.taken c, s) => (some (c, !first), s)
    | (_, s) => (none, s)

/-- The queue loses the command that was taken from it. -/
def unqueue (s : State) (core : Nat) (c : TileCmd) (p : Bool) : State :=
  s.modCore core (fun k => if p then { k with qp := k.qp.erase c } else { k with qn := k.qn.erase c })

/-- The count of consecutive priority dispatches after one. -/
def prioAfter (prio : Nat) (p : Bool) : Nat := if p then prio + 1 else 0

/-- The gang context that owns the matrix unit's window, where one does (R260). -/
def windowOwner (s : State) (core : Nat) : Option Nat :=
  let e := s.cycle / 64 % 16
  let w := ((s.core core).mslot >>> (4 * e)).extractLsb' 0 4
  let sl := s.slot (8 * core + (w.extractLsb' 0 3).toNat)
  if w.getLsbD 3 || sl.status == .noTask then none else some sl.ctx

/-- The matrix unit's choice (R261). -/
def takeMatrix (s : State) (core : Nat) (prio : Nat) : Option (TileCmd × Bool) × State :=
  match windowOwner s core with
  | none => takeCmd s core .matrix (fun _ => true) prio
  | some x =>
    match takeCmd s core .matrix (fun c => c.ctx == x) prio with
    | (some r, s) => (some r, s)
    | (none, s) => takeCmd s core .matrix (fun _ => true) prio

/-- An engine's fault (R53): a record, unless the command is an evaluation's (R209). -/
def engineFault (s : State) (c : TileCmd) (e : Cause) (a : Word) : State :=
  if c.eval.isSome then s
  else s.sendRecord (trapRec s 1 (causeCode e) (originOf (engineOf c.words)) c.region c.slot c.at_ a 0)

/-- A command that stands as executed. -/
def ranWhole (c : TileCmd) (e : Option Cause) (fl : BitVec 3) : Running :=
  ⟨c, 1, e, fl, [], none, CopyProgress.init⟩

/-- The cause that a record's trig word was read with, where it faulted (R45). -/
def trigFault (c : TileCmd) : Option Cause :=
  match c.trig with
  | some (.fault e) => some e
  | _ => none

/-- A command of the vector unit, the conversion path, ROT or ZACC, executed whole; none where it must wait. A fault of its trig
read has the shape record's base as its TVAL (log entry 124). -/
def startWhole (s : State) (c : TileCmd) (w : Work (BitVec 3)) (dest : List (Word × Nat)) : Option (Running × State) :=
  match trigFault c with
  | some e => some (ranWhole c (some e) 0, engineFault s c e (opAddr c 6))
  | none =>
    match w with
    | .ok fl s => some (ranWhole c none fl, s)
    | .fault e a n =>
      if harmWaits s c dest then none
      else some (ranWhole c (some e) 0, engineFault (scramble { s with freeCtr := n } c dest) c e a)
    | .blocked => none

/-- A block of an MMA executed (R253): none where it must wait. -/
def runBlock (s : State) (r : Running) : Option (Running × State) :=
  match mmaBlock s r with
  | .ok r s => some (r, s)
  | .fault e a n =>
    some ({ r with cause := some e, flags := 0, block := blocksOf r.cmd.words },
      engineFault (mmaHarm { s with freeCtr := n } r) r.cmd e a)
  | .blocked => none

/-- The latch that a consumer hands on (R255). -/
def passLatch (l : Latch) : Option Latch := if 1 < l.r then some { l with r := l.r - 1 } else none

/-- An injector's handoff once its last block is done (R255): one that faulted hands nothing on. -/
def injectorHandoff (s : State) (core : Nat) (r : Running) : State :=
  if r.block = blocksOf r.cmd.words ∧ r.cause = none ∧ hopsOf r.cmd.words ≠ 0 then
    s.modCore core (fun k => { k with handoff := r.ring })
  else s

/-- A matrix command starts: a consumer takes the latch's bytes and empties it (R255). -/
def startMatrix (s : State) (core : Nat) (c : TileCmd) : Option (Running × State) :=
  match (bitsOf c.words.w0 14 8).toNat with
  | 2 =>
    (match startWhole s c (rotWork s c) (rotDest c) with
      | some (r, s) => some (r, if r.cause.isSome then rotHarm s c else s)
      | none => none)
  | 3 => startWhole s c (zaccWork s c) []
  | _ =>
    match trigFault c with
    | some e => some ({ ranWhole c (some e) 0 with block := blocksOf c.words }, engineFault s c e (opAddr c 6))
    | none =>
      let k := s.core core
      let ring := if fromRing c.words then k.latch else none
      let s := if fromRing c.words then s.setCore core { k with latch := none, handoff := ring.bind passLatch } else s
      match runBlock s ⟨c, 0, none, 0, k.acc, ring, CopyProgress.init⟩ with
      | some (r, s) => some (r, injectorHandoff s core r)
      | none => none

/-- Whether an engine may take commands of a core: not halted, not stopped, not at a switch, and no message of that engine
for the core held (R18, R182, R346, R380). -/
def mayDispatch (s : State) (core : Nat) (e : Engine) : Bool :=
  !(s.halted.contains (clusterOf s core)) && !((s.core core).stopped) && !(switchDue s core) &&
    !((s.core core).held.any (fun h => h.engine == e))

/-- A core engine's state, and with it replaced. -/
def coreEngine (k : Core) (e : Engine) : EngineState :=
  match e with
  | .matrix => k.matrix
  | .vector => k.vector
  | _ => k.convert

/-- See coreEngine. -/
def setEngine (k : Core) (e : Engine) (st : EngineState) : Core :=
  match e with
  | .matrix => { k with matrix := st }
  | .vector => { k with vector := st }
  | _ => { k with convert := st }

/-- A core engine dispatches (R50). -/
def dispatchCore (s : State) (e : Engine) (core : Nat) : State :=
  let st := coreEngine (s.core core) e
  if !(mayDispatch s core e) || st.run.isSome || (e == .matrix && (s.core core).handoff.isSome) then s
  else
    let taken := if e = .matrix then takeMatrix s core st.prio else takeCmd s core e (fun _ => true) st.prio
    match taken with
    | (none, s) => s
    | (some (c, p), scanned) =>
      let s' := unqueue scanned core c p
      let started := match e with
        | .matrix => startMatrix s' core c
        | .vector => startWhole s' c (vectorWork s' c) (vectorDest c)
        | _ => startWhole s' c (convertWork s' c) (convertDest c)
      match started with
      | none => scanned
      | some (r, s') => s'.modCore core (fun k => setEngine k e ⟨some r, prioAfter st.prio p⟩)

/-- The live cores of a cluster in order of number after one, wrapping (R282). -/
def coresAfter (s : State) (cl last : Nat) : List Nat :=
  let cs := clusterLive s cl
  cs.filter (fun c => decide (last < c)) ++ cs.filter (fun c => decide (c ≤ last))

/-- The copy engine's state of a cluster: before it has served a core, the lowest-numbered comes first (log entry 134). -/
def copyOf (s : State) (cl : Nat) : CopyEngine := (mapGet s.copies cl).getD ⟨none, Config.maxCores⟩

/-- A COPY command that a core has for the engine: one to resume (R286), or its first ready one (R50). -/
inductive CopyFound where
  | rest (r : Running)
  | fresh (c : TileCmd) (prio : Bool)

/-- The first core of some with a COPY command to resume or a ready one (R282, R286). -/
def takeCopy (s : State) : List Nat → Option (Nat × CopyFound) × State
  | [] => (none, s)
  | core :: cs =>
    let k := s.core core
    if mayDispatch s core .copy then
      match k.copyRest with
      | some r => (some (core, .rest r), s)
      | none =>
        match takeCmd s core .copy (fun _ => true) k.copyPrio with
        | (some (c, p), s) => (some (core, .fresh c p), s)
        | (none, s) => takeCopy s cs
    else takeCopy s cs

/-- A core without the COPY command that its engine takes: the command, with its next row, and the state. -/
def leaveCore (s : State) (core : Nat) : CopyFound → Running × State
  | .rest r => (r, s.modCore core (fun k => { k with copyRest := none }))
  | .fresh c p =>
    ({ ranWhole c none 0 with block := 0 },
      (unqueue s core c p).modCore core (fun k => { k with copyPrio := prioAfter k.copyPrio p }))

/-- A copy command that has come to its end, with a fault or without. -/
def copyDone (r : Running) (e : Option Cause) : Running := { r with cause := e, block := r.cmd.words.m, copy := CopyProgress.init }

/-- A copy command that stops with a fault after some rows (R53, R285). -/
def copyStops (s : State) (r : Running) (e : Cause) (a : Word) : Running × State :=
  let rows := r.copy.rows.take r.block
  let s := rowClears (copyEnd s r.cmd rows) r.cmd (rows ++ List.replicate (r.cmd.words.m - rows.length) none) (destLocs s r.cmd rows)
  (copyDone r (some e), engineFault s r.cmd e a)

/-- The row that a copy command moves is done (R284, R372). -/
def rowDone (s : State) (r : Running) : Running × State :=
  let rows := r.copy.rows.take (r.block + 1)
  let last := decide (r.cmd.words.m ≤ r.block + 1)
  let s := rowClears s r.cmd rows (destLocs s r.cmd (if last then rows else rows.drop r.block))
  let r := { r with block := r.block + 1 }
  (r, if last then copyEnd s r.cmd rows else s)

/-- A beat of a row (R282): its bytes are written. -/
def copyBeat (s : State) (r : Running) : Running × State :=
  match r.copy.beats with
  | [] => rowDone s r
  | b :: bs =>
    let s := b.foldl (fun s w => engWritePiece s r.cmd w) s
    let r := { r with copy := { r.copy with beats := bs } }
    if bs.isEmpty then rowDone s r else (r, s)

/-- What a copy command does next: a beat of its row, or the first beat of the next one (R284); none where it must wait. -/
def copyNext (s : State) (r : Running) : Option (Running × State) :=
  if r.copy.beats.isEmpty then
    match copyRow s r.cmd r.copy r.block with
    | .ready m beats s =>
      let rows := r.copy.rows.take r.block ++ [m] ++ r.copy.rows.drop (r.block + 1)
      some (copyBeat s { r with copy := { r.copy with rows, beats } })
    | .stopped s e a => some (copyStops s r e a)
    | .blocked => none
  else some (copyBeat s r)

/-- A copy command starts, or goes on with what it had come to (R284 to R286): one that is done waits for its completion. -/
def copyStart (s : State) (r : Running) : Option (Running × State) :=
  if r.cmd.words.m ≤ r.block then some (r, s)
  else if r.block = 0 then
    match trigFault r.cmd, copyRefused s r.cmd with
    | some e, _ => some (copyDone r (some e), engineFault s r.cmd e (opAddr r.cmd 6))
    | none, some (.stopped s e a) => some (copyDone r (some e), engineFault s r.cmd e a)
    | none, some _ => none
    | none, none =>
      match copyAhead s r.cmd with
      | none => none
      | some (_, some a, s) => some (copyDone r (some .prot), engineFault s r.cmd .prot a)
      | some (p, none, s) => copyNext s { r with copy := p }
  else copyNext s r

/-- Whether a cluster's copy engine moves on with its command: not past its row where a switch-out is due (R286), and else not
on a halted cluster (R380). -/
def copyMoves (s : State) (cl : Nat) (e : CopyEngine) (r : Running) : Bool :=
  decide (r.block < r.cmd.words.m) &&
    if switchDue s e.last then !r.copy.beats.isEmpty else !(s.halted.contains cl)

/-- A cluster's copy engine takes a command (R282), or moves the next beat of the one it has. -/
def dispatchCopy (s : State) (cl : Nat) : State :=
  let e := copyOf s cl
  let set := fun (core : Nat) (x : Running × State) => { x.2 with copies := mapPut x.2.copies cl ⟨some x.1, core⟩ }
  match e.run with
  | some r =>
    if copyMoves s cl e r then
      match copyNext s r with
      | some x => set e.last x
      | none => s
    else s
  | none =>
    if s.halted.contains cl then s
    else
      match takeCopy s (coresAfter s cl e.last) with
      | (none, s) => s
      | (some (core, found), scanned) =>
        let (r, s') := leaveCore scanned core found
        match copyStart s' r with
        | some x => set core x
        | none => scanned

/-- Two nodes joined (R327): the values and the FLAGS set. -/
def joinNodes (op : Nat) (satf : Bool) (l r : List W32) : List W32 × BitVec 3 :=
  let rs := List.zipWith (fun x y =>
    roundF32 satf (match op with
      | 0 => addNum (num32 x) (num32 y)
      | 1 => maxNum (num32 x) (num32 y)
      | _ => minNum (num32 x) (num32 y))) l r
  (rs.map Prod.fst, rs.foldl (fun a x => a ||| x.2) 0)

/-- The values of a node of the canonical tree, where all it needs is known, and the FLAGS set in forming them (R327). -/
def treeVals (op : Nat) (satf : Bool) (nodes : List Partial) (lo hi : Nat) : Nat → Option (List W32 × BitVec 3)
  | 0 => none
  | fuel + 1 =>
    match nodes.find? (fun n => n.lo == lo && n.hi == hi) with
    | some n => some (n.vals, 0)
    | none =>
      if hi ≤ lo + 1 then none
      else
        let m := lo + 2 ^ (Nat.log2 (hi - lo - 1))
        match treeVals op satf nodes lo m fuel, treeVals op satf nodes m hi fuel with
        | some l, some r =>
          let (v, f) := joinNodes op satf l.1 r.1
          some (v, l.2 ||| r.2 ||| f)
        | _, _ => none

/-- The nodes on the way from a rank's leaf to the root (R327). -/
def nodesAbove (rank lo hi : Nat) : Nat → List (Nat × Nat)
  | 0 => []
  | fuel + 1 =>
    if hi ≤ lo + 1 then [(lo, hi)]
    else
      let m := lo + 2 ^ (Nat.log2 (hi - lo - 1))
      (lo, hi) :: (if rank < m then nodesAbove rank lo m fuel else nodesAbove rank m hi fuel)

/-- The op of a COLL. -/
def collOp (t : TileWords) : Nat := (t.aux.extractLsb' 0 2).toNat

/-- The bytes that a COLL's destination takes. -/
def collDest (c : TileCmd) : List (Word × Nat) := tilePieces (opAddr c 3) c.words.m c.words.n (fmtBytes c.fc)

/-- Whether every rank's fields have been compared, which debug mode does first (R327): each rank's own leaf has come. -/
def allCompared (s : State) (r : CollRun) : Bool :=
  !((s.region r.run.cmd.region).debug) ||
    (List.range r.sig.p).all (fun i => r.nodes.any (fun n => n.lo == i && n.hi == i + 1))

/-- The other devices of a collective's rank table (R326). -/
def partnerDevs (s : State) (g : CollSig) : List Nat :=
  (((List.range g.p).map (fun i => natOfBytes ((g.table.drop (2 * i)).take 2))).filter (fun d => !(isHere s (BitVec.ofNat 9 d)))).eraseDups

/-- The staging area's bytes, undefined while a COLL of several ranks runs, and after it (R327). -/
def stageWork (s : State) (c : TileCmd) (stage : Word) (p : Nat) : Work Unit :=
  if p = 1 then .ok () s
  else
    let (bs, s) := s.drawBytes (stageBytes c.words.n)
    engWrites s c [(stage, bs)]

/-- The nodes over this rank that have become known leave for the partners; the root's result is written (R327). -/
def collAdvance (s : State) (i : Nat) : State :=
  match s.colls[i]? with
  | none => s
  | some r =>
    let c := r.run.cmd
    let found := (nodesAbove r.rank 0 r.sig.p 10).filterMap (fun n =>
      (treeVals (collOp c.words) c.round r.nodes n.1 n.2 10).map (fun v => (Partial.mk r.stage r.k r.sig n.1 n.2 v.1, v.2)))
    let known := found.map Prod.fst
    let flags := found.foldl (fun a n => a ||| n.2) r.run.flags
    let fresh := known.filter (fun n => !(r.nodes.contains n))
    let news := known.filter (fun n => decide (n.hi - n.lo < r.sig.p) && (!(r.nodes.contains n) || n.hi == n.lo + 1))
    let out := (partnerDevs s r.sig).flatMap (fun d => news.map (fun n => Out.coll n c.slot d))
    let r := { r with nodes := r.nodes ++ fresh, run := { r.run with flags } }
    let s := { s with outbox := s.outbox ++ out, colls := s.colls.set i r }
    match known.find? (fun n => n.lo == 0 && n.hi == r.sig.p), r.finished || !(allCompared s r) with
    | some root, false =>
      let n := c.words.n
      let rows := (List.range c.words.m).map (fun x => ((root.vals.drop (n * x)).take n).map num32)
      match (stageWork s c r.stage r.sig.p).andThen fun _ s => writeVals s c (opAddr c 3) c.fc (exactly rows) with
      | .ok fl s => { s with colls := s.colls.set i { r with finished := true, run := { r.run with flags := flags ||| fl } } }
      | .fault e a drawn =>
        let s := engineFault (scramble { s with freeCtr := drawn } c (collDest c)) c e a
        { s with colls := s.colls.set i { r with finished := true, run := { r.run with cause := some e } } }
      | .blocked => s
    | _, _ => s

/-- What a COLL reads as it starts (R326): the descriptor's rank, P, rank table and staging area, its own values as FP32. -/
def collRead (s : State) (c : TileCmd) : Work (Nat × CollSig × Word × List W32) :=
  let b := opAddr c 2
  let a := opAddr c 1
  (engAlign s b 64).andThen fun _ s =>
  (engAlign s a 64).andThen fun _ s =>
  (engAlign s (opAddr c 3) 64).andThen fun _ s =>
  (engRead s c b 64).andThen fun d s =>
  let rank := (w32At d 20).toNat
  let p := (w32At d 16).toNat
  let stage := w64At d 8
  if p = 0 ∨ 432 < p ∨ p ≤ rank then .fails s .prot b
  else
    (engAlign s stage 64).andThen fun _ s =>
    (engAlign s (w64At d 0) 64).andThen fun _ s =>
    (engRead s c (w64At d 0) (2 * p)).andThen fun table s =>
    (readVals s c a c.words.m c.words.n c.fa).andThen fun v s =>
    .ok (rank, ⟨p, table, collOp c.words, c.words.m, c.words.n, c.fa, c.fc⟩, stage,
      v.flatten.map (fun x => (roundF32 false x).1)) s

/-- A collective starts (R326, R327): what it reads, and its staging area, in use from now on; in debug mode nothing is written
before the ranks have compared their fields. -/
def collStart (s : State) (c : TileCmd) : Work (Nat × CollSig × Word × List W32) :=
  (collRead s c).andThen fun r s =>
  (if (s.region c.region).debug then .ok () s else stageWork s c r.2.2.1 r.2.1.p).andThen fun _ s => .ok r s

/-- How many collectives have started on a staging area (R327; log entry 137). -/
def collCount (s : State) (stage : Word) : Nat := (mapGet s.collCounts (normAddr s stage).toNat).getD 0

/-- A collective is the next on the staging area that its descriptor names: the area, and its number there (R327). -/
def countColl (s : State) (c : TileCmd) : (Word × Nat) × State :=
  match (engAlign s (opAddr c 2) 64).andThen fun _ s => engRead s c (opAddr c 2) 64 with
  | .ok d _ =>
    let st := normAddr s (w64At d 8)
    ((st, collCount s st), { s with collCounts := mapPut s.collCounts st.toNat (collCount s st + 1) })
  | _ => ((0, 0), s)

/-- What a collective that ends early leaves in its staging area (R327): undefined bytes, but in debug mode nothing before the
ranks have compared their fields. -/
def stageLeft (s : State) (r : CollRun) : State :=
  if !(allCompared s r) then s
  else
    match stageWork s r.run.cmd r.stage r.sig.p with
    | .ok _ s => s
    | _ => s

/-- A collective ends with a fault found by comparison or by time, c unchanged (R327, R53): no address is named, so the
record has the command's own (log entry 87). -/
def collFails (s : State) (i : Nat) (r : CollRun) (e : Cause) : State :=
  { engineFault s r.run.cmd e r.run.cmd.at_ with
    colls := s.colls.set i { r with finished := true, run := { r.run with cause := some e } } }

/-- A partner's partial result joins the nodes known of the collective of its number (R327): one that has not started here
holds it, and one that has ended discards it. Where the rank's fields differ, debug mode ends the collective with ILLEGAL,
and else its result is undefined. -/
def joinPartial (s : State) (p : Partial) : State :=
  match findIdx (fun r : CollRun => r.stage == normAddr s p.stage && r.k == p.k && !r.finished) s.colls with
  | some (i, r) =>
    if p.sig ≠ r.sig ∧ (s.region r.run.cmd.region).debug then collFails s i r .illegal
    else if p.lo < p.hi ∧ p.hi ≤ r.sig.p ∧ ¬(p.lo ≤ r.rank ∧ r.rank < p.hi) then
      let (ws, s) := if p.sig = r.sig then (p.vals, s) else
        let (ws, s) := s.drawWords (r.sig.m * r.sig.n)
        (ws.map low32, s)
      collAdvance { s with colls := s.colls.set i { r with nodes := r.nodes ++ [{ p with vals := ws }] } } i
    else s
  | none => if collCount s p.stage ≤ p.k then { s with earlyParts := s.earlyParts ++ [p] } else s

/-- A collective that has started takes what has come before it (R327). -/
def takeEarly (s : State) : State :=
  s.earlyParts.foldl joinPartial { s with earlyParts := [] }

/-- The collective unit takes a command of a core (R282, R327, R328): Release(DOMAIN) comes before it reads a. -/
def dispatchColl (s : State) (core : Nat) : State :=
  if !(mayDispatch s core .collective) then s
  else
    match takeCmd s core .collective (fun _ => true) (s.core core).collPrio with
    | (none, s) => s
    | (some (c, p), scanned) =>
      if (s.core core).sbuf.any (fun e => decide (e.id < c.mark)) then scanned
      else
        let s' := (unqueue scanned core c p).modCore core (fun k => { k with collPrio := prioAfter k.collPrio p })
        let (id, s') := countColl s' c
        let add := fun (s : State) (r : Running) (rank : Nat) (sig : CollSig) (nodes : List Partial) (fin : Bool) =>
          { s with colls := s.colls ++ [CollRun.mk r core id.1 id.2 s.time rank sig nodes fin] }
        let failed := fun (s : State) (e : Cause) => takeEarly (add s (ranWhole c (some e) 0) 0 ⟨1, [], 0, 0, 0, 0, 0⟩ [] true)
        match trigFault c, collStart s' c with
        | some e, _ => failed (engineFault s' c e (opAddr c 6)) e
        | none, .ok (rank, sig, _, vals) s' =>
          let s' := add s' (ranWhole c none 0) rank sig [⟨id.1, id.2, sig, rank, rank + 1, vals⟩] false
          takeEarly (collAdvance s' (s'.colls.length - 1))
        | none, .fault e a n => failed (engineFault (scramble { s' with freeCtr := n } c (collDest c)) c e a) e
        | none, .blocked => scanned

/-- TILE_DISPATCH (R50): a core engine by its core, the copy engine by its cluster, the collective unit by the core it
takes from. -/
def execTileDispatch (e : Engine) (unit : Nat) (s : State) : Host.Outcome State Fault Refusal :=
  .next (match e with
    | .matrix => dispatchCore s .matrix unit
    | .vector => dispatchCore s .vector unit
    | .convert => dispatchCore s .convert unit
    | .copy => dispatchCopy s unit
    | .collective => dispatchColl s unit)

/-- A change to the task that issued a command, in its slot or in its drawer (R236); none where it has ended. -/
def modTask (s : State) (c : TileCmd) (f : Slot → Slot) : State :=
  let sl := s.slot c.slot
  let d := 8192 * c.ctx + c.slot
  if sl.status != .noTask && sl.gen == c.gen && sl.ctx == c.ctx then s.modSlot c.slot f
  else
    match mapGet s.drawers d with
    | some (x, inbox) => if x.gen == c.gen then { s with drawers := mapPut s.drawers d (f x, inbox) } else s
    | none => s

/-- A command leaves its batch (R287): the open one counts it done, an outstanding one ends with its last. -/
def leaveBatch (b : Nat) (sl : Slot) : Slot :=
  if b = sl.batchId then { sl with batchPending := sl.batchPending - 1 }
  else
    match mapGet sl.batches b with
    | some n => { sl with batches := if n ≤ 1 then mapDel sl.batches b else mapPut sl.batches b (n - 1) }
    | none => sl

/-- The completion message of a command (R182, R183): held by the engine where the share is full; into the drawer of a task
that is switched out (R330); none for a task that has ended (R194). -/
def placeMessage (s : State) (core : Nat) (c : TileCmd) (cause : Option Cause) : State :=
  let sl := s.slot c.slot
  let st : BitVec 6 := match cause with
    | some e => (causeCode e).setWidth 6
    | none => 0
  let m : InboxEntry := ⟨c.slot, completeHeader s.dev c.slot st (bitsOf c.words.w7 0 25), bytesOf 8 c.at_ ++ List.replicate 56 0⟩
  if !(c.words.w7.getLsbD 25) then s
  else if sl.status != .noTask && sl.gen == c.gen && sl.ctx == c.ctx then
    if shareUsed s core true < 32 then s.modCore core (fun k => { k with inbox := k.inbox ++ [m] })
    else s.modCore core (fun k => { k with held := k.held ++ [⟨engineOf c.words, c.gen, c.ctx, m⟩] })
  else
    match mapGet s.drawers (8192 * c.ctx + c.slot) with
    | some (x, inbox) =>
      if x.gen = c.gen then { s with drawers := mapPut s.drawers (8192 * c.ctx + c.slot) (x, inbox ++ [m]) } else s
    | none => s

/-- Counter k rises by one (R258): the core's, or that of a context that is switched out, in its drawer (R330). -/
def bumpCounter (s : State) (core ctx : Nat) (bk : BitVec 5) : State :=
  let up := fun (v : Vector W32 32) =>
    v.set bk.toNat (v[bk.toNat]'(by have := bk.isLt; omega) + 1) (by have := bk.isLt; omega)
  match mapGet s.coreDrawers (2048 * ctx + core) with
  | some d => { s with coreDrawers := mapPut s.coreDrawers (2048 * ctx + core) { d with k := up d.k } }
  | none => { s.modCore core (fun k => { k with k := up k.k }) with bumped := (core, bk.toNat) :: s.bumped }

/-- A command completes (R48, R236, R285): its FLAGS, its counter, its message, its batch; an evaluation alone sees the
completion of its own (R209). -/
def finishCmd (s : State) (core : Nat) (r : Running) : State :=
  let c := r.cmd
  match c.eval with
  | some ev => { s with evals := mapPut s.evals ev { ((mapGet s.evals ev).getD Eval.init) with done := some r.cause } }
  | none =>
    let s := if r.cause.isNone then
        { modTask s c (fun sl => { sl with flags := sl.flags ||| r.flags }) with flagged := (c.slot, c.gen, r.flags) :: s.flagged }
      else s
    let s := if c.words.w7.getLsbD 31 then bumpCounter s core c.ctx (bitsOf c.words.w7 26 5) else s
    let s := match c.batch with
      | some b => modTask s c (leaveBatch b)
      | none => s
    placeMessage s core c r.cause

/-- Whether a running command has done all its blocks. -/
def ranAll (r : Running) : Bool :=
  match engineOf r.cmd.words with
  | .matrix => r.cause.isSome || decide ((bitsOf r.cmd.words.w0 14 8).toNat ≥ 2) || decide (blocksOf r.cmd.words ≤ r.block)
  | _ => true

/-- A completion (R48), during a halt too (R380): of a core engine by its core, the copy engine by its cluster, a collective
by its place among those in progress; every write to another device has reached its home there. -/
def tileCompletion (e : Engine) (unit : Nat) (s : State) : State :=
  match e with
    | .copy =>
      (match (copyOf s unit).run with
        | some r =>
          if s.halted.contains unit || decide (r.block < r.cmd.words.m) || writesAway s r.cmd then s
          else finishCmd { s with copies := mapPut s.copies unit ⟨none, (copyOf s unit).last⟩ } (copyOf s unit).last r
        | none => s)
    | .collective =>
      (match s.colls[unit]? with
        | some r =>
          if r.finished && !(writesAway s r.run.cmd) then finishCmd { s with colls := dropAt s.colls unit } r.core r.run else s
        | none => s)
    | e =>
      let st := coreEngine (s.core unit) e
      match st.run with
      | some r =>
        if ranAll r && !(writesAway s r.cmd) then finishCmd (s.modCore unit (fun k => setEngine k e ⟨none, st.prio⟩)) unit r
        else s
      | none => s

/-- RING_HANDOFF (R255): the successor's latch, once empty, takes the bytes, in the same gang context. -/
def execRingHandoff (core : Nat) (s : State) : Host.Outcome State Fault Refusal :=
  .next (
    match (s.core core).handoff, nextLive s core with
    | some l, some n =>
      if (s.core n).latch.isNone && residentCtx s core == residentCtx s n && (s.core core).part == (s.core n).part then
        (s.modCore core (fun k => { k with handoff := none })).modCore n (fun k => { k with latch := some l })
      else s
    | _, _ => s)

/-- MATRIX_BLOCK_END (R253, R254): the next block of a multi-block command starts. -/
def execMatrixBlockEnd (core : Nat) (s : State) : Host.Outcome State Fault Refusal :=
  .next (
    match (s.core core).matrix.run with
    | some r =>
      if ranAll r || switchDue s core then s
      else
        match runBlock s r with
        | none => s
        | some (r, s) =>
          let s := injectorHandoff s core r
          s.modCore core (fun k => { k with matrix := ⟨some r, k.matrix.prio⟩ })
    | none => s)

/-- COLL_TIMEOUT (R327): partners that have not arrived in time leave c unchanged and the status WAITLONG. -/
def execCollTimeout (i : Nat) (s : State) : Host.Outcome State Fault Refusal :=
  .next (
    match s.colls[i]? with
    | some r =>
      if !r.finished && decide (r.start.toNat + s.policy.collTimeout ≤ s.time.toNat) then
        collFails (stageLeft s r) i r .waitlong
      else s
    | none => s)

/-- PARTIAL_RESULT_ARRIVAL (R327). -/
def execPartialResultArrival (p : Partial) (s : State) : Host.Outcome State Fault Refusal := .next (joinPartial s p)

end Sys2Proof.Machine
end

