-- ==== Sys2Proof/Machine/Snapshot.lean ====
section
/-! DEFINITION. Snapshot instructions (R296 to R309) and the announcements that homes carry out. -/

namespace Sys2Proof.Machine

/-- The live snapshots of a region, those being ended apart (R296). -/
def liveSnaps (s : State) (r : Nat) : List Snap := s.snaps.filter (fun n => n.region == r && n.ending.isNone)

/-- A snapshot's identifier (R296). -/
def snapId (n : Snap) : Word := BitVec.ofNat 3 n.level ++ BitVec.ofNat 61 n.seq

/-- The live snapshot that an identifier names in a region. -/
def snapNamed (s : State) (r : Nat) (id : Word) : Option Snap := (liveSnaps s r).find? (fun n => snapId n == id)

/-- Whether two ranges of addresses meet: an empty one meets none. -/
def rangesMeet (s : State) (a : Word) (n : Nat) (b : Word) (m : Nat) : Bool :=
  n != 0 && m != 0 &&
  decide ((normAddr s a).toNat < (normAddr s b).toNat + m) && decide ((normAddr s b).toNat < (normAddr s a).toNat + n)

/-- Whether R298 refuses a range: another region's live snapshot, the region's record arena or shadow pool, the first
line of its control block. -/
def snapRefused (s : State) (r : Nat) (b : Word) (n : Nat) : Bool :=
  let g := s.region r
  s.snaps.any (fun m => m.region != r && rangesMeet s b n m.base m.len) ||
    (g.recBase != 0 && rangesMeet s b n g.recBase g.recSize.toNat) ||
    (g.shdBase != 0 && rangesMeet s b n g.shdBase g.shdSize.toNat) ||
    (r != 0 && rangesMeet s b n g.addr 128)

/-- The lowest address of a range that no residency lease covers (R117, R302), searched lease by lease. -/
def uncovered (s : State) (r : Nat) (cur end_ : Nat) : Nat → Option Nat
  | 0 => if cur < end_ then some cur else none
  | fuel + 1 =>
    if end_ ≤ cur then none
    else
      match (s.region r).res.toList.find? (fun e => e.st == 2 && decide ((normAddr s e.base).toNat ≤ cur) &&
          decide (cur < (normAddr s e.base).toNat + e.len.toNat)) with
      | some e => uncovered s r ((normAddr s e.base).toNat + e.len.toNat) end_ fuel
      | none => some cur

/-- The stack of a region's block as its live snapshots make it (R331). -/
def putStack (s : State) (r : Nat) : State :=
  s.modRegion r (fun g => { g with snaps := Vector.ofFn (fun i : Fin 8 =>
    (((liveSnaps s r).find? (fun n => n.level == i.val)).map snapId).getD 0) })

/-- SNAP (R302): the slot waits until every home has recorded the range. Room for gd comes before the stack's step (R94,
R305). -/
def execSnap (gd ga gb : Reg) (s : State) : Host.Outcome State Fault Refusal :=
  conclude s (
    (readG s ga).andThen fun b s =>
    (readG s gb).andThen fun n s =>
    match s.me.reply with
    | some (.val id) => writeDone s gd id
    | _ =>
      let r := s.me.region
      (checkAlign s b 128).andThen fun _ s =>
      (check s (decide (n.toNat % 128 = 0)) .misalign b).andThen fun _ s =>
      (check s (n != 0 && !(b.getLsbD 63) && devOf s b == 0x1FF && decide (vaOf b + n.toNat ≤ 2 ^ 54) &&
        !(snapRefused s r b n.toNat)) .prot b).andThen fun _ s =>
      match uncovered s r (normAddr s b).toNat ((normAddr s b).toNat + n.toNat) 9 with
      | some a => .trap .outside (b + BitVec.ofNat 64 (a - (normAddr s b).toNat))
      | none =>
        afterDrain s fun s =>
        let depth := (liveSnaps s r).length
        if depth = 8 ∨ 256 ≤ (s.snaps.filter (fun n => n.ending.isNone)).length then .trap .snapdepth b
        else (probeG s gd).andThen fun _ s =>
        act s (fun s0 =>
          let new : Snap := ⟨r, depth, s0.snapSerial, b, n.toNat, false, s0.cur, 0, none, some (waiterOf s0 s0.cur), none⟩
          (putStack { s0 with snaps := s0.snaps ++ [new], snapSerial := s0.snapSerial + 1 } r).stall .reply))

/-- A snapshot leaves its region's stack and its end is announced (R303), after what has been announced so far; a task
may wait for it. -/
def popSnap (s : State) (n : Snap) (reject : Bool) (who : Option Waiter) : State :=
  let n' := { n with ending := some (reject, 0, 0), endWait := who }
  putStack { s with snaps := s.snaps.filter (fun m => m.seq != n.seq) ++ [n'] } n.region

/-- The innermost live snapshot that an identifier names; otherwise SNAPDEPTH (R303). -/
def innermost (s : State) (id : Word) : Eff Snap :=
  match snapNamed s s.me.region id with
  | some n => if n.level + 1 = (liveSnaps s s.me.region).length then .ok n s else .trap .snapdepth id
  | none => .trap .snapdepth id

/-- The end of a snapshot is announced for the slot whose turn it is, which waits. -/
def endSnap {α : Type} (s : State) (n : Snap) (reject : Bool) : Eff α :=
  act s (fun s0 => (popSnap s0 n reject (some (waiterOf s0 s0.cur))).stall .reply)

/-- ACCEPT (R303). -/
def execAccept (ga : Reg) (s : State) : Host.Outcome State Fault Refusal :=
  conclude s (
    (readG s ga).andThen fun id s =>
    match s.me.reply with
    | some (.val _) => done s
    | _ => (innermost s id).andThen fun n s => endSnap s n false)

/-- REJECT (R303): the drain first; gd is the number of lines restored. -/
def execReject (gd ga : Reg) (s : State) : Host.Outcome State Fault Refusal :=
  conclude s (
    (readG s ga).andThen fun id s =>
    match s.me.reply with
    | some (.val v) => writeDone (expireAll s s.myCore) gd v
    | _ =>
      afterDrain s fun s =>
      (innermost s id).andThen fun n s =>
      (check s (!n.broken) .shadowfull id).andThen fun _ s =>
      (probeG s gd).andThen fun _ s => endSnap s n true)

/-- The shadows of all lines. -/
def allShadows (s : State) : List Shadow := s.lines.flatMap (fun e => e.2.shadows)

/-- A count held to 24 bits (R304). -/
def sat24 (n : Nat) : BitVec 24 := BitVec.ofNat 24 (min n (2 ^ 24 - 1))

/-- SNAPQ (R304). -/
def execSnapq (gd ga : Reg) (s : State) : Host.Outcome State Fault Refusal :=
  conclude s (
    (readG s ga).andThen fun id s =>
    let r := s.me.region
    let depth := (liveSnaps s r).length
    let mine := (allShadows s).filter (fun h => h.region == r)
    let high : BitVec 32 := match snapNamed s r id with
      | none => 0
      | some n =>
        1#1 ++ BitVec.ofBool n.broken ++ BitVec.ofBool (n.level + 1 == depth) ++ 0#5 ++
          sat24 (mine.filter (fun h => h.mask.getLsbD n.level)).length
    writeDone s gd (high ++ sat24 mine.length ++ 0#4 ++ BitVec.ofNat 4 depth))

/-- Whether every live home's bit is set; a home that has been retired has nothing left to do. -/
def allHomes (s : State) (m : BitVec 1024) : Bool :=
  (List.range s.logicalCores).all (fun h => !(isLiveCore s h) || m.getLsbD h)

/-- Whether a snapshot's end has been announced and not carried out at a home. -/
def endPending (h : Nat) (n : Snap) : Bool :=
  match n.ending with
  | none => false
  | some (_, ended, _) => !(ended.getLsbD h)

/-- Whether another snapshot of the region has an announcement to a home that comes before one of n's (R306): before the end
of n, or before its recording. -/
def comesFirst (s : State) (n : Snap) (h : Nat) (atEnd : Bool) : Bool :=
  let before := s.snaps.takeWhile (fun m => m.seq != n.seq)
  s.snaps.any (fun m => m.region == n.region && decide (m.seq < n.seq) && !(m.recorded.getLsbD h)) ||
    before.any (fun m => m.region == n.region && (atEnd || decide (m.seq < n.seq)) &&
      (endPending h m || (atEnd && !(m.recorded.getLsbD h))))

/-- A snapshot that every home has recorded, or whose end every home has carried out: the task that waits is answered, in
its slot or in its drawer (R302, R303, R308), and one that has ended is gone. -/
def settleSnap (s : State) (seq : Nat) : State :=
  match s.snaps.find? (fun n => n.seq == seq) with
  | none => s
  | some n =>
    let put := fun (s : State) (n : Snap) => { s with snaps := s.snaps.map (fun m : Snap => if m.seq = seq then n else m) }
    let s := match n.snapWait, allHomes s n.recorded with
      | some w, true => answerTask (put s { n with snapWait := none }) w (.val (snapId n))
      | _, _ => s
    match n.ending with
    | some (_, ended, k) =>
      if allHomes s ended then
        let s : State := { s with snaps := s.snaps.filter (fun m => m.seq != seq) }
        match n.endWait with
        | some w => answerTask s w (.val (BitVec.ofNat 64 k))
        | none => s
      else s
    | none => s

/-- SNAP_ANNOUNCE (R299): a home records the range; the last one's acknowledgement completes the SNAP. -/
def execSnapAnnounce (seq home : Nat) (s : State) : Host.Outcome State Fault Refusal :=
  .next (
    match s.snaps.find? (fun n => n.seq == seq) with
    | none => s
    | some n =>
      if n.recorded.getLsbD home || comesFirst s n home false || !(isLiveCore s home) then s
      else
        let record := fun (m : Snap) => if m.seq = seq then { m with recorded := m.recorded ||| (1#1024 <<< home) } else m
        settleSnap { s with snaps := s.snaps.map record } seq)

/-- A line without the bit of a level in the shadows of a region at a home; those that served no other are freed. -/
def dropLevel (r level home : Nat) (i : LineInfo) : LineInfo :=
  let clear := fun (h : Shadow) =>
    if h.region = r ∧ h.home = home then { h with mask := h.mask &&& ~~~(1#8 <<< level) } else h
  { i with shadows := (i.shadows.map clear).filter (fun h => h.mask != 0) }

/-- A line restored from its newest shadow (R303, R306): its bytes and poison bit, in a new version. -/
def restoreLine (s : State) (l home : Nat) (h : Shadow) : State :=
  let s := rawWrite (touchLine s l home) (l * 128) h.bytes
  let s := clearStrong s (l * 128) 128
  wakeCounters (s.modLine l (fun i => { i with poison := h.poison })) (l * 128) 128

/-- A home carries out the end of a snapshot (R303): the lines restored. -/
def endAtHome (s : State) (n : Snap) (reject : Bool) (home : Nat) : State × Nat :=
  let mine := s.lines.filter (fun e => match e.2.shadows with
    | h :: _ => h.region == n.region && h.home == home && h.mask.getLsbD n.level
    | [] => false)
  let s := if reject then mine.foldl (fun s e => match e.2.shadows with
      | h :: _ => restoreLine s e.1 home h
      | [] => s) s else s
  let before := (allShadows s).length
  let s := { s with lines := s.lines.map (fun e => (e.1, dropLevel n.region n.level home e.2)) }
  (refund s n.region [(.shadows, before - (allShadows s).length)], if reject then mine.length else 0)

/-- Whether the slot whose ACCEPT ends a snapshot has a store in its range still on its way to a home, which comes there before
the end does (R403; log entry 109); a REJECT has drained. -/
def storesFirst (s : State) (n : Snap) (home : Nat) : Bool :=
  match n.endWait with
  | some w => (s.core (coreOf w.slot)).sbuf.any (fun e => e.slot == w.slot && snapCovers s n e.addr && match e.loc with
      | .home _ h => h == home
      | _ => false)
  | none => false

/-- A home carries out the end of a snapshot (R303); the last one's acknowledgement completes the instruction. -/
def snapEndAt (seq home : Nat) (s : State) : State :=
  match s.snaps.find? (fun n => n.seq == seq) with
  | none => s
  | some n =>
    match n.ending with
    | none => s
    | some (reject, ended, k) =>
      if ended.getLsbD home || !(n.recorded.getLsbD home) || comesFirst s n home true || storesFirst s n home || !(isLiveCore s home) then s
      else
        let (s, m) := endAtHome s n reject home
        let n' := { n with ending := some (reject, ended ||| (1#1024 <<< home), k + m) }
        settleSnap { s with snaps := s.snaps.map (fun x : Snap => if x.seq = seq then n' else x) } seq

/-- What waited for a home that is retired goes on without it. -/
def settleSnaps (s : State) : State := (s.snaps.map Snap.seq).foldl settleSnap s

/-- A region's end ends its live snapshots innermost first, as by ACCEPT (R309); no slot waits for it. -/
def endSnaps (s : State) (r : Nat) : State := ((liveSnaps s r).reverse).foldl (fun s n => popSnap s n false none) s

/-- The end of a residency lease breaks the snapshots that cover its range (R309). -/
def breakCovering (s : State) (b : Word) (n : Nat) : State :=
  (s.snaps.filter (fun m => m.ending.isNone && !m.broken && rangesMeet s b n m.base m.len)).foldl
    (fun s m => breakSnap s m b none) s

end Sys2Proof.Machine
end

