-- ==== Sys2Proof/Machine/Thunks.lean ====
section
/-! DEFINITION. Thunk instructions (R200 to R221), evaluations by thunk engines (R205, R208 to R214), sparks (R216) and
their end at a gang switch (R222). -/

namespace Sys2Proof.Machine

/-- What a handle is once it has passed R201: an immediate value's address, or a record with its header. -/
inductive Seen where
  | tile (a : Word)
  | record (r : RecAt) (hd : Header)
  deriving DecidableEq, Repr

/-- Steps 2 and 3 of R201 for a record handle: the record and its header, whose read is a strong access, refused in debug mode
where it is mixed-size (R156, R203). -/
def openRecord (s : State) (w : Who) (x : Word) : Except Cause ((RecAt × Header) × State) :=
  let g := s.region w.region
  if hRegion x ≠ w.region ∨ inRange s (hAddr x) g.recBase g.recSize = false then .error .prot
  else
    match globalLoc s w (hAddr x) 8 .load with
    | .error c => .error c
    | .ok (.home p h, s) =>
      let s := touchLine s (p / 128) h
      if (s.line (p / 128)).poison then .error .poison
      else if (mixedPart s p 8).isSome && g.debug then .error .mixsize
      else
        let r : RecAt := ⟨hAddr x, p, h⟩
        let (hd, s) := recHeader s r
        .ok ((r, hd), s)
    | .ok _ => .error .prot

/-- The checks of R201, in order. -/
def checkHandle (s : State) (w : Who) (x : Word) : Except Cause (Seen × State) :=
  match hType x with
  | 1 => if hRegion x = w.region then .ok (.tile (hAddr x), s) else .error .prot
  | 2 =>
    (match openRecord s w x with
      | .error c => .error c
      | .ok ((r, hd), s) =>
        if hd.st = stFree ∨ hd.gen ≠ hGen x then .error .staleh else .ok (.record r hd, s))
  | _ => .error .staleh

/-- A handle checked by the slot whose turn it is: TVAL is the handle (R201). -/
def handleEff (s : State) (x : Word) : Eff Seen :=
  match checkHandle s s.who x with
  | .ok (v, s) => .ok v s
  | .error c => .trap c x

/-- The cause that a FAULTED record holds; codes that no fault has read as FATALHW. -/
def recordedCause (hd : Header) : Cause := (causeOf hd.cause).getD .fatalhw

/-- The number of a free evaluation of a core's engine (R205). -/
def freeEval (s : State) (core : Nat) : Option Nat :=
  ((List.range 4).map (fun i => 4 * core + i)).find? (fun e => (s.eval e).phase == .idle)

/-- The frames of an evaluation that lie in the TCM stack: a strict SUSPEND's temporary frame does not (R208). -/
def stackDepth (e : Eval) : Nat := (e.stack.filter (fun f => f.hdl != 0)).length

/-- The TCM place of the next frame of an evaluation (R205): its contents are the engine's own (log entry 17). -/
def scrambleFrame (s : State) (e : Nat) : State :=
  let (bs, s) := s.drawBytes 64
  bankWrite s (tcmKey (e / 4) (0x3C000 + 0x1000 * (e % 4) + 64 * (stackDepth (s.eval e)))) bs

/-- A record that an evaluation has claimed becomes the top of its stack (R211). -/
def pushFrame (s : State) (e : Nat) (x : Word) (r : RecAt) (hd : Header) (room : Bool) : State :=
  let (ops, s) := recOps s r
  let (a, s) := recRead s r 48
  let (b, s) := recRead s r 56
  let f : EvalFrame := ⟨x, a.setWidth 32, (a >>> 32).setWidth 32, b.setWidth 32, hd.satf, ops, [], none⟩
  (if room then scrambleFrame s e else s).modEval e (fun v => { v with stack := f :: v.stack })

/-- The free frame of lowest address in a region's arena, which is cut into frames from its base (R399). -/
def chooseFrame (s : State) (rg : Nat) : Option Word :=
  let g := s.region rg
  let at_ := fun (i : Nat) => normAddr s (g.frmBase + BitVec.ofNat 64 (2048 * i))
  if g.frmBase = 0 then none
  else ((List.range (g.frmSize.toNat / 2048)).find? (fun i => !(s.frames.any (fun f => f.2 == at_ i)))).map at_

/-- TakeFrame (R211): charged to the region, or none while none is free. -/
def takeFrame (s : State) (rg : Nat) : Option (Word × State) :=
  match chooseFrame s rg with
  | none => none
  | some f => (charge s rg [(.frames, 1)]).map (fun s => (f, { s with frames := s.frames ++ [(rg, f)] }))

/-- A reference word in mode 10, and NONE (R42). -/
def memWord : W32 := 0x80000001

/-- See memWord. -/
def noneWord : W32 := 0xC0000002

/-- The op of an image (R209). -/
def imageSpec (w0 : W32) : Option OpSpec :=
  let op := bitsOf w0 14 8
  if bitsOf w0 26 6 ≠ 0x3F ∨ w0.getLsbD 12 then none
  else
    match (bitsOf w0 22 4).toNat with
    | 1 => if op.toNat ≤ 0x11 then some (vectorSpec op) else none
    | 2 => if op = 1 then some (convertSpec 1) else none
    | _ => none

/-- The command that an evaluation issues for a frame of its stack (R209). -/
def evalCommand (s : State) (e : Nat) (f : EvalFrame) (at_ : Word) : TileCmd :=
  let v := s.eval e
  let core := e / 4
  let w := fun (i : Nat) => if f.ops.getD i 0 = 0 then noneWord else memWord
  let a := fun (i : Nat) => f.addrs.getD i 0
  let t : TileWords := ⟨f.w0 &&& ~~~(1#32 <<< 12), w 0, w 1, memWord, f.w4, f.w5, 0, 0⟩
  ⟨t, a 0, a 1, at_, 0, bitsOf f.w5 0 4, bitsOf f.w5 4 4, bitsOf f.w5 8 4, 8 * core, v.region, v.ctx, 0,
    (s.core core).sbNext, none, 0, 0, 0, f.satf, some e, 0, none⟩

/-- The 2 KiB of an operand c copied into the frame before the command (R209). -/
def copyOperand (s : State) (c : TileCmd) (src at_ : Word) : Work Unit :=
  (engRead s c src 2048).andThen fun bs s => engWrites s c [(at_, bs)]

/-- A message for a slot or evaluation. -/
def sendWake (s : State) (w : Word) (hdl : Word) (what : WakeEvent) : State :=
  { s with wakes := s.wakes ++ [Wake.mk w hdl what] }

/-- An evaluation ends: its number is free again. -/
def endEval (s : State) (e : Nat) : State :=
  let v := s.eval e
  { s with evals := mapPut s.evals e { Eval.init with seq := v.seq, link := v.link } }

/-- One record of a stack when its evaluation fails or is abandoned (R204, R214, R222): its frame returns, it becomes
FAULTED with a cause, or THUNK, or FREE where it is marked to free, and its waiters are woken. The slot that started
the evaluation takes the cause even then. -/
def unwindRecord (s : State) (core rg : Nat) (fault : Option (Cause × Word)) (starter : Option Nat) (f : EvalFrame) :
    State :=
  let s := match f.frame with
    | some a => returnFrame s rg a
    | none => s
  if f.hdl = 0 then s
  else
    match recAt s core (hAddr f.hdl) with
    | none => recMiss s core (hAddr f.hdl)
    | some (r, s) =>
      let (hd, s) := recHeader s r
      let what := match fault with
        | some (c, v) => WakeEvent.fault c v
        | none => .retry
      if s.doomed.contains r.p then
        let (ws, s) := waitersOf s r
        let event := fun (w : Word) => match starter, fault with
          | some i, some (c, v) => if w = slotLink i then WakeEvent.fault c v else .staleh
          | _, _ => .staleh
        let s : State := { recWrite s r 8 0 with wakes := s.wakes ++ ws.map (fun w => Wake.mk w f.hdl (event w)) }
        freeRecord s rg r { hd with st := stThunk, evid := 0 }
      else
        let hd : Header := match fault with
          | some (c, _) => { hd with st := stFaulted, cause := causeCode c, evid := 0 }
          | none => { hd with st := stThunk, evid := 0 }
        wakeWaiters (putHeader s r hd) r f.hdl what

/-- Fail (R214): a forced evaluation makes the records of its stack FAULTED; a spark's makes them THUNK again. -/
def failEval (s : State) (e : Nat) (c : Cause) (v : Word) : State :=
  let ev := s.eval e
  let fault := if ev.spark then none else some (c, v)
  let s := ev.stack.foldl (fun s f => unwindRecord s (e / 4) ev.region fault ev.waiter f) s
  let s := match ev.strict, ev.waiter with
    | true, some i => sendWake s (slotLink i) 0 (.fault c v)
    | _, _ => s
  endEval s e

/-- The walk of R212: whether the chain of waits from a record comes back to an evaluation, within 16 hops. -/
def closesCycle (s : State) (e : Nat) (x : Word) : Nat → Bool
  | 0 => false
  | fuel + 1 =>
    match recAt s (e / 4) (hAddr x) with
    | none => false
    | some (r, s) =>
      let (hd, s) := recHeader s r
      if hd.st ≠ stEval then false
      else if hd.evid = evalId s e then true
      else if evalId s (evalNum hd.evid) ≠ hd.evid then false
      else
        match (s.eval (evalNum hd.evid)).phase with
        | .parked y => closesCycle s e y fuel
        | _ => false

/-- Park (R212): on the record's list, unless that closes a cycle. -/
def parkEval (s : State) (e : Nat) (x : Word) (r : RecAt) : State :=
  let s := joinWaiters (s.modEval e (fun v => { v with phase := .parked x })) r (evalLink s e)
  if closesCycle s e x 16 then failEval (leaveWaiters s r (evalLink s e)) e .selfdep x else s

/-- A frame taken for the top of the stack, and its command issued (R209, R211): the evaluation waits while no frame is
free, and while the queue is full. -/
def issueEval (s : State) (e : Nat) (f : EvalFrame) (rest : List EvalFrame) : State :=
  let v := s.eval e
  let wait := s.modEval e (fun v => { v with phase := .frame })
  match f.frame.map (fun a => (a, s)) with
  | some (a, s) => go s v f rest a wait
  | none =>
    match takeFrame s v.region with
    | none => wait
    | some (a, s) =>
      go s v { f with frame := some a } rest a
        (s.modEval e (fun v => { v with phase := .frame, stack := { f with frame := some a } :: rest }))
where
  /-- The command goes to its queue. -/
  go (s : State) (v : Eval) (f : EvalFrame) (rest : List EvalFrame) (a : Word) (wait : State) : State :=
    let c := evalCommand s e f a
    let s := s.modEval e (fun _ => { v with phase := .command, done := none, stack := f :: rest })
    if !(queueRoom s (e / 4) c.words) then wait
    else
      match f.ops.getD 2 0 with
      | 0 => pushCmd s (e / 4) c
      | _ =>
        match copyOperand s c (f.addrs.getD 2 0) a with
        | .ok _ s => pushCmd s (e / 4) c
        | .fault k _ n => { s with freeCtr := n }.modEval e (fun v => { v with done := some (some k) })
        | .blocked => wait

/-- A claim (R210): the record's header is a THUNK's, and becomes EVAL with the evaluation's id. -/
def claim (s : State) (e : Nat) (r : RecAt) (hd : Header) : State :=
  putHeader s r { hd with st := stEval, evid := evalId s e }

/-- A claimed record entered (R211): SELFDEP where the stack already holds as many frames as the depth cap. -/
def enterRecord (s : State) (e : Nat) (x : Word) (r : RecAt) (hd : Header) : State × Bool :=
  let room := decide (stackDepth (s.eval e) < (s.region (s.eval e).region).cap)
  (pushFrame s e x r hd room, room)

/-- An operand's address joins those known for the top of the stack. -/
def addAddr (s : State) (e : Nat) (a : Word) : State :=
  s.modEval e (fun v => match v.stack with
    | f :: rest => { v with stack := { f with addrs := f.addrs ++ [a] } :: rest }
    | [] => v)

/-- The evaluation goes on until it waits (R211). The fuel bounds the operands that the records of a full stack have
between two waits. -/
def runEval (s : State) (e : Nat) : Nat → State
  | 0 => s
  | fuel + 1 =>
    let v := s.eval e
    match v.stack with
    | [] => endEval s e
    | f :: rest =>
      if 3 ≤ f.addrs.length then issueEval s e f rest
      else
        let x := f.ops.getD f.addrs.length 0
        if x = 0 then runEval (addAddr s e 0) e fuel
        else
          match checkHandle s ⟨e / 4, 8 * (e / 4), v.region⟩ x with
          | .error c => failEval s e c x
          | .ok (.tile a, s) => runEval (addAddr s e a) e fuel
          | .ok (.record r hd, s) =>
            if hd.st = stValue then
              let (a, s) := recRead s r 16
              runEval (addAddr s e a) e fuel
            else if hd.st = stFaulted then failEval s e (recordedCause hd) x
            else if hd.st = stThunk then
              match enterRecord (claim s e r hd) e x r hd with
              | (s, true) => runEval s e fuel
              | (s, false) => failEval s e .selfdep x
            else if hd.evid = evalId s e then failEval s e .selfdep x
            else parkEval s e x r

/-- The evaluation goes on. -/
def goOn (s : State) (e : Nat) : State :=
  runEval (s.modEval e (fun v => { v with phase := .command })) e 4096

/-- An evaluation number starts (R205, R210). -/
def startEval (s : State) (e region ctx : Nat) (spark strict : Bool) (waiter : Option Nat) (stack : List EvalFrame) :
    State :=
  s.modEval e (fun v => { v with
    seq := v.seq + 1, phase := .command, region, ctx, spark, waiter, strict, stack, done := none })

/-- A forced or spark evaluation of a THUNK record: claimed, with the slot that forces it as its first waiter. -/
def evalRecord (s : State) (e region ctx : Nat) (spark : Bool) (waiter : Option Nat) (x : Word) (r : RecAt) (hd : Header) :
    State :=
  let s := startEval s e region ctx spark false waiter []
  let s := claim s e r hd
  let s := match waiter with
    | some i => joinWaiters s r (slotLink i)
    | none => s
  match enterRecord s e x r hd with
  | (s, true) => goOn s e
  | (s, false) => failEval s e .selfdep x

/-- The words of an image. -/
def imageWords (bs : List Byte) : TileWords :=
  ⟨w32At bs 0, w32At bs 4, w32At bs 8, w32At bs 12, w32At bs 16, w32At bs 20, w32At bs 24, w32At bs 28⟩

/-- An operand of an image: its handle, checked, and the depth that it adds (R206, R207). -/
def imageOperand (s : State) (t : TileWords) (i : Nat) : Eff (Word × Nat) :=
  if refMode (t.word i) = 2 then
    (readG s (refReg (t.word i))).andThen fun x s =>
    (handleEff s x).andThen fun v s =>
    .ok (x, match v with
      | .record _ hd => if hd.st = stThunk ∨ hd.st = stEval then hd.depth else 0
      | .tile _ => 0) s
  else .ok (0, 0) s

/-- An operand of an image read again when the instruction completes: its register alone. -/
def operandAgain (s : State) (t : TileWords) (i : Nat) : Eff Word :=
  if refMode (t.word i) = 2 then readG s (refReg (t.word i)) else .ok 0 s

/-- A record's header as its home holds it, looked at by no access. -/
def headerNow (s : State) (r : RecAt) : Header := headerOf (wordOf (readBytes s.mem r.p 8))

/-- The FREE record of a region's arena of lowest address, after a number of others (R399), found without an access of it. -/
def chooseRecord (s : State) (core rg skip : Nat) : Option (RecAt × State) :=
  let g := s.region rg
  if g.recBase = 0 then none else go s (normAddr s g.recBase) skip (g.recSize.toNat / 64)
where
  /-- The search from an address on, over so many records. -/
  go (s : State) (a : Word) (skip : Nat) : Nat → Option (RecAt × State)
    | 0 => none
    | n + 1 =>
      match recAt s core a with
      | none => go (recMiss s core a) (a + 64) skip n
      | some (r, s') =>
        if (headerNow s r).st = stFree then
          match skip with
          | 0 => some (r, s')
          | k + 1 => go s (a + 64) k n
        else go s (a + 64) skip n

/-- References taken on record operands (R207): 65,535 is sticky. -/
def takeRefs (s : State) (core : Nat) : List Word → State
  | [] => s
  | x :: xs =>
    if hType x = 2 then
      match recAt s core (hAddr x) with
      | none => takeRefs (recMiss s core (hAddr x)) core xs
      | some (r, s) =>
        let (hd, s) := recHeader s r
        takeRefs (if hd.refs = 65535 then s else putHeader s r { hd with refs := hd.refs + 1 }) core xs
    else takeRefs s core xs

/-- What a lazy SUSPEND in debug mode would access mixed-size: its record's header, by its address, or an operand's, by its
handle (R156; log entry 123). -/
def mixedHeaders (s : State) (r : RecAt) (ops : List Word) : Option Word :=
  let mixed := fun (r : RecAt) => (mixedPart s r.p 8).isSome
  if !((s.region s.me.region).debug) then none
  else if mixed r then some r.a
  else ops.find? (fun x => hType x == 2 && match recAt s s.myCore (hAddr x) with
    | some (o, _) => mixed o
    | none => false)

/-- A record written by a lazy SUSPEND (R207). -/
def writeRecord (s : State) (r : RecAt) (old : Header) (depth : Nat) (satf : Bool) (ops : List Word) (w0 w4 w5 : W32) :
    State :=
  let s := recWrite s r 8 0
  let s := recWrite s r 16 0
  let s := recWrite s r 24 (ops.getD 0 0)
  let s := recWrite s r 32 (ops.getD 1 0)
  let s := recWrite s r 40 (ops.getD 2 0)
  let s := recWrite s r 48 (w4 ++ (w0 ||| (1#32 <<< 12)))
  let s := recWrite s r 56 (0#32 ++ w5)
  let s : State := { s with records := s.records ++ [(s.me.region, r.a)] }
  putHeader s r ⟨0, 1, satf, depth, old.gen, 0, stThunk⟩

/-- Records of a region that other SUSPENDs have charged and not yet written. -/
def pledged (s : State) (rg : Nat) : Nat :=
  (s.slots.filter (fun e => e.1 != s.cur && e.2.region == rg && match e.2.susp with
    | some u => u.pin.isSome
    | none => false)).length

/-- Whether a SUSPEND is lazy (R207): the depth within the cap, room in the budgets, and a FREE record that no other SUSPEND
has charged. -/
def isLazy (s : State) (rg depth pin : Nat) : Bool :=
  decide (depth ≤ (s.region rg).cap) && chargeFits (s.region rg) [(.recs, 1), (.pins, pin)] &&
    (chooseRecord s s.myCore rg (pledged s rg)).isSome

/-- A SUSPEND is decided: it holds what it has captured, and a lazy one its charge (R207). -/
def decideSusp (u : Susp) (s : State) : State :=
  let s := s.modMe (fun sl => { sl with susp := some u })
  match u.pin with
  | some p => (charge s s.me.region [(.recs, 1), (.pins, p)]).getD s
  | none => s

/-- A lazy SUSPEND after its charge (R207): the release, then the record and its references. -/
def lazySuspend (s : State) (gd : Reg) (u : Susp) (k : State → Eff State) : Eff Unit :=
  released s 4 fun s =>
  match chooseRecord s s.myCore s.me.region 0 with
  | none => stall .poll
  | some (r, s) =>
    let f := u.frame
    match mixedHeaders s r f.ops with
    | some v => .trap .mixsize v
    | none =>
      let (hd, s) := recHeader s r
      let s := writeRecord (takeRefs s s.myCore f.ops) r hd u.depth f.satf f.ops f.w0 f.w4 f.w5
      (k s).andThen fun s _ => effectDone s gd (mkHandle 2 s.me.region r.a hd.gen)

/-- A strict SUSPEND (R208): the slot sleeps while an evaluation of a temporary frame runs, or until one is free. -/
def strictSuspend (ia : Word) (u : Susp) (s0 : State) : State :=
  let s0 := s0.modMe (fun sl => { sl with reply := none })
  match freeEval s0 s0.myCore with
  | none => s0.sleepFor (.engine 0) ia
  | some e =>
    let s := s0.sleepFor (.thunk 0) ia
    goOn (startEval s e s.me.region s.me.ctx false true (some s.cur) [u.frame]) e

/-- A SUSPEND that has been decided and then faults gives up what it holds (R94, R208). -/
def orGiveUp (e : Eff Unit) : Eff Unit :=
  match e with
  | .trap c v w => .wait (fun s0 => takeFault (dropSusp (w s0) s0.cur) c v)
  | .seen _ _ b => .wait (fun s0 => takeFault (dropSusp s0 s0.cur) .watch b)
  | e => e

/-- The operands of an image whose SUSPEND completes: their registers are read again, for the streams among them. -/
def operandsAgain (s : State) (t : TileWords) : Eff State :=
  (operandAgain s t 1).andThen fun _ s =>
  (operandAgain s t 2).andThen fun _ s =>
  (operandAgain s t 3).andThen fun _ s => .ok s s

/-- A SUSPEND that has been decided goes on (R207, R208). -/
def suspendOn (s : State) (gd : Reg) (ia : Word) (t : TileWords) (u : Susp) : Eff Unit :=
  match u.pin, s.me.reply with
  | some _, _ => lazySuspend s gd u (fun s => operandsAgain s t)
  | none, some (.fault c v) => .trap c v
  | none, some (.val h) =>
    if h = 0 then .wait (strictSuspend ia u)
    else (operandsAgain s t).andThen fun s _ => writeDone (acquire s 4) gd h
  | none, none => .wait (strictSuspend ia u)

/-- What a SUSPEND captures once its checks are passed (R207, R209), in the order of R94: the decision, and the state. -/
def suspendChecks (s : State) (gd : Reg) (ia : Word) (t : TileWords) : Eff Susp :=
  let sl := s.me
  let f := formats t sl.fmta sl.fmtb sl.fmtc
  match imageSpec t.w0 with
  | none => .trap .illegal (badTval t 0)
  | some sp =>
    match badWord t sp true f (ringLen s s.myCore) with
    | some i => .trap .illegal (badTval t i)
    | none =>
      (imageOperand s t 1).andThen fun a s =>
      (imageOperand s t 2).andThen fun b s =>
      (imageOperand s t 3).andThen fun c s =>
      (checkWatch s ia 32 true false).andThen fun _ s =>
      (probeG s gd).andThen fun _ s =>
      let ops := [a.1, b.1, c.1]
      let depth := 1 + max a.2 (max b.2 c.2)
      let w5 : W32 := (t.w5 &&& ~~~(0xFFF : W32)) ||| (f.2.2 ++ f.2.1 ++ f.1).setWidth 32
      let pin := if isLazy s s.me.region depth (pinned ops) then some (pinned ops) else none
      .ok ⟨⟨0, t.w0, t.w4, w5, sl.round, ops, [], none⟩, depth, pin⟩ s

/-- SUSPEND (R207, R208): decided once, at its charge; whatever it waits for then, it goes on with what it captured. -/
def execSuspend (gd ga : Reg) (s : State) : Host.Outcome State Fault Refusal :=
  conclude s (orGiveUp (
    (readG s ga).andThen fun ia s =>
    (checkAlign s ia 32).andThen fun _ s =>
    (localRead s ia 32).andThen fun bs s =>
    holding ia bs (
      let t := imageWords bs
      match s.me.susp with
      | some u => suspendOn s gd ia t u
      | none =>
        (suspendChecks s gd ia t).andThen fun u s' =>
        match u.pin with
        | none => act s' (fun s0 => strictSuspend ia u (decideSusp u s0))
        | some _ =>
          let decided : State → State := fun s0 => decideSusp u (keepPops s' s0)
          match lazySuspend (decideSusp u s') gd u (fun s => .ok s s) with
          | .wait f => .wait (fun s0 => f (decided s0))
          | .pause f look => .pause (fun s0 => f (decided s0)) look
          | e => e)))

/-- The slot, which has read a record's header, joins the record's waiters and sleeps (R212, R213). -/
def sleepOn (x : Word) (r : RecAt) (s0 : State) : State :=
  let (_, s) := recHeader (s0.modMe (fun sl => { sl with reply := none })) r
  (joinWaiters s r (slotLink s0.cur)).sleepFor (.thunk x) x

/-- A FORCE that finds a THUNK (R213): it starts its evaluation, or waits until the engine has one free. -/
def forceThunk (x : Word) (r : RecAt) (hd : Header) (s0 : State) : State :=
  let s0 := s0.modMe (fun sl => { sl with reply := none })
  match freeEval s0 s0.myCore with
  | none => s0.sleepFor (.engine x) x
  | some e => evalRecord (s0.sleepFor (.thunk x) x) e s0.me.region s0.me.ctx false (some s0.cur) x r hd

/-- FORCE (R213). It waits on a header of a state that R203 does not list as on EVALUATING (log entry 127). -/
def execForce (gd ga : Reg) (s : State) : Host.Outcome State Fault Refusal :=
  conclude s (
    (readG s ga).andThen fun x s =>
    match s.me.reply with
    | some (.fault c v) => .trap c v
    | _ =>
      (handleEff s x).andThen fun v s =>
      match v with
      | .tile a => writeDone s gd a
      | .record r hd =>
        if hd.st = stValue then
          let (a, s) := recRead s r 16
          effectDone (acquire s 4) gd a
        else if hd.st = stFaulted then .trap (recordedCause hd) x
        else (probeG s gd).andThen fun _ s => act s (if hd.st = stThunk then forceThunk x r hd else sleepOn x r))

/-- FPOLL (R215). -/
def execFpoll (gd ga : Reg) (s : State) : Host.Outcome State Fault Refusal :=
  conclude s (
    (readG s ga).andThen fun x s =>
    (handleEff s x).andThen fun v s =>
    match v with
    | .tile a => writeDone s gd a
    | .record r hd =>
      if hd.st = stValue then
        let (a, s) := recRead s r 16
        effectDone (acquire s 4) gd a
      else if hd.st = stFaulted then .trap (recordedCause hd) x
      else if hd.st = stThunk then
        match freeEval s s.myCore with
        | none => effectDone s gd 0
        | some e => effectDone (evalRecord s e s.me.region s.me.ctx false none x r hd) gd 0
      else effectDone s gd 0)

/-- A cluster's spark pool. -/
def sparksOf (s : State) (cl : Nat) : List Spark := (mapGet s.sparks cl).getD []

/-- SPARK (R216). -/
def execSpark (gd ga : Reg) (s : State) : Host.Outcome State Fault Refusal :=
  conclude s (
    (readG s ga).andThen fun x s =>
    (handleEff s x).andThen fun v s =>
    let cl := clusterOf s s.myCore
    let pool := sparksOf s cl
    match v with
    | .tile _ => writeDone s gd 0
    | .record _ hd =>
      if hd.st = stThunk ∧ pool.length < s.policy.sparkPool then
        effectDone { s with sparks := mapPut s.sparks cl (pool ++ [⟨x, (s.core s.myCore).part.toNat, s.me.ctx⟩]) } gd 1
      else effectDone s gd 0)

/-- RETAIN (R219). -/
def execRetain (ga : Reg) (s : State) : Host.Outcome State Fault Refusal :=
  conclude s (
    (readG s ga).andThen fun x s =>
    (handleEff s x).andThen fun v s =>
    match v with
    | .tile _ => done s
    | .record r hd => done (if hd.refs = 65535 then s else putHeader s r { hd with refs := hd.refs + 1 }))

/-- A frame released that is no longer held: the count of frames is undefined (R219). -/
def scrambleFrames (s : State) (rg : Nat) : State :=
  let (v, s) := s.draw
  s.modRegion rg (fun g => { g with budgets := g.budgets.set 3 { g.budgets[3] with count := v.toNat } })

/-- RELEASE (R219). A handle in the frame arena that is no held frame's base is a second release (log entry 120). -/
def execRelease (ga : Reg) (s : State) : Host.Outcome State Fault Refusal :=
  conclude s (
    (readG s ga).andThen fun x s =>
    (handleEff s x).andThen fun v s =>
    let rg := s.me.region
    match v with
    | .tile a =>
      if inRange s a (s.region rg).frmBase (s.region rg).frmSize then
        if s.frames.contains (rg, a) then done (returnFrame s rg a)
        else if (s.region rg).debug then .trap .staleh x
        else done (scrambleFrames s rg)
      else done s
    | .record r hd => done (dropCount s rg r hd))

/-- MKVAL (R218). -/
def execMkval (gd ga : Reg) (s : State) : Host.Outcome State Fault Refusal :=
  conclude s (
    (readG s ga).andThen fun a s =>
    let dev := a.extractLsb' 54 9
    (check s (!(isLocal a) && (dev == 0x1FF || dev == s.dev) && a.extractLsb' 48 6 == 0) .prot a).andThen fun _ s =>
    (checkAlign s a 64).andThen fun _ s => writeDone s gd (mkHandle 1 s.me.region a 0))

/-- HSTATE (R220). -/
def execHstate (gd ga : Reg) (s : State) : Host.Outcome State Fault Refusal :=
  conclude s (
    (readG s ga).andThen fun x s =>
    match hType x with
    | 0 => writeDone s gd 0
    | 1 => if hRegion x = s.me.region then writeDone s gd 3 else .trap .prot x
    | 2 =>
      (match openRecord s s.who x with
        | .error c => .trap c x
        | .ok ((_, hd), s) => effectDone s gd (if hd.st = stFree ∨ hd.gen ≠ hGen x then 0 else hd.word))
    | _ => .trap .staleh x)

/-- An engine without evaluations takes the oldest spark of a resident context (R216): discarded unless it still names a
THUNK. -/
def execSparkTake (core : Nat) (s : State) : Host.Outcome State Fault Refusal :=
  .next (
    let cl := clusterOf s core
    let pool := sparksOf s cl
    let idle := (List.range 4).all (fun i => (s.eval (4 * core + i)).phase == .idle)
    if !idle || switchDue s core || s.halted.contains cl || (s.core core).stopped || !(isLiveCore s core) then s
    else
      match findIdx (fun p : Spark => p.part == (s.core core).part.toNat && p.ctx == residentCtx s core) pool with
      | none => s
      | some (i, ⟨x, _, ctx⟩) =>
        let s := { s with sparks := mapPut s.sparks cl (dropAt pool i) }
        match checkHandle s ⟨core, 8 * core, hRegion x⟩ x with
        | .ok (.record r hd, s') =>
          if hd.st = stThunk then evalRecord s' (4 * core) (hRegion x) ctx true none x r hd else s
        | _ => s)

/-- SPARK_DROP (R216). -/
def execSparkDrop (cluster i : Nat) (s : State) : Host.Outcome State Fault Refusal :=
  .next { s with sparks := mapPut s.sparks cluster (dropAt (sparksOf s cluster) i) }

/-- A wake reaches a slot that sleeps on the record (R213): a value and a retry let it look again. -/
def wakeSlot (s : State) (slot : Nat) (w : Wake) : State :=
  let back := match w.what with
    | .handle v => returnFrame s (hRegion v) (hAddr v)
    | _ => s
  match (s.slot slot).status with
  | .asleep z =>
    if z.kind = .thunk w.hdl then
      match w.what with
      | .value | .retry => answer s slot (.val 0)
      | .handle v => answer s slot (.val v)
      | .fault c v => answer s slot (.fault c v)
      | .staleh => answer s slot (.fault .staleh w.hdl)
    else back
  | _ => back

/-- A wake reaches a parked evaluation (R212, R214). -/
def wakeEval (s : State) (e : Nat) (w : Wake) : State :=
  if evalLink s e = w.to_ ∧ (s.eval e).phase = .parked w.hdl then
    match w.what with
    | .fault c v => failEval s e c v
    | .staleh => failEval s e .staleh w.hdl
    | _ => goOn s e
  else s

/-- Whether the cluster of an evaluation's engine is halted: the engine stops between the steps of R211 (R380). -/
def evalHalted (s : State) (e : Nat) : Bool := s.halted.contains (clusterOf s (e / 4))

/-- EVAL_WAKE (R212). -/
def execEvalWake (i : Nat) (s : State) : Host.Outcome State Fault Refusal :=
  .next (
    match s.wakes[i]? with
    | none => s
    | some w =>
      let t := { s with wakes := dropAt s.wakes i }
      if (w.to_.extractLsb' 62 2).toNat = 1 then wakeSlot t (linkNum w.to_) w
      else if evalHalted s (linkNum w.to_) then s
      else wakeEval t (linkNum w.to_) w)

/-- FRAME_GRANT (R211): an evaluation that waits for a frame, or for room in its queue, tries again. -/
def execFrameGrant (ev : Nat) (s : State) : Host.Outcome State Fault Refusal :=
  .next (
    match (s.eval ev).phase, (s.eval ev).stack with
    | .frame, f :: rest => if evalHalted s ev then s else issueEval s ev f rest
    | _, _ => s)

/-- The top record of a stack becomes VALUE, or FREE where it is marked to free (R204, R208, R211). -/
def finishRecord (s : State) (e : Nat) (f : EvalFrame) (a : Word) : State :=
  let rg := (s.eval e).region
  match recAt s (e / 4) (hAddr f.hdl) with
  | none => recMiss s (e / 4) (hAddr f.hdl)
  | some (r, s) =>
    let (hd, s) := recHeader s r
    let s := refund s rg [(.pins, pinned f.ops)]
    let s := (f.ops.filter (fun x => hType x == 2)).foldl (fun s x => dropRef s (e / 4) x) s
    let s := [24, 32, 40, 48, 56].foldl (fun s o => recWrite s r o 0) s
    let s := recWrite s r 16 a
    let hd' : Header := { hd with st := stValue, evid := 0 }
    if s.doomed.contains r.p then wakeWaiters (freeRecord s rg r hd') r f.hdl .staleh
    else wakeWaiters (putHeader s r hd') r f.hdl .value

/-- The handle of a strict SUSPEND goes to its slot, or its frame back to the region where the slot has gone (R208). -/
def finishStrict (s : State) (e : Nat) (a : Word) : State :=
  let v := s.eval e
  match v.waiter with
  | some i => sendWake s (slotLink i) 0 (.handle (mkHandle 1 v.region a 0))
  | none => returnFrame s v.region a

/-- The command of the top of a stack has faulted (R214): a strict SUSPEND's has no handle to name, so its TVAL is a free
value. -/
def failTop (s : State) (e : Nat) (f : EvalFrame) (c : Cause) : State :=
  if f.hdl = 0 then
    let (tval, s) := s.draw
    failEval s e c tval
  else failEval s e c f.hdl

/-- The command of the top of a stack has left its result (R208, R211). -/
def finishTop (s : State) (e : Nat) (f : EvalFrame) : State :=
  let a := f.frame.getD 0
  if f.hdl = 0 then finishStrict s e a else finishRecord s e f a

/-- EVAL_COMMAND_COMPLETE (R211). -/
def execEvalCommandComplete (ev : Nat) (s : State) : Host.Outcome State Fault Refusal :=
  .next (
    let v := s.eval ev
    if evalHalted s ev then s
    else match v.phase, v.done, v.stack with
    | .command, some (some c), f :: _ => failTop s ev f c
    | .command, some none, f :: rest =>
      let s := (finishTop s ev f).modEval ev (fun v => { v with stack := rest, done := none })
      if rest.isEmpty then endEval s ev else goOn s ev
    | .command, some _, [] => endEval s ev
    | _, _, _ => s)

/-- REFERENCE_DROP (R219). -/
def execReferenceDrop (i : Nat) (s : State) : Host.Outcome State Fault Refusal :=
  .next (
    match s.refDrops[i]? with
    | none => s
    | some x => dropRef { s with refDrops := dropAt s.refDrops i } 0 x)

/-- A parked evaluation leaves the list of the record it waits for. -/
def unpark (s : State) (e : Nat) : State :=
  match (s.eval e).phase with
  | .parked x =>
    (match recAt s (e / 4) (hAddr x) with
      | some (r, s) => leaveWaiters s r (evalLink s e)
      | none => recMiss s (e / 4) (hAddr x))
  | _ => s

/-- An evaluation abandoned at a switch-out (R222): a command that has finished counts, commands that have not started leave
the queues, and the other records become THUNK again. -/
def abandonEval (s : State) (e : Nat) : State :=
  let s := unpark s e
  let v := s.eval e
  let s := s.modCore (e / 4) (fun k => { k with
    qn := k.qn.filter (fun c => c.eval != some e), qp := k.qp.filter (fun c => c.eval != some e) })
  let unwind := fun (s : State) (fs : List EvalFrame) =>
    endEval (fs.foldl (fun s f => unwindRecord s (e / 4) v.region none none f) s) e
  match v.done, v.stack with
  | some (some c), f :: _ => failTop s e f c
  | some none, f :: rest => unwind (finishTop s e f) rest
  | _, fs => unwind s fs

/-- The evaluations of a context on some cores of a partition, and its sparks (R222). -/
def abandonEvals (s : State) (cores : List Nat) (part ctx : Nat) : State :=
  let mine := (s.evals.filter (fun e => e.2.phase != .idle && e.2.ctx == ctx && cores.contains (e.1 / 4))).map Prod.fst
  let s := mine.foldl abandonEval s
  { s with sparks := s.sparks.map (fun (e : Nat × List Spark) => (e.1, e.2.filter (fun p => !(p.part == part && p.ctx == ctx)))) }

end Sys2Proof.Machine
end

