-- ==== Sys2Proof/Machine/Shuffle.lean ====
section
/-! DEFINITION. Shuffle groups, coding and delivery (R310 to R322), dispatch to experts (R323, R324) and SHQ (R325). -/

namespace Sys2Proof.Machine

/-- Who an I/O die acts for: a slot and a region. -/
def ioWho (slot region : Nat) : Who := ⟨eastDie, slot, region⟩

/-- A read by the device itself, line by line (R111). -/
def ioReads (s : State) (w : Who) (acc : List Byte) : List (Word × Nat) → Except (Cause × Word) (List Byte × State)
  | [] => .ok (acc, s)
  | (a, n) :: ps =>
    match accessLoc s w a n .load with
    | .error c => .error (c, a)
    | .ok (.home p h, s) =>
      let s := touchLine s (p / 128) h
      if (s.line (p / 128)).poison then .error (.poison, a)
      else
        let (bs, s) := homeBytes s a p h n
        ioReads s w (acc ++ bs) ps
    | .ok (.bank k, s) => ioReads s w (acc ++ readBytes s.mem k n) ps
    | .ok (.away _, s) =>
      let (bs, s) := s.drawBytes n
      ioReads s w (acc ++ bs) ps

/-- A read of a byte range by the device itself. -/
def ioRead (s : State) (w : Who) (a : Word) (n : Nat) : Except (Cause × Word) (List Byte × State) :=
  ioReads s w [] (piecesOf a n)

/-- A plain write of a byte range by the device itself, checked before the first byte is written (R134). -/
def ioWrite (s : State) (w : Who) (a : Word) (bs : List Byte) : Except (Cause × Word) State :=
  let ws := lineWrites [(a, bs)]
  match ws.findSome? (fun x => match accessLoc s w x.1 x.2.length .store with
      | .error c => some (c, x.1)
      | .ok _ => none) with
  | some e => .error e
  | none => .ok (ws.foldl (fun s x => match accessLoc s w x.1 x.2.length .store with
      | .ok (.home p h, s) => plainStore s x.1 p h x.2
      | .ok (.bank k, s) => bankWrite s k x.2
      | .ok (.away b, s) => { s with outbox := s.outbox ++ [Out.write w.slot b x.2] }
      | .error _ => s) s)

/-- An imprecise record of the east I/O die (R360), on behalf of a device's slot. -/
def ioRecordFrom (dev : BitVec 9) (s : State) (w : Who) (c : Cause) (a : Word) : State :=
  s.sendRecord { trapRec s 1 (causeCode c) 8 w.region w.slot 0 a 0 with dev := dev }

/-- A write on behalf of a device's slot, whose fault becomes an imprecise record (log entry 20). -/
def ioPutFrom (dev : BitVec 9) (s : State) (w : Who) (a : Word) (bs : List Byte) : State :=
  match ioWrite s w a bs with
  | .ok s => s
  | .error (c, b) => ioRecordFrom dev (afterWalk s w b) w c b

/-- Such a write on behalf of a slot of this device. -/
def ioPut (s : State) (w : Who) (a : Word) (bs : List Byte) : State := ioPutFrom s.dev s w a bs

/-- How early a cause stands in the order of R129. -/
def accessRank (c : Cause) : Nat :=
  match c with
  | .prot => 0
  | .fatalhw => 1
  | .outside => 2
  | _ => 3

/-- The first fault of a range in the order of R129, and its address. -/
def rangeFault (s : State) (w : Who) (a : Word) (n : Nat) (need : Need) : Option (Cause × Word) :=
  let fs := (piecesOf a n).filterMap (fun p => match accessLoc s w p.1 p.2 need with
    | .error c => some (c, p.1)
    | .ok _ => none)
  fs.foldl (fun m f => match m with
    | some g => if accessRank f.1 < accessRank g.1 then some f else some g
    | none => some f) none

/-- Loads of a slot, one line after another. -/
def loadPieces (s : State) (acc : List Byte) : List (Word × Nat) → Eff (List Byte)
  | [] => .ok acc s
  | (a, n) :: ps => (loadBytes s a n true false).andThen fun bs s => loadPieces s (acc ++ bs) ps

/-- A load of a byte range by the slot whose turn it is. -/
def loadRange (s : State) (a : Word) (n : Nat) : Eff (List Byte) := loadPieces s [] (piecesOf a n)

/-- A block word's group and destination (R314, R324). -/
def bwGrp (bw : Word) : Nat := (bw.extractLsb' 0 6).toNat

/-- See bwGrp. -/
def bwDst (bw : Word) : Nat := (bw.extractLsb' 8 3).toNat

/-- A block word's argument and block id (R314). -/
def bwArg (bw : Word) : Nat := (bw.extractLsb' 16 16).toNat

/-- See bwArg. -/
def bwBlk (bw : Word) : W32 := bw.extractLsb' 32 32

/-- The group that a word names, for the slot whose turn it is (R310); the word's own rules first (R314). -/
def groupFor (s : State) (bw : Word) (ok : Bool) : Eff Group :=
  match mapGet s.groups (bwGrp bw) with
  | some g => if ok && g.region == s.me.region then .ok g s else .trap .prot bw
  | none => .trap .prot bw

/-- The device of a member. -/
def memberDev (g : Group) (m : Nat) : Nat := g.devs.getD m 0

/-- Whether a member's device is absent (R109, R313). -/
def absent (s : State) (g : Group) (m : Nat) : Bool :=
  m != g.memb && !(isPresent s (BitVec.ofNat 9 (memberDev g m)))

/-- Whether a device that a group names is absent (R313; log entry 57). -/
def groupAbsent (s : State) (g : Group) : Bool := (List.range g.cnt).any (absent s g)

/-- The checks that follow the group's: the source's protection, the devices, and the source's other faults (R315, R317). -/
def sourceChecks (s : State) (bw src : Word) (n : Nat) (gone : Bool) (reads : Bool) : Eff Unit :=
  (if reads then (walkFirst s src).andThen fun _ s => walkFirst s (src + BitVec.ofNat 64 (n - 1)) else .ok () s).andThen fun _ s =>
  let f := if reads then rangeFault s s.who src n .load else none
  match f with
  | some (.prot, a) => .trap .prot a (fun s0 => afterWalk s0 s0.who a)
  | _ =>
    if gone then .trap .fatalhw bw
    else
      match f with
      | some (c, a) => .trap c a (fun s0 => afterWalk s0 s0.who a)
      | none => .ok () s

/-- The shelf's entry for a member's block. -/
def shelfAt (s : State) (grp memb : Nat) (blk : W32) : Option Shelved :=
  s.shelf.find? (fun e => e.grp == grp && e.memb == memb && e.blk == blk)

/-- The shelf without a member's block. -/
def unshelve (s : State) (grp memb : Nat) (blk : W32) : State :=
  { s with shelf := s.shelf.filter (fun e => !(e.grp == grp && e.memb == memb && e.blk == blk)) }

/-- Whether a receiver surely holds a block when a packet reaches it (R318). -/
def holds (s : State) (g : Group) (grp memb : Nat) (blk : W32) : Bool :=
  match shelfAt s grp memb blk with
  | some e =>
    let hops := Config.hops (memberDev g g.hub) (memberDev g memb)
    decide (s.time.toNat + 150 * hops + 50 + max 16 s.policy.margin ≤ e.until_.toNat)
  | none => false

/-- Whether some blocks may share a packet (R318). -/
def mayCombine (s : State) (g : Group) (ps : List Post) : Bool :=
  ps.zipIdx.all (fun x => ps.zipIdx.all (fun y =>
    x.2 == y.2 || (x.1.dst != y.1.dst && holds s g x.1.grp x.1.dst y.1.blk)))

/-- The bytes of two blocks, XORed. -/
def xorBytes (a b : List Byte) : List Byte := List.zipWith (fun x y => x ^^^ y) a b

/-- The places of a set of blocks with the one at place i that may share a packet (R318). -/
def setWith (s : State) (g : Group) (q : List (Queued × Nat)) (p : Queued) (i : Nat) : Option (List Nat) :=
  let others := q.filter (fun x => x.2 != i && x.1.post.grp == p.post.grp)
  (others.findSome? (fun x => others.findSome? (fun y =>
    if x.2 < y.2 ∧ mayCombine s g [p.post, x.1.post, y.1.post] then some [i, x.2, y.2] else none))).or
    (others.findSome? (fun x => if mayCombine s g [p.post, x.1.post] then some [i, x.2] else none))

/-- A packet for one receiver leaves the hub. -/
def sendPacket (s : State) (g : Group) (p : Packet) : State :=
  if p.memb = g.memb then { s with packets := s.packets ++ [p] }
  else { s with outbox := s.outbox ++ [Out.packet p (memberDev g p.memb)] }

/-- Blocks of a group among those queued or buffered (R311). -/
def ofGroup (grp : Nat) (qs : List Queued) : List Queued := qs.filter (fun q => q.post.grp == grp)

/-- A block joins its group's retransmit buffer; where that is full, the group's oldest leaves early (R311, R318). -/
def keepBlock (held : List Queued) (q : Queued) : List Queued :=
  let held := if (ofGroup q.post.grp held).length < 4096 then held
    else
      match findIdx (fun x : Queued => x.post.grp == q.post.grp) held with
      | some (i, _) => dropAt held i
      | none => held
  held ++ [q]

/-- Blocks leave the queue in one packet, and enter the retransmit buffer (R318). -/
def sendSet (s : State) (g : Group) (is : List Nat) : State :=
  let ps := is.filterMap (fun i => (s.codeQueue[i]?).map Queued.post)
  let bytes := match ps with
    | p :: rest => rest.foldl (fun b x => xorBytes b x.bytes) p.bytes
    | [] => []
  let s := ps.foldl (fun s p => sendPacket s g ⟨p.grp, p.region, p.dst, ps, bytes⟩) s
  { s with
    codeQueue := (s.codeQueue.zipIdx.filter (fun x => !(is.contains x.2))).map Prod.fst
    retransmit := ps.foldl (fun held p => keepBlock held ⟨p, s.time⟩) s.retransmit }

/-- One application of the coding rule: the first block that may leave, with whom (R318). -/
def codeOnce (s : State) (q : List (Queued × Nat)) : List (Queued × Nat) → Option State
  | [] => none
  | (p, i) :: rest =>
    match mapGet s.groups p.post.grp with
    | none => codeOnce s q rest
    | some g =>
      match setWith s g q p i with
      | some is => some (sendSet s g is)
      | none =>
        if p.time.toNat + min 4096 s.policy.window ≤ s.time.toNat then some (sendSet s g [i])
        else codeOnce s q rest

/-- The coding rule applied until nothing leaves (R318). -/
def codeAll (s : State) : Nat → State
  | 0 => s
  | fuel + 1 =>
    match codeOnce s s.codeQueue.zipIdx s.codeQueue.zipIdx with
    | some s => codeAll s fuel
    | none => s

/-- The coding rule after a change of the queue or the shelf. -/
def code (s : State) : State := codeAll s s.codeQueue.length

/-- A message to the hub of a group, on this device or another. -/
def toHub (s : State) (g : Group) (here : State → State) (out : Nat → Out) : State :=
  if g.hub = g.memb then here s else { s with outbox := s.outbox ++ [out (memberDev g g.hub)] }

/-- SHUF (R317). -/
def execShuf (gd ga gb : Reg) (s : State) : Host.Outcome State Fault Refusal :=
  conclude s (
    (readG s ga).andThen fun src s =>
    (readG s gb).andThen fun bw s =>
    match s.me.reply with
    | some (.fault c _) => .trap c bw
    | some (.val _) => writeDone s gd 0
    | none =>
      (checkAlign s src 64).andThen fun _ s =>
      (groupFor s bw (bw.extractLsb' 11 5 == 0 && bw.extractLsb' 6 2 == 0)).andThen fun g s =>
      (check s (decide (bwDst bw < g.cnt)) .prot bw).andThen fun _ s =>
      (sourceChecks s bw src 2048 (groupAbsent s g) true).andThen fun _ s =>
      released s 5 fun s =>
      (loadRange s src 2048).andThen fun bs s =>
      (probeG s gd).andThen fun _ s =>
      act s (fun s0 =>
        let p : Post := ⟨bwGrp bw, bwBlk bw, bwDst bw, bwArg bw, g.memb, s0.me.region, s0.cur, bs⟩
        (toHub s0 g (fun s => { s with posts := s.posts ++ [p] }) (fun d => Out.post p d)).sleepFor .shuf bw))

/-- A cupboard entry of this device for a block of a group, still valid (R315). -/
def heldBlock (s : State) (grp : Nat) (blk : W32) : Option CupEntry :=
  s.cupboard.find? (fun e => e.grp == grp && e.blk == blk && decide (s.time.toNat < e.until_.toNat))

/-- Free entries of the cupboard (R311, R321). -/
def cupFree (s : State) : Nat := 16384 - s.cupLost - s.cupboard.length

/-- The end of the lease that a SIDE asks for, from the time it issued (R314, R315). -/
def sideUntil (s : State) (bw : Word) : Word := s.me.since.getD s.time + BitVec.ofNat 64 (max 64 (bwArg bw))

/-- The later of two times. -/
def later (a b : Word) : Word := if a.toNat < b.toNat then b else a

/-- A SIDE's advertisement leaves, and the slot waits for the hub's answer. -/
def advertise (g : Group) (bw v : Word) (fresh : Bool) (s0 : State) : State :=
  let a : Advert := ⟨bwGrp bw, g.memb, bwBlk bw, v, s0.cur, s0.me.gen, fresh, false⟩
  (toHub s0 g (fun s => { s with adverts := s.adverts ++ [a] }) (fun d => Out.advert a d)).stall .reply

/-- The cupboard after the hub's answer to an advertisement of this device (R315): an entry that was taken for a refused one
is freed; a lease that was extended keeps its bytes longer. -/
def settleAdvert (s : State) (a : Advert) (st : Nat) : State :=
  let mine := fun (e : CupEntry) => e.grp == a.grp && e.blk == a.blk
  if st = 0 then
    { s with cupboard := s.cupboard.map (fun e =>
        if mine e then { e with until_ := later e.until_ a.until_, shown := true } else e) }
  else if a.fresh then { s with cupboard := s.cupboard.filter (fun e => !(mine e && e.until_ == a.until_)) }
  else s

/-- SIDE (R315). -/
def execSide (gd ga gb : Reg) (s : State) : Host.Outcome State Fault Refusal :=
  conclude s (
    (readG s ga).andThen fun src s =>
    (readG s gb).andThen fun bw s =>
    let v := sideUntil s bw
    match s.me.reply with
    | some (.val st) => writeDone s gd st
    | some (.fault c _) => .trap c bw
    | none =>
      (checkAlign s src 64).andThen fun _ s =>
      (groupFor s bw (bw.extractLsb' 6 10 == 0)).andThen fun g s =>
      match heldBlock s (bwGrp bw) (bwBlk bw) with
      | some e =>
        (sourceChecks s bw src 2048 (groupAbsent s g) false).andThen fun _ s =>
        (probeG s gd).andThen fun _ s => act s (advertise g bw (later v e.until_) false)
      | none =>
        (sourceChecks s bw src 2048 (groupAbsent s g) true).andThen fun _ s =>
        released s 5 fun s =>
        if cupFree s = 0 then writeDone s gd 1
        else
          (loadRange s src 2048).andThen fun bs s =>
          (probeG s gd).andThen fun _ s =>
          act s (fun s0 => advertise g bw v true { s0 with cupboard := s0.cupboard ++ [⟨bwGrp bw, bwBlk bw, v, bs, false⟩] }))

/-- The member is told that the hub no longer has a block on the shelf; its bytes stay (R316). -/
def unshow (s : State) (grp : Nat) (blk : W32) : State :=
  { s with cupboard := s.cupboard.map (fun e => if e.grp = grp ∧ e.blk = blk then { e with shown := false } else e) }

/-- UNSIDE (R316). -/
def execUnside (gd gb : Reg) (s : State) : Host.Outcome State Fault Refusal :=
  conclude s (
    (readG s gb).andThen fun bw s =>
    match s.me.reply with
    | some (.val st) => writeDone s gd st
    | some (.fault c _) => .trap c bw
    | none =>
      (groupFor s bw (bw.extractLsb' 6 26 == 0)).andThen fun g s =>
      (check s (!(groupAbsent s g)) .fatalhw bw).andThen fun _ s =>
      if g.hub = g.memb then
        let st : Word := if (shelfAt s (bwGrp bw) g.memb (bwBlk bw)).isSome then 0 else 1
        effectDone (code (unshelve s (bwGrp bw) g.memb (bwBlk bw))) gd st
      else
        (probeG s gd).andThen fun _ s =>
        act s (fun s0 => { s0 with
          outbox := s0.outbox ++ [Out.unside (bwGrp bw) g.memb (bwBlk bw) s0.cur (memberDev g g.hub)] }.stall .reply))

/-- DISP (R324): it faults as SHUF does, so its sleep has SHUF's limit (log entry 88). -/
def execDisp (gd ga gb : Reg) (s : State) : Host.Outcome State Fault Refusal :=
  conclude s (
    (readG s ga).andThen fun src s =>
    (readG s gb).andThen fun mask s =>
    (readG s gd).andThen fun dw s =>
    match s.me.reply with
    | some (.fault c _) => .trap c dw
    | some (.val _) => writeDone s gd 0
    | none =>
      let n := 64 * ((dw.extractLsb' 11 5).toNat + 1)
      (checkAlign s src 64).andThen fun _ s =>
      (groupFor s dw (dw.extractLsb' 32 32 == 0 && dw.extractLsb' 6 2 == 0)).andThen fun g s =>
      (check s (decide (bwDst dw < g.cnt)) .prot dw).andThen fun _ s =>
      (sourceChecks s dw src n (groupAbsent s g) (mask != 0)).andThen fun _ s =>
      if mask = 0 then writeDone s gd 1
      else
        released s 5 fun s =>
        (loadRange s src n).andThen fun bs s =>
        (probeG s gd).andThen fun _ s =>
        act s (fun s0 =>
          let r : DispRow := ⟨bwGrp dw, bs, mask, bwArg dw, g.memb, dw, s0.cur, s0.me.gen, s0.dev⟩
          (if bwDst dw = g.memb then { s0 with rows := s0.rows ++ [r] }
            else { s0 with outbox := s0.outbox ++ [Out.row r (memberDev g (bwDst dw))] }).sleepFor .shuf dw))

/-- Live shelf entries of this member, and blocks of its own that the hub has not sent (R325). With the hub on another
device, the member knows the entries that the hub has told it of, and of its blocks those not accepted; how many of the
others the hub has not sent is a free value, of those accepted since and those not sent when it was last read (log entry 21). -/
def hubView (s : State) (g : Group) (grp : Nat) : (BitVec 15 × BitVec 16) × State :=
  let mine := fun (p : Post) => p.grp == grp && p.sender == g.memb
  let live := fun (t : Word) => decide (s.time.toNat < t.toNat)
  let away := s.outbox.filter (fun o => match o with
    | .post p _ => mine p
    | _ => false)
  let known := (s.posts.filter mine).length + (s.refused.filter mine).length + away.length
  if g.hub = g.memb then
    ((BitVec.ofNat 15 ((s.shelf.filter (fun e => e.grp == grp && e.memb == g.memb && live e.until_)).length),
      BitVec.ofNat 16 (min (known + (s.codeQueue.filter (fun q => mine q.post)).length) 65535)), s)
  else
    let (v, s) := s.draw
    let held := v.toNat % (min 1024 ((mapGet s.accepted grp).getD 0) + 1)
    ((BitVec.ofNat 15 ((s.cupboard.filter (fun e => e.grp == grp && e.shown && live e.until_)).length),
      BitVec.ofNat 16 (min (known + held) 65535)), { s with accepted := mapPut s.accepted grp held })

/-- SHQ (R325). -/
def execShq (gd ga : Reg) (s : State) : Host.Outcome State Fault Refusal :=
  conclude s (
    (readG s ga).andThen fun x s =>
    match mapGet s.groups (bwGrp x) with
    | none => writeDone s gd 0
    | some g =>
      if g.region = s.me.region then
        let (v, s) := hubView s g (bwGrp x)
        writeDone s gd (1#1 ++ BitVec.ofBool (g.hub == g.memb) ++ 0#16 ++ BitVec.ofNat 15 (cupFree s) ++ v.1 ++ v.2)
      else writeDone s gd 0)

/-- The answer to a member's slot: on this device, where its task is still there, or by the network. -/
def ackSlot (s : State) (dev : BitVec 9) (slot : Nat) (gen : Byte) (v : Nat) : State :=
  if isHere s dev then
    if (s.slot slot).gen ≠ gen then s
    else
      match (s.slot slot).status with
      | .waiting .reply => answer s slot (.val (BitVec.ofNat 64 v))
      | .asleep z => if z.kind = .shuf then answer s slot (.val (BitVec.ofNat 64 v)) else s
      | _ => s
  else { s with outbox := s.outbox ++ [Out.reply dev (BitVec.ofNat 14 slot) (.value [BitVec.ofNat 8 v])] }

/-- The device of a member that sent a message: this one's own where the group has it here. -/
def senderDev (s : State) (grp memb : Nat) : BitVec 9 :=
  match mapGet s.groups grp with
  | some g => if memb = g.memb then 0x1FF else BitVec.ofNat 9 (memberDev g memb)
  | none => 0x1FF

/-- A device as a record's who names it (R360). -/
def recordDev (s : State) (d : BitVec 9) : BitVec 9 := if isHere s d then s.dev else d

/-- The hub's decision on an advertisement (R315), or on a member's request to drop one (R316, R321). -/
def takeAdvert (s : State) (a : Advert) : State :=
  let dev := senderDev s a.grp a.memb
  let rest := unshelve s a.grp a.memb a.blk
  if a.withdrawn then ackSlot (code rest) dev a.slot a.gen (if (shelfAt s a.grp a.memb a.blk).isSome then 0 else 1)
  else
    let st := if a.until_.toNat ≤ s.time.toNat + max 16 s.policy.margin then 2
      else if 65536 ≤ rest.shelf.length then 3 else 0
    let s := if st = 0 then code { rest with shelf := rest.shelf ++ [⟨a.grp, a.memb, a.blk, a.until_⟩] } else s
    ackSlot (if isHere s dev then settleAdvert s a st else s) dev a.slot a.gen st

/-- ADVERTISEMENT_ARRIVAL (R315). -/
def execAdvertisementArrival (src : Src Advert) (s : State) : Host.Outcome State Fault Refusal :=
  .next (
    match src with
    | .mine i =>
      (match s.adverts[i]? with
        | some a => takeAdvert { s with adverts := dropAt s.adverts i } a
        | none => s)
    | .outside a => takeAdvert s a)

/-- SHELF_EXPIRY (R315). -/
def execShelfExpiry (i : Nat) (s : State) : Host.Outcome State Fault Refusal :=
  .next (
    match s.shelf[i]? with
    | some e => if s.reached e.until_ then code { s with shelf := dropAt s.shelf i } else s
    | none => s)

/-- Whether an advertisement of a block that this member holds is on its way, so that its lease may be extended yet. -/
def extending (s : State) (e : CupEntry) : Bool :=
  let mine := fun (a : Advert) => a.grp == e.grp && a.blk == e.blk && !a.withdrawn
  s.adverts.any mine || s.outbox.any (fun o => match o with
    | .advert a _ => mine a
    | _ => false)

/-- CUPBOARD_EXPIRY (R315). -/
def execCupboardExpiry (i : Nat) (s : State) : Host.Outcome State Fault Refusal :=
  .next (
    match s.cupboard[i]? with
    | some e => if s.reached e.until_ && !(extending s e) then { s with cupboard := dropAt s.cupboard i } else s
    | none => s)

/-- A posted block reaches the hub (R317): it enters the coding queue, or is refused and its slot sends it again. -/
def takePost (s : State) (p : Post) : State :=
  let dev := senderDev s p.grp p.sender
  if (mapGet s.groups p.grp).isSome ∧ (ofGroup p.grp s.codeQueue).length < 1024 then
    code (ackSlot { s with codeQueue := s.codeQueue ++ [⟨p, s.time⟩] } dev p.slot (s.slot p.slot).gen 0)
  else if isHere s dev then { s with refused := s.refused ++ [p] }
  else ackSlot s dev p.slot 0 1

/-- BLOCK_POST_ARRIVAL (R317). -/
def execBlockPostArrival (src : Src Post) (s : State) : Host.Outcome State Fault Refusal :=
  .next (
    match src with
    | .mine i =>
      (match s.posts[i]? with
        | some p => takePost { s with posts := dropAt s.posts i } p
        | none => s)
    | .outside p => takePost s p)

/-- SHUF_RESEND (R317). -/
def execShufResend (slot : Nat) (s : State) : Host.Outcome State Fault Refusal :=
  .next (
    match findIdx (fun p : Post => p.slot == slot) s.refused with
    | some (i, p) =>
      let s := { s with refused := dropAt s.refused i }
      (match mapGet s.groups p.grp with
        | some g => toHub s g (fun s => { s with posts := s.posts ++ [p] }) (fun d => Out.post p d)
        | none => s)
    | none => s)

/-- CODING_WINDOW_EXPIRY (R318). -/
def execCodingWindowExpiry (s : State) : Host.Outcome State Fault Refusal := .next (code s)

/-- How long the hub holds a group's blocks (R311). -/
def holdTime (s : State) (grp : Nat) : Nat :=
  match mapGet s.groups grp with
  | none => s.policy.hold
  | some g =>
    let d := (List.range g.cnt).foldl (fun m i => max m (Config.hops (memberDev g g.hub) (memberDev g i))) 0
    max s.policy.hold (max 1024 (300 * d + 512))

/-- RETRANSMIT_RELEASE (R318). -/
def execRetransmitRelease (i : Nat) (s : State) : Host.Outcome State Fault Refusal :=
  .next (
    match s.retransmit[i]? with
    | some q =>
      if q.time.toNat + holdTime s q.post.grp ≤ s.time.toNat then { s with retransmit := dropAt s.retransmit i } else s
    | none => s)

/-- The count of a loss (R320), one strong access at its home, on behalf of the slot that sent the block (R412). A count word of
another device is updated there. -/
def countLost (s : State) (g : Group) (w : Who) (dev : BitVec 9) (slot : Nat) : State :=
  let up := fun (bs : List Byte) => bytesOf 8 ((wordOf bs + 1) ||| (1#64 <<< 63))
  match accessLoc s w g.rcv 8 .rmw with
  | .ok (.home p h, s) =>
    let s := touchLine s (p / 128) h
    if (s.line (p / 128)).poison then updateFault s dev (some h) .poison g.region slot g.rcv
    else if (mixedPart s p 8).isSome && (s.region g.region).debug then updateFault s dev (some h) .mixsize g.region slot g.rcv
    else
      let (bs, s) := strongBytes s g.rcv p h 8
      strongStore s g.rcv p h (up bs)
  | .ok (.bank k, s) => bankWrite s k (up (readBytes s.mem k 8))
  | .ok (.away b, s) => { s with outbox := s.outbox ++ [Out.message slot "LOST" [b]] }
  | .error c => updateFault (afterWalk s w g.rcv) dev none c g.region slot g.rcv

/-- Lost (R320): the record, and the count with its bit 63. -/
def lost (s : State) (g : Group) (c : Cause) (arg : Nat) (dev : BitVec 9) (slot : Nat) : State :=
  let w := ioWho 0 g.region
  countLost (ioRecordFrom s.dev s w c (g.rbase + BitVec.ofNat 64 (2048 * arg))) g w dev slot

/-- Deliver (R319): the bytes are written, then the count rises once for a block at an index. -/
def deliverBlock (s : State) (g : Group) (own : Post) (b : List Byte) : State :=
  let dev := recordDev s (senderDev s own.grp own.sender)
  if g.nrecv ≤ own.arg then lost s g .prot own.arg dev own.slot
  else
    let w := ioWho own.slot g.region
    match ioWrite s w (g.rbase + BitVec.ofNat 64 (2048 * own.arg)) b with
    | .error (c, a) => ioRecordFrom dev (afterWalk s w a) w c a
    | .ok s =>
      let key := (own.grp, own.blk, own.arg)
      if s.settled.contains key then s
      else notifyFrom dev { s with settled := s.settled ++ [key] } w g.rcv 1

/-- A NACK leaves for the hub (R319). -/
def sendNack (s : State) (g : Group) (n : Nack) : State :=
  toHub s g (fun s => { s with nacks := s.nacks ++ [n] }) (fun d => Out.nack n d)

/-- A packet decoded by its receiver (R319); one of a group that is gone or another region's is dropped. -/
def receivePacket (s : State) (p : Packet) : State :=
  match mapGet s.groups p.grp with
  | none => s
  | some g =>
    if g.region ≠ p.region then s
    else
      match p.comps.find? (fun c => c.dst == g.memb) with
      | none => s
      | some own =>
        let others := p.comps.filter (fun c => c.dst != g.memb)
        let mine := others.map (fun y => s.cupboard.find? (fun e => e.grp == p.grp && e.blk == y.blk))
        if mine.any Option.isNone then sendNack s g ⟨p.grp, g.memb, own.blk, own.arg, own.sender, own.slot⟩
        else deliverBlock s g own ((mine.filterMap id).foldl (fun b e => xorBytes b e.bytes) p.bytes)

/-- PACKET_RECEIVE (R319). -/
def execPacketReceive (src : Src Packet) (s : State) : Host.Outcome State Fault Refusal :=
  .next (
    match src with
    | .mine i =>
      (match s.packets[i]? with
        | some p => receivePacket { s with packets := dropAt s.packets i } p
        | none => s)
    | .outside p => receivePacket s p)

/-- The hub's answer to a NACK (R320). -/
def takeNack (s : State) (n : Nack) : State :=
  match mapGet s.groups n.grp with
  | none => s
  | some g =>
    match s.retransmit.find? (fun q =>
        q.post.grp == n.grp && q.post.dst == n.memb && q.post.blk == n.blk && q.post.arg == n.arg) with
    | some q => sendPacket s g ⟨n.grp, q.post.region, n.memb, [q.post], q.post.bytes⟩
    | none =>
      if n.memb = g.memb then { s with losses := s.losses ++ [n] }
      else { s with outbox := s.outbox ++ [Out.loss n (memberDev g n.memb)] }

/-- NACK_ARRIVAL (R320). -/
def execNackArrival (src : Src Nack) (s : State) : Host.Outcome State Fault Refusal :=
  .next (
    match src with
    | .mine i =>
      (match s.nacks[i]? with
        | some n => takeNack { s with nacks := dropAt s.nacks i } n
        | none => s)
    | .outside n => takeNack s n)

/-- A loss notice at its receiver (R320). -/
def takeLoss (s : State) (n : Nack) : State :=
  match mapGet s.groups n.grp with
  | some g => if n.memb = g.memb then lost s g .decodemiss n.arg (recordDev s (senderDev s n.grp n.sender)) n.slot else s
  | none => s

/-- LOSS_NOTICE (R320). -/
def execLossNotice (src : Src Nack) (s : State) : Host.Outcome State Fault Refusal :=
  .next (
    match src with
    | .mine i =>
      (match s.losses[i]? with
        | some n => takeLoss { s with losses := dropAt s.losses i } n
        | none => s)
    | .outside n => takeLoss s n)

/-- The shelf entry of a block that this member loses goes, at a hub here or by a message to another device (R321). -/
def unshelveAtHub (s : State) (e : CupEntry) : State :=
  match mapGet s.groups e.grp with
  | none => s
  | some g =>
    toHub s g (fun s => code (unshelve s e.grp g.memb e.blk)) (fun d => Out.unside e.grp g.memb e.blk outsideSrc d)

/-- CUPBOARD_EVICTION (R321): an error retires an entry's storage, and its shelf entry goes. -/
def execCupboardEviction (i : Nat) (s : State) : Host.Outcome State Fault Refusal :=
  .next (
    match s.cupboard[i]? with
    | none => s
    | some e => unshelveAtHub { s with cupboard := dropAt s.cupboard i, cupLost := s.cupLost + 1 } e)

/-- The experts that a row names and that have an entry (R324). -/
def namedExperts (s : State) (mask : Word) : List Nat :=
  (List.range 64).filter (fun e => mask.getLsbD e && (mapGet s.experts e).isSome)

/-- The acknowledgement of a dispatched row, after the last placement (R324). -/
def ackRow (s : State) (r : DispRow) : State :=
  if s.places.any (fun p => p.row.dev == r.dev && p.row.slot == r.slot) then s else ackSlot s r.dev r.slot r.gen 0

/-- A row reaches its destination (R324): the bits of absent experts are dropped with one record, and each die named
takes it once. -/
def takeRow (s : State) (r : DispRow) : State :=
  let es := namedExperts s r.mask
  let gone := (List.range 64).any (fun e => r.mask.getLsbD e && (mapGet s.experts e).isNone)
  let region := match mapGet s.groups r.grp with
    | some g => g.region
    | none => 0
  let s := if gone then ioRecordFrom (recordDev s r.dev) s (ioWho r.slot region) .prot r.dw else s
  let dieOfExpert := fun (e : Nat) => ((mapGet s.experts e).map Expert.die).getD 0
  let ps := (List.range 8).filterMap (fun d =>
    match es.filter (fun e => dieOfExpert e == d) with
    | [] => none
    | xs => some (PlaceReq.mk r xs))
  ackRow { s with places := s.places ++ ps } r

/-- DISPATCH_ARRIVAL (R324). -/
def execDispatchArrival (src : Src DispRow) (s : State) : Host.Outcome State Fault Refusal :=
  .next (
    match src with
    | .mine i =>
      (match s.rows[i]? with
        | some r => takeRow { s with rows := dropAt s.rows i } r
        | none => s)
    | .outside r => takeRow s r)

/-- A placement's key as its index list word holds it (R323). -/
def keyBytes (r : DispRow) : List Byte := bytesOfNat 4 (r.tok % 65536 + 65536 * (r.memb % 8))

/-- How keys compare: token first, then source member (R324). -/
def keyRank (tok memb : Nat) : Nat := tok * 8 + memb

/-- The slot of an expert whose key is greatest, with its rank. -/
def greatestKey (idx : List Byte) : Nat → Option (Nat × Nat)
  | 0 => none
  | n + 1 =>
    let w := w32At idx (4 * n)
    let k := keyRank (w.extractLsb' 0 16).toNat (w.extractLsb' 16 3).toNat
    match greatestKey idx n with
    | some (i, m) => if m < k then some (n, k) else some (i, m)
    | none => some (n, k)

/-- put (R324). -/
def putRow (s : State) (w : Who) (e : Expert) (r : DispRow) (slot : Nat) : State :=
  let s := ioPutFrom (recordDev s r.dev) s w (e.rbase + BitVec.ofNat 64 (2048 * slot)) r.row
  ioPutFrom (recordDev s r.dev) s w (e.ilist + BitVec.ofNat 64 (4 * slot)) (keyBytes r)

/-- Place (R324). -/
def place (s : State) (e : Nat) (r : DispRow) : State :=
  match mapGet s.experts e with
  | none => s
  | some x =>
    let w := ioWho r.slot x.region
    let dev := recordDev s r.dev
    if x.kept < x.cap then
      let s := putRow { s with experts := mapPut s.experts e { x with kept := x.kept + 1 } } w x r x.kept
      notifyFrom dev s w x.cnt 1
    else
      match ioRead s w x.ilist (4 * x.cap) with
      | .error (c, a) => notifyFrom dev (ioRecordFrom dev (afterWalk s w a) w c a) w x.ovf 1
      | .ok (idx, s) =>
        match greatestKey idx x.cap with
        | some (slot, k) => notifyFrom dev (if keyRank r.tok r.memb < k then putRow s w x r slot else s) w x.ovf 1
        | none => notifyFrom dev s w x.ovf 1

/-- PLACE (R324): the next expert of a die. -/
def execPlaceRow (i : Nat) (s : State) : Host.Outcome State Fault Refusal :=
  .next (
    match s.places[i]? with
    | none => s
    | some q =>
      match q.experts with
      | [] => ackRow { s with places := dropAt s.places i } q.row
      | e :: rest =>
        let s := place s e q.row
        if rest.isEmpty then ackRow { s with places := dropAt s.places i } q.row
        else { s with places := s.places.set i { q with experts := rest } })

/-- The groups and experts of a region go, with their shelf, cupboard and hub entries (R321, R347). -/
def endShuffle (s : State) (r : Nat) : State :=
  let gone := (s.groups.filter (fun e => e.2.region == r)).map Prod.fst
  let s := (s.cupboard.filter (fun e => gone.contains e.grp)).foldl unshelveAtHub s
  { s with
    groups := s.groups.filter (fun e => e.2.region != r)
    experts := s.experts.filter (fun e => e.2.region != r)
    shelf := s.shelf.filter (fun e => !(gone.contains e.grp))
    cupboard := s.cupboard.filter (fun e => !(gone.contains e.grp))
    codeQueue := s.codeQueue.filter (fun q => !(gone.contains q.post.grp))
    retransmit := s.retransmit.filter (fun q => !(gone.contains q.post.grp))
    settled := s.settled.filter (fun k => !(gone.contains k.1))
    accepted := s.accepted.filter (fun k => !(gone.contains k.1)) }

end Sys2Proof.Machine
end

