-- ==== Sys2Proof/Machine/Journal.lean ====
section
/-! DEFINITION. The journal (R392, R393) with the SHA-256 digest of its commands (FIPS 180-4), and the refusal ring
(R391). -/

namespace Sys2Proof.Machine

/-- The round constants of SHA-256. -/
def shaK : List W32 :=
  [0x428A2F98, 0x71374491, 0xB5C0FBCF, 0xE9B5DBA5, 0x3956C25B, 0x59F111F1, 0x923F82A4, 0xAB1C5ED5,
   0xD807AA98, 0x12835B01, 0x243185BE, 0x550C7DC3, 0x72BE5D74, 0x80DEB1FE, 0x9BDC06A7, 0xC19BF174] ++
  [0xE49B69C1, 0xEFBE4786, 0x0FC19DC6, 0x240CA1CC, 0x2DE92C6F, 0x4A7484AA, 0x5CB0A9DC, 0x76F988DA,
   0x983E5152, 0xA831C66D, 0xB00327C8, 0xBF597FC7, 0xC6E00BF3, 0xD5A79147, 0x06CA6351, 0x14292967] ++
  [0x27B70A85, 0x2E1B2138, 0x4D2C6DFC, 0x53380D13, 0x650A7354, 0x766A0ABB, 0x81C2C92E, 0x92722C85,
   0xA2BFE8A1, 0xA81A664B, 0xC24B8B70, 0xC76C51A3, 0xD192E819, 0xD6990624, 0xF40E3585, 0x106AA070] ++
  [0x19A4C116, 0x1E376C08, 0x2748774C, 0x34B0BCB5, 0x391C0CB3, 0x4ED8AA4A, 0x5B9CCA4F, 0x682E6FF3,
   0x748F82EE, 0x78A5636F, 0x84C87814, 0x8CC70208, 0x90BEFFFA, 0xA4506CEB, 0xBEF9A3F7, 0xC67178F2]

/-- The initial hash of SHA-256. -/
def shaH : List W32 :=
  [0x6A09E667, 0xBB67AE85, 0x3C6EF372, 0xA54FF53A, 0x510E527F, 0x9B05688C, 0x1F83D9AB, 0x5BE0CD19]


/-- A big-endian 32-bit word of a message. -/
def beWord (bs : List Byte) : W32 := BitVec.ofNat 32 (natOfBytes ((bs.take 4).reverse))

/-- The 16 words of a block. -/
def blockWords (bs : List Byte) : List W32 := (List.range 16).map (fun i => beWord (bs.drop (4 * i)))

/-- The small sigma functions of SHA-256. -/
def sig (a b c : Nat) (x : W32) : W32 := x.rotateRight a ^^^ x.rotateRight b ^^^ x >>> c

/-- The big sigma functions of SHA-256. -/
def bigSig (a b c : Nat) (x : W32) : W32 := x.rotateRight a ^^^ x.rotateRight b ^^^ x.rotateRight c

/-- The message schedule, newest word first. -/
def expand (ws : List W32) : Nat → List W32
  | 0 => ws
  | n + 1 =>
    let w := fun (i : Nat) => ws.getD i 0
    expand ((sig 17 19 10 (w 1) + w 6 + sig 7 18 3 (w 14) + w 15) :: ws) n

/-- One round. -/
def shaRound (h : List W32) (kw : W32 × W32) : List W32 :=
  match h with
  | [a, b, c, d, e, f, g, x] =>
    let t1 := x + bigSig 6 11 25 e + ((e &&& f) ^^^ (~~~e &&& g)) + kw.1 + kw.2
    let t2 := bigSig 2 13 22 a + ((a &&& b) ^^^ (a &&& c) ^^^ (b &&& c))
    [t1 + t2, a, b, c, d + t1, e, f, g]
  | h => h

/-- The compression of one block. -/
def shaBlock (h : List W32) (bs : List Byte) : List W32 :=
  let ws := (expand (blockWords bs).reverse 48).reverse
  List.zipWith (fun x y => x + y) h ((shaK.zip ws).foldl shaRound h)

/-- A message padded to whole blocks. -/
def shaPad (bs : List Byte) : List Byte :=
  bs ++ [0x80] ++ List.replicate ((119 - bs.length % 64) % 64) 0 ++ (bytesOfNat 8 (8 * bs.length)).reverse

/-- The blocks of a padded message. -/
def shaBlocks (h : List W32) (bs : List Byte) : Nat → List W32
  | 0 => h
  | n + 1 => shaBlocks (shaBlock h (bs.take 64)) (bs.drop 64) n

/-- SHA-256. -/
def sha256 (bs : List Byte) : List Byte :=
  (shaBlocks shaH (shaPad bs) ((shaPad bs).length / 64)).flatMap (fun w => (bytesOfNat 4 w.toNat).reverse)

/-- A journal entry appended (R392, R393). -/
def journal (s : State) (region : Nat) (op status : Nat) (tag : W32) (digest : List Byte) : State :=
  let bs := bytesOfNat 8 s.jhead ++ bytesOf 8 s.time ++ digest ++ bytesOfNat 4 tag.toNat ++
    [BitVec.ofNat 8 status, BitVec.ofNat 8 op] ++ bytesOfNat 2 region ++ List.replicate 8 0
  { rawWrite s (s.jbase.toNat + 64 * (s.jhead % 262144)) bs with jhead := s.jhead + 1 }

/-- A journal entry for a device event (R392). -/
def journalEvent (s : State) (region status : Nat) (tag : W32) : State :=
  journal s region 0 status tag (List.replicate 32 0)

/-- A refusal (R391): the ring's entry and RFCNT. -/
def refuse (s : State) (tag : W32) (code : Nat) : State :=
  let n := s.rfcnt + 1
  { s with
    rfcnt := n
    refusals := mapPut s.refusals (n % 64) (tag ++ BitVec.ofNat 24 n ++ BitVec.ofNat 8 code) }

/-- The aligned 8 bytes that the host reads at an offset of BAR0 (R391): JBASE, JHEAD, DISC, RFCNT, the refusal ring, and 0
elsewhere. -/
def portWord (s : State) (off : Nat) : Word :=
  match off with
  | 0x1000 => s.jbase
  | 0x1008 => BitVec.ofNat 64 s.jhead
  | 0x1010 => BitVec.ofNat 64 s.disc
  | 0x1018 => BitVec.ofNat 64 s.rfcnt
  | off => if 0x1100 ≤ off ∧ off < 0x1300 then (mapGet s.refusals ((off - 0x1100) / 8)).getD 0 else 0

/-- Bytes that the host reads of BAR0 (R391). -/
def portRead (s : State) (off n : Nat) : List Byte :=
  (List.range n).map (fun i => (bytesOf 8 (portWord s ((off + i) / 8 * 8))).getD ((off + i) % 8) 0)

/-- Bytes of device memory that the host reads through CXL.mem (R389, R391), the journal's among them. -/
def hostRead (s : State) (p n : Nat) : List Byte := readBytes s.mem p n

end Sys2Proof.Machine
end

