-- ==== Sys2Proof/Machine/Drawers.lean ====
section
/-! DEFINITION. The drawers of switched-out slots and cores (R344): what is written there, and what comes back where the drawer
area is too small for it, when all that R344 lists is undefined (R7; log entry 50). -/

namespace Sys2Proof.Machine

/-- Some things made of free values. -/
def drawMany {α : Type} (s : State) (one : State → α × State) : Nat → List α × State
  | 0 => ([], s)
  | n + 1 =>
    let (x, s) := one s
    let (xs, s) := drawMany s one n
    (x :: xs, s)

/-- An inbox entry that no one has sent. -/
def strayEntry (slot : Nat) (s : State) : InboxEntry × State :=
  let (h, s) := s.draw
  let (bs, s) := s.drawBytes 64
  (⟨slot, h, bs⟩, s)

/-- A stream, or none, that no one has bound. -/
def strayStream (s : State) : Option Stream × State :=
  let (ws, s) := s.drawWords 10
  let w := fun (i : Nat) => ws.getD i 0
  let low := fun (i : Nat) => (low32 (w i)).toNat
  let bit := fun (i : Nat) => (w 9).getLsbD i
  (if bit 0 then
      some ⟨w 0, w 1, low32 (w 2), low32 (w 3), low 4, low 5, (w 9).extractLsb' 4 2, bit 1, bit 2, bit 3, (w 9).extractLsb' 8 5,
        (w 9).extractLsb' 16 3, w 6, low 7, low32 (w 8), (w 9).toNat / 2 ^ 32⟩
    else none, s)

/-- Things under the numbers of their places, absent ones left out. -/
def placed {α : Type} (xs : List (Option α)) : SMap α := xs.zipIdx.filterMap (fun x => x.1.map (fun v => (x.2, v)))

/-- A slot's drawer that the area does not hold: its registers, pc, control registers, generation, batches, streams, FLAGS and
BARD state are undefined, and so are its inbox entries; its instruction is one that executes afresh. -/
def straySlot (s : State) (i : Nat) (sl : Slot) : Slot × List InboxEntry × State :=
  let (ws, s) := s.drawWords 57
  let w := fun (k : Nat) => ws.getD k 0
  let bits := w 56
  let (outstanding, s) := s.drawWords 15
  let (streams, s) := drawMany s strayStream 8
  let (inbox, s) := drawMany s (strayEntry i) ((w 55).toNat % 65)
  ({ clearProgress sl with
    g := Vector.ofFn (fun r : Fin 32 => if r.val = 0 then 0 else w r.val), pc := w 32, gen := (w 33).setWidth 8
    epc := w 34, cause := (w 35).setWidth 5, tval := w 36, tvec := w 37, tscr := w 38, inh := bits.getLsbD 0
    waitlim := low32 (w 39), fmta := (w 40).setWidth 4, fmtb := (w 41).setWidth 4, fmtc := (w 42).setWidth 4
    scla := w 43, sclb := w 44, sclc := w 45, round := bits.getLsbD 1, flags := bits.extractLsb' 2 3, migok := bits.getLsbD 5
    wp0 := ⟨bits.extractLsb' 8 2, w 46, w 47⟩, wp1 := ⟨bits.extractLsb' 10 2, w 48, w 49⟩
    streams := placed streams
    batchId := (w 50).toNat % 16, batchPending := (low32 (w 52)).toNat
    batches := placed (outstanding.map (fun b => if low32 b = 0 then none else some (low32 b).toNat))
    bardEpisode := bits.extractLsb' 12 2, bardRound := (w 53).toNat % 16
    bardNoted := (List.range 12).filter (fun r => bits.getLsbD (16 + r))
    status := match sl.status with
      | .parked h => .parked h
      | _ => .ready }, inbox, s)

/-- A tile command that no one has issued, of a slot of a core. -/
def strayCmd (c region ctx : Nat) (s : State) : TileCmd × State :=
  let (ws, s) := s.drawWords 18
  let w := fun (k : Nat) => ws.getD k 0
  let x := fun (k : Nat) => low32 (w k)
  let f := fun (o : Nat) => (w 16).extractLsb' o 4
  ({ words := ⟨x 0, x 1, x 2, x 3, x 4, x 5, x 6, x 7⟩, v1 := w 8, v2 := w 9, v3 := w 10, v6 := w 11
     fa := f 0, fb := f 4, fc := f 8, slot := 8 * c + (w 16).toNat / 2 ^ 32 % 8, region, ctx, at_ := w 12, mark := 0, batch := none
     scla := w 13, sclb := w 14, sclc := w 15, round := (w 17).getLsbD 0, eval := none, gen := (w 16).extractLsb' 16 8
     trig := none }, s)

/-- A core's drawer that the area does not hold: its accumulators, counters, latch, decode table, TABBASE, queues and the
position of a command under way are undefined. -/
def strayCore (s : State) (c region ctx : Nat) (v : CoreSave) : CoreSave × State :=
  let (ks, s) := s.drawWords 32
  let (as, s) := s.drawWords 4096
  let (ts, s) := s.drawWords 256
  let (ws, s) := s.drawWords 6
  let w := fun (k : Nat) => ws.getD k 0
  let (bs, s) := s.drawBytes (2048 * (1 + (w 0).toNat % 2))
  let (qn, s) := drawMany s (strayCmd c region ctx) ((w 2).toNat % (Config.tileQueue + 1))
  let (qp, s) := drawMany s (strayCmd c region ctx) ((w 3).toNat % (Config.tileQueue + 1))
  let at_ := fun (r : Running) (p : Word) => { r with block := p.toNat % 1024 }
  ({ v with
    k := Vector.ofFn (fun i : Fin 32 => low32 (ks.getD i.val 0))
    acc := as.zipIdx.map (fun a => (a.2, low32 a.1))
    latch := if (w 1).getLsbD 0 then some ⟨bs, 1 + (w 0).toNat % 2, (w 1).toNat / 2 % 4⟩ else none
    table := some (ts.map low32), tabbase := w 4, qn, qp
    matrix := { v.matrix with run := v.matrix.run.map (fun r => at_ r (w 5)) }
    copy := v.copy.map (fun r => at_ r (w 5)) }, s)

/-- Free bytes go to a drawer, whose inner layout the spec does not give (R344), as far as the drawer area holds it. -/
def writeDrawer (s : State) (w : Who) (off n : Nat) : State :=
  let g := s.region w.region
  let n := min n (g.drwSize.toNat - off)
  if g.drwBase = 0 ∨ n = 0 then s
  else
    let (bs, s) := s.drawBytes n
    match ioWrite s w (g.drwBase + BitVec.ofNat 64 off) bs with
    | .ok s => s
    | .error _ => s

/-- What a slot's drawer gives back (R344, R7). -/
def savedSlot (s : State) (i : Nat) (sl : Slot) (inbox : List InboxEntry) : Slot × List InboxEntry × State :=
  if 8192 * i + 8192 ≤ (s.region sl.region).drwSize.toNat then (sl, inbox, s) else straySlot s i sl

/-- Where the state of a core lies in a drawer area (R344). -/
def coreDrawerAt (c : Nat) : Nat := 2 ^ 26 + 32768 * c

/-- What a core's drawer gives back, in the drawer area of a region (R344, R7). -/
def savedCore (s : State) (ctx c region : Nat) (v : CoreSave) : CoreSave × State :=
  if coreDrawerAt (c + 1) ≤ (s.region region).drwSize.toNat then (v, s) else strayCore s c region ctx v

end Sys2Proof.Machine
end

