-- ==== Sys2Proof/Machine/Region.lean ====
section
/-! DEFINITION. Regions (R331 to R338), launches (R339 to R341), domain time (R342, R343), gang switches (R344 to R346)
and the end of a region (R334, R347). -/

namespace Sys2Proof.Machine

/-- A byte of a block as a number. -/
def byteNat (bs : List Byte) (o : Nat) : Nat := (bs.getD o 0).toNat

/-- A byte field that inherits where it holds 0xFF (R331, R333). -/
def inherit (bs : List Byte) (o parent : Nat) : Nat := if byteNat bs o = 255 then parent else byteNat bs o

/-- The entries of a residency table in a block (R332): addresses in this device's spelling. -/
def tableOfBlock (bs : List Byte) : Vector ResEntry 8 :=
  Vector.ofFn (fun i : Fin 8 =>
    let b := w64At bs (384 + 16 * i.val)
    ⟨b &&& ~~~(0xFFF : Word), w64At bs (392 + 16 * i.val), b.setWidth 2⟩)

/-- Whether a range lies in memory that a residency table covers, whatever its entries' states (R333). -/
def tableCovers (s : State) (t : List ResEntry) (cur end_ : Nat) : Nat → Bool
  | 0 => decide (end_ ≤ cur)
  | fuel + 1 =>
    if end_ ≤ cur then true
    else
      match t.find? (fun e => decide ((normAddr s e.base).toNat ≤ cur) && decide (cur < (normAddr s e.base).toNat + e.len.toNat)) with
      | some e => tableCovers s t ((normAddr s e.base).toNat + e.len.toNat) end_ fuel
      | none => false

/-- Whether a range of addresses is covered by a residency table. -/
def inTable (s : State) (t : Vector ResEntry 8) (a : Word) (n : Nat) : Bool :=
  tableCovers s t.toList (normAddr s a).toNat ((normAddr s a).toNat + n) 9

/-- Whether a range lies in one entry of a residency table (R340). -/
def inEntry (s : State) (t : Vector ResEntry 8) (a : Word) (n : Nat) : Bool :=
  t.toList.any (fun e => decide ((normAddr s e.base).toNat ≤ (normAddr s a).toNat) &&
    decide ((normAddr s a).toNat + n ≤ (normAddr s e.base).toNat + e.len.toNat))

/-- Whether every page of a range has a valid translation, none of it in the journal (R332, R338, R391). -/
def mapped (s : State) (va n : Nat) : Nat → Bool
  | 0 => decide (n = 0)
  | fuel + 1 =>
    if n = 0 then true
    else
      match leafFor s .west va with
      | .error _ => false
      | .ok ((leaf, bits), _) =>
        let k := min n (2 ^ bits - va % 2 ^ bits)
        let p := frameOf leaf bits va
        !(inJournal s p k) && mapped s (va + k) (n - k) fuel

/-- Whether a range can be under a residency lease (R332, R391): mapped, or of another device that is there. -/
def canLease (s : State) (b : Word) (n : Nat) : Bool :=
  !(b.getLsbD 63) && if devOf s b = 0x1FF then mapped s (vaOf b) n (n / 4096 + 2) else isPresent s (devOf s b)

/-- The bits of a handled mask that name a cause (R355, R357): the others are reserved and read as 0. -/
def handledBits : W32 := 0x801FFFFF

/-- A child's region from its block, where it meets R333; its number and place are set later. An entry that its block calls
resident is so only where its range can be under a lease (log entry 104). -/
def childRegion (s : State) (parent : Nat) (bs : List Byte) : Option Region :=
  let p := s.region parent
  let limit := fun (i : Fin 5) => if w64At bs (128 + 16 * i.val) = BitVec.allOnes 64 then p.budgets[i].limit else w64At bs (128 + 16 * i.val)
  let res := (tableOfBlock bs).map (fun e => if e.st = 2 ∧ canLease s e.base e.len.toNat = false then { e with st := 0 } else e)
  let own := fun (o : Nat) => w64At bs o
  let arena := fun (o : Nat) (pb ps : Word) => if own o = 0 then (pb, ps) else (own o, own (o + 8))
  let fits := fun (o : Nat) => own o == 0 || inTable s res (own o) (own (o + 8)).toNat
  let prio := inherit bs 10 p.prio
  let fdom := inherit bs 11 p.fdom
  let part := inherit bs 13 p.part
  let ctx := inherit bs 14 p.ctx
  let cap := inherit bs 208 p.cap
  let mshare := inherit bs 209 p.mshare
  let counts := (List.range 5).all (fun i => w64At bs (136 + 16 * i) == 0)
  if byteNat bs 12 = 0 ∧ counts ∧ (List.finRange 5).all (fun i => (limit i).toNat ≤ p.budgets[i].limit.toNat) ∧
      prio ≤ p.prio ∧ fdom < 255 ∧ part < 64 ∧ ctx < 4 ∧ 1 ≤ cap ∧ cap ≤ p.cap ∧ mshare ≤ 16 ∧
      fits 256 ∧ fits 272 ∧ fits 288 ∧ fits 304 then
    let rec_ := arena 256 p.recBase p.recSize
    let frm := arena 272 p.frmBase p.frmSize
    let shd := arena 288 p.shdBase p.shdSize
    let drw := arena 304 p.drwBase p.drwSize
    let budgets : Vector Budget 5 := Vector.ofFn (fun i => ⟨limit i, 0⟩)
    some ⟨0, none, parent, prio, fdom, .live, part, ctx, (bs.getD 15 0).getLsbD 0, w32At bs 16 &&& handledBits, w64At bs 24,
      Vector.replicate 8 0, budgets, cap, mshare, rec_.1, rec_.2, frm.1, frm.2, shd.1, shd.2, drw.1, drw.2, own 320, own 328, res⟩
  else none

/-- Whether a region number is in use. -/
def numberUsed (s : State) (n : Nat) : Bool := (s.region n).state == .live || (s.region n).state == .ending

/-- The lowest free region number from n up (R336). -/
def freeNumber (s : State) (n : Nat) : Nat → Option Nat
  | 0 => none
  | fuel + 1 => if numberUsed s n then freeNumber s (n + 1) fuel else some n

/-- A member's fault on the block that it reads has the block's address as TVAL (R348). -/
def atBlock {α : Type} (a : Word) (e : Eff α) : Eff α :=
  match e with
  | .trap c _ w => .trap c a w
  | e => e

/-- A member reads its block; at a switch-out one that waits for it is completed (R348). -/
def blockLoad (s : State) (a : Word) (n : Nat) : Eff (List Byte) :=
  let reading := fun (f : State → State) (s0 : State) => (f s0).modMe (fun sl => { sl with phase := 1 })
  match atBlock a (loadRange s a n) with
  | .wait f => .wait (reading f)
  | .pause f look => .pause (reading f) (reading look)
  | e => e

/-- A block written by hardware at its home is a write like any other to the snapshots that cover it (R297). -/
def shadowBlock (s : State) (r : RecAt) : State :=
  (List.range 4).foldl (fun s i => shadowStep (touchLine s (r.p / 128 + i) r.h) (r.a + BitVec.ofNat 64 (128 * i)) (r.p + 128 * i) r.h) s

/-- After a write that a slot's instruction makes to a region's block (R136, log entry 99); the root's block, named 0, lies in
no memory. -/
def endBlockLease (s : State) (a : Word) : State := if a = 0 then s else endRange s s.myCore a 512

/-- RCREATE (R336). -/
def execRcreate (gd ga : Reg) (s : State) : Host.Outcome State Fault Refusal :=
  conclude s (
    (readG s ga).andThen fun a s =>
    (checkAlign s a 512).andThen fun _ s =>
    (check s (!(isLocal a) && devOf s a == 0x1FF) .prot a).andThen fun _ s =>
    (atBlock a (sourceChecks s a a 512 false true)).andThen fun _ s =>
    released s 4 fun s =>
    (blockLoad s a 512).andThen fun bs s =>
    match childRegion s s.me.region bs with
    | none => writeDone s gd 0x8000000000000001
    | some g =>
      match freeNumber s 1 16383 with
      | none => writeDone s gd 0x8000000000000003
      | some n =>
        match recAt s s.myCore a with
        | none => .trap .outside a (fun s0 => afterWalk s0 s0.who a)
        | some (r, s) =>
          effectDone (putRegion (endBlockLease (shadowBlock s r) a) n { g with addr := a, phys := some r.p }) gd (BitVec.ofNat 64 n))

/-- The region that a member names (R335): the slot's own or one below it, and live. -/
def namedRegion (s : State) (a : Word) : Option Nat :=
  match regionAt s a with
  | some r => if isLive s r && isBelow s r s.me.region 16384 then some r else none
  | none => none

/-- Whether one of a block's lines holds poison (R348). -/
def blockPoisoned (s : State) (a : Word) : Bool :=
  match recAt s s.myCore a with
  | some (r, s) => (List.range 4).any (fun i => (s.line (r.p / 128 + i)).poison)
  | none => false

/-- The faults of a member that reads a control block (R348); the root's name, 0, reads none. -/
def blockChecks (s : State) (a : Word) : Eff Unit :=
  if a = 0 then .ok () s
  else
    (checkAlign s a 512).andThen fun _ s =>
    (atBlock a (sourceChecks s a a 512 false true)).andThen fun _ s => check s (!(blockPoisoned s a)) .poison a

/-- The current limit and count that RBUDGET's selector names in a region, and its parent's limit (R337). -/
def budgetOf (s : State) (r sel : Nat) : Nat × Nat × Nat :=
  let g := s.region r
  let p := if r = 0 then Region.root else s.region g.parent
  match sel with
  | 5 => (g.cap, 0, p.cap)
  | 6 => (g.mshare, 0, p.mshare)
  | i =>
    let i : Fin 5 := ⟨i % 5, Nat.mod_lt _ (by decide)⟩
    (g.budgets[i].limit.toNat, g.budgets[i].count, p.budgets[i].limit.toNat)

/-- A region with a limit written. -/
def setLimit (g : Region) (sel v : Nat) : Region :=
  match sel with
  | 5 => { g with cap := v }
  | 6 => { g with mshare := v }
  | i =>
    let i : Fin 5 := ⟨i % 5, Nat.mod_lt _ (by decide)⟩
    { g with budgets := g.budgets.set i { g.budgets[i] with limit := BitVec.ofNat 64 v } }

/-- RBUDGET (R337). -/
def execRbudget (gd ga gb : Reg) (s : State) : Host.Outcome State Fault Refusal :=
  conclude s (
    (readG s ga).andThen fun a s =>
    (readG s gb).andThen fun w s =>
    (blockChecks s a).andThen fun _ s =>
    match namedRegion s a with
    | none => writeDone s gd 2
    | some r =>
      let sel := (w.extractLsb' 0 3).toNat
      let v := (w.extractLsb' 8 56).toNat
      let b := budgetOf s r sel
      if sel = 7 ∨ v < b.2.1 then writeDone s gd 1
      else if b.2.2 < v then writeDone s gd 3
      else effectDone ((endBlockLease s a).modRegion r (fun g => setLimit g sel v)) gd 0)

/-- The entry of a region's table whose range contains an address (R338). -/
def entryAt (s : State) (r : Nat) (b : Word) : Option (Nat × ResEntry) :=
  findIdx (fun e : ResEntry => decide ((normAddr s e.base).toNat ≤ (normAddr s b).toNat) &&
    decide ((normAddr s b).toNat < (normAddr s e.base).toNat + e.len.toNat)) (s.region r).res.toList

/-- The entry whose range is exactly [b, b + n) (R338). -/
def entryExact (s : State) (r : Nat) (b n : Word) : Option (Nat × ResEntry) :=
  match entryAt s r b with
  | some (i, e) => if normAddr s e.base = normAddr s b ∧ e.len = n then some (i, e) else none
  | none => none

/-- An entry's state written. -/
def setEntry (s : State) (r i : Nat) (st : BitVec 2) : State :=
  s.modRegion r (fun g => { g with res := g.res.set (i % 8) { g.res[i % 8] with st } (Nat.mod_lt _ (by decide)) })

/-- An entry is requested of the scheduler (R338). -/
def requestEntry (s : State) (r i : Nat) : State :=
  let s := setEntry s r i 1
  { s with resReqs := if s.resReqs.contains (r, i) then s.resReqs else s.resReqs ++ [(r, i)] }

/-- A lease ends (R338), by the host or not (R309): no access finds the range under it any more; what it covered is settled
once the region's accesses are done. -/
def endLeaseOn (s : State) (r i : Nat) (st : BitVec 2) (host : Bool) : State :=
  let e := (s.region r).res[i % 8]'(Nat.mod_lt _ (by decide))
  let s := setEntry s r i st
  if e.st = 2 then { s with leaseEnds := s.leaseEnds ++ [⟨r, i, e.base, e.len.toNat, host⟩] } else s

/-- RESIDE REQ (R338). -/
def execResideReq (gd ga gb : Reg) (s : State) : Host.Outcome State Fault Refusal :=
  conclude s (
    (readG s ga).andThen fun b s =>
    (readG s gb).andThen fun n s =>
    match s.me.reply with
    | some (.val v) => writeDone s gd v
    | _ =>
      match entryExact s s.me.region b n with
      | none => writeDone s gd 1
      | some (i, e) =>
        match e.st.toNat with
        | 2 => writeDone s gd 0
        | 3 => writeDone s gd 3
        | _ => (probeG s gd).andThen fun _ s => act s (fun s0 => (requestEntry s0 s0.me.region i).sleepFor (.reside i) b))

/-- RESIDE REL (R338). -/
def execResideRel (gd ga gb : Reg) (s : State) : Host.Outcome State Fault Refusal :=
  conclude s (
    (readG s ga).andThen fun b s =>
    (readG s gb).andThen fun n s =>
    match entryExact s s.me.region b n with
    | none => writeDone s gd 1
    | some (i, e) => effectDone (if e.st = 2 then endLeaseOn s s.me.region i 0 false else s) gd 0)

/-- RESIDE QRY (R338). -/
def execResideQry (gd ga gb : Reg) (s : State) : Host.Outcome State Fault Refusal :=
  conclude s (
    (readG s ga).andThen fun b s =>
    (readG s gb).andThen fun _ s =>
    match entryAt s s.me.region b with
    | none => writeDone s gd 0xFF
    | some (i, e) => writeDone s gd ((BitVec.ofNat 3 i ++ 0#2 ++ e.st).setWidth 64))

/-- A read by the scheduler through the tables alone; none where it finds no translation or poison. -/
def schedReads (s : State) (acc : List Byte) : List (Word × Nat) → Option (List Byte × State)
  | [] => some (acc, s)
  | (a, n) :: ps =>
    if a.getLsbD 63 ∨ devOf s a ≠ 0x1FF then none
    else
      match leafFor s .west (vaOf a) with
      | .error _ => none
      | .ok ((leaf, bits), s) =>
        let p := frameOf leaf bits (vaOf a)
        if (s.line (p / 128)).poison then none else schedReads s (acc ++ readBytes s.mem p n) ps

/-- A read of a byte range by the scheduler. -/
def schedRead (s : State) (a : Word) (n : Nat) : Option (List Byte × State) := schedReads s [] (piecesOf a n)

/-- What a descriptor's address names (R339); address 0, where nothing is mapped, names nothing and reads as zeros (log
entry 97). -/
def descriptorRead (s : State) (a : Word) (n : Nat) : Option (List Byte) :=
  ((schedRead s a n).map Prod.fst).or (if a = 0 then some (List.replicate n 0) else none)

/-- An entry of a local image list (R87). -/
structure LocalImage where
  src : Word
  space : Nat
  off : Nat
  len : Nat
  zero : Bool
  deriving DecidableEq, Repr

/-- Whether bits that the list's layout calls reserved are clear in an entry: flags 7:1 and bytes 31:26 (log entry 91). -/
def reservedClear (bs : List Byte) : Bool := decide (byteNat bs 25 < 2) && ((bs.drop 26).take 6).all (fun b => b == 0)

/-- An entry read; none where it breaks R87. -/
def imageEntry (bs : List Byte) : Option LocalImage :=
  let space := byteNat bs 24
  let zero := (bs.getD 25 0).getLsbD 0
  let src := w64At bs 0
  let len := (w64At bs 16).toNat
  match isLocal (w64At bs 8), localSpace (w64At bs 8) with
  | true, some (sp, off) =>
    if space = sp ∧ reservedClear bs = true ∧ off + len ≤ spaceSize sp ∧ ¬(sp = 0 ∧ 0x3C000 < off + len) ∧ src.toNat % 64 = 0 ∧
        (zero → src = 0) then
      some ⟨src, space, off, len, zero⟩
    else none
  | _, _ => none

/-- Whether no two entries of one space overlap (R87); one of length zero counts (log entry 111). -/
def imagesApart : List LocalImage → Bool
  | [] => true
  | x :: xs => xs.all (fun y => x.space != y.space || decide (x.off + x.len ≤ y.off) || decide (y.off + y.len ≤ x.off)) &&
      imagesApart xs

/-- What a local image list comes to (R87): its entries, a breach of R87, or so many bytes that cannot be read. -/
inductive ImageList where
  | entries (es : List LocalImage)
  | broken
  | unread (n : Nat)

/-- A local image list (R87), empty for address 0. -/
def imageList (s : State) (limg : Word) : ImageList :=
  if limg = 0 then .entries []
  else
    match schedRead s limg 16 with
    | none => .unread 16
    | some (h, s) =>
      let n := (w32At h 0).toNat
      if 255 < n ∨ (h.drop 4).any (fun b => b != 0) then .broken
      else
        match schedRead s (limg + 16) (32 * n) with
        | none => .unread (16 + 32 * n)
        | some (bs, _) =>
          let es := (List.range n).map (fun i => imageEntry (bs.drop (32 * i)))
          if es.any Option.isNone || !(imagesApart (es.filterMap id)) then .broken else .entries (es.filterMap id)

/-- The entries of a list that could be read whole and keeps R87. -/
def ImageList.list : ImageList → List LocalImage
  | .entries es => es
  | _ => []

/-- The valid entries of an image of 64 entries of 64 bytes, with their numbers; none where it cannot be read (R341). -/
def tableImage (s : State) (a : Word) (valid : List Byte → Bool) : Option (List (Nat × List Byte)) :=
  if a = 0 then some []
  else if a.toNat % 4096 ≠ 0 then none
  else
    (schedRead s a 4096).map (fun r =>
      ((List.range 64).map (fun i => (i, (r.1.drop (64 * i)).take 64))).filter (fun e => valid e.2))

/-- A group entry of 64 bytes (R310). -/
def groupOf (bs : List Byte) : Group :=
  ⟨(List.range 8).map (fun m => (w32At bs (32 + 2 * m)).toNat % 65536), (w32At bs 24).toNat % 65536, byteNat bs 22, byteNat bs 21,
    byteNat bs 20, (w32At bs 16).toNat, w64At bs 8, w64At bs 0⟩

/-- An expert entry of 64 bytes (R323). -/
def expertOf (r : Nat) (bs : List Byte) : Expert :=
  let c := w64At bs 32
  ⟨r, (c.extractLsb' 16 3).toNat, (c.extractLsb' 0 16).toNat, w64At bs 24, w64At bs 16, w64At bs 8, w64At bs 0, 0⟩

/-- Whether a 16-bit device number names this device (R310). -/
def hereDev (s : State) (d : Nat) : Bool := decide (d < 512) && isHere s (BitVec.ofNat 9 d)

/-- Whether a 16-bit device number is of the domain (R341). -/
def inDomain (s : State) (d : Nat) : Bool := hereDev s d || decide (d < 512) && isPresent s (BitVec.ofNat 9 d)

/-- Whether another live region owns an entry, or has a held launch that will install one (R341). -/
def ownedElsewhere {α : Type} (s : State) (r n : Nat) (owner : Option Nat) (of_ : Launch → List (Nat × α)) : Bool :=
  (match owner with
    | some o => o != r && isLive s o
    | none => false) ||
    s.launches.any (fun l => l.region != r && isLive s l.region && (of_ l).any (fun e => e.1 == n))

/-- A group entry's checks (R341): the status, 0 where it passes. The address of an area of no bytes lies in the table too. -/
def groupStatus (s : State) (r n : Nat) (g : Group) : Nat :=
  let taken := ownedElsewhere s r n ((mapGet s.groups n).map Group.region) Launch.groups
  if g.region = r ∧ 2 ≤ g.cnt ∧ g.cnt ≤ 8 ∧ g.memb < g.cnt ∧ g.hub < g.cnt ∧ (g.devs.take g.cnt).all (inDomain s) ∧
      hereDev s (memberDev g g.memb) ∧ !taken ∧ g.rbase.toNat % 2048 = 0 ∧ g.rcv.toNat % 8 = 0 then
    (if inTable s (s.region r).res g.rbase (max 1 (2048 * g.nrecv)) && inTable s (s.region r).res g.rcv 8 then 0 else 3)
  else 1

/-- An expert entry's checks (R341). -/
def expertStatus (s : State) (r n : Nat) (e : Expert) : Nat :=
  let taken := ownedElsewhere s r n ((mapGet s.experts n).map Expert.region) Launch.experts
  let res := (s.region r).res
  if !taken ∧ e.rbase.toNat % 64 = 0 ∧ e.ilist.toNat % 4 = 0 ∧ e.cnt.toNat % 8 = 0 ∧ e.ovf.toNat % 8 = 0 then
    (if inTable s res e.rbase (max 1 (2048 * e.cap)) && inTable s res e.ilist (max 1 (4 * e.cap)) && inTable s res e.cnt 8 && inTable s res e.ovf 8
      then 0 else 3)
  else 1

/-- The group and expert entries that a region's images hold (R341); none where an image cannot be read. -/
def shuffleImages (s : State) (r : Nat) : Option (List (Nat × Group) × List (Nat × Expert)) :=
  match tableImage s (s.region r).shuf (fun b => (b.getD 23 0).getLsbD 0), tableImage s (s.region r).expt (fun b => (w64At b 32).getLsbD 63) with
  | some gs, some es => some (gs.map (fun g => (g.1, groupOf g.2)), es.map (fun e => (e.1, expertOf r e.2)))
  | _, _ => none

/-- The status that R341 gives a launch into a region. -/
def shuffleStatus (s : State) (r : Nat) : Nat :=
  match shuffleImages s r with
  | none => 1
  | some (gs, es) =>
    let sts := gs.map (fun g => groupStatus s r g.1 g.2) ++ es.map (fun e => expertStatus s r e.1 e.2)
    if sts.contains 1 then 1 else if sts.contains 3 then 3 else 0

/-- Whether a record's bytes are as glz-as builds them (R77): state THUNK, satf, evaluation id, waiters and result 0, h = 1, and
no reserved bit set. -/
def isBuilt (bs : List Byte) : Bool :=
  let hd := headerOf (w64At bs 0)
  hd.st == stThunk && hd.word == w64At bs 0 && !hd.satf && hd.evid == 0 && hd.cause == 0 && w64At bs 8 == 0 && w64At bs 16 == 0 &&
    (w32At bs 48).getLsbD 12 && w32At bs 60 == 0

/-- Records as glz-as builds them in n bytes of addresses from a va up, page by page, in the lines that hold any byte. -/
def builtRecords (s : State) (va n : Nat) : Nat → List (Word × List Byte)
  | 0 => []
  | fuel + 1 =>
    if n = 0 then []
    else
      match leafFor s .west va with
      | .error _ => builtRecords s (va + min n (4096 - va % 4096)) (n - min n (4096 - va % 4096)) fuel
      | .ok ((leaf, bits), _) =>
        let k := min n (2 ^ bits - va % 2 ^ bits)
        let f := frameOf leaf bits va
        let held := ((s.mem.filter (fun c => decide (f ≤ c.1) && decide (c.1 < f + k))).map (fun c => c.1 / 64)).eraseDups
        (held.filterMap (fun q =>
          let bs := readBytes s.mem (64 * q) 64
          if f ≤ 64 * q ∧ 64 * q + 64 ≤ f + k ∧ isBuilt bs = true then
            some (0#1 ++ 0x1FF#9 ++ BitVec.ofNat 54 (va + (64 * q - f)), bs)
          else none)) ++ builtRecords s (va + k) (n - k) fuel

/-- Where the image of a launch lies (R84, R86, R87; log entry 89): from the multiple of 2 MiB at or below its entry to its
local image list, or 2 MiB where it has none. -/
def imageRange (pc limg : Word) : Nat × Nat :=
  let base := vaOf pc / 2 ^ 21 * 2 ^ 21
  (base, if limg = 0 then 2 ^ 21 else vaOf limg - base)

/-- A record that an earlier launch has taken, as it now is. -/
def takenRecord (s : State) (a : Word) : Option (Word × List Byte) :=
  match leafFor s .west (vaOf a) with
  | .error _ => none
  | .ok ((leaf, bits), _) => some (a, readBytes s.mem (frameOf leaf bits (vaOf a)) 64)

/-- The records of the THUNK sections of a launch's image (R89): as glz-as built them, of this device, that no charge accounts for,
and those that an earlier launch of it has taken, whatever has become of them (log entry 89); with their headers and pins. -/
def thunkSections (s : State) (pc limg : Word) : List (Word × Header × Nat) :=
  if pc.getLsbD 63 ∨ devOf s pc ≠ 0x1FF then []
  else
    let (base, n) := imageRange pc limg
    let taken := s.sections.filter (fun a => decide (base ≤ vaOf a) && decide (vaOf a < base + n))
    let built := (builtRecords s base n (n / 4096 + 2)).filter (fun x =>
      !(taken.contains x.1) && !(s.records.any (fun r => r.2 == x.1)))
    (taken.filterMap (takenRecord s) ++ built).map
      (fun x => (x.1, headerOf (w64At x.2 0), pinned [w64At x.2 24, w64At x.2 32, w64At x.2 40]))

/-- The records of THUNK sections that a launch is charged for (R89, R206): one that is not FREE, and that the region is not
charged for already (log entry 135). -/
def newlyCharged (s : State) (r : Nat) (ts : List (Word × Header × Nat)) : List (Word × Header × Nat) :=
  ts.filter (fun t => t.2.1.st != stFree && !(s.records.contains (r, t.1)))

/-- Whether a record lies in a region's record arena (R201). -/
def inRecArena (s : State) (r : Nat) (a : Word) : Bool :=
  let b := (normAddr s (s.region r).recBase).toNat
  decide (b ≤ a.toNat) && decide (a.toNat + 64 ≤ b + (s.region r).recSize.toNat)

/-- What the records of some THUNK sections are charged (R89). -/
def thunkCharge (ts : List (Word × Header × Nat)) : List (BudgetName × Nat) :=
  [(.recs, ts.length), (.pins, (ts.map (fun t => t.2.2)).sum)]

/-- Whether R89 refuses a launch for its THUNK sections: outside the arena, deeper than the cap, or without room for their
charge. The last two have status 1 here as the first has (log entry 90). -/
def thunksRefused (s : State) (r : Nat) (pc limg : Word) : Bool :=
  let ts := thunkSections s pc limg
  ts.any (fun t => !(inRecArena s r t.1) || decide ((s.region r).cap < t.2.1.depth)) ||
    !(chargeFits (s.region r) (thunkCharge (newlyCharged s r ts)))

/-- The declared ranges of a launch's tasks. -/
def declaredRanges (bs : List Byte) (n : Nat) : List (Word × Nat) :=
  (List.range n).map (fun i => (w64At bs (16 * i), (w64At bs (16 * i + 8)).toNat))

/-- A launch descriptor checked in the order of R340: the launch, or its status. A local image list that cannot be read has
status 1 (log entry 125). -/
def checkLaunch (s : State) (origin : Nat) (tag : W32) (host : Bool) (d : List Byte) : Except Nat Launch :=
  match regionAt s (w64At d 0) with
  | none => .error 2
  | some r =>
    let g := s.region r
    let n := (w32At d 20).toNat
    let limg := w64At d 48
    let images := imageList s limg
    let es := images.list
    let pmap := descriptorRead s (w64At d 40) (16 * n)
    let args := descriptorRead s (w64At d 32) (64 * n)
    let size : Nat := match images with
      | .unread n => n
      | _ => 16 + 32 * es.length
    let listed : Bool := limg == 0 || inTable s g.res limg size
    let broken : Bool := match images with
      | .broken => true
      | .unread _ => listed
      | .entries _ => false
    if isLive s r = false ∨ isBelow s r origin 16384 = false then .error 2
    else if s.stoppedParts.contains g.part then .error 4
    else if n < 1 ∨ 4096 < n ∨ (w64At d 8).toNat % 4 ≠ 0 ∨ g.budgets[0].limit.toNat < n ∨ broken = true ∨ pmap.isNone ∨
        args.isNone ∨ thunksRefused s r (w64At d 8) limg ∨ shuffleStatus s r = 1 then .error 1
    else
      let ranges := declaredRanges (pmap.getD []) n
      let tables := (shuffleImages s r).getD ([], [])
      if ranges.any (fun x => x.2 != 0 && !(inEntry s g.res x.1 x.2)) ∨ shuffleStatus s r = 3 ∨ listed = false ∨
          es.any (fun e => !e.zero && !(inTable s g.res e.src e.len)) then .error 3
      else .ok ⟨r, s.launchSeq, w64At d 24, w64At d 8, w64At d 32, limg, ranges, tag, host, tables.1, tables.2⟩

/-- Whether a declared range touches an entry. -/
def touches (s : State) (e : ResEntry) (x : Word × Nat) : Bool :=
  x.2 != 0 && rangesMeet s e.base e.len.toNat x.1 x.2

/-- The scheduler requests the entries that a launch's ranges touch (R340). -/
def requestEntries (s : State) (l : Launch) : State :=
  (List.range 8).foldl (fun s i =>
    let e := (s.region l.region).res[i % 8]'(Nat.mod_lt _ (by decide))
    if e.st = 0 ∧ l.ranges.any (touches s e) then requestEntry s l.region i else s) s

/-- A launch is accepted and held (R340); its THUNK sections are charged at once (R89). -/
def acceptLaunch (s : State) (l : Launch) : State :=
  let ts := thunkSections s l.pc l.limg
  let new := newlyCharged s l.region ts
  let s := (charge s l.region (thunkCharge new)).getD s
  requestEntries { s with
    records := s.records ++ new.map (fun t => (l.region, t.1))
    sections := (s.sections ++ ts.map Prod.fst).eraseDups
    launches := s.launches ++ [l], launchSeq := s.launchSeq + 1 } l

/-- LAUNCH (R340): a timed launch is not taken while a clock fault is in force (R27). -/
def execLaunch (gd ga : Reg) (s : State) : Host.Outcome State Fault Refusal :=
  conclude s (
    (readG s ga).andThen fun a s =>
    (checkAlign s a 64).andThen fun _ s =>
    (atBlock a (sourceChecks s a a 64 false true)).andThen fun _ s =>
    released s 4 fun s =>
    (blockLoad s a 64).andThen fun d s =>
    match checkLaunch s s.me.region 0 false d with
    | .error st => writeDone s gd (BitVec.ofNat 64 st)
    | .ok l => if l.time ≠ 0 ∧ s.clockFaults ≠ [] then hold retryBlock else effectDone (acceptLaunch s l) gd 0)
where
  /-- The slot waits, and reads its block anew when it tries again. -/
  retryBlock (s : State) : State := (s.modMe (fun sl => { sl with got := [], phase := 0 })).stall .poll

/-- The bytes of a range that each die's stacks hold (R340, R367), page by page. -/
def dieBytes (s : State) (va n : Nat) (acc : List Nat) : Nat → List Nat
  | 0 => acc
  | fuel + 1 =>
    if n = 0 then acc
    else
      match leafFor s .west va with
      | .error _ => acc
      | .ok ((leaf, bits), _) =>
        let k := min n (2 ^ bits - va % 2 ^ bits)
        let d := frameOf leaf bits va / 2 ^ 36 / 2 % 8
        dieBytes s (va + k) (n - k) (acc.set d (acc.getD d 0 + k)) fuel

/-- The die that holds the most bytes of a range, the lowest of several (R340): none of this device hold those of a range of
another. -/
def bestDie (s : State) (x : Word × Nat) : Nat :=
  let bs := if devOf s x.1 = 0x1FF then dieBytes s (vaOf x.1) x.2 (List.replicate 8 0) (x.2 / 4096 + 2) else []
  (List.range 8).foldl (fun m d => if bs.getD m 0 < bs.getD d 0 then d else m) 0

/-- Windows of a core that a launch may write: V clear, or a region that is not live (R340). -/
def freeWindows (s : State) (core : Nat) : List Nat :=
  (List.range 8).filter (fun i =>
    let pw := (s.core core).pw[i % 8]'(Nat.mod_lt _ (by decide))
    !(pw.getLsbD 63) || !(isLive s (pw.extractLsb' 44 14).toNat))

/-- Slots of a core that are free and not yet planned for this launch, none where it lacks windows. -/
def openSlots (s : State) (core windows : Nat) (plan : List Nat) : List Nat :=
  if (freeWindows s core).length < windows then []
  else ((List.range 8).map (fun i => 8 * core + i)).filter (fun i => slotFree s i && !(plan.contains i))

/-- The slot that a task goes to (R340): of its die's cores of the partition, the one with the most free slots. -/
def placeTask (s : State) (part windows : Nat) (plan : List Nat) (die : Nat) : Option Nat :=
  let cores := (List.range' (die * (8 * s.liveCores)) (8 * s.liveCores)).filter (fun c =>
    isLiveCore s c && !((s.core c).stopped) && (s.core c).part.toNat == part)
  let best := cores.foldl (fun m c => match m with
    | none => some c
    | some b => if (openSlots s b windows plan).length < (openSlots s c windows plan).length then some c else some b) none
  best.bind (fun c => (openSlots s c windows plan).head?)

/-- The slots of a launch's tasks in order; none where one cannot be placed. -/
def planTasks (s : State) (part windows : Nat) (plan : List Nat) : List (Word × Nat) → Option (List Nat)
  | [] => some plan
  | x :: xs =>
    match placeTask s part windows plan (bestDie s x) with
    | some i => planTasks s part windows (plan ++ [i]) xs
    | none => none

/-- The window that a launch writes for an image (R340). -/
def imageWindow (r : Nat) (e : LocalImage) : Word :=
  let first := e.off / 128
  let last := (e.off + e.len + 127) / 128 - 1
  let rights : BitVec 3 := if e.space = 0 then 7 else 6
  1#1 ++ BitVec.ofNat 2 e.space ++ rights ++ BitVec.ofNat 14 r ++ BitVec.ofNat 19 first ++ BitVec.ofNat 19 (last - first) ++ 0#6

/-- A core's windows for a launch's images, in the lowest-numbered free ones. -/
def writeWindows (s : State) (r core : Nat) (es : List LocalImage) : State :=
  ((freeWindows s core).zip es).foldl (fun s x =>
    s.modCore core (fun k => { k with pw := k.pw.set (x.1 % 8) (imageWindow r x.2) (Nat.mod_lt _ (by decide)) })) s

/-- A word's tag as a launch sets it: what sleeps on the word is served (R170, R171). -/
def launchTag (s : State) (key : Nat) (full : Bool) : State :=
  if isFull s key = full then s
  else if full then serveLoads (setFull s key true) key s.feSleep
  else emptyWord s key

/-- The tags of a cluster's scratchpad words that an image's window covers (R170). -/
def writeTags (s : State) (cluster : Nat) (es : List LocalImage) : State :=
  let pads := es.filter (fun e => e.space == 1)
  pads.foldl (fun s e =>
    let first := e.off / 128 * 16
    let last := (e.off + e.len + 127) / 128 * 16
    (List.range' first (last - first)).foldl (fun s w =>
      launchTag s (spadKey cluster (8 * w)) (pads.any (fun x => decide (x.off < 8 * w + 8) && decide (8 * w < x.off + x.len)))) s) s

/-- Images copied into the local memories of the cores, clusters and dies of a launch (R87, R340); none where a source
cannot be read, which keeps the launch held (log entry 112). -/
def copyImages (s : State) (cores : List Nat) : List LocalImage → Option State
  | [] => some s
  | e :: es =>
    match (if e.zero then some (List.replicate e.len 0, s) else schedRead s e.src e.len) with
    | none => none
    | some (bs, s) =>
      copyImages (cores.foldl (fun s c => bankWrite s (spaceKey s c e.space e.off) bs) s) cores es

/-- The group and expert entries of a launch installed, as they were checked (R341). -/
def installTables (s : State) (l : Launch) : State :=
  let s := l.groups.foldl (fun (s : State) g =>
    { s with groups := mapPut s.groups g.1 g.2, settled := s.settled.filter (fun k => k.1 != g.1), accepted := mapDel s.accepted g.1 }) s
  l.experts.foldl (fun (s : State) e => { s with experts := mapPut s.experts e.1 e.2 }) s

/-- Tasks started in their slots with their argument blocks (R93). -/
def startAll (s : State) (l : Launch) (args : List Byte) (slots : List Nat) : State :=
  slots.zipIdx.foldl (fun s x => startTask s x.1 l.region l.pc ((args.drop (64 * x.2)).take 64)) s

/-- Whether a flash is due, which comes before every other event of its time (R24). -/
def flashDue (s : State) : Bool := s.flash.any (fun f => s.reached f.time)

/-- Whether a flash or a gang switch of a partition is due, which come before launches and alarms (R24). -/
def switchFirst (s : State) (part : Nat) : Bool :=
  flashDue s || s.gangs.any (fun g => g.part == part && s.reached g.time)

/-- Whether a launch for a partition starts at all: not while it is stopped after a fatal record (R362), nor on a device
that is out of service (R387; log entry 139). -/
def launchesRun (s : State) (part : Nat) : Bool := !(s.stoppedParts.contains part) && !s.outOfService

/-- A launch whose conditions all hold starts (R340); none while it is held. Its image list is read as it is now (log entry
113). -/
def startLaunch (s : State) (l : Launch) : Option State :=
  let g := s.region l.region
  let n := l.ranges.length
  let ready := g.res.toList.all (fun e => e.st == 2 || !(l.ranges.any (touches s e)))
  if isLive s l.region = false ∨ launchesRun s g.part = false ∨ ready = false ∨ s.reached l.time = false ∨ switchFirst s g.part = true ∨
      (mapGet s.resident g.part).getD 0 ≠ g.ctx then none
  else
    match descriptorRead s l.args (64 * n) with
    | none => none
    | some args =>
      let es := (imageList s l.limg).list.filter (fun e => e.len != 0)
      match planTasks s g.part es.length [] l.ranges, charge s l.region [(.slots, n)] with
      | some slots, some s' =>
        let cores := (slots.map coreOf).eraseDups
        (copyImages s' cores es).map (fun s' =>
          let s' := cores.foldl (fun s c => writeTags (writeWindows s l.region c es) (clusterOf s c) es) s'
          journalEvent (startAll (installTables s' l) l args slots) l.region 2 0)
      | _, _ => none

/-- Whether one region's business with the scheduler comes before another's by priority, or by age where that is the same
(R334, R340). -/
def ranksFirst (s : State) (r o : Nat) (older : Bool) : Bool :=
  decide ((s.region o).prio < (s.region r).prio) || ((s.region r).prio == (s.region o).prio && older)

/-- LAUNCH_PLACEMENT (R340): of launches that are ready together, the one of the highest priority, then the oldest. -/
def execLaunchPlacement (i : Nat) (s : State) : Host.Outcome State Fault Refusal :=
  .next (
    match s.launches[i]? with
    | none => s
    | some l =>
      let before := fun (o : Launch) => ranksFirst s o.region l.region (decide (o.order < l.order)) && (startLaunch s o).isSome
      match startLaunch { s with launches := dropAt s.launches i } l with
      | some t => if s.launches.any before then s else t
      | none => requestEntries s l)

/-- Slots that sleep on an entry of a region are answered. -/
def wakeReside (s : State) (r i : Nat) (v : Word) : State :=
  (s.slots.filter (fun e => e.2.region == r && match e.2.status with
    | .asleep z => z.kind == .reside i
    | _ => false)).foldl (fun s e => answer s e.1 (.val v)) s

/-- Whether the scheduler can make an entry resident (R332, R338). -/
def grantable (s : State) (r i : Nat) : Bool :=
  let e := (s.region r).res[i % 8]'(Nat.mod_lt _ (by decide))
  decide (i < 8) && isLive s r && e.st == 1 && canLease s e.base e.len.toNat

/-- RESIDENCY_GRANT (R338): of requests that can be served, the one of the highest priority, then the oldest (R334). -/
def execResidencyGrant (region entry : Nat) (s : State) : Host.Outcome State Fault Refusal :=
  .next (
    let older := s.resReqs.takeWhile (fun q => q != (region, entry))
    let before := fun (q : Nat × Nat) => ranksFirst s q.1 region (older.contains q) && grantable s q.1 q.2
    if grantable s region entry && !((s.resReqs.filter (fun q => q != (region, entry))).any before) then
      let s := wakeReside (setEntry s region entry 2) region entry 0
      { s with resReqs := s.resReqs.filter (fun q => q != (region, entry)) }
    else s)

/-- Whether an access of a region to a range is still on its way (R338). -/
def accessing (s : State) (r : Nat) (b : Word) (n : Nat) : Bool :=
  s.loads.any (fun l => rangesMeet s l.line 128 b n && match l.slot with
    | some i => (s.slot i).region == r
    | none => false) ||
  s.atoms.any (fun a => (s.slot a.slot).region == r && rangesMeet s a.addr 8 b n) ||
  s.cores.any (fun c => c.2.sbuf.any (fun e => e.region == r && rangesMeet s e.addr e.bytes.length b n)) ||
  s.slots.any (fun e => e.2.region == r && e.2.push.isSome && match e.2.room with
    | some (a, _) => rangesMeet s a 8 b n
    | none => false) ||
  s.copies.any (fun e => match e.2.run with
    | some x => x.cmd.region == r && x.copy.beats.any (fun ws => ws.any (fun w => rangesMeet s w.1 w.2.2.length b n))
    | none => false)

/-- RESIDENCY_RELEASE (R338, R309): the lease is removed once the region's accesses to the range are done; where the host has
ended it, snapshots over the range end. -/
def execResidencyRelease (region entry : Nat) (s : State) : Host.Outcome State Fault Refusal :=
  .next (
    match findIdx (fun x : LeaseEnd => x.region == region && x.entry == entry) s.leaseEnds with
    | none => s
    | some (k, x) =>
      if accessing s region x.base x.len then s
      else
        let s : State := { s with leaseEnds := dropAt s.leaseEnds k }
        if x.host then breakCovering s x.base x.len else s)

/-- WAITT (R342). -/
def execWaitt (gd ga : Reg) (s : State) : Host.Outcome State Fault Refusal :=
  conclude s (
    (readG s ga).andThen fun t s => if s.reached t then writeDone s gd s.time else sleep (.waitt t) 0)

/-- WAITT_WAKE (R342). -/
def execWaittWake (slot : Nat) (s : State) : Host.Outcome State Fault Refusal :=
  .next (
    match (s.slot slot).status with
    | .asleep z =>
      (match z.kind with
        | .waitt t => if s.reached t then resume s slot else s
        | _ => s)
    | _ => s)

/-- AT (R343). -/
def execAtTime (gd ga gb : Reg) (s : State) : Host.Outcome State Fault Refusal :=
  conclude s (
    (readG s ga).andThen fun d s =>
    (readG s gb).andThen fun t s =>
    (readG s gd).andThen fun b s =>
    (checkAlign s b 8).andThen fun _ s =>
    (localRead s b 72).andThen fun bs s =>
    (check s (!(d.getLsbD 63) || decide ((w64At bs 64).toNat % 4 = 0)) .misalign (w64At bs 64)).andThen fun _ s =>
    (checkDest s d).andThen fun _ s =>
    (checkWatch s b 72 true false).andThen fun _ s =>
    if !(isHere s (destDev d)) then writeDone s gd 3
    else
      let k := s.core s.myCore
      if 16 ≤ k.alarms.length then writeDone s gd 1
      else
        let a : Alarm := ⟨t, s.cur, s.me.region, s.me.ctx, d, w64At bs 64, bs.take 64⟩
        effectDone (s.setCore s.myCore { k with alarms := k.alarms ++ [a] }) gd 0)

/-- An alarm's message (R343): as a SEND by the slot that armed it, for its context where its core's partition is the
target's. -/
def postAlarm (s : State) (core : Nat) (a : Alarm) : State :=
  let target := destCore a.dest
  if a.dest.getLsbD 63 then post s a.slot a.region a.dest a.x a.payload
  else
    let ctx := if (s.core target).part = (s.core core).part then a.ctx else comingCtx s target
    let m : InboxMsg := ⟨s.dev, BitVec.ofNat 13 a.slot, destSlot a.dest, a.dest.extractLsb' 32 8, ctx, a.x.setWidth 25, a.payload⟩
    { s with flights := s.flights ++ [Flight.inbox m a.slot] }

/-- ALARM (R343). -/
def execAlarm (core i : Nat) (s : State) : Host.Outcome State Fault Refusal :=
  .next (
    match (s.core core).alarms[i]? with
    | none => s
    | some a =>
      let parts := [(s.core core).part.toNat, (s.core (destCore a.dest)).part.toNat]
      if s.reached a.time ∧ outgoing s core < 4 ∧ parts.any (switchFirst s) = false then
        postAlarm (s.modCore core (fun k => { k with alarms := dropAt k.alarms i })) core a
      else s)

/-- GANG (R345). -/
def execGang (gd ga : Reg) (s : State) : Host.Outcome State Fault Refusal :=
  conclude s (
    (checkSup s (encodeScalar (.gang gd ga))).andThen fun _ s =>
    (readG s ga).andThen fun a s =>
    (checkAlign s a 16).andThen fun _ s =>
    (blockLoad s a 16).andThen fun bs s =>
    let t := w64At bs 0
    let sel := bs.getD 8 0
    let part := (s.core s.myCore).part.toNat
    if t.toNat < s.time.toNat + 10000 then writeDone s gd 1
    else if s.clockFaults ≠ [] then writeDone s gd 2
    else if s.gangs.any (fun g => g.part == part) then writeDone s gd 3
    else
      let out := if sel.getLsbD 1 then some (sel.extractLsb' 4 2).toNat else none
      let in_ := if sel.getLsbD 0 then some (sel.extractLsb' 2 2).toNat else none
      effectDone { s with gangs := s.gangs ++ [⟨part, t, out, in_, false⟩] } gd 0)

/-- The live cores of a partition. -/
def partCores (s : State) (part : Nat) : List Nat :=
  (List.range s.logicalCores).filter (fun c => isLiveCore s c && (s.core c).part.toNat == part)

/-- Slots of some cores whose task is of a context. -/
def ctxSlots (s : State) (cores : List Nat) (ctx : Nat) : List Nat :=
  (s.slots.filter (fun e => cores.contains (coreOf e.1) && e.2.status != .noTask && e.2.ctx == ctx)).map Prod.fst

/-- Whether a task waits for something that finishes without its slot: a snapshot's homes, a TLBINV's sharers, or the end of a
region, whose commands a switch may stop (R308, R374, R346). -/
def finishesAlone (s : State) (w : Waiter) : Bool :=
  s.snaps.any (fun n => n.snapWait == some w || n.endWait == some w) || s.invals.any (fun v => v.who == some w) ||
    s.endings.any (fun e => e.keep == some w || e.waiter == some w)

/-- Whether an engine has a command that a switch lets finish; a multi-block command stops between its blocks (R264). -/
def engineBusy (e : EngineState) : Bool :=
  match e.run with
  | some r => ranAll r
  | none => false

/-- Whether a core's share of a cluster's copy engine lets it be saved: in the middle of no row (R286). -/
def betweenRows (cores : List Nat) (e : CopyEngine) : Bool :=
  match e.run with
  | some r => !(cores.contains e.last) || r.copy.beats.isEmpty
  | none => true

/-- Whether every core of a partition has come to where it can be saved (R346). -/
def readyToSwitch (s : State) (cores : List Nat) (ctx : Nat) : Bool :=
  (ctxSlots s cores ctx).all (fun i => !(mustFinish s i) || finishesAlone s (waiterOf s i)) &&
    cores.all (fun c =>
      let k := s.core c
      k.sbuf.all (fun e => unaccepted s e) && !(engineBusy k.matrix) && k.vector.run.isNone && k.convert.run.isNone) &&
    s.copies.all (fun e => betweenRows cores e.2)

/-- A store of a slot that a switch abandons, not accepted yet or only looked at, is withdrawn at once (R132, R152). -/
def abandonStore (s : State) (i : Nat) : State :=
  let held := (s.slot i).status == .waiting .accept || waitsCheck s i
  if held && !(mustFinish s i) then
    (withdrawAway (withdrawStore s i) i).modSlot i (fun sl => { clearProgress sl with status := .ready })
  else s

/-- A slot goes to its drawer (R344, R346): asleep or waiting instructions are withdrawn, and execute afresh; those that finish
without the slot go on (R308, R374). -/
def saveSlot (s : State) (i : Nat) : State :=
  let sl := s.slot i
  let alone := finishesAlone s (waiterOf s i)
  let s := withdrawSlot s i
  let st := match sl.status with
    | .parked h => Status.parked h
    | _ => if alone then .waiting .reply else .ready
  let inbox := entriesOf s i
  let s := s.modCore (coreOf i) (fun k => { k with inbox := k.inbox.filter (fun e => e.slot != i) })
  let saved := { (if alone then sl else clearProgress sl) with status := st, fetch := none, awayResv := false }
  let s : State := { s with drawers := mapPut s.drawers (8192 * sl.ctx + i) (saved, inbox) }
  let s := s.setSlot i { Slot.idle with gen := sl.gen, link := sl.link }
  writeDrawer s ⟨coreOf i, i, sl.region⟩ (8192 * i) 8192

/-- The region whose drawer area takes the core state of a context: that of the lowest slot of the context there, else the
lowest of the context in the core's partition (log entry 92). -/
def coreRegion (s : State) (ctx c : Nat) : Nat :=
  match (s.drawers.find? (fun e => e.1 / 8192 == ctx && coreOf (e.1 % 8192) == c)).map (fun e => e.2.1.region) with
  | some r => r
  | none =>
    ((s.regions.find? (fun e => isLive s e.1 && e.2.part == (s.core c).part.toNat && e.2.ctx == ctx)).map Prod.fst).getD 0

/-- A core's state goes to its drawer, and its halt with it (R344, R264, R286, R380). -/
def saveCore (s : State) (ctx c : Nat) : State :=
  let k := s.core c
  let e := copyOf s (clusterOf s c)
  let copying := if e.last = c then e.run else none
  let saved : CoreSave :=
    ⟨k.acc, k.k, k.latch, k.handoff, k.table, k.tabbase, k.qn, k.qp, k.matrix, k.held, copying.or k.copyRest⟩
  let s := s.setCore c { k with
    acc := [], k := Core.init.k, latch := none, handoff := none, table := none, tabbase := 0, qn := [], qp := [],
    matrix := ⟨none, 0⟩, held := [], copyRest := none }
  let s : State := { s with
    copies := if copying.isSome then mapPut s.copies (clusterOf s c) ⟨none, e.last⟩ else s.copies
    coreDrawers := mapPut s.coreDrawers (2048 * ctx + c) saved }
  writeDrawer s ⟨c, 8 * c, coreRegion s ctx c⟩ (coreDrawerAt c) 32768

/-- Whether a flight is a message for a context on some cores (R346). -/
def boundFor (cores : List Nat) (ctx : Nat) : Flight → Bool
  | .inbox m _ => cores.contains (coreOf m.slot) && m.ctx == ctx
  | .task m _ => cores.contains m.core && m.ctx == ctx
  | _ => false

/-- The core whose router holds a flight (log entry 93). -/
def routerOf : Flight → Nat
  | .inbox m _ => coreOf m.slot
  | .task m _ => m.core
  | _ => 0

/-- The messages of a context that is switched out, on their way, go to the spill buffers of the routers that hold them, 64 to
each; the others stay on their channel (R346). -/
def spillMessages (s : State) (cores : List Nat) (part ctx : Nat) : State :=
  s.flights.foldl (fun (s : State) f =>
    let full := decide (64 ≤ (s.spill.filter (fun x => routerOf x.2.2 == routerOf f)).length)
    if boundFor cores ctx f && !full then { s with spill := s.spill ++ [(part, ctx, f)] }
    else { s with flights := s.flights ++ [f] }) { s with flights := [] }

/-- The spilled messages of a context come back, before those that its channel holds (R346). -/
def reinject (s : State) (part ctx : Nat) : State :=
  let mine := fun (x : Nat × Nat × Flight) => x.1 == part && x.2.1 == ctx
  { s with
    flights := (s.spill.filter mine).map (fun x => x.2.2) ++ s.flights
    spill := s.spill.filter (fun x => !(mine x)) }

/-- GANG_SWITCH_OUT (R346), after a flash of its time (R24). -/
def execGangSwitchOut (part : Nat) (s : State) : Host.Outcome State Fault Refusal :=
  .next (
    match findIdx (fun g : Gang => g.part == part && !g.outDone) s.gangs with
    | none => s
    | some (i, g) =>
      let cores := partCores s part
      let finish := fun (s : State) =>
        { s with gangs := if g.in_.isSome then modAt (fun g => { g with outDone := true }) s.gangs i else dropAt s.gangs i }
      if !(s.reached g.time) || flashDue s then s
      else
        match g.out with
        | none => finish s
        | some ctx =>
          if (mapGet s.resident part).getD 0 ≠ ctx then finish s
          else
            let s := (ctxSlots s cores ctx).foldl abandonStore s
            if !(readyToSwitch s cores ctx) then s
            else
            let s := abandonEvals s cores part ctx
            let s := (ctxSlots s cores ctx).foldl saveSlot s
            let s := spillMessages (cores.foldl (fun s c => saveCore s ctx c) s) cores part ctx
            let halts := s.halted.filter (fun cl => cores.any (fun c => clusterOf s c == cl))
            finish { s with
              resident := mapPut s.resident part noContext
              halted := s.halted.filter (fun cl => !(halts.contains cl))
              savedHalts := s.savedHalts ++ halts.map (fun cl => (cl, ctx)) })

/-- A slot comes back from its drawer, with its inbox entries (R346). -/
def restoreSlot (s : State) (d : Nat) : State :=
  match mapGet s.drawers d with
  | none => s
  | some (sl, inbox) =>
    let i := d % 8192
    let (sl, inbox, s) := savedSlot s i sl inbox
    let s := s.setSlot i { sl with link := (s.slot i).link }
    let s := s.modCore (coreOf i) (fun k => { k with inbox := inbox ++ k.inbox })
    { s with drawers := mapDel s.drawers d }

/-- A core's state comes back; its leases end and its lines are dropped (R132, R346). A context's state is at its reset
values at its first switch-in after power-on or a takeover (R248; log entry 131). -/
def restoreCore (s : State) (ctx c : Nat) : State :=
  let s := (expireAll s c).modCore c (fun k => { k with cache := [] })
  match mapGet s.coreDrawers (2048 * ctx + c) with
  | none => s
  | some v =>
    let (v, s) := savedCore s ctx c (coreRegion s ctx c) v
    let k := s.core c
    let s := s.setCore c { k with
      acc := v.acc, k := v.k, latch := v.latch, handoff := v.handoff, table := v.table, tabbase := v.tabbase, qn := v.qn,
      qp := v.qp, matrix := v.matrix, held := v.held, copyRest := v.copy }
    { s with coreDrawers := mapDel s.coreDrawers (2048 * ctx + c) }

/-- Whether a snapshot instruction of a task in some drawers has yet to finish, for which switch-in waits (R308). -/
def awaitsSnap (s : State) (ds : List Nat) : Bool :=
  ds.any (fun d => s.snaps.any (fun n => [n.snapWait, n.endWait].any (fun w => match w with
    | some w => w.slot == d % 8192 && w.ctx == d / 8192
    | none => false)))

/-- Clusters whose halt comes back with its context stop; the halt stops their mirrors (R380, R382). -/
def haltAgain (s : State) (halts : List Nat) : State :=
  { s with
    halted := s.halted ++ halts
    mirrors := s.mirrors.map (fun e => if halts.contains e.1 then (e.1, { e.2 with recording := false }) else e) }

/-- GANG_SWITCH_IN (R346), after a flash of its time (R24). -/
def execGangSwitchIn (part : Nat) (s : State) : Host.Outcome State Fault Refusal :=
  .next (
    match findIdx (fun g : Gang => g.part == part && g.outDone) s.gangs with
    | none => s
    | some (i, g) =>
      match g.in_ with
      | none => { s with gangs := dropAt s.gangs i }
      | some ctx =>
        let cores := partCores s part
        let mine := (s.drawers.filter (fun e => e.1 / 8192 == ctx && cores.contains (coreOf (e.1 % 8192)))).map Prod.fst
        if flashDue s || awaitsSnap s mine then s
        else
          let s := cores.foldl (fun s c => restoreCore s ctx c) { s with gangs := dropAt s.gangs i }
          let s := reinject (mine.foldl restoreSlot s) part ctx
          let halts := s.savedHalts.filter (fun h => h.2 == ctx && cores.any (fun c => clusterOf s c == h.1))
          haltAgain { s with
            resident := mapPut s.resident part ctx
            savedHalts := s.savedHalts.filter (fun h => !(halts.contains h)) } (halts.map Prod.fst))

/-- The tasks of a region end (R347): in their slots, and in the drawers; one may be kept for last. -/
def endTasks (s : State) (r : Nat) (keep : Option Waiter) (part : Option Nat) : State :=
  let here := fun (i : Nat) => match part with
    | some p => (s.core (coreOf i)).part.toNat == p
    | none => true
  let mine := (s.slots.filter (fun e => e.2.region == r && e.2.status != .noTask && keep != some (waiterOf s e.1) && here e.1)).map Prod.fst
  let s := mine.foldl endTask s
  let out := s.drawers.filter (fun e => e.2.1.region == r && here (e.1 % 8192))
  let s := out.foldl (fun s e => sendHeld s e.2.1) s
  refund { s with drawers := s.drawers.filter (fun e => !(e.2.1.region == r && here (e.1 % 8192))) } r [(.slots, out.length)]

/-- The evaluations of a region stop: one whose command executes lets it complete first. -/
def stopEvals (s : State) (r : Nat) : State :=
  let mine := (s.evals.filter (fun e => e.2.phase != .idle && e.2.region == r)).map Prod.fst
  mine.foldl (fun s e =>
    let queued := fun (c : TileCmd) => c.eval == some e
    let s' := s.modCore (e / 4) (fun k => { k with qn := k.qn.filter (fun c => !(queued c)), qp := k.qp.filter (fun c => !(queued c)) })
    let k := s'.core (e / 4)
    if runs k.vector queued || runs k.convert queued then s'.modEval e (fun v => { v with stack := [], phase := .command })
    else endEval s' e) s

/-- The records and frames of a region are freed and its counts return to 0 (R347). -/
def freeAll (s : State) (r : Nat) : State :=
  let mine := (s.records.filter (fun x => x.1 == r)).map Prod.snd
  let s := mine.foldl (fun s a =>
    match recAt s westDie a with
    | none => recMiss s westDie a
    | some (q, s) =>
      let (hd, s) := recHeader s q
      putHeader s q ⟨0, 0, hd.satf, hd.depth, hd.gen + 1, 0, stFree⟩) s
  let s : State := { s with records := s.records.filter (fun x => x.1 != r), frames := s.frames.filter (fun x => x.1 != r) }
  s.modRegion r (fun g => { g with budgets := g.budgets.map (fun b => { b with count := 0 }) })

/-- Every protection window that carries a region's number is cleared (R347). -/
def clearWindows (s : State) (r : Nat) : State :=
  let clear := fun (pw : Word) => if (pw.extractLsb' 44 14).toNat = r then pw &&& ~~~(1#64 <<< 63) else pw
  { s with cores := s.cores.map (fun e => (e.1, { e.2 with pw := e.2.pw.map clear, alarms := e.2.alarms.filter (fun a => a.region != r) })) }

/-- Whether a tile command of a region is queued or running, in a drawer too (R347). -/
def commandsOf (s : State) (r : Nat) : Bool :=
  let mine := fun (c : TileCmd) => c.region == r
  let run := fun (x : Option Running) => match x with
    | some x => mine x.cmd
    | none => false
  s.cores.any (fun e => e.2.qn.any mine || e.2.qp.any mine || run e.2.matrix.run || run e.2.vector.run || run e.2.convert.run ||
      run e.2.copyRest) ||
    s.copies.any (fun e => run e.2.run) || s.colls.any (fun c => mine c.run.cmd) ||
    s.coreDrawers.any (fun e => e.2.qn.any mine || e.2.qp.any mine || run e.2.matrix.run || run e.2.copy)

/-- Steps 1 of R347, and the region's evaluations stop. -/
def beginEnd (keep : Option Waiter) (s : State) (r : Nat) : State :=
  stopEvals (endTasks (s.modRegion r (fun g => { g with state := .ending })) r keep none) r

/-- Steps 4 to 7 of R347, and what follows them. -/
def finishEnd (keep : Option Waiter) (s : State) (r : Nat) : State :=
  let s := endShuffle (endTasks s r keep none) r
  let s := clearWindows s r
  let s : State := { s with
    launches := s.launches.filter (fun l => l.region != r), resReqs := s.resReqs.filter (fun q => q.1 != r) }
  let s := freeAll s r
  let s := (List.range 8).foldl (fun s i =>
    let e := (s.region r).res[i % 8]'(Nat.mod_lt _ (by decide))
    if e.st = 1 ∨ e.st = 2 then endLeaseOn s r i 0 false else s) s
  journalEvent (s.modRegion r (fun g => { g with state := .done })) r 3 0

/-- Whether another region below one is on its way to its end. -/
def endingBelow (s : State) (r : Nat) : Bool :=
  s.regions.any (fun e => e.1 != r && e.2.state == .ending && isBelow s e.1 r 16384)

/-- One region goes as far towards its end as it can (R347), after those below it: whether it has ended. -/
def advanceEnd (keep : Option Waiter) (s : State) (r : Nat) : State × Bool :=
  if (s.region r).state ≠ .ending then (s, true)
  else if commandsOf s r || endingBelow s r then (s, false)
  else
    let s := endSnaps s r
    if s.snaps.any (fun n => n.region == r) then (s, false) else (finishEnd keep s r, true)

/-- Regions end one after another, as far as they can: those left. -/
def advanceEnds (keep : Option Waiter) (s : State) : List Nat → State × List Nat
  | [] => (s, [])
  | r :: rs =>
    match advanceEnd keep s r with
    | (s, true) => advanceEnds keep s rs
    | (s, false) => (s, r :: rs)

/-- The task that an end has kept for last ends, in its slot or in its drawer (R347). -/
def endKept (s : State) (w : Waiter) : State :=
  let d := 8192 * w.ctx + w.slot
  if (s.slot w.slot).status != .noTask && waiterOf s w.slot == w then endTask s w.slot
  else
    match mapGet s.drawers d with
    | some (sl, _) =>
      if sl.gen = w.gen then refund (sendHeld { s with drawers := mapDel s.drawers d } sl) sl.region [(.slots, 1)] else s
    | none => s

/-- One end goes on; after its last region, the task that was kept ends, or the one that waits is answered. -/
def advanceEnding (s : State) (e : Ending) : State :=
  match advanceEnds e.keep s e.regions with
  | (s, []) =>
    let s := match e.keep with
      | some w => endKept s w
      | none => s
    (match e.waiter with
      | some w => answerTask s w (.val 0)
      | none => s)
  | (s, rs) => { s with endings := s.endings ++ [{ e with regions := rs }] }

/-- The ends under way go on (R347). -/
def progressEndings (s : State) : State := s.endings.foldl advanceEnding { s with endings := [] }

/-- TILE_COMPLETION (R48, R347). -/
def execTileCompletion (e : Engine) (unit : Nat) (s : State) : Host.Outcome State Fault Refusal :=
  .next (progressEndings (tileCompletion e unit s))

/-- SNAPSHOT_END_ANNOUNCE (R303, R347). -/
def execSnapshotEndAnnounce (seq home : Nat) (s : State) : Host.Outcome State Fault Refusal :=
  .next (progressEndings (snapEndAt seq home s))

/-- A region's depth in the tree. -/
def depthOf (s : State) (r : Nat) : Nat → Nat
  | 0 => 0
  | fuel + 1 => if r = 0 then 0 else depthOf s (s.region r).parent fuel + 1

/-- The live regions of a subtree, deepest first (R347). -/
def subtree (s : State) (r : Nat) : List Nat :=
  let mine := (s.regions.filter (fun e => e.2.state == .live && e.1 != 0 && isBelow s e.1 r 16384)).map Prod.fst
  let deepest := mine.foldl (fun m n => max m (depthOf s n 16384)) 0
  ((List.range (deepest + 1)).reverse).flatMap (fun d => mine.filter (fun n => depthOf s n 16384 == d))

/-- A region ends as by RDONE, with its subtree (R347): all of it stands ENDING at once and its tasks end, one kept for last
perhaps, so that no region joins it; then its regions finish, deepest first. A task may wait for the end. -/
def endRegion (s : State) (r : Nat) (keep : Option Waiter) (waiter : Option Waiter) : State :=
  let mine := subtree s r
  let s := mine.foldl (beginEnd keep) s
  progressEndings { s with endings := s.endings ++ [⟨mine, keep, waiter⟩] }

/-- The other live regions of a region's fault domain end with it (R334). -/
def endDomain (s : State) (r : Nat) : State :=
  let d := (s.region r).fdom
  let s := if r = 0 then s else endRegion s r none none
  let mine := (s.regions.filter (fun e => e.1 != 0 && e.2.state == .live && e.2.fdom == d)).map Prod.fst
  mine.foldl (fun s n => if isLive s n then endRegion s n none none else s) s

/-- RDONE's end of a region, for the slot whose turn it is: its own task ends last where it lies in the subtree. -/
def endFor (r : Nat) (s : State) : State :=
  if isBelow s s.me.region r 16384 then endRegion s r (some (waiterOf s s.cur)) none else endRegion s r none (some (waiterOf s s.cur))

/-- RDONE (R347): the slot waits while tile commands and snapshots end. -/
def execRdone (gd ga : Reg) (s : State) : Host.Outcome State Fault Refusal :=
  conclude s (
    (readG s ga).andThen fun a s =>
    match s.me.reply with
    | some (.val v) => writeDone s gd v
    | _ =>
      (blockChecks s a).andThen fun _ s =>
      if a = 0 then writeDone s gd 1
      else
        match namedRegion s a with
        | none => writeDone s gd 2
        | some r =>
          let own := isBelow s s.me.region r 16384
          let t := endFor r s
          if t.endings.any (fun e => [e.keep, e.waiter].contains (some (waiterOf s s.cur))) then
            (if own then .ok () s else probeG s gd).andThen fun _ s => act s (fun s0 => (endFor r s0).stall .reply)
          else if own then .ok () t
          else effectDone t gd 0)

end Sys2Proof.Machine
end

