-- ==== Sys2Proof/Machine/Traps.lean ====
section
/-! DEFINITION. The trap queue (R360 to R363), what a fatal record ends (R331, R334) and the stop of a partition (R362). -/

namespace Sys2Proof.Machine

/-- How many records the queue holds (R360). -/
def trapCapacity : Nat := 4096

/-- Whether a record may enter the queue (R361). -/
def trapRoom (s : State) (r : TrapRec) : Bool :=
  decide (s.tq.length < if r.kind = 3 then trapCapacity else trapCapacity - 2)

/-- The sequence number after another: 0 is skipped (R360). -/
def nextSeq (n : W32) : W32 := if n + 1 = 0 then 1 else n + 1

/-- A record enters the queue with the next sequence number; a parked access learns its record's; TQNOTE's word counts
the append (R360, R363). -/
def enterQueue (s : State) (r : TrapRec) : State :=
  let n := s.tqSeq
  let s : State := { s with tq := s.tq ++ [{ r with seq := n }], tqSeq := nextSeq n }
  let s : State :=
    match findIdx (fun p : ParkedAccess => p.record == r && p.seq.isNone) s.faultBuf with
    | some (i, _) => { s with faultBuf := modAt (fun p => { p with seq := some n }) s.faultBuf i }
    | none => s
  if s.tqnote = 0 then s else notifyFor s ⟨westDie, 0, 0⟩ s.tqnote 1

/-- The partition of a record's slot (R331). -/
def recordPart (s : State) (r : TrapRec) : Nat := (s.core (coreOf r.slot)).part.toNat

/-- What a fatal record ends (R331, R334): its region and the region's fault domain; of the root, its tasks in the
record's partition. -/
def endForFatal (s : State) (r : TrapRec) : State :=
  if r.region = 0 then endTasks s 0 none (some (recordPart s r)) else endDomain s r.region

/-- Every task of a partition's cores ends, of every context (R362). -/
def endPartition (s : State) (part : Nat) : State :=
  let on := fun (i : Nat) => (s.core (coreOf i)).part.toNat == part
  let mine := (s.slots.filter (fun e => e.2.status != .noTask && decide (e.1 < 16384) && on e.1)).map Prod.fst
  let out := s.drawers.filter (fun e => on (e.1 % 8192))
  let s := mine.foldl endTask s
  let s := out.foldl (fun s e => refund (sendHeld s e.2.1) e.2.1.region [(.slots, 1)]) s
  { s with drawers := s.drawers.filter (fun e => !(on (e.1 % 8192))) }

/-- A record's summary in a fault word (R362). -/
def faultWord (r : TrapRec) (seq : W32) : Word :=
  1#1 ++ r.cause ++ 0#4 ++ BitVec.ofNat 14 r.slot ++ r.origin ++ seq

/-- The stop of the partition of a fatal record's region (R362); of the root, of the record's partition (R331). -/
def stopPartition (s : State) (r : TrapRec) : State :=
  let part := if r.region = 0 then recordPart s r else (s.region r.region).part
  let s := endPartition s part
  let s := s.modRegion r.region (fun g => if g.fault.getLsbD 63 then g else { g with fault := faultWord r s.tqSeq })
  let s := endDomain s r.region
  let s := journalEvent s r.region 5 0
  if s.stoppedParts.contains part then s else { s with stoppedParts := s.stoppedParts ++ [part] }

/-- A record that finds no room (R361): an imprecise one is dropped, a fatal one stops the partition, a replayable one
stays with its fault buffer entry, a precise one is held for its parked slot; none where it waits on its way. -/
def turnAway (s : State) (r : TrapRec) : Option State :=
  match r.kind.toNat with
  | 0 =>
    if (s.slot r.slot).status == .parked none then
      some (s.modSlot r.slot (fun sl => { sl with status := .parked (some r) }))
    else none
  | 1 => some { s with tqLost := if s.tqLost = 0xFFFF then s.tqLost else s.tqLost + 1, tqOvf := true }
  | 2 => some s
  | _ => some (stopPartition s r)

/-- Whether a record has the origin of another, so that they arrive in order (R360): the same slot, unit of a core, copy engine
of a cluster, home slice or interface of a core, or of the collective unit, the I/O die or the device, of which there is one. -/
def sameOrigin (s : State) (r q : TrapRec) : Bool :=
  r.origin == q.origin && match r.origin.toNat with
    | 0 => r.slot == q.slot
    | 1 | 2 | 3 | 7 => coreOf r.slot == coreOf q.slot
    | 4 => clusterOf s (coreOf r.slot) == clusterOf s (coreOf q.slot)
    | 6 =>
      (match r.home, q.home with
        | some a, some b => a == b
        | _, _ => true)
    | _ => true

/-- Whether writes that a record's origin made before it are still on their way: a slot's in the store buffer, an engine's to
another device (R364). -/
def originWrites (s : State) (r : TrapRec) : Bool :=
  if r.origin = 0 then (s.core (coreOf r.slot)).sbuf.any (fun e => e.slot == r.slot)
  else decide (r.origin.toNat ≤ 5) && s.outbox.any (isWriteOf r.slot)

/-- The records held for want of room (R361): those of parked slots, switched out or not, and those of fault buffer entries. -/
def heldRecords (s : State) : List TrapRec :=
  let of_ := fun (sl : Slot) => match sl.status with
    | .parked h => h
    | _ => none
  s.slots.filterMap (fun e => of_ e.2) ++ s.drawers.filterMap (fun e => of_ e.2.1) ++
  s.faultBuf.filterMap (fun p => if p.seq.isNone && !(s.trapsInFlight.contains p.record) then some p.record else none)

/-- Whether an older record of a record's origin is held that there is room for by now: it comes first (R360, R361). -/
def heldBefore (s : State) (r : TrapRec) : Bool :=
  decide (s.tq.length < trapCapacity - 2) && (heldRecords s).any (sameOrigin s r)

/-- TRAP_RECORD_APPEND (R360, R361), after the writes that the origin made before it (R364). -/
def execTrapRecordAppend (i : Nat) (s : State) : Host.Outcome State Fault Refusal :=
  .next (
    match s.trapsInFlight[i]? with
    | none => s
    | some r =>
      if (s.trapsInFlight.take i).any (sameOrigin s r) || heldBefore s r || originWrites s r then s
      else
        let t : State := { s with trapsInFlight := dropAt s.trapsInFlight i }
        if trapRoom s r then
          let t := enterQueue t r
          if r.kind = 3 then endForFatal t r else t
        else (turnAway t r).getD s)

/-- HELD_RECORD_APPEND (R361): in the order the records were raised. -/
def execHeldRecordAppend (i : Nat) (s : State) : Host.Outcome State Fault Refusal :=
  .next (
    match (heldRecords s)[i]? with
    | none => s
    | some r =>
      if trapRoom s r && (heldRecords s).all (fun q => decide (r.time.toNat ≤ q.time.toNat)) then
        let done_ := fun (sl : Slot) => if sl.status == .parked (some r) then { sl with status := .parked none } else sl
        enterQueue { s with
          slots := s.slots.map (fun e => (e.1, done_ e.2))
          drawers := s.drawers.map (fun e => (e.1, done_ e.2.1, e.2.2)) } r
      else s)

end Sys2Proof.Machine
end

