-- ==== Sys2Proof/Machine/Remote.lean ====
section
/-! DEFINITION. Accesses that arrive from other devices (R370): translation at the east I/O die, the fault buffer,
TLBINV REPLAY, and the answers. A request that waits at its home keeps a place among the slots under a number of its
own. -/

namespace Sys2Proof.Machine

/-- The place of another device's slot among this device's waiters. -/
def guestSlot (a : RemoteAccess) : Nat := 16384 * (a.dev.toNat + 1) + a.slot.toNat

/-- An answer leaves for the requesting device. -/
def sendReply (s : State) (a : RemoteAccess) (r : Found (List Byte)) : State :=
  { s with outbox := s.outbox ++ [Out.reply a.dev a.slot r] }

/-- A request as an operation at a home, where it is one (R142). -/
def remoteOp : RemoteKind → Option AtomOp
  | .amo fn n v => some (.amo fn n v)
  | .cas n e v => some (.cas n e v)
  | .sch n v => some (.sch n v)
  | .arrive p => some (.arrive p)
  | .lrw n _ => some (.lrw n)
  | .waitcnt t => some (.waitcnt t)
  | .waitph p => some (.waitph p)
  | _ => none

/-- What a request needs of its page (R367). -/
def remoteNeed : RemoteKind → Need
  | .load _ _ _ => .load
  | .store _ _ => .store
  | .waitcnt _ | .waitph _ => .look
  | _ => .rmw

/-- How many bytes a request accesses. -/
def remoteBytes : RemoteKind → Nat
  | .load n _ _ => n
  | .store bs _ => bs.length
  | .update op _ _ => (updateFn op).2
  | k => ((remoteOp k).map atomWidth).getD 8

/-- A request that has a fault: its slot takes it; an update, which no slot waits for, leaves a record (R179, R370, R412). -/
def remoteFault (s : State) (a : RemoteAccess) (c : Cause) : State :=
  match a.kind with
  | .update _ _ _ =>
    s.sendRecord { trapRec s 1 (causeCode c) 6 a.region a.slot.toNat 0 a.va 0 with dev := a.dev }
  | _ => sendReply s a (.fault c)

/-- Another device's slot stands at a home with its request: for how long, and in which mode. -/
def guestStands (s : State) (a : RemoteAccess) (loc : Loc) : State :=
  let (kind, lim) : SleepFor × W32 := match a.kind with
    | .waitcnt t => (.waitcnt loc t, 0)
    | .waitph p => (.waitph loc p, 0)
    | .lrw n lim => (.lrw loc n, lim)
    | _ => (.remote, 0)
  s.setSlot (guestSlot a) { Slot.idle with
    region := if a.debug then guestRegion + 1 else guestRegion, waitlim := lim,
    status := .asleep ⟨kind, s.time, 0, a.va, false⟩ }

/-- A load of another device at its home: the answer is that to a load of this device (R121, R156). -/
def guestLoad (s : State) (a : RemoteAccess) (p h n : Nat) (strong : Bool) (version : Option (BitVec 48)) : State :=
  let va := normAddr s a.va
  let r : LoadReq := {
    core := coreOf (guestSlot a), slot := none, line := lineAddr s va, addr := va, n, loc := .home (p / 128 * 128) h, version,
    kept := [], grant := s.time, strong := if strong then some a.debug else none, fwd := none, code := false, live := true,
    answer := none }
  let (ans, s) := homeAnswer s r (p / 128 * 128) h
  { s with outbox := s.outbox ++ [Out.line a.dev a.slot ans] }

/-- A store of another device at its home: a strong one that is mixed-size in debug mode is refused (R156). -/
def guestStore (s : State) (a : RemoteAccess) (p h : Nat) (bs : List Byte) (strong : Bool) : State :=
  let va := normAddr s a.va
  if strong then
    if a.debug && (mixedPart s p bs.length).isSome then remoteFault s a .mixsize
    else sendReply (strongStore s va p h bs) a (.value [])
  else sendReply (plainStore s va p h bs) a (.value [])

/-- The add of another device's RUPD to its counted word (R177): at once where the word has the update's home, later at
another home of this device; a third device is sent it. -/
def guestCount (s : State) (a : RemoteAccess) (h : Nat) (w : Word) : State :=
  let b : RemoteAccess := { a with va := w, kind := .update 0 1 none }
  if devOf s w = 0x1FF then
    match leafFor s .east (vaOf w) with
    | .ok ((leaf, bits), s') =>
      let p := frameOf leaf bits (vaOf w)
      if homeOf s' (leaf.extractLsb' 44 12) p = some h ∧ leafPermits leaf .rmw = true then
        (updateAt s' a.debug (fun s _ c => remoteFault s b c) (normAddr s w) (.home p h) 0 1).1
      else { s with guestAdds := s.guestAdds ++ [b] }
    | .error _ => { (walk s .east (vaOf w)).2 with guestAdds := s.guestAdds ++ [b] }
  else { s with outbox := s.outbox ++ [Out.update (guestSlot a) w 0 1 none] }

/-- A store or request of another device that its home only checks (R378). -/
def remoteLook (s : State) (a : RemoteAccess) (p h : Nat) : State :=
  match a.kind, remoteOp a.kind with
  | .store bs strong, _ =>
    if strong && a.debug && (mixedPart s p bs.length).isSome then remoteFault s a .mixsize else sendReply s a (.value [])
  | _, some op =>
    (match lookAtHome (guestStands s a (.home p h)) (guestSlot a) (normAddr s a.va) p h op with
      | (_, .fault c) => sendReply s a (.fault c)
      | _ => sendReply s a (.value (bytesOf 8 0)))
  | _, none => s

/-- A request or update of another device, checked and translated, at its home. -/
def remoteAtHome (s : State) (a : RemoteAccess) (p h : Nat) : State :=
  let va := normAddr s a.va
  if a.look then remoteLook s a p h
  else match a.kind with
  | .load n strong version => guestLoad s a p h n strong version
  | .store bs strong => guestStore s a p h bs strong
  | .update op v cnt =>
    (match updateAt s a.debug (fun s _ c => remoteFault s a c) va (.home p h) op v, cnt with
      | (s, true), some w => guestCount s a h w
      | (s, _), _ => s)
  | k =>
    match remoteOp k with
    | none => s
    | some op =>
      let forget := fun (s : State) => { s with slots := mapDel s.slots (guestSlot a) }
      match atHome (guestStands s a (.home p h)) (guestSlot a) va p h op with
      | (s, .value v) => sendReply (forget s) a (.value (bytesOf 8 v))
      | (s, .fault c) => sendReply (forget s) a (.fault c)
      | (s, _) => s

/-- The access translated by the east I/O die and carried out; none where the walk gives no translation (R370). -/
def remoteTry (s : State) (a : RemoteAccess) : Option State :=
  match leafFor s .east (vaOf a.va) with
  | .error .outside => none
  | .error c => some (remoteFault (walk s .east (vaOf a.va)).2 a c)
  | .ok ((leaf, bits), s) =>
    let p := frameOf leaf bits (vaOf a.va)
    let need := remoteNeed a.kind
    match homeOf s (leaf.extractLsb' 44 12) p with
    | none => some (remoteFault s a .prot)
    | some h =>
      some (if inJournal s p (remoteBytes a.kind) then remoteFault s a .outside
        else if leafPermits leaf need && !(softRefuses s a.debug (normAddr s a.va) p (remoteBytes a.kind) need) then
          remoteAtHome s a p h
        else remoteFault s a .prot)

/-- RUPD_COUNT_ADD (R177): the add reaches the counted word's home; a fault found there discards it (R179, R412). The adds
of other devices' RUPDs stand after those of this device's. -/
def execRupdCountAdd (i : Nat) (s : State) : Host.Outcome State Fault Refusal :=
  .next (
    match s.cntAdds[i]?, s.guestAdds[i - s.cntAdds.length]? with
    | some (a, slot, region, _), _ =>
      notifyFor { s with cntAdds := dropAt s.cntAdds i } ⟨coreOf slot, slot, region⟩ a 1
    | none, some b =>
      let s : State := { s with guestAdds := dropAt s.guestAdds (i - s.cntAdds.length) }
      (remoteTry s b).getD (remoteFault (walk s .east (vaOf b.va)).2 b .xlate)
    | none, none => s)

/-- An access that gets no translation is parked with its record, or fails at once in a full buffer (R370). -/
def parkAccess (s : State) (a : RemoteAccess) : State :=
  if 64 ≤ s.faultBuf.length then remoteFault s a .xlate
  else
    let r := { trapRec s 2 (causeCode .xlate) 8 0 a.slot.toNat 0 (BitVec.ofNat 64 (vaOf a.va)) 0 with dev := a.dev }
    ({ s with faultBuf := s.faultBuf ++ [⟨a, r, none, s.time⟩] } : State).sendRecord r

/-- What another device withdraws (R132, R169): its parked access, or its wait at a home. -/
def withdrawGuest (s : State) (a : RemoteAccess) : State :=
  let s := s.giveUpReservation (guestSlot a)
  { s with
    slots := mapDel s.slots (guestSlot a)
    faultBuf := s.faultBuf.filter (fun p => !(p.acc.dev == a.dev && p.acc.slot == a.slot)) }

/-- REMOTE_ACCESS_ARRIVAL (R370); a device out of service answers FATALHW (R387). -/
def execRemoteAccessArrival (a : RemoteAccess) (s : State) : Host.Outcome State Fault Refusal :=
  .next (
    match a.kind with
    | .withdraw => withdrawGuest s a
    | _ =>
      if s.outOfService then remoteFault s a .fatalhw
      else (remoteTry s a).getD (parkAccess (walk s .east (vaOf a.va)).2 a))

/-- A parked access leaves the buffer and fails (R370). -/
def failParked (s : State) (i : Nat) (p : ParkedAccess) : State :=
  remoteFault { s with faultBuf := dropAt s.faultBuf i } p.acc .xlate

/-- The replay limit, which the hardware holds to no less than 100 µs (R370). -/
def replayLimit (s : State) : Nat := max s.policy.replayLimit 100000

/-- Whether a parked access has stood for the replay limit, so that it fails (R370). -/
def late (s : State) (p : ParkedAccess) : Bool := decide (p.since.toNat + replayLimit s ≤ s.time.toNat)

/-- XLATE_REPLAY_TIMEOUT (R370). -/
def execXlateReplayTimeout (i : Nat) (s : State) : Host.Outcome State Fault Refusal :=
  .next (
    match s.faultBuf[i]? with
    | none => s
    | some p => if late s p then failParked s i p else s)

/-- TLBINV REPLAY (R370): after the slot's stores have reached their homes, the access is tried once more, or fails. -/
def execTlbinvReplay (gd ga gb : Reg) (s : State) : Host.Outcome State Fault Refusal :=
  conclude s (
    (checkSup s (encodeScalar (.tlbinvReplay gd ga gb))).andThen fun _ s =>
    (readG s ga).andThen fun seq s =>
    (readG s gb).andThen fun how s =>
    (waitDrained s).andThen fun _ s =>
    match findIdx (fun p : ParkedAccess => match p.seq with
        | some n => n.setWidth 64 == seq
        | none => false) s.faultBuf with
    | none => writeDone s gd 1
    | some (i, p) =>
      let gone : State := { s with faultBuf := dropAt s.faultBuf i }
      let s := if how.getLsbD 0 || late s p then failParked s i p else (remoteTry gone p.acc).getD (failParked (walk s .east (vaOf p.acc.va)).2 i p)
      effectDone s gd 0)

end Sys2Proof.Machine
end

