-- ==== Sys2Proof/Machine/Debug.lean ====
section
/-! DEFINITION. Debug and trace instructions (R375 to R384): breakpoints, watchpoints, the cross-trigger, the mirror and
the flash; and the passing of a core cycle, which the mirror records. -/

namespace Sys2Proof.Machine

/-- BKPT (R376). -/
def execBkpt (code : BitVec 6) (s : State) : Host.Outcome State Fault Refusal :=
  conclude s (Eff.trap .bkpt (code.setWidth 64))

/-- WATCH (R377): kind OFF or a length of 0 disables the watchpoint. -/
def execWatch (ga gb : Reg) (kind : BitVec 2) (wp : Bool) (s : State) : Host.Outcome State Fault Refusal :=
  conclude s (
    (readG s ga).andThen fun b s =>
    (readG s gb).andThen fun n s =>
    let w : Watch := ⟨if n = 0 then 0 else kind, b, n⟩
    done (s.modMe (fun sl => if wp then { sl with wp1 := w } else { sl with wp0 := w })))

/-- A cluster's mirror. -/
def mirrorOf (s : State) (cl : Nat) : Mirror := (mapGet s.mirrors cl).getD ⟨false, 0, none, []⟩

/-- Whether a mirror records: a delayed stop ends it at its cycle (R382). -/
def isRecording (s : State) (m : Mirror) : Bool :=
  m.recording && match m.stopAt with
    | some c => decide (s.cycle < c)
    | none => true

/-- The cluster an XTRIG or TRACEW acts on (R379, R382). -/
def clusterArg (a : Word) : Nat := (a.extractLsb' 0 6).toNat

/-- XTRIG HALT (R379, R380): the halt stops the cluster's mirror too (R382). -/
def execXtrigHalt (gd ga : Reg) (s : State) : Host.Outcome State Fault Refusal :=
  conclude s (
    (checkSup s (encodeScalar (.xtrigHalt gd ga))).andThen fun _ s =>
    (readG s ga).andThen fun a s =>
    let cl := clusterArg a
    if s.halted.contains cl then writeDone s gd 1
    else
      let m := mirrorOf s cl
      let s : State := if m.recording then { s with mirrors := mapPut s.mirrors cl { m with recording := false } } else s
      effectDone { s with halted := s.halted ++ [cl] } gd 0)

/-- XTRIG RESUME (R379). -/
def execXtrigResume (gd ga : Reg) (s : State) : Host.Outcome State Fault Refusal :=
  conclude s (
    (checkSup s (encodeScalar (.xtrigResume gd ga))).andThen fun _ s =>
    (readG s ga).andThen fun a s =>
    let cl := clusterArg a
    if s.halted.contains cl then effectDone { s with halted := s.halted.filter (fun x => x != cl) } gd 0
    else writeDone s gd 1)

/-- XTRIG QUERY (R379): bit n set where cluster n is halted. -/
def execXtrigQuery (gd ga : Reg) (s : State) : Host.Outcome State Fault Refusal :=
  conclude s (
    (checkSup s (encodeScalar (.xtrigQuery gd ga))).andThen fun _ s =>
    (readG s ga).andThen fun _ s =>
    writeDone s gd (s.halted.foldl (fun (m : Word) cl => m ||| (1#64 <<< cl)) 0))

/-- TRACEW START (R382). -/
def execTracewStart (gd ga gb : Reg) (s : State) : Host.Outcome State Fault Refusal :=
  conclude s (
    (checkSup s (encodeScalar (.tracewStart gd ga gb))).andThen fun _ s =>
    (readG s ga).andThen fun a s =>
    (readG s gb).andThen fun _ s =>
    let cl := clusterArg a
    if isRecording s (mirrorOf s cl) then writeDone s gd 1
    else effectDone { s with mirrors := mapPut s.mirrors cl ⟨true, s.cycle + 1, none, []⟩ } gd 0)

/-- TRACEW STOP (R382): at once, or gb cycles later. -/
def execTracewStop (gd ga gb : Reg) (s : State) : Host.Outcome State Fault Refusal :=
  conclude s (
    (checkSup s (encodeScalar (.tracewStop gd ga gb))).andThen fun _ s =>
    (readG s ga).andThen fun a s =>
    (readG s gb).andThen fun n s =>
    let cl := clusterArg a
    let m := mirrorOf s cl
    if isRecording s m then
      let m := if n = 0 then { m with recording := false } else { m with stopAt := some (s.cycle + n.toNat) }
      effectDone { s with mirrors := mapPut s.mirrors cl m } gd 0
    else writeDone s gd 1)

/-- TRACE_STOP (R382): a delayed stop's count has run out. -/
def execTraceStop (cluster : Nat) (s : State) : Host.Outcome State Fault Refusal :=
  .next (
    let m := mirrorOf s cluster
    if m.recording && !(isRecording s m) then
      { s with mirrors := mapPut s.mirrors cluster { m with recording := false, stopAt := none } }
    else s)

/-- The head of a mirror's image (R382): the oldest cycle's number, the count, and zeros. -/
def mirrorHead (m : Mirror) : List Byte :=
  bytesOfNat 8 ((m.cycles.getLast?.map Prod.fst).getD 0) ++ bytesOfNat 8 m.cycles.length ++ List.replicate 48 0

/-- The length of a whole image (R382). -/
def mirrorBytes : Nat := 64 + 65536 * 18 * 8

/-- The checks of an area that the trace unit writes (R382, R383): MISALIGN, then PROT, then OUTSIDE, all with the
area's address. -/
def traceArea (s : State) (a : Word) (align n : Nat) : Eff Unit :=
  (checkAlign s a align).andThen fun _ s =>
  (check s (!(a.getLsbD 63) && devOf s a == 0x1FF) .prot a).andThen fun _ s =>
  match rangeFault s s.who a n .store with
  | some (c, _) => .trap c a
  | none => .ok () s

/-- A dump begins (R382): the head of the image, and then a row for each cycle. -/
def beginDump (m : Mirror) (d : Word) (s0 : State) : State :=
  let w := waiterOf s0 s0.cur
  let s := ioPut s0 s0.who d (mirrorHead m)
  ({ s with dumps := s.dumps ++ [⟨w, s0.me.region, d + 64, (m.cycles.map Prod.snd).reverse, 65536⟩] } : State).sleepFor .dump d

/-- The slot that waits for a dump goes on, where its task is still there. -/
def endDump (s : State) (w : Waiter) : State :=
  match (s.slot w.slot).status with
  | .asleep z => if z.kind = .dump ∧ waiterOf s w.slot = w then answer s w.slot (.val 0) else s
  | _ => s

/-- The entries of a cycle as bytes; of a cycle that the mirror does not hold they are free values (R382; log entry 110). -/
def dumpBytes (s : State) : List (List Word) → List Byte × State
  | r :: _ => (r.flatMap (bytesOf 8), s)
  | [] => s.drawBytes 144

/-- The oldest dump writes its next cycle's entries, a plain write; after the last, the slot goes on (R382). -/
def dumpRow (s : State) : State :=
  match s.dumps with
  | [] => s
  | d :: ds =>
    match d.left with
    | 0 => endDump { s with dumps := ds } d.who
    | n + 1 =>
      let (bs, s) := dumpBytes s d.rows
      let s := ioPut s ⟨coreOf d.who.slot, d.who.slot, d.region⟩ d.at_ bs
      { s with dumps := { d with at_ := d.at_ + 144, rows := d.rows.drop 1, left := n } :: ds }

/-- TRACEW DUMP (R382): the slot sleeps until the last write has reached its home; the writes happen before its later
accesses. -/
def execTracewDump (gd ga gb : Reg) (s : State) : Host.Outcome State Fault Refusal :=
  conclude s (
    (checkSup s (encodeScalar (.tracewDump gd ga gb))).andThen fun _ s =>
    (readG s ga).andThen fun a s =>
    (readG s gb).andThen fun d s =>
    match s.me.reply with
    | some (.val v) => writeDone (endRange s s.myCore d (BitVec.ofNat 64 mirrorBytes)) gd v
    | _ =>
      let m := mirrorOf s (clusterArg a)
      (traceArea s d 4096 mirrorBytes).andThen fun _ s =>
      if isRecording s m then writeDone s gd 1
      else (probeG s gd).andThen fun _ s => act s (beginDump m d))

/-- FLASH (R383). -/
def execFlash (gd ga gb : Reg) (s : State) : Host.Outcome State Fault Refusal :=
  conclude s (
    (checkSup s (encodeScalar (.flash gd ga gb))).andThen fun _ s =>
    (readG s ga).andThen fun t s =>
    (readG s gb).andThen fun a s =>
    (readG s gd).andThen fun c s =>
    (traceArea s a 2048 (64 * 2048)).andThen fun _ s =>
    if s.flash.isSome then writeDone s gd 1
    else if s.reached t then writeDone s gd 2
    else if s.clockFaults ≠ [] then writeDone s gd 3
    else effectDone { s with flash := some ⟨t, a, c, s.cur, s.me.region⟩ } gd 0)

/-- The live logical core that a physical core runs as (R17). -/
def logicalAt (s : State) (phys : Nat) : Option Nat :=
  ((List.range' (phys / Config.clusterCores * s.liveCores) s.liveCores).find? (fun l =>
    isLiveCore s l && physOf s l == phys))

/-- A slot's state in a flash entry (R384). -/
def flashState (s : State) (i : Nat) : BitVec 4 :=
  let sl := s.slot i
  match sl.status with
  | .parked _ => 4
  | st =>
    if s.halted.contains (clusterOf s (coreOf i)) then 6
    else
      match st with
      | .asleep _ => 3
      | .waiting _ => 2
      | _ => if sl.inh then 5 else 1

/-- The slots of a cluster that hold a task, by 8 × physical core + slot (R384). -/
def occupied (s : State) (n : Nat) : List (Nat × Nat) :=
  (List.range (8 * Config.clusterCores)).filterMap (fun b =>
    match logicalAt s (n * Config.clusterCores + b / 8) with
    | none => none
    | some l => if (s.slot (8 * l + b % 8)).status == .noTask then none else some (b, 8 * l + b % 8))

/-- The 2,048-byte record of a cluster (R384). -/
def flashRecord (s : State) (t : Word) (n : Nat) : List Byte :=
  let es := occupied s n
  let mask := (es.map (fun e => 2 ^ e.1)).sum
  let bs := bytesOf 8 t ++ [byteOf n, byteOf es.length] ++ bytesOfNat 18 mask ++ List.replicate 4 0 ++
    es.flatMap (fun e => bytesOf 8 (flashState s e.2 ++ 0#12 ++ (s.slot e.2).pc.extractLsb' 0 48))
  bs ++ List.replicate (2048 - bs.length) 0

/-- The records written one after another, then the notification; a fault ends them with an imprecise record (R384). -/
def writeFlash (s : State) (f : Flash) : List (Nat × List Byte) → State
  | [] =>
    if f.cw = 0 then s
    else if f.cw.toNat % 8 = 0 then notifyFor s ⟨coreOf f.slot, f.slot, f.region⟩ f.cw 1
    else s.sendRecord (trapRec s 1 (causeCode .misalign) 9 f.region f.slot 0 f.cw 0)
  | (n, bs) :: rest =>
    match ioWrite s ⟨coreOf f.slot, f.slot, f.region⟩ (f.area + BitVec.ofNat 64 (2048 * n)) bs with
    | .ok s => writeFlash s f rest
    | .error (c, a) => s.sendRecord (trapRec s 1 (causeCode c) 9 f.region f.slot 0 a 0)

/-- FLASH_PULSE (R384): every record holds the state at the pulse. -/
def execFlashPulse (s : State) : Host.Outcome State Fault Refusal :=
  .next (
    match s.flash with
    | none => s
    | some f =>
      if s.reached f.time then
        writeFlash { s with flash := none } f ((List.range Config.clusters).map (fun n => (n, flashRecord s f.time n)))
      else s)

/-- Whether the slot whose turn it is has taken a fault: it is parked, or its handler has been entered (R356). -/
def tookFault (before after : State) : Bool :=
  let i := before.cur
  (match (after.slot i).status with
    | .parked _ => true
    | _ => false) || (!(before.slot i).inh && (after.slot i).inh)

/-- What a turn of a slot was, for the mirrors: noted only while its cluster's mirror records (R381). -/
def noteTurn (before : State) (pc : Word) (after : State) : State :=
  let i := before.cur
  if before.mirrors.isEmpty || !(isRecording before (mirrorOf before (clusterOf before (coreOf i)))) then after
  else
    { after with issued := after.issued ++ [(i, tookFault before after, pc)] }

/-- A physical core's mirror entry for this cycle (R381). -/
def mirrorEntry (s : State) (phys : Nat) : Word :=
  let turn := s.cycle % 8
  match logicalAt s phys with
  | none => 1#4 ++ 0#9 ++ BitVec.ofNat 3 turn ++ 0#48
  | some l =>
    let i := 8 * l + turn
    let (ev, pc) : BitVec 4 × Word :=
      if s.halted.contains (clusterOf s l) then (4, (s.slot i).pc)
      else
        match (s.issued.find? (fun e => e.1 == i && e.2.1)).or (s.issued.find? (fun e => e.1 == i)) with
        | some (_, faulted, pc) => (if faulted then 3 else 0, pc)
        | none => (if (s.slot i).status == .noTask then 1 else 2, (s.slot i).pc)
    ev ++ 0#9 ++ BitVec.ofNat 3 turn ++ pc.extractLsb' 0 48

/-- Every mirror that records takes this cycle's entries, and keeps the newest 65,536 cycles (R381). -/
def recordMirrors (s : State) : State :=
  if s.mirrors.isEmpty then s
  else
    { s with
      issued := s.issued.filter (fun e => e.1 % 8 != s.cycle % 8)
      mirrors := s.mirrors.map (fun e =>
        let m := e.2
        if isRecording s m && decide (m.since ≤ s.cycle) then
          let es := (List.range Config.clusterCores).map (fun p => mirrorEntry s (e.1 * Config.clusterCores + p))
          (e.1, { m with cycles := ((s.cycle, es) :: m.cycles).take 65536 })
        else e) }

/-- One core cycle passes: 10/21 ns of domain time (R19, R22), unless the copy holds still (R26). -/
def State.passCycle (s : State) : State :=
  let s := { recordMirrors s with cycle := s.cycle + 1, turned := [], bumped := [], flagged := [], bankServed := [] }
  let n := s.sub + 10
  if n < 21 then { s with sub := n }
  else if s.timeHold = 0 then { s with sub := n - 21, time := s.time + 1 }
  else { s with sub := n - 21, timeHold := s.timeHold - 1 }

/-- Cycles pass. -/
def State.pass (s : State) : Nat → State
  | 0 => s
  | n + 1 => (s.passCycle).pass n

end Sys2Proof.Machine
end

