-- ==== Sys2Proof/Machine/Enumeration.lean ====
section
/-! DEFINITION. The enumeration table and ENUM (R385 to R389), the failure of a core (R18), clock faults (R27), links
(R11, R387), and the module's life: power-on, reset, joining and leaving a domain (R21, R26, R331). -/

namespace Sys2Proof.Machine

/-- Whether a physical core was not live at manufacture (R17). -/
def isNonlive (s : State) (p : Nat) : Bool := s.nonlive.getLsbD p

/-- The spares of a cluster that are free to take over (R17), by physical index. -/
def freeSpares (s : State) (cl : Nat) : List Nat :=
  (List.range' (cl * Config.clusterCores) Config.clusterCores).filter (fun p =>
    isNonlive s p && !(s.takeover.any (fun t => t.2 == p)) && (mapGet s.failed p).isNone && !(s.defect.contains p))

/-- The device's entry (R386). -/
def deviceEntry (s : State) : Word :=
  let spares := ((List.range Config.clusters).map (fun c => (freeSpares s c).length)).sum
  s.enumGen ++ BitVec.ofNat 2 s.grade ++ BitVec.ofNat 11 s.logicalCores ++ BitVec.ofNat 9 spares ++ 0#34

/-- A core's entry (R386). -/
def coreEntry (s : State) (l : Nat) : Word :=
  let gone := s.retired.contains l
  let st : BitVec 2 := if gone then 1 else if (mapGet s.takeover l).isSome then 2 else 0
  let phys := if gone then 0x7FF else physOf s l
  st ++ 0#19 ++ BitVec.ofNat 11 phys ++ BitVec.ofNat 11 (origOf s l) ++ 0#12 ++ BitVec.ofNat 6 (clusterOf s l) ++
    BitVec.ofNat 3 (dieOf s l)

/-- A physical core's entry (R386): FAILED, LIVE, DEFECT or SPARE. -/
def physEntry (s : State) (p : Nat) : Word :=
  match mapGet s.failed p with
  | some id => 3#2 ++ 0#51 ++ BitVec.ofNat 11 id
  | none =>
    match logicalAt s p with
    | some l => 0#53 ++ BitVec.ofNat 11 l
    | none => (if s.defect.contains p then 2#2 else 1#2) ++ 0#51 ++ 0x7FF#11

/-- A stack's entry (R386): physical address bits 39:36 name the stack (R367). -/
def stackEntry (s : State) (i : Nat) : Word :=
  let ret := min 65535 ((s.badPages.filter (fun p => p / 2 ^ 24 == i)).length)
  0#1 ++ BitVec.ofNat 3 (i / 2) ++ 0#12 ++ BitVec.ofNat 16 ret ++ 64#16 ++ 256#16

/-- The ends of a link (R386). -/
def linkEnds (i : Nat) : Nat × Nat :=
  if i < 3 then (i, i + 1)
  else if i < 6 then (i + 1, i + 2)
  else if i < 10 then (i - 6, i - 2)
  else if i < 12 then (8, 4 * (i - 10))
  else (9, 4 * (i - 12) + 3)

/-- A link's entry (R386). -/
def linkEntry (s : State) (i : Nat) : Word :=
  let e := linkEnds i
  BitVec.ofNat 4 e.1 ++ BitVec.ofNat 4 e.2 ++ (mapGet s.linkWidth i).getD 0 ++ 0#54

/-- The latency class of two compute dies: the links of the shortest path (R10, R12). -/
def latencyClass (a b : Nat) : Nat := (max (a % 4) (b % 4) - min (a % 4) (b % 4)) + (if a / 4 = b / 4 then 0 else 1)

/-- A die's latency entry (R386). -/
def latencyEntry (d : Nat) : Word := BitVec.ofNat 64 ((List.range 8).map (fun j => latencyClass d j * 16 ^ j)).sum

/-- An entry of the enumeration table by its selector, 0 where there is none (R385, R388). -/
def enumEntry (s : State) (sel : Word) : Word :=
  let i := (sel.extractLsb' 0 16).toNat
  match (sel.extractLsb' 16 3).toNat with
  | 0 => if i = 0 then deviceEntry s else 0
  | 1 => if i < s.logicalCores then coreEntry s i else 0
  | 2 => if i < Config.physCores then physEntry s i else 0
  | 3 => if i < 16 then stackEntry s i else 0
  | 4 => if i < 14 then linkEntry s i else 0
  | 5 => if i < 8 then latencyEntry i else 0
  | _ => 0

/-- ENUM (R388). -/
def execEnum (gd ga : Reg) (s : State) : Host.Outcome State Fault Refusal :=
  conclude s ((readG s ga).andThen fun sel s => writeDone s gd (enumEntry s sel))

/-- The host writes a word of the device's vendor-specific capability in configuration space (R389): ESEL, at offset 0x0C,
is the one that can be written. -/
def configWrite (s : State) (offset : Nat) (v : W32) : State := if offset = 0x0C then { s with esel := v } else s

/-- What EDATA reads as: ENUM of ESEL (R389). -/
def readEdata (s : State) : Word := enumEntry s (s.esel.setWidth 64)

/-- What the host reads of the capability, word by word (R389): Tvedid's vendor ID in the low half of the word at offset 4 (log
entry 105), ESEL at 0x0C, and EDATA at 0x10, its low word first. -/
def configRead (s : State) (offset : Nat) : W32 :=
  match offset with
  | 0x04 => (Config.capabilityWord 4).extractLsb' 16 16 ++ Config.vendorId
  | 0x0C => s.esel
  | 0x10 => (readEdata s).extractLsb' 0 32
  | 0x14 => (readEdata s).extractLsb' 32 32
  | n => Config.capabilityWord n

/-- The tasks of a core end with its failure, in its slots and in their drawers, with one fatal record each (R18). -/
def failTasks (s : State) (c : Nat) : State :=
  let here := (s.slots.filter (fun e => coreOf e.1 == c && e.2.status != .noTask)).map (fun e => (e.1, e.2.region))
  let kept := s.drawers.filter (fun e => coreOf (e.1 % 8192) == c)
  let out := kept.map (fun e => (e.1 % 8192, e.2.1.region))
  let s := kept.foldl (fun s e => sendHeld s e.2.1) (here.foldl (fun s e => endTask s e.1) s)
  let s := out.foldl (fun s e => refund s e.2 [(.slots, 1)]) s
  let s : State := { s with drawers := s.drawers.filter (fun e => coreOf (e.1 % 8192) != c) }
  (here ++ out).foldl (fun s e => s.sendRecord (trapRec s 3 (causeCode .fatalhw) 9 e.2 e.1 0 (BitVec.ofNat 64 c) 0)) s

/-- Whether a message goes to a core (R18). -/
def bound (c : Nat) : Flight → Bool
  | .inbox m _ => coreOf m.slot == c
  | .task m _ | .spawn m _ => m.core == c
  | .bard n _ _ => coreOf n.slot == c
  | .thread _ to_ _ _ => coreOf to_ == c
  | .spawned _ _ => false

/-- A message to a failed core is discarded; a SPAWN has its answer, that no slot takes it (R18, R190; log entry 84). -/
def lostFlight (c : Nat) (f : Flight) : List Flight :=
  match f with
  | .spawn m src => if m.core = c then [.spawned src 1] else [.spawn m src]
  | f => if bound c f then [] else [f]

/-- A core's tile commands, evaluations and messages are discarded, those of the contexts that are switched out too (R18,
R222); what it had in its store buffer, its armed alarms and its protection windows are lost with it (log entry 94). -/
def failUnits (s : State) (c : Nat) : State :=
  let s : State := { s.setCore c Core.init with
    copies := s.copies.map (fun e => match e.2.run with
      | some r => if coreOf r.cmd.slot = c then (e.1, { e.2 with run := none }) else e
      | none => e)
    colls := s.colls.filter (fun r => r.core != c)
    loads := s.loads.filter (fun l => l.core != c)
    coreDrawers := s.coreDrawers.filter (fun e => e.1 % 2048 != c)
    flights := s.flights.flatMap (lostFlight c)
    spill := s.spill.filter (fun x => !(bound c x.2.2)) }
  ((s.evals.filter (fun e => e.2.phase != .idle && e.1 / 4 == c)).map Prod.fst).foldl abandonEval s

/-- A line of a failed core's level-two slice (R18): lost writes leave poison. -/
def failLine (c : Nat) (i : LineInfo) : LineInfo :=
  if i.slice = some c then { i with slice := none, dirty := false, poison := i.poison || i.dirty, strong := none, sharers := [] }
  else i

/-- What the failure of a core does to memory (R18): its TCM is lost, its slice's lines too, the entries derived from
the table lines that it homed are dropped everywhere, and the reservations queued there are forgotten. A walk alone does not
say where a table line is homed: one that no other access has brought to a slice counts here as homed on the core (log
entry 94). -/
def failMemory (s : State) (c : Nat) : State :=
  let homed := fun (l : Nat) => (s.line l).slice == some c
  let tables := (s.lines.filter (fun e => (e.2.slice == some c || e.2.slice.isNone) && !e.2.sharers.isEmpty)).map Prod.fst
  let drop := fun (w : List WalkEntry) => w.filter (fun e => !(e.lines.any (fun l => tables.contains l)))
  let unshare := fun (e : Nat × LineInfo) => if tables.contains e.1 then { e.2 with sharers := [] } else e.2
  { s with
    mem := s.mem.filter (fun e => !(decide (tcmKey c 0 ≤ e.1) && decide (e.1 < tcmKey c 0 + 2 ^ 18)))
    resv := s.resv.filter (fun e => decide (2 ^ 48 ≤ e.1) || !(homed (e.1 / 128)))
    lines := s.lines.map (fun e => (e.1, failLine c (unshare e)))
    cores := s.cores.map (fun e => (e.1, { e.2 with walks := drop e.2.walks }))
    westWalks := drop s.westWalks
    eastWalks := drop s.eastWalks }

/-- A core as a spare starts it (R17, R18): what firmware and the device had set for the id stays. -/
def spareCore (k : Core) : Core :=
  { Core.init with leaselen := k.leaselen, mslot := k.mslot, part := k.part }

/-- Requests that go to a retired home go to the core that serves its share (R113). -/
def servedBy (c d : Nat) : Loc → Loc
  | .home p h => .home p (if h = c then d else h)
  | l => l

/-- The beats that a copy command has still to write of its row at a retired home (R284). -/
def copyServedBy (c d : Nat) (r : Running) : Running :=
  { r with copy := { r.copy with beats := r.copy.beats.map (fun b => b.map (fun w => (w.1, servedBy c d w.2.1, w.2.2))) } }

/-- A sleep at a retired home goes on at the core that serves its share. -/
def sleepServedBy (c d : Nat) (st : Status) : Status :=
  match st with
  | .asleep z =>
    .asleep { z with kind := match z.kind with
      | .lrw l n => .lrw (servedBy c d l) n
      | .waitph l p => .waitph (servedBy c d l) p
      | .waitcnt l t => .waitcnt (servedBy c d l) t
      | k => k }
  | st => st

/-- The shadows that a retired home kept are kept by the core that serves its share (R303). -/
def shadowsServedBy (c d : Nat) (i : LineInfo) : LineInfo :=
  { i with shadows := i.shadows.map (fun h => if h.home = c then { h with home := d } else h) }

/-- The end of a snapshot that a retired home had yet to carry out is for the core that serves its share to carry out, which has
then not done so (R303). -/
def endServedBy (c d : Nat) (n : Snap) : Snap :=
  { n with ending := n.ending.map (fun e =>
      if e.2.1.getLsbD c then e else (e.1, e.2.1 &&& ~~~(1#1024 <<< d), e.2.2)) }

/-- The id of a failed core is retired (R18, R249): what was for it as a home goes to the core that serves its share. -/
def retireId (s : State) (c : Nat) : State :=
  let s := ({ s with retired := s.retired ++ [c] } : State).modCore c (fun k => { k with stopped := true })
  match nextLive s c with
  | none => s
  | some d =>
    let served := fun (h : Option Nat) => if h = some c then some d else h
    { s with
      loads := s.loads.map (fun l => { l with loc := servedBy c d l.loc })
      atoms := s.atoms.map (fun a => { a with loc := servedBy c d a.loc })
      slots := s.slots.map (fun e => (e.1, { e.2 with status := sleepServedBy c d e.2.status }))
      resv := s.resv.map (fun e => (e.1, e.2.map (fun r => { r with home := served r.home })))
      lines := s.lines.map (fun e => (e.1, shadowsServedBy c d e.2))
      snaps := s.snaps.map (endServedBy c d)
      copies := s.copies.map (fun e => (e.1, { e.2 with run := e.2.run.map (copyServedBy c d) }))
      cores := s.cores.map (fun e => (e.1, { e.2 with sbuf := e.2.sbuf.map (fun b => { b with loc := servedBy c d b.loc }) })) }

/-- A core fails in service (R18). -/
def failCore (s : State) (c : Nat) : State :=
  let phys := physOf s c
  let before := s.core c
  let s := failMemory (failUnits (failTasks s c) c) c
  let s := s.setCore c (spareCore before)
  let s := match freeSpares s (clusterOf s c) with
    | p :: _ => { s with takeover := mapPut s.takeover c p }
    | [] => retireId s c
  let s := journalEvent (tableChanged { s with failed := mapPut s.failed phys c }) 0 8 (BitVec.ofNat 32 c)
  progressEndings (settleSnaps s)

/-- CORE_FAIL (R18). -/
def execCoreFail (core : Nat) (s : State) : Host.Outcome State Fault Refusal :=
  .next (if isLiveCore s core then failCore s core else s)

/-- BUILT_IN_SELF_CHECK (R18): a core found faulty fails. -/
def execBuiltInSelfCheck (core : Nat) (faulty : Bool) (s : State) : Host.Outcome State Fault Refusal :=
  .next (if faulty && isLiveCore s core then failCore s core else s)

/-- CLOCK_FAULT (R27). -/
def execClockFault (die : Nat) (s : State) : Host.Outcome State Fault Refusal :=
  .next (
    if s.clockFaults.contains die then s
    else
      let drop := fun (k : Core) => { k with cache := k.cache.map (fun l => { l with live := false }) }
      let s : State := { s with
        cores := s.cores.map (fun e => (e.1, drop e.2))
        loads := s.loads.map (fun l => { l with live := false })
        shelf := [] }
      let s := s.cupboard.foldl unshelveAtHub { s with cupboard := [] }
      journalEvent { s with clockFaults := s.clockFaults ++ [die] } 0 4 0)

/-- CLOCK_FAULT_CLEAR (R27). -/
def execClockFaultClear (die : Nat) (s : State) : Host.Outcome State Fault Refusal :=
  .next { s with clockFaults := s.clockFaults.filter (fun d => d != die) }

/-- DOMAIN_JOIN (R26): a copy behind steps forward, one ahead holds still until the domain reaches it. -/
def execDomainJoin (dev : BitVec 9) (time : Word) (s : State) : Host.Outcome State Fault Refusal :=
  .next (
    if 432 ≤ dev.toNat then s
    else
      let s : State := { s with dev, time := if s.time.toNat < time.toNat then time else s.time,
                                timeHold := s.time.toNat - time.toNat, present := s.present.filter (fun d => d != dev.toNat) }
      journalEvent s 0 7 0)

/-- The module as power leaves it (R331): what no reset reaches stays, that is the fused minimum version, the grade and the
cores fixed at manufacture, the modules of the domain, and this model's own schedule and counter of free values. -/
def poweredOn (s : State) : State :=
  { State.reset with agenda := s.agenda, freeCtr := s.freeCtr, fwMinSvn := s.fwMinSvn, present := s.present,
                     grade := s.grade, nonlive := s.nonlive, defect := s.defect }

/-- POWER_ON (R331, R391). -/
def execPowerOn (s : State) : Host.Outcome State Fault Refusal := .next (poweredOn s)

/-- The module as a reset leaves it while its power stays (R387): what is counted from power-on goes on, that is the
journal, the trap queue's numbers, the refusals and discarded writes, and the serial numbers of snapshots and collectives
(R360, R391, R392; log entry 107). -/
def resetPowered (s : State) : State :=
  { poweredOn s with
    mem := s.mem.filter (fun c => inJournal s c.1 1)
    jbase := s.jbase, jhead := s.jhead, disc := s.disc, rfcnt := s.rfcnt, refusals := s.refusals
    tqSeq := s.tqSeq, snapSerial := s.snapSerial, collCounts := s.collCounts, cycle := s.cycle }

/-- MODULE_RESET (R387): a reset tests every link afresh; where one still cannot run, the widths keep their last values. -/
def execModuleReset (linksRun : Bool) (s : State) : Host.Outcome State Fault Refusal :=
  .next (if linksRun then resetPowered s else { resetPowered s with outOfService := true, linkWidth := s.linkWidth })

/-- LINK_WIDTH_CHANGE (R11): a link that has lost lanes. -/
def execLinkWidthChange (link : Nat) (width : BitVec 2) (s : State) : Host.Outcome State Fault Refusal :=
  .next (
    if link < 14 ∧ ((mapGet s.linkWidth link).getD 0).toNat < width.toNat ∧ width.toNat ≤ 2 then
      tableChanged { s with linkWidth := mapPut s.linkWidth link width }
    else s)

/-- Another device's waits here are answered with FATALHW (R387). -/
def failGuests (s : State) : State :=
  let guests := (s.slots.filter (fun e => decide (16384 ≤ e.1))).map Prod.fst
  let parked := s.faultBuf.map ParkedAccess.acc
  let s := guests.foldl (fun s g =>
    let s := s.giveUpReservation g
    let o := Out.reply (BitVec.ofNat 9 (g / 16384 - 1)) (BitVec.ofNat 14 (g % 16384)) (.fault .fatalhw)
    { s with slots := mapDel s.slots g, outbox := s.outbox ++ [o] }) s
  parked.foldl (fun s a => remoteFault s a .fatalhw) { s with faultBuf := [] }

/-- The partitions of the device: those of its live cores. -/
def partitions (s : State) : List Nat :=
  (((List.range s.logicalCores).filter (isLiveCore s)).map (fun c => (s.core c).part.toNat)).eraseDups

/-- Links of the shortest path between two dies, 8 and 9 being the west and the east I/O die (R10, R12). -/
def dieDistance (a b : Nat) : Nat :=
  let column := fun (d : Nat) => if d = 8 then 0 else if d = 9 then 5 else d % 4 + 1
  max (column a) (column b) - min (column a) (column b) + (if 8 ≤ a ∨ 8 ≤ b ∨ a / 4 = b / 4 then 0 else 1)

/-- Whether a shortest path between two dies leads over a link. -/
def leadsOver (link a b : Nat) : Bool :=
  let (u, v) := linkEnds link
  dieDistance a b == dieDistance a u + 1 + dieDistance v b || dieDistance a b == dieDistance a v + 1 + dieDistance u b

/-- What is left of some traffic, given the dies between which each part of it is, when a link is lost: whether a part whose way
may lead over the link is on it is a free value (log entry 108). -/
def keepOff {α : Type} (link : Nat) (ends : α → Nat × Nat) (s : State) : List α → List α × State
  | [] => ([], s)
  | x :: xs =>
    if leadsOver link (ends x).1 (ends x).2 then
      let (v, s) := s.draw
      let (ys, s) := keepOff link ends s xs
      (if v.getLsbD 0 then ys else x :: ys, s)
    else
      let (ys, s) := keepOff link ends s xs
      (x :: ys, s)

/-- The die of a slot of this device; what comes from outside comes through the east I/O die. -/
def slotDie (s : State) (slot : Nat) : Nat := if 8192 ≤ slot then 9 else dieOf s (coreOf slot)

/-- The dies between which an access of a die's slot or engine is. -/
def locEnds (s : State) (die : Nat) : Loc → Nat × Nat
  | .home _ h => (die, dieOf s h)
  | .away _ => (die, 9)
  | .bank _ => (die, die)

/-- The dies between which a message is; an answer or a thread may come from any, and finds no task. -/
def flightEnds (s : State) : Flight → Nat × Nat
  | .inbox m src => (slotDie s src, slotDie s m.slot)
  | .task m src | .spawn m src => (slotDie s src, dieOf s m.core)
  | .bard n _ src => (slotDie s src, slotDie s n.slot)
  | .spawned src _ => (slotDie s src, slotDie s src)
  | .thread _ to_ _ _ => (slotDie s to_, slotDie s to_)

/-- The slot on whose behalf something is on its way to another device; one of the hub's comes from none. -/
def outSlot : Out → Nat
  | .load i _ _ _ | .store i _ _ _ _ | .atom i _ _ _ | .update i _ _ _ _ | .withdraw i | .write i _ _ | .message i _ _ => i
  | .unside _ _ _ i _ => i
  | .inbox m _ => m.srcslot.toNat
  | .bard _ _ i | .coll _ i _ => i
  | .advert a _ => a.slot
  | .post p _ => p.slot
  | .row r _ => r.slot
  | .task _ _ | .reply _ _ _ | .line _ _ _ | .packet _ _ | .nack _ _ | .loss _ _ => 8192

/-- The dies between which an add to a counted word is: from the home of the update, which can be any that the slot's accesses
reach, it is taken as the slot's die (log entry 108). -/
def addEnds (s : State) (w : Who) (die : Nat) (a : Word) : Nat × Nat :=
  match accessLoc s w a 8 .rmw with
  | .ok (l, _) => locEnds s die l
  | .error _ => (die, die)

/-- The store buffers without what is on a lost link. -/
def cutBuffers (link : Nat) (s : State) : State :=
  s.cores.foldl (fun s e =>
    let (sbuf, s) := keepOff link (fun (b : SbEntry) => locEnds s (dieOf s e.1) b.loc) s (s.core e.1).sbuf
    if sbuf.length = (s.core e.1).sbuf.length then s else s.modCore e.1 (fun k => { k with sbuf })) s

/-- The requests, updates and records within the device without what is on a lost link. -/
def cutAccesses (link : Nat) (s : State) : State :=
  let (loads, s) := keepOff link (fun (r : LoadReq) => locEnds s (dieOf s r.core) r.loc) s s.loads
  let (atoms, s) := keepOff link (fun (q : AtomReq) => locEnds s (slotDie s q.slot) q.loc) s s.atoms
  let (cntAdds, s) := keepOff link (fun (x : Word × Nat × Nat × BitVec 3) =>
    addEnds s ⟨coreOf x.2.1, x.2.1, x.2.2.1⟩ (slotDie s x.2.1) x.1) s s.cntAdds
  let (guestAdds, s) := keepOff link (fun (b : RemoteAccess) => addEnds s ⟨eastDie, 0, b.region⟩ 9 b.va) s s.guestAdds
  let (devWrites, s) := keepOff link (fun (w : DevWrite) => (slotDie s w.slot, 8)) s s.devWrites
  let (trapsInFlight, s) := keepOff link (fun (r : TrapRec) => (slotDie s r.slot, 8)) s s.trapsInFlight
  { s with loads, atoms, cntAdds, guestAdds, devWrites, trapsInFlight }

/-- The messages and shuffle traffic without what is on a lost link. -/
def cutMessages (link : Nat) (s : State) : State :=
  let (flights, s) := keepOff link (flightEnds s) s s.flights
  let (outbox, s) := keepOff link (fun (o : Out) => (slotDie s (outSlot o), 9)) s s.outbox
  let (adverts, s) := keepOff link (fun (a : Advert) => (slotDie s a.slot, 9)) s s.adverts
  let (posts, s) := keepOff link (fun (p : Post) => (slotDie s p.slot, 9)) s s.posts
  let (rows, s) := keepOff link (fun (r : DispRow) => (if isHere s r.dev then slotDie s r.slot else 9, 9)) s s.rows
  let (places, s) := keepOff link (fun (q : PlaceReq) =>
    (9, ((q.experts.head?.bind (mapGet s.experts)).map Expert.die).getD 9)) s s.places
  { s with flights, outbox, adverts, posts, rows, places }

/-- The die of a sharer of table lines: a core by its physical number, or an I/O die (R368). -/
def readerDie (s : State) (bit : Nat) : Nat :=
  if bit = 1152 then 8
  else if bit = 1153 then 9
  else (((List.range s.logicalCores).find? (fun c => physOf s c == bit)).map (dieOf s)).getD 9

/-- The die of a record's home, seen from a core. -/
def recordDie (s : State) (core : Nat) (x : Word) : Nat := ((recAt s core (hAddr x)).map (fun r => dieOf s r.1.h)).getD 9

/-- The core of a slot or an evaluation that a wake is for. -/
def wakeCore (w : Word) : Nat := if (w.extractLsb' 62 2).toNat = 1 then coreOf (linkNum w) else linkNum w / 4

/-- What homes and engines send one another, without what is on a lost link: invalidates, wakes, and the references that a freed
record drops, which may come from any die. -/
def cutEngines (link : Nat) (s : State) : State :=
  let (invals, s) := keepOff link (fun (v : Inval) => (((s.line v.line).slice.map (dieOf s)).getD 9, readerDie s v.reader)) s s.invals
  let (wakes, s) := keepOff link (fun (w : Wake) => (recordDie s (wakeCore w.to_) w.hdl, dieOf s (wakeCore w.to_))) s s.wakes
  let (refDrops, s) := keepOff link (fun (_ : Word) => linkEnds link) s s.refDrops
  { s with invals, wakes, refDrops }

/-- A snapshot's announcements to homes (R299, R303), without those on a lost link: a home that one does not reach records
nothing or carries no end out, and nothing waits for it. -/
def cutSnap (link : Nat) (s : State) (n : Snap) : State :=
  let lost := fun (s : State) (m : BitVec 1024) =>
    let waits := (List.range s.logicalCores).filter (fun h => !(m.getLsbD h) && isLiveCore s h)
    let (left, s) := keepOff link (fun h => (dieOf s (coreOf n.slot), dieOf s h)) s waits
    ((waits.filter (fun h => !(left.contains h))).foldl (fun m h => m ||| (1#1024 <<< h)) m, s)
  let (recorded, s) := lost s n.recorded
  let (ending, s) := match n.ending with
    | none => (none, s)
    | some (reject, m, k) =>
      let (m, s) := lost s m
      (some (reject, m, k), s)
  { s with snaps := s.snaps.map (fun x : Snap => if x.seq = n.seq then { x with recorded, ending } else x) }

/-- The announcements of snapshots without those on a lost link. -/
def cutSnaps (link : Nat) (s : State) : State := settleSnaps (s.snaps.foldl (cutSnap link) s)

/-- The traffic on a lost link is discarded (R387). -/
def cutTraffic (link : Nat) (s : State) : State :=
  cutSnaps link (cutEngines link (cutMessages link (cutAccesses link (cutBuffers link s))))

/-- LINK_LOSS (R387). -/
def execLinkLoss (link : Nat) (s : State) : Host.Outcome State Fault Refusal :=
  .next (
    if 14 ≤ link then s
    else
      let r := trapRec s 3 (causeCode .fatalhw) 9 0 0 0 (BitVec.ofNat 64 link) 0
      let seq := s.tqSeq
      let s := if trapRoom s r then enterQueue s r else s
      let parts := partitions s
      let s := parts.foldl endPartition s
      let live := ((s.regions.filter (fun e => e.2.state == .live || e.2.state == .ending)).map Prod.fst)
      let s := live.foldl (fun s n => s.modRegion n (fun g => if g.fault.getLsbD 63 then g else { g with fault := faultWord r seq })) s
      let s := live.foldl (fun s n => if n != 0 && isLive s n then endRegion s n none none else s) s
      let s := failGuests (cutTraffic link s)
      let s := parts.foldl (fun s _ => journalEvent s 0 5 0) s
      { s with stoppedParts := (s.stoppedParts ++ parts).eraseDups, outOfService := true })

/-- The device that something which has left is for, where it is for one. -/
def outDev (s : State) : Out → Option (BitVec 9)
  | .load _ a _ _ | .store _ a _ _ _ | .atom _ a _ _ | .update _ a _ _ _ | .write _ a _ | .message _ _ (a :: _) => some (devOf s a)
  | .inbox _ d | .task _ d | .bard _ d _ | .reply d _ _ | .line d _ _ => some d
  | .advert _ d | .unside _ _ _ _ d | .post _ d | .packet _ d | .nack _ d | .loss _ d | .row _ d => some (BitVec.ofNat 9 d)
  | .coll _ _ d => some (BitVec.ofNat 9 d)
  | .withdraw _ | .message _ _ [] => none

/-- The FATALHW record of traffic that no slot waits for, to the region that it is of (R21; log entry 95). -/
def absentRecord (s : State) (region slot : Nat) (a : Word) : State :=
  s.sendRecord (trapRec s 3 (causeCode .fatalhw) 7 region slot 0 a 0)

/-- A slot that waits for another device's answer takes FATALHW (R21); without such a slot its region has the record. -/
def absentSlot (s : State) (slot : Nat) (a : Word) : State :=
  match (s.slot slot).status with
  | .waiting .reply | .asleep _ => answer s slot (.fault .fatalhw a)
  | _ => absentRecord s (s.slot slot).region slot a

/-- The region of a group of the table. -/
def groupRegion (s : State) (g : Nat) : Nat := ((mapGet s.groups g).map Group.region).getD 0

/-- Something on its way to a device that is not there any more is answered (R21). -/
def answerAbsent (s : State) (o : Out) : State :=
  match o with
  | .load slot a n _ =>
    (match takeFirst (fun (r : LoadReq) => r.core == coreOf slot && r.addr == a && r.n == n &&
        (r.slot.isNone || r.slot == some slot)) s.loads with
      | some (r, loads) => arriveLoad { s with loads } r ⟨none, false, 0, [], some .fatalhw⟩
      | none => s)
  | .store slot a _ _ true => answerLook s slot a (some .fatalhw)
  | .store slot a _ _ false =>
    (match (s.core (coreOf slot)).sbuf.find? (fun e => e.slot == slot && unaccepted s e) with
      | some e => answerStore (s.modCore (coreOf slot) (fun k => { k with sbuf := k.sbuf.filter (fun x => x.id != e.id) })) slot
          e.addr (some .fatalhw)
      | none => absentRecord s (s.slot slot).region slot a)
  | .atom slot a _ _ => absentSlot (s.modSlot slot (fun sl => { sl with awayResv := false })) slot a
  | .update slot a _ _ _ => updateFault s s.dev none .fatalhw (s.slot slot).region slot a
  | .inbox m _ => absentRecord s (s.slot m.srcslot.toNat).region m.srcslot.toNat (BitVec.ofNat 64 m.slot)
  | .task m _ => absentRecord s m.region 0 m.pc
  | .bard n _ slot => absentSlot s slot (BitVec.ofNat 64 n.round)
  | .advert a _ => absentSlot s a.slot (a.blk.setWidth 64)
  | .unside _ _ b slot _ => absentSlot s slot (b.setWidth 64)
  | .post p _ => absentSlot s p.slot (p.blk.setWidth 64)
  | .row r _ => absentSlot s r.slot r.dw
  | .packet p _ => absentRecord s p.region 0 0
  | .nack n _ | .loss n _ => absentRecord s (groupRegion s n.grp) 0 (n.blk.setWidth 64)
  | .write slot a _ => absentRecord s (s.slot slot).region slot a
  | .coll p slot _ =>
    let region := (s.colls.find? (fun r => r.stage == p.stage && r.k == p.k)).map (fun r => r.run.cmd.region)
    absentRecord s (region.getD (s.slot slot).region) slot 0
  | .message slot _ (a :: _) =>
    let region := (s.groups.find? (fun g => g.2.rcv == a)).map (fun g => g.2.region)
    absentRecord s (region.getD 0) slot a
  | .reply _ _ _ | .line _ _ _ | .withdraw _ | .message _ _ [] => s

/-- Whether something is on its way to a device that is not there. -/
def isAbsent (s : State) (o : Out) : Bool :=
  match outDev s o with
  | some d => !(isHere s d) && !(isPresent s d)
  | none => false

/-- What is on its way to devices that are not there is answered, whenever it left (R21). -/
def answerAllAbsent (s : State) : State :=
  (s.outbox.filter (isAbsent s)).foldl answerAbsent { s with outbox := s.outbox.filter (fun o => !(isAbsent s o)) }

/-- MODULE_REMOVAL (R21): another module joins, or leaves with the traffic to it answered FATALHW. -/
def execModuleRemoval (dev : BitVec 9) (joins : Bool) (s : State) : Host.Outcome State Fault Refusal :=
  .next (
    let others := s.present.filter (fun d => d != dev.toNat)
    if 432 ≤ dev.toNat ∨ dev = s.dev then s
    else if joins then { s with present := others ++ [dev.toNat] }
    else answerAllAbsent { s with present := others })

end Sys2Proof.Machine
end

