-- ==== Sys2Proof/Machine/Slh.lean ====
section
/-! DEFINITION. The verification of firmware signatures (R394): SLH-DSA-SHA2-256s of FIPS 205, with SHA-512 of FIPS 180-4. The
algorithm is the standard's, which the spec names and does not restate (log entry 12). -/

namespace Sys2Proof.Machine

/-- The round constants of SHA-512. -/
def sha512K : List Word :=
  [0x428A2F98D728AE22, 0x7137449123EF65CD, 0xB5C0FBCFEC4D3B2F, 0xE9B5DBA58189DBBC,
   0x3956C25BF348B538, 0x59F111F1B605D019, 0x923F82A4AF194F9B, 0xAB1C5ED5DA6D8118,
   0xD807AA98A3030242, 0x12835B0145706FBE, 0x243185BE4EE4B28C, 0x550C7DC3D5FFB4E2,
   0x72BE5D74F27B896F, 0x80DEB1FE3B1696B1, 0x9BDC06A725C71235, 0xC19BF174CF692694,
   0xE49B69C19EF14AD2, 0xEFBE4786384F25E3, 0x0FC19DC68B8CD5B5, 0x240CA1CC77AC9C65] ++
  [0x2DE92C6F592B0275, 0x4A7484AA6EA6E483, 0x5CB0A9DCBD41FBD4, 0x76F988DA831153B5,
   0x983E5152EE66DFAB, 0xA831C66D2DB43210, 0xB00327C898FB213F, 0xBF597FC7BEEF0EE4,
   0xC6E00BF33DA88FC2, 0xD5A79147930AA725, 0x06CA6351E003826F, 0x142929670A0E6E70,
   0x27B70A8546D22FFC, 0x2E1B21385C26C926, 0x4D2C6DFC5AC42AED, 0x53380D139D95B3DF,
   0x650A73548BAF63DE, 0x766A0ABB3C77B2A8, 0x81C2C92E47EDAEE6, 0x92722C851482353B] ++
  [0xA2BFE8A14CF10364, 0xA81A664BBC423001, 0xC24B8B70D0F89791, 0xC76C51A30654BE30,
   0xD192E819D6EF5218, 0xD69906245565A910, 0xF40E35855771202A, 0x106AA07032BBD1B8,
   0x19A4C116B8D2D0C8, 0x1E376C085141AB53, 0x2748774CDF8EEB99, 0x34B0BCB5E19B48A8,
   0x391C0CB3C5C95A63, 0x4ED8AA4AE3418ACB, 0x5B9CCA4F7763E373, 0x682E6FF3D6B2B8A3,
   0x748F82EE5DEFB2FC, 0x78A5636F43172F60, 0x84C87814A1F0AB72, 0x8CC702081A6439EC] ++
  [0x90BEFFFA23631E28, 0xA4506CEBDE82BDE9, 0xBEF9A3F7B2C67915, 0xC67178F2E372532B,
   0xCA273ECEEA26619C, 0xD186B8C721C0C207, 0xEADA7DD6CDE0EB1E, 0xF57D4F7FEE6ED178,
   0x06F067AA72176FBA, 0x0A637DC5A2C898A6, 0x113F9804BEF90DAE, 0x1B710B35131C471B,
   0x28DB77F523047D84, 0x32CAAB7B40C72493, 0x3C9EBE0A15C9BEBC, 0x431D67C49C100D4C,
   0x4CC5D4BECB3E42B6, 0x597F299CFC657E2A, 0x5FCB6FAB3AD6FAEC, 0x6C44198C4A475817]

/-- The initial hash of SHA-512. -/
def sha512H : List Word :=
  [0x6A09E667F3BCC908, 0xBB67AE8584CAA73B, 0x3C6EF372FE94F82B, 0xA54FF53A5F1D36F1,
   0x510E527FADE682D1, 0x9B05688C2B3E6C1F, 0x1F83D9ABFB41BD6B, 0x5BE0CD19137E2179]

/-- A big-endian number in some bytes. -/
def beNat (bs : List Byte) : Nat := natOfBytes bs.reverse

/-- A number as n bytes, big-endian. -/
def beBytes (n v : Nat) : List Byte := (bytesOfNat n v).reverse

/-- The small sigma functions of SHA-512. -/
def smallSigma (a b c : Nat) (x : Word) : Word := x.rotateRight a ^^^ x.rotateRight b ^^^ x >>> c

/-- The big sigma functions of SHA-512. -/
def bigSigma (a b c : Nat) (x : Word) : Word := x.rotateRight a ^^^ x.rotateRight b ^^^ x.rotateRight c

/-- The message schedule of SHA-512, newest word first. -/
def schedule512 (ws : List Word) : Nat → List Word
  | 0 => ws
  | n + 1 =>
    let w := fun (i : Nat) => ws.getD i 0
    schedule512 ((smallSigma 19 61 6 (w 1) + w 6 + smallSigma 1 8 7 (w 14) + w 15) :: ws) n

/-- One round of SHA-512. -/
def round512 (h : List Word) (kw : Word × Word) : List Word :=
  match h with
  | [a, b, c, d, e, f, g, x] =>
    let t1 := x + bigSigma 14 18 41 e + ((e &&& f) ^^^ (~~~e &&& g)) + kw.1 + kw.2
    let t2 := bigSigma 28 34 39 a + ((a &&& b) ^^^ (a &&& c) ^^^ (b &&& c))
    [t1 + t2, a, b, c, d + t1, e, f, g]
  | h => h

/-- The compression of one block of 128 bytes. -/
def block512 (h : List Word) (bs : List Byte) : List Word :=
  let first := (List.range 16).map (fun i => BitVec.ofNat 64 (beNat ((bs.drop (8 * i)).take 8)))
  List.zipWith (fun x y => x + y) h ((sha512K.zip (schedule512 first.reverse 64).reverse).foldl round512 h)

/-- A message padded to whole blocks of 128 bytes. -/
def pad512 (bs : List Byte) : List Byte :=
  bs ++ [0x80] ++ List.replicate ((239 - bs.length % 128) % 128) 0 ++ beBytes 16 (8 * bs.length)

/-- The blocks of a padded message. -/
def blocks512 (h : List Word) (bs : List Byte) : Nat → List Word
  | 0 => h
  | n + 1 => blocks512 (block512 h (bs.take 128)) (bs.drop 128) n

/-- SHA-512. -/
def sha512 (bs : List Byte) : List Byte :=
  (blocks512 sha512H (pad512 bs) ((pad512 bs).length / 128)).flatMap (fun w => beBytes 8 w.toNat)

namespace Slh

/-- An address of the scheme: its layer, tree and type, and three words that the type names. -/
structure Adrs where
  layer : Nat
  tree : Nat
  type : Nat
  key : Nat
  mid : Nat
  last : Nat
  deriving DecidableEq, Repr

/-- An address in its compressed form of 22 bytes. -/
def Adrs.bytes (x : Adrs) : List Byte :=
  beBytes 1 x.layer ++ beBytes 8 x.tree ++ beBytes 1 x.type ++ beBytes 4 x.key ++ beBytes 4 x.mid ++ beBytes 4 x.last

/-- The part of an array of 32-byte values from one on. -/
def part (bs : List Byte) (i n : Nat) : List Byte := (bs.drop (32 * i)).take (32 * n)

/-- F: one value hashed to one, by SHA-256. -/
def hashF (seed : List Byte) (x : Adrs) (m : List Byte) : List Byte :=
  (sha256 (seed ++ List.replicate 32 0 ++ x.bytes ++ m)).take 32

/-- H and T: several values hashed to one, by SHA-512. -/
def hashT (seed : List Byte) (x : Adrs) (m : List Byte) : List Byte :=
  (sha512 (seed ++ List.replicate 96 0 ++ x.bytes ++ m)).take 32

/-- H_msg: the message's digest of 47 bytes. -/
def hashMsg (r seed root m : List Byte) : List Byte :=
  (sha512 (r ++ seed ++ sha512 (r ++ seed ++ root ++ m) ++ beBytes 4 0)).take 47

/-- n digits of b bits each, from the first bit of some bytes on. -/
def digits (bs : List Byte) (b n : Nat) : List Nat :=
  (List.range n).map (fun i => beNat bs / 2 ^ (8 * bs.length - b * (i + 1)) % 2 ^ b)

/-- The root of a tree from a leaf's node, its number and the nodes beside its path; the number of a node in its level goes
to the address, with its height. -/
def climb (seed : List Byte) (x : Adrs) (auth : List Byte) (node : List Byte) (idx : Nat) : Nat → Nat → List Byte
  | _, 0 => node
  | j, n + 1 =>
    let x := { x with mid := j + 1, last := idx / 2 }
    let other := part auth j 1
    climb seed x auth (hashT seed x (if idx % 2 = 0 then node ++ other else other ++ node)) (idx / 2) (j + 1) n

/-- A chain of WOTS+ from one place on, for so many steps. -/
def chain (seed : List Byte) (x : Adrs) (v : List Byte) (i : Nat) : Nat → List Byte
  | 0 => v
  | n + 1 => chain seed x (hashF seed { x with last := i } v) (i + 1) n

/-- The 67 digits that a WOTS+ signature signs: a value's 64, and 3 of their checksum. -/
def wotsDigits (m : List Byte) : List Nat :=
  let ds := digits m 4 64
  ds ++ digits (beBytes 2 (16 * ds.foldl (fun c d => c + (15 - d)) 0)) 4 3

/-- The WOTS+ public key of a signature of a value. -/
def wotsKey (seed : List Byte) (x : Adrs) (sig m : List Byte) : List Byte :=
  let ends := (wotsDigits m).zipIdx.flatMap (fun d => chain seed { x with mid := d.2 } (part sig d.2 1) d.1 (15 - d.1))
  hashT seed { x with type := 1, mid := 0, last := 0 } ends

/-- The root of an XMSS tree of height 8 from a signature of a value by one of its leaves. -/
def xmssRoot (seed : List Byte) (layer tree leaf : Nat) (sig m : List Byte) : List Byte :=
  climb seed ⟨layer, tree, 2, 0, 0, leaf⟩ (part sig 67 8) (wotsKey seed ⟨layer, tree, 0, leaf, 0, 0⟩ (part sig 0 67) m) leaf 0 8

/-- The root of the hypertree of 8 layers from a signature of a value, layer by layer. -/
def treeRoot (seed sig : List Byte) (m : List Byte) (tree leaf : Nat) : Nat → Nat → List Byte
  | _, 0 => m
  | j, n + 1 =>
    treeRoot seed sig (xmssRoot seed j tree leaf (part sig (75 * j) 75) m) (tree / 256) (tree % 256) (j + 1) n

/-- The FORS public key of a signature: 22 trees of height 14. -/
def forsKey (seed : List Byte) (tree leaf : Nat) (sig md : List Byte) : List Byte :=
  let x : Adrs := ⟨0, tree, 3, leaf, 0, 0⟩
  let roots := (digits md 14 22).zipIdx.flatMap (fun d =>
    let at_ := d.2 * 2 ^ 14 + d.1
    climb seed x (part sig (15 * d.2 + 1) 14) (hashF seed { x with last := at_ } (part sig (15 * d.2) 1)) at_ 0 14)
  hashT seed { x with type := 4 } roots

/-- Whether a signature of 29,792 bytes is one of SLH-DSA-SHA2-256s by a key over a message, with no context (R394; log
entry 12): the key's seed and root, the message's digest, its FORS key, and the hypertree's root. -/
def verify (key m sig : List Byte) : Bool :=
  let seed := key.take 32
  let root := key.drop 32
  let d := hashMsg (part sig 0 1) seed root ([0, 0] ++ m)
  let tree := beNat ((d.drop 39).take 7)
  let leaf := beNat (d.drop 46)
  sig.length == 29792 && key.length == 64 &&
    treeRoot seed (sig.drop (32 * 331)) (forsKey seed tree leaf (part sig 1 330) (d.take 39)) tree leaf 0 8 == root

end Slh

end Sys2Proof.Machine
end

