-- ==== Sys2Proof/Machine/Commands.lean ====
section
/-! DEFINITION. The host's side: CXL.mem writes (R90), the command port and its commands (R390, R391), firmware (R394). -/

namespace Sys2Proof.Machine

/-- Where a physical address appears in n bytes of addresses from a va up, with its home there. -/
def whereSeen (s : State) (p va n : Nat) : Nat → Option (Word × Nat)
  | 0 => none
  | fuel + 1 =>
    if n = 0 then none
    else
      match leafFor s .west va with
      | .error _ => whereSeen s p (va + 4096) (n - 4096) fuel
      | .ok ((leaf, bits), _) =>
        let k := min n (2 ^ bits - va % 2 ^ bits)
        let f := frameOf leaf bits va
        if f ≤ p ∧ p < f + k then
          (homeOf s (leaf.extractLsb' 44 12) p).map (fun h => (normAddr s (0#1 ++ 0x1FF#9 ++ BitVec.ofNat 54 (va + (p - f))), h))
        else whereSeen s p (va + k) (n - k) fuel

/-- The address at which a live snapshot covers a physical address, with its home (R297). -/
def snappedAt (s : State) (p : Nat) : Option (Word × Nat) :=
  s.snaps.findSome? (fun n => whereSeen s p (vaOf n.base) n.len (n.len / 4096 + 2))

/-- Bytes of the host arrive at their home, all in one line (R90): a snapshot that covers them keeps the line as it was
(R297), and a strong record that they cover is cleared (R156). -/
def loaderWrite (s : State) (p : Nat) (bs : List Byte) : State :=
  clearStrong (match snappedAt s p with
    | some (a, h) => homeWrite s a p h bs
    | none => wakeCounters (rawWrite s p bs) p bs.length) p bs.length

/-- Host bytes reach device memory, line by line; those for the journal's range, or beyond memory, are discarded
(R391). -/
def hostWrite (s : State) (p : Nat) (bs : List Byte) : Nat → State
  | 0 => s
  | fuel + 1 =>
    match bs with
    | [] => s
    | _ =>
      let k := 128 - p % 128
      let part := bs.take k
      let s := if inJournal s p part.length = false ∧ p + part.length ≤ 2 ^ 40 then
          loaderWrite s p part
        else s
      hostWrite s (p + k) (bs.drop k) fuel

/-- HOST_MEM_WRITE (R90, R391). -/
def execHostMemWrite (addr : Nat) (bytes : List Byte) (s : State) : Host.Outcome State Fault Refusal :=
  .next (hostWrite s addr bytes (bytes.length / 128 + 2))

/-- A write to the aperture that is no command is discarded and counted (R390, R391). -/
def discard (s : State) : State := { s with disc := min (s.disc + 1) (2 ^ 32 - 1) }

/-- DISCARDED_WRITE (R390). -/
def execDiscardedWrite (s : State) : Host.Outcome State Fault Refusal := .next (discard s)

/-- DISC_CLEAR (R391). -/
def execDiscClear (s : State) : Host.Outcome State Fault Refusal := .next { s with disc := 0 }

/-- A command's tag (R390). -/
def cmdTag (cmd : List Byte) : W32 := w32At cmd 4

/-- The effect of an accepted command on the state that holds its journal entry already. -/
abbrev CmdEffect := State → State

/-- A command's check: a refusal's code, or the region and the effect. -/
abbrev CmdCheck := Except Nat (Nat × CmdEffect)

/-- One command of the port (R390, R393): a write that is not 64 bytes is discarded; a device out of service takes only
MARK (R387); none is taken while the copy of time waits for its domain (R26; log entry 96); an accepted command is in the
journal before its effect. -/
def runCommand (s : State) (op : Nat) (cmd : List Byte) (check : CmdCheck) : Host.Outcome State Fault Refusal :=
  .next (
    if cmd.length ≠ 64 then discard s
    else if byteNat cmd 0 ≠ op ∨ s.timeHold ≠ 0 then s
    else if s.outOfService ∧ op ≠ 7 then refuse s (cmdTag cmd) 5
    else
      match check with
      | .error code => refuse s (cmdTag cmd) code
      | .ok (r, effect) => effect (journal s r op 1 (cmdTag cmd) (sha256 cmd)))

/-- LAUNCH by the host (R390, R340): status 4 is code 5; a timed launch is not taken during a clock fault (R27). -/
def execHostLaunch (cmd : List Byte) (s : State) : Host.Outcome State Fault Refusal :=
  let a := w64At cmd 8
  match (if a.toNat % 64 = 0 then schedRead s a 64 else none) with
  | none => runCommand s 1 cmd (.error 1)
  | some (d, _) =>
    match checkLaunch s 0 (cmdTag cmd) true d with
    | .error st => runCommand s 1 cmd (.error (if st = 4 then 5 else st))
    | .ok l =>
      if l.time ≠ 0 ∧ s.clockFaults ≠ [] ∧ s.outOfService = false then .next s
      else runCommand s 1 cmd (.ok (l.region, fun s => acceptLaunch s l))

/-- The live region that a command names: code 2 where there is none, code 5 where its partition is stopped (R390). -/
def commandRegion (s : State) (cmd : List Byte) : Except Nat Nat :=
  match regionAt s (w64At cmd 8) with
  | none => .error 2
  | some r =>
    if isLive s r = false then .error 2
    else if s.stoppedParts.contains (s.region r).part then .error 5
    else .ok r

/-- A request for an entry of a region is dropped (R338). -/
def dropRequest (s : State) (r i : Nat) : State := { s with resReqs := s.resReqs.filter (fun q => q != (r, i)) }

/-- ALLOW (R390): the entry with st = 0. -/
def execAllow (cmd : List Byte) (s : State) : Host.Outcome State Fault Refusal :=
  runCommand s 2 cmd (
    match commandRegion s cmd with
    | .error c => .error c
    | .ok r =>
      let i := byteNat cmd 16
      let base := w64At cmd 24
      let len := w64At cmd 32
      if 8 ≤ i ∨ base.toNat % 4096 ≠ 0 ∨ len.toNat % 4096 ≠ 0 ∨ base.getLsbD 63 then .error 1
      else .ok (r, fun s =>
        (dropRequest (endLeaseOn s r i 0 true) r i).modRegion r (fun g => { g with res := g.res.set (i % 8) ⟨base, len, 0⟩ (Nat.mod_lt _ (by decide)) })))

/-- REVOKE (R390): st := 3, and slots that wait for the entry learn so (R338). -/
def execRevoke (cmd : List Byte) (s : State) : Host.Outcome State Fault Refusal :=
  runCommand s 3 cmd (
    match commandRegion s cmd with
    | .error c => .error c
    | .ok r =>
      let i := byteNat cmd 16
      let e := (s.region r).res[i % 8]'(Nat.mod_lt _ (by decide))
      if 8 ≤ i ∨ e.len = 0 then .error 1
      else .ok (r, fun s => wakeReside (dropRequest (endLeaseOn s r i 3 true) r i) r i 3))

/-- END (R390): as RDONE. -/
def execEndRegion (cmd : List Byte) (s : State) : Host.Outcome State Fault Refusal :=
  runCommand s 4 cmd (
    if w64At cmd 8 = 0 then .error (if s.stoppedParts.contains (s.region 0).part then 5 else 1)
    else
      match commandRegion s cmd with
      | .error c => .error c
      | .ok r => .ok (r, fun s => endRegion s r none none))

/-- ACKSTOP (R390, R362). -/
def execAckstop (cmd : List Byte) (s : State) : Host.Outcome State Fault Refusal :=
  runCommand s 5 cmd (
    let part := byteNat cmd 8
    if s.stoppedParts.contains part then
      .ok (0, fun s => { s with stoppedParts := s.stoppedParts.filter (fun p => p != part) })
    else .error 1)

/-- The parts of a firmware image (R394): its 64-byte header and key, and its signature, the last 29,792 bytes, over everything
before. -/
def fwHeader (bs : List Byte) : List Byte := bs.take 64

/-- See fwHeader. -/
def fwKey (bs : List Byte) : List Byte := (bs.drop 64).take 64

/-- See fwHeader. -/
def fwSignedPart (bs : List Byte) : List Byte := bs.take (bs.length - 29792)

/-- See fwHeader. -/
def fwSignature (bs : List Byte) : List Byte := bs.drop (bs.length - 29792)

/-- The security version of an image. -/
def fwVersion (bs : List Byte) : Nat := (Config.fwSvn (fwHeader bs)).toNat

/-- Whether the command core accepts an image (R394): long enough for its parts, of the fused key, signed by it, and new
enough. -/
def imageAccepted (s : State) (bs : List Byte) : Bool :=
  decide (64 + 64 + 29792 ≤ bs.length) && sha256 (fwKey bs) == Config.fusedKey &&
    Slh.verify (fwKey bs) (fwSignedPart bs) (fwSignature bs) && decide (s.fwMinSvn ≤ fwVersion bs)

/-- FWLOAD (R394). -/
def execFwload (cmd : List Byte) (s : State) : Host.Outcome State Fault Refusal :=
  runCommand s 6 cmd (
    match schedRead s (w64At cmd 8) (w64At cmd 16).toNat with
    | none => .error 4
    | some (bs, _) =>
      if imageAccepted s bs then
        .ok (0, fun s => journalEvent { s with fwPending := true, fwMinSvn := fwVersion bs } 0 6 0)
      else .error 4)

/-- MARK (R390): a journal entry only. -/
def execMarkCmd (cmd : List Byte) (s : State) : Host.Outcome State Fault Refusal :=
  runCommand s 7 cmd (.ok (0, fun s => s))

/-- OTHER_OP_COMMAND (R390): an op that is not listed. -/
def execOtherOpCommand (cmd : List Byte) (s : State) : Host.Outcome State Fault Refusal :=
  let op := byteNat cmd 0
  if 1 ≤ op ∧ op ≤ 7 then .next s else runCommand s op cmd (.error 1)

/-- A policy within the hardware's limits (R31, R119, R216, R311, R327, R370). -/
def clampPolicy (p : Policy) : Policy :=
  { p with
    window := min p.window 4096
    margin := max p.margin 16
    sparkPool := max 1 (min p.sparkPool 256)
    leaselen := max 64 (min p.leaselen 65536)
    leaselens := p.leaselens.map (fun e => (e.1, max 64 (min e.2 65536)))
    collTimeout := max p.collTimeout 100000
    replayLimit := max p.replayLimit 100000 }

/-- POLICY_ACTIVATE (R394): the service cores take up the policy of an accepted image, on every core, whose lease length
firmware may set apart (R119). -/
def execPolicyActivate (p : Policy) (s : State) : Host.Outcome State Fault Refusal :=
  .next (
    if s.fwPending then
      let p := clampPolicy p
      let s : State := { s with policy := p, fwPending := false }
      (List.range s.logicalCores).foldl (fun s c =>
        s.modCore c (fun k => { k with leaselen := (mapGet p.leaselens c).getD p.leaselen, mslot := p.mslot })) s
    else s)

end Sys2Proof.Machine
end

