-- ==== Sys2Proof/Machine/Sleep.lean ====
section
/-! DEFINITION. How sleeps end (R169, R413): wakes, WAITLIM, withdrawals; and the answers of other devices to requests
that slots of this device wait or sleep for. -/

namespace Sys2Proof.Machine

/-- Whether what a slot sleeps for has come about (R169, R175, R192, R193, R213, R259, R288, R292, R342). -/
def sleepOver (s : State) (i : Nat) (z : Sleep) : Bool :=
  let sl := s.slot i
  let k := s.core (coreOf i)
  sl.reply.isSome ||
    match z.kind with
    | .recv | .yield _ => !(entriesOf s i).isEmpty
    | .waitt t => s.reached t
    | .kwait kc thr => decide (thr.toNat ≤ (k.counter kc).toNat)
    | .closeb => decide (outstanding sl < 15)
    | .waitb n => decide (outstanding sl ≤ n)
    | .engine _ => (freeEval s (coreOf i)).isSome
    | .bard => sl.bardFault.isSome || sl.bardHeld.any (fun n => n.round == sl.bardRound && n.episode == sl.bardEpisode)
    | .ring q r =>
      (match mapGet sl.streams q.toNat with
        | some st => chunkOpen s (coreOf i) st r
        | none => true)
    | _ => false

/-- A notification of a slot's BARD to another device. -/
def noteOf (i : Nat) : Out → Bool
  | .bard _ _ j => i == j
  | _ => false

/-- Another device's answer to a notification (R174, R175): one that names no live core there is refused with PROT, which the
BARD raises as soon as it can, wherever it has come to; it goes back to the round that has failed, and no other notification
is sent again (log entry 79). -/
def bardAnswer (s : State) (i : Nat) (n : BardNote) (a : Answer) : State :=
  match a with
  | .val _ => s
  | .fault c =>
    let sl := s.slot i
    if sl.bardNoted.contains n.round && sl.bardEpisode == n.episode then
      s.modSlot i (fun sl => { sl with
        bardRound := min n.round sl.bardRound, bardNoted := sl.bardNoted.filter (fun r => r != n.round)
        bardFault := sl.bardFault.or (some (c, n.round)) })
    else s

/-- What a request's answer changes on this device besides the slot (R315, R316, R166); the core's older copy of a line that
the slot's own atomic has written there is no longer leased (R136, R141). -/
def requestEnds (s : State) (i : Nat) (o : Out) (a : Answer) : State :=
  match o, a with
  | .advert ad _, .val st => settleAdvert s ad st.toNat
  | .advert ad _, .fault _ => settleAdvert s ad 1
  | .unside grp _ blk _ _, .val _ => unshow s grp blk
  | .atom _ a op false, .val v =>
    let s := if atomWrites op then endLease s (coreOf i) a else s
    (match op with
      | .sch _ _ => if v = 0 then s.modSlot i (fun sl => { sl with awayResv := false }) else s
      | _ => s)
  | _, _ => s

/-- A block accepted by a hub on another device is counted (R325). -/
def noteAccepted (s : State) (grp : Nat) : State := { s with accepted := mapPut s.accepted grp ((mapGet s.accepted grp).getD 0 + 1) }

/-- Another device's answer to a request (R157, R315 to R317, R324): a hub that refuses a block has it sent again. -/
def takeAnswer (s : State) (i : Nat) (a : Answer) : State :=
  let waits := match (s.slot i).status with
    | .asleep _ | .waiting .reply => true
    | _ => false
  match takeFirst (asked i) s.outbox, takeFirst (noteOf i) s.outbox with
  | some (o, rest), _ =>
    if waits = false then s
    else
      let s := requestEnds { s with outbox := rest } i o a
      let addr : Word := match o with
        | .atom _ b _ _ => b
        | _ => 0
      (match o, a with
        | .store _ b _ _ _, .val _ => answerLook s i b none
        | .store _ b _ _ _, .fault c => answerLook s i b (some c)
        | .post p _, .val v => if v = 0 then answer (noteAccepted s p.grp) i (.val 0) else { s with refused := s.refused ++ [p] }
        | _, .val v => answer s i (.val v)
        | _, .fault c => answer s i (.fault c addr))
  | none, some (.bard n _ _, rest) => bardAnswer { s with outbox := rest } i n a
  | none, _ => s

/-- A wait of another device's slot is over: the answer leaves (R370). -/
def answerGuest (s : State) (i : Nat) : State :=
  let o := fun (r : Found (List Byte)) => Out.reply (BitVec.ofNat 9 (i / 16384 - 1)) (BitVec.ofNat 14 (i % 16384)) r
  match (s.slot i).reply with
  | none => s
  | some (.val v) => { s with slots := mapDel s.slots i, outbox := s.outbox ++ [o (.value (bytesOf 8 v))] }
  | some (.fault c _) => { s with slots := mapDel s.slots i, outbox := s.outbox ++ [o (.fault c)] }

/-- SLEEP_WAKE (R169): the slot's instruction goes on; an answer is another device's. -/
def execSleepWake (slot : Nat) (ans : Option Answer) (s : State) : Host.Outcome State Fault Refusal :=
  .next (
    if 16384 ≤ slot then answerGuest s slot
    else
      match (s.slot slot).status, ans with
      | _, some a => takeAnswer s slot a
      | .asleep z, none => if sleepOver s slot z then resume s slot else s
      | _, _ => s)

/-- Whether a sleep has a limit (R169, R193, R342): YIELD has its own, and WAITT and a dump none (log entry 110). -/
def limited : SleepFor → Bool
  | .yield _ | .waitt _ | .dump => false
  | _ => true

/-- Whether a sleep has reached its limit (R169); one that does so during a halt is taken at resume (R380). -/
def limitReached (s : State) (i : Nat) (z : Sleep) : Bool :=
  limited z.kind && z.lim != 0 && decide (z.start.toNat + z.lim.toNat ≤ s.time.toNat) &&
    !(s.halted.contains (clusterOf s (coreOf i)))

/-- WAITLIM_EXPIRY (R169): the withdrawal leaves. -/
def execWaitlimExpiry (slot : Nat) (s : State) : Host.Outcome State Fault Refusal :=
  .next (
    match (s.slot slot).status with
    | .asleep z =>
      if slot < 16384 ∧ limitReached s slot z ∧ z.withdrawn = false then
        s.modSlot slot (fun sl => { sl with status := .asleep { z with withdrawn := true } })
      else s
    | _ => s)

/-- Whether a row of a slot is being placed already, so that its withdrawal comes too late (R324, R169). -/
def isPlacing (s : State) (i : Nat) : Bool :=
  s.places.any (fun p => p.row.slot == i && p.row.gen == (s.slot i).gen && p.row.dev == s.dev)

/-- WITHDRAWAL_RESULT (R169): it fails where the request has been satisfied, its wake on the way (R212, R213); else the
waiter is removed where it sleeps, and the slot raises WAITLONG (R413), after a halt (R380). -/
def execWithdrawalResult (slot : Nat) (s : State) : Host.Outcome State Fault Refusal :=
  .next (
    match (s.slot slot).status with
    | .asleep z =>
      if z.withdrawn then
        if sleepOver s slot z then resume s slot
        else if isPlacing s slot || s.wakes.any (fun w => w.to_ == slotLink slot) || isHalted s slot then s
        else noteFault (takeFaultOf (withdrawSlot s slot) slot .waitlong z.tval) slot (s.slot slot).pc
      else s
    | _ => s)

end Sys2Proof.Machine
end

