-- ==== Sys2Proof/Machine/Fetch.lean ====
section
/-! DEFINITION. Instruction fetch (R32, R105, R415) and whether a slot issues (R28, R380). -/

namespace Sys2Proof.Machine

/-- What a slot's fetch comes to. -/
inductive Fetched where
  | words (ws : List W32) (s : State)
  | miss (line : Word) (loc : Loc) (s : State)
  | fault (c : Cause) (s : State)

/-- The line of code at the slot's pc, as the fetch buffer holds it or as a hit elsewhere refills it: code in the TCM or the
shared SRAM at once, code in a scratchpad as its banks serve it (R110), global code from the data cache while the lease is
valid, as its home gave it; a miss takes the slot out of the rotation (R415). -/
def codeBytes (s : State) (slot : Nat) (loc : Loc) (pc : Word) : Option (Found (List Byte) × State) :=
  let line := pc &&& ~~~ (127 : Word)
  let keep := fun (bs : List Byte) (s : State) => (Found.value bs, s.modSlot slot (fun sl => { sl with fetch := some (line, bs) }))
  let buffered := match (s.slot slot).fetch with
    | some (l, bs) => if normAddr s l = normAddr s line then some bs else none
    | none => none
  match buffered with
  | some bs => some (.value bs, s)
  | none =>
    match loc with
    | .bank k => if inBanks k then none else some (keep (readBytes s.mem (k - pc.toNat % 128) 128) s)
    | _ =>
      match codeHit s (coreOf slot) pc with
      | some (.value bs, s) => some (keep bs s)
      | some (.fault c, s) => some (.fault c, s)
      | none => none

/-- The words at a slot's pc up to the end of their line (R32): a misaligned pc takes MISALIGN (log entry 15); every
fetch is checked for execution, a tile command over its 32 bytes. -/
def fetchWords (s : State) (slot : Nat) : Fetched :=
  let sl := s.slot slot
  let pc := sl.pc
  let w : Who := ⟨coreOf slot, slot, sl.region⟩
  if pc.toNat % 4 ≠ 0 then .fault .misalign s
  else
    match accessLoc s w pc 4 .fetch with
    | .error c => .fault c (afterWalk s w pc)
    | .ok (loc, s) =>
      match codeBytes s slot loc pc with
      | none => .miss (pc &&& ~~~ (127 : Word)) loc s
      | some (.fault c, s) => .fault c s
      | some (.value bs, s) =>
        let ws := wordsOfBytes (bs.drop (pc.toNat % 128))
        let lead := match ws with
          | x :: _ => fMaj x == 0x3F && decide (pc.toNat % 32 = 0)
          | [] => false
        if lead then
          match accessLoc s w pc 32 .fetch with
          | .error c => .fault c s
          | .ok _ => .words ws s
        else .words ws s

/-- The instruction that words at an address are (R32, R55): a lead word off its 32-byte boundary and a word that is no
instruction are ILLEGAL. -/
def instrAt (pc : Word) (ws : List W32) : Instr :=
  let bad := Instr.illegalEncoding (ws.headD 0) 0
  match ws with
  | w :: _ =>
    if fMaj w == 0x3F && decide (pc.toNat % 32 ≠ 0) then bad
    else
      match decodeWords ws with
      | .ok i => i
      | .error _ => bad
  | [] => bad

/-- Whether a core's rotation is one that thermal throttling leaves unused (R197). -/
def restsNow (s : State) (k : Core) : Bool := k.hot && k.throttled && decide (s.cycle / 8 % 2 = 1)

/-- Whether a slot has an answer that completes its instruction: such an instruction completes when its context is due to be
switched out, on a halted cluster too (R132, R181, R346, R380). -/
def inHand (sl : Slot) : Bool :=
  sl.reply.isSome || !sl.sent.isEmpty || holdsBlock sl || sl.push.isSome || bankBegun sl

/-- Whether a slot's core lets it go on: its cluster not halted, its core not stopped or throttled, its context not due to be
switched out (R28, R380, R18, R197, R346). -/
def mayGoOn (s : State) (slot : Nat) : Bool :=
  let c := coreOf slot
  decide (c < s.logicalCores) && !(s.core c).stopped && !(restsNow s (s.core c)) &&
    if switchDue s c && (s.slot slot).ctx == residentCtx s c then inHand (s.slot slot)
    else !(s.halted.contains (clusterOf s c))

/-- Whether a slot may issue: ready, or testing again what it waits for (R28). -/
def canIssue (s : State) (slot : Nat) : Bool :=
  mayGoOn s slot && match (s.slot slot).status with
    | .ready | .waiting .poll => true
    | _ => false

/-- A fetch that misses: the slot waits for the line, which its home, another device or the banks of its cluster's
scratchpad are asked for (R415, R110). -/
def fetchMiss (s : State) (line : Word) (loc : Loc) : State :=
  let s := s.stall (.fetch line)
  match loc with
  | .bank k => fetchBanks s s.cur k
  | .home p h => requestLine s s.cur true line 128 (.home (p / 128 * 128) h) none none true
  | .away a => requestLine s s.cur true line 128 (.away (a &&& ~~~ (127 : Word))) none none true

/-- Whether a constructor is an event of the table, not a word that a slot fetches. -/
def isEvent (i : Instr) : Bool :=
  i.tile?.isNone && encodeScalar i == 0 && match i with
    | .illegalEncoding _ _ => false
    | _ => true

/-- ILLEGAL_ENCODING (R55): ILLEGAL with the failing word and its index in TVAL (R54). -/
def execIllegalEncoding (word : W32) (idx : BitVec 3) (s : State) : Host.Outcome State Fault Refusal :=
  conclude s (Eff.trap .illegal ((idx ++ word).setWidth 64))

end Sys2Proof.Machine
end

