-- ==== Sys2Proof/Machine/Banks.lean ====
section
/-! DEFINITION. The banks of the scratchpads (R110): each serves one word in a cycle, of the first core that waits for it
after the one it served last. -/

namespace Sys2Proof.Machine

/-- The first core in order of number after the one that a bank served last, wrapping (R110): how far it lies after that one. -/
def bankDistance (s : State) (b core : Nat) : Nat :=
  match mapGet s.bankLast b with
  | some last => (core + s.logicalCores - last - 1) % s.logicalCores
  | none => core

/-- The words that a slot waits for at the banks, for its instruction or for its fetch. -/
def wordsDue (sl : Slot) : List Nat :=
  match sl.status, sl.bank with
  | .waiting .bank, some x | .waiting (.fetch _), some x => x.due
  | _, _ => []

/-- The banks that slots wait for. -/
def banksWanted (s : State) : List Nat := (s.slots.flatMap (fun e => (wordsDue e.2).map bankOf)).eraseDups

/-- The slots that wait for a bank. -/
def bankWaiters (s : State) (b : Nat) : List Nat :=
  (s.slots.filter (fun e => (wordsDue e.2).any (fun w => bankOf w == b) && mayGoOn s e.1)).map Prod.fst

/-- The slot that a bank serves next in this cycle (R110): one of the first waiting core after the core it served last, and
of its slots the lowest-numbered (log entry 102). -/
def bankServes (s : State) (b : Nat) : Option Nat :=
  if s.bankServed.contains b then none
  else
    (bankWaiters s b).foldl (fun m i => match m with
      | none => some i
      | some j => if bankDistance s b (coreOf i) < bankDistance s b (coreOf j) then some i else some j) none

/-- The bank that serves next, and the slot it serves (R110). -/
def nextService (s : State) : Option (Nat × Nat) :=
  (banksWanted s).findSome? (fun b => (bankServes s b).map (fun i => (b, i)))

/-- A bank serves a core in this cycle (R110). -/
def markServed (s : State) (b core : Nat) : State :=
  { s with bankLast := mapPut s.bankLast b core, bankServed := b :: s.bankServed }

/-- A bank serves one word of a slot's access (R110): it is read, or the store's bytes in it are written. -/
def serveWord (s : State) (slot w : Nat) : State :=
  match (s.slot slot).bank with
  | none => s
  | some x =>
    let x' := { x with due := x.due.filter (fun v => v != w) }
    match x.store with
    | none =>
      s.modSlot slot (fun sl => { sl with bank := some { x' with had := mapPut x.had w (readBytes s.mem (8 * w) 8) } })
    | some (_, bs) =>
      let lo := max x.key (8 * w)
      let hi := min (x.key + x.n) (8 * w + 8)
      (bankWrite s lo ((bs.drop (lo - x.key)).take (hi - lo))).modSlot slot (fun sl => { sl with bank := some x' })

/-- A bank serves the word that a slot's access has in it (R110). -/
def serveBank (s : State) (b slot : Nat) : State :=
  ((wordsDue (s.slot slot)).filter (fun w => bankOf w == b)).foldl (fun s w => serveWord s slot w) (markServed s b (coreOf slot))

/-- The line of code that the banks have served is in the slot's fetch buffer (R415). -/
def lineServed (sl : Slot) : Slot :=
  match sl.status, sl.bank with
  | .waiting (.fetch line), some x => { sl with fetch := some (line, x.bytes), bank := none, status := .ready }
  | _, _ => sl

/-- Whether the bank of an update's word may serve its core in this cycle: no core that waits there comes before it (R110). -/
def bankTurn (s : State) (b core : Nat) : Bool :=
  !(s.bankServed.contains b) && (bankWaiters s b).all (fun i => decide (bankDistance s b core ≤ bankDistance s b (coreOf i)))

/-- UPDATE_ENTRY_ARRIVAL (R178): a NOTIFY or RUPD entry of a core's buffer is applied at its home, or at its bank, which
serves its word (R110), where it may. -/
def execUpdateEntryArrival (core i : Nat) (s : State) : Host.Outcome State Fault Refusal :=
  .next (
    match (s.core core).sbuf[i]? with
    | some e =>
      match e.kind with
      | .update _ _ _ =>
        let banks := match e.loc with
          | .bank k => if inBanks k then (wordsIn k e.bytes.length).map bankOf else []
          | _ => []
        if mayDrain s (s.core core).sbuf e && banks.all (fun b => bankTurn s b core) then
          let s := banks.foldl (fun s b => markServed s b core) s
          applyEntry (s.modCore core (fun k => { k with sbuf := dropAt k.sbuf i })) core e
        else s
      | _ => s
    | none => s)

end Sys2Proof.Machine
end

