-- ==== Sys2Proof/Machine/Scalar.lean ====
section
/-! DEFINITION. Scalar and control-flow instructions: majors 0x01 to 0x18 (R91 to R107). -/

namespace Sys2Proof.Machine

/-- Two sources, one destination (R94). -/
def binary (s : State) (gd ga gb : Reg) (f : Word → Word → Word) : Eff Unit :=
  (readG s ga).andThen fun a s => (readG s gb).andThen fun b s => writeDone s gd (f a b)

/-- One source, one destination (R94). -/
def unary (s : State) (gd ga : Reg) (f : Word → Word) : Eff Unit :=
  (readG s ga).andThen fun a s => writeDone s gd (f a)

/-- An FP32 operation on the low halves, its result zero-extended (R93). -/
def onLow (f : W32 → W32 → W32) (a b : Word) : Word := (f (low32 a) (low32 b)).setWidth 64

/-- sext64(imm21 << 11) (R97). -/
def upper (imm : BitVec 21) : Word := (imm ++ 0#11).signExtend 64

/-- The target of a word offset (R35). -/
def wordTarget (pc off : Word) : Word := pc + 4 * off

/-- A branch on the full values of its two sources (R102). -/
def branch (s : State) (ga gb : Reg) (off : BitVec 16) (taken : Word → Word → Bool) : Eff Unit :=
  (readG s ga).andThen fun a s =>
  (readG s gb).andThen fun b s =>
  if taken a b then .ok () (s.finish (wordTarget s.me.pc (off.signExtend 64))) else done s

/-- ADD (R95). -/
def execAdd (gd ga gb : Reg) (s : State) : Host.Outcome State Fault Refusal :=
  conclude s (binary s gd ga gb (fun a b => a + b))

/-- SUB (R95). -/
def execSub (gd ga gb : Reg) (s : State) : Host.Outcome State Fault Refusal :=
  conclude s (binary s gd ga gb (fun a b => a - b))

/-- AND (R95). -/
def execAnd (gd ga gb : Reg) (s : State) : Host.Outcome State Fault Refusal :=
  conclude s (binary s gd ga gb (fun a b => a &&& b))

/-- OR (R95). -/
def execOr (gd ga gb : Reg) (s : State) : Host.Outcome State Fault Refusal :=
  conclude s (binary s gd ga gb (fun a b => a ||| b))

/-- XOR (R95). -/
def execXor (gd ga gb : Reg) (s : State) : Host.Outcome State Fault Refusal :=
  conclude s (binary s gd ga gb (fun a b => a ^^^ b))

/-- ANDN (R95). -/
def execAndn (gd ga gb : Reg) (s : State) : Host.Outcome State Fault Refusal :=
  conclude s (binary s gd ga gb (fun a b => a &&& ~~~b))

/-- SLL: the amount is b[5:0] (R95). -/
def execSll (gd ga gb : Reg) (s : State) : Host.Outcome State Fault Refusal :=
  conclude s (binary s gd ga gb (fun a b => a <<< (b.toNat % 64)))

/-- SRL (R95). -/
def execSrl (gd ga gb : Reg) (s : State) : Host.Outcome State Fault Refusal :=
  conclude s (binary s gd ga gb (fun a b => a >>> (b.toNat % 64)))

/-- SRA (R95). -/
def execSra (gd ga gb : Reg) (s : State) : Host.Outcome State Fault Refusal :=
  conclude s (binary s gd ga gb (fun a b => a.sshiftRight (b.toNat % 64)))

/-- ROL (R95). -/
def execRol (gd ga gb : Reg) (s : State) : Host.Outcome State Fault Refusal :=
  conclude s (binary s gd ga gb (fun a b => a.rotateLeft (b.toNat % 64)))

/-- MIN (R95). -/
def execMin (gd ga gb : Reg) (s : State) : Host.Outcome State Fault Refusal :=
  conclude s (binary s gd ga gb minS)

/-- MAX (R95). -/
def execMax (gd ga gb : Reg) (s : State) : Host.Outcome State Fault Refusal :=
  conclude s (binary s gd ga gb maxS)

/-- MINU (R95). -/
def execMinu (gd ga gb : Reg) (s : State) : Host.Outcome State Fault Refusal :=
  conclude s (binary s gd ga gb minU)

/-- MAXU (R95). -/
def execMaxu (gd ga gb : Reg) (s : State) : Host.Outcome State Fault Refusal :=
  conclude s (binary s gd ga gb maxU)

/-- SLT (R95). -/
def execSlt (gd ga gb : Reg) (s : State) : Host.Outcome State Fault Refusal :=
  conclude s (binary s gd ga gb (fun a b => boolWord (a.slt b)))

/-- SLTU (R95). -/
def execSltu (gd ga gb : Reg) (s : State) : Host.Outcome State Fault Refusal :=
  conclude s (binary s gd ga gb (fun a b => boolWord (a.ult b)))

/-- SEQ (R95). -/
def execSeq (gd ga gb : Reg) (s : State) : Host.Outcome State Fault Refusal :=
  conclude s (binary s gd ga gb (fun a b => boolWord (a == b)))

/-- SEL: gd is read and kept, and not written, where a = 0 (R95); a bound gd is popped when it is read (R94). -/
def execSel (gd ga gb : Reg) (s : State) : Host.Outcome State Fault Refusal :=
  conclude s (
    (readG s ga).andThen fun a s =>
    (readG s gb).andThen fun b s =>
    if a = 0 then (readG s gd).andThen fun _ s => done s else writeDone s gd b)

/-- CLZ (R95). -/
def execClz (gd ga : Reg) (s : State) : Host.Outcome State Fault Refusal :=
  conclude s (unary s gd ga (fun a => BitVec.ofNat 64 (clzFrom a 64)))

/-- CTZ (R95). -/
def execCtz (gd ga : Reg) (s : State) : Host.Outcome State Fault Refusal :=
  conclude s (unary s gd ga (fun a => BitVec.ofNat 64 (ctzFrom a 64)))

/-- POPC (R95). -/
def execPopc (gd ga : Reg) (s : State) : Host.Outcome State Fault Refusal :=
  conclude s (unary s gd ga (fun a => BitVec.ofNat 64 (popcFrom a 64)))

/-- BSWAP (R95). -/
def execBswap (gd ga : Reg) (s : State) : Host.Outcome State Fault Refusal :=
  conclude s (unary s gd ga (fun a => Machine.bswap a))

/-- SEXTB (R95). -/
def execSextb (gd ga : Reg) (s : State) : Host.Outcome State Fault Refusal :=
  conclude s (unary s gd ga (fun a => (a.setWidth 8).signExtend 64))

/-- SEXTH (R95). -/
def execSexth (gd ga : Reg) (s : State) : Host.Outcome State Fault Refusal :=
  conclude s (unary s gd ga (fun a => (a.setWidth 16).signExtend 64))

/-- SEXTW (R95). -/
def execSextw (gd ga : Reg) (s : State) : Host.Outcome State Fault Refusal :=
  conclude s (unary s gd ga (fun a => (a.setWidth 32).signExtend 64))

/-- ZEXTW (R95). -/
def execZextw (gd ga : Reg) (s : State) : Host.Outcome State Fault Refusal :=
  conclude s (unary s gd ga (fun a => (a.setWidth 32).setWidth 64))

/-- ADDI (R96). -/
def execAddi (gd ga : Reg) (imm : BitVec 16) (s : State) : Host.Outcome State Fault Refusal :=
  conclude s (unary s gd ga (fun x => x + imm.signExtend 64))

/-- ANDI (R96). -/
def execAndi (gd ga : Reg) (imm : BitVec 16) (s : State) : Host.Outcome State Fault Refusal :=
  conclude s (unary s gd ga (fun x => x &&& imm.setWidth 64))

/-- ORI (R96). -/
def execOri (gd ga : Reg) (imm : BitVec 16) (s : State) : Host.Outcome State Fault Refusal :=
  conclude s (unary s gd ga (fun x => x ||| imm.setWidth 64))

/-- XORI (R96). -/
def execXori (gd ga : Reg) (imm : BitVec 16) (s : State) : Host.Outcome State Fault Refusal :=
  conclude s (unary s gd ga (fun x => x ^^^ imm.setWidth 64))

/-- SLLI (R96). -/
def execSlli (gd ga : Reg) (sh : BitVec 6) (s : State) : Host.Outcome State Fault Refusal :=
  conclude s (unary s gd ga (fun x => x <<< sh.toNat))

/-- SRLI (R96). -/
def execSrli (gd ga : Reg) (sh : BitVec 6) (s : State) : Host.Outcome State Fault Refusal :=
  conclude s (unary s gd ga (fun x => x >>> sh.toNat))

/-- SRAI (R96). -/
def execSrai (gd ga : Reg) (sh : BitVec 6) (s : State) : Host.Outcome State Fault Refusal :=
  conclude s (unary s gd ga (fun x => x.sshiftRight sh.toNat))

/-- SLTI (R96). -/
def execSlti (gd ga : Reg) (imm : BitVec 15) (s : State) : Host.Outcome State Fault Refusal :=
  conclude s (unary s gd ga (fun x => boolWord (x.slt (imm.signExtend 64))))

/-- SLTIU (R96). -/
def execSltiu (gd ga : Reg) (imm : BitVec 15) (s : State) : Host.Outcome State Fault Refusal :=
  conclude s (unary s gd ga (fun x => boolWord (x.ult (imm.signExtend 64))))

/-- LUI (R97). -/
def execLui (gd : Reg) (imm : BitVec 21) (s : State) : Host.Outcome State Fault Refusal :=
  conclude s (writeDone s gd (upper imm))

/-- ADPC: the PC is the address of the instruction itself (R97). -/
def execAdpc (gd : Reg) (imm : BitVec 21) (s : State) : Host.Outcome State Fault Refusal :=
  conclude s (writeDone s gd (s.me.pc + upper imm))

/-- MUL (R98). -/
def execMul (gd ga gb : Reg) (s : State) : Host.Outcome State Fault Refusal :=
  conclude s (binary s gd ga gb (fun a b => a * b))

/-- MULH (R98). -/
def execMulh (gd ga gb : Reg) (s : State) : Host.Outcome State Fault Refusal :=
  conclude s (binary s gd ga gb mulHS)

/-- MULHU (R98). -/
def execMulhu (gd ga gb : Reg) (s : State) : Host.Outcome State Fault Refusal :=
  conclude s (binary s gd ga gb mulHU)

/-- DIV (R98). -/
def execDiv (gd ga gb : Reg) (s : State) : Host.Outcome State Fault Refusal :=
  conclude s (binary s gd ga gb divS)

/-- DIVU (R98). -/
def execDivu (gd ga gb : Reg) (s : State) : Host.Outcome State Fault Refusal :=
  conclude s (binary s gd ga gb divU)

/-- REM (R98). -/
def execRem (gd ga gb : Reg) (s : State) : Host.Outcome State Fault Refusal :=
  conclude s (binary s gd ga gb remS)

/-- REMU (R98). -/
def execRemu (gd ga gb : Reg) (s : State) : Host.Outcome State Fault Refusal :=
  conclude s (binary s gd ga gb remU)

/-- FADD (R100). -/
def execFadd (gd ga gb : Reg) (s : State) : Host.Outcome State Fault Refusal :=
  conclude s (binary s gd ga gb (onLow fadd32))

/-- FSUB (R100). -/
def execFsub (gd ga gb : Reg) (s : State) : Host.Outcome State Fault Refusal :=
  conclude s (binary s gd ga gb (onLow fsub32))

/-- FMUL (R100). -/
def execFmul (gd ga gb : Reg) (s : State) : Host.Outcome State Fault Refusal :=
  conclude s (binary s gd ga gb (onLow fmul32))

/-- FMIN (R100). -/
def execFmin (gd ga gb : Reg) (s : State) : Host.Outcome State Fault Refusal :=
  conclude s (binary s gd ga gb (onLow fmin32))

/-- FMAX (R100). -/
def execFmax (gd ga gb : Reg) (s : State) : Host.Outcome State Fault Refusal :=
  conclude s (binary s gd ga gb (onLow fmax32))

/-- FFMA: reads ga, gb, then the old gd (R94, R100). -/
def execFfma (gd ga gb : Reg) (s : State) : Host.Outcome State Fault Refusal :=
  conclude s (
    (readG s ga).andThen fun a s =>
    (readG s gb).andThen fun b s =>
    (readG s gd).andThen fun d s =>
    writeDone s gd ((ffma32 (low32 a) (low32 b) (low32 d)).setWidth 64))

/-- FCMP (R100). -/
def execFcmp (gd ga gb : Reg) (cc : BitVec 2) (s : State) : Host.Outcome State Fault Refusal :=
  conclude s (binary s gd ga gb (fun a b => boolWord (fcmp32 cc (low32 a) (low32 b))))

/-- FCVTIF (R100). -/
def execFcvtif (gd ga : Reg) (u : Bool) (s : State) : Host.Outcome State Fault Refusal :=
  conclude s (unary s gd ga (fun a => (intToF32 u a).setWidth 64))

/-- FCVTFI (R100, R101). -/
def execFcvtfi (gd ga : Reg) (u : Bool) (s : State) : Host.Outcome State Fault Refusal :=
  conclude s (unary s gd ga (fun a => f32ToInt u (low32 a)))

/-- FNEG (R100). -/
def execFneg (gd ga : Reg) (s : State) : Host.Outcome State Fault Refusal :=
  conclude s (unary s gd ga (fun a => (low32 a ^^^ 0x80000000).setWidth 64))

/-- BEQ (R102). -/
def execBeq (ga gb : Reg) (off : BitVec 16) (s : State) : Host.Outcome State Fault Refusal :=
  conclude s (branch s ga gb off (fun a b => a == b))

/-- BNE (R102). -/
def execBne (ga gb : Reg) (off : BitVec 16) (s : State) : Host.Outcome State Fault Refusal :=
  conclude s (branch s ga gb off (fun a b => a != b))

/-- BLT (R102). -/
def execBlt (ga gb : Reg) (off : BitVec 16) (s : State) : Host.Outcome State Fault Refusal :=
  conclude s (branch s ga gb off (fun a b => a.slt b))

/-- BGE (R102). -/
def execBge (ga gb : Reg) (off : BitVec 16) (s : State) : Host.Outcome State Fault Refusal :=
  conclude s (branch s ga gb off (fun a b => !a.slt b))

/-- BLTU (R102). -/
def execBltu (ga gb : Reg) (off : BitVec 16) (s : State) : Host.Outcome State Fault Refusal :=
  conclude s (branch s ga gb off (fun a b => a.ult b))

/-- BGEU (R102). -/
def execBgeu (ga gb : Reg) (off : BitVec 16) (s : State) : Host.Outcome State Fault Refusal :=
  conclude s (branch s ga gb off (fun a b => !a.ult b))

/-- JMP (R103). -/
def execJmp (off : BitVec 26) (s : State) : Host.Outcome State Fault Refusal :=
  conclude s (Eff.ok () (s.finish (wordTarget s.me.pc (off.signExtend 64))))

/-- CALL: the link goes to g31 under R94, then the jump (R103). -/
def execCall (off : BitVec 26) (s : State) : Host.Outcome State Fault Refusal :=
  conclude s ((writeG s 31 (s.me.pc + 4)).andThen fun _ s => Eff.ok () (s.finish (wordTarget s.me.pc (off.signExtend 64))))

/-- JR (R104): MISALIGN with TVAL the target leaves gd and the PC as they were. -/
def execJr (gd ga : Reg) (s : State) : Host.Outcome State Fault Refusal :=
  conclude s (
    (readG s ga).andThen fun t s =>
    (check s (t.setWidth 2 == 0#2) .misalign t).andThen fun _ s =>
    (writeG s gd (s.me.pc + 4)).andThen fun _ s => Eff.ok () (s.finish t))

end Sys2Proof.Machine
end

