-- ==== Sys2Proof/Machine/Dispatch.lean ====
section
/-! DEFINITION. The dispatch: one arm for each constructor of Instr, each a call of that instruction's own meaning. -/

namespace Sys2Proof.Machine

def exec (i : Instr) (s : State) : Host.Outcome State Fault Refusal :=
  match i with
  | .add gd ga gb => Sys2Proof.Machine.execAdd gd ga gb s
  | .sub gd ga gb => Sys2Proof.Machine.execSub gd ga gb s
  | .and gd ga gb => Sys2Proof.Machine.execAnd gd ga gb s
  | .or gd ga gb => Sys2Proof.Machine.execOr gd ga gb s
  | .xor gd ga gb => Sys2Proof.Machine.execXor gd ga gb s
  | .andn gd ga gb => Sys2Proof.Machine.execAndn gd ga gb s
  | .sll gd ga gb => Sys2Proof.Machine.execSll gd ga gb s
  | .srl gd ga gb => Sys2Proof.Machine.execSrl gd ga gb s
  | .sra gd ga gb => Sys2Proof.Machine.execSra gd ga gb s
  | .rol gd ga gb => Sys2Proof.Machine.execRol gd ga gb s
  | .min gd ga gb => Sys2Proof.Machine.execMin gd ga gb s
  | .max gd ga gb => Sys2Proof.Machine.execMax gd ga gb s
  | .minu gd ga gb => Sys2Proof.Machine.execMinu gd ga gb s
  | .maxu gd ga gb => Sys2Proof.Machine.execMaxu gd ga gb s
  | .slt gd ga gb => Sys2Proof.Machine.execSlt gd ga gb s
  | .sltu gd ga gb => Sys2Proof.Machine.execSltu gd ga gb s
  | .seq gd ga gb => Sys2Proof.Machine.execSeq gd ga gb s
  | .sel gd ga gb => Sys2Proof.Machine.execSel gd ga gb s
  | .clz gd ga => Sys2Proof.Machine.execClz gd ga s
  | .ctz gd ga => Sys2Proof.Machine.execCtz gd ga s
  | .popc gd ga => Sys2Proof.Machine.execPopc gd ga s
  | .bswap gd ga => Sys2Proof.Machine.execBswap gd ga s
  | .sextb gd ga => Sys2Proof.Machine.execSextb gd ga s
  | .sexth gd ga => Sys2Proof.Machine.execSexth gd ga s
  | .sextw gd ga => Sys2Proof.Machine.execSextw gd ga s
  | .zextw gd ga => Sys2Proof.Machine.execZextw gd ga s
  | .addi gd ga imm => Sys2Proof.Machine.execAddi gd ga imm s
  | .andi gd ga imm => Sys2Proof.Machine.execAndi gd ga imm s
  | .ori gd ga imm => Sys2Proof.Machine.execOri gd ga imm s
  | .xori gd ga imm => Sys2Proof.Machine.execXori gd ga imm s
  | .slli gd ga sh => Sys2Proof.Machine.execSlli gd ga sh s
  | .srli gd ga sh => Sys2Proof.Machine.execSrli gd ga sh s
  | .srai gd ga sh => Sys2Proof.Machine.execSrai gd ga sh s
  | .slti gd ga imm => Sys2Proof.Machine.execSlti gd ga imm s
  | .sltiu gd ga imm => Sys2Proof.Machine.execSltiu gd ga imm s
  | .lui gd imm => Sys2Proof.Machine.execLui gd imm s
  | .adpc gd imm => Sys2Proof.Machine.execAdpc gd imm s
  | .mul gd ga gb => Sys2Proof.Machine.execMul gd ga gb s
  | .mulh gd ga gb => Sys2Proof.Machine.execMulh gd ga gb s
  | .mulhu gd ga gb => Sys2Proof.Machine.execMulhu gd ga gb s
  | .div gd ga gb => Sys2Proof.Machine.execDiv gd ga gb s
  | .divu gd ga gb => Sys2Proof.Machine.execDivu gd ga gb s
  | .rem gd ga gb => Sys2Proof.Machine.execRem gd ga gb s
  | .remu gd ga gb => Sys2Proof.Machine.execRemu gd ga gb s
  | .fadd gd ga gb => Sys2Proof.Machine.execFadd gd ga gb s
  | .fsub gd ga gb => Sys2Proof.Machine.execFsub gd ga gb s
  | .fmul gd ga gb => Sys2Proof.Machine.execFmul gd ga gb s
  | .ffma gd ga gb => Sys2Proof.Machine.execFfma gd ga gb s
  | .fmin gd ga gb => Sys2Proof.Machine.execFmin gd ga gb s
  | .fmax gd ga gb => Sys2Proof.Machine.execFmax gd ga gb s
  | .fcmp gd ga gb cc => Sys2Proof.Machine.execFcmp gd ga gb cc s
  | .fcvtif gd ga u => Sys2Proof.Machine.execFcvtif gd ga u s
  | .fcvtfi gd ga u => Sys2Proof.Machine.execFcvtfi gd ga u s
  | .fneg gd ga => Sys2Proof.Machine.execFneg gd ga s
  | .beq ga gb off => Sys2Proof.Machine.execBeq ga gb off s
  | .bne ga gb off => Sys2Proof.Machine.execBne ga gb off s
  | .blt ga gb off => Sys2Proof.Machine.execBlt ga gb off s
  | .bge ga gb off => Sys2Proof.Machine.execBge ga gb off s
  | .bltu ga gb off => Sys2Proof.Machine.execBltu ga gb off s
  | .bgeu ga gb off => Sys2Proof.Machine.execBgeu ga gb off s
  | .jmp off => Sys2Proof.Machine.execJmp off s
  | .call off => Sys2Proof.Machine.execCall off s
  | .jr gd ga => Sys2Proof.Machine.execJr gd ga s
  | .ld gd ga w off => Sys2Proof.Machine.execLd gd ga w off s
  | .ldA8 gd ga off => Sys2Proof.Machine.execLdA8 gd ga off s
  | .ldu gd ga w off => Sys2Proof.Machine.execLdu gd ga w off s
  | .st gd ga w off => Sys2Proof.Machine.execSt gd ga w off s
  | .stA8 gd ga off => Sys2Proof.Machine.execStA8 gd ga off s
  | .ldacq gd ga scope w off => Sys2Proof.Machine.execLdacq gd ga scope w off s
  | .strel gd ga scope w off => Sys2Proof.Machine.execStrel gd ga scope w off s
  | .renew ga => Sys2Proof.Machine.execRenew ga s
  | .drop ga => Sys2Proof.Machine.execDrop ga s
  | .prune ga gb => Sys2Proof.Machine.execPrune ga gb s
  | .pref ga => Sys2Proof.Machine.execPref ga s
  | .fenceAcq scope => Sys2Proof.Machine.execFenceAcq scope s
  | .fenceRel scope => Sys2Proof.Machine.execFenceRel scope s
  | .fenceFull scope => Sys2Proof.Machine.execFenceFull scope s
  | .amoAdd gd ga gb scope ord w8 => Sys2Proof.Machine.execAmoAdd gd ga gb scope ord w8 s
  | .amoAnd gd ga gb scope ord w8 => Sys2Proof.Machine.execAmoAnd gd ga gb scope ord w8 s
  | .amoOr gd ga gb scope ord w8 => Sys2Proof.Machine.execAmoOr gd ga gb scope ord w8 s
  | .amoXor gd ga gb scope ord w8 => Sys2Proof.Machine.execAmoXor gd ga gb scope ord w8 s
  | .amoMin gd ga gb scope ord w8 => Sys2Proof.Machine.execAmoMin gd ga gb scope ord w8 s
  | .amoMax gd ga gb scope ord w8 => Sys2Proof.Machine.execAmoMax gd ga gb scope ord w8 s
  | .amoMinu gd ga gb scope ord w8 => Sys2Proof.Machine.execAmoMinu gd ga gb scope ord w8 s
  | .amoMaxu gd ga gb scope ord w8 => Sys2Proof.Machine.execAmoMaxu gd ga gb scope ord w8 s
  | .amoSwap gd ga gb scope ord w8 => Sys2Proof.Machine.execAmoSwap gd ga gb scope ord w8 s
  | .amoFadd gd ga gb scope ord => Sys2Proof.Machine.execAmoFadd gd ga gb scope ord s
  | .cas gd ga gb scope sord facq w8 => Sys2Proof.Machine.execCas gd ga gb scope sord facq w8 s
  | .lrw gd ga scope w8 => Sys2Proof.Machine.execLrw gd ga scope w8 s
  | .sch gd ga gb scope w8 => Sys2Proof.Machine.execSch gd ga gb scope w8 s
  | .ldfe gd ga => Sys2Proof.Machine.execLdfe gd ga s
  | .ldff gd ga => Sys2Proof.Machine.execLdff gd ga s
  | .stef ga gb => Sys2Proof.Machine.execStef ga gb s
  | .sete ga => Sys2Proof.Machine.execSete ga s
  | .arrive gd ga gb scope => Sys2Proof.Machine.execArrive gd ga gb scope s
  | .waitph ga gb scope => Sys2Proof.Machine.execWaitph ga gb scope s
  | .bard gd ga gb scope => Sys2Proof.Machine.execBard gd ga gb scope s
  | .waitcnt gd ga gb scope => Sys2Proof.Machine.execWaitcnt gd ga gb scope s
  | .notify ga gb scope => Sys2Proof.Machine.execNotify ga gb scope s
  | .rupd gd ga gb scope op => Sys2Proof.Machine.execRupd gd ga gb scope op s
  | .ldq gd ga flags off => Sys2Proof.Machine.execLdq gd ga flags off s
  | .stq gd ga flags off => Sys2Proof.Machine.execStq gd ga flags off s
  | .send gd ga gb scope => Sys2Proof.Machine.execSend gd ga gb scope s
  | .spawn gd ga gb scope => Sys2Proof.Machine.execSpawn gd ga gb scope s
  | .recv gd ga => Sys2Proof.Machine.execRecv gd ga s
  | .peek gd => Sys2Proof.Machine.execPeek gd s
  | .migrate gd ga => Sys2Proof.Machine.execMigrate gd ga s
  | .yield gd ga => Sys2Proof.Machine.execYield gd ga s
  | .exit => Sys2Proof.Machine.execExit s
  | .slotq gd => Sys2Proof.Machine.execSlotq gd s
  | .suspend gd ga => Sys2Proof.Machine.execSuspend gd ga s
  | .force gd ga => Sys2Proof.Machine.execForce gd ga s
  | .fpoll gd ga => Sys2Proof.Machine.execFpoll gd ga s
  | .spark gd ga => Sys2Proof.Machine.execSpark gd ga s
  | .retain ga => Sys2Proof.Machine.execRetain ga s
  | .release ga => Sys2Proof.Machine.execRelease ga s
  | .mkval gd ga => Sys2Proof.Machine.execMkval gd ga s
  | .hstate gd ga => Sys2Proof.Machine.execHstate gd ga s
  | .snap gd ga gb => Sys2Proof.Machine.execSnap gd ga gb s
  | .accept ga => Sys2Proof.Machine.execAccept ga s
  | .reject gd ga => Sys2Proof.Machine.execReject gd ga s
  | .snapq gd ga => Sys2Proof.Machine.execSnapq gd ga s
  | .shuf gd ga gb => Sys2Proof.Machine.execShuf gd ga gb s
  | .side gd ga gb => Sys2Proof.Machine.execSide gd ga gb s
  | .unside gd gb => Sys2Proof.Machine.execUnside gd gb s
  | .disp gd ga gb => Sys2Proof.Machine.execDisp gd ga gb s
  | .shq gd ga => Sys2Proof.Machine.execShq gd ga s
  | .bind ga q => Sys2Proof.Machine.execBind ga q s
  | .unbind q => Sys2Proof.Machine.execUnbind q s
  | .closeb gd => Sys2Proof.Machine.execCloseb gd s
  | .waitb gd n => Sys2Proof.Machine.execWaitb gd n s
  | .spos gd q => Sys2Proof.Machine.execSpos gd q s
  | .launch gd ga => Sys2Proof.Machine.execLaunch gd ga s
  | .rcreate gd ga => Sys2Proof.Machine.execRcreate gd ga s
  | .rbudget gd ga gb => Sys2Proof.Machine.execRbudget gd ga gb s
  | .resideReq gd ga gb => Sys2Proof.Machine.execResideReq gd ga gb s
  | .resideRel gd ga gb => Sys2Proof.Machine.execResideRel gd ga gb s
  | .resideQry gd ga gb => Sys2Proof.Machine.execResideQry gd ga gb s
  | .atTime gd ga gb => Sys2Proof.Machine.execAtTime gd ga gb s
  | .waitt gd ga => Sys2Proof.Machine.execWaitt gd ga s
  | .gang gd ga => Sys2Proof.Machine.execGang gd ga s
  | .rdone gd ga => Sys2Proof.Machine.execRdone gd ga s
  | .crr gd cr => Sys2Proof.Machine.execCrr gd cr s
  | .crw ga cr => Sys2Proof.Machine.execCrw ga cr s
  | .crs gd ga cr => Sys2Proof.Machine.execCrs gd ga cr s
  | .crc gd ga cr => Sys2Proof.Machine.execCrc gd ga cr s
  | .trap ga cc => Sys2Proof.Machine.execTrap ga cc s
  | .eretSelf => Sys2Proof.Machine.execEretSelf s
  | .eretResume gd ga gb => Sys2Proof.Machine.execEretResume gd ga gb s
  | .eretEnd gd ga => Sys2Proof.Machine.execEretEnd gd ga s
  | .tqpop gd ga => Sys2Proof.Machine.execTqpop gd ga s
  | .tlbinvRange gd ga gb => Sys2Proof.Machine.execTlbinvRange gd ga gb s
  | .tlbinvAll gd => Sys2Proof.Machine.execTlbinvAll gd s
  | .tlbinvReplay gd ga gb => Sys2Proof.Machine.execTlbinvReplay gd ga gb s
  | .nop => Sys2Proof.Machine.execNop s
  | .enum gd ga => Sys2Proof.Machine.execEnum gd ga s
  | .bkpt code => Sys2Proof.Machine.execBkpt code s
  | .watch ga gb kind wp => Sys2Proof.Machine.execWatch ga gb kind wp s
  | .xtrigHalt gd ga => Sys2Proof.Machine.execXtrigHalt gd ga s
  | .xtrigResume gd ga => Sys2Proof.Machine.execXtrigResume gd ga s
  | .xtrigQuery gd ga => Sys2Proof.Machine.execXtrigQuery gd ga s
  | .tracewStart gd ga gb => Sys2Proof.Machine.execTracewStart gd ga gb s
  | .tracewStop gd ga gb => Sys2Proof.Machine.execTracewStop gd ga gb s
  | .tracewDump gd ga gb => Sys2Proof.Machine.execTracewDump gd ga gb s
  | .flash gd ga gb => Sys2Proof.Machine.execFlash gd ga gb s
  | .hsift gd ga gb => Sys2Proof.Machine.execHsift gd ga gb s
  | .htake gd ga => Sys2Proof.Machine.execHtake gd ga s
  | .kset ga kc => Sys2Proof.Machine.execKset ga kc s
  | .kwait gd ga kc => Sys2Proof.Machine.execKwait gd ga kc s
  | .kread gd kc => Sys2Proof.Machine.execKread gd kc s
  | .mma t => Sys2Proof.Machine.execMma t s
  | .mmar t => Sys2Proof.Machine.execMmar t s
  | .rot t => Sys2Proof.Machine.execRot t s
  | .zacc t => Sys2Proof.Machine.execZacc t s
  | .tadd t => Sys2Proof.Machine.execTadd t s
  | .tsub t => Sys2Proof.Machine.execTsub t s
  | .tmul t => Sys2Proof.Machine.execTmul t s
  | .tfma t => Sys2Proof.Machine.execTfma t s
  | .tmax t => Sys2Proof.Machine.execTmax t s
  | .tmin t => Sys2Proof.Machine.execTmin t s
  | .texp t => Sys2Proof.Machine.execTexp t s
  | .trcp t => Sys2Proof.Machine.execTrcp t s
  | .trsq t => Sys2Proof.Machine.execTrsq t s
  | .tsilu t => Sys2Proof.Machine.execTsilu t s
  | .tgelu t => Sys2Proof.Machine.execTgelu t s
  | .tcmp t => Sys2Proof.Machine.execTcmp t s
  | .tsel t => Sys2Proof.Machine.execTsel t s
  | .ttrn t => Sys2Proof.Machine.execTtrn t s
  | .tred t => Sys2Proof.Machine.execTred t s
  | .tbcast t => Sys2Proof.Machine.execTbcast t s
  | .tfill t => Sys2Proof.Machine.execTfill t s
  | .combine t => Sys2Proof.Machine.execCombine t s
  | .ldtab t => Sys2Proof.Machine.execLdtab t s
  | .cvt t => Sys2Proof.Machine.execCvt t s
  | .qnt t => Sys2Proof.Machine.execQnt t s
  | .dqt t => Sys2Proof.Machine.execDqt t s
  | .amax t => Sys2Proof.Machine.execAmax t s
  | .scl t => Sys2Proof.Machine.execScl t s
  | .copy t => Sys2Proof.Machine.execCopy t s
  | .gather t => Sys2Proof.Machine.execGather t s
  | .scatter t => Sys2Proof.Machine.execScatter t s
  | .coll t => Sys2Proof.Machine.execColl t s
  | .illegalEncoding word idx => Sys2Proof.Machine.execIllegalEncoding word idx s
  | .tileDispatch e unit => Sys2Proof.Machine.execTileDispatch e unit s
  | .tileCompletion e unit => Sys2Proof.Machine.execTileCompletion e unit s
  | .completionMessagePlace core => Sys2Proof.Machine.execCompletionMessagePlace core s
  | .ringHandoff core => Sys2Proof.Machine.execRingHandoff core s
  | .fetchLineFill slot => Sys2Proof.Machine.execFetchLineFill slot s
  | .streamStallResume slot => Sys2Proof.Machine.execStreamStallResume slot s
  | .storeDrain core n => Sys2Proof.Machine.execStoreDrain core n s
  | .remoteStoreAccept slot ans => Sys2Proof.Machine.execRemoteStoreAccept slot ans s
  | .homeLoadRequest n => Sys2Proof.Machine.execHomeLoadRequest n s
  | .loadReply src => Sys2Proof.Machine.execLoadReply src s
  | .leaseExpiry core n => Sys2Proof.Machine.execLeaseExpiry core n s
  | .homeEviction line => Sys2Proof.Machine.execHomeEviction line s
  | .atomicAtHome n => Sys2Proof.Machine.execAtomicAtHome n s
  | .updateEntryArrival core n => Sys2Proof.Machine.execUpdateEntryArrival core n s
  | .rupdCountAdd n => Sys2Proof.Machine.execRupdCountAdd n s
  | .lrwResend slot => Sys2Proof.Machine.execLrwResend slot s
  | .reservationTimeout n => Sys2Proof.Machine.execReservationTimeout n s
  | .bardNotificationArrival src => Sys2Proof.Machine.execBardNotificationArrival src s
  | .bardResend n => Sys2Proof.Machine.execBardResend n s
  | .sleepWake slot ans => Sys2Proof.Machine.execSleepWake slot ans s
  | .waitlimExpiry slot => Sys2Proof.Machine.execWaitlimExpiry slot s
  | .withdrawalResult slot => Sys2Proof.Machine.execWithdrawalResult slot s
  | .messageArrival src => Sys2Proof.Machine.execMessageArrival src s
  | .taskStart src => Sys2Proof.Machine.execTaskStart src s
  | .taskBudgetRetest n => Sys2Proof.Machine.execTaskBudgetRetest n s
  | .spawnRequestArrival n => Sys2Proof.Machine.execSpawnRequestArrival n s
  | .spawnAnswerArrival n => Sys2Proof.Machine.execSpawnAnswerArrival n s
  | .migrateTransfer n => Sys2Proof.Machine.execMigrateTransfer n s
  | .yieldTimeout slot => Sys2Proof.Machine.execYieldTimeout slot s
  | .coreHot core hot => Sys2Proof.Machine.execCoreHot core hot s
  | .thermalDisplacement core => Sys2Proof.Machine.execThermalDisplacement core s
  | .sparkTake core => Sys2Proof.Machine.execSparkTake core s
  | .sparkDrop cluster n => Sys2Proof.Machine.execSparkDrop cluster n s
  | .evalWake n => Sys2Proof.Machine.execEvalWake n s
  | .frameGrant ev => Sys2Proof.Machine.execFrameGrant ev s
  | .evalCommandComplete ev => Sys2Proof.Machine.execEvalCommandComplete ev s
  | .referenceDrop n => Sys2Proof.Machine.execReferenceDrop n s
  | .snapAnnounce seq home => Sys2Proof.Machine.execSnapAnnounce seq home s
  | .snapshotEndAnnounce seq home => Sys2Proof.Machine.execSnapshotEndAnnounce seq home s
  | .advertisementArrival src => Sys2Proof.Machine.execAdvertisementArrival src s
  | .shelfExpiry n => Sys2Proof.Machine.execShelfExpiry n s
  | .cupboardExpiry n => Sys2Proof.Machine.execCupboardExpiry n s
  | .blockPostArrival src => Sys2Proof.Machine.execBlockPostArrival src s
  | .shufResend slot => Sys2Proof.Machine.execShufResend slot s
  | .codingWindowExpiry => Sys2Proof.Machine.execCodingWindowExpiry s
  | .retransmitRelease n => Sys2Proof.Machine.execRetransmitRelease n s
  | .packetReceive src => Sys2Proof.Machine.execPacketReceive src s
  | .nackArrival src => Sys2Proof.Machine.execNackArrival src s
  | .lossNotice src => Sys2Proof.Machine.execLossNotice src s
  | .cupboardEviction n => Sys2Proof.Machine.execCupboardEviction n s
  | .dispatchArrival src => Sys2Proof.Machine.execDispatchArrival src s
  | .placeRow n => Sys2Proof.Machine.execPlaceRow n s
  | .collTimeout n => Sys2Proof.Machine.execCollTimeout n s
  | .launchPlacement n => Sys2Proof.Machine.execLaunchPlacement n s
  | .residencyGrant region entry => Sys2Proof.Machine.execResidencyGrant region entry s
  | .residencyRelease region entry => Sys2Proof.Machine.execResidencyRelease region entry s
  | .alarm core n => Sys2Proof.Machine.execAlarm core n s
  | .waittWake slot => Sys2Proof.Machine.execWaittWake slot s
  | .gangSwitchOut part => Sys2Proof.Machine.execGangSwitchOut part s
  | .gangSwitchIn part => Sys2Proof.Machine.execGangSwitchIn part s
  | .trapRecordAppend n => Sys2Proof.Machine.execTrapRecordAppend n s
  | .heldRecordAppend n => Sys2Proof.Machine.execHeldRecordAppend n s
  | .remoteAccessArrival a => Sys2Proof.Machine.execRemoteAccessArrival a s
  | .xlateReplayTimeout n => Sys2Proof.Machine.execXlateReplayTimeout n s
  | .sharerInvalidate reader line => Sys2Proof.Machine.execSharerInvalidate reader line s
  | .linePoison line => Sys2Proof.Machine.execLinePoison line s
  | .builtInSelfCheck core faulty => Sys2Proof.Machine.execBuiltInSelfCheck core faulty s
  | .coreFail core => Sys2Proof.Machine.execCoreFail core s
  | .clockFault die => Sys2Proof.Machine.execClockFault die s
  | .domainJoin dev time => Sys2Proof.Machine.execDomainJoin dev time s
  | .powerOn => Sys2Proof.Machine.execPowerOn s
  | .linkWidthChange link width => Sys2Proof.Machine.execLinkWidthChange link width s
  | .linkLoss link => Sys2Proof.Machine.execLinkLoss link s
  | .moduleReset linksRun => Sys2Proof.Machine.execModuleReset linksRun s
  | .moduleRemoval dev joins => Sys2Proof.Machine.execModuleRemoval dev joins s
  | .hostMemWrite addr bytes => Sys2Proof.Machine.execHostMemWrite addr bytes s
  | .hostLaunch cmd => Sys2Proof.Machine.execHostLaunch cmd s
  | .allow cmd => Sys2Proof.Machine.execAllow cmd s
  | .revoke cmd => Sys2Proof.Machine.execRevoke cmd s
  | .endRegion cmd => Sys2Proof.Machine.execEndRegion cmd s
  | .ackstop cmd => Sys2Proof.Machine.execAckstop cmd s
  | .fwload cmd => Sys2Proof.Machine.execFwload cmd s
  | .markCmd cmd => Sys2Proof.Machine.execMarkCmd cmd s
  | .discardedWrite => Sys2Proof.Machine.execDiscardedWrite s
  | .discClear => Sys2Proof.Machine.execDiscClear s
  | .policyActivate p => Sys2Proof.Machine.execPolicyActivate p s
  | .hgdataWrite slot => Sys2Proof.Machine.execHgdataWrite slot s
  | .rafWrite slot => Sys2Proof.Machine.execRafWrite slot s
  | .tqnoteWrite slot => Sys2Proof.Machine.execTqnoteWrite slot s
  | .tqstatWrite slot => Sys2Proof.Machine.execTqstatWrite slot s
  | .traceStop cluster => Sys2Proof.Machine.execTraceStop cluster s
  | .flashPulse => Sys2Proof.Machine.execFlashPulse s
  | .clockFaultClear die => Sys2Proof.Machine.execClockFaultClear die s
  | .matrixBlockEnd core => Sys2Proof.Machine.execMatrixBlockEnd core s
  | .partialResultArrival p => Sys2Proof.Machine.execPartialResultArrival p s
  | .uncorrectableError u => Sys2Proof.Machine.execUncorrectableError u s
  | .otherOpCommand cmd => Sys2Proof.Machine.execOtherOpCommand cmd s

end Sys2Proof.Machine
end

