-- ==== Sys2Proof/Machine/Schedule.lean ====
section
/-! DEFINITION. The default schedule (log entry 1): what moves next when the agenda lays nothing down. Events due at a time
come before all else, in the order of R24. The device's other events come as soon as they can; then the slots take their
turns; then a core cycle passes. What comes from outside the device, and what the spec leaves to chance, comes from the
agenda alone. -/

namespace Sys2Proof.Machine

/-- A default move: what it makes of a state where it can happen. -/
abbrev Chance := State → Option State

/-- An event that changes the state. -/
def changing (s : State) (o : Host.Outcome State Fault Refusal) : Option State :=
  match o with
  | .next t => if t = s then none else some t
  | _ => none

/-- The first number in a list whose event changes the state. -/
def firstOf (s : State) (f : Nat → Host.Outcome State Fault Refusal) : List Nat → Option State
  | [] => none
  | n :: ns => (changing s (f n)).or (firstOf s f ns)

/-- The first event among the places of a list of things in flight. -/
def among (n : Nat) (f : Nat → State → Host.Outcome State Fault Refusal) : Chance :=
  fun s => firstOf s (fun i => f i s) (List.range n)

/-- Numbers of slots whose status meets a test. -/
def slotsWhere (s : State) (f : Status → Bool) : List Nat := (s.slots.filter (fun e => f e.2.status)).map Prod.fst

/-- Whether a slot is asleep. -/
def isAsleep : Status → Bool
  | .asleep _ => true
  | _ => false

/-- Whether a slot waits for a line of code. -/
def isFetching : Status → Bool
  | .waiting (.fetch _) => true
  | _ => false

/-- Events due at a time, in the order of R24: the flash, gang switch-out and switch-in, timed launches and alarms, expiry
checks, and then the other ends of times that are set, and the answers to traffic for devices that are not there (R21). -/
def dueEvents (s : State) : List Chance :=
  let asleep := slotsWhere s isAsleep
  [fun s => if s.flash.isSome then changing s (execFlashPulse s) else none,
   fun s => firstOf s (fun i => execGangSwitchOut i s) (s.gangs.map Gang.part),
   fun s => firstOf s (fun i => execGangSwitchIn i s) (s.gangs.map Gang.part),
   fun s => firstOf s (fun i => execLaunchPlacement i s)
     ((s.launches.zipIdx.filter (fun l => l.1.time != 0 && s.reached l.1.time)).map Prod.snd),
   fun s => firstOf s (fun c => (firstOf s (fun i => execAlarm c i s) (List.range (s.core c).alarms.length)).elim (.next s) .next)
     ((s.cores.filter (fun e => !e.2.alarms.isEmpty)).map Prod.fst),
   among s.shelf.length execShelfExpiry,
   among s.cupboard.length execCupboardExpiry,
   fun s => firstOf s (fun i => execWaittWake i s) asleep,
   fun s => firstOf s (fun i => execYieldTimeout i s) asleep,
   fun s => firstOf s (fun i => execWaitlimExpiry i s) asleep,
   fun s => if s.codeQueue.isEmpty then none else changing s (execCodingWindowExpiry s),
   among s.retransmit.length execRetransmitRelease,
   among s.colls.length execCollTimeout,
   among s.faultBuf.length execXlateReplayTimeout,
   among s.resv.length execReservationTimeout,
   fun s => if s.outbox.any (isAbsent s) then some (answerAllAbsent s) else none,
   fun s => firstOf s (fun c => execTraceStop c s) ((s.mirrors.filter (fun e => e.2.recording)).map Prod.fst)]

/-- The event that is due now, whatever else is laid down (R24). -/
def dueNow (s : State) : Option State := (dueEvents s).findSome? (fun f => f s)

/-- How sleeps and fetches end. -/
def slotEvents (s : State) : List Chance :=
  let asleep := slotsWhere s isAsleep
  [fun s => firstOf s (fun i => execSleepWake i none s) asleep,
   fun s => firstOf s (fun i => execWithdrawalResult i s) asleep,
   fun s => firstOf s (fun i => execFetchLineFill i s) (slotsWhere s isFetching)]

/-- An entry of a store buffer on its way. -/
def drainOf (c : Nat) (i : Nat) (s : State) : Host.Outcome State Fault Refusal :=
  match (s.core c).sbuf[i]? with
  | some e =>
    match e.kind with
    | .update _ _ _ => execUpdateEntryArrival c i s
    | _ => execStoreDrain c i s
  | none => .next s

/-- A load or its reply on its way. -/
def loadOf (i : Nat) (s : State) : Host.Outcome State Fault Refusal :=
  match s.loads[i]? with
  | some r => if r.answer.isSome then execLoadReply (.mine i) s else execHomeLoadRequest i s
  | none => .next s

/-- A device register write on its way. -/
def registerWrite (w : DevWrite) (s : State) : Host.Outcome State Fault Refusal :=
  match w.cr.toNat with
  | 0x39 => execHgdataWrite w.slot s
  | 0x1D => execTqnoteWrite w.slot s
  | 0x1C => execTqstatWrite w.slot s
  | _ => execRafWrite w.slot s

/-- Something in flight between cores. -/
def flightOf (i : Nat) (s : State) : Host.Outcome State Fault Refusal :=
  match s.flights[i]? with
  | some (.inbox _ _) => execMessageArrival (.mine i) s
  | some (.task _ _) => execTaskStart (.mine i) s
  | some (.spawn _ _) => execSpawnRequestArrival i s
  | some (.spawned _ _) => execSpawnAnswerArrival i s
  | some (.bard _ _ _) => execBardNotificationArrival (.mine i) s
  | some (.thread _ _ _ _) => execMigrateTransfer i s
  | none => .next s

/-- The live homes whose bit is clear in a mask. -/
def homesWithout (s : State) (m : BitVec 1024) : List Nat :=
  (List.range s.logicalCores).filter (fun h => !(m.getLsbD h) && isLiveCore s h)

/-- Requests at homes, and other things on their way within the device. -/
def memoryEvents (s : State) : List Chance :=
  s.cores.map (fun e => among e.2.sbuf.length (drainOf e.1)) ++
  [among s.loads.length loadOf,
   among s.atoms.length execAtomicAtHome,
   among (s.cntAdds.length + s.guestAdds.length) execRupdCountAdd,
   among s.flights.length flightOf,
   fun s => s.devWrites.findSome? (fun w => changing s (registerWrite w s)),
   fun s => s.invals.findSome? (fun v => changing s (execSharerInvalidate v.reader v.line s)),
   among s.trapsInFlight.length execTrapRecordAppend,
   fun s => if (heldRecords s).isEmpty then none else among (heldRecords s).length execHeldRecordAppend s,
   fun s => s.snaps.findSome? (fun n =>
     (firstOf s (fun h => execSnapAnnounce n.seq h s) (homesWithout s n.recorded)).or
       (n.ending.bind (fun e => firstOf s (fun h => execSnapshotEndAnnounce n.seq h s) (homesWithout s e.2.1)))),
   fun s => s.leaseEnds.findSome? (fun x => changing s (execResidencyRelease x.region x.entry s)),
   fun s => s.resReqs.findSome? (fun q => changing s (execResidencyGrant q.1 q.2 s))]

/-- Whether a core has something for its engines. -/
def engaged (k : Core) : Bool :=
  !k.qn.isEmpty || !k.qp.isEmpty || k.matrix.run.isSome || k.vector.run.isSome || k.convert.run.isSome || k.handoff.isSome ||
    !k.held.isEmpty || k.copyRest.isSome

/-- What a core's engines do next. -/
def coreUnits (c : Nat) : Chance := fun s =>
  [execTileCompletion .matrix c, execTileCompletion .vector c, execTileCompletion .convert c, execMatrixBlockEnd c,
    execRingHandoff c, execCompletionMessagePlace c, execTileDispatch .matrix c, execTileDispatch .vector c,
    execTileDispatch .convert c, execTileDispatch .copy (clusterOf s c), execTileDispatch .collective c].findSome?
    (fun f => changing s (f s))

/-- The engines, the thunk engines and the shuffle. -/
def unitEvents (s : State) : List Chance :=
  (s.cores.filter (fun e => engaged e.2)).map (fun e => coreUnits e.1) ++
  [fun s => firstOf s (fun cl => execTileCompletion .copy cl s) ((s.copies.filter (fun e => e.2.run.isSome)).map Prod.fst),
   fun s => firstOf s (fun cl => execTileDispatch .copy cl s) ((s.copies.filter (fun e => e.2.run.isSome)).map Prod.fst),
   fun s => changing s (.next (progressEndings s)),
   fun s => if s.dumps.isEmpty then none else some (dumpRow s),
   among s.colls.length (execTileCompletion .collective),
   among s.wakes.length execEvalWake,
   fun s => firstOf s (fun e => execEvalCommandComplete e s) ((s.evals.filter (fun e => e.2.done.isSome)).map Prod.fst),
   fun s => firstOf s (fun e => execFrameGrant e s) ((s.evals.filter (fun e => e.2.phase == .frame)).map Prod.fst),
   among s.refDrops.length execReferenceDrop,
   fun s => (s.sparks.filter (fun e => !e.2.isEmpty)).findSome? (fun e =>
     firstOf s (fun c => execSparkTake c s) (clusterLive s e.1)),
   among s.adverts.length (fun i => execAdvertisementArrival (.mine i)),
   among s.posts.length (fun i => execBlockPostArrival (.mine i)),
   among s.packets.length (fun i => execPacketReceive (.mine i)),
   among s.nacks.length (fun i => execNackArrival (.mine i)),
   among s.losses.length (fun i => execLossNotice (.mine i)),
   among s.rows.length (fun i => execDispatchArrival (.mine i)),
   among s.places.length execPlaceRow,
   fun s => firstOf s (fun c => execThermalDisplacement c s) ((s.cores.filter (fun e => e.2.hot)).map Prod.fst)]

/-- The device's next event. -/
def nextEvent (s : State) : Option State :=
  (among s.launches.length execLaunchPlacement :: slotEvents s ++ memoryEvents s ++ unitEvents s).findSome? (fun f => f s)

/-- Whether it is a slot's turn: slot (cycle mod 8) of a core that has not had this cycle's turn (R91). -/
def itsTurn (s : State) (slot : Nat) : Bool := decide (slot % 8 = s.cycle % 8) && !(s.turned.contains (coreOf slot))

/-- What was refused is sent again (R166, R175, R317). -/
def resendAll (s : State) : State :=
  let asleep := slotsWhere s isAsleep
  let go := fun (o : State → Host.Outcome State Fault Refusal) (s : State) => (changing s (o s)).getD s
  let s := asleep.foldl (fun s i => go (execLrwResend i) s) s
  let s := (List.range s.flights.length).foldl (fun s i => go (execBardResend i) s) s
  asleep.foldl (fun s i => go (execShufResend i) s) s

/-- A core cycle passes; every 64 ns what was refused is sent again. -/
def passOne (s : State) : State :=
  let t := s.passCycle
  if t.time ≠ s.time ∧ t.time.toNat % 64 = 0 then resendAll t else t

end Sys2Proof.Machine
end

