-- ==== Sys2Proof/Machine/Turn.lean ====
section
/-! DEFINITION. The turns of slots (R28, R91), the service of scratchpad banks (R110), and the moves that the agenda or the
default schedule makes (log entry 1). -/

namespace Sys2Proof.Machine

/-- The outcome of a turn, as the mirrors note it (R381). -/
def noted (s : State) (o : Host.Outcome State Fault Refusal) : Host.Outcome State Fault Refusal :=
  match o with
  | .next t => .next (noteTurn s s.me.pc t)
  | o => o

/-- A slot's turn begins: its core has had this cycle's turn (R91). -/
def beginTurn (s : State) (slot : Nat) : State := { s with cur := slot, turned := coreOf slot :: s.turned }

/-- The instruction whose words have been fetched issues, unless it has done so before (R169). -/
def issueNow (s : State) (i : Instr) : State :=
  s.modMe (fun sl => { sl with since := some (sl.since.getD s.time), inst := some i })

/-- An instruction whose effect is made has its push left (R94). -/
def pushOn (s : State) (r : Reg) (v : Word) : Host.Outcome State Fault Refusal := conclude s (writeDone s r v)

/-- The slot whose turn it is goes on with its instruction, or fetches and executes one, waits for the line of its code, or
takes the fault of its fetch (R105), a SUSPEND under way giving up what it holds (R207); what it does in its turn is noted.
-/
def fetchAndRun (note : Host.Outcome State Fault Refusal → Host.Outcome State Fault Refusal) (s : State) :
    Host.Outcome State Fault Refusal :=
  match s.me.push, s.me.inst with
  | some (r, v), _ => note (pushOn s r v)
  | none, some i => note (exec i (issueNow s i))
  | none, none =>
    match fetchWords s s.cur with
    | .words ws s' =>
      let i := instrAt s.me.pc ws
      note (exec i (issueNow s' i))
    | .miss line loc s' => .next (fetchMiss s' line loc)
    | .fault c s' => note (.next (takeFault (dropSusp s' s'.cur) c s.me.pc))

/-- A turn of a slot (R28, R91): an instruction that has waited goes on as it was fetched (log entry 115). -/
def takeTurn (s : State) (slot : Nat) : Host.Outcome State Fault Refusal :=
  let s := beginTurn s slot
  fetchAndRun (noted s) s

/-- Whether a slot is out of the rotation still: what it tests again has not come about, so that its turn would leave it,
and its core's walk cache, as they are (R28, R91). -/
def stillWaits (s : State) (slot : Nat) : Bool :=
  match (s.slot slot).status with
  | .waiting _ =>
    (match takeTurn s slot with
      | .next t => t.slot slot == s.slot slot && (t.core (coreOf slot)).walks == (s.core (coreOf slot)).walks
      | _ => false)
  | _ => false

/-- Whether a slot takes its turn in this cycle (R91); one that is out of the rotation leaves it idle. -/
def takesTurn (s : State) (slot : Nat) : Bool := itsTurn s slot && canIssue s slot && !(stillWaits s slot)

/-- The next slot that issues in this cycle (R91). -/
def nextTurn (s : State) : Option Nat := (s.slots.find? (fun e => takesTurn s e.1)).map Prod.fst

/-- What a bank's service of one word comes to (R110): once each word of a slot's access is served, its fetch is over, or its
instruction goes on at once, a fault of which is noted as one between turns. -/
def serviceTurn (s : State) (b slot : Nat) : Host.Outcome State Fault Refusal :=
  let s : State := { serveBank s b slot with cur := slot }
  if !(wordsDue s.me).isEmpty then .next s
  else
    match s.me.status with
    | .waiting (.fetch _) => .next (s.modMe lineServed)
    | _ =>
      fetchAndRun (fun o => match o with
        | .next t => .next (if tookFault s t then noteFault t slot s.me.pc else t)
        | o => o) (s.modMe (fun sl => { sl with status := .ready }))

/-- The slots of this cycle take their turns, the banks serve, then the cycle passes. -/
def passStep (s : State) (after : List Move) : Host.Outcome State Fault Refusal :=
  match nextTurn s, nextService s with
  | some slot, _ => takeTurn s slot
  | none, some (b, slot) => serviceTurn s b slot
  | none, none => .next { passOne s with agenda := after }

/-- Whether what has left for another device has an answer to come. -/
def hasAnswer : Out → Bool
  | .load _ _ _ _ | .store _ _ _ _ _ | .atom _ _ _ _ | .bard _ _ _ | .advert _ _ | .unside _ _ _ _ _ | .post _ _ | .row _ _
  | .write _ _ _ => true
  | _ => false

/-- What has left for another device, and has no answer to come, is there: it is on its way no longer (R21, log entry 34). -/
def delivered (s : State) (i : Nat) : State :=
  match s.outbox[i]? with
  | some o => if hasAnswer o then s else { s with outbox := dropAt s.outbox i }
  | none => s

/-- One move of the agenda: a slot's turn in its cycle, an event of the table, a write of the host to
configuration space (R389), a row of a dump (R382), a delivery to another device, or cycles, of which none passes before its
slots have had their turns (R28, R91). -/
def runMove (m : Move) (rest : List Move) (s : State) : Host.Outcome State Fault Refusal :=
  match m with
  | .turn slot =>
    let s := { s with agenda := rest }
    if takesTurn s slot then takeTurn s slot else .next s
  | .event i => if isEvent i then exec i { s with agenda := rest } else .next { s with agenda := rest }
  | .config offset v => .next (configWrite { s with agenda := rest } offset v)
  | .dumpRow => .next (dumpRow { s with agenda := rest })
  | .delivered i => .next (delivered { s with agenda := rest } i)
  | .pass 0 => .next { s with agenda := rest }
  | .pass (n + 1) => passStep s (.pass n :: rest)

/-- The default schedule's move (log entry 1): an event of the device, else a slot's turn, else a core cycle. -/
def defaultMove (s : State) : Host.Outcome State Fault Refusal :=
  match nextEvent s with
  | some t => .next t
  | none => passStep s []

end Sys2Proof.Machine
end

