-- ==== Sys2Proof/Machine/Step.lean ====
section
/-! DEFINITION. One step of the machine, and where it fetches from. -/

namespace Sys2Proof.Machine

/-- One step: an event that is due (R24), else the agenda's next move, or the default schedule's (log entry 1). -/
def step (s : State) : Host.Outcome State Fault Refusal :=
  match dueNow s, s.agenda with
  | some t, _ => .next t
  | none, m :: rest => runMove m rest s
  | none, [] => defaultMove s

/-- A protection window over the whole TCM for a region, with R, W and X (R112). -/
def tcmWindow (region : Nat) : Word := 1#1 ++ 0#2 ++ 7#3 ++ BitVec.ofNat 14 region ++ 0#19 ++ 2047#19 ++ 0#6

/-- The state with an instruction stored where the next step fetches: a task of region 0 in the slot of core 0 whose turn this
cycle is, whose pc is the base of the core's TCM, a window over the TCM, the instruction's bytes there, and that slot's turn
laid down (log entry 16). -/
def State.withFetchWord (s : State) (nbits w : Nat) : State :=
  let slot := s.cycle % 8
  let s := s.modCore 0 (fun k => { k with pw := k.pw.set 0 (tcmWindow 0) })
  let s := s.modSlot slot (fun sl => { clearProgress sl with
    pc := 0xFFFF000000000000, region := 0, rcb := 0, ctx := 0, fetch := none, status := .ready })
  { s with
    mem := writeBytes s.mem (tcmKey 0 0) (bytesOfNat 32 (w % 2 ^ nbits))
    turned := []
    agenda := [.turn slot] }

end Sys2Proof.Machine
end

