-- ==== Sys2Proof/Safety.lean ====
section
/-! DEFINITION. What the statements call a state in good order, and what a run of steps is. -/

namespace Sys2Proof.Machine

/-- Memory keeps its canonical form. -/
def State.memOk (s : State) : Prop := Memory.wf s.mem = true

/-- One step of a run. -/
def Steps (s t : State) : Prop := step s = .next t

end Sys2Proof.Machine
end

