-- ==== Sys2Proof/Certificates/Slice0/Obligations.lean ====
section
/-! DEFINITION. The statements for the provers: the rules of the spec as claims of this machine. Sources are read
through readG and results written through writeG, so that a statement holds for plain registers and for stream aliases
alike; the premises of a completion statement are on the state and the operands alone. -/

open Sys2Proof Sys2Proof.Machine

namespace Sys2Proof.Machine

/-- The instructions that a word or eight words encode: every constructor but the events of the table and the word that
is no instruction. -/
def hasWords (i : Instr) : Bool := !isEvent i && match i with
  | .illegalEncoding _ _ => false
  | _ => true

/-- What the three-operand members of majors 0x01, 0x0A and 0x0B compute from ga and gb (R95, R98, R100). -/
def binaryRows : List ((Reg → Reg → Reg → Instr) × (Word → Word → Word)) :=
  [(.add, fun a b => a + b), (.sub, fun a b => a - b), (.and, fun a b => a &&& b), (.or, fun a b => a ||| b),
   (.xor, fun a b => a ^^^ b), (.andn, fun a b => a &&& ~~~b),
   (.sll, fun a b => a <<< (b.setWidth 6).toNat), (.srl, fun a b => a >>> (b.setWidth 6).toNat),
   (.sra, fun a b => a.sshiftRight (b.setWidth 6).toNat), (.rol, fun a b => a.rotateLeft (b.setWidth 6).toNat),
   (.min, fun a b => if a.toInt < b.toInt then a else b), (.max, fun a b => if a.toInt < b.toInt then b else a),
   (.minu, fun a b => if a.toNat < b.toNat then a else b), (.maxu, fun a b => if a.toNat < b.toNat then b else a),
   (.slt, fun a b => if a.toInt < b.toInt then 1 else 0), (.sltu, fun a b => if a.toNat < b.toNat then 1 else 0),
   (.seq, fun a b => if a = b then 1 else 0),
   (.mul, fun a b => a * b), (.mulh, fun a b => (a.signExtend 128 * b.signExtend 128).extractLsb' 64 64),
   (.mulhu, fun a b => (a.setWidth 128 * b.setWidth 128).extractLsb' 64 64),
   (.div, fun a b => if b = 0 then BitVec.allOnes 64 else a.sdiv b),
   (.divu, fun a b => if b = 0 then BitVec.allOnes 64 else a.udiv b),
   (.rem, fun a b => if b = 0 then a else a.srem b), (.remu, fun a b => if b = 0 then a else a.umod b)]

/-- The FP32 members of major 0x0B on bits 31:0 of ga and gb (R93, R100). -/
def floatRows : List ((Reg → Reg → Reg → Instr) × (W32 → W32 → W32)) :=
  [(.fadd, fadd32), (.fsub, fsub32), (.fmul, fmul32), (.fmin, fmin32), (.fmax, fmax32),
   (fun gd ga gb => .fcmp gd ga gb 0, fun a b => if eqNum (num32 a) (num32 b) then 1 else 0),
   (fun gd ga gb => .fcmp gd ga gb 1, fun a b => if ltNum (num32 a) (num32 b) then 1 else 0),
   (fun gd ga gb => .fcmp gd ga gb 2,
     fun a b => if ltNum (num32 a) (num32 b) ∨ eqNum (num32 a) (num32 b) then 1 else 0),
   (fun gd ga gb => .fcmp gd ga gb 3, fun a b => if isNan (num32 a) ∨ isNan (num32 b) then 1 else 0)]

/-- What the members with one source register compute (R95, R96, R100, R101), every immediate among the operands. -/
def unaryRows (imm : BitVec 16) (imm15 : BitVec 15) (sh : BitVec 6) : List ((Reg → Reg → Instr) × (Word → Word)) :=
  [(.clz, fun a => a.clz), (.ctz, fun a => a.ctz), (.popc, fun a => a.cpop),
   (.bswap, fun a => a.extractLsb' 0 8 ++ a.extractLsb' 8 8 ++ a.extractLsb' 16 8 ++ a.extractLsb' 24 8 ++
     a.extractLsb' 32 8 ++ a.extractLsb' 40 8 ++ a.extractLsb' 48 8 ++ a.extractLsb' 56 8),
   (.sextb, fun a => (a.extractLsb' 0 8).signExtend 64), (.sexth, fun a => (a.extractLsb' 0 16).signExtend 64),
   (.sextw, fun a => (a.extractLsb' 0 32).signExtend 64), (.zextw, fun a => 0#32 ++ a.extractLsb' 0 32),
   (fun gd ga => .addi gd ga imm, fun a => a + imm.signExtend 64),
   (fun gd ga => .andi gd ga imm, fun a => a &&& imm.setWidth 64),
   (fun gd ga => .ori gd ga imm, fun a => a ||| imm.setWidth 64),
   (fun gd ga => .xori gd ga imm, fun a => a ^^^ imm.setWidth 64),
   (fun gd ga => .slli gd ga sh, fun a => a <<< sh.toNat), (fun gd ga => .srli gd ga sh, fun a => a >>> sh.toNat),
   (fun gd ga => .srai gd ga sh, fun a => a.sshiftRight sh.toNat),
   (fun gd ga => .slti gd ga imm15, fun a => if a.toInt < (imm15.signExtend 64).toInt then 1 else 0),
   (fun gd ga => .sltiu gd ga imm15, fun a => if a.toNat < (imm15.signExtend 64).toNat then 1 else 0),
   (fun gd ga => .fcvtif gd ga true, fun a => (round32 (numOfInt a.toNat) false).setWidth 64),
   (fun gd ga => .fcvtif gd ga false, fun a => (round32 (numOfInt a.toInt) false).setWidth 64),
   (fun gd ga => .fcvtfi gd ga true, fun a => f32ToInt true (a.setWidth 32)),
   (fun gd ga => .fcvtfi gd ga false, fun a => f32ToInt false (a.setWidth 32)),
   (.fneg, fun a => 0#32 ++ (~~~(a.extractLsb' 31 1) ++ a.extractLsb' 0 31))]

/-- When the branches are taken (R102). -/
def branchRows : List ((Reg → Reg → BitVec 16 → Instr) × (Word → Word → Bool)) :=
  [(.beq, fun a b => decide (a = b)), (.bne, fun a b => decide (a ≠ b)),
   (.blt, fun a b => decide (a.toInt < b.toInt)), (.bge, fun a b => decide (b.toInt ≤ a.toInt)),
   (.bltu, fun a b => decide (a.toNat < b.toNat)), (.bgeu, fun a b => decide (b.toNat ≤ a.toNat))]

/-- The scalar instructions that touch registers and the pc only, with the destination register (R95 to R104). -/
def regOnly : Instr → Option Reg
  | .add gd _ _ | .sub gd _ _ | .and gd _ _ | .or gd _ _ | .xor gd _ _ | .andn gd _ _ | .sll gd _ _ | .srl gd _ _
  | .sra gd _ _ | .rol gd _ _ | .min gd _ _ | .max gd _ _ | .minu gd _ _ | .maxu gd _ _ | .slt gd _ _
  | .sltu gd _ _ | .seq gd _ _ | .sel gd _ _ | .mul gd _ _ | .mulh gd _ _ | .mulhu gd _ _ | .div gd _ _
  | .divu gd _ _ | .rem gd _ _ | .remu gd _ _ | .fadd gd _ _ | .fsub gd _ _ | .fmul gd _ _ | .ffma gd _ _
  | .fmin gd _ _ | .fmax gd _ _ | .fcmp gd _ _ _ => some gd
  | .clz gd _ | .ctz gd _ | .popc gd _ | .bswap gd _ | .sextb gd _ | .sexth gd _ | .sextw gd _ | .zextw gd _
  | .addi gd _ _ | .andi gd _ _ | .ori gd _ _ | .xori gd _ _ | .slli gd _ _ | .srli gd _ _ | .srai gd _ _
  | .slti gd _ _ | .sltiu gd _ _ | .lui gd _ | .adpc gd _ | .fcvtif gd _ _ | .fcvtfi gd _ _ | .fneg gd _ => some gd
  | .beq _ _ _ | .bne _ _ _ | .blt _ _ _ | .bge _ _ _ | .bltu _ _ _ | .bgeu _ _ _ | .jmp _ | .nop => some 0
  | .call _ => some 31
  | _ => none

/-- A few words written out bit by bit from R34 to R41 and the members' own layouts, with what they decode to. -/
def wordSamples : List (W32 × Instr) :=
  [(0b000001_00011_00100_00101_00000_000000#32, .add 3 4 5),
   (0b110110_00000_00000_00000_01000_000000#32, .nop),
   (0b000010_00011_00100_1111111111111111#32, .addi 3 4 0xFFFF),
   (0b000110_00001_00010_10_00000000_111111#32, .srai 1 2 63),
   (0b000111_00001_00010_1_111111111111111#32, .sltiu 1 2 0x7FFF),
   (0b001000_00001_100000000000000000001#32, .lui 1 0x100001),
   (0b001010_00001_00010_00011_00110_000000#32, .remu 1 2 3),
   (0b001011_00001_00010_00011_00110_0000_10#32, .fcmp 1 2 3 2),
   (0b010000_00001_00010_0000000000000011#32, .beq 1 2 3),
   (0b010110_11111111111111111111111110#32, .jmp 0x3FFFFFE),
   (0b100000_00111_01000_0_10_00_11111111100#32, .ld 7 8 2 0x7FC),
   (0b100000_00111_01000_1_01_00_00000000010#32, .ldu 7 8 1 2),
   (0b100001_00111_01000_0_11_01_00000000000#32, .stA8 7 8 0),
   (0b101100_00010_00011_000_10_00000010000#32, .ldq 2 3 2 16),
   (0b100100_00000_00010_00011_00010_000000#32, .prune 2 3),
   (0b101000_00001_00010_00000_00000_101_00_1#32, .lrw 1 2 5 true),
   (0b101001_00001_00010_00000_00001_000000#32, .ldff 1 2),
   (0b101010_00001_00010_00011_00010_011_000#32, .bard 1 2 3 3),
   (0b101011_00001_00010_00011_00010_010_101#32, .rupd 1 2 3 2 5),
   (0b110000_00001_00010_00011_00001_010_000#32, .spawn 1 2 3 2),
   (0b110001_00001_00010_00000_00010_000000#32, .fpoll 1 2),
   (0b110010_00001_00010_00011_00000_000000#32, .snap 1 2 3),
   (0b110011_00001_00010_00000_00100_000000#32, .shq 1 2),
   (0b110100_00001_00000_00000_00100_000_111#32, .spos 1 7),
   (0b110101_00001_00010_00011_00011_0000_10#32, .resideQry 1 2 3),
   (0b110110_00000_00010_00000_00001_101010#32, .crw 2 0x2A),
   (0b110110_00001_00010_00000_00101_0000_10#32, .eretEnd 1 2),
   (0b110111_00000_00000_00000_00000_100101#32, .bkpt 37),
   (0b111000_00001_00010_00000_00011_0_11111#32, .kwait 1 2 31)]

/-- Words that are no instruction, with why (R9, R36 to R41). -/
def wordsRefused : List (W32 × Reject) :=
  [(0#32, .reservedMajor), (0x38000000#32, .reservedMajor),
   (0b000001_00001_00010_00011_11010_000000#32, .unlistedSelector),
   (0b000001_00001_00010_00011_00000_000001#32, .reservedField),
   (0b000110_00001_00010_11_00000000_000001#32, .unlistedSelector),
   (0b100000_00001_00010_1_11_00_00000000000#32, .reservedSize),
   (0b100001_00001_00010_1_00_00_00000000000#32, .reservedSize),
   (0b101100_00011_00010_000_00_00000000000#32, .reservedSize),
   (0b111111_0101_00000000_0_0_0000_00000000#32, .reservedEngine)]

/-- The slot whose turn it is has an instruction to run: the one that it has fetched before, or the one that the words at its pc
decode to now, with the state once they are fetched. -/
def runsIn (v : State) (i : Instr) (u : State) : Prop :=
  v.me.push = none ∧
    (v.me.inst = some i ∧ u = v ∨
      v.me.inst = none ∧ (i.tile? = none ∨ v.me.pc.toNat % 32 = 0) ∧
        ∃ ws, fetchWords v v.cur = .words ws u ∧ decodeWords ws = .ok i)

/-- An instruction whose effect others see has led to a state and ends with a write of v to r (R94): at once, or where it
waits for the push that r makes, with that push alone left (log entry 136). -/
def endsWith (i : Instr) (s u : State) (r : Reg) (v : Word) : Prop :=
  (∀ t, pushWaits u r = false → writeG u r v = .ok () t → exec i s = .next (t.retire 4)) ∧
    ∀ t, pushWaits u r = true → probeG u r = .ok () t → exec i s = .next (t.modMe (pushLater r v))

/-- No watchpoint stands in the way of the next access of the slot whose turn it is: both are off (R377), or the
instruction executes afresh after WATCH (R378). -/
def unwatched (s : State) : Prop := s.me.wpSkip = true ∨ s.me.wp0.kind = 0 ∧ s.me.wp1.kind = 0

end Sys2Proof.Machine

/-- Decoding the words of any well-formed instruction gives it back, every operand at every value its field admits
(R32, R34 to R43; the members' own layouts). -/
def Obligations.DecodeEncode : Prop :=
  ∀ i : Instr, hasWords i = true → WellFormed i = true → decodeWords (encode i) = .ok i

/-- What a word decodes to encodes as that word again and is well-formed: no two words share a meaning, and no reserved
bit is dropped (R9, R37, R38). -/
def Obligations.EncodeDecode : Prop :=
  ∀ (w : W32) (rest : List W32) (i : Instr), decodeWords (w :: rest) = .ok i → i.tile? = none →
    encode i = [w] ∧ WellFormed i = true ∧ hasWords i = true

/-- Words written out from the encoding tables decode to the instructions they stand for, and words with a reserved
field or an unlisted code are refused by name (R9, R34 to R41). -/
def Obligations.WordsDecode : Prop :=
  (∀ p ∈ wordSamples, decodeWords [p.1] = .ok p.2) ∧
  (∀ p ∈ wordsRefused, decodeWords [p.1, 0, 0, 0, 0, 0, 0, 0] = .error p.2) ∧
  decodeWords [0b111111_0001_00000110_1_0_0000_00000000#32, 1, 2, 3, 4, 5, 6, 7] =
    .ok (.texp ⟨0b111111_0001_00000110_1_0_0000_00000000#32, 1, 2, 3, 4, 5, 6, 7⟩)

/-- While no event is due, a slot whose turn it is and that has an instruction to run, fetched now or fetched before
and waiting since (log entry 115), runs exec of that instruction, in the state in which its turn has begun and its
words have been fetched: the core has had its turn of this cycle, and the instruction's issue has its time. Around it
stands the mirrors' note of the turn (R381). One whose effect is made and whose push alone is left makes the push (log
entry 136). The agenda's turn, a turn that comes before the agenda lets a cycle pass, and the default schedule's turn
are alike (log entries 1 and 47). With no turn left in the cycle, a scratchpad bank serves a word (R110; log entry
102): while words are left the slot waits on; with the last of a line of code its fetch is over; with the last of its
instruction's access a step is exec of that instruction, with the note of a fault that it takes then (R381; log entry
106). The clauses that rest on log entries 1, 47, 102, 106 and 115 are the model's choice or reading. -/
def Obligations.StepRunsDecoded : Prop :=
  ∀ (s : State) (slot : Nat), dueNow s = none →
    (∀ (s0 u t : State) (i : Instr),
      ((∃ rest, s.agenda = .turn slot :: rest ∧ s0 = { s with agenda := rest } ∧ takesTurn s0 slot = true) ∨
        ((∃ n rest, s.agenda = .pass (n + 1) :: rest) ∨ (s.agenda = [] ∧ nextEvent s = none)) ∧ nextTurn s = some slot ∧
          s0 = s) →
      (runsIn (beginTurn s0 slot) i u → exec i (issueNow u i) = .next t →
        step s = .next (noteTurn (beginTurn s0 slot) (s0.slot slot).pc t)) ∧
      ∀ r v, (s0.slot slot).push = some (r, v) →
        conclude (beginTurn s0 slot) (writeDone (beginTurn s0 slot) r v) = .next t →
        step s = .next (noteTurn (beginTurn s0 slot) (s0.slot slot).pc t)) ∧
    ∀ (b : Nat) (v : State), ((∃ n rest, s.agenda = .pass (n + 1) :: rest) ∨ (s.agenda = [] ∧ nextEvent s = none)) →
      nextTurn s = none → nextService s = some (b, slot) → v = { serveBank s b slot with cur := slot } →
      (wordsDue v.me ≠ [] → step s = .next v) ∧
      (∀ line, wordsDue v.me = [] → v.me.status = .waiting (.fetch line) → step s = .next (v.modMe lineServed)) ∧
      ∀ (u t : State) (i : Instr), wordsDue v.me = [] → (∀ line, v.me.status ≠ .waiting (.fetch line)) →
        runsIn (v.modMe (fun sl => { sl with status := .ready })) i u → exec i (issueNow u i) = .next t →
        step s = .next (if tookFault v t then noteFault t slot v.me.pc else t)

/-- A slot that fetches local code executes what memory holds there: the words from its pc to the end of its line,
which its fetch buffer then holds (R32, R415). A word that is no instruction, and a lead word off its 32-byte boundary,
run ILLEGAL_ENCODING (R32, R55). The clauses that rest on log entry 15 are the model's choice or reading. -/
def Obligations.FetchOrFault : Prop :=
  (∀ (s : State) (slot key : Nat) (pc : Word), (s.slot slot).pc = pc → pc.toNat % 4 = 0 → (s.slot slot).fetch = none →
     (accessLoc s ⟨coreOf slot, slot, (s.slot slot).region⟩ pc 4 .fetch = .ok (.bank key, s) → inBanks key = true →
       fetchWords s slot = .miss (pc &&& ~~~(127 : Word)) (.bank key) s) ∧
     (inBanks key = false → accessLoc s ⟨coreOf slot, slot, (s.slot slot).region⟩ pc 4 .fetch = .ok (.bank key, s) →
     (fMaj ((wordsOfBytes (readBytes s.mem key (128 - pc.toNat % 128))).headD 0) = 0x3F → pc.toNat % 32 = 0 →
       accessLoc (s.modSlot slot (fun sl => { sl with
         fetch := some (pc &&& ~~~(127 : Word), readBytes s.mem (key - pc.toNat % 128) 128) }))
         ⟨coreOf slot, slot, (s.slot slot).region⟩ pc 32 .fetch = .ok (.bank key, s.modSlot slot (fun sl => { sl with
           fetch := some (pc &&& ~~~(127 : Word), readBytes s.mem (key - pc.toNat % 128) 128) }))) →
     fetchWords s slot = .words (wordsOfBytes (readBytes s.mem key (128 - pc.toNat % 128)))
       (s.modSlot slot (fun sl => { sl with
         fetch := some (pc &&& ~~~(127 : Word), readBytes s.mem (key - pc.toNat % 128) 128) })))) ∧
  (∀ (pc : Word) (w : W32) (ws : List W32),
     ((∃ e, decodeWords (w :: ws) = .error e) ∨ (fMaj w = 0x3F ∧ pc.toNat % 32 ≠ 0) →
       instrAt pc (w :: ws) = .illegalEncoding w 0) ∧
     ∀ (idx : BitVec 3) (s : State),
       exec (.illegalEncoding w idx) s = .next (takeFault s .illegal ((idx ++ w).setWidth 64)))

/-- Every step answers a next state: the spec gives every fault of an instruction an entry and every wait a state of
the slot (R28, R356), so no run of this machine stops. The clauses that rest on log entry 1 are the model's choice or
reading. -/
def Obligations.StepAlwaysAnswers : Prop := ∀ s : State, ∃ t, step s = .next t

/-- Every step keeps memory in canonical form, from every state that has it. The clauses that rest on log entry 3 are
the model's choice or reading. -/
def Obligations.StepKeepsMemoryForm : Prop :=
  ∀ s t : State, Memory.wf s.mem = true → step s = .next t → Memory.wf t.mem = true

/-- The machine at reset: memory lists nothing and is in canonical form; region 0 is live with its limits at their
maximum; no slot has a task; the trap queue is empty with its next sequence number 1 (R331, R360, R354); every leased
length is 512 (R119). The clauses that rest on log entries 3, 6, 10 and 74 are the model's choice or reading. -/
def Obligations.ResetState : Prop :=
  Memory.wf State.reset.mem = true ∧ State.reset.mem = [] ∧
  (State.reset.region 0).state = .live ∧ (∀ i : Fin 5, (State.reset.region 0).budgets[i] = ⟨BitVec.allOnes 64, 0⟩) ∧
  (∀ i : Fin 8, (State.reset.region 0).res[i].st = 0) ∧
  (∀ n, (State.reset.slot n).status = .noTask) ∧
  State.reset.tq = [] ∧ State.reset.tqSeq = 1 ∧ State.reset.tqLost = 0 ∧ State.reset.tqOvf = false ∧
  (∀ c, (State.reset.core c).leaselen = 512 ∧ ∀ i : Fin 8, (State.reset.core c).pw[i] = 0)

/-- A read of an unbound register gives its value, g0 reading 0; a write changes that register alone, g0 discarding it
(R93). The frame of the instructions that touch registers and the pc only, with no alias bound: each completes, and
everything but its destination register, the slot's pc and the marks of an instruction in progress is unchanged: the
other registers and slots, every core, FLAGS and every control register, the trap state, and every byte of memory. -/
def Obligations.RegisterFrame : Prop :=
  (∀ (s : State) (r : Reg) (v : Word), boundStream s.me r = none →
     readG s r = .ok (if r = 0 then 0 else s.me.g[r.toNat]'(by have := r.isLt; omega)) s ∧
     (∃ t, writeG s r v = .ok () t ∧ t = s.modMe (fun sl => { sl with g := t.me.g }) ∧
       (∀ x : Reg, x ≠ r → t.me.reg x = s.me.reg x) ∧ t.me.reg r = if r = 0 then 0 else v)) ∧
  (∀ (i : Instr) (gd : Reg) (s : State), regOnly i = some gd → s.me.streams = [] →
     ∃ t, exec i s = .next t ∧ t = { s with slots := t.slots } ∧ (∀ n, n ≠ s.cur → t.slot n = s.slot n) ∧
       t.me = { clearProgress s.me with g := t.me.g, pc := t.me.pc, status := .ready, wpSkip := false } ∧
       (∀ r : Reg, r ≠ gd → t.me.reg r = s.me.reg r) ∧ ∀ a, byteAt t.mem a = byteAt s.mem a)

/-- The three-operand integer members: each completes and writes its result to gd (R95, R98). -/
def Obligations.IntegerBinaryResults : Prop :=
  ∀ row ∈ binaryRows, ∀ (s s1 s2 t : State) (gd ga gb : Reg) (a b : Word),
    readG s ga = .ok a s1 → readG s1 gb = .ok b s2 → writeG s2 gd (row.2 a b) = .ok () t →
    exec (row.1 gd ga gb) s = .next (t.retire 4)

/-- The members with one source, the immediate forms and the conversions: each completes and writes its result to gd;
LUI and ADPC, which have no source, too (R95, R96, R97, R100, R101). -/
def Obligations.UnaryResults : Prop :=
  (∀ (imm : BitVec 16) (imm15 : BitVec 15) (sh : BitVec 6), ∀ row ∈ unaryRows imm imm15 sh,
    ∀ (s s1 t : State) (gd ga : Reg) (a : Word),
      readG s ga = .ok a s1 → writeG s1 gd (row.2 a) = .ok () t → exec (row.1 gd ga) s = .next (t.retire 4)) ∧
  ∀ (s t u : State) (gd : Reg) (imm : BitVec 21),
    (writeG s gd ((imm ++ 0#11).signExtend 64) = .ok () t → exec (.lui gd imm) s = .next (t.retire 4)) ∧
    (writeG s gd (s.me.pc + (imm ++ 0#11).signExtend 64) = .ok () u → exec (.adpc gd imm) s = .next (u.retire 4))

/-- The FP32 members read bits 31:0 of their sources, compute one rounded result and zero-extend it; FFMA reads the old
gd last (R93, R100). SEL writes gb where ga is not 0, and where it is 0 reads gd and leaves it (R95). -/
def Obligations.FloatAndSelectResults : Prop :=
  ((∀ row ∈ floatRows, ∀ (s s1 s2 t : State) (gd ga gb : Reg) (a b : Word),
     readG s ga = .ok a s1 → readG s1 gb = .ok b s2 →
     writeG s2 gd (0#32 ++ row.2 (a.extractLsb' 0 32) (b.extractLsb' 0 32)) = .ok () t →
     exec (row.1 gd ga gb) s = .next (t.retire 4)) ∧
   ∀ (s s1 s2 s3 t : State) (gd ga gb : Reg) (a b d : Word),
     readG s ga = .ok a s1 → readG s1 gb = .ok b s2 → readG s2 gd = .ok d s3 →
     writeG s3 gd (0#32 ++ round32 (addNum (mulNum (num32 (a.extractLsb' 0 32)) (num32 (b.extractLsb' 0 32)))
       (num32 (d.extractLsb' 0 32))) false) = .ok () t →
     exec (.ffma gd ga gb) s = .next (t.retire 4)) ∧
  (∀ (s s1 s2 t : State) (gd ga gb : Reg) (a b d : Word),
     readG s ga = .ok a s1 → readG s1 gb = .ok b s2 →
     (a ≠ 0 → writeG s2 gd b = .ok () t → exec (.sel gd ga gb) s = .next (t.retire 4)) ∧
     (a = 0 → readG s2 gd = .ok d t → exec (.sel gd ga gb) s = .next (t.retire 4)))

/-- A taken branch moves the pc by four times its signed offset, one not taken by 4 (R102). JMP and CALL move it by four
times theirs, CALL after the link is written; JR goes to ga with the link in gd, or raises MISALIGN, which leaves gd and
the pc as they were (R103, R104). -/
def Obligations.BranchAndJumpTargets : Prop :=
  (∀ row ∈ branchRows, ∀ (s s1 t : State) (ga gb : Reg) (off : BitVec 16) (a b : Word),
     readG s ga = .ok a s1 → readG s1 gb = .ok b t →
     ∃ u, exec (row.1 ga gb off) s = .next u ∧ u = t.finish (u.me.pc) ∧
       u.me.pc = if row.2 a b then t.me.pc + BitVec.ofInt 64 (4 * off.toInt) else t.me.pc + 4) ∧
  ((∀ (s : State) (off : BitVec 26),
     ∃ u, exec (.jmp off) s = .next u ∧ u = s.finish u.me.pc ∧ u.me.pc = s.me.pc + BitVec.ofInt 64 (4 * off.toInt)) ∧
   (∀ (s t : State) (off : BitVec 26), writeG s 31 (s.me.pc + 4) = .ok () t →
     ∃ u, exec (.call off) s = .next u ∧ u = t.finish u.me.pc ∧ u.me.pc = t.me.pc + BitVec.ofInt 64 (4 * off.toInt)) ∧
   ∀ (s s1 t : State) (gd ga : Reg) (a : Word), readG s ga = .ok a s1 →
     (a.toNat % 4 = 0 → writeG s1 gd (s1.me.pc + 4) = .ok () t → exec (.jr gd ga) s = .next (t.finish a)) ∧
     (a.toNat % 4 ≠ 0 → exec (.jr gd ga) s = .next (takeFault s .misalign a)))

/-- The loads complete once their bytes are found: LD sign-extends, LDU zero-extends, LD with .A8 takes 8 bytes, LDQ writes
the low half to gd and the high half to gd + 1 once both have passed their checks, LDACQ acquires before gd is written (R124
to R126, R146). -/
def Obligations.LoadsComplete : Prop :=
  ∀ (s s1 s2 t u : State) (gd ga : Reg) (off : BitVec 11) (b : Word) (bs : List Byte), readG s ga = .ok b s1 →
    (∀ w : BitVec 2, (effAddr b off).toNat % 2 ^ w.toNat = 0 →
      loadBytes s1 (effAddr b off) (2 ^ w.toNat) true false = .ok bs s2 →
      (writeG s2 gd (sextBytes (2 ^ w.toNat) (wordOf bs)) = .ok () t → exec (.ld gd ga w off) s = .next (t.retire 4)) ∧
      (writeG s2 gd (wordOf bs) = .ok () t → exec (.ldu gd ga w off) s = .next (t.retire 4)) ∧
      (w = 3 → writeG s2 gd (sextBytes 8 (wordOf bs)) = .ok () t → exec (.ldA8 gd ga off) s = .next (t.retire 4))) ∧
    (∀ fl : BitVec 2, (effAddr b off).toNat % 16 = 0 → loadBytes s1 (effAddr b off) 16 true false = .ok bs s2 →
      probeBoth s2 gd (gd + 1) = .ok () s2 →
      writeG s2 gd (wordOf (bs.take 8)) = .ok () t → writeG t (gd + 1) (wordOf (bs.drop 8)) = .ok () u →
      exec (.ldq gd ga fl off) s = .next (u.retire 4)) ∧
    (∀ (scope : BitVec 3) (w : BitVec 2), scope.toNat < 6 → (effAddr b off).toNat % 2 ^ w.toNat = 0 →
      loadBytes s1 (effAddr b off) (2 ^ w.toNat) (decide (scope = 0)) true = .ok bs s2 →
      writeG (acquire s2 scope) gd (wordOf bs) = .ok () t → exec (.ldacq gd ga scope w off) s = .next (t.retire 4))

/-- The stores complete once their bytes are taken: ga is read, then gd (and gd + 1 of STQ), and the low bytes go to
memory in little-endian order; STREL drains first (R3, R124 to R126, R147). -/
def Obligations.StoresComplete : Prop :=
  ∀ (s s1 s2 s3 s4 t : State) (gd ga : Reg) (off : BitVec 11) (b v hi : Word), readG s ga = .ok b s1 →
    readG s1 gd = .ok v s2 →
    (∀ w : BitVec 2, (effAddr b off).toNat % 2 ^ w.toNat = 0 →
      storeBytes s2 (effAddr b off) (bytesOf (2 ^ w.toNat) v) false 0 = .ok () t →
      exec (.st gd ga w off) s = .next (t.retire 4) ∧ (w = 3 → exec (.stA8 gd ga off) s = .next (t.retire 4))) ∧
    (∀ fl : BitVec 2, (effAddr b off).toNat % 16 = 0 → readG s2 (gd + 1) = .ok hi s3 →
      storeBytes s3 (effAddr b off) (bytesOf 8 v ++ bytesOf 8 hi) false 0 = .ok () t →
      exec (.stq gd ga fl off) s = .next (t.retire 4)) ∧
    (∀ (scope : BitVec 3) (w : BitVec 2) (l : Loc), scope.toNat < 6 → (effAddr b off).toNat % 2 ^ w.toNat = 0 →
      slotLoc s2 (effAddr b off) (2 ^ w.toNat) .store = .ok l s3 → release s3 scope = .ok () s4 →
      storeBytes s4 (effAddr b off) (bytesOf (2 ^ w.toNat) v) true scope = .ok () t →
      exec (.strel gd ga scope w off) s = .next (t.retire 4))

/-- A misaligned effective address raises MISALIGN with the address in TVAL, before any other check and with no
effect (R125, R129). -/
def Obligations.MisalignedAccess : Prop :=
  ∀ (s s1 : State) (gd ga : Reg) (off : BitVec 11) (b : Word), readG s ga = .ok b s1 →
    (∀ w : BitVec 2, (effAddr b off).toNat % 2 ^ w.toNat ≠ 0 →
      exec (.ld gd ga w off) s = .next (takeFault s .misalign (effAddr b off)) ∧
      exec (.ldu gd ga w off) s = .next (takeFault s .misalign (effAddr b off)) ∧
      exec (.st gd ga w off) s = .next (takeFault s .misalign (effAddr b off)) ∧
      ∀ scope : BitVec 3, scope.toNat < 6 →
        exec (.ldacq gd ga scope w off) s = .next (takeFault s .misalign (effAddr b off)) ∧
        exec (.strel gd ga scope w off) s = .next (takeFault s .misalign (effAddr b off))) ∧
    ((effAddr b off).toNat % 8 ≠ 0 →
      exec (.ldA8 gd ga off) s = .next (takeFault s .misalign (effAddr b off)) ∧
      exec (.stA8 gd ga off) s = .next (takeFault s .misalign (effAddr b off))) ∧
    ((effAddr b off).toNat % 16 ≠ 0 → ∀ fl : BitVec 2,
      exec (.ldq gd ga fl off) s = .next (takeFault s .misalign (effAddr b off)) ∧
      exec (.stq gd ga fl off) s = .next (takeFault s .misalign (effAddr b off)))

/-- A local access passes where some protection window is valid, of the access's space and the slot's region, with the
permission, over every byte, inside the space; any other local access raises PROT with TVAL the address (R108, R112). -/
def Obligations.LocalWindows : Prop :=
  ∀ (s : State) (a : Word) (n : Nat) (need : Need), isLocal a = true → 0 < n →
    let pass (sp off : Nat) (pw : Word) : Prop :=
      pw.getLsbD 63 = true ∧ (pw.extractLsb' 61 2).toNat = sp ∧ (pw.extractLsb' 44 14).toNat = s.me.region ∧
        (pw.extractLsb' 25 19).toNat * 128 ≤ off ∧
        off + n ≤ ((pw.extractLsb' 25 19).toNat + (pw.extractLsb' 6 19).toNat + 1) * 128 ∧
        (need = .load ∨ need = .look ∨ need = .rmw → pw.getLsbD 60 = true) ∧
        (need = .store ∨ need = .rmw → pw.getLsbD 59 = true) ∧ (need = .fetch → pw.getLsbD 58 = true)
    let o := (a.extractLsb' 0 48).toNat
    let c := s.myCore
    ((∃ i : Fin 8, o + n ≤ 2 ^ 18 ∧ pass 0 o (s.core c).pw[i]) → slotLoc s a n need = .ok (.bank (tcmKey c o)) s) ∧
    ((∃ i : Fin 8, 2 ^ 32 ≤ o ∧ o + n ≤ 2 ^ 32 + 2 ^ 22 ∧ pass 1 (o - 2 ^ 32) (s.core c).pw[i]) →
      slotLoc s a n need = .ok (.bank (spadKey (c / s.liveCores) (o - 2 ^ 32))) s) ∧
    ((∃ i : Fin 8, 2 ^ 33 ≤ o ∧ o + n ≤ 2 ^ 33 + 2 ^ 26 ∧ pass 2 (o - 2 ^ 33) (s.core c).pw[i]) →
      slotLoc s a n need = .ok (.bank (sramKey (c / (8 * s.liveCores)) (o - 2 ^ 33))) s) ∧
    ((¬ ∃ i : Fin 8, (o + n ≤ 2 ^ 18 ∧ pass 0 o (s.core c).pw[i]) ∨
        (2 ^ 32 ≤ o ∧ o + n ≤ 2 ^ 32 + 2 ^ 22 ∧ pass 1 (o - 2 ^ 32) (s.core c).pw[i]) ∨
        (2 ^ 33 ≤ o ∧ o + n ≤ 2 ^ 33 + 2 ^ 26 ∧ pass 2 (o - 2 ^ 33) (s.core c).pw[i])) →
      ∃ w, slotLoc s a n need = .trap .prot a w ∧ w s = s)

/-- A global access raises PROT with bit 63 set, FATALHW for a device number with no module, OUTSIDE where no residency
lease of its region covers it or no translation is found, PROT where the leaf's permission is missing (R109, R117); no
lease covers the journal (R391; log entry 140). An access whose translation the core does not hold walks first, and
what the walk finds and marks stays, whatever becomes of the access: where it finds a translation the slot goes on in
its next turn (R368). The clauses that rest on log entries 24 and 140 are the model's choice or reading. -/
def Obligations.GlobalChecks : Prop :=
  ∀ (s : State) (a : Word) (n : Nat) (need : Need), isLocal a = false →
    (a.getLsbD 63 = true → ∃ w, slotLoc s a n need = .trap .prot a w ∧ w s = s) ∧
    (a.getLsbD 63 = false → devOf s a ≠ 0x1FF → (432 ≤ (devOf s a).toNat ∨ (devOf s a).toNat ∉ s.present) →
      ∃ w, slotLoc s a n need = .trap .fatalhw a w ∧ w s = s) ∧
    (a.getLsbD 63 = false → devOf s a = 0x1FF → s.myCore < 1024 →
      (∀ t, walk s (.core s.myCore) (vaOf a) = (.error .outside, t) →
        ∃ w, slotLoc s a n need = .trap .outside a w ∧ w s = t) ∧
      (∀ x t, isWalked s (.core s.myCore) (vaOf a) = false → walk s (.core s.myCore) (vaOf a) = (.ok x, t) →
        ∃ f, slotLoc s a n need = .pause f f ∧ f s = t.stall .poll) ∧
      ∀ (leaf : Word) (bits h : Nat), isWalked s (.core s.myCore) (vaOf a) = true →
        walk s (.core s.myCore) (vaOf a) = (.ok (leaf, bits), s) →
        homeOf s (leaf.extractLsb' 44 12) (frameOf leaf bits (vaOf a)) = some h →
        debugRefuses s s.who a (frameOf leaf bits (vaOf a)) n need = false →
        (leafPermits leaf need = true → resident s s.me.region a n = true → inJournal s (frameOf leaf bits (vaOf a)) n = false →
          slotLoc s a n need = .ok (.home (frameOf leaf bits (vaOf a)) h) s) ∧
        (leafPermits leaf need = false → ∃ w, slotLoc s a n need = .trap .prot a w ∧ w s = s) ∧
        (leafPermits leaf need = true →
          resident s s.me.region a n = false ∨ inJournal s (frameOf leaf bits (vaOf a)) n = true →
          ∃ w, slotLoc s a n need = .trap .outside a w ∧ w s = s))

/-- Where a load finds its bytes, with no answer pending and no watchpoint in its way: local memory itself, once no
update of the core waits for those bytes and each bank that holds some of them has served the instruction (R110); else
the youngest overlapping store-buffer entry that covers it; else the core's line while its lease is valid; else it asks
the line's home and waits. What the core itself gives of a shadow pool is undefined (R298). Where a store puts them:
local memory, under the same conditions; a store of this device's global memory in a new youngest entry of the store
buffer, memory unchanged until it drains, stalling while the buffer is full; a store to another device in such an
entry, and the slot waits for its acceptance (R111, R118, R122, R123). The clauses that rest on log entries 34 and 102
are the model's choice or reading. -/
def Obligations.AccessPlaces : Prop :=
  (∀ (s : State) (a : Word) (n : Nat), s.me.got = [] → s.me.step2 = none → unwatched s →
     (∀ k strong cached, slotLoc s a n .load = .ok (.bank k) s →
       (∀ x, bankDone s k n false = some x → loadBytes s a n cached strong = .ok x.bytes (noteRead (bankOver s) a x.bytes)) ∧
       (bankDone s k n false = none → bankFree s s.myCore k n = true →
         (inBanks k = false →
           loadBytes s a n cached strong = .ok (readBytes s.mem k n) (noteRead s a (readBytes s.mem k n))) ∧
         (inBanks k = true → ∃ f g, loadBytes s a n cached strong = .pause f g ∧ f s = { s with slots := (f s).slots } ∧
           (f s).me.status = .waiting .bank ∧ (f s).me.bank = some ⟨k, n, none, wordsIn k n, [], false⟩)) ∧
       (bankDone s k n false = none → bankFree s s.myCore k n = false →
         ∃ f g, loadBytes s a n cached strong = .pause f g ∧ f s = s.stall .poll)) ∧
     (∀ k, localKey s a n .load = .ok k s → bankDone s k n false = none → bankFree s s.myCore k n = true → inBanks k = false →
       localRead s a n = .ok (readBytes s.mem k n) (noteRead s a (readBytes s.mem k n))) ∧
     (∀ (loc : Loc) (cached : Bool), slotLoc s a n .load = .ok loc s → (∀ k, loc ≠ .bank k) →
       (∀ bs, lookSbuf (s.core s.myCore).sbuf loc n = .forward bs →
         (inShadowPool s a n = false → inStaging s a n = false → loadBytes s a n cached false = .ok bs (noteRead s a bs)) ∧
         (inShadowPool s a n = false → inStaging s a n = true →
           ∃ t, loadBytes s a n cached false = .ok (s.drawBytes n).1 t) ∧
         (inShadowPool s a n = true → ∃ t, loadBytes s a n cached false = .ok ((scramblePool s a n).drawBytes n).1 t)) ∧
       (lookSbuf (s.core s.myCore).sbuf loc n = .conflict → ∃ f g, loadBytes s a n cached false = .pause f g ∧
         f s = s.modMe (fun sl => { sl with step2 := some (a, n, (s.core s.myCore).sbNext), status := .waiting .poll })) ∧
       (lookSbuf (s.core s.myCore).sbuf loc n = .nothing →
         (∀ l, cachedLine s s.myCore a = some l → leaseValid s (s.core s.myCore) l = true → cached = true →
           (l.poison = true → loadBytes s a n cached false = .trap .poison a) ∧
           (l.poison = false → inShadowPool s a n = false → inStaging s a n = false →
             loadBytes s a n cached false = .ok ((l.bytes.drop (a.toNat % 128)).take n)
               (noteRead (useLine s s.myCore a) a ((l.bytes.drop (a.toNat % 128)).take n)))) ∧
         ((∀ l, cachedLine s s.myCore a = some l → leaseValid s (s.core s.myCore) l = false ∨ cached = false) →
           ∃ f g, loadBytes s a n cached false = .pause f g ∧
             f s = (requestLine s s.cur true a n loc none none false).stall .reply)))) ∧
  (∀ (s : State) (a : Word) (bs : List Byte), s.me.sent = [] → s.me.looked = [] → unwatched s →
     (∀ k strong scope, slotLoc s a bs.length .store = .ok (.bank k) s →
       (bankFree s s.myCore k bs.length = true →
         (inBanks k = false → ∃ t, storeBytes s a bs strong scope = .ok () t ∧
           t.mem = writeBytes s.mem k bs ∧ t = { s with mem := t.mem, slots := t.slots }) ∧
         (inBanks k = true → s.me.bank = none → ∃ f g, storeBytes s a bs strong scope = .pause f g ∧
           f s = { s with slots := (f s).slots } ∧ (f s).me.status = .waiting .bank ∧
           (f s).me.bank = some ⟨k, bs.length, some (a, bs), wordsIn k bs.length, [], false⟩)) ∧
       (inBanks k = true → (bankDone s k bs.length true).isSome = true → ∃ t, storeBytes s a bs strong scope = .ok () t ∧
         t = { s with slots := t.slots }) ∧
       (bankFree s s.myCore k bs.length = false → s.me.bank = none →
         ∃ f g, storeBytes s a bs strong scope = .pause f g ∧ f s = s.stall .poll)) ∧
     (∀ p h, slotLoc s a bs.length .store = .ok (.home p h) s →
       ((s.core s.myCore).sbuf.length < 32 →
         ((s.region s.me.region).debug = false ∨ inRecords s a bs.length = false →
           ∃ t, storeBytes s a bs false 0 = .ok () t ∧ t = { s with cores := t.cores, slots := t.slots } ∧
             (t.core s.myCore).sbuf = (s.core s.myCore).sbuf ++
               [⟨(s.core s.myCore).sbNext, s.cur, s.me.region, a, .home p h, bs, .plain, 0, false⟩]) ∧
         ((s.region s.me.region).debug = true → inRecords s a bs.length = true →
           ∃ f g, storeBytes s a bs false 0 = .pause f g ∧ (f s).mem = s.mem ∧ (f s).me.status = .waiting .reply ∧
             ((f s).core s.myCore).sbuf = (s.core s.myCore).sbuf ++
               [⟨(s.core s.myCore).sbNext, s.cur, s.me.region, a, .home p h, bs, .checked, 0, false⟩])) ∧
       (32 ≤ (s.core s.myCore).sbuf.length → ∃ f g, storeBytes s a bs false 0 = .pause f g ∧ f s = s.stall .poll)) ∧
     (∀ b strong scope, slotLoc s a bs.length .store = .ok (.away b) s →
       ((s.core s.myCore).sbuf.length < 32 →
         ∃ f g, storeBytes s a bs strong scope = .pause f g ∧
           (f s).outbox = s.outbox ++ [Out.store s.cur b bs strong false] ∧
           ((f s).core s.myCore).sbuf.length = (s.core s.myCore).sbuf.length + 1 ∧
           (f s).me.status = .waiting .accept ∧ (f s).mem = s.mem) ∧
       (32 ≤ (s.core s.myCore).sbuf.length → ∃ f g, storeBytes s a bs strong scope = .pause f g ∧ f s = s.stall .poll)))

/-- The frame of ST to local memory: the bytes from the effective address up take the low bytes of gd, little-endian,
every other byte of memory, every register and every core is as it was. The frame of LD and LDU of local memory: gd
takes the bytes at the effective address, extended; no other register, no byte of memory, no other slot and no core
changes (R111, R124). The clauses that rest on log entry 102 are the model's choice or reading. -/
def Obligations.LocalAccessFrames : Prop :=
  (∀ (s : State) (gd ga : Reg) (w : BitVec 2) (off : BitVec 11) (k : Nat), s.me.streams = [] →
     s.me.sent = [] → unwatched s →
     (effAddr (s.me.reg ga) off).toNat % 2 ^ w.toNat = 0 →
     slotLoc s (effAddr (s.me.reg ga) off) (2 ^ w.toNat) .store = .ok (.bank k) s →
     bankFree s s.myCore k (2 ^ w.toNat) = true →
     (inBanks k = true →
       (s.me.bank = none → ∃ t, exec (.st gd ga w off) s = .next t ∧ t = { s with slots := t.slots } ∧
         t.me.g = s.me.g ∧ t.me.pc = s.me.pc ∧ t.me.status = .waiting .bank ∧
         wordsDue t.me = [k / 8] ∧
         (∀ i, i < 2 ^ w.toNat → byteAt (serveWord t s.cur (k / 8)).mem (k + i) = (s.me.reg gd).extractLsb' (8 * i) 8) ∧
         ∀ a, a < k ∨ k + 2 ^ w.toNat ≤ a → byteAt (serveWord t s.cur (k / 8)).mem a = byteAt s.mem a) ∧
       ((bankDone s k (2 ^ w.toNat) true).isSome = true → ∃ t, exec (.st gd ga w off) s = .next t ∧
         t = { s with slots := t.slots } ∧ t.me.g = s.me.g ∧ t.me.flags = s.me.flags ∧ t.me.pc = s.me.pc + 4 ∧
         ∀ n, n ≠ s.cur → t.slot n = s.slot n)) ∧
     (inBanks k = false → ∃ t, exec (.st gd ga w off) s = .next t ∧
       (∀ i, i < 2 ^ w.toNat → byteAt t.mem (k + i) = (s.me.reg gd).extractLsb' (8 * i) 8) ∧
       (∀ a, a < k ∨ k + 2 ^ w.toNat ≤ a → byteAt t.mem a = byteAt s.mem a) ∧
       t = { s with mem := t.mem, slots := t.slots } ∧ t.me.g = s.me.g ∧ t.me.flags = s.me.flags ∧
       t.me.pc = s.me.pc + 4 ∧ (∀ n, n ≠ s.cur → (t.slot n).g = (s.slot n).g ∧ (t.slot n).pc = (s.slot n).pc))) ∧
  (∀ (s : State) (gd ga : Reg) (w : BitVec 2) (off : BitVec 11) (k : Nat), s.me.streams = [] →
     s.me.got = [] → unwatched s →
     (effAddr (s.me.reg ga) off).toNat % 2 ^ w.toNat = 0 →
     slotLoc s (effAddr (s.me.reg ga) off) (2 ^ w.toNat) .load = .ok (.bank k) s →
     bankFree s s.myCore k (2 ^ w.toNat) = true →
     ∀ bs, (inBanks k = false ∧ s.me.bank = none ∧ bs = readBytes s.mem k (2 ^ w.toNat) ∨
       ∃ x, bankDone s k (2 ^ w.toNat) false = some x ∧ bs = x.bytes) →
     ∀ i ∈ [Instr.ld gd ga w off, .ldu gd ga w off], ∃ t, exec i s = .next t ∧
       t = { s with slots := t.slots } ∧ (∀ n, n ≠ s.cur → t.slot n = s.slot n) ∧
       (∀ r : Reg, r ≠ gd → t.me.reg r = s.me.reg r) ∧ t.me.pc = s.me.pc + 4 ∧ t.me.flags = s.me.flags ∧
       (gd ≠ 0 → t.me.reg gd =
         let v := wordOf bs
         if i = .ld gd ga w off then sextBytes (2 ^ w.toNat) v else v))

/-- The fences complete: an acquiring one of CORE scope or wider ends every lease of the core and empties its slots'
fetch buffers, a releasing one of CLUSTER scope or wider waits until the store buffer's older entries have drained; a
scope of 6 or 7 raises SCOPE with the instruction word in TVAL (R135, R149). DROP leaves no line at its address, PRUNE
none that overlaps its range, RENEW asks again for a line that the core holds, PREF for one with no valid lease; none
of them faults, and RENEW and PREF wait for nothing but the core's walk for the address (R130, R368). The clauses that
rest on log entries 13 and 138 are the model's choice or reading. -/
def Obligations.FencesAndLeases : Prop :=
  (∀ (s : State) (scope : BitVec 3),
     (scope.toNat < 6 →
       exec (.fenceAcq scope) s = .next ((acquire s scope).retire 4) ∧
       (scope.toNat < 2 → exec (.fenceRel scope) s = .next (s.retire 4) ∧
         exec (.fenceFull scope) s = .next ((acquire s scope).retire 4)) ∧
       (2 ≤ scope.toNat → (s.core s.myCore).sbuf = [] → ∃ t, t = s.modMe (fun sl => { sl with drain := t.me.drain }) ∧
         exec (.fenceRel scope) s = .next (t.retire 4) ∧ exec (.fenceFull scope) s = .next ((acquire t scope).retire 4)) ∧
       (2 ≤ scope.toNat → s.me.drain = none → (∃ e ∈ (s.core s.myCore).sbuf, e.id < (s.core s.myCore).sbNext) →
         ∀ i ∈ [Instr.fenceRel scope, .fenceFull scope],
           exec i s = .next (s.modMe (fun sl => { sl with
             drain := some (s.core s.myCore).sbNext, status := .waiting .poll })))) ∧
     (6 ≤ scope.toNat → ∀ i ∈ [Instr.fenceAcq scope, .fenceRel scope, .fenceFull scope],
       exec i s = .next (takeFault s .scope ((encodeScalar i).setWidth 64))) ∧
     (1 ≤ scope.toNat → (∀ l ∈ ((acquire s scope).core s.myCore).cache, l.live = false) ∧
       (∀ n, coreOf n = s.myCore → ((acquire s scope).slot n).fetch = none) ∧
       ∀ c, c ≠ s.myCore → (acquire s scope).core c = s.core c) ∧
     (scope = 0 → acquire s scope = s)) ∧
  (∀ (s s1 s2 : State) (ga gb : Reg) (x n : Word), readG s ga = .ok x s1 →
     (∃ t, exec (.drop ga) s = .next t ∧ cachedLine t s1.myCore x = none ∧ t.mem = s1.mem ∧ t.me.pc = s1.me.pc + 4) ∧
     (readG s1 gb = .ok n s2 → ∃ t, exec (.prune ga gb) s = .next t ∧ t.me.pc = s2.me.pc + 4 ∧ t.mem = s2.mem ∧
       (t.core s2.myCore).cache = (s2.core s2.myCore).cache.filter (fun l => !(lineInRange s2 l.addr x n))) ∧
     (∀ f, walkFirst s1 x = .pause f f → exec (.renew ga) s = .next (f s) ∧ exec (.pref ga) s = .next (f s)) ∧
     (∀ loc, walkFirst s1 x = .ok () s1 → leasable s1 (x &&& ~~~(127 : Word)) = some loc →
       (∀ l, cachedLine s1 s1.myCore x = some l →
         exec (.renew ga) s = .next ((askLine s1 (x &&& ~~~(127 : Word)) loc).retire 4) ∧
         exec (.pref ga) s = .next (if leaseValid s1 (s1.core s1.myCore) l then s1.retire 4
           else (askLine s1 (x &&& ~~~(127 : Word)) loc).retire 4)) ∧
       (cachedLine s1 s1.myCore x = none → exec (.renew ga) s = .next (s1.retire 4) ∧
         exec (.pref ga) s = .next ((askLine s1 (x &&& ~~~(127 : Word)) loc).retire 4))) ∧
     (walkFirst s1 x = .ok () s1 → leasable s1 (x &&& ~~~(127 : Word)) = none →
       exec (.renew ga) s = .next (s1.retire 4) ∧ exec (.pref ga) s = .next (s1.retire 4)))

namespace Sys2Proof.Machine

/-- The read-modify-writes of R161 and R162: the constructor, its selector and what it stores from the old value and the
operand, at the access width. -/
def amoRows : List ((Reg → Reg → Reg → BitVec 3 → BitVec 2 → Bool → Instr) × BitVec 4 ×
    ((n : Nat) → BitVec n → BitVec n → BitVec n)) :=
  [(.amoAdd, 0, fun _ m v => m + v), (.amoAnd, 1, fun _ m v => m &&& v), (.amoOr, 2, fun _ m v => m ||| v),
   (.amoXor, 3, fun _ m v => m ^^^ v), (.amoMin, 4, fun _ m v => if m.toInt < v.toInt then m else v),
   (.amoMax, 5, fun _ m v => if m.toInt < v.toInt then v else m),
   (.amoMinu, 6, fun _ m v => if m.toNat < v.toNat then m else v),
   (.amoMaxu, 7, fun _ m v => if m.toNat < v.toNat then v else m), (.amoSwap, 8, fun _ _ v => v)]

/-- A line that no snapshot, arena or pool has a stake in, that one home serves and no strong access has marked: what
an access at its home may count on. -/
structure PlainLine (s : State) (a : Word) (p h n : Nat) : Prop where
  noSnaps : s.snaps = []
  oneHome : (s.line (p / 128)).slice = some h
  notPoisoned : (s.line (p / 128)).poison = false
  notMixed : (s.line (p / 128)).strong = none
  noBlock : inRcb s p n = false
  noRecord : inLiveRecord s a p n = false
  noPool : inShadowPool s a n = false
  noStaging : inStaging s a n = false

end Sys2Proof.Machine

/-- The instructions that make a request at their location complete with its answer: the read-modify-writes, CAS, LRW,
SCH, ARRIVE, WAITPH and WAITCNT. An acquiring form acquires before gd is written; a CAS by the order of the outcome
(R158, R162, R164, R166, R167, R173, R176). The clauses that rest on log entry 25 are the model's choice or reading. -/
def Obligations.RequestsComplete : Prop :=
  ∀ (s s1 s2 s3 s4 t : State) (gd ga gb : Reg) (scope : BitVec 3) (w8 : Bool) (ea v e r : Word),
    scope.toNat < 6 → readG s ga = .ok ea s1 →
    let n := if w8 then 8 else 4
    (readG s1 gb = .ok v s2 →
      (∀ row ∈ amoRows, ∀ ord : BitVec 2,
        request s2 gd ea (.amo row.2.1 n v) .rmw (ord.getLsbD 1) scope none = .ok r s3 →
        writeG (if ord.getLsbD 0 then acquire s3 scope else s3) gd r = .ok () t →
        exec (row.1 gd ga gb scope ord w8) s = .next (t.retire 4)) ∧
      (∀ ord : BitVec 2, request s2 gd ea (.amo 9 4 v) .rmw (ord.getLsbD 1) scope none = .ok r s3 →
        writeG (if ord.getLsbD 0 then acquire s3 scope else s3) gd r = .ok () t →
        exec (.amoFadd gd ga gb scope ord) s = .next (t.retire 4)) ∧
      (∀ (sord : BitVec 2) (facq : Bool), readG s2 gd = .ok e s3 →
        request s3 gd ea (.cas n e v) .rmw (sord.getLsbD 1) scope none = .ok r s4 →
        writeG (if (if BitVec.ofNat (8 * n) r.toNat = BitVec.ofNat (8 * n) e.toNat then sord.getLsbD 0 else facq)
          then acquire s4 scope else s4) gd r = .ok () t →
        exec (.cas gd ga gb scope sord facq w8) s = .next (t.retire 4)) ∧
      (request s2 gd ea (.sch n v) .rmw true scope none = .ok r s3 → writeG s3 gd r = .ok () t →
        exec (.sch gd ga gb scope w8) s = .next (t.retire 4)) ∧
      (request s2 gd ea (.arrive (v.setWidth 2)) .rmw true scope none = .ok r s3 → writeG s3 gd r = .ok () t →
        exec (.arrive gd ga gb scope) s = .next (t.retire 4)) ∧
      (request s2 0 ea (.waitph (v.setWidth 2)) .look false scope (some (fun l => SleepFor.waitph l (v.setWidth 2))) =
          .ok r s3 → exec (.waitph ga gb scope) s = .next ((acquire s3 scope).retire 4)) ∧
      (request s2 gd ea (.waitcnt v) .look false scope (some (fun l => SleepFor.waitcnt l v)) = .ok r s3 →
        writeG (acquire s3 scope) gd r = .ok () t → exec (.waitcnt gd ga gb scope) s = .next (t.retire 4))) ∧
    (request s1 gd ea (.lrw n) .rmw false scope (some (fun l => SleepFor.lrw l n)) = .ok r s3 →
      writeG (acquire s3 scope) gd r = .ok () t → exec (.lrw gd ga scope w8) s = .next (t.retire 4))

/-- Where a request is answered: the answer that has come back is its value or its fault; at a bank of local memory it
is done, or sleeps, in a scratchpad once the bank has served its word (R110); a home of this device and another device
are asked, and the slot waits or sleeps. A request to a bank or another device waits for the core's stores and updates
of its line first (R142, R157, R160). The push that gd will make is checked before (R94); where the instruction waits
for that push, the value is kept for it (log entry 136). The clauses that rest on log entries 34 and 102 are the
model's choice or reading. -/
def Obligations.RequestPlaces : Prop :=
  ∀ (s p : State) (gd : Reg) (a : Word) (op : AtomOp) (need : Need) (rel : Bool) (scope : BitVec 3)
    (k : Option (Loc → SleepFor)),
    (∀ v, s.me.reply = some (.val v) → unwatched s → request s gd a op need rel scope k = .ok v s) ∧
    (∀ c x, s.me.reply = some (.fault c x) → request s gd a op need rel scope k = .trap c a) ∧
    (s.me.reply = none → a.toNat % atomWidth op ≠ 0 → request s gd a op need rel scope k = .trap .misalign a) ∧
    (s.me.reply = none → a.toNat % atomWidth op = 0 → unwatched s → probeG s gd = .ok () p → rel = false →
      (∀ loc f, lineWait p a loc = some f → (∃ key, loc = .bank key) ∨ (∃ b, loc = .away b) →
        slotLoc s a (atomWidth op) need = .ok loc s → request s gd a op need rel scope k = .pause f f) ∧
      (∀ key, lineWait p a (.bank key) = none → slotLoc s a (atomWidth op) need = .ok (.bank key) s →
        inBanks key = true → bankDone p key (atomWidth op) false = none →
        ∃ f, request s gd a op need rel scope k = .pause f f ∧ f s = { s with slots := (f s).slots } ∧
          (f s).me.status = .waiting .bank ∧ (f s).me.bank =
            some ⟨key, atomWidth op, none, wordsIn key (atomWidth op), [], mustReply op⟩) ∧
      (∀ key v t, lineWait p a (.bank key) = none → slotLoc s a (atomWidth op) need = .ok (.bank key) s →
        inBanks key = false ∨ (bankDone p key (atomWidth op) false).isSome = true → atBank p s.cur a key op = (t, .value v) →
        (pushWaits p gd = false → request s gd a op need rel scope k = .ok v t) ∧
        (pushWaits p gd = true → ∃ g, request s gd a op need rel scope k = .wait g ∧
          g s = withResult (atBank (keepPops p s) s.cur a key op).1 v)) ∧
      (∀ key f t, k = some f → lineWait p a (.bank key) = none →
        inBanks key = false ∨ (bankDone p key (atomWidth op) false).isSome = true →
        slotLoc s a (atomWidth op) need = .ok (.bank key) s → atBank p s.cur a key op = (t, .sleeps) →
        ∃ g, request s gd a op need rel scope k = .wait g ∧
          g s = (atBank (keepPops p s) s.cur a key op).1.sleepFor (f (.bank key)) a) ∧
      (∀ loc, (∃ p h, loc = .home p h) ∨ (∃ b, loc = .away b) ∧ lineWait p a loc = none →
        slotLoc s a (atomWidth op) need = .ok loc s → ∃ g look, request s gd a op need rel scope k = .pause g look ∧
          g s = match k with
            | none => (sendAtom (keepPops p s) a loc op false).stall .reply
            | some f => (sendAtom (keepPops p s) a loc op false).sleepFor (f loc) a))

/-- What a request does to the value m of its location: the value it writes, at the access width, and its answer
(R161, R162, R164, R167, R173, R176). -/
def Obligations.RequestSteps : Prop :=
  ∀ (s : State) (slot key : Nat) (m v e : Word),
    (∀ row ∈ amoRows,
      atomStep s slot key m (.amo row.2.1 8 v) = (some (row.2.2 64 m v), .value m) ∧
      atomStep s slot key m (.amo row.2.1 4 v) = (some (0#32 ++ row.2.2 32 (m.setWidth 32) (v.setWidth 32)), .value m)) ∧
    atomStep s slot key m (.amo 9 4 v) = (some (0#32 ++ fadd32 (m.setWidth 32) (v.setWidth 32)), .value m) ∧
    atomStep s slot key m (.cas 8 e v) = (if m = e then some v else none, .value m) ∧
    atomStep s slot key m (.cas 4 e v) = (if m.setWidth 32 = e.setWidth 32 then some v else none, .value m) ∧
    (∀ n, atomStep s slot key m (.sch n v) =
      if holderOf s key = some slot then (some v, .value 0) else (none, .value 1)) ∧
    (atomStep s slot key m (.waitcnt v) = (none, if v.toNat ≤ m.toNat then .value m else .sleeps)) ∧
    (∀ p : BitVec 2, atomStep s slot key m (.waitph p) =
      (none, if p = m.extractLsb' 62 2 ∨ p = m.extractLsb' 62 2 + 1 then .sleeps else .value 0))

/-- ARRIVE on a word with expected count E, phase ph and counts cur and nxt: for the phase in progress it adds to cur,
for the next phase to nxt, and is PHASESKEW otherwise or where the next phase is full; the phase ends where cur comes
to E, and the next one's count moves up (R172, R173). -/
def Obligations.ArriveCounts : Prop :=
  ∀ (w : Word) (p : BitVec 2),
    let ph := w.extractLsb' 62 2
    let E := (w.extractLsb' 32 16).toNat
    let nxt := (w.extractLsb' 16 16).toNat
    let cur := (w.extractLsb' 0 16).toNat
    (E = 0 → arriveStep w p = none) ∧ (p ≠ ph → p ≠ ph + 1 → arriveStep w p = none) ∧
    (p = ph + 1 → nxt = E → arriveStep w p = none) ∧
    (E ≠ 0 → p = ph + 1 → nxt ≠ E → ∃ w', arriveStep w p = some (w', []) ∧ w'.extractLsb' 32 32 = w.extractLsb' 32 32 ∧
      (w'.extractLsb' 16 16).toNat = (nxt + 1) % 2 ^ 16 ∧ w'.extractLsb' 0 16 = w.extractLsb' 0 16) ∧
    (E ≠ 0 → p = ph → cur + 1 ≠ E → ∃ w', arriveStep w p = some (w', []) ∧ w'.extractLsb' 16 48 = w.extractLsb' 16 48 ∧
      (w'.extractLsb' 0 16).toNat = (cur + 1) % 2 ^ 16) ∧
    (E ≠ 0 → p = ph → cur + 1 = E → nxt ≠ E → ∃ w', arriveStep w p = some (w', [ph.toNat]) ∧
      w'.extractLsb' 62 2 = ph + 1 ∧ w'.extractLsb' 32 16 = w.extractLsb' 32 16 ∧ w'.extractLsb' 16 16 = 0 ∧
      (w'.extractLsb' 0 16).toNat = nxt)

/-- A read-modify-write of local memory, in a scratchpad once its bank has served the word (R110), in one step: the
bytes at its location take the new value, gd the old one, and no other byte of memory and no other register changes
(R157, R162). The clauses that rest on log entries 26 and 102 are the model's choice or reading. -/
def Obligations.LocalAtomicFrame : Prop :=
  ∀ row ∈ amoRows, ∀ (s : State) (gd ga gb : Reg) (scope : BitVec 3) (ord : BitVec 2) (w8 : Bool) (k : Nat),
    let n := if w8 then 8 else 4
    let old := wordOf (readBytes s.mem k n)
    scope.toNat < 6 → s.me.streams = [] → s.me.reply = none → unwatched s →
    (s.me.reg ga).toNat % n = 0 → slotLoc s (s.me.reg ga) n .rmw = .ok (.bank k) s → ord.getLsbD 1 = false →
    (∀ e ∈ (s.core s.myCore).sbuf, sameLine (.bank k) e.loc = false) →
    inBanks k = false ∨ (bankDone s k n false).isSome = true →
    ∃ t, exec (row.1 gd ga gb scope ord w8) s = .next t ∧
      readBytes t.mem k n = bytesOf n ((row.2.2 (8 * n) (old.setWidth (8 * n)) ((s.me.reg gb).setWidth (8 * n))).setWidth 64) ∧
      (∀ a, a < k ∨ k + n ≤ a → byteAt t.mem a = byteAt s.mem a) ∧
      (∀ r : Reg, r ≠ 0 → t.me.reg r = if r = gd then old else s.me.reg r) ∧ t.me.pc = s.me.pc + 4 ∧
      t.me.flags = s.me.flags ∧ t.tq = s.tq ∧ t.regions = s.regions

/-- The full/empty members on a scratchpad word with no sleeper at its bank and no update of the core waiting for it,
once the bank has served the word (R110): LDFE takes a full word and empties it, LDFF leaves it full, STEF fills an
empty one, SETE empties it; otherwise LDFE, LDFF and STEF sleep (R170, R171). Until then they wait for the bank. Where
gd's push is one that the instruction waits for, its value is kept for it (R94; log entry 136). The clauses that rest
on log entry 102 are the model's choice or reading. -/
def Obligations.FullEmpty : Prop :=
  ∀ (s s1 : State) (ga : Reg) (a : Word) (key : Nat), readG s ga = .ok a s1 → s1.me.reply = none → unwatched s1 →
    inBanks key = true → s1.feSleep = [] →
    (∀ (p : State) (gd : Reg), probeG s1 gd = .ok () p → bankFree p p.myCore key 8 = true →
      ((bankDone p key 8 false).isSome = true → isFull p key = true →
        (pushWaits p gd = false → ∀ t,
          (feLoc s1 a .rmw = .ok key s1 →
            writeG (acquire (emptyWord p key) 2) gd (wordOf (readBytes p.mem key 8)) = .ok () t →
            exec (.ldfe gd ga) s = .next (t.retire 4)) ∧
          (feLoc s1 a .look = .ok key s1 → writeG (acquire p 2) gd (wordOf (readBytes p.mem key 8)) = .ok () t →
            exec (.ldff gd ga) s = .next (t.retire 4))) ∧
        (pushWaits p gd = true →
          (feLoc s1 a .rmw = .ok key s1 →
            exec (.ldfe gd ga) s = .next (withResult (emptyWord (keepPops p s) key) (wordOf (readBytes p.mem key 8)))) ∧
          (feLoc s1 a .look = .ok key s1 →
            exec (.ldff gd ga) s = .next (withResult (keepPops p s) (wordOf (readBytes p.mem key 8)))))) ∧
      ((bankDone p key 8 false).isSome = true → isFull p key = false → s.feSleep = [] → (∀ z, s.me.status ≠ .asleep z) →
        (feLoc s1 a .rmw = .ok key s1 → ∃ u, exec (.ldfe gd ga) s = .next u ∧ u.feSleep = [s.cur] ∧ u.mem = s.mem ∧
          ∃ z, u.me.status = .asleep z ∧ z.kind = .ldfe key ∧ z.lim = s.me.waitlim) ∧
        (feLoc s1 a .look = .ok key s1 → ∃ u, exec (.ldff gd ga) s = .next u ∧ u.feSleep = [s.cur] ∧ u.mem = s.mem ∧
          ∃ z, u.me.status = .asleep z ∧ z.kind = .ldff key ∧ z.lim = s.me.waitlim)) ∧
      (bankDone p key 8 false = none →
        (feLoc s1 a .rmw = .ok key s1 → exec (.ldfe gd ga) s = .next (askBanks p key 8 none false s)) ∧
        (feLoc s1 a .look = .ok key s1 → exec (.ldff gd ga) s = .next (askBanks p key 8 none false s)))) ∧
    (∀ (s2 s3 : State) (gb : Reg) (v : Word), readG s1 gb = .ok v s2 → s2.me.reply = none → unwatched s2 →
      feLoc s2 a .store = .ok key s2 → release s2 2 = .ok () s3 → bankFree s3 s3.myCore key 8 = true →
      ((bankDone s3 key 8 false).isSome = true → isFull s3 key = false → s3.feSleep = [] →
        exec (.stef ga gb) s = .next ((setFull (bankWrite s3 key (bytesOf 8 v)) key true).retire 4)) ∧
      ((bankDone s3 key 8 false).isSome = true → isFull s3 key = true → s.feSleep = [] → (∀ z, s.me.status ≠ .asleep z) →
        ∃ u, exec (.stef ga gb) s = .next u ∧ u.feSleep = [s.cur] ∧ u.mem = s.mem ∧
          ∃ z, u.me.status = .asleep z ∧ z.kind = .stef key v ∧ z.lim = s.me.waitlim) ∧
      (bankDone s3 key 8 false = none → ∃ u, exec (.stef ga gb) s = .next u ∧ u.mem = s.mem ∧
        u.me.status = .waiting .bank ∧ u.me.bank = some ⟨key, 8, none, wordsIn key 8, [], false⟩)) ∧
    (feLoc s1 a .store = .ok key s1 → bankFree s1 s1.myCore key 8 = true →
      ((bankDone s1 key 8 false).isSome = true → exec (.sete ga) s = .next ((setFull s1 key false).retire 4)) ∧
      (bankDone s1 key 8 false = none → exec (.sete ga) s = .next (askBanks s1 key 8 none true s)))

/-- NOTIFY and RUPD leave an update entry in the store buffer, which its home applies later, and complete: memory is
unchanged until then (R176 to R178). The clauses that rest on log entry 26 are the model's choice or reading. -/
def Obligations.UpdatesComplete : Prop :=
  ∀ (s s1 s2 s3 s4 s5 : State) (ga gb gd : Reg) (scope : BitVec 3) (a v w : Word) (loc : Loc), scope.toNat < 6 →
    readG s ga = .ok a s1 → readG s1 gb = .ok v s2 →
    (a.toNat % 8 = 0 → slotLoc s2 a 8 .rmw = .ok loc s4 → unwatched s4 → release s4 scope = .ok () s5 →
      (s5.core s5.myCore).sbuf.length < 32 →
      exec (.notify ga gb scope) s = .next ((enterUpdate s5 a loc 8 0 v none scope false).retire 4)) ∧
    (∀ op : BitVec 3, a.toNat % (if op = 1 then 4 else 8) = 0 →
      (slotLoc s2 a (if op = 1 then 4 else 8) .rmw = .ok loc s4 → unwatched s4 → release s4 scope = .ok () s5 →
        (s5.core s5.myCore).sbuf.length < 32 →
        exec (.rupd 0 ga gb scope op) s =
          .next ((enterUpdate s5 a loc (if op = 1 then 4 else 8) op v none scope false).retire 4)) ∧
      (gd ≠ 0 → readG s2 gd = .ok w s3 → w.toNat % 8 = 0 →
        rupdLocs s3 a (if op = 1 then 4 else 8) (some w) = .ok loc s4 → unwatched s4 →
        release s4 scope = .ok () s5 → (s5.core s5.myCore).sbuf.length < 32 →
        exec (.rupd gd ga gb scope op) s =
          .next ((enterUpdate s5 a loc (if op = 1 then 4 else 8) op v (some w) scope false).retire 4))) ∧
    (∀ n op (cnt : Option Word), ((enterUpdate s2 a loc n op v cnt scope false).core s2.myCore).sbuf =
      (s2.core s2.myCore).sbuf ++ [⟨(s2.core s2.myCore).sbNext, s2.cur, s2.me.region, a, loc, List.replicate n 0,
        .update op v cnt, scope, false⟩] ∧ (enterUpdate s2 a loc n op v cnt scope false).mem = s2.mem)

/-- BARD with a count of 0, over 4,096, or not above the index answers 1; a device's refusal of a notification is its
fault; with every round done it answers 0 and its episode number goes up by one; in a round whose notification is not
sent it sends it, to the slot that the participant's entry names; a round whose partner has notified goes on to the
next, and until then BARD sleeps (R174, R175). The first round waits for the release and for room for gd's push (R94,
R159). The clauses that rest on log entry 32 are the model's choice or reading. -/
def Obligations.BardRounds : Prop :=
  (∀ (s s1 s2 t : State) (gd ga gb : Reg) (scope : BitVec 3) (table x : Word), scope.toNat < 6 →
    readG s ga = .ok table s1 → readG s1 gb = .ok x s2 →
    let i := (x.extractLsb' 0 13).toNat
    let n := (x.extractLsb' 16 13).toNat
    let r := s2.me.bardRound
    let first := r = 0 ∧ s2.me.bardNoted = []
    (n = 0 ∨ 4096 < n ∨ n ≤ i → writeG s2 gd 1 = .ok () t → exec (.bard gd ga gb scope) s = .next (t.retire 4)) ∧
    (0 < n → n ≤ 4096 → i < n → table.toNat % 8 = 0 →
      (∀ c q, s2.me.bardFault = some (c, q) → exec (.bard gd ga gb scope) s =
        .next (takeFault (s.modMe (fun sl => { sl with bardFault := none })) c (bardAt table i n q))) ∧
      ∀ p s4 : State, s2.me.bardFault = none →
        (¬ first ∧ s4 = s2 ∨ first ∧ probeG s2 gd = .ok () p ∧ release p scope = .ok () s4) → s4.me.bardRound = r →
        (r = bardRounds n →
          writeG (acquire (s4.modMe (fun sl => { sl with
            bardHeld := sl.bardHeld.filter (fun x => x.episode != sl.bardEpisode)
            bardRound := 0, bardNoted := [], bardEpisode := sl.bardEpisode + 1 })) scope) gd 0 = .ok () t →
          exec (.bard gd ga gb scope) s = .next (t.retire 4)) ∧
        (r ≠ bardRounds n → s4.me.bardNoted.contains r = true →
          ((findIdx (bardNeeds s4.me i n) s4.me.bardHeld).isSome → ∃ u, exec (.bard gd ga gb scope) s = .next u ∧
            u.me.bardRound = s.me.bardRound + 1 ∧ u.me.bardNoted = s.me.bardNoted ∧ u.me.bardHeld = s.me.bardHeld ∧
            u.me.pc = s.me.pc ∧ u.flights = s.flights ∧ u.outbox = s.outbox) ∧
          (findIdx (bardNeeds s4.me i n) s4.me.bardHeld = none → (∀ z, s.me.status ≠ .asleep z) →
            ∃ u z, exec (.bard gd ga gb scope) s = .next u ∧ u.me.status = .asleep z ∧ z.kind = .bard ∧
              u.flights = s.flights ∧ u.outbox = s.outbox)) ∧
        (r ≠ bardRounds n → s4.me.bardNoted.contains r = false → ∀ bs s5,
          loadBytes s4 (table + BitVec.ofNat 64 (8 * ((i + 2 ^ r) % n))) 8 true false = .ok bs s5 →
          (∀ c, bardEntry s5 (wordOf bs) = .error c → exec (.bard gd ga gb scope) s =
            .next (takeFault s c (table + BitVec.ofNat 64 (8 * ((i + 2 ^ r) % n))))) ∧
          ∀ d slot, bardEntry s5 (wordOf bs) = .ok (d, slot) → ∃ u, exec (.bard gd ga gb scope) s = .next u ∧
            u.me.bardNoted = r :: s.me.bardNoted ∧ u.me.pc = s.me.pc ∧ u.me.bardHeld = s.me.bardHeld ∧
            (d = 0x1FF → u.flights = s.flights ++ [.bard ⟨slot, i, r, s.me.bardEpisode, s.me.region⟩ false s.cur] ∧
              u.outbox = s.outbox) ∧
            (d ≠ 0x1FF → u.outbox = s.outbox ++ [Out.bard ⟨slot, i, r, s.me.bardEpisode, s.me.region⟩ d s.cur] ∧
              u.flights = s.flights)))) ∧
  bardRounds 1 = 0 ∧ bardRounds 2 = 1 ∧ bardRounds 3 = 2 ∧ bardRounds 4096 = 12

/-- What reaches a home takes effect there, on a line with no special state: STORE_DRAIN writes the oldest drainable
entry's bytes, ATOMIC_AT_HOME does a read-modify-write and answers the slot with the old value, UPDATE_ENTRY_ARRIVAL
applies an update. The written bytes alone change, and the entry or request is gone (R122, R142, R157, R162, R178). The
clauses that rest on log entry 75 are the model's choice or reading. -/
def Obligations.HomeWrites : Prop :=
  ∀ (s : State) (c i p h : Nat),
    (∀ e, (s.core c).sbuf[i]? = some e → e.loc = .home p h → mayDrain s (s.core c).sbuf e = true →
      (e.kind = .plain → PlainLine s e.addr p h e.bytes.length → ∃ t, exec (.storeDrain c i) s = .next t ∧
        readBytes t.mem p e.bytes.length = e.bytes ∧
        (∀ a, a < p ∨ p + e.bytes.length ≤ a → byteAt t.mem a = byteAt s.mem a) ∧
        (t.core c).sbuf = dropAt (s.core c).sbuf i ∧ t.regions = s.regions ∧ t.tq = s.tq ∧
        ∀ n, (t.slot n).g = (s.slot n).g ∧ (t.slot n).pc = (s.slot n).pc) ∧
      (∀ op v, e.kind = .update op v none → PlainLine s e.addr p h (updateFn op).2 →
        ∃ t, exec (.updateEntryArrival c i) s = .next t ∧
          readBytes t.mem p (updateFn op).2 = bytesOf (updateFn op).2
            (amoOp (updateFn op).1 (updateFn op).2 (wordOf (readBytes s.mem p (updateFn op).2)) v) ∧
          (∀ a, a < p ∨ p + (updateFn op).2 ≤ a → byteAt t.mem a = byteAt s.mem a) ∧
          (t.core c).sbuf = dropAt (s.core c).sbuf i)) ∧
    (∀ q fn n v, s.atoms[i]? = some q → q.loc = .home p h → q.op = .amo fn n v → q.look = false → PlainLine s q.addr p h n →
      (s.core (coreOf q.slot)).sbuf = [] → q.slot < 16384 → ∃ t, exec (.atomicAtHome i) s = .next t ∧
        readBytes t.mem p n = bytesOf n (amoOp fn n (wordOf (readBytes s.mem p n)) v) ∧
        (∀ a, a < p ∨ p + n ≤ a → byteAt t.mem a = byteAt s.mem a) ∧
        (t.slot q.slot).reply = some (.val (wordOf (readBytes s.mem p n))) ∧ (t.slot q.slot).status = .ready ∧
        t.atoms = dropAt s.atoms i ∧ (t.slot q.slot).g = (s.slot q.slot).g)

/-- The answers of homes and other devices: a home answers a request with its line, or with its version alone where the
core's copy is current; the reply fills the cache under a lease from the request's time, unless the core holds a newer
line, and the slot goes on; another device's answer too; LEASE_EXPIRY ends a lease that has run out and HOME_EVICTION
sends a line to the memory behind the home with its strong record cleared, a table line once its sharers have
acknowledged the invalidates that leave for them (R368); an accepted store completes and a refused one leaves the
buffer and faults (R116, R118, R121 to R123, R140, R141, R156). The clauses that rest on log entries 13, 27 and 31 are
the model's choice or reading. -/
def Obligations.AnswersArrive : Prop :=
  (∀ (s : State) (i p h : Nat) (r : LoadReq), s.loads[i]? = some r → r.answer = none → r.loc = .home p h →
    r.strong = none → (s.line (p / 128)).slice = some h → inShadowPool s r.line 128 = false → inStaging s r.line 128 = false →
    ∃ t a, exec (.homeLoadRequest i) s = .next t ∧ t.loads[i]? = some { r with answer := some a } ∧
      a.seen = readBytes s.mem p 128 ∧ a.version = (s.line (p / 128)).version ∧ a.poison = (s.line (p / 128)).poison ∧
      a.fault = none ∧ a.bytes = (if r.version = some (s.line (p / 128)).version then none else some a.seen) ∧
      t = { s with loads := t.loads }) ∧
  (∀ (s : State) (i sl : Nat) (r : LoadReq) (a : LoadAnswer) (bs : List Byte), s.loads[i]? = some r →
    r.answer = some a → a.fault = none → a.bytes = some bs → r.slot = some sl → r.code = false → r.fwd = none →
    (s.slot sl).status = .waiting .reply →
    ∃ t, exec (.loadReply (.mine i)) s = .next t ∧ t.loads.length + 1 = s.loads.length ∧ t.mem = s.mem ∧
      (t.slot sl).status = .ready ∧ (t.slot sl).got = (s.slot sl).got ++
        [⟨r.addr, r.n, if a.poison then .fault .poison else .value ((a.seen.drop (r.addr.toNat % 128)).take r.n)⟩] ∧
      (holdsNewer (s.core r.core) r a = true → t.cores = s.cores) ∧
      (holdsNewer (s.core r.core) r a = false → ∃ l ∈ (t.core r.core).cache, l.addr = r.line ∧ l.grant = r.grant ∧
        l.live = r.live ∧ l.version = a.version ∧ l.homeBytes = bs ∧ l.bytes = overPending s r.core r.loc bs)) ∧
  (∀ (s : State) (d : RemoteData) (a b : Word) (n : Nat) (v : Option (BitVec 48)) (r : LoadReq) (bs : List Byte),
    s.outbox = [Out.load d.slot a n v] → lineAddr s a = lineAddr s d.line → s.loads = [r] → r.loc = .away b →
    r.core = coreOf d.slot → r.line = lineAddr s d.line → r.slot = some d.slot → r.code = false → r.fwd = none →
    d.fault = none → d.bytes = some bs → (s.slot d.slot).status = .waiting .reply →
    ∃ t, exec (.loadReply (.outside d)) s = .next t ∧ t.outbox = [] ∧ t.loads = [] ∧ t.mem = s.mem ∧
      (t.slot d.slot).status = .ready ∧ (t.slot d.slot).got = (s.slot d.slot).got ++
        [⟨r.addr, r.n, if d.poison then .fault .poison
          else .value (((bs.take 128).drop (r.addr.toNat % 128)).take r.n)⟩]) ∧
  (∀ (s : State) (c i : Nat) (l : CacheLine), (s.core c).cache[i]? = some l →
    ∃ t l', exec (.leaseExpiry c i) s = .next t ∧ (t.core c).cache[i]? = some l' ∧ l'.bytes = l.bytes ∧
      l'.version = l.version ∧
      l'.live = (l.live && decide (s.time.toNat < l.grant.toNat + (s.core c).leaselen)) ∧ t.mem = s.mem) ∧
  (∀ (s : State) (l : Nat), (s.line l).slice ≠ none →
    ((s.line l).sharers = [] → (∀ v ∈ s.invals, v.line ≠ l) → ∃ t, exec (.homeEviction l) s = .next t ∧
      (t.line l).slice = none ∧ (t.line l).strong = none ∧ (t.line l).poison = (s.line l).poison ∧ t.mem = s.mem) ∧
    ((s.line l).sharers ≠ [] → ∃ t, exec (.homeEviction l) s = .next t ∧ (t.line l).slice = (s.line l).slice ∧
      (t.line l).sharers = [] ∧ (∃ v ∈ t.invals, v.line = l) ∧ t.mem = s.mem)) ∧
  (∀ (s : State) (slot : Nat) (e : SbEntry) (b : Word) (bs : List Byte) (strong : Bool),
    (s.slot slot).status = .waiting .accept → s.outbox = [Out.store slot b bs strong false] →
    (s.core (coreOf slot)).sbuf.find? (fun x => x.slot == slot && unaccepted s x) = some e →
    (∀ v, ∃ t, exec (.remoteStoreAccept slot (.val v)) s = .next t ∧ (t.slot slot).status = .ready ∧ t.outbox = [] ∧
      (t.slot slot).sent = (s.slot slot).sent ++ [(e.addr, none)] ∧
      (t.core (coreOf slot)).sbuf = (s.core (coreOf slot)).sbuf) ∧
    (∀ c, ∃ t, exec (.remoteStoreAccept slot (.fault c)) s = .next t ∧ (t.slot slot).status = .ready ∧ t.outbox = [] ∧
      (t.slot slot).sent = (s.slot slot).sent ++ [(e.addr, some c)] ∧
      ∀ x ∈ (t.core (coreOf slot)).sbuf, x.id ≠ e.id))

/-- What brings a waiting slot back and what is sent again: a filled code line (or its fault, which a halt holds,
R380), a stall that ends, an LRW and a BARD notification resent, a notification taken or refused, a count added after a
RUPD, and a reservation passed on after its holder's limit (R94, R166, R167, R174, R175, R177, R415). The clauses that
rest on log entries 68, 102 and 106 are the model's choice or reading. -/
def Obligations.SlotsResume : Prop :=
  (∀ (s s1 s2 : State) (slot : Nat) (line : Word) (loc : Loc) (bs : List Byte),
    (s.slot slot).status = .waiting (.fetch line) →
    let w : Who := ⟨coreOf slot, slot, (s.slot slot).region⟩
    let pc := (s.slot slot).pc
    (∀ c, accessLoc s w pc 4 .fetch = .error c →
      exec (.fetchLineFill slot) s = .next (if s.halted.contains (clusterOf s (coreOf slot)) then s
        else noteFault (takeFaultOf (dropSusp s slot) slot c pc) slot pc)) ∧
    (∀ k, accessLoc s w pc 4 .fetch = .ok (.bank k, s) →
      (inBanks k = false → ∃ t, exec (.fetchLineFill slot) s = .next t ∧
        (t.slot slot).fetch = some (line, readBytes s.mem (k - pc.toNat % 128) 128) ∧ (t.slot slot).status = .ready ∧
        t = { s with slots := t.slots }) ∧
      (inBanks k = true → (s.slot slot).bank = none → exec (.fetchLineFill slot) s = .next (fetchBanks s slot k))) ∧
    (accessLoc s w pc 4 .fetch = .ok (loc, s1) → (∀ k, loc ≠ .bank k) →
      (codeHit s1 (coreOf slot) pc = some (.value bs, s2) → ∃ t, exec (.fetchLineFill slot) s = .next t ∧
        (t.slot slot).fetch = some (line, bs) ∧ (t.slot slot).status = .ready ∧ t.mem = s2.mem ∧ t.cores = s2.cores) ∧
      (∀ c, codeHit s1 (coreOf slot) pc = some (.fault c, s2) →
        exec (.fetchLineFill slot) s = .next (if s.halted.contains (clusterOf s (coreOf slot)) then s
          else lateFault s2 slot c)) ∧
      (codeHit s1 (coreOf slot) pc = none → codeAsked s slot line = false →
        exec (.fetchLineFill slot) s = .next (requestLine s1 slot true line 128 loc none none true)))) ∧
  (∀ (s : State) (slot : Nat) (z : Sleep) (q : BitVec 3) (r : Nat) (st : Stream), (s.slot slot).status = .asleep z →
    z.kind = .ring q r → mapGet (s.slot slot).streams q.toNat = some st → chunkOpen s (coreOf slot) st r = true →
    ∃ t, exec (.streamStallResume slot) s = .next t ∧ (t.slot slot).status = .ready ∧ t = { s with slots := t.slots }) ∧
  (∀ (s : State) (slot p h n : Nat) (z : Sleep), (s.slot slot).status = .asleep z → (s.slot slot).reply = none →
    z.kind = .lrw (.home p h) n → s.resv = [] → s.atoms = [] →
    exec (.lrwResend slot) s = .next { s with atoms := [⟨slot, z.tval, .home p h, .lrw n, 0, false⟩] }) ∧
  (∀ (s : State) (key : Nat) (r r2 : Resv) (t0 : Word), s.resv = [(key, [r, r2])] → r.held = some t0 → r.lim ≠ 0 →
    t0.toNat + r.lim.toNat < s.time.toNat → r2.held = none → (r2.home = none ∨ (s.line (key / 128)).poison = false) → ∃ t, exec (.reservationTimeout 0) s = .next t ∧
      (∃ r', t.resv = [(key, [r'])] ∧ r'.slot = r2.slot ∧ r'.held = some s.time) ∧
      (t.slot r2.slot).reply = some (.val (wordOf (readBytes s.mem key r2.n)))) ∧
  (∀ (s : State) (n : BardNote) (src : Nat), s.flights = [.bard n false src] →
    ((s.slot n.slot).status = .ready → (s.slot n.slot).bardHeld.length < 16 →
      ∃ t, exec (.bardNotificationArrival (.mine 0)) s = .next t ∧ t.flights = [] ∧
        (t.slot n.slot).bardHeld = (s.slot n.slot).bardHeld ++ [n]) ∧
    ((s.slot n.slot).status = .noTask → ∃ t, exec (.bardNotificationArrival (.mine 0)) s = .next t ∧
      t.flights = [.bard n true src] ∧ t = { s with flights := t.flights })) ∧
  (∀ (s : State) (n : BardNote), (isLiveSlot s n.slot = true → (s.slot n.slot).status = .ready →
      (s.slot n.slot).bardHeld.length < 16 → ∃ t, exec (.bardNotificationArrival (.outside n)) s = .next t ∧
        (t.slot n.slot).bardHeld = (s.slot n.slot).bardHeld ++ [n]) ∧
    (isLiveSlot s n.slot = false → ∃ t, exec (.bardNotificationArrival (.outside n)) s = .next t ∧
      t.outbox.length = s.outbox.length + 1 ∧ t = { s with outbox := t.outbox })) ∧
  (∀ (s : State) (n : BardNote) (src : Nat), s.flights = [.bard n true src] → exec (.bardResend 0) s =
    .next { s with flights := if isLive s n.region then [.bard n false src] else [] }) ∧
  (∀ (s : State) (a : Word) (slot region : Nat) (sc : BitVec 3), s.cntAdds = [(a, slot, region, sc)] →
    exec (.rupdCountAdd 0) s = .next (notifyFor { s with cntAdds := [] } ⟨coreOf slot, slot, region⟩ a 1))

namespace Sys2Proof.Machine

/-- SEND or SPAWN has its 64-byte payload, captured before or now: its addresses are checked, gd's push has room, and a
scratchpad's banks have served the words (R94, R110, R188). -/
def captures (s : State) (dest : Reg) (d pa : Word) (pl : List Byte) (t : State) : Prop :=
  takeGot s pa 64 = some (.value pl, t) ∨
    takeGot s pa 64 = none ∧ pa.toNat % 64 = 0 ∧ checkDest s d = .ok () s ∧
      ∃ key p, localKey s pa 64 .load = .ok key s ∧ probeG s dest = .ok () p ∧ bankRead p key 64 = .ok pl t

end Sys2Proof.Machine

/-- SEND captures its 64-byte payload at issue, releases and posts one message; SPAWN the same, and writes the target's
answer, or 3 where the destination is another device; a DATA message carries the sender, the destination's slot and
generation and the low 25 bits of gd as its tag. An instruction that has waited goes on with the payload it captured
(R183, R184, R188, R190). The clauses that rest on log entries 14, 34, 80, 84 and 102 are the model's choice or
reading. -/
def Obligations.SendAndSpawn : Prop :=
  ∀ (s s1 s2 s3 s4 : State) (gd ga gb : Reg) (scope : BitVec 3) (d pa x : Word) (pl : List Byte), scope.toNat < 6 →
    readG s ga = .ok d s1 → readG s1 gb = .ok pa s2 → readG s2 gd = .ok x s3 → unwatched s3 →
    (∀ t, captures s3 0 d pa pl t → release (noteRead t pa pl) scope = .ok () s4 →
      (d.getLsbD 63 = true → x.toNat % 4 = 0) → outgoing s4 s4.myCore < 4 →
      exec (.send gd ga gb scope) s = .next ((post s4 s4.cur s4.me.region d x pl).retire 4)) ∧
    (d.getLsbD 63 = false → isHere s4 (destDev d) = true → ∃ ctx,
      post s4 s4.cur s4.me.region d x pl = { s4 with flights := s4.flights ++
        [.inbox ⟨s4.dev, BitVec.ofNat 13 s4.cur, destSlot d, d.extractLsb' 32 8, ctx, x.extractLsb' 0 25, pl⟩ s4.cur] }) ∧
    (∀ t, captures s3 gd d pa pl t → release (noteRead t pa pl) scope = .ok () s4 → x.toNat % 4 = 0 →
      (isHere s4 (destDev d) = false → ∀ u, writeG s4 gd 3 = .ok () u →
        exec (.spawn gd ga gb scope) s = .next (u.retire 4)) ∧
      (isHere s4 (destDev d) = true → ∀ st u, s4.me.reply = some (.val st) → writeG s4 gd st = .ok () u →
        exec (.spawn gd ga gb scope) s = .next (u.retire 4)) ∧
      (isHere s4 (destDev d) = true → s4.me.reply = none → ∃ u, exec (.spawn gd ga gb scope) s = .next u ∧
        u.me.status = .waiting .reply ∧ u.me.pc = s.me.pc ∧ ∃ m, u.flights = s.flights ++ [.spawn m s.cur] ∧
          m.core = destCore d ∧ m.region = s4.me.region ∧ m.pc = x ∧ m.payload = pl))

/-- RECV takes the slot's oldest inbox entry: its payload goes to the 64 bytes at ga where ga is not g0, the core's
leases end, and gd takes the header; with none it sleeps. PEEK reads the header and leaves the entry; YIELD answers 1
with an entry, 0 at its limit, and else sleeps; SLOTQ counts free slots and room (R182, R192, R193). Where the 64 bytes
lie in a scratchpad the entry is taken once the banks have written them (R110). The clauses that rest on log entries
102 and 136 are the model's choice or reading. -/
def Obligations.ReceiveAndWait : Prop :=
  (∀ (s s1 s2 : State) (gd ga : Reg) (pa : Word) (e : InboxEntry) (rest : List InboxEntry) (key : Nat),
    readG s ga = .ok pa s1 → entriesOf s1 s1.cur = e :: rest →
    (ga = 0 → endsWith (.recv gd ga) s (expireAll (dropOldest s1 s1.cur) s1.myCore) gd e.header) ∧
    (ga ≠ 0 → pa.toNat % 64 = 0 → localKey s1 pa 64 .store = .ok key s1 → unwatched s1 →
      (bankStore s1 pa key e.payload = .ok () s2 →
        endsWith (.recv gd ga) s (expireAll (dropOldest s2 s2.cur) s2.myCore) gd e.header) ∧
      (inBanks key = false → bankFree s1 s1.myCore key e.payload.length = true →
        bankStore s1 pa key e.payload = .ok () (bankWrite s1 key e.payload)) ∧
      (inBanks key = true → bankFree s1 s1.myCore key e.payload.length = true → s1.me.bank = none →
        ∃ u, exec (.recv gd ga) s = .next u ∧ u.cores = s.cores ∧ u.mem = s.mem ∧ u.me.status = .waiting .bank ∧
          u.me.bank = some ⟨key, e.payload.length, some (pa, e.payload), wordsIn key e.payload.length, [], false⟩)) ∧
    (e ∈ (s1.core s1.myCore).inbox ∧
      ((dropOldest s1 s1.cur).core s1.myCore).inbox.length + 1 = (s1.core s1.myCore).inbox.length)) ∧
  (∀ (s s1 : State) (gd ga : Reg) (pa : Word), readG s ga = .ok pa s1 → entriesOf s1 s1.cur = [] →
    (ga = 0 → (∀ z, s.me.status ≠ .asleep z) → ∃ u z, exec (.recv gd ga) s = .next u ∧ u.me.status = .asleep z ∧
      z.kind = .recv ∧ u.me.pc = s.me.pc ∧ u.mem = s.mem)) ∧
  (∀ (s t : State) (gd : Reg),
    (∀ e rest, entriesOf s s.cur = e :: rest → writeG s gd e.header = .ok () t → exec (.peek gd) s = .next (t.retire 4)) ∧
    (entriesOf s s.cur = [] → writeG s gd 0 = .ok () t → exec (.peek gd) s = .next (t.retire 4)) ∧
    (∀ v : Word, v.extractLsb' 24 8 = s.me.gen → (v.extractLsb' 16 8).toNat = (32 - shareUsed s s.myCore false) % 256 →
      (v.extractLsb' 8 8).toNat = (entriesOf s s.cur).length % 256 → v.extractLsb' 32 32 = 0 →
      (∀ i, i < 8 → v.getLsbD i = slotFree s (8 * s.myCore + i)) → writeG s gd v = .ok () t →
      exec (.slotq gd) s = .next (t.retire 4))) ∧
  (∀ (s s1 t : State) (gd ga : Reg) (x : Word), readG s ga = .ok x s1 →
    let from_ := (s1.me.since.getD s1.time).toNat
    (∀ e rest, entriesOf s1 s1.cur = e :: rest → writeG s1 gd 1 = .ok () t → exec (.yield gd ga) s = .next (t.retire 4)) ∧
    (entriesOf s1 s1.cur = [] → from_ + x.toNat ≤ s1.time.toNat → writeG s1 gd 0 = .ok () t → exec (.yield gd ga) s = .next (t.retire 4)) ∧
    (entriesOf s1 s1.cur = [] → s1.time.toNat < from_ + x.toNat → from_ + x.toNat < 2 ^ 64 → (∀ z, s.me.status ≠ .asleep z) →
      ∃ u z, exec (.yield gd ga) s = .next u ∧ u.me.status = .asleep z ∧ z.kind = .yield (BitVec.ofNat 64 (from_ + x.toNat))))

/-- A task starts with g1 to g8 from its payload and every other register 0, at its entry pc, in its region and the
region's context, INH clear, no TVEC, no alias and no wait limit, its slot's generation one on; the core's leases end.
EXIT ends a task: the slot is free, its reservation, aliases and messages are gone, its registers stay (R93, R185,
R189, R194). The clauses that rest on log entry 10 are the model's choice or reading. -/
def Obligations.TaskStartsAndEnds : Prop :=
  (∀ (s : State) (i region : Nat) (pc : Word) (payload : List Byte),
    let t := startTask s i region pc payload
    (∀ r : Reg, (t.slot i).reg r =
      if 1 ≤ r.toNat ∧ r.toNat ≤ 8 then wordOf ((payload.drop (8 * (r.toNat - 1))).take 8) else 0) ∧
    (t.slot i).pc = pc ∧ (t.slot i).region = region ∧ (t.slot i).rcb = (s.region region).addr ∧
    (t.slot i).ctx = (s.region region).ctx ∧ (t.slot i).status = .ready ∧ (t.slot i).inh = false ∧
    (t.slot i).tvec = 0 ∧ (t.slot i).waitlim = 0 ∧ (t.slot i).flags = 0 ∧ (t.slot i).streams = [] ∧
    (t.slot i).gen = (s.slot i).gen + 1 ∧ (∀ n, n ≠ i → (t.slot n).g = (s.slot n).g) ∧ t.mem = s.mem ∧
    (∀ l ∈ (t.core (coreOf i)).cache, l.live = false)) ∧
  (∀ (s : State), s.me.status ≠ .noTask →
    ∃ t, exec .exit s = .next t ∧ t.me.status = .noTask ∧ t.me.streams = [] ∧ t.me.g = s.me.g ∧
      (∀ e ∈ (t.core s.myCore).inbox, e.slot ≠ s.cur) ∧
      (∀ key q, mapGet t.resv key = some q → ∀ r ∈ q, r.slot ≠ s.cur) ∧ t.me.awayResv = false ∧
      (s.resv = [] → s.me.susp = none → s.wakes = [] → s.evals = [] → s.me.status = .ready →
        (t.region s.me.region).budgets[(0 : Fin 5)].count = (s.region s.me.region).budgets[(0 : Fin 5)].count - 1 ∧
        ((s.region s.me.region).phys = none → t.mem = s.mem)))

/-- MIGRATE answers 3 for its own core or another device, 2 with an alias bound, 1 where the target has no free slot,
and else moves the thread: it leaves with its registers for the lowest free slot, and on arrival gd reads 0 there, the
new core's leases having ended (R189, R195). The clauses that rest on log entries 81 and 126 are the model's choice or
reading. -/
def Obligations.Migration : Prop :=
  (∀ (s s1 t : State) (gd ga : Reg) (d : Word), readG s ga = .ok d s1 → checkDest s1 d = .ok () s1 →
    (isHere s1 (destDev d) = false ∨ destCore d = s1.myCore → writeG s1 gd 3 = .ok () t →
      exec (.migrate gd ga) s = .next (t.retire 4)) ∧
    (isHere s1 (destDev d) = true → destCore d ≠ s1.myCore →
      (s1.me.streams ≠ [] → writeG s1 gd 2 = .ok () t → exec (.migrate gd ga) s = .next (t.retire 4)) ∧
      (s1.me.streams = [] → hasTile s1 s1.cur = false → (s1.core s1.myCore).sbuf = [] →
        (freeSlot (s1.giveUpReservation s1.cur) (destCore d) = none →
          writeG (s1.giveUpReservation s1.cur) gd 1 = .ok () t → exec (.migrate gd ga) s = .next (t.retire 4)) ∧
        (∀ dst, freeSlot (s1.giveUpReservation s1.cur) (destCore d) = some dst → dst ≠ s1.cur →
          ∃ u, exec (.migrate gd ga) s = .next u ∧
            (∃ fs, u.flights = fs ++ [.thread s1.cur dst (some gd) .ready]) ∧ (u.slot s1.cur).status = .noTask ∧
            (u.slot dst).g = s1.me.g ∧
            (u.slot dst).pc = (s1.giveUpReservation s1.cur).me.pc + 4 ∧ (u.slot dst).status = .waiting .reply)))) ∧
  (∀ (s : State) (src dst : Nat) (r : Reg), s.flights = [.thread src dst (some r) .ready] →
    ∃ t, exec (.migrateTransfer 0) s = .next t ∧ t.flights = [] ∧ (t.slot dst).status = .ready ∧
      (∀ x : Reg, (t.slot dst).reg x = if x = r then 0 else (s.slot dst).reg x) ∧ t.mem = s.mem ∧
      (∀ l ∈ (t.core (coreOf dst)).cache, l.live = false))

/-- What the core-to-core traffic does on arrival: a DATA message enters the destination's inbox where its generation
and context match and is discarded where the slot has no task; a held COMPLETE enters the share of the core where its
thread is; a TASK message and a SPAWN start a task in the lowest free slot and charge the region; a SPAWN over budget
is answered 2, one with no free slot 1; a YIELD at its limit goes on; a hot core is marked and moves a thread (R182,
R185, R189, R190, R193, R197). The clauses that rest on log entries 11, 70, 82, 83, 84, 122 and 126 are the model's
choice or reading. -/
def Obligations.MessageEvents : Prop :=
  (∀ (s : State) (m : InboxMsg) (src : Nat), messageWaits s m = false →
    ((s.slot m.slot).status = .ready → (s.slot m.slot).gen = m.gen → (s.slot m.slot).ctx = m.ctx →
      (s.flights = [.inbox m src] → ∃ t, exec (.messageArrival (.mine 0)) s = .next t ∧ t.flights = [] ∧
        (t.core (coreOf m.slot)).inbox = (s.core (coreOf m.slot)).inbox ++ [⟨m.slot, dataHeader m, m.payload⟩]) ∧
      (earlierOnWay s s.flights.length m = false → ∃ t, exec (.messageArrival (.outside m)) s = .next t ∧
        (t.core (coreOf m.slot)).inbox = (s.core (coreOf m.slot)).inbox ++ [⟨m.slot, dataHeader m, m.payload⟩])) ∧
    ((s.slot m.slot).status = .noTask → s.flights = [.inbox m src] →
      exec (.messageArrival (.mine 0)) s = .next { s with flights := [] })) ∧
  (∀ (s : State) (c : Nat) (e : Held) (rest : List Held), (s.core c).held = e :: rest →
    (heldFor s e = true → shareUsed s (coreOf e.entry.slot) true < 32 → ∃ t, exec (.completionMessagePlace c) s = .next t ∧
      (t.core c).held = rest ∧
      (t.core (coreOf e.entry.slot)).inbox = (s.core (coreOf e.entry.slot)).inbox ++ [e.entry]) ∧
    (heldFor s e = false → ∃ t, exec (.completionMessagePlace c) s = .next t ∧ (t.core c).held = rest ∧
      (t.core c).inbox = (s.core c).inbox)) ∧
  (∀ (s s1 : State) (m : TaskMsg) (src i : Nat), m.ctx = residentCtx s m.core → isLive s m.region = true →
    s.halted = [] → freeSlot s m.core = some i → s.flights = [.task m src] →
    charge { s with flights := [] } m.region [(.slots, 1)] = some s1 →
    exec (.taskStart (.mine 0)) s = .next (startTask s1 i m.region m.pc m.payload) ∧
    (chargeFits (s.region m.region) [(.slots, 1)] = true →
      exec (.taskBudgetRetest 0) s = .next (startTask s1 i m.region m.pc m.payload))) ∧
  (∀ (s s1 : State) (m : TaskMsg) (i : Nat), m.ctx = residentCtx s m.core → isLive s m.region = true →
    s.halted = [] → freeSlot s m.core = some i → charge s m.region [(.slots, 1)] = some s1 →
    exec (.taskStart (.outside m)) s = .next (startTask s1 i m.region m.pc m.payload)) ∧
  (∀ (s : State) (m : TaskMsg) (src : Nat), s.flights = [.spawn m src] →
    (charge { s with flights := [] } m.region [(.slots, 1)] = none →
      exec (.spawnRequestArrival 0) s = .next { s with flights := [.spawned src 2] }) ∧
    (∀ s1, charge { s with flights := [] } m.region [(.slots, 1)] = some s1 →
      freeSlot s m.core = none ∨ taskFits s m = false → exec (.spawnRequestArrival 0) s = .next { s with flights := [.spawned src 1] }) ∧
    (∀ s1 k, charge { s with flights := [] } m.region [(.slots, 1)] = some s1 → freeSlot s m.core = some k →
      taskFits s m = true → ∃ t, exec (.spawnRequestArrival 0) s = .next t ∧ (∃ fs, t.flights = fs ++ [.spawned src 0]) ∧
        t.slots = (startTask s1 k m.region m.pc m.payload).slots)) ∧
  (∀ (s : State) (src st : Nat), s.flights = [.spawned src st] → (s.slot src).status = .waiting .reply →
    ∃ t, exec (.spawnAnswerArrival 0) s = .next t ∧ t.flights = [] ∧ (t.slot src).status = .ready ∧
      (t.slot src).reply = some (.val (BitVec.ofNat 64 st))) ∧
  (∀ (s : State) (slot : Nat) (z : Sleep) (until_ : Word), (s.slot slot).status = .asleep z → z.kind = .yield until_ →
    until_.toNat ≤ s.time.toNat → ∃ t, exec (.yieldTimeout slot) s = .next t ∧ (t.slot slot).status = .ready ∧
      t = { s with slots := t.slots }) ∧
  (∀ (s : State) (c : Nat) (hot : Bool), ∃ t, exec (.coreHot c hot) s = .next t ∧ (t.core c).hot = hot ∧
    (hot = false → (t.core c).throttled = false) ∧ (∀ d, d ≠ c → t.core d = s.core d) ∧ t.slots = s.slots) ∧
  (∀ (s : State) (c : Nat), (s.core c).hot = true → (s.core c).lastDisp = none →
    ((∀ i, eligible s i = false) → ∃ t, exec (.thermalDisplacement c) s = .next t ∧ (t.core c).throttled = true ∧
      t.slots = s.slots) ∧
    (∀ i dst, ((List.range 8).map (fun n => 8 * c + n)).find? (fun n => eligible s n) = some i →
      coolTarget s c = some dst → dst ≠ i → (canLeave s i = false → exec (.thermalDisplacement c) s = .next s) ∧
      (canLeave s i = true → ∃ t, exec (.thermalDisplacement c) s = .next t ∧
        (t.core c).lastDisp = some s.time ∧ (t.slot i).status = .noTask ∧
        ∃ fs, t.flights = fs ++ [.thread i dst none (displacedStatus (s.slot i))])))

namespace Sys2Proof.Machine

/-- The heap order of R277: no entry is worse than its parent, so that the worst stands at entry 0. -/
def heapOrdered (es : List Word) : Prop :=
  ∀ e, 0 < e → e < es.length → worse (es.getD e 0) (es.getD ((e - 1) / 2) 0) = false

/-- No score of a heap is NaN: HSIFT lets none in (R279). -/
def noNans (es : List Word) : Prop := ∀ x ∈ es, isNan (num32 (x.extractLsb' 0 32)) = false

end Sys2Proof.Machine

/-- A bound alias as a source pops the element at base + (p / n0) × s1 + (p mod n0) × s0, extended by the descriptor's
SX, and moves on by one; as a destination it pushes the value's low bytes there; with its elements used up it raises
OUTSIDE with the descriptor's address (R94, R289, R292). In ring mode the outer index wraps at n1: before the first
element of a chunk the slot sleeps until the arrival counter, counted from its value at BIND, has come to the chunk, n1
chunks earlier for a stream that is written; entering it ends the core's leases; after its last element an update of 1
to the counted word enters the store buffer (R292). An element that has been popped for good is not loaded again, and a
push whose place has been checked before the instruction's effect is a store there, unchecked (log entry 136). The
clauses that rest on log entries 28 and 29 are the model's choice or reading. -/
def Obligations.StreamOperands : Prop :=
  (∀ (s s1 : State) (r : Reg) (q : Nat) (st : Stream) (bs : List Byte) (v : Word),
    boundStream s.me r = some (q, st) → st.ring = false →
    let ea := st.base + BitVec.ofNat 64 (st.pos / st.n0) * st.s1.signExtend 64 +
      BitVec.ofNat 64 (st.pos % st.n0) * st.s0.signExtend 64
    let n := 2 ^ st.ew.toNat
    (st.n0 * st.n1 ≤ st.pos → (s.me.kept[s.me.popped.length]? = none → readG s r = .trap .outside st.desc) ∧
      (roomFor s st = none → writeG s r v = .trap .outside st.desc)) ∧
    (unwatched s1 → (s.me.kept[s.me.popped.length]? = some bs ∧ s1 = s ∨
        s.me.kept[s.me.popped.length]? = none ∧ st.pos < st.n0 * st.n1 ∧ fetchBytes s ea n true false = .ok bs s1) →
      readG s r = .ok (if st.sx then sextBytes n (wordOf bs) else wordOf bs)
        ((notePop s1 bs).modMe (fun sl => { sl with streams := mapPut sl.streams q { st with pos := st.pos + 1 } }))) ∧
    ((roomFor s st = none ∧ st.pos < st.n0 * st.n1 ∧ storeBytes s ea (bytesOf n v) false 0 = .ok () s1 ∨
        (∃ loc, roomFor s st = some loc ∧ takeSent s ea = none ∧ storeAt s ea loc (bytesOf n v) false 0 = .ok () s1)) →
      writeG s r v = .ok ()
        (s1.modMe (fun sl => { sl with streams := mapPut sl.streams q { st with pos := st.pos + 1 } })))) ∧
  ∀ (s s0 s1 s2 : State) (r gd : Reg) (q : Nat) (st st0 : Stream) (bs : List Byte) (v : Word) (imm : BitVec 16) (loc : Loc),
    boundStream s.me r = some (q, st) → st.ring = true → s.me.kept[s.me.popped.length]? = none → roomFor s st = none →
    let k := st.pos / st.n0
    let ea := st.base + BitVec.ofNat 64 (k % st.n1) * st.s1.signExtend 64 +
      BitVec.ofNat 64 (st.pos % st.n0) * st.s0.signExtend 64
    let n := 2 ^ st.ew.toNat
    let arrived := (s.core s.myCore).counter st.kc - st.f0
    let opens := serialGe (if st.write then arrived + BitVec.ofNat 32 st.n1 else arrived) (BitVec.ofNat 32 (k + 1))
    (st.entered ≤ k → opens = false → (∀ z, s.me.status ≠ .asleep z) →
      ∃ u z, exec (.addi gd r imm) s = .next u ∧ (∃ f, writeG s r v = .pause f f ∧ f s = u) ∧ u.me.status = .asleep z ∧
        z.kind = .ring (BitVec.ofNat 3 q) k ∧ z.tval = ea ∧ z.lim = s.me.waitlim ∧ u.me.pc = s.me.pc ∧
        u.me.streams = s.me.streams ∧ u.mem = s.mem) ∧
    ((k < st.entered ∧ st0 = st ∧ s0 = s ∨
        st.entered ≤ k ∧ opens = true ∧ st0 = { st with entered := k + 1 } ∧
          s0 = expireAll (s.modMe (fun sl => { sl with streams := mapPut sl.streams q st0 })) s.myCore) →
      (fetchBytes s0 ea n true false = .ok bs s1 → unwatched s1 →
        ((st.pos + 1) % st.n0 ≠ 0 → readG s r = .ok (if st.sx then sextBytes n (wordOf bs) else wordOf bs)
          ((notePop s1 bs).modMe (fun sl => { sl with streams := mapPut sl.streams q { st0 with pos := st.pos + 1 } }))) ∧
        ((st.pos + 1) % st.n0 = 0 → accessLoc (notePop s1 bs) (notePop s1 bs).who st.cw 8 .rmw = .ok (loc, s2) →
          sbufRoom s2 = true → readG s r = .ok (if st.sx then sextBytes n (wordOf bs) else wordOf bs)
            ((enterUpdate s2 st.cw loc 8 0 1 none st.scope (decide (2 ≤ st.scope.toNat))).modMe (fun sl => { sl with
              streams := mapPut sl.streams q { st0 with pos := st.pos + 1 } })))) ∧
      (storeBytes s0 ea (bytesOf n v) false 0 = .ok () s1 →
        ((st.pos + 1) % st.n0 ≠ 0 → writeG s r v = .ok ()
          (s1.modMe (fun sl => { sl with streams := mapPut sl.streams q { st0 with pos := st.pos + 1 } }))) ∧
        ((st.pos + 1) % st.n0 = 0 → accessLoc s1 s1.who st.cw 8 .rmw = .ok (loc, s2) → sbufRoom s2 = true →
          writeG s r v = .ok ()
            ((enterUpdate s2 st.cw loc 8 0 1 none st.scope (decide (2 ≤ st.scope.toNat))).modMe (fun sl => { sl with
              streams := mapPut sl.streams q { st0 with pos := st.pos + 1 } })))))

/-- The stream and counter members: BIND reads the descriptor's 64 bytes and binds at position 0, UNBIND unbinds, SPOS reads
a binding's position; CLOSEB and WAITB close the open batch and count those outstanding; KSET, KREAD and KWAIT write, read
and await an arrival counter of the core, a KSET ordered before the bumps of its cycle (R258, R259, R287 to R294). -/
def Obligations.StreamMembers : Prop :=
  (∀ (s s0 s1 : State) (ga : Reg) (q : BitVec 3) (a : Word) (bs : List Byte), readG s ga = .ok a s0 → a.toNat % 64 = 0 →
    localRead s0 a 64 = .ok bs s1 → unwatched s1 →
    let st := streamOf a bs
    streamAligned st = true → st.n0 ≠ 0 → st.n1 ≠ 0 → (st.ring = true → st.scope.toNat < 6) →
    ∃ t, exec (.bind ga q) s = .next t ∧ t.me.pc = s1.me.pc + 4 ∧ t.mem = s1.mem ∧
      ∃ b, mapGet t.me.streams q.toNat = some b ∧ b.base = st.base ∧ b.n0 = st.n0 ∧ b.n1 = st.n1 ∧ b.s0 = st.s0 ∧
        b.s1 = st.s1 ∧ b.ew = st.ew ∧ b.write = st.write ∧ b.pos = 0 ∧
        b.f0 = (if st.ring then (s1.core s1.myCore).counter st.kc else 0)) ∧
  (∀ (s : State) (q : BitVec 3), ∃ t, exec (.unbind q) s = .next t ∧ t.me.streams = mapDel s.me.streams q.toNat ∧
    t.me.g = s.me.g ∧ t.me.pc = s.me.pc + 4 ∧ t.mem = s.mem) ∧
  (∀ (s t : State) (gd : Reg) (q : BitVec 3),
    (mapGet s.me.streams q.toNat = none → writeG s gd 0 = .ok () t → exec (.spos gd q) s = .next (t.retire 4)) ∧
    (∀ st, mapGet s.me.streams q.toNat = some st →
      writeG s gd (1#1 ++ BitVec.ofBool st.write ++ BitVec.ofBool (!st.ring && decide (st.n0 * st.n1 ≤ st.pos)) ++ 0#29 ++
        BitVec.ofNat 32 st.pos) = .ok () t → exec (.spos gd q) s = .next (t.retire 4))) ∧
  (∀ (s t : State) (gd : Reg),
    (∀ v, s.me.batchPending = 0 → closing s v = .ok () s) ∧
    (∀ v, s.me.batchPending ≠ 0 → s.me.batches.length < 15 → closing s v = .ok () (s.modMe (fun sl => { sl with
      batches := mapPut sl.batches sl.batchId sl.batchPending, batchId := sl.batchId + 1, batchPending := 0 }))) ∧
    (∀ v, s.me.batchPending ≠ 0 → 15 ≤ s.me.batches.length →
      ∃ f, closing s v = .pause f f ∧ f s = s.sleepFor .closeb v) ∧
    (∀ s1, closing s 0 = .ok () s1 → writeG s1 gd (BitVec.ofNat 64 s1.me.batches.length) = .ok () t →
      exec (.closeb gd) s = .next (t.retire 4)) ∧
    (∀ (n : BitVec 4) (s1 : State), closing s (n.setWidth 64) = .ok () s1 → s1.me.batches.length ≤ n.toNat →
      writeG (expireAll s1 s1.myCore) gd (BitVec.ofNat 64 ((expireAll s1 s1.myCore).me.batches.length)) = .ok () t →
      exec (.waitb gd n) s = .next (t.retire 4)) ∧
    (∀ n : BitVec 4, s.me.batchPending = 0 → n.toNat < s.me.batches.length → (∀ z, s.me.status ≠ .asleep z) →
      ∃ u z, exec (.waitb gd n) s = .next u ∧ u.me.status = .asleep z ∧ z.kind = .waitb n.toNat ∧ u.me.pc = s.me.pc)) ∧
  (∀ (s s1 t : State) (gd ga : Reg) (kc : BitVec 5) (v : Word), readG s ga = .ok v s1 →
    (∃ u, exec (.kset ga kc) s = .next u ∧
      (u.core s1.myCore).counter kc = v.extractLsb' 0 32 +
        BitVec.ofNat 32 (s1.bumped.filter (fun b => b == (s1.myCore, kc.toNat))).length ∧
      (∀ x : BitVec 5, x ≠ kc → (u.core s1.myCore).counter x = (s1.core s1.myCore).counter x) ∧
      (∀ c, c ≠ s1.myCore → u.core c = s1.core c)) ∧
    (writeG (expireAll s s.myCore) gd (0#32 ++ (s.core s.myCore).counter kc) = .ok () t →
      exec (.kread gd kc) s = .next (t.retire 4)) ∧
    ((v.extractLsb' 0 32).toNat ≤ ((s1.core s1.myCore).counter kc).toNat →
      writeG (expireAll s1 s1.myCore) gd (0#32 ++ (s1.core s1.myCore).counter kc) = .ok () t →
      exec (.kwait gd ga kc) s = .next (t.retire 4)) ∧
    (((s1.core s1.myCore).counter kc).toNat < (v.extractLsb' 0 32).toNat → (∀ z, s.me.status ≠ .asleep z) →
      ∃ u z, exec (.kwait gd ga kc) s = .next u ∧ u.me.status = .asleep z ∧ z.kind = .kwait kc (v.extractLsb' 0 32)))

/-- The gating heap: HSIFT answers 3 for a bad header, 2 for a NaN, 1 where it keeps the entry and 0 where it does not;
while there is room the heap gains exactly the new entry; HTAKE takes the root and the heap keeps the others, and
answers 0 with nothing there; both keep the order of the heap, the worst entry at entry 0 and no entry worse than its
parent (R277, R279, R280). The clauses that rest on log entry 136 are the model's choice or reading. -/
def Obligations.GatingHeap : Prop :=
  (∀ (s s1 s2 s3 t : State) (gd ga gb : Reg) (a x : Word), readG s ga = .ok a s1 → readG s1 gb = .ok x s2 →
    unwatched s2 →
    (heapAt s2 a = .ok none s2 → writeG s2 gd 3 = .ok () t → exec (.hsift gd ga gb) s = .next (t.retire 4)) ∧
    (∀ h st, heapAt s2 a = .ok (some h) s2 → hsift h (0#16 ++ x.extractLsb' 0 48) = (st, none) →
      endsWith (.hsift gd ga gb) s s2 gd (BitVec.ofNat 64 st)) ∧
    (∀ h st es, heapAt s2 a = .ok (some h) s2 → hsift h (0#16 ++ x.extractLsb' 0 48) = (st, some es) →
      s3 = bankWrite s2 h.key (bytesOf 8 (0#48 ++ h.hdr.extractLsb' 8 8 ++ BitVec.ofNat 8 es.length) ++ es.flatMap (bytesOf 8)) →
      endsWith (.hsift gd ga gb) s s3 gd (BitVec.ofNat 64 st))) ∧
  (∀ (h : Heap) (x : Word),
    (isNan (num32 (x.extractLsb' 0 32)) = true → hsift h x = (2, none)) ∧
    (isNan (num32 (x.extractLsb' 0 32)) = false → h.es.length < h.kcap →
      ∃ es, hsift h x = (1, some es) ∧ es.Perm (x :: h.es)) ∧
    (isNan (num32 (x.extractLsb' 0 32)) = false → h.kcap ≤ h.es.length → ∀ r rest, h.es = r :: rest →
      (worse r x = true → ∃ es, hsift h x = (1, some es) ∧ es.Perm (x :: rest)) ∧
      (worse r x = false → hsift h x = (0, none))) ∧
    (∀ st es, h.kcap ≤ 16 → h.es.length ≤ h.kcap → noNans h.es → heapOrdered h.es → hsift h x = (st, some es) →
      heapOrdered es ∧ noNans es ∧ es.length ≤ h.kcap)) ∧
  (∀ (s s1 t : State) (gd ga : Reg) (a : Word), readG s ga = .ok a s1 → unwatched s1 →
    (heapAt s1 a = .ok none s1 → writeG s1 gd (1#64 <<< 62) = .ok () t → exec (.htake gd ga) s = .next (t.retire 4)) ∧
    (∀ h, heapAt s1 a = .ok (some h) s1 → h.es = [] → writeG s1 gd 0 = .ok () t →
      exec (.htake gd ga) s = .next (t.retire 4)) ∧
    (∀ h x rest, heapAt s1 a = .ok (some h) s1 → h.es = x :: rest → ∃ es : List Word, es.Perm rest ∧
      (h.es.length ≤ 16 → noNans h.es → heapOrdered h.es → heapOrdered es) ∧
      endsWith (.htake gd ga) s (bankWrite s1 h.key (bytesOf 8 (0#48 ++ h.hdr.extractLsb' 8 8 ++ BitVec.ofNat 8 es.length) ++
        es.flatMap (bytesOf 8))) gd (1#1 ++ 0#15 ++ x.extractLsb' 0 48)))

/-- The checks of a handle, in order: the null and reserved types are STALEH, an immediate of another region is PROT, a
record of another region or outside its arena is PROT, a poisoned header's line is POISON, in debug mode a header whose
part another strong access has left is MIXSIZE (R156, R203), and a record that is FREE or of another generation is
STALEH; TVAL is the handle (R200, R201). The clauses that rest on log entries 30 and 123 are the model's choice or
reading. -/
def Obligations.HandleChecks : Prop :=
  ∀ (s : State) (x : Word),
    (x.extractLsb' 62 2 = 0 ∨ x.extractLsb' 62 2 = 3 → handleEff s x = .trap .staleh x) ∧
    (x.extractLsb' 62 2 = 1 →
      ((x.extractLsb' 48 14).toNat = s.me.region →
        handleEff s x = .ok (.tile (0#1 ++ 0x1FF#9 ++ 0#6 ++ x.extractLsb' 6 42 ++ 0#6)) s) ∧
      ((x.extractLsb' 48 14).toNat ≠ s.me.region → handleEff s x = .trap .prot x)) ∧
    (x.extractLsb' 62 2 = 2 →
      ((x.extractLsb' 48 14).toNat ≠ s.me.region → handleEff s x = .trap .prot x) ∧
      (inRange s (hAddr x) (s.region s.me.region).recBase (s.region s.me.region).recSize = false →
        handleEff s x = .trap .prot x) ∧
      (∀ p h s1, (x.extractLsb' 48 14).toNat = s.me.region →
        inRange s (hAddr x) (s.region s.me.region).recBase (s.region s.me.region).recSize = true →
        globalLoc s s.who (hAddr x) 8 .load = .ok (.home p h, s1) →
        (((touchLine s1 (p / 128) h).line (p / 128)).poison = true → handleEff s x = .trap .poison x) ∧
        (((touchLine s1 (p / 128) h).line (p / 128)).poison = false →
          (mixedPart (touchLine s1 (p / 128) h) p 8).isSome = true → (s.region s.me.region).debug = true →
          handleEff s x = .trap .mixsize x)) ∧
      (∀ r hd s1, openRecord s s.who x = .ok ((r, hd), s1) →
        (hd.st = 0 ∨ hd.gen ≠ x.extractLsb' 0 6 → handleEff s x = .trap .staleh x) ∧
        (hd.st ≠ 0 → hd.gen = x.extractLsb' 0 6 → handleEff s x = .ok (.record r hd) s1)))

/-- FORCE and FPOLL: an immediate gives its address and a VALUE record its result, after ExpireAll at DEVICE scope; a
FAULTED record raises its cause; a FORCE of a record in evaluation sleeps on it, while FPOLL answers 0; a FORCE of a
THUNK starts its evaluation, or sleeps while there is none free, and FPOLL answers 0, having started it where one is
free (R213, R215). The clauses that rest on log entries 30 and 136 are the model's choice or reading. -/
def Obligations.ForceAndPoll : Prop :=
  ∀ (s s1 s2 t : State) (gd ga : Reg) (x : Word), readG s ga = .ok x s1 →
    (∀ c v, s1.me.reply = some (.fault c v) → exec (.force gd ga) s = .next (takeFault s c v)) ∧
    (s1.me.reply = none →
      (∀ a, handleEff s1 x = .ok (.tile a) s2 → writeG s2 gd a = .ok () t →
        exec (.force gd ga) s = .next (t.retire 4) ∧ exec (.fpoll gd ga) s = .next (t.retire 4)) ∧
      (∀ r hd, handleEff s1 x = .ok (.record r hd) s2 →
        (hd.st = 3 → ∀ i ∈ [Instr.force gd ga, .fpoll gd ga],
          endsWith i s (acquire (recRead s2 r 16).2 4) gd (recRead s2 r 16).1) ∧
        (hd.st = 4 → ∀ c, causeOf hd.cause = some c →
          exec (.force gd ga) s = .next (takeFault s c x) ∧ exec (.fpoll gd ga) s = .next (takeFault s c x)) ∧
        (hd.st = 2 → endsWith (.fpoll gd ga) s s2 gd 0 ∧
          (probeG s2 gd = .ok () t → exec (.force gd ga) s = .next (sleepOn x r (keepPops t s)))) ∧
        (hd.st = 1 → (freeEval s2 s2.myCore = none → endsWith (.fpoll gd ga) s s2 gd 0) ∧
          (∀ e, freeEval s2 s2.myCore = some e →
            endsWith (.fpoll gd ga) s (evalRecord s2 e s2.me.region s2.me.ctx false none x r hd) gd 0) ∧
          (probeG s2 gd = .ok () t → exec (.force gd ga) s = .next (forceThunk x r hd (keepPops t s))))))

/-- The other thunk members: SUSPEND is decided once its checks are passed; a lazy one writes a record and its handle
after its release, MIXSIZE in debug mode where a header that it would read has been left mixed-size (R156), a strict
one waits for an evaluation and gives the handle of the value that it makes; SPARK queues a THUNK in the cluster's pool
and answers 1, else 0; RETAIN and RELEASE count a record's references, 65,535 being sticky; MKVAL makes an immediate
handle; HSTATE reads a state (R207, R208, R216 to R220). The clauses that rest on log entries 30, 49, 119, 120, 123,
127 and 136 are the model's choice or reading. -/
def Obligations.ThunkMembers : Prop :=
  (∀ (s s1 s2 t : State) (gd ga : Reg) (x : Word), readG s ga = .ok x s1 →
    (∀ a, handleEff s1 x = .ok (.tile a) s2 →
      (writeG s2 gd 0 = .ok () t → exec (.spark gd ga) s = .next (t.retire 4)) ∧
      exec (.retain ga) s = .next (s2.retire 4) ∧
      (inRange s2 a (s2.region s2.me.region).frmBase (s2.region s2.me.region).frmSize = false →
        exec (.release ga) s = .next (s2.retire 4)) ∧
      (inRange s2 a (s2.region s2.me.region).frmBase (s2.region s2.me.region).frmSize = true →
        ((s2.me.region, a) ∈ s2.frames → exec (.release ga) s = .next ((returnFrame s2 s2.me.region a).retire 4)) ∧
        ((s2.me.region, a) ∉ s2.frames → exec (.release ga) s = .next (if (s2.region s2.me.region).debug then
          takeFault s .staleh x else (scrambleFrames s2 s2.me.region).retire 4)))) ∧
    (∀ r hd, handleEff s1 x = .ok (.record r hd) s2 →
      (hd.st = 1 → (sparksOf s2 (clusterOf s2 s2.myCore)).length < s2.policy.sparkPool →
        ∀ pool, pool = sparksOf s2 (clusterOf s2 s2.myCore) ++ [⟨x, (s2.core s2.myCore).part.toNat, s2.me.ctx⟩] →
        endsWith (.spark gd ga) s { s2 with sparks := mapPut s2.sparks (clusterOf s2 s2.myCore) pool } gd 1) ∧
      (hd.st ≠ 1 ∨ s2.policy.sparkPool ≤ (sparksOf s2 (clusterOf s2 s2.myCore)).length →
        endsWith (.spark gd ga) s s2 gd 0) ∧
      exec (.retain ga) s = .next ((if hd.refs = 65535 then s2
        else putHeader s2 r { hd with refs := hd.refs + 1 }).retire 4) ∧
      (hd.refs = 65535 ∨ hd.refs = 0 → exec (.release ga) s = .next (s2.retire 4)) ∧
      (hd.refs ≠ 65535 → 1 < hd.refs →
        exec (.release ga) s = .next ((putHeader s2 r { hd with refs := hd.refs - 1 }).retire 4)) ∧
      (hd.refs = 1 → hd.st ≠ 2 →
        exec (.release ga) s = .next ((freeRecord s2 s2.me.region r hd).retire 4)) ∧
      (hd.refs = 1 → hd.st = 2 → ∃ u, exec (.release ga) s = .next u ∧ u.doomed = r.p :: s2.doomed ∧
        u.mem = (putHeader s2 r { hd with refs := 0 }).mem)) ∧
    (isLocal x = true ∨ x.extractLsb' 54 9 ≠ 0x1FF ∧ x.extractLsb' 54 9 ≠ s1.dev ∨ x.extractLsb' 48 6 ≠ 0 →
      exec (.mkval gd ga) s = .next (takeFault s .prot x)) ∧
    (isLocal x = false → x.extractLsb' 54 9 = 0x1FF ∨ x.extractLsb' 54 9 = s1.dev → x.extractLsb' 48 6 = 0 →
      x.toNat % 64 ≠ 0 → exec (.mkval gd ga) s = .next (takeFault s .misalign x)) ∧
    (isLocal x = false → x.extractLsb' 54 9 = 0x1FF ∨ x.extractLsb' 54 9 = s1.dev → x.extractLsb' 48 6 = 0 →
      x.toNat % 64 = 0 →
      writeG s1 gd (1#2 ++ BitVec.ofNat 14 s1.me.region ++ x.extractLsb' 6 42 ++ 0#6) = .ok () t →
      exec (.mkval gd ga) s = .next (t.retire 4)) ∧
    (x.extractLsb' 62 2 = 0 → writeG s1 gd 0 = .ok () t → exec (.hstate gd ga) s = .next (t.retire 4)) ∧
    (x.extractLsb' 62 2 = 1 → (x.extractLsb' 48 14).toNat = s1.me.region → writeG s1 gd 3 = .ok () t →
      exec (.hstate gd ga) s = .next (t.retire 4)) ∧
    (x.extractLsb' 62 2 = 2 → ∀ r hd, openRecord s1 s1.who x = .ok ((r, hd), s2) →
      endsWith (.hstate gd ga) s s2 gd (if hd.st = 0 ∨ hd.gen ≠ x.extractLsb' 0 6 then 0 else hd.word))) ∧
  (∀ (s s1 s2 s3 s4 s5 s6 t : State) (gd ga : Reg) (ia : Word) (bs : List Byte), readG s ga = .ok ia s1 →
    ia.toNat % 32 = 0 → localRead s1 ia 32 = .ok bs s2 →
    (∀ (a b c : Word × Nat) (sp : OpSpec), imageSpec (imageWords bs).w0 = some sp →
      badWord (imageWords bs) sp true (formats (imageWords bs) s2.me.fmta s2.me.fmtb s2.me.fmtc)
        (ringLen s2 s2.myCore) = none →
      imageOperand s2 (imageWords bs) 1 = .ok a s3 → imageOperand s3 (imageWords bs) 2 = .ok b s4 →
      imageOperand s4 (imageWords bs) 3 = .ok c s5 → unwatched s5 → probeG s5 gd = .ok () s6 →
      let f := formats (imageWords bs) s2.me.fmta s2.me.fmtb s2.me.fmtc
      suspendChecks s2 gd ia (imageWords bs) = .ok
        ⟨⟨0, (imageWords bs).w0, (imageWords bs).w4,
            ((imageWords bs).w5 &&& ~~~(0xFFF : W32)) ||| (f.2.2 ++ f.2.1 ++ f.1).setWidth 32, s2.me.round,
            [a.1, b.1, c.1], [], none⟩,
          1 + max a.2 (max b.2 c.2),
          if isLazy s6 s6.me.region (1 + max a.2 (max b.2 c.2)) (pinned [a.1, b.1, c.1]) then
            some (pinned [a.1, b.1, c.1]) else none⟩ s6) ∧
    (∀ (u : Susp) (p : Nat) (r : RecAt), u.pin = some p →
      (s2.me.susp = none ∧ suspendChecks s2 gd ia (imageWords bs) = .ok u s3 ∧ release (decideSusp u s3) 4 = .ok () s4 ∨
        s2.me.susp = some u ∧ release s2 4 = .ok () s4) →
      chooseRecord s4 s4.myCore s4.me.region 0 = some (r, s5) →
      (∀ v, mixedHeaders s5 r u.frame.ops = some v →
        exec (.suspend gd ga) s = .next (takeFault (dropSusp s s.cur) .mixsize v)) ∧
      (mixedHeaders s5 r u.frame.ops = none → ∀ hd s6 w v, recHeader s5 r = (hd, s6) →
        w = writeRecord (takeRefs s6 s6.myCore u.frame.ops) r hd u.depth u.frame.satf u.frame.ops u.frame.w0 u.frame.w4
          u.frame.w5 →
        (if s2.me.susp = none then v = w else operandsAgain w (imageWords bs) = .ok v v) →
        endsWith (.suspend gd ga) s v gd (2#2 ++ BitVec.ofNat 14 v.me.region ++ r.a.extractLsb' 6 42 ++ hd.gen))) ∧
    (∀ (u : Susp) (h : Word), u.pin = none → s2.me.susp = some u → s2.me.reply = some (.val h) → h ≠ 0 →
      operandsAgain s2 (imageWords bs) = .ok s3 s3 → writeG (acquire s3 4) gd h = .ok () t →
      exec (.suspend gd ga) s = .next (t.retire 4)) ∧
    (∀ u : Susp, u.pin = none → s2.me.susp = none → suspendChecks s2 gd ia (imageWords bs) = .ok u s3 →
      freeEval s s.myCore = none → (∀ z, s.me.status ≠ .asleep z) → ∃ v z, exec (.suspend gd ga) s = .next v ∧
        v.me.status = .asleep z ∧ z.kind = .engine 0 ∧ v.me.susp = some u ∧ v.mem = s.mem))

/-- What thunk engines do: an idle engine takes the oldest spark of its context and evaluates it if it is a THUNK
still, else discards it; a spark dropped leaves the pool; a wake lets a slot that sleeps on the record look again, or
gives it the fault; an evaluation with its frame issues its command; a strict evaluation's end sends the handle to its
slot; a dropped reference counts down; on a halted cluster an engine stops between its steps (R208, R209, R211, R212,
R216, R219, R380). The clauses that rest on log entries 17 and 48 are the model's choice or reading. -/
def Obligations.ThunkEvents : Prop :=
  (∀ (s s1 : State) (c : Nat) (x : Word) (ctx : Nat), (∀ i ∈ [0, 1, 2, 3], (s.eval (4 * c + i)).phase = .idle) →
    s.halted = [] → s.gangs = [] → (s.core c).stopped = false → isLiveCore s c = true →
    sparksOf s (clusterOf s c) = [⟨x, (s.core c).part.toNat, ctx⟩] → ctx = residentCtx s c →
    (∀ r hd, checkHandle { s with sparks := mapPut s.sparks (clusterOf s c) [] } ⟨c, 8 * c, hRegion x⟩ x =
        .ok (.record r hd, s1) → hd.st = 1 →
      exec (.sparkTake c) s = .next (evalRecord s1 (4 * c) (hRegion x) ctx true none x r hd)) ∧
    (∀ r hd, checkHandle { s with sparks := mapPut s.sparks (clusterOf s c) [] } ⟨c, 8 * c, hRegion x⟩ x =
        .ok (.record r hd, s1) → hd.st ≠ 1 →
      exec (.sparkTake c) s = .next { s with sparks := mapPut s.sparks (clusterOf s c) [] }) ∧
    (∀ k, checkHandle { s with sparks := mapPut s.sparks (clusterOf s c) [] } ⟨c, 8 * c, hRegion x⟩ x = .error k →
      exec (.sparkTake c) s = .next { s with sparks := mapPut s.sparks (clusterOf s c) [] })) ∧
  (∀ (s : State) (cl i : Nat), ∃ t, exec (.sparkDrop cl i) s = .next t ∧ sparksOf t cl = dropAt (sparksOf s cl) i ∧
    (∀ d, d ≠ cl → sparksOf t d = sparksOf s d) ∧ t = { s with sparks := t.sparks }) ∧
  (∀ (s : State) (slot : Nat) (z : Sleep) (h : Word), slot < 2 ^ 14 → (s.slot slot).status = .asleep z →
    z.kind = .thunk h →
    (s.wakes = [⟨slotLink slot, h, .value⟩] → ∃ t, exec (.evalWake 0) s = .next t ∧ t.wakes = [] ∧
      (t.slot slot).status = .ready ∧ (t.slot slot).reply = some (.val 0)) ∧
    (∀ c v, s.wakes = [⟨slotLink slot, h, .fault c v⟩] → ∃ t, exec (.evalWake 0) s = .next t ∧ t.wakes = [] ∧
      (t.slot slot).status = .ready ∧ (t.slot slot).reply = some (.fault c v)) ∧
    (∀ v, s.wakes = [⟨slotLink slot, h, .handle v⟩] → ∃ t, exec (.evalWake 0) s = .next t ∧ t.wakes = [] ∧
      (t.slot slot).status = .ready ∧ (t.slot slot).reply = some (.val v))) ∧
  (∀ (s : State) (ev : Nat) (f : EvalFrame) (rest : List EvalFrame) (a : Word), (s.eval ev).phase = .frame →
    (s.eval ev).stack = f :: rest → f.frame = some a → f.ops.getD 2 0 = 0 →
    queueRoom (s.modEval ev (fun _ => { s.eval ev with phase := .command, done := none, stack := f :: rest })) (ev / 4)
      (evalCommand s ev f a).words = true →
    s.halted.contains (clusterOf s (ev / 4)) = false →
    exec (.frameGrant ev) s = .next (pushCmd
      (s.modEval ev (fun _ => { s.eval ev with phase := .command, done := none, stack := f :: rest })) (ev / 4)
      (evalCommand s ev f a))) ∧
  (∀ (s : State) (ev slot : Nat) (f : EvalFrame) (a : Word), (s.eval ev).phase = .command → (s.eval ev).done = some none →
    (s.eval ev).stack = [f] → f.hdl = 0 → f.frame = some a → (s.eval ev).waiter = some slot →
    s.halted.contains (clusterOf s (ev / 4)) = false →
    ∃ t, exec (.evalCommandComplete ev) s = .next t ∧ (t.eval ev).phase = .idle ∧
      t.wakes = s.wakes ++ [⟨slotLink slot, 0, .handle (mkHandle 1 (s.eval ev).region a 0)⟩] ∧ t.mem = s.mem) ∧
  (∀ (s : State) (ev : Nat), s.halted.contains (clusterOf s (ev / 4)) = true →
    exec (.frameGrant ev) s = .next s ∧ exec (.evalCommandComplete ev) s = .next s) ∧
  (∀ (s s1 s2 : State) (x : Word) (r : RecAt) (hd : Header), s.refDrops = [x] →
    recAt { s with refDrops := [] } 0 (hAddr x) = some (r, s1) → recHeader s1 r = (hd, s2) → hd.st ≠ 0 →
    hd.gen = hGen x → hd.refs ≠ 65535 → 1 < hd.refs →
    exec (.referenceDrop 0) s = .next (putHeader s2 r { hd with refs := hd.refs - 1 }))

namespace Sys2Proof.Machine

/-- The bytes from a that hold nothing of a region's block (R331), which hardware keeps up to date in memory. -/
def blockClear (s : State) (r a n : Nat) : Prop := ∀ q, (s.region r).phys = some q → a + n ≤ q ∨ q + 512 ≤ a

end Sys2Proof.Machine

/-- The snapshot instructions. SNAP puts a snapshot of the next level and serial number on its region's stack and waits
for the homes; its identifier goes to gd. ACCEPT and REJECT take the innermost live snapshot off and wait for the
homes; REJECT's gd is the number of lines restored. A ninth level, or an identifier that is not the innermost live one,
is SNAPDEPTH; a broken snapshot cannot be rejected (R302, R303). SNAPQ answers at once, with the depth in bits 3 to 0
and, for a live identifier, bit 63 set (R304). The clauses that rest on log entry 30 are the model's choice or reading.
-/
def Obligations.SnapshotInstructions : Prop :=
  ∀ (s s1 s2 s3 t : State) (gd ga gb : Reg) (x n v : Word), readG s ga = .ok x s1 →
    (readG s1 gb = .ok n s2 →
      (s2.me.reply = some (.val v) → writeG s2 gd v = .ok () t → exec (.snap gd ga gb) s = .next (t.retire 4)) ∧
      (s2.me.reply = none → x.toNat % 128 = 0 → n.toNat % 128 = 0 → n ≠ 0 → x.getLsbD 63 = false →
        devOf s2 x = 0x1FF → vaOf x + n.toNat ≤ 2 ^ 54 → snapRefused s2 s2.me.region x n.toNat = false →
        uncovered s2 s2.me.region (normAddr s2 x).toNat ((normAddr s2 x).toNat + n.toNat) 9 = none →
        waitDrained s2 = .ok () s3 →
        ((liveSnaps s3 s2.me.region).length < 8 → (s3.snaps.filter (fun m => m.ending.isNone)).length < 256 →
          ∀ p, probeG s3 gd = .ok () p → ∃ u, exec (.snap gd ga gb) s = .next u ∧
            u.snaps = s.snaps ++ [⟨s2.me.region, (liveSnaps s3 s2.me.region).length, s.snapSerial, x, n.toNat, false,
              s.cur, 0, none, some (waiterOf s s.cur), none⟩] ∧
            u.snapSerial = s.snapSerial + 1 ∧ u.me.status = .waiting .reply ∧ u.me.pc = s.me.pc ∧
            ∀ a, blockClear s s2.me.region a 1 → byteAt u.mem a = byteAt s.mem a) ∧
        ((liveSnaps s3 s2.me.region).length = 8 ∨ 256 ≤ (s3.snaps.filter (fun m => m.ending.isNone)).length → exec (.snap gd ga gb) s = .next (takeFault s .snapdepth x)))) ∧
    (s1.me.reply = some (.val v) → exec (.accept ga) s = .next (s1.retire 4) ∧
      (writeG (expireAll s1 s1.myCore) gd v = .ok () t → exec (.reject gd ga) s = .next (t.retire 4))) ∧
    (s1.me.reply = none →
      (∀ m, snapNamed s1 s1.me.region x = some m →
        (m.level + 1 = (liveSnaps s1 s1.me.region).length →
          exec (.accept ga) s = .next ((popSnap (keepPops s1 s) m false (some (waiterOf s s.cur))).stall .reply)) ∧
        (m.level + 1 ≠ (liveSnaps s1 s1.me.region).length →
          exec (.accept ga) s = .next (takeFault s .snapdepth x))) ∧
      (snapNamed s1 s1.me.region x = none → exec (.accept ga) s = .next (takeFault s .snapdepth x)) ∧
      (waitDrained s1 = .ok () s2 → ∀ m, snapNamed s2 s2.me.region x = some m →
        m.level + 1 = (liveSnaps s2 s2.me.region).length →
        (m.broken = true → exec (.reject gd ga) s = .next (takeFault s .shadowfull x)) ∧
        (m.broken = false → ∀ p, probeG s2 gd = .ok () p → exec (.reject gd ga) s = .next
          ((popSnap (keepPops p (s.modMe (fun sl => { sl with drain := s2.me.drain }))) m true
            (some (waiterOf s s.cur))).stall .reply)))) ∧
    (∃ w, (writeG s1 gd w = .ok () t → exec (.snapq gd ga) s = .next (t.retire 4)) ∧
      w.extractLsb' 0 4 = BitVec.ofNat 4 (liveSnaps s1 s1.me.region).length ∧ w.extractLsb' 4 4 = 0 ∧
      w.getLsbD 63 = (snapNamed s1 s1.me.region x).isSome) ∧
    (∀ (m : Snap) (rej : Bool) (who : Option Waiter),
      (∀ a, blockClear s m.region a 1 → byteAt (popSnap s m rej who).mem a = byteAt s.mem a) ∧
      (popSnap s m rej who).snaps = s.snaps.filter (fun k => k.seq != m.seq) ++
        [{ m with ending := some (rej, 0, 0), endWait := who }])

/-- What homes do for snapshots. A write that a live, recorded snapshot needs saves the line first, in a shadow charged
to its region; without room the snapshot breaks (R297, R300). An announcement is recorded home by home, and the last
one gives the waiting SNAP its identifier (R299). A home carries out an end once the waiting slot's stores to it in the
range have come there. At an ACCEPT's end the bytes stay; at a REJECT's end a line whose newest shadow serves the level
gets its saved bytes back (R303). The clauses that rest on log entries 77 and 109 are the model's choice or reading. -/
def Obligations.SnapshotEvents : Prop :=
  (∀ (s s1 s' : State) (a b : Word) (p h : Nat) (n : Snap), inNeed s a p h = [n] →
    takePoolLine s n.region h = some (b, s1) → charge s1 n.region [(.shadows, 1)] = some s' →
    ((shadowStep s a p h).line (p / 128)).shadows =
      ⟨b, readBytes s.mem (p / 128 * 128) 128, (s.line (p / 128)).poison, 1#8 <<< n.level, n.region, h⟩ ::
        (s.line (p / 128)).shadows ∧
    (shadowStep s a p h).mem = s'.mem ∧ (shadowStep s a p h).snaps = s.snaps) ∧
  (∀ (s : State) (a : Word) (p h : Nat) (n : Snap), inNeed s a p h = [n] →
    (takePoolLine s n.region h = none ∨
      ∃ b s1, takePoolLine s n.region h = some (b, s1) ∧ charge s1 n.region [(.shadows, 1)] = none) →
    (∀ m ∈ (shadowStep s a p h).snaps, m.seq = n.seq → m.broken = true) ∧ (shadowStep s a p h).mem = s.mem ∧
    ∀ l, ((shadowStep s a p h).line l).shadows = (s.line l).shadows ∧
      ((shadowStep s a p h).line l).tag = (s.line l).tag) ∧
  (∀ (s : State) (n : Snap) (home : Nat), s.snaps = [n] → n.ending = none → n.recorded.getLsbD home = false →
    isLiveCore s home = true → ∃ t, exec (.snapAnnounce n.seq home) s = .next t ∧ t.mem = s.mem ∧
      (∃ m, t.snaps = [m] ∧ m.recorded = n.recorded ||| 1#1024 <<< home ∧ m.level = n.level ∧ m.seq = n.seq ∧
        m.base = n.base ∧ m.len = n.len ∧ m.ending = none) ∧
      (∀ w, allHomes s (n.recorded ||| 1#1024 <<< home) = true → n.snapWait = some w → (s.slot w.slot).gen = w.gen →
        (s.slot w.slot).ctx = w.ctx → (s.slot w.slot).status = .waiting .reply →
        (t.slot w.slot).reply = some (.val (snapId n)) ∧ (t.slot w.slot).status = .ready)) ∧
  (∀ (s : State) (n : Snap) (home l k : Nat) (rej : Bool) (ended : BitVec 1024) (i : LineInfo) (h : Shadow)
      (hs : List Shadow), s.snaps = [n] → s.endings = [] → n.ending = some (rej, ended, k) → ended.getLsbD home = false →
    n.recorded.getLsbD home = true → storesFirst s n home = false → n.snapWait = none → isLiveCore s home = true → s.lines = [(l, i)] →
    i.shadows = h :: hs → h.region = n.region → h.home = home → h.mask.getLsbD n.level = true → h.bytes.length = 128 →
    blockClear s n.region (l * 128) 128 →
    ∃ t, exec (.snapshotEndAnnounce n.seq home) s = .next t ∧
      (∀ j ∈ (t.line l).shadows, j.region = n.region → j.home = home → j.mask.getLsbD n.level = false) ∧
      (∀ a, blockClear s n.region a 1 → rej = false ∨ a < l * 128 ∨ l * 128 + 128 ≤ a →
        byteAt t.mem a = byteAt s.mem a) ∧
      (rej = true → readBytes t.mem (l * 128) 128 = h.bytes ∧ (t.line l).poison = h.poison) ∧
      (allHomes s (ended ||| 1#1024 <<< home) = true → t.snaps = [] ∧
        ∀ w, n.endWait = some w → (s.slot w.slot).gen = w.gen → (s.slot w.slot).ctx = w.ctx →
          (s.slot w.slot).status = .waiting .reply → (t.slot w.slot).status = .ready ∧
          (t.slot w.slot).reply = some (.val (BitVec.ofNat 64 (k + if rej then 1 else 0)))) ∧
      (allHomes s (ended ||| 1#1024 <<< home) = false →
        t.snaps = [{ n with ending := some (rej, ended ||| 1#1024 <<< home, k + if rej then 1 else 0) }]))

/-- The shuffle instructions. SHUF posts its 2,048 bytes to the hub and sleeps until they are taken, with 0 in gd; SIDE
with no cupboard entry free answers 1 at once and otherwise waits for the hub, for a block that it holds already only
with a later time; UNSIDE where the hub is on this device answers 0 or 1 at once; DISP of no expert answers 1 at once
and otherwise sleeps until its row is placed; SHQ of a group of another region, or of no group, answers 0. A word that
names no group of the slot's region is PROT; one that names an absent device is FATALHW (R310, R313 to R317, R324,
R325). The clauses that rest on log entries 21, 30, 57, 88 and 136 are the model's choice or reading. -/
def Obligations.ShuffleInstructions : Prop :=
  ∀ (s s1 s2 s3 s4 s5 s6 t : State) (gd ga gb : Reg) (x y w : Word) (g : Group) (bs : List Byte),
    readG s ga = .ok x s1 → readG s1 gb = .ok y s2 →
    (∀ v, s2.me.reply = some (.val v) →
      (writeG s2 gd 0 = .ok () t → exec (.shuf gd ga gb) s = .next (t.retire 4)) ∧
      (writeG s2 gd v = .ok () t → exec (.side gd ga gb) s = .next (t.retire 4))) ∧
    (s2.me.reply = none → x.toNat % 64 = 0 →
      (mapGet s2.groups (bwGrp y) = none →
        exec (.shuf gd ga gb) s = .next (takeFault s .prot y) ∧ exec (.side gd ga gb) s = .next (takeFault s .prot y)) ∧
      (mapGet s2.groups (bwGrp y) = some g →
        (g.region ≠ s2.me.region →
          exec (.shuf gd ga gb) s = .next (takeFault s .prot y) ∧
          exec (.side gd ga gb) s = .next (takeFault s .prot y)) ∧
        (g.region = s2.me.region →
          (y.extractLsb' 11 5 = 0 → y.extractLsb' 6 2 = 0 → bwDst y < g.cnt →
            sourceChecks s2 y x 2048 (groupAbsent s2 g) true = .ok () s3 →
            release s3 5 = .ok () s4 → loadRange s4 x 2048 = .ok bs s5 → probeG s5 gd = .ok () s6 →
            (∀ z, s.me.status ≠ .asleep z) → ∃ u z, exec (.shuf gd ga gb) s = .next u ∧ u.me.status = .asleep z ∧ z.kind = .shuf ∧ z.lim = s.me.waitlim ∧
              u.me.pc = s.me.pc ∧ (g.hub = g.memb → u.posts = s.posts ++
                [⟨bwGrp y, bwBlk y, bwDst y, bwArg y, g.memb, s.me.region, s.cur, bs⟩])) ∧
          (y.extractLsb' 6 10 = 0 → heldBlock s2 (bwGrp y) (bwBlk y) = none →
            sourceChecks s2 y x 2048 (groupAbsent s2 g) true = .ok () s3 → release s3 5 = .ok () s4 →
            (cupFree s4 = 0 → writeG s4 gd 1 = .ok () t → exec (.side gd ga gb) s = .next (t.retire 4)) ∧
            (cupFree s4 ≠ 0 → loadRange s4 x 2048 = .ok bs s5 → probeG s5 gd = .ok () s6 →
              ∃ u v, exec (.side gd ga gb) s = .next u ∧
              v = s2.me.since.getD s2.time + BitVec.ofNat 64 (max 64 (bwArg y)) ∧
              u.cupboard = s.cupboard ++ [⟨bwGrp y, bwBlk y, v, bs, false⟩] ∧ u.me.status = .waiting .reply ∧
              (g.hub = g.memb → u.adverts = s.adverts ++ [⟨bwGrp y, g.memb, bwBlk y, v, s.cur, s.me.gen, true, false⟩]))) ∧
          (∀ e, y.extractLsb' 6 10 = 0 → heldBlock s2 (bwGrp y) (bwBlk y) = some e →
            sourceChecks s2 y x 2048 (groupAbsent s2 g) false = .ok () s3 → probeG s3 gd = .ok () s4 →
            ∃ u, exec (.side gd ga gb) s = .next u ∧ u.cupboard = s.cupboard ∧ u.me.status = .waiting .reply ∧
              (g.hub = g.memb → u.adverts = s.adverts ++ [⟨bwGrp y, g.memb, bwBlk y,
                later (s2.me.since.getD s2.time + BitVec.ofNat 64 (max 64 (bwArg y))) e.until_, s.cur, s.me.gen, false,
                false⟩]))))) ∧
    (∀ v, readG s gb = .ok y s6 → s6.me.reply = some (.val v) → writeG s6 gd v = .ok () t →
      exec (.unside gd gb) s = .next (t.retire 4)) ∧
    (readG s gb = .ok y s6 → s6.me.reply = none → mapGet s6.groups (bwGrp y) = some g → g.region = s6.me.region →
      y.extractLsb' 6 26 = 0 → (groupAbsent s6 g = true → exec (.unside gd gb) s = .next (takeFault s .fatalhw y)) ∧
      (groupAbsent s6 g = false → g.hub = g.memb →
        endsWith (.unside gd gb) s (code (unshelve s6 (bwGrp y) g.memb (bwBlk y))) gd
          (if (shelfAt s6 (bwGrp y) g.memb (bwBlk y)).isSome then 0 else 1))) ∧
    (readG s2 gd = .ok w s3 →
      (∀ v, s3.me.reply = some (.val v) → writeG s3 gd 0 = .ok () t → exec (.disp gd ga gb) s = .next (t.retire 4)) ∧
      (s3.me.reply = none → x.toNat % 64 = 0 → mapGet s3.groups (bwGrp w) = some g → g.region = s3.me.region →
        w.extractLsb' 32 32 = 0 → w.extractLsb' 6 2 = 0 → bwDst w < g.cnt →
        (y = 0 → groupAbsent s3 g = false → writeG s3 gd 1 = .ok () t →
          exec (.disp gd ga gb) s = .next (t.retire 4)) ∧
        (y ≠ 0 → sourceChecks s3 w x (64 * ((w.extractLsb' 11 5).toNat + 1)) (groupAbsent s3 g) true = .ok () s4 →
          release s4 5 = .ok () s5 → loadRange s5 x (64 * ((w.extractLsb' 11 5).toNat + 1)) = .ok bs s6 →
          probeG s6 gd = .ok () t → (∀ z, s.me.status ≠ .asleep z) →
          ∃ u z, exec (.disp gd ga gb) s = .next u ∧ u.me.status = .asleep z ∧ z.kind = .shuf ∧ z.lim = s.me.waitlim ∧
            u.me.pc = s.me.pc ∧
            (bwDst w = g.memb → u.rows = s.rows ++ [⟨bwGrp w, bs, y, bwArg w, g.memb, w, s.cur, s.me.gen, s.dev⟩])))) ∧
    ((∀ k, mapGet s1.groups (bwGrp x) = some k → k.region ≠ s1.me.region) → writeG s1 gd 0 = .ok () t →
      exec (.shq gd ga) s = .next (t.retire 4)) ∧
    (mapGet s1.groups (bwGrp x) = some g → g.region = s1.me.region → ∃ a u, a.getLsbD 63 = true ∧
      a.getLsbD 62 = (g.hub == g.memb) ∧ a.extractLsb' 31 15 = BitVec.ofNat 15 (cupFree s1) ∧
      u.slots = s1.slots ∧ u.mem = s1.mem ∧
      (writeG u gd a = .ok () t → exec (.shq gd ga) s = .next (t.retire 4)))

/-- What the shuffle units do, with the hub of the group on this device. The hub takes an advertisement unless its time
is too near or the shelf is full; a lease that has run out leaves the shelf or the cupboard; a posted block enters the
coding queue and frees its slot, which a refused one posts again; a block that has waited the coding window leaves
alone and stays in the retransmit buffer for its time; a receiver delivers a packet of one component; a NACK is
answered with the block again, or with a loss notice, which the receiver counts as lost; a cupboard error retires an
entry; a dispatched row is placed with its experts (R315 to R321, R324). The clauses that rest on log entries 20 and 58
are the model's choice or reading. -/
def Obligations.ShuffleEvents : Prop :=
  (∀ (s : State) (a : Advert) (src : Src Advert) (g : Group),
    (s.adverts = [a] ∧ src = .mine 0 ∨ s.adverts = [] ∧ src = .outside a) → s.codeQueue = [] →
    mapGet s.groups a.grp = some g → a.memb = g.memb → (s.slot a.slot).status = .waiting .reply →
    (s.slot a.slot).gen = a.gen →
    ∃ t, exec (.advertisementArrival src) s = .next t ∧ t.adverts = [] ∧ (t.slot a.slot).status = .ready ∧
      let rest := s.shelf.filter (fun e => !(e.grp == a.grp && e.memb == a.memb && e.blk == a.blk))
      let near := a.until_.toNat ≤ s.time.toNat + max 16 s.policy.margin
      (a.withdrawn = true → t.shelf = rest ∧ (t.slot a.slot).reply =
        some (.val (if (shelfAt s a.grp a.memb a.blk).isSome then 0 else 1))) ∧
      (a.withdrawn = false →
      (near → (t.slot a.slot).reply = some (.val 2) ∧ t.shelf = s.shelf) ∧
      (¬ near → 65536 ≤ rest.length → (t.slot a.slot).reply = some (.val 3) ∧ t.shelf = s.shelf) ∧
      (¬ near → rest.length < 65536 → (t.slot a.slot).reply = some (.val 0) ∧
        t.shelf = rest ++ [⟨a.grp, a.memb, a.blk, a.until_⟩]))) ∧
  (∀ (s : State) (i : Nat) (e : Shelved), s.shelf[i]? = some e → s.codeQueue = [] → ∃ t, exec (.shelfExpiry i) s = .next t ∧
    t.shelf = if e.until_.toNat ≤ s.time.toNat then dropAt s.shelf i else s.shelf) ∧
  (∀ (s : State) (i : Nat) (e : CupEntry), s.cupboard[i]? = some e → extending s e = false →
    ∃ t, exec (.cupboardExpiry i) s = .next t ∧
    t.cupboard = (if e.until_.toNat ≤ s.time.toNat then dropAt s.cupboard i else s.cupboard) ∧ t.mem = s.mem) ∧
  (∀ (s : State) (p : Post) (src : Src Post) (g : Group) (z : Sleep),
    (s.posts = [p] ∧ src = .mine 0 ∨ s.posts = [] ∧ src = .outside p) →
    mapGet s.groups p.grp = some g → p.sender = g.memb → (s.slot p.slot).status = .asleep z → z.kind = .shuf →
    (s.codeQueue = [] → 0 < s.policy.window → ∃ t, exec (.blockPostArrival src) s = .next t ∧ t.posts = [] ∧
      t.codeQueue = [⟨p, s.time⟩] ∧ (t.slot p.slot).status = .ready ∧ (t.slot p.slot).reply = some (.val 0)) ∧
    (1024 ≤ (ofGroup p.grp s.codeQueue).length → exec (.blockPostArrival src) s =
      .next { s with posts := [], refused := s.refused ++ [p] })) ∧
  (∀ (s : State) (p : Post) (g : Group), s.refused = [p] → mapGet s.groups p.grp = some g → g.hub = g.memb →
    exec (.shufResend p.slot) s = .next { s with refused := [], posts := s.posts ++ [p] }) ∧
  (∀ (s : State) (q : Queued) (g : Group), s.codeQueue = [q] → mapGet s.groups q.post.grp = some g →
    (s.time.toNat < q.time.toNat + min 4096 s.policy.window → exec .codingWindowExpiry s = .next s) ∧
    (q.time.toNat + min 4096 s.policy.window ≤ s.time.toNat → q.post.dst = g.memb →
      ∃ t, exec .codingWindowExpiry s = .next t ∧ t.codeQueue = [] ∧
        t.packets = s.packets ++ [⟨q.post.grp, q.post.region, g.memb, [q.post], q.post.bytes⟩] ∧
        t.retransmit.getLast? = some ⟨q.post, s.time⟩ ∧
        ((ofGroup q.post.grp s.retransmit).length ≤ 4096 → (ofGroup q.post.grp t.retransmit).length ≤ 4096))) ∧
  (∀ (s : State) (i : Nat) (q : Queued), s.retransmit[i]? = some q → ∃ t, exec (.retransmitRelease i) s = .next t ∧
    t.retransmit = (if q.time.toNat + holdTime s q.post.grp ≤ s.time.toNat then dropAt s.retransmit i
      else s.retransmit) ∧ t.packets = s.packets) ∧
  (∀ (s : State) (p : Packet) (own : Post) (src : Src Packet) (g : Group),
    (s.packets = [p] ∧ src = .mine 0 ∨ s.packets = [] ∧ src = .outside p) → mapGet s.groups p.grp = some g →
    g.region = p.region → p.comps = [own] → own.dst = g.memb →
    exec (.packetReceive src) s = .next (deliverBlock { s with packets := [] } g own p.bytes)) ∧
  (∀ (s : State) (n : Nack) (src : Src Nack) (g : Group), mapGet s.groups n.grp = some g → n.memb = g.memb →
    ((s.nacks = [n] ∧ src = .mine 0 ∨ s.nacks = [] ∧ src = .outside n) →
      (∀ q, s.retransmit = [q] → q.post.grp = n.grp → q.post.dst = n.memb → q.post.blk = n.blk → q.post.arg = n.arg →
        exec (.nackArrival src) s = .next { s with
          nacks := [], packets := s.packets ++ [⟨n.grp, q.post.region, n.memb, [q.post], q.post.bytes⟩] }) ∧
      (s.retransmit = [] → exec (.nackArrival src) s = .next { s with nacks := [], losses := s.losses ++ [n] })) ∧
    ((s.losses = [n] ∧ src = .mine 0 ∨ s.losses = [] ∧ src = .outside n) →
      exec (.lossNotice src) s = .next (lost { s with losses := [] } g .decodemiss n.arg (recordDev s (senderDev s n.grp n.sender)) n.slot))) ∧
  (∀ (s : State) (i : Nat) (e : CupEntry), s.cupboard[i]? = some e → s.codeQueue = [] →
    ∃ t, exec (.cupboardEviction i) s = .next t ∧ t.cupboard = dropAt s.cupboard i ∧ t.cupLost = s.cupLost + 1 ∧
      ∀ g, mapGet s.groups e.grp = some g → g.hub = g.memb → shelfAt t e.grp g.memb e.blk = none) ∧
  (∀ (s : State) (r : DispRow) (src : Src DispRow) (e : Nat) (x : Expert),
    (s.rows = [r] ∧ src = .mine 0 ∨ s.rows = [] ∧ src = .outside r) → namedExperts s r.mask = [e] →
    r.mask = 1#64 <<< e → mapGet s.experts e = some x → x.die < 8 →
    exec (.dispatchArrival src) s = .next { s with rows := [], places := s.places ++ [⟨r, [e]⟩] }) ∧
  (∀ (s : State) (r : DispRow) (e : Nat) (x : Expert), s.places = [⟨r, [e]⟩] → mapGet s.experts e = some x →
    (x.kept < x.cap → ∃ t, exec (.placeRow 0) s = .next t ∧ t.places = [] ∧
      mapGet t.experts e = some { x with kept := x.kept + 1 }) ∧
    (x.cap ≤ x.kept → ∃ t, exec (.placeRow 0) s = .next t ∧ t.places = [] ∧ t.experts = s.experts))

/-- The members that manage regions, launches and time. RCREATE's child gets the lowest free number, or gd says why
not; RBUDGET, RESIDE and RDONE answer by the named block and the entry; RESIDE REQ of an entry under no lease sleeps;
RDONE of the slot's own subtree ends its task, and waits while commands and snapshots of the regions end; LAUNCH
answers 0 once its descriptor is accepted, and waits with a timed one while a clock fault is in force (R27); WAITT
answers TIME once the time has come and sleeps before; AT keeps an alarm unless 16 are kept; GANG is privileged and
asks for 10 µs of notice (R336 to R338, R340, R342, R343, R345, R347, R349). The clauses that rest on log entries 18,
52, 53, 54, 89, 97, 99, 135 and 136 are the model's choice or reading. -/
def Obligations.RegionInstructions : Prop :=
  ∀ (s s1 s2 s3 s4 s5 s6 t : State) (gd ga gb : Reg) (x y w : Word) (bs : List Byte), readG s ga = .ok x s1 →
    (x.toNat % 512 = 0 → isLocal x = false → devOf s1 x = 0x1FF → sourceChecks s1 x x 512 false true = .ok () s2 →
      release s2 4 = .ok () s3 → loadRange s3 x 512 = .ok bs s4 →
      (childRegion s4 s4.me.region bs = none → writeG s4 gd 0x8000000000000001 = .ok () t →
        exec (.rcreate gd ga) s = .next (t.retire 4)) ∧
      (∀ g n r, childRegion s4 s4.me.region bs = some g → freeNumber s4 1 16383 = some n →
        recAt s4 s4.myCore x = some (r, s5) →
        endsWith (.rcreate gd ga) s
          (putRegion (endBlockLease (shadowBlock s5 r) x) n { g with addr := x, phys := some r.p }) gd (BitVec.ofNat 64 n))) ∧
    (∀ (st : State) (p : Nat) (g : Region), childRegion st p bs = some g → g.parent = p ∧ g.state = .live ∧
      g.prio ≤ (st.region p).prio ∧ g.cap ≤ (st.region p).cap ∧ 1 ≤ g.cap ∧
      ∀ i : Fin 5, g.budgets[i].count = 0 ∧ g.budgets[i].limit.toNat ≤ (st.region p).budgets[i].limit.toNat) ∧
    (readG s1 gb = .ok y s2 →
      (blockChecks s2 x = .ok () s3 →
        (namedRegion s3 x = none → writeG s3 gd 2 = .ok () t → exec (.rbudget gd ga gb) s = .next (t.retire 4)) ∧
        (∀ r, namedRegion s3 x = some r →
          let sel := (y.extractLsb' 0 3).toNat
          let v := (y.extractLsb' 8 56).toNat
          (sel = 7 ∨ v < (budgetOf s3 r sel).2.1 → writeG s3 gd 1 = .ok () t →
            exec (.rbudget gd ga gb) s = .next (t.retire 4)) ∧
          (sel ≠ 7 → (budgetOf s3 r sel).2.1 ≤ v → (budgetOf s3 r sel).2.2 < v → writeG s3 gd 3 = .ok () t →
            exec (.rbudget gd ga gb) s = .next (t.retire 4)) ∧
          (sel ≠ 7 → (budgetOf s3 r sel).2.1 ≤ v → v ≤ (budgetOf s3 r sel).2.2 →
            endsWith (.rbudget gd ga gb) s ((endBlockLease s3 x).modRegion r (fun g => setLimit g sel v)) gd 0))) ∧
      (∀ v, s2.me.reply = some (.val v) → writeG s2 gd v = .ok () t → exec (.resideReq gd ga gb) s = .next (t.retire 4)) ∧
      (entryExact s2 s2.me.region x y = none → writeG s2 gd 1 = .ok () t →
        (s2.me.reply = none → exec (.resideReq gd ga gb) s = .next (t.retire 4)) ∧
        exec (.resideRel gd ga gb) s = .next (t.retire 4)) ∧
      (∀ i e, entryExact s2 s2.me.region x y = some (i, e) →
        (s2.me.reply = none → e.st = 2 → writeG s2 gd 0 = .ok () t → exec (.resideReq gd ga gb) s = .next (t.retire 4)) ∧
        (s2.me.reply = none → e.st = 3 → writeG s2 gd 3 = .ok () t → exec (.resideReq gd ga gb) s = .next (t.retire 4)) ∧
        (s2.me.reply = none → e.st = 0 ∨ e.st = 1 → probeG s2 gd = .ok () t →
          exec (.resideReq gd ga gb) s =
            .next ((requestEntry (keepPops t s) (keepPops t s).me.region i).sleepFor (.reside i) x)) ∧
        endsWith (.resideRel gd ga gb) s (if e.st = 2 then endLeaseOn s2 s2.me.region i 0 false else s2) gd 0) ∧
      (writeG s2 gd (match entryAt s2 s2.me.region x with
          | none => 0xFF
          | some (i, e) => BitVec.ofNat 64 (16 * i + e.st.toNat)) = .ok () t →
        exec (.resideQry gd ga gb) s = .next (t.retire 4)) ∧
      (readG s2 gd = .ok w s3 → w.toNat % 8 = 0 → localRead s3 w 72 = .ok bs s4 →
        x.getLsbD 63 = false ∨ (w64At bs 64).toNat % 4 = 0 →
        isHere s4 (destDev x) = true → checkDest s4 x = .ok () s5 → checkWatch s5 w 72 true false = .ok () s6 →
        (16 ≤ (s6.core s6.myCore).alarms.length → writeG s6 gd 1 = .ok () t →
          exec (.atTime gd ga gb) s = .next (t.retire 4)) ∧
        ((s6.core s6.myCore).alarms.length < 16 →
          endsWith (.atTime gd ga gb) s (s6.modCore s6.myCore (fun k =>
            { k with alarms := k.alarms ++ [⟨y, s6.cur, s6.me.region, s6.me.ctx, x, w64At bs 64, bs.take 64⟩] })) gd 0))) ∧
    (x.toNat % 64 = 0 → sourceChecks s1 x x 64 false true = .ok () s2 → release s2 4 = .ok () s3 →
      loadRange s3 x 64 = .ok bs s4 →
      (∀ st, checkLaunch s4 s4.me.region 0 false bs = .error st → writeG s4 gd (BitVec.ofNat 64 st) = .ok () t →
        exec (.launch gd ga) s = .next (t.retire 4)) ∧
      (∀ l, checkLaunch s4 s4.me.region 0 false bs = .ok l → l.time = 0 ∨ s4.clockFaults = [] →
        endsWith (.launch gd ga) s (acceptLaunch s4 l) gd 0) ∧
      (∀ l, checkLaunch s4 s4.me.region 0 false bs = .ok l → l.time ≠ 0 → s4.clockFaults ≠ [] →
        ∃ u, exec (.launch gd ga) s = .next u ∧ u.me.status = .waiting .poll ∧ u.me.pc = s.me.pc ∧
          u.launches = s.launches)) ∧
    (x.toNat ≤ s1.time.toNat → writeG s1 gd s1.time = .ok () t → exec (.waitt gd ga) s = .next (t.retire 4)) ∧
    (s1.time.toNat < x.toNat → exec (.waitt gd ga) s = .next (s.sleepFor (.waitt x) 0)) ∧
    (s.me.region = 0 → x.toNat % 16 = 0 → loadRange s1 x 16 = .ok bs s2 →
      let part := (s2.core s2.myCore).part.toNat
      let near := (w64At bs 0).toNat < s2.time.toNat + 10000
      (near → writeG s2 gd 1 = .ok () t → exec (.gang gd ga) s = .next (t.retire 4)) ∧
      (¬ near → s2.clockFaults = [] → (∀ g ∈ s2.gangs, g.part ≠ part) →
        endsWith (.gang gd ga) s { s2 with gangs := s2.gangs ++ [⟨part, w64At bs 0,
          if (bs.getD 8 0).getLsbD 1 then some ((bs.getD 8 0).extractLsb' 4 2).toNat else none,
          if (bs.getD 8 0).getLsbD 0 then some ((bs.getD 8 0).extractLsb' 2 2).toNat else none, false⟩] } gd 0)) ∧
    (∀ v, s1.me.reply = some (.val v) → writeG s1 gd v = .ok () t → exec (.rdone gd ga) s = .next (t.retire 4)) ∧
    (s1.me.reply = none → x = 0 → writeG s1 gd 1 = .ok () t → exec (.rdone gd ga) s = .next (t.retire 4)) ∧
    (s1.me.reply = none → x ≠ 0 → blockChecks s1 x = .ok () s2 →
      (namedRegion s2 x = none → writeG s2 gd 2 = .ok () t → exec (.rdone gd ga) s = .next (t.retire 4)) ∧
      (∀ r u, namedRegion s2 x = some r →
        let own := isBelow s2 s2.me.region r 16384
        let me := waiterOf s2 s2.cur
        u = (if own then endRegion s2 r (some me) none else endRegion s2 r none (some me)) →
        let waits := u.endings.any (fun e => e.keep == some me || e.waiter == some me)
        (waits = false → own = true → exec (.rdone gd ga) s = .next u) ∧
        (waits = false → own = false → endsWith (.rdone gd ga) s u gd 0) ∧
        (waits = true → own = true ∨ probeG s2 gd = .ok () t → ∃ v, exec (.rdone gd ga) s = .next v ∧
          v.me.status = .waiting .reply)))

/-- What the scheduler, the clock and the gang switch do. A held launch starts when its conditions hold, each task at
its pc with its region; a lease is granted where its range is mapped, and released once its accesses are done, a lease
that the host has ended breaking the snapshots over its range (R309); a sleeper or alarm whose time has come goes on; a
switch out puts the slots of the context in their drawers, and a switch in brings them back where the drawer area is
large enough (R338, R340, R342 to R346). The clauses that rest on log entries 47, 50, 51, 55, 56, 70, 71, 111, 113 and
139 are the model's choice or reading. -/
def Obligations.RegionEvents : Prop :=
  (∀ (s : State) (l : Launch), s.launches = [l] →
    let u := { s with launches := [] }
    (startLaunch u l = none → exec (.launchPlacement 0) s = .next (requestEntries s l)) ∧
    (∀ t, startLaunch u l = some t → exec (.launchPlacement 0) s = .next t ∧
      isLive u l.region = true ∧ launchesRun u (u.region l.region).part = true ∧ l.time.toNat ≤ u.time.toNat ∧
      (mapGet u.resident (u.region l.region).part).getD 0 = (u.region l.region).ctx ∧
      (∀ e ∈ (u.region l.region).res.toList, l.ranges.any (touches u e) = true → e.st = 2) ∧
      t.launches = [] ∧ t.jhead = s.jhead + 1 ∧
      ∀ slots, planTasks u (u.region l.region).part ((imageList u l.limg).list.filter (fun e => e.len != 0)).length []
          l.ranges = some slots →
        slots.length = l.ranges.length ∧ ∀ i ∈ slots,
          (t.slot i).pc = l.pc ∧ (t.slot i).region = l.region ∧ (t.slot i).status = .ready)) ∧
  (∀ (s : State) (r i : Nat), i < 8 → isLive s r = true →
    ((s.region r).res[i % 8]'(Nat.mod_lt _ (by decide))).st = 1 →
    let e := (s.region r).res[i % 8]'(Nat.mod_lt _ (by decide))
    e.base.getLsbD 63 = false → devOf s e.base = 0x1FF →
    mapped s (vaOf e.base) e.len.toNat (e.len.toNat / 4096 + 2) = true → (∀ q ∈ s.resReqs, q = (r, i)) →
    ∃ t, exec (.residencyGrant r i) s = .next t ∧
      ((t.region r).res[i % 8]'(Nat.mod_lt _ (by decide))).st = 2 ∧
      ∀ j z, s.slots = [(j, s.slot j)] → (s.slot j).region = r → (s.slot j).status = .asleep z → z.kind = .reside i →
        (t.slot j).status = .ready ∧ (t.slot j).reply = some (.val 0)) ∧
  (∀ (s : State) (r i n : Nat) (b : Word) (host : Bool), s.leaseEnds = [⟨r, i, b, n, host⟩] →
    exec (.residencyRelease r i) s = .next (if accessing s r b n then s
      else if host then breakCovering { s with leaseEnds := [] } b n else { s with leaseEnds := [] })) ∧
  (∀ (s : State) (core i : Nat) (a : Alarm), (s.core core).alarms[i]? = some a →
    (a.time.toNat ≤ s.time.toNat → outgoing s core < 4 → a.dest.getLsbD 63 = false → s.flash = none → s.gangs = [] →
      ∃ t m, exec (.alarm core i) s = .next t ∧ (t.core core).alarms = dropAt (s.core core).alarms i ∧
        t.flights = s.flights ++ [.inbox m a.slot] ∧ m.payload = a.payload) ∧
    (s.time.toNat < a.time.toNat → exec (.alarm core i) s = .next s)) ∧
  (∀ (s : State) (slot : Nat) (z : Sleep) (x : Word), (s.slot slot).status = .asleep z → z.kind = .waitt x →
    x.toNat ≤ s.time.toNat → ∃ t, exec (.waittWake slot) s = .next t ∧ (t.slot slot).status = .ready ∧
      t = { s with slots := t.slots }) ∧
  (∀ (s : State) (g : Gang) (ctx i : Nat), s.gangs = [g] → g.outDone = false → g.time.toNat ≤ s.time.toNat →
    g.out = some ctx → (mapGet s.resident g.part).getD 0 = ctx → readyToSwitch s (partCores s g.part) ctx = true →
    s.flash = none → s.evals = [] → i < 8192 → (s.slot i).status ≠ .waiting .accept → waitsCheck s i = false →
    (s.slot i).ctx = ctx → ctxSlots s (partCores s g.part) ctx = [i] →
    ∃ t d, exec (.gangSwitchOut g.part) s = .next t ∧ mapGet t.resident g.part = some noContext ∧
      (t.slot i).status = .noTask ∧ mapGet t.drawers (8192 * ctx + i) = some d ∧ d.1.g = (s.slot i).g ∧
      d.1.pc = (s.slot i).pc ∧ t.gangs = if g.in_.isSome then [{ g with outDone := true }] else []) ∧
  (∀ (s : State) (g : Gang) (ctx d : Nat) (sl : Slot) (inbox : List InboxEntry), s.gangs = [g] → g.outDone = true →
    g.in_ = some ctx → s.drawers = [(d, sl, inbox)] → d / 8192 = ctx → coreOf (d % 8192) ∈ partCores s g.part →
    s.flash = none → s.snaps = [] → 8192 * (d % 8192) + 8192 ≤ (s.region sl.region).drwSize.toNat →
    ∃ t, exec (.gangSwitchIn g.part) s = .next t ∧ t.gangs = [] ∧ t.drawers = [] ∧
      mapGet t.resident g.part = some ctx ∧ (t.slot (d % 8192)).g = sl.g ∧ (t.slot (d % 8192)).pc = sl.pc ∧
      (t.slot (d % 8192)).status = sl.status)

namespace Sys2Proof.Machine

/-- The registers a slot's own fields and its core hold (R352, R354): number, kind, the bits that a write keeps, and the
value read. -/
def slotRegisters : List (BitVec 6 × CrKind × Word × (State → Word)) :=
  [(0x0A, .rw, 0x1F, fun s => s.me.cause.setWidth 64), (0x0B, .rw, BitVec.allOnes 64, fun s => s.me.tval),
   (0x09, .rw, BitVec.allOnes 64, fun s => s.me.epc), (0x0C, .rw, ~~~3#64, fun s => s.me.tvec),
   (0x0E, .rw, 0xFFFFFFFF, fun s => s.me.waitlim.setWidth 64), (0x10, .rw, 0xF, fun s => s.me.fmta.setWidth 64),
   (0x11, .rw, 0xF, fun s => s.me.fmtb.setWidth 64), (0x12, .rw, 0xF, fun s => s.me.fmtc.setWidth 64),
   (0x13, .rw, BitVec.allOnes 64, fun s => s.me.scla), (0x14, .rw, BitVec.allOnes 64, fun s => s.me.sclb),
   (0x15, .rw, BitVec.allOnes 64, fun s => s.me.sclc), (0x17, .rw, 1, fun s => boolWord s.me.round),
   (0x19, .rw, 1, fun s => boolWord s.me.migok), (0x1E, .rw, BitVec.allOnes 64, fun s => s.me.tscr),
   (0x1B, .sup, BitVec.allOnes 64, fun s => (s.core s.myCore).mslot), (0x38, .sup, 0x7FF, fun s => s.hgsel)]

/-- The registers of read-only fields and their values (R352, R353). -/
def readOnlyRegisters : List (BitVec 6 × (State → Word)) :=
  [(0x00, fun s => BitVec.ofNat 64 (s.cur % 8)), (0x01, fun s => BitVec.ofNat 64 (s.cur / 8)),
   (0x02, fun s => BitVec.ofNat 64 (clusterOf s (s.cur / 8))),
   (0x03, fun s => BitVec.ofNat 64 (dieOf s (s.cur / 8))), (0x04, fun s => s.dev.setWidth 64),
   (0x05, fun s => s.time), (0x06, fun s => BitVec.ofNat 64 s.me.region), (0x07, fun s => s.me.rcb),
   (0x08, fun s => (s.core s.myCore).part.setWidth 64), (0x0F, fun s => BitVec.ofNat 64 (s.core s.myCore).leaselen),
   (0x16, fun s => (s.core s.myCore).tabbase), (0x1A, fun s => BitVec.ofNat 64 (ringLen s s.myCore)),
   (0x0D, fun s => 0#61 ++ BitVec.ofBool (s.region s.me.region).debug ++ BitVec.ofBool (s.me.region == 0) ++
     BitVec.ofBool s.me.inh)]

end Sys2Proof.Machine

/-- Control registers. CRR reads; CRW writes ga, CRS sets its bits and CRC clears them, CRS and CRC with the old value
in gd; only the bits of the register's fields are kept. FLAGS is cleared by ones, but for the bits that completions
have set in the same cycle. A write to read-only fields changes nothing. An unassigned number is ILLEGAL, a supervisor
register PRIV for a user slot, both with the instruction word. A register of the device is written once its event has
come: RAF, HGDATA, TQNOTE, TQSTAT; of HGDATA, once no sharer holds what it read of a table line that leaves its slice
(R114, R236, R349 to R354, R363, R365, R368). The clauses that rest on log entries 37, 73, 85 and 136 are the model's
choice or reading. -/
def Obligations.ControlRegisters : Prop :=
  (∀ row ∈ slotRegisters, ∀ (s s1 t : State) (gd ga : Reg) (x : Word), row.2.1 = .rw ∨ s.me.region = 0 →
    crValue s row.1 = row.2.2.2 s ∧
    (writeG s gd (row.2.2.2 s) = .ok () t → exec (.crr gd row.1) s = .next (t.retire 4)) ∧
    (readG s ga = .ok x s1 → ∃ u1 u2 u3, exec (.crw ga row.1) s = .next (u1.retire 4) ∧
      row.2.2.2 u1 = x &&& row.2.2.1 ∧ u1.me.g = s1.me.g ∧ u1.mem = s1.mem ∧
      row.2.2.2 u2 = (row.2.2.2 s1 ||| x) &&& row.2.2.1 ∧ u2.me.g = s1.me.g ∧ u2.mem = s1.mem ∧
      endsWith (.crs gd ga row.1) s u2 gd (row.2.2.2 s1) ∧
      row.2.2.2 u3 = (row.2.2.2 s1 &&& ~~~x) &&& row.2.2.1 ∧ u3.me.g = s1.me.g ∧ u3.mem = s1.mem ∧
      endsWith (.crc gd ga row.1) s u3 gd (row.2.2.2 s1))) ∧
  (∀ row ∈ readOnlyRegisters, ∀ (s s1 t : State) (gd ga : Reg) (x : Word), crValue s row.1 = row.2 s ∧
    (writeG s gd (row.2 s) = .ok () t → exec (.crr gd row.1) s = .next (t.retire 4)) ∧
    (s.me.region = 0 → readG s ga = .ok x s1 → exec (.crw ga row.1) s = .next (s1.retire 4) ∧
      endsWith (.crs gd ga row.1) s s1 gd (row.2 s1) ∧ endsWith (.crc gd ga row.1) s s1 gd (row.2 s1)) ∧
    (s.me.region ≠ 0 → ∀ i ∈ [Instr.crw ga row.1, .crs gd ga row.1, .crc gd ga row.1],
      exec i s = .next (takeFault s .priv ((encodeScalar i).setWidth 64)))) ∧
  (∀ (s s1 : State) (ga : Reg) (x : Word), readG s ga = .ok x s1 → exec (.crw ga 0x18) s =
    .next ((s1.modMe (fun sl => { sl with
      flags := (sl.flags &&& ~~~(x.setWidth 3)) ||| flaggedNow s1 })).retire 4)) ∧
  (∀ (s : State) (gd ga : Reg) (cr : BitVec 6), cr = 0x1F ∨ 0x3A ≤ cr.toNat →
    ∀ i ∈ [Instr.crr gd cr, .crw ga cr, .crs gd ga cr, .crc gd ga cr],
      exec i s = .next (takeFault s .illegal ((encodeScalar i).setWidth 64))) ∧
  (∀ (s : State) (gd ga : Reg) (cr : BitVec 6), crKind cr = some .sup → s.me.region ≠ 0 →
    ∀ i ∈ [Instr.crr gd cr, .crw ga cr, .crs gd ga cr, .crc gd ga cr],
      exec i s = .next (takeFault s .priv ((encodeScalar i).setWidth 64))) ∧
  (∀ (s s1 : State) (ga : Reg) (i : Nat) (x : Word) (h : i < 8), s.me.region = 0 → readG s ga = .ok x s1 →
    x.extractLsb' 61 2 ≠ 3 → exec (.crw ga (BitVec.ofNat 6 (0x20 + i))) s =
      .next ((s1.modCore s1.myCore (fun k => { k with pw := k.pw.set i (x &&& ~~~63#64) })).retire 4)) ∧
  (∀ (s s1 : State) (ga : Reg) (cr : BitVec 6) (x : Word), s.me.region = 0 → crRemote cr = true →
    readG s ga = .ok x s1 →
    (s1.me.reply = none → exec (.crw ga cr) s =
      .next (({ keepPops s1 s with devWrites := s.devWrites ++ [⟨s.cur, cr, .write, x⟩] } : State).stall .reply)) ∧
    (∀ v, s1.me.reply = some (.val v) → exec (.crw ga cr) s = .next (s1.retire 4))) ∧
  (∀ (s : State) (w : DevWrite), s.devWrites = [w] → w.op = .write → (s.slot w.slot).status = .waiting .reply →
    (∀ i, i < 16 → w.cr = BitVec.ofNat 6 (0x28 + i) → ∃ t, exec (.rafWrite w.slot) s = .next t ∧ t.devWrites = [] ∧
      t.raf[i % 16]'(Nat.mod_lt _ (by decide)) = w.v &&& 0xE000FFFFFFFFF000 ∧
      (t.slot w.slot).reply = some (.val (s.raf[i % 16]'(Nat.mod_lt _ (by decide))))) ∧
    (w.cr = 0x39 → (leavingLines s).any (isShared s) = true → (hgGroup s).2 < 18 →
      ∃ t, exec (.hgdataWrite w.slot) s = .next t ∧ t.devWrites = [w] ∧ t.hg = s.hg) ∧
    (w.cr = 0x39 → (leavingLines s).any (isShared s) = false → (hgGroup s).2 < 18 → ∃ t, exec (.hgdataWrite w.slot) s = .next t ∧ t.devWrites = [] ∧
      hgdata t = w.v ∧ (t.slot w.slot).reply = some (.val (hgdata s))) ∧
    (w.cr = 0x1D → ∃ t, exec (.tqnoteWrite w.slot) s = .next t ∧ t.devWrites = [] ∧
      (noteOk s w.v = true → t.tqnote = w.v ∧ (t.slot w.slot).reply = some (.val s.tqnote)) ∧
      (noteOk s w.v = false → t.tqnote = s.tqnote ∧ (t.slot w.slot).reply = some (.fault .prot w.v))) ∧
    (w.cr = 0x1C → ∃ t, exec (.tqstatWrite w.slot) s = .next t ∧ t.devWrites = [] ∧ t.tq = s.tq ∧
      (w.v.getLsbD 63 = true → t.tqOvf = false ∧ t.tqLost = 0) ∧
      (w.v.getLsbD 63 = false → t.tqOvf = s.tqOvf ∧ t.tqLost = s.tqLost)))

/-- Taking an exception. EPC is the faulting instruction's pc, CAUSE its code and TVAL its value; where the region's
mask handles the cause and TVEC is not 0, INH is set and the pc goes to TVEC; a fault with INH set is DOUBLE, and it,
FATALHW and an unhandled fault park the slot and send one record, whose aux is the second cause or, of SHADOWFULL, the
TVAL (the snapshot's id for REJECT; else log entry 100). TRAP raises its cause, BKPT BKPT with its code, and ERET SELF
clears INH and goes to EPC, or is ILLEGAL outside a handler (R54, R355 to R359, R376). The clauses that rest on log
entries 59, 100 and 136 are the model's choice or reading. -/
def Obligations.Exceptions : Prop :=
  (∀ (s : State) (i : Nat) (c : Cause) (v : Word),
    let t := takeFaultOf s i c v
    (t.slot i).epc = (s.slot i).pc ∧ (t.slot i).tval = v ∧ (t.slot i).g = (s.slot i).g ∧
    (t.slot i).tvec = (s.slot i).tvec ∧ (t.slot i).flags = (s.slot i).flags ∧ (t.slot i).region = (s.slot i).region ∧
    (t.slot i).cause = (if (s.slot i).inh = true ∧ c ≠ .fatalhw then causeCode .double else causeCode c) ∧
    t.mem = s.mem ∧ t.regions = s.regions ∧ t.tq = s.tq ∧
    (c ≠ .fatalhw → (s.slot i).inh = false → handles (s.region (s.slot i).region) c = true → (s.slot i).tvec ≠ 0 →
      (t.slot i).pc = (s.slot i).tvec ∧ (t.slot i).inh = true ∧ (t.slot i).status = .ready ∧
      t.trapsInFlight = s.trapsInFlight) ∧
    (c = .fatalhw ∨ (s.slot i).inh = true ∨ handles (s.region (s.slot i).region) c = false ∨ (s.slot i).tvec = 0 →
      (t.slot i).pc = (s.slot i).pc ∧ (t.slot i).inh = (s.slot i).inh ∧ (t.slot i).status = .parked none ∧
      ∃ r, t.trapsInFlight = s.trapsInFlight ++ [r] ∧ r.kind = (if c = .fatalhw then 3 else 0) ∧
        r.cause = (t.slot i).cause ∧ r.epc = (s.slot i).pc ∧ r.tval = v ∧ r.slot = i ∧
        r.region = (s.slot i).region ∧ r.origin = 0 ∧ r.time = s.time ∧
        r.aux = (if (s.slot i).inh = true ∧ c ≠ .fatalhw then (causeCode c).setWidth 64
          else if c = .shadowfull then v else 0))) ∧
  (∀ (s s1 : State) (ga : Reg) (c : Cause) (v : Word), c ≠ .fatalhw → readG s ga = .ok v s1 →
    exec (.trap ga (causeCode c)) s = .next (takeFault s c v)) ∧
  (∀ (s : State) (ga : Reg) (cc : BitVec 5), causeOf cc = none ∨ cc = causeCode .fatalhw →
    exec (.trap ga cc) s = .next (takeFault s .illegal ((encodeScalar (.trap ga cc)).setWidth 64))) ∧
  (∀ (s : State) (code : BitVec 6), exec (.bkpt code) s = .next (takeFault s .bkpt (code.setWidth 64))) ∧
  (∀ s : State, (s.me.inh = true → ∃ t, exec .eretSelf s = .next t ∧ t.me.pc = s.me.epc ∧ t.me.inh = false ∧
      t.me.g = s.me.g ∧ t.me.epc = s.me.epc ∧ t.me.cause = s.me.cause ∧ t.me.tval = s.me.tval ∧
      t.me.flags = s.me.flags ∧ t.me.status = .ready ∧ t.mem = s.mem) ∧
    (s.me.inh = false →
      exec .eretSelf s = .next (takeFault s .illegal ((encodeScalar .eretSelf).setWidth 64)))) ∧
  (∀ (s s1 s2 : State) (gd ga gb : Reg) (n pc : Word), s.me.region = 0 → readG s ga = .ok n s1 →
    (readG s1 gb = .ok pc s2 →
      (parkedAt s2 n ≠ 0 → endsWith (.eretResume gd ga gb) s s2 gd (BitVec.ofNat 64 (parkedAt s2 n))) ∧
      (parkedAt s2 n = 0 → ∃ u, (u.slot n.toNat).status = .ready ∧ (u.slot n.toNat).inh = false ∧
        (u.slot n.toNat).pc = (if gb = 0 then (s2.slot n.toNat).epc else pc) ∧
        (u.slot n.toNat).g = (s2.slot n.toNat).g ∧ u.mem = s2.mem ∧
        (∀ r, (s2.slot n.toNat).status = .parked (some r) → u.trapsInFlight = s2.trapsInFlight ++ [r]) ∧
        endsWith (.eretResume gd ga gb) s u gd 0)) ∧
    (parkedAt s1 n ≠ 0 → endsWith (.eretEnd gd ga) s s1 gd (BitVec.ofNat 64 (parkedAt s1 n))) ∧
    (parkedAt s1 n = 0 → endsWith (.eretEnd gd ga) s (endTask s1 n.toNat) gd 0))

/-- A slot of region 0 is a supervisor slot, as TSTAT's bit 1 shows. A supervisor instruction, and every access to a
register of supervisor fields, raises PRIV in any other slot, with its word as TVAL and before anything else (R54,
R349). -/
def Obligations.PrivilegeChecks : Prop :=
  (∀ s : State, (tstat s).getLsbD 1 = (s.me.region == 0)) ∧
  ∀ (s : State) (gd ga gb : Reg) (cr : BitVec 6), s.me.region ≠ 0 →
    (crKind cr = some .sup → ∀ i ∈ [Instr.crr gd cr, .crw ga cr, .crs gd ga cr, .crc gd ga cr],
      exec i s = .next (takeFault s .priv ((encodeScalar i).setWidth 64))) ∧
    ∀ i ∈ [Instr.eretResume gd ga gb, .eretEnd gd ga, .tqpop gd ga, .tlbinvRange gd ga gb, .tlbinvAll gd,
        .tlbinvReplay gd ga gb, .gang gd ga, .xtrigHalt gd ga, .xtrigResume gd ga, .xtrigQuery gd ga,
        .tracewStart gd ga gb, .tracewStop gd ga gb, .tracewDump gd ga gb, .flash gd ga gb],
      exec i s = .next (takeFault s .priv ((encodeScalar i).setWidth 64))

/-- The instructions of the trap queue, the translations, enumeration and debugging. TQPOP moves the oldest record's 64
bytes to local memory, a scratchpad's once its banks have served it, or answers 1; TLBINV drains, answers 0 where no
sharer holds a translation, and otherwise waits for them all; TLBINV REPLAY answers 1 for a seq of no parked access;
NOP only advances; WATCH sets a watchpoint; XTRIG halts, resumes and reports clusters; TRACEW starts and stops a
mirror, and dumps it: the slot sleeps while the image's rows are written, and has 0 after the last, what an image holds
of no cycle being free (log entry 110); FLASH arms the one flash; ENUM reads its table (R38, R364, R369, R370, R377,
R379, R382, R383, R388). The clauses that rest on log entries 38, 61, 62, 102, 110 and 136 are the model's choice or
reading. -/
def Obligations.SystemInstructions : Prop :=
  (∀ s : State, exec .nop s = .next (s.retire 4)) ∧
  ∀ (s s1 s2 s3 s5 p t : State) (gd ga gb : Reg) (x y z : Word),
    (readG s ga = .ok x s1 → writeG s1 gd (enumEntry s1 x) = .ok () t → exec (.enum gd ga) s = .next (t.retire 4)) ∧
    (readG s ga = .ok x s1 → readG s1 gb = .ok y s2 → ∀ kind : BitVec 2,
      exec (.watch ga gb kind false) s =
        .next ((s2.modMe (fun sl => { sl with wp0 := ⟨if y = 0 then 0 else kind, x, y⟩ })).retire 4) ∧
      exec (.watch ga gb kind true) s =
        .next ((s2.modMe (fun sl => { sl with wp1 := ⟨if y = 0 then 0 else kind, x, y⟩ })).retire 4)) ∧
    (s.me.region = 0 →
      (readG s ga = .ok x s1 → bankStored s1 = true → endsWith (.tqpop gd ga) s (acquire (bankOver s1) 4) gd 0) ∧
      (readG s ga = .ok x s1 → bankStored s1 = false → x.toNat % 64 = 0 → ∀ key, localKey s1 x 64 .store = .ok key s2 →
        (s2.tq = [] → writeG s2 gd 1 = .ok () t → exec (.tqpop gd ga) s = .next (t.retire 4)) ∧
        (∀ r rest, s2.tq = r :: rest → checkWatch s2 x 64 false true = .ok () s3 →
          bankFree s3 s3.myCore key 64 = true → (recordBytes r).length = 64 ∧
          (inBanks key = false →
            endsWith (.tqpop gd ga) s (acquire (bankWrite { s3 with tq := rest } key (recordBytes r)) 4) gd 0) ∧
          (inBanks key = true → bankDone s3 key 64 false = none → exec (.tqpop gd ga) s =
            .next { askBanks s3 key 64 (some (x, recordBytes r)) true s with tq := rest }))) ∧
      (∀ v, s.me.reply = some v →
        (writeG s gd 0 = .ok () t → exec (.tlbinvAll gd) s = .next (t.retire 4)) ∧
        (readG s ga = .ok x s1 → readG s1 gb = .ok y s2 → writeG s2 gd 0 = .ok () t →
          exec (.tlbinvRange gd ga gb) s = .next (t.retire 4))) ∧
      (s.me.reply = none → waitDrained s = .ok () s1 →
        ((∀ e ∈ s1.lines, e.2.sharers = []) → s1.invals = [] → probeG s1 gd = .ok () p → writeG p gd 0 = .ok () t →
          exec (.tlbinvAll gd) s = .next (t.retire 4)) ∧
        ((∃ e ∈ s1.lines, e.2.sharers ≠ []) ∨ s1.invals ≠ [] → probeG s1 gd = .ok () p →
          exec (.tlbinvAll gd) s = .next ((sendInvalidates (keepPops p s) s.cur (fun _ => true)).stall .reply)) ∧
        (readG s1 ga = .ok x s2 → readG s2 gb = .ok y s3 → x.toNat % 4096 = 0 → y.toNat % 4096 = 0 →
          x.getLsbD 63 = false → devOf s3 x = 0x1FF → probeG s3 gd = .ok () p →
          let ls := rangeLines s3 (vaOf x) (vaOf x + y.toNat)
          ((∀ e ∈ s3.lines, ls.contains e.1 = true → e.2.sharers = []) →
            (∀ v ∈ s3.invals, ls.contains v.line = false) → writeG p gd 0 = .ok () t →
            exec (.tlbinvRange gd ga gb) s = .next (t.retire 4)) ∧
          ((∃ e ∈ s3.lines, ls.contains e.1 = true ∧ e.2.sharers ≠ []) ∨
            (∃ v ∈ s3.invals, ls.contains v.line = true) →
            exec (.tlbinvRange gd ga gb) s =
              .next ((sendInvalidates (keepPops p s) s.cur (fun l => ls.contains l)).stall .reply)))) ∧
      (readG s ga = .ok x s1 → readG s1 gb = .ok y s2 →
        (waitDrained s2 = .ok () s3 →
          (s3.faultBuf = [] → writeG s3 gd 1 = .ok () t → exec (.tlbinvReplay gd ga gb) s = .next (t.retire 4)) ∧
          (∀ p q, s3.faultBuf = [p] → p.seq = some q → q.setWidth 64 = x →
            (y.getLsbD 0 = true ∨ p.since.toNat + max s3.policy.replayLimit 100000 ≤ s3.time.toNat →
              endsWith (.tlbinvReplay gd ga gb) s (remoteFault { s3 with faultBuf := [] } p.acc .xlate) gd 0) ∧
            (y.getLsbD 0 = false → s3.time.toNat < p.since.toNat + max s3.policy.replayLimit 100000 →
              ∀ u, remoteTry { s3 with faultBuf := [] } p.acc = some u → endsWith (.tlbinvReplay gd ga gb) s u gd 0))) ∧
        (let cl := (x.extractLsb' 0 6).toNat
        let m := mirrorOf s2 cl
        (isRecording s2 m = true →
          (writeG s2 gd 1 = .ok () t → exec (.tracewStart gd ga gb) s = .next (t.retire 4)) ∧
          endsWith (.tracewStop gd ga gb) s { s2 with mirrors := mapPut s2.mirrors cl (if y = 0 then
              { m with recording := false } else { m with stopAt := some (s2.cycle + y.toNat) }) } gd 0 ∧
          (s2.me.reply = none → traceArea s2 y 4096 mirrorBytes = .ok () s2 → writeG s2 gd 1 = .ok () t →
            exec (.tracewDump gd ga gb) s = .next (t.retire 4))) ∧
        (isRecording s2 m = false →
          endsWith (.tracewStart gd ga gb) s
            { s2 with mirrors := mapPut s2.mirrors cl ⟨true, s2.cycle + 1, none, []⟩ } gd 0 ∧
          (writeG s2 gd 1 = .ok () t → exec (.tracewStop gd ga gb) s = .next (t.retire 4)) ∧
          (s2.me.reply = none → traceArea s2 y 4096 mirrorBytes = .ok () s2 → probeG s2 gd = .ok () p →
            s.me.status = .ready → ∃ u, exec (.tracewDump gd ga gb) s = .next u ∧ u.me.pc = s.me.pc ∧ u.me.g = s.me.g ∧
              u.dumps = s.dumps ++ [⟨waiterOf s s.cur, s.me.region, y + 64, (m.cycles.map Prod.snd).reverse, 65536⟩] ∧
              u.mem = (ioPut (keepPops p s) s.who y (mirrorHead m)).mem ∧ (∃ z, u.me.status = .asleep z ∧ z.kind = .dump))) ∧
        (∀ v, s2.me.reply = some (.val v) →
          writeG (endRange s2 s2.myCore y (BitVec.ofNat 64 (64 + 9437184))) gd v = .ok () t →
          exec (.tracewDump gd ga gb) s = .next (t.retire 4))) ∧
        (readG s2 gd = .ok z s3 → traceArea s3 y 2048 131072 = .ok () s5 →
          (∀ f, s5.flash = some f → writeG s5 gd 1 = .ok () t → exec (.flash gd ga gb) s = .next (t.retire 4)) ∧
          (s5.flash = none → x.toNat ≤ s5.time.toNat → writeG s5 gd 2 = .ok () t →
            exec (.flash gd ga gb) s = .next (t.retire 4)) ∧
          (s5.flash = none → s5.time.toNat < x.toNat → s5.clockFaults = [] →
            endsWith (.flash gd ga gb) s { s5 with flash := some ⟨x, y, z, s5.cur, s5.me.region⟩ } gd 0))) ∧
      (readG s ga = .ok x s1 →
        let cl := (x.extractLsb' 0 6).toNat
        (cl ∈ s1.halted →
          (writeG s1 gd 1 = .ok () t → exec (.xtrigHalt gd ga) s = .next (t.retire 4)) ∧
          endsWith (.xtrigResume gd ga) s { s1 with halted := s1.halted.filter (fun c => c != cl) } gd 0) ∧
        (cl ∉ s1.halted →
          (∀ u : State, u = { s1 with
              halted := s1.halted ++ [cl],
              mirrors := if (mirrorOf s1 cl).recording then
                mapPut s1.mirrors cl { mirrorOf s1 cl with recording := false } else s1.mirrors } →
            endsWith (.xtrigHalt gd ga) s u gd 0) ∧
          (writeG s1 gd 1 = .ok () t → exec (.xtrigResume gd ga) s = .next (t.retire 4))) ∧
        (∃ m : Word, (∀ n, n < 64 → (m.getLsbD n = true ↔ n ∈ s1.halted)) ∧
          (writeG s1 gd m = .ok () t → exec (.xtrigQuery gd ga) s = .next (t.retire 4)))))

/-- What the units of the device do for traps, translations, other devices, mirrors and the flash. A record waits for
the writes its origin made before it and for that origin's held records that there is room for, then enters the trap
queue under the next sequence number while there is room, an imprecise one is counted lost otherwise, and a held one
enters later; a sharer drops what it derived from a table line; an error poisons its line with a record; another
device's access is carried out, a load answered with the line as its home answers one of this device, parked with a
record, or withdrawn, and a parked one fails at the replay limit; a dump writes row after row; a delayed stop ends a
mirror's recording; the pulse disarms the flash (R360, R361, R364, R368 to R371, R382, R384). The clauses that rest on
log entries 45, 46, 59, 101 and 110 are the model's choice or reading. -/
def Obligations.SystemEvents : Prop :=
  (∀ (s : State) (r : TrapRec), s.trapsInFlight = [r] → originWrites s r = true ∨ heldBefore s r = true →
    exec (.trapRecordAppend 0) s = .next s) ∧
  (∀ (s : State) (r : TrapRec), s.trapsInFlight = [r] → originWrites s r = false →
    (r.kind ≠ 3 → s.tq.length < 4094 → s.tqnote = 0 → heldBefore s r = false → ∃ t, exec (.trapRecordAppend 0) s = .next t ∧
      t.trapsInFlight = [] ∧ t.tq = s.tq ++ [{ r with seq := s.tqSeq }] ∧
      t.tqSeq = (if s.tqSeq = 0xFFFFFFFF then 1 else s.tqSeq + 1) ∧ t.mem = s.mem ∧ t.tqLost = s.tqLost) ∧
    (r.kind = 1 → 4094 ≤ s.tq.length → exec (.trapRecordAppend 0) s = .next { s with
      trapsInFlight := [], tqLost := if s.tqLost = 0xFFFF then 0xFFFF else s.tqLost + 1, tqOvf := true }) ∧
    (r.kind = 0 → 4094 ≤ s.tq.length → (s.slot r.slot).status = .parked none →
      ∃ t, exec (.trapRecordAppend 0) s = .next t ∧ t.trapsInFlight = [] ∧ t.tq = s.tq ∧
        (t.slot r.slot).status = .parked (some r))) ∧
  (∀ (s : State) (i : Nat) (sl : Slot) (r : TrapRec), s.slots = [(i, sl)] → sl.status = .parked (some r) →
    s.drawers = [] → s.faultBuf = [] → r.kind ≠ 3 → s.tqnote = 0 →
    (s.tq.length < 4094 → ∃ t, exec (.heldRecordAppend 0) s = .next t ∧ (t.slot i).status = .parked none ∧
      t.tq = s.tq ++ [{ r with seq := s.tqSeq }]) ∧
    (4094 ≤ s.tq.length → exec (.heldRecordAppend 0) s = .next s)) ∧
  (∀ (s : State) (b l slot : Nat), s.invals = [⟨b, l, waiterOf s slot, none⟩] → (s.slot slot).status = .waiting .reply →
    s.loads = [] → s.atoms = [] → s.copies = [] → (∀ c ∈ s.cores, c.2.sbuf = []) → (∀ e ∈ s.slots, e.2.push = none) → ∃ t, exec (.sharerInvalidate b l) s = .next t ∧
      t.invals = [] ∧ (t.slot slot).status = .ready ∧ (t.slot slot).reply = some (.val 0) ∧ t.mem = s.mem ∧
      pagesOf t b l = []) ∧
  (∀ (s : State) (l : Nat), ∃ t r, exec (.linePoison l) s = .next t ∧ (t.line l).poison = true ∧ t.mem = s.mem ∧
    t.trapsInFlight = s.trapsInFlight ++ [r] ∧ r.kind = 1 ∧ r.cause = causeCode .poison ∧ r.origin = 6 ∧
    r.tval = BitVec.ofNat 64 (l * 128)) ∧
  (∀ (s : State) (l : Nat), (∃ t, exec (.uncorrectableError (.sharerBitmap l)) s = .next t ∧
      (t.line l).sharers = List.range 1154 ∧ (t.line l).poison = (s.line l).poison ∧ t.mem = s.mem) ∧
    ∃ t r, exec (.uncorrectableError .directory) s = .next t ∧ t = { s with trapsInFlight := s.trapsInFlight ++ [r] } ∧
      r.kind = 3 ∧ r.cause = causeCode .fatalhw) ∧
  (∀ (s : State) (a : RemoteAccess), a.kind ≠ .withdraw → s.outOfService = false →
    let s' := (walk s .east (vaOf a.va)).2
    (∀ t, remoteTry s a = some t → exec (.remoteAccessArrival a) s = .next t) ∧
    (remoteTry s a = none → 64 ≤ s.faultBuf.length → (∀ o w c, a.kind ≠ .update o w c) → exec (.remoteAccessArrival a) s =
        .next { s' with outbox := s'.outbox ++ [.reply a.dev a.slot (.fault .xlate)] }) ∧
    (remoteTry s a = none → s.faultBuf.length < 64 → ∃ t r, exec (.remoteAccessArrival a) s = .next t ∧
      t.faultBuf = s.faultBuf ++ [⟨a, r, none, s.time⟩] ∧ t.trapsInFlight = s.trapsInFlight ++ [r] ∧ r.kind = 2 ∧
      r.cause = causeCode .xlate ∧ r.origin = 8 ∧ r.dev = a.dev ∧ t.outbox = s.outbox ∧ t.mem = s.mem)) ∧
  (∀ (s : State) (a : RemoteAccess), a.kind = .withdraw → ∃ t, exec (.remoteAccessArrival a) s = .next t ∧
    t.faultBuf = s.faultBuf.filter (fun p => !(p.acc.dev == a.dev && p.acc.slot == a.slot)) ∧ t.mem = s.mem ∧
    mapGet t.slots (guestSlot a) = none) ∧
  (∀ (s : State) (a : RemoteAccess) (n p h : Nat) (strong : Bool) (v : Option (BitVec 48)) (leaf : Word) (bits : Nat)
    (s1 : State),
    a.kind = .load n strong v → s.outOfService = false → leafFor s .east (vaOf a.va) = .ok ((leaf, bits), s1) →
    p = frameOf leaf bits (vaOf a.va) → homeOf s1 (leaf.extractLsb' 44 12) p = some h →
    (inJournal s1 p n = true → exec (.remoteAccessArrival a) s =
      .next { s1 with outbox := s1.outbox ++ [.reply a.dev a.slot (.fault .outside)] }) ∧
    (inJournal s1 p n = false → leafPermits leaf .load = false ∨ (a.debug = true ∧ inShadowPool s1 (normAddr s1 a.va) n = true) →
      exec (.remoteAccessArrival a) s =
        .next { s1 with outbox := s1.outbox ++ [.reply a.dev a.slot (.fault .prot)] }) ∧
    (inJournal s1 p n = false → leafPermits leaf .load = true → strong = false → a.look = false → (s1.line (p / 128)).slice = some h →
      (a.debug = false ∨ inShadowPool s1 (normAddr s1 a.va) n = false) →
      inShadowPool s1 (lineAddr s1 (normAddr s1 a.va)) 128 = false →
      inStaging s1 (lineAddr s1 (normAddr s1 a.va)) 128 = false →
      let bs := readBytes s1.mem (p / 128 * 128) 128
      exec (.remoteAccessArrival a) s = .next { s1 with
        outbox := s1.outbox ++ [.line a.dev a.slot ⟨if v = some (s1.line (p / 128)).version then none else some bs,
          (s1.line (p / 128)).poison, (s1.line (p / 128)).version, bs, none⟩] })) ∧
  (∀ (s : State) (p : ParkedAccess), s.faultBuf = [p] →
    (p.since.toNat + max s.policy.replayLimit 100000 ≤ s.time.toNat → exec (.xlateReplayTimeout 0) s =
      .next (remoteFault { s with faultBuf := [] } p.acc .xlate)) ∧
    (s.time.toNat < p.since.toNat + max s.policy.replayLimit 100000 → exec (.xlateReplayTimeout 0) s = .next s)) ∧
  (∀ (s : State) (d : Dump) (ds : List Dump) (r : List Word) (rest : List (List Word)) (n : Nat), s.dumps = d :: ds →
    d.left = n + 1 → d.rows = r :: rest →
    let u := ioPut s ⟨coreOf d.who.slot, d.who.slot, d.region⟩ d.at_ (r.flatMap (bytesOf 8))
    dumpRow s = { u with dumps := { d with at_ := d.at_ + 144, rows := rest, left := n } :: ds }) ∧
  (∀ (s : State) (d : Dump) (z : Sleep), s.dumps = [d] → d.left = 0 → (s.slot d.who.slot).status = .asleep z →
    z.kind = .dump → waiterOf s d.who.slot = d.who → (dumpRow s).dumps = [] ∧
      ((dumpRow s).slot d.who.slot).status = .ready ∧ ((dumpRow s).slot d.who.slot).reply = some (.val 0)) ∧
  (∀ (s : State) (cl c : Nat), (mirrorOf s cl).recording = true → (mirrorOf s cl).stopAt = some c → c ≤ s.cycle →
    ∃ t, exec (.traceStop cl) s = .next t ∧ (mirrorOf t cl).recording = false ∧
      (mirrorOf t cl).cycles = (mirrorOf s cl).cycles ∧ t.mem = s.mem) ∧
  (∀ (s : State) (f : Flash), s.flash = some f →
    (f.time.toNat ≤ s.time.toNat → ∃ t, exec .flashPulse s = .next t ∧ t.flash = none) ∧
    (s.time.toNat < f.time.toNat → exec .flashPulse s = .next s))

/-- The module's life. A core that fails, in service or in its self-check, ends its tasks; the first free spare takes
its id over, or the id is retired; the failure is in the journal and the enumeration table. A clock fault ends every
lease, shelf and cupboard entry; joining a domain takes its number and its time; power-on and reset leave the state of
reset but for what outlives them, of a reset that the power outlives also the journal and what is counted from power-on
(log entry 107); a narrower link and a module that joins or leaves are noted, and traffic to one that has left is
answered FATALHW; the loss of a link ends every task and takes the device out of service, traffic whose way cannot lead
over the link staying, and of the rest a free part (log entry 108) (R11, R17, R18, R21, R26, R27, R331, R386, R387).
The clauses that rest on log entries 6, 63, 64, 65, 94, 95, 107 and 108 are the model's choice or reading. -/
def Obligations.ModuleEvents : Prop :=
  (∀ (s : State) (c : Nat), isLiveCore s c = true → ∃ t, exec (.coreFail c) s = .next t ∧
    exec (.builtInSelfCheck c true) s = .next t ∧ mapGet t.failed (physOf s c) = some c ∧
    (s.endings = [] → t.jhead = s.jhead + 1) ∧ t.enumGen = s.enumGen + 1 ∧
    (∀ p ps, freeSpares s (clusterOf s c) = p :: ps → mapGet t.takeover c = some p ∧ t.retired = s.retired) ∧
    (freeSpares s (clusterOf s c) = [] → t.retired = s.retired ++ [c] ∧ t.takeover = s.takeover) ∧
    ∀ j, coreOf j = c → (t.slot j).status = .noTask) ∧
  (∀ (s : State) (c : Nat), exec (.builtInSelfCheck c false) s = .next s ∧
    (isLiveCore s c = false → exec (.coreFail c) s = .next s)) ∧
  (∀ (s : State) (die : Nat), (die ∈ s.clockFaults → exec (.clockFault die) s = .next s) ∧
    (die ∉ s.clockFaults → ∃ t, exec (.clockFault die) s = .next t ∧ t.clockFaults = s.clockFaults ++ [die] ∧
      t.shelf = [] ∧ t.cupboard = [] ∧ t.jhead = s.jhead + 1 ∧ t.slots = s.slots ∧
      ∀ c, ∀ l ∈ (t.core c).cache, l.live = false) ∧
    exec (.clockFaultClear die) s = .next { s with clockFaults := s.clockFaults.filter (fun d => d != die) }) ∧
  (∀ (s : State) (dev : BitVec 9) (x : Word), dev.toNat < 432 → ∃ t, exec (.domainJoin dev x) s = .next t ∧
    t.dev = dev ∧ t.time = (if s.time.toNat < x.toNat then x else s.time) ∧ t.timeHold = s.time.toNat - x.toNat ∧
    t.jhead = s.jhead + 1 ∧ t.slots = s.slots) ∧
  (∀ s : State, let t := { State.reset with
      agenda := s.agenda, freeCtr := s.freeCtr, fwMinSvn := s.fwMinSvn, present := s.present,
      grade := s.grade, nonlive := s.nonlive, defect := s.defect }
    exec .powerOn s = .next t ∧ ∀ ok, exec (.moduleReset ok) s = .next { t with
      outOfService := !ok, linkWidth := if ok = true then State.reset.linkWidth else s.linkWidth
      mem := s.mem.filter (fun c => decide (s.jbase.toNat < c.1 + 1) && decide (c.1 < s.jbase.toNat + journalSize))
      jbase := s.jbase, jhead := s.jhead, disc := s.disc, rfcnt := s.rfcnt, refusals := s.refusals, tqSeq := s.tqSeq
      snapSerial := s.snapSerial, collCounts := s.collCounts, cycle := s.cycle }) ∧
  (∀ (s : State) (l : Nat) (w : BitVec 2), l < 14 → ((mapGet s.linkWidth l).getD 0).toNat < w.toNat → w.toNat ≤ 2 →
    exec (.linkWidthChange l w) s =
      .next { s with linkWidth := mapPut s.linkWidth l w, enumGen := s.enumGen + 1 }) ∧
  (∀ (s : State) (l : Nat), (14 ≤ l → exec (.linkLoss l) s = .next s) ∧
    (l < 14 → ∃ t, exec (.linkLoss l) s = .next t ∧ t.outOfService = true ∧ t.faultBuf = [] ∧
      ∀ j, isLiveCore s (coreOf j) = true → (t.slot j).status = .noTask)) ∧
  (∀ (s : State) (l : Nat) (ends : Flight → Nat × Nat) (fs : List Flight),
    (keepOff l ends s fs).1.Sublist fs ∧ (keepOff l ends s fs).2.mem = s.mem ∧
    ∀ f ∈ fs, leadsOver l (ends f).1 (ends f).2 = false → f ∈ (keepOff l ends s fs).1) ∧
  (∀ (s : State) (dev : BitVec 9), dev.toNat < 432 → dev ≠ s.dev →
    exec (.moduleRemoval dev true) s =
      .next { s with present := s.present.filter (fun d => d != dev.toNat) ++ [dev.toNat] } ∧
    (∃ t, exec (.moduleRemoval dev false) s = .next t ∧ t.present = s.present.filter (fun d => d != dev.toNat)) ∧
    (∀ o i a, s.outbox = [o] →
      (∃ op look, o = .atom i a op look ∧ devOf s a = dev) ∨ (∃ r, o = .row r dev.toNat ∧ i = r.slot ∧ a = r.dw) ∨
        (∃ p, o = .post p dev.toNat ∧ i = p.slot ∧ a = p.blk.setWidth 64) ∨
        (∃ p, o = .advert p dev.toNat ∧ i = p.slot ∧ a = p.blk.setWidth 64) →
      (s.slot i).status = .waiting .reply ∨ (∃ z, (s.slot i).status = .asleep z) →
      ∃ t, exec (.moduleRemoval dev false) s = .next t ∧ t.outbox = [] ∧ (t.slot i).status = .ready ∧
        (t.slot i).reply = some (.fault .fatalhw a)) ∧
    (∀ o i a, s.outbox = [o] → (∃ bs, o = .write i a bs ∧ devOf s a = dev) ∨
        (a = 0 ∧ ∃ p, o = .coll p i dev.toNat) →
      ∃ t r, exec (.moduleRemoval dev false) s = .next t ∧ t.outbox = [] ∧ t.trapsInFlight = s.trapsInFlight ++ [r] ∧
        r.kind = 3 ∧ r.cause = causeCode .fatalhw ∧ r.tval = a))

namespace Sys2Proof.Machine

/-- The tile commands: the constructor, what the op accepts, and its engine and op as w0 codes them (R37, R41). -/
def tileRows : List ((TileWords → Instr) × OpSpec) :=
  [(.mma, mmaSpec 0), (.mmar, mmaSpec 1), (.rot, rotSpec), (.zacc, zaccSpec),
   (.tadd, vectorSpec 0), (.tsub, vectorSpec 1), (.tmul, vectorSpec 2), (.tfma, vectorSpec 3), (.tmax, vectorSpec 4),
   (.tmin, vectorSpec 5), (.texp, vectorSpec 6), (.trcp, vectorSpec 7), (.trsq, vectorSpec 8), (.tsilu, vectorSpec 9),
   (.tgelu, vectorSpec 0x0A), (.tcmp, vectorSpec 0x0B), (.tsel, vectorSpec 0x0C), (.ttrn, vectorSpec 0x0D),
   (.tred, vectorSpec 0x0E), (.tbcast, vectorSpec 0x0F), (.tfill, vectorSpec 0x10), (.combine, vectorSpec 0x11)]

/-- See tileRows. -/
def otherTileRows : List ((TileWords → Instr) × OpSpec) :=
  [(.ldtab, convertSpec 0), (.cvt, convertSpec 1), (.qnt, convertSpec 2), (.dqt, convertSpec 3),
   (.amax, convertSpec 4), (.scl, convertSpec 5), (.copy, copySpec 0), (.gather, copySpec 1), (.scatter, copySpec 2),
   (.coll, collSpec)]

end Sys2Proof.Machine

/-- Issue of every tile command: where a word breaks the op's rules it is ILLEGAL, with the lowest such word and its
number as TVAL; with its queue full it waits; otherwise the operands in mode 10 are captured from their registers, in
the order a, b, c, shape record, and the command goes to the end of the queue that w0's bit 13 names, with the format,
scale and rounding registers as they stand, a copy joining the slot's open batch; the pc moves past its 32 bytes (R32,
R46, R49, R54, R235, R287). The clauses that rest on log entry 39 are the model's choice or reading. -/
def Obligations.TileIssue : Prop :=
  ∀ row ∈ tileRows ++ otherTileRows, ∀ (s s1 s2 s3 s4 : State) (w : TileWords) (v1 v2 v3 v6 : Word),
    let f := formats w s.me.fmta s.me.fmtb s.me.fmtc
    let bad := badWord w row.2 false f (ringLen s s.myCore)
    let queue := fun (k : Core) => if w.w0.getLsbD 13 then k.qp else k.qn
    (∀ i, bad = some i → exec (row.1 w) s = .next (takeFault s .illegal ((BitVec.ofNat 3 i ++ w.word i).setWidth 64))) ∧
    (bad = none → 32 ≤ (queue (s.core s.myCore)).length → exec (row.1 w) s = .next (s.stall .poll)) ∧
    (bad = none → (queue (s.core s.myCore)).length < 32 →
      capture s w 1 true = .ok v1 s1 → capture s1 w 2 true = .ok v2 s2 → capture s2 w 3 true = .ok v3 s3 →
      capture s3 w 6 (w.smode == 1) = .ok v6 s4 →
      ∃ (u : State) (c : TileCmd), exec (row.1 w) s = .next (u.retire 32) ∧ queue (u.core s4.myCore) = queue (s4.core s4.myCore) ++ [c] ∧
        c.words = w ∧ c.v1 = v1 ∧ c.v2 = v2 ∧ c.v3 = v3 ∧ c.v6 = v6 ∧ (c.fa, c.fb, c.fc) = f ∧ c.slot = s4.cur ∧
        c.region = s4.me.region ∧ c.at_ = s.me.pc ∧ c.scla = s4.me.scla ∧ c.sclb = s4.me.sclb ∧
        c.sclc = s4.me.sclc ∧ c.round = s4.me.round ∧ c.batch = (if row.2.engine = .copy then some s4.me.batchId else none) ∧
        u.me.g = s4.me.g ∧ u.me.pc = s4.me.pc ∧ u.mem = s4.mem ∧
        u.me.batchPending = s4.me.batchPending + (if row.2.engine = .copy then 1 else 0))

/-- How engines take and complete tile commands. A scan takes the oldest ready command of the priority queue, and after
eight of those in a row the normal queue's first. A command of the vector or conversion unit is executed whole as it is
taken, one that faults with one record of its engine; ZACC zeroes the accumulators that aux names and no other; a copy
goes row by row, each in beats of 128 bytes, stands at its row while a switch-out is due and at its beat on a halted
cluster; a collective is taken by its unit, counted on its staging area; a matrix command runs block by block and hands
the ring latch on. Completion adds one to the command's counter, that of the saved context where its context is
switched out, sets its FLAGS where it did not fault, and takes it off its batch; a collective that waits too long ends
with WAITLONG, and one whose partner's command differs with ILLEGAL in debug mode; a partial result joins the
collective of its number on its staging area (log entry 137), and waits for one that has not started here (R48, R50,
R53, R236, R253, R255, R257, R282, R284 to R287, R327, R330). The clauses that rest on log entries 41, 42, 86, 87 and
134 are the model's choice or reading. -/
def Obligations.EngineEvents : Prop :=
  (∀ (s : State) (core prio : Nat) (e : Engine) (c d : TileCmd) (cs ds : List TileCmd), (s.core core).qp = c :: cs →
    (s.core core).qn = d :: ds →
    (∀ x, x = c ∨ x = d → engineOf x.words = e ∧ ringReady (s.core core) x = true ∧ tableFree (s.core core) x = true ∧
      testTrigger s core x = (true, x, s)) →
    let x := takeCmd s core e (fun _ => true) prio
    (prio < 8 → x.1 = some (c, true) ∧ ((unqueue x.2 core c true).core core).qp = cs ∧
      ((unqueue x.2 core c true).core core).qn = d :: ds) ∧
    (8 ≤ prio → x.1 = some (d, false) ∧ ((unqueue x.2 core d false).core core).qn = ds ∧
      ((unqueue x.2 core d false).core core).qp = c :: cs)) ∧
  (∀ (s s1 s2 : State) (core : Nat) (c : TileCmd) (p : Bool) (fl : BitVec 3), trigFault c = none →
    let u := unqueue s1 core c p
    (mayDispatch s core .vector = true → (s.core core).vector.run = none →
      takeCmd s core .vector (fun _ => true) (s.core core).vector.prio = (some (c, p), s1) →
      (vectorWork u c = .blocked → exec (.tileDispatch .vector core) s = .next s1) ∧
      (vectorWork u c = .ok fl s2 → exec (.tileDispatch .vector core) s = .next (s2.modCore core (fun k => { k with
        vector := ⟨some (ranWhole c none fl), prioAfter (s.core core).vector.prio p⟩ }))) ∧
      (∀ e a n, vectorWork u c = .fault e a n → harmWaits u c (vectorDest c) = true →
        exec (.tileDispatch .vector core) s = .next s1) ∧
      (∀ e a n, vectorWork u c = .fault e a n → harmWaits u c (vectorDest c) = false → c.eval = none → ∃ t r, exec (.tileDispatch .vector core) s = .next t ∧
        (t.core core).vector.run = some (ranWhole c (some e) 0) ∧
        t.trapsInFlight = (scramble { u with freeCtr := n } c (vectorDest c)).trapsInFlight ++ [r] ∧ r.kind = 1 ∧
        r.cause = causeCode e ∧ r.origin = originOf (engineOf c.words) ∧ r.slot = c.slot ∧ r.region = c.region ∧
        r.epc = c.at_ ∧ r.tval = a)) ∧
    (mayDispatch s core .convert = true → (s.core core).convert.run = none →
      takeCmd s core .convert (fun _ => true) (s.core core).convert.prio = (some (c, p), s1) →
      convertWork u c = .ok fl s2 → exec (.tileDispatch .convert core) s = .next (s2.modCore core (fun k => { k with
        convert := ⟨some (ranWhole c none fl), prioAfter (s.core core).convert.prio p⟩ }))) ∧
    (mayDispatch s core .matrix = true → (s.core core).matrix.run = none → (s.core core).handoff = none →
      windowOwner s core = none → takeCmd s core .matrix (fun _ => true) (s.core core).matrix.prio = (some (c, p), s1) →
      bitsOf c.words.w0 14 8 = 3 → coreOf c.slot = core → ∃ t, exec (.tileDispatch .matrix core) s = .next t ∧
        (t.core core).matrix.run = some (ranWhole c none 0) ∧ t.mem = s1.mem ∧
        (t.core core).acc = (s1.core core).acc.filter (fun e => !(c.words.aux.getLsbD (e.1 / 1024))))) ∧
  (∀ (s s1 s2 s3 : State) (cl core : Nat) (r r' : Running) (x : CopyFound) (p : CopyProgress),
    let e := copyOf s cl
    let set := fun (t : State) (core : Nat) (r : Running) => { t with copies := mapPut t.copies cl ⟨some r, core⟩ }
    (e.run = none → cl ∉ s.halted → takeCopy s (coresAfter s cl e.last) = (some (core, x), s1) →
      (leaveCore s1 core x).1 = r → r.block < r.cmd.words.m →
      let u := (leaveCore s1 core x).2
      (r.block ≠ 0 → copyNext u r = some (r', s2) → exec (.tileDispatch .copy cl) s = .next (set s2 core r')) ∧
      (r.block = 0 → trigFault r.cmd = none → copyRefused u r.cmd = none →
        (copyAhead u r.cmd = some (p, none, s3) → copyNext s3 { r with copy := p } = some (r', s2) →
          exec (.tileDispatch .copy cl) s = .next (set s2 core r')) ∧
        (∀ a, copyAhead u r.cmd = some (p, some a, s3) → r.cmd.eval = none → ∃ t q,
          exec (.tileDispatch .copy cl) s = .next t ∧ t.mem = s3.mem ∧ t.trapsInFlight = s3.trapsInFlight ++ [q] ∧
          q.kind = 1 ∧ q.cause = causeCode .prot ∧ q.tval = a))) ∧
    (e.run = some r → r.block < r.cmd.words.m →
      ((switchDue s e.last = false ∧ cl ∉ s.halted) ∨ (switchDue s e.last = true ∧ r.copy.beats ≠ []) →
        copyNext s r = some (r', s2) → exec (.tileDispatch .copy cl) s = .next (set s2 e.last r')) ∧
      ((switchDue s e.last = true ∧ r.copy.beats = []) ∨ (switchDue s e.last = false ∧ cl ∈ s.halted) →
        exec (.tileDispatch .copy cl) s = .next s))) ∧
  (∀ (s u : State) (r : Running), r.copy.beats = [] →
    (∀ m beats, copyRow s r.cmd r.copy r.block = .ready m beats u → r.block ≤ r.copy.rows.length → ∃ rows,
      rows[r.block]? = some m ∧ (∀ i, i ≠ r.block → rows[i]? = r.copy.rows[i]?) ∧
      copyNext s r = some (copyBeat u { r with copy := { r.copy with rows, beats } })) ∧
    (∀ e a, copyRow s r.cmd r.copy r.block = .stopped u e a → r.cmd.eval = none → ∃ t q r',
      copyNext s r = some (r', t) ∧ r'.cause = some e ∧ r'.block = r.cmd.words.m ∧
      t.trapsInFlight = u.trapsInFlight ++ [q] ∧ q.kind = 1 ∧ q.cause = causeCode e ∧ q.tval = a)) ∧
  (∀ (s : State) (r : Running) (b : List (Word × Loc × List Byte)) (bs : List (List (Word × Loc × List Byte))),
    r.copy.beats = b :: bs →
    let u := b.foldl (fun s w => engWritePiece s r.cmd w) s
    let left := { r with copy := { r.copy with beats := bs } }
    (bs ≠ [] → copyNext s r = some (left, u)) ∧
    (bs = [] → r.block + 1 < r.cmd.words.m → ∃ t, copyNext s r = some ({ left with block := r.block + 1 }, t) ∧
      t.mem = u.mem ∧ t.slots = u.slots ∧ t.outbox = u.outbox)) ∧
  (∀ (s s1 s2 s3 : State) (core rank : Nat) (sig : CollSig) (c : TileCmd) (p : Bool) (id : Word × Nat) (stage : Word)
    (vals : List W32),
    mayDispatch s core .collective = true →
    takeCmd s core .collective (fun _ => true) (s.core core).collPrio = (some (c, p), s1) →
    (∀ e ∈ (s.core core).sbuf, c.mark ≤ e.id) → trigFault c = none →
    countColl ((unqueue s1 core c p).modCore core (fun k => { k with collPrio := prioAfter k.collPrio p })) c = (id, s2) →
    collStart s2 c = .ok (rank, sig, stage, vals) s3 →
    exec (.tileDispatch .collective core) s = .next (takeEarly (collAdvance { s3 with
      colls := s3.colls ++ [⟨ranWhole c none 0, core, id.1, id.2, s3.time, rank, sig,
        [⟨id.1, id.2, sig, rank, rank + 1, vals⟩], false⟩] } s3.colls.length))) ∧
  (∀ (s : State) (core : Nat) (r : Running), s.endings = [] → writesAway s r.cmd = false →
    ((s.core core).vector.run = some r → engineOf r.cmd.words ≠ .matrix → exec (.tileCompletion .vector core) s =
      .next (finishCmd (s.modCore core (fun k => { k with vector := ⟨none, k.vector.prio⟩ })) core r)) ∧
    ((s.core core).convert.run = some r → engineOf r.cmd.words ≠ .matrix → exec (.tileCompletion .convert core) s =
      .next (finishCmd (s.modCore core (fun k => { k with convert := ⟨none, k.convert.prio⟩ })) core r)) ∧
    ((s.core core).matrix.run = some r →
      exec (.tileCompletion .matrix core) s = .next (if ranAll r then
        finishCmd (s.modCore core (fun k => { k with matrix := ⟨none, k.matrix.prio⟩ })) core r else s)) ∧
    ((copyOf s core).run = some r → core ∉ s.halted → r.cmd.words.m ≤ r.block → exec (.tileCompletion .copy core) s =
      .next (finishCmd { s with copies := mapPut s.copies core ⟨none, (copyOf s core).last⟩ } (copyOf s core).last r)) ∧
    (∀ x, s.colls[core]? = some x → x.finished = true → x.run = r → exec (.tileCompletion .collective core) s =
      .next (finishCmd { s with colls := dropAt s.colls core } x.core x.run))) ∧
  (∀ (s : State) (core : Nat) (r : Running) (d : CoreSave), r.cmd.eval = none → r.cmd.words.w7.getLsbD 31 = true →
    mapGet s.coreDrawers (2048 * r.cmd.ctx + core) = some d →
    ((finishCmd s core r).core core).k = (s.core core).k ∧
    ∃ d', mapGet (finishCmd s core r).coreDrawers (2048 * r.cmd.ctx + core) = some d' ∧ ∀ k : Fin 32,
      d'.k[k] = d.k[k] + if k.val = (bitsOf r.cmd.words.w7 26 5).toNat then 1 else 0) ∧
  (∀ (s : State) (core : Nat) (r : Running), r.cmd.eval = none → (s.slot r.cmd.slot).status ≠ .noTask →
    (s.slot r.cmd.slot).gen = r.cmd.gen → (s.slot r.cmd.slot).ctx = r.cmd.ctx →
    let t := finishCmd s core r
    (t.slot r.cmd.slot).flags = (s.slot r.cmd.slot).flags ||| (if r.cause = none then r.flags else 0) ∧
    (t.slot r.cmd.slot).g = (s.slot r.cmd.slot).g ∧ t.mem = s.mem ∧
    (mapGet s.coreDrawers (2048 * r.cmd.ctx + core) = none → ∀ k, (t.core core).counter k = (s.core core).counter k +
      if r.cmd.words.w7.getLsbD 31 = true ∧ k = bitsOf r.cmd.words.w7 26 5 then 1 else 0) ∧
    (r.cmd.batch = some (s.slot r.cmd.slot).batchId →
      (t.slot r.cmd.slot).batchPending = (s.slot r.cmd.slot).batchPending - 1) ∧
    (r.cmd.words.w7.getLsbD 25 = false → (t.core core).inbox = (s.core core).inbox)) ∧
  (∀ (s : State) (core n : Nat) (l : Latch), (s.core core).handoff = some l → nextLive s core = some n →
    (s.core n).latch = none → residentCtx s core = residentCtx s n → (s.core core).part = (s.core n).part →
    exec (.ringHandoff core) s =
      .next ((s.modCore core (fun k => { k with handoff := none })).modCore n (fun k => { k with latch := some l }))) ∧
  (∀ (s s1 : State) (core : Nat) (r r1 : Running), (s.core core).matrix.run = some r → ranAll r = false →
    switchDue s core = false → runBlock s r = some (r1, s1) → exec (.matrixBlockEnd core) s =
      .next ((injectorHandoff s1 core r1).modCore core (fun k => { k with matrix := ⟨some r1, k.matrix.prio⟩ }))) ∧
  (∀ (s : State) (i : Nat) (r : CollRun), s.colls[i]? = some r → r.finished = false → r.run.cmd.eval = none →
    (r.start.toNat + s.policy.collTimeout ≤ s.time.toNat → ∃ t q, exec (.collTimeout i) s = .next t ∧
      t.colls[i]? = some { r with finished := true, run := { r.run with cause := some .waitlong } } ∧
      t.trapsInFlight = (stageLeft s r).trapsInFlight ++ [q] ∧ q.kind = 1 ∧ q.cause = causeCode .waitlong ∧
      t.mem = (stageLeft s r).mem ∧ (allCompared s r = false → t.mem = s.mem)) ∧
    (s.time.toNat < r.start.toNat + s.policy.collTimeout → exec (.collTimeout i) s = .next s)) ∧
  (∀ (s : State) (p : Partial) (r : CollRun), s.colls = [r] → r.stage = normAddr s p.stage → r.k = p.k → r.finished = false →
    (p.sig = r.sig → p.lo < p.hi → p.hi ≤ r.sig.p → r.rank < p.lo ∨ p.hi ≤ r.rank → exec (.partialResultArrival p) s =
      .next (collAdvance { s with colls := [{ r with nodes := r.nodes ++ [p] }] } 0)) ∧
    (p.sig ≠ r.sig → (s.region r.run.cmd.region).debug = true → r.run.cmd.eval = none → ∃ t q,
      exec (.partialResultArrival p) s = .next t ∧ t.mem = s.mem ∧ t.trapsInFlight = s.trapsInFlight ++ [q] ∧
      q.cause = causeCode .illegal ∧
      t.colls = [{ r with finished := true, run := { r.run with cause := some .illegal } }])) ∧
  (∀ (s : State) (p : Partial),
    (∀ r ∈ s.colls, r.stage = normAddr s p.stage → r.k = p.k → r.finished = true) → exec (.partialResultArrival p) s =
      .next (if collCount s p.stage ≤ p.k then { s with earlyParts := s.earlyParts ++ [p] } else s))

/-- How sleeps end: what a slot sleeps for lets it go on, another device's answer is its reply; at its limit the
withdrawal leaves, and a slot that is not satisfied by then raises WAITLONG, after a halt of its cluster (R169, R380,
R413). The clauses that rest on log entries 34, 88, 106 and 110 are the model's choice or reading. -/
def Obligations.SleepEvents : Prop :=
  (∀ (s : State) (i : Nat) (z : Sleep), i < 16384 → (s.slot i).status = .asleep z →
    exec (.sleepWake i none) s = .next (if sleepOver s i z then resume s i else s) ∧
    (z.lim = 0 ∨ s.time.toNat < z.start.toNat + z.lim.toNat → exec (.waitlimExpiry i) s = .next s) ∧
    (z.lim ≠ 0 → z.start.toNat + z.lim.toNat ≤ s.time.toNat → (∀ u, z.kind ≠ .yield u ∧ z.kind ≠ .waitt u) → z.kind ≠ .dump →
      clusterOf s (coreOf i) ∉ s.halted → z.withdrawn = false → ∃ t, exec (.waitlimExpiry i) s = .next t ∧
        (t.slot i).status = .asleep { z with withdrawn := true } ∧ (t.slot i).g = (s.slot i).g ∧ t.mem = s.mem) ∧
    (z.withdrawn = true →
      (sleepOver s i z = true → exec (.withdrawalResult i) s = .next (resume s i)) ∧
      (sleepOver s i z = false → isPlacing s i = true ∨ (∃ w ∈ s.wakes, w.to_ = slotLink i) ∨ isHalted s i = true →
        exec (.withdrawalResult i) s = .next s) ∧
      (sleepOver s i z = false → isPlacing s i = false → (∀ w ∈ s.wakes, w.to_ ≠ slotLink i) → isHalted s i = false →
        exec (.withdrawalResult i) s = .next
          (noteFault (takeFaultOf (withdrawSlot s i) i .waitlong z.tval) i (s.slot i).pc)))) ∧
  (∀ (s : State) (i : Nat), (resume s i).slot i = { s.slot i with status := .ready } ∧
    (resume s i).agenda = s.agenda ∧ (resume s i).mem = s.mem) ∧
  (∀ (s : State) (i : Nat) (a : Word) (op : AtomOp) (look : Bool), i < 16384 → s.outbox = [.atom i a op look] →
    (s.slot i).status = .waiting .reply ∨ (∃ z, (s.slot i).status = .asleep z) →
    (∀ v, ∃ t, exec (.sleepWake i (some (.val v))) s = .next t ∧ t.outbox = [] ∧ (t.slot i).status = .ready ∧
      (t.slot i).reply = some (.val v)) ∧
    (∀ c, ∃ t, exec (.sleepWake i (some (.fault c))) s = .next t ∧ t.outbox = [] ∧ (t.slot i).status = .ready ∧
      (t.slot i).reply = some (.fault c a)))

/-- The host's side. Its writes reach device memory but for the journal, through the home where a live snapshot covers
them; no command is taken while the copy of time waits for its domain; a command that is not 64 bytes is discarded and
counted, a refused one is counted in the refusal ring, and an accepted one is in the journal before its effect: LAUNCH,
ALLOW, REVOKE, END, ACKSTOP, FWLOAD and MARK; the policy of an accepted image is taken up within the hardware's limits
(R26, R90, R297, R338, R347, R362, R390 to R394). The clauses that rest on log entries 12, 66, 67, 89, 96 and 135 are
the model's choice or reading. -/
def Obligations.HostCommands : Prop :=
  (∀ (s : State) (p : Nat) (b : Byte) (bs : List Byte), p % 128 + (b :: bs).length ≤ 128 → p + (b :: bs).length ≤ 2 ^ 40 →
    (p + (b :: bs).length ≤ s.jbase.toNat → ∀ a h, snappedAt s p = some (a, h) → exec (.hostMemWrite p (b :: bs)) s =
      .next (clearStrong (homeWrite s a p h (b :: bs)) p (b :: bs).length)) ∧
    (p + (b :: bs).length ≤ s.jbase.toNat → snappedAt s p = none → ∃ t, exec (.hostMemWrite p (b :: bs)) s = .next t ∧
      readBytes t.mem p (b :: bs).length = b :: bs ∧
      ∀ a, a < p ∨ p + (b :: bs).length ≤ a → byteAt t.mem a = byteAt s.mem a) ∧
    (s.jbase.toNat ≤ p → p + (b :: bs).length ≤ s.jbase.toNat + journalSize →
      exec (.hostMemWrite p (b :: bs)) s = .next s)) ∧
  (∀ s : State, exec .discardedWrite s = .next { s with disc := min (s.disc + 1) (2 ^ 32 - 1) } ∧
    exec .discClear s = .next { s with disc := 0 }) ∧
  (∀ (s : State) (p : Policy), (s.fwPending = false → exec (.policyActivate p) s = .next s) ∧
    (s.fwPending = true → ∃ t, exec (.policyActivate p) s = .next t ∧ t.fwPending = false ∧ t.mem = s.mem ∧
      t.policy = clampPolicy p ∧ (clampPolicy p).window ≤ 4096 ∧ 16 ≤ (clampPolicy p).margin ∧
      100000 ≤ (clampPolicy p).replayLimit ∧
      ∀ c, c < s.logicalCores →
        (t.core c).leaselen = max 64 (min ((mapGet p.leaselens c).getD p.leaselen) 65536))) ∧
  (∀ (s : State) (cmd : List Byte), cmd.length ≠ 64 →
    exec (.allow cmd) s = .next (discard s) ∧ exec (.revoke cmd) s = .next (discard s) ∧
    exec (.endRegion cmd) s = .next (discard s) ∧ exec (.ackstop cmd) s = .next (discard s) ∧
    exec (.fwload cmd) s = .next (discard s) ∧ exec (.markCmd cmd) s = .next (discard s)) ∧
  (∀ (s : State) (tag : W32) (code : Nat), (refuse s tag code).rfcnt = s.rfcnt + 1 ∧ (refuse s tag code).mem = s.mem ∧
    (refuse s tag code).jhead = s.jhead ∧
    mapGet (refuse s tag code).refusals ((s.rfcnt + 1) % 64) =
      some (tag ++ BitVec.ofNat 24 (s.rfcnt + 1) ++ BitVec.ofNat 8 code)) ∧
  (∀ (s : State) (r op st : Nat) (tag : W32) (d : List Byte), d.length = 32 →
    (journal s r op st tag d).jhead = s.jhead + 1 ∧
    (∀ a, a < s.jbase.toNat ∨ s.jbase.toNat + journalSize ≤ a →
      byteAt (journal s r op st tag d).mem a = byteAt s.mem a) ∧
    readBytes (journal s r op st tag d).mem (s.jbase.toNat + 64 * (s.jhead % 262144)) 8 = bytesOfNat 8 s.jhead) ∧
  (∀ (s : State) (cmd : List Byte), cmd.length = 64 → s.timeHold ≠ 0 →
    exec (.hostLaunch cmd) s = .next s ∧ exec (.allow cmd) s = .next s ∧ exec (.revoke cmd) s = .next s ∧
    exec (.endRegion cmd) s = .next s ∧ exec (.ackstop cmd) s = .next s ∧ exec (.fwload cmd) s = .next s ∧
    exec (.markCmd cmd) s = .next s) ∧
  ∀ (s : State) (cmd : List Byte), cmd.length = 64 → s.timeHold = 0 →
    let logged := fun (r op : Nat) => journal s r op 1 (cmdTag cmd) (sha256 cmd)
    let i := byteNat cmd 16
    let base := w64At cmd 24
    let len := w64At cmd 32
    (byteNat cmd 0 = 7 → exec (.markCmd cmd) s = .next (logged 0 7)) ∧
    (s.outOfService = true → byteNat cmd 0 = 2 → exec (.allow cmd) s = .next (refuse s (cmdTag cmd) 5)) ∧
    (byteNat cmd 0 = 0 ∨ 7 < byteNat cmd 0 → exec (.otherOpCommand cmd) s =
      .next (refuse s (cmdTag cmd) (if s.outOfService then 5 else 1))) ∧
    (s.outOfService = false →
      (∀ r, commandRegion s cmd = .ok r →
        (byteNat cmd 0 = 2 → i < 8 → base.toNat % 4096 = 0 → len.toNat % 4096 = 0 → base.getLsbD 63 = false →
          ∃ t, exec (.allow cmd) s = .next t ∧ t.jhead = s.jhead + 1 ∧
            (t.region r).res[i % 8]'(Nat.mod_lt _ (by decide)) = ⟨base, len, 0⟩) ∧
        (byteNat cmd 0 = 2 → 8 ≤ i ∨ base.toNat % 4096 ≠ 0 ∨ len.toNat % 4096 ≠ 0 ∨ base.getLsbD 63 = true →
          exec (.allow cmd) s = .next (refuse s (cmdTag cmd) 1)) ∧
        (byteNat cmd 0 = 3 → i < 8 → ((s.region r).res[i % 8]'(Nat.mod_lt _ (by decide))).len ≠ 0 →
          ∃ t, exec (.revoke cmd) s = .next t ∧ t.jhead = s.jhead + 1 ∧
            ((t.region r).res[i % 8]'(Nat.mod_lt _ (by decide))).st = 3) ∧
        (byteNat cmd 0 = 4 → w64At cmd 8 ≠ 0 → exec (.endRegion cmd) s = .next (endRegion (logged r 4) r none none))) ∧
      (byteNat cmd 0 = 5 → exec (.ackstop cmd) s = .next (if s.stoppedParts.contains (byteNat cmd 8) then
          { logged 0 5 with stoppedParts := s.stoppedParts.filter (fun p => p != byteNat cmd 8) }
        else refuse s (cmdTag cmd) 1)) ∧
      (byteNat cmd 0 = 6 → ∀ bs u, schedRead s (w64At cmd 8) (w64At cmd 16).toNat = some (bs, u) →
        exec (.fwload cmd) s = .next (if imageAccepted s bs then
            journalEvent { logged 0 6 with fwPending := true, fwMinSvn := fwVersion bs } 0 6 0
          else refuse s (cmdTag cmd) 4)) ∧
      (byteNat cmd 0 = 1 → (w64At cmd 8).toNat % 64 = 0 → ∀ d u, schedRead s (w64At cmd 8) 64 = some (d, u) →
        (∀ l, checkLaunch s 0 (cmdTag cmd) true d = .ok l → l.time = 0 ∨ s.clockFaults = [] →
          exec (.hostLaunch cmd) s = .next (acceptLaunch (logged l.region 1) l)) ∧
        (∀ st, checkLaunch s 0 (cmdTag cmd) true d = .error st →
          exec (.hostLaunch cmd) s = .next (refuse s (cmdTag cmd) (if st = 4 then 5 else st)))))
end

