-- ==== Sys2Proof/Laws/Maps.lean ====
section
/-! SUPPORT. Sparse tables and memory: a read after a write, and that every memory operation keeps the canonical
form. -/

namespace Sys2Proof.Machine

/-- Reading an entry of a table after writing one. -/
theorem mapGet_mapPut {α : Type} (m : SMap α) (n k : Nat) (v : α) :
    mapGet (mapPut m n v) k = if k = n then some v else mapGet m k := by
  induction m with
  | nil => simp only [mapPut, mapGet]
  | cons e m ih =>
    obtain ⟨a, w⟩ := e
    simp only [mapPut]
    split
    · simp only [mapGet]; grind
    · split
      · simp only [mapGet]
      · simp only [mapGet, ih]; grind

@[simp] theorem mapGet_mapPut_same {α : Type} (m : SMap α) (n : Nat) (v : α) : mapGet (mapPut m n v) n = some v := by
  simp [mapGet_mapPut]

theorem mapGet_mapPut_ne {α : Type} (m : SMap α) (n k : Nat) (v : α) (h : k ≠ n) :
    mapGet (mapPut m n v) k = mapGet m k := by simp [mapGet_mapPut, h]

theorem memOk_mono (m : Memory) (lo lo' : Nat) (h : memOk lo m = true) (hl : lo' ≤ lo) : memOk lo' m = true := by
  cases m with
  | nil => rfl
  | cons e m => simp only [memOk, Bool.and_eq_true, decide_eq_true_eq] at h ⊢; grind

/-- Reading an entry after a number's entries have been deleted. -/
theorem mapGet_mapDel {α : Type} (m : SMap α) (n k : Nat) : mapGet (mapDel m n) k = if k = n then none else mapGet m k := by
  induction m with
  | nil => simp [mapDel, mapGet]
  | cons e m ih =>
    obtain ⟨a, b⟩ := e
    simp only [mapDel, List.filter_cons] at ih ⊢
    by_cases h : a = n
    · subst h; simp only [bne_self_eq_false, Bool.false_eq_true, if_false, ih, mapGet]; grind
    · have h' : (a != n) = true := by simpa using h
      simp only [h', if_true, mapGet, ih]; grind

theorem memOk_mapPut (m : Memory) (lo n : Nat) (b : Byte) (h : memOk lo m = true) (hn : lo ≤ n)
    (hb : b ≠ unlistedByte) : memOk lo (mapPut m n b) = true := by
  induction m generalizing lo with
  | nil => simp [mapPut, memOk, hn, hb]
  | cons e m ih =>
    obtain ⟨a, c⟩ := e
    simp only [memOk, Bool.and_eq_true, decide_eq_true_eq] at h
    simp only [mapPut]
    split
    · subst_vars; simp [memOk, hn, hb, h.2]
    · split
      · simp only [memOk, Bool.and_eq_true, decide_eq_true_eq]; grind
      · simp only [memOk, Bool.and_eq_true, decide_eq_true_eq]
        exact ⟨h.1, ih (a + 1) h.2 (by omega)⟩

/-- Dropping entries keeps the canonical form. -/
theorem memOk_filter (m : Memory) (lo : Nat) (p : Nat × Byte → Bool) (h : memOk lo m = true) :
    memOk lo (m.filter p) = true := by
  induction m generalizing lo with
  | nil => rfl
  | cons e m ih =>
    obtain ⟨a, c⟩ := e
    simp only [memOk, Bool.and_eq_true, decide_eq_true_eq] at h
    simp only [List.filter_cons]
    split
    · simp only [memOk, Bool.and_eq_true, decide_eq_true_eq]; exact ⟨h.1, ih _ h.2⟩
    · exact memOk_mono _ _ _ (ih _ h.2) (by omega)

theorem memOk_mapDel (m : Memory) (lo n : Nat) (h : memOk lo m = true) : memOk lo (mapDel m n) = true :=
  memOk_filter m lo _ h

/-- Writing one byte keeps the canonical form. -/
theorem Memory.wf_putByte (m : Memory) (a : Nat) (b : Byte) (h : Memory.wf m = true) :
    Memory.wf (putByte m a b) = true := by
  unfold putByte
  split
  · exact memOk_mapDel m 0 a h
  · exact memOk_mapPut m 0 a b h (Nat.zero_le a) ‹_›

/-- Writing bytes keeps the canonical form. -/
theorem Memory.wf_writeBytes (m : Memory) (a : Nat) (bs : List Byte) (h : Memory.wf m = true) :
    Memory.wf (writeBytes m a bs) = true := by
  induction bs generalizing m a with
  | nil => exact h
  | cons b bs ih => exact ih _ _ (Memory.wf_putByte m a b h)

theorem Memory.wf_filter (m : Memory) (p : Nat × Byte → Bool) (h : Memory.wf m = true) :
    Memory.wf (m.filter p) = true := memOk_filter m 0 p h

/-- A byte read after one byte is written. -/
theorem byteAt_putByte (m : Memory) (a x : Nat) (b : Byte) :
    byteAt (putByte m a b) x = if x = a then b else byteAt m x := by
  unfold byteAt putByte
  split
  · rw [mapGet_mapDel]; split <;> simp_all
  · rw [mapGet_mapPut]; split <;> simp

/-- A byte read outside the bytes written is what it was. -/
theorem byteAt_writeBytes_outside (m : Memory) (a x : Nat) (bs : List Byte) (hx : x < a ∨ a + bs.length ≤ x) :
    byteAt (writeBytes m a bs) x = byteAt m x := by
  induction bs generalizing m a with
  | nil => rfl
  | cons b bs ih =>
    simp only [List.length_cons] at hx
    simp only [writeBytes]
    rw [ih _ _ (by omega), byteAt_putByte, if_neg (by omega)]

/-- A byte read among the bytes written is the byte written there. -/
theorem byteAt_writeBytes_inside (m : Memory) (a i : Nat) (bs : List Byte) (hi : i < bs.length) :
    byteAt (writeBytes m a bs) (a + i) = bs[i] := by
  induction bs generalizing m a i with
  | nil => simp at hi
  | cons b bs ih =>
    simp only [writeBytes]
    cases i with
    | zero =>
      rw [byteAt_writeBytes_outside _ _ _ _ (by omega), byteAt_putByte]
      simp
    | succ i =>
      have := ih (putByte m a b) (a + 1) i (by simpa using hi)
      rw [show a + (i + 1) = a + 1 + i by omega, this]
      simp

@[simp] theorem readBytes_length (m : Memory) (a n : Nat) : (readBytes m a n).length = n := by
  induction n generalizing a with
  | zero => rfl
  | succ n ih => simp [readBytes, ih]

theorem getElem_readBytes (m : Memory) (a n i : Nat) (h : i < (readBytes m a n).length) :
    (readBytes m a n)[i] = byteAt m (a + i) := by
  induction n generalizing a i with
  | zero => simp [readBytes] at h
  | succ n ih =>
    cases i with
    | zero => simp [readBytes]
    | succ i =>
      simp only [readBytes, List.getElem_cons_succ]
      rw [ih, show a + 1 + i = a + (i + 1) by omega]

/-- A read of the bytes just written gives them back. -/
theorem readBytes_writeBytes (m : Memory) (a : Nat) (bs : List Byte) :
    readBytes (writeBytes m a bs) a bs.length = bs := by
  apply List.ext_getElem (by simp)
  intro i h1 h2
  rw [getElem_readBytes, byteAt_writeBytes_inside m a i bs h2]

/-- A read that meets no byte written gives what it gave. -/
theorem readBytes_writeBytes_disjoint (m : Memory) (a b n : Nat) (bs : List Byte)
    (hd : b + n ≤ a ∨ a + bs.length ≤ b) : readBytes (writeBytes m a bs) b n = readBytes m b n := by
  apply List.ext_getElem (by simp)
  intro i h1 h2
  simp only [readBytes_length] at h1
  rw [getElem_readBytes, getElem_readBytes, byteAt_writeBytes_outside m a (b + i) bs (by omega)]

@[simp] theorem bytesOfNat_length (n k : Nat) : (bytesOfNat n k).length = n := by
  induction n generalizing k with
  | zero => rfl
  | succ n ih => simp [bytesOfNat, ih]

@[simp] theorem bytesOf_length (n : Nat) (v : Word) : (bytesOf n v).length = n := bytesOfNat_length n v.toNat

/-- The number that the bytes of a number hold. -/
theorem natOfBytes_bytesOfNat (n k : Nat) : natOfBytes (bytesOfNat n k) = k % 256 ^ n := by
  induction n generalizing k with
  | zero => simp [bytesOfNat, natOfBytes, Nat.mod_one]
  | succ n ih =>
    have h8 : (BitVec.ofNat 8 k).toNat = k % 256 := by simp
    simp only [bytesOfNat, natOfBytes, ih, h8]
    rw [show (256 : Nat) ^ (n + 1) = 256 * 256 ^ n from by rw [Nat.pow_succ, Nat.mul_comm], Nat.mod_mul]

end Sys2Proof.Machine
end

