-- ==== Sys2Proof/Laws/State.lean ====
section
/-! SUPPORT. What the updates of State leave: one lemma for each field of State and each update. -/

namespace Sys2Proof.Machine

@[simp] theorem State.setSlot_time (s : State) (i : Nat) (sl : Slot) : (s.setSlot i sl).time = s.time := rfl
@[simp] theorem State.setSlot_sub (s : State) (i : Nat) (sl : Slot) : (s.setSlot i sl).sub = s.sub := rfl
@[simp] theorem State.setSlot_timeHold (s : State) (i : Nat) (sl : Slot) : (s.setSlot i sl).timeHold = s.timeHold := rfl
@[simp] theorem State.setSlot_cycle (s : State) (i : Nat) (sl : Slot) : (s.setSlot i sl).cycle = s.cycle := rfl
@[simp] theorem State.setSlot_turned (s : State) (i : Nat) (sl : Slot) : (s.setSlot i sl).turned = s.turned := rfl
@[simp] theorem State.setSlot_cur (s : State) (i : Nat) (sl : Slot) : (s.setSlot i sl).cur = s.cur := rfl
@[simp] theorem State.setSlot_bumped (s : State) (i : Nat) (sl : Slot) : (s.setSlot i sl).bumped = s.bumped := rfl
@[simp] theorem State.setSlot_flagged (s : State) (i : Nat) (sl : Slot) : (s.setSlot i sl).flagged = s.flagged := rfl
@[simp] theorem State.setSlot_bankLast (s : State) (i : Nat) (sl : Slot) : (s.setSlot i sl).bankLast = s.bankLast := rfl
@[simp] theorem State.setSlot_bankServed (s : State) (i : Nat) (sl : Slot) : (s.setSlot i sl).bankServed = s.bankServed := rfl
@[simp] theorem State.setSlot_agenda (s : State) (i : Nat) (sl : Slot) : (s.setSlot i sl).agenda = s.agenda := rfl
@[simp] theorem State.setSlot_freeCtr (s : State) (i : Nat) (sl : Slot) : (s.setSlot i sl).freeCtr = s.freeCtr := rfl
@[simp] theorem State.setSlot_cores (s : State) (i : Nat) (sl : Slot) : (s.setSlot i sl).cores = s.cores := rfl
@[simp] theorem State.setSlot_mem (s : State) (i : Nat) (sl : Slot) : (s.setSlot i sl).mem = s.mem := rfl
@[simp] theorem State.setSlot_lines (s : State) (i : Nat) (sl : Slot) : (s.setSlot i sl).lines = s.lines := rfl
@[simp] theorem State.setSlot_sliceVer (s : State) (i : Nat) (sl : Slot) : (s.setSlot i sl).sliceVer = s.sliceVer := rfl
@[simp] theorem State.setSlot_feFull (s : State) (i : Nat) (sl : Slot) : (s.setSlot i sl).feFull = s.feFull := rfl
@[simp] theorem State.setSlot_feSleep (s : State) (i : Nat) (sl : Slot) : (s.setSlot i sl).feSleep = s.feSleep := rfl
@[simp] theorem State.setSlot_resv (s : State) (i : Nat) (sl : Slot) : (s.setSlot i sl).resv = s.resv := rfl
@[simp] theorem State.setSlot_loads (s : State) (i : Nat) (sl : Slot) : (s.setSlot i sl).loads = s.loads := rfl
@[simp] theorem State.setSlot_atoms (s : State) (i : Nat) (sl : Slot) : (s.setSlot i sl).atoms = s.atoms := rfl
@[simp] theorem State.setSlot_cntAdds (s : State) (i : Nat) (sl : Slot) : (s.setSlot i sl).cntAdds = s.cntAdds := rfl
@[simp] theorem State.setSlot_guestAdds (s : State) (i : Nat) (sl : Slot) : (s.setSlot i sl).guestAdds = s.guestAdds := rfl
@[simp] theorem State.setSlot_flights (s : State) (i : Nat) (sl : Slot) : (s.setSlot i sl).flights = s.flights := rfl
@[simp] theorem State.setSlot_outbox (s : State) (i : Nat) (sl : Slot) : (s.setSlot i sl).outbox = s.outbox := rfl
@[simp] theorem State.setSlot_dev (s : State) (i : Nat) (sl : Slot) : (s.setSlot i sl).dev = s.dev := rfl
@[simp] theorem State.setSlot_present (s : State) (i : Nat) (sl : Slot) : (s.setSlot i sl).present = s.present := rfl
@[simp] theorem State.setSlot_raf (s : State) (i : Nat) (sl : Slot) : (s.setSlot i sl).raf = s.raf := rfl
@[simp] theorem State.setSlot_hgsel (s : State) (i : Nat) (sl : Slot) : (s.setSlot i sl).hgsel = s.hgsel := rfl
@[simp] theorem State.setSlot_hg (s : State) (i : Nat) (sl : Slot) : (s.setSlot i sl).hg = s.hg := rfl
@[simp] theorem State.setSlot_trapsInFlight (s : State) (i : Nat) (sl : Slot) : (s.setSlot i sl).trapsInFlight = s.trapsInFlight := rfl
@[simp] theorem State.setSlot_tq (s : State) (i : Nat) (sl : Slot) : (s.setSlot i sl).tq = s.tq := rfl
@[simp] theorem State.setSlot_tqSeq (s : State) (i : Nat) (sl : Slot) : (s.setSlot i sl).tqSeq = s.tqSeq := rfl
@[simp] theorem State.setSlot_tqLost (s : State) (i : Nat) (sl : Slot) : (s.setSlot i sl).tqLost = s.tqLost := rfl
@[simp] theorem State.setSlot_tqOvf (s : State) (i : Nat) (sl : Slot) : (s.setSlot i sl).tqOvf = s.tqOvf := rfl
@[simp] theorem State.setSlot_tqnote (s : State) (i : Nat) (sl : Slot) : (s.setSlot i sl).tqnote = s.tqnote := rfl
@[simp] theorem State.setSlot_regions (s : State) (i : Nat) (sl : Slot) : (s.setSlot i sl).regions = s.regions := rfl
@[simp] theorem State.setSlot_snaps (s : State) (i : Nat) (sl : Slot) : (s.setSlot i sl).snaps = s.snaps := rfl
@[simp] theorem State.setSlot_snapSerial (s : State) (i : Nat) (sl : Slot) : (s.setSlot i sl).snapSerial = s.snapSerial := rfl
@[simp] theorem State.setSlot_grade (s : State) (i : Nat) (sl : Slot) : (s.setSlot i sl).grade = s.grade := rfl
@[simp] theorem State.setSlot_nonlive (s : State) (i : Nat) (sl : Slot) : (s.setSlot i sl).nonlive = s.nonlive := rfl
@[simp] theorem State.setSlot_defect (s : State) (i : Nat) (sl : Slot) : (s.setSlot i sl).defect = s.defect := rfl
@[simp] theorem State.setSlot_takeover (s : State) (i : Nat) (sl : Slot) : (s.setSlot i sl).takeover = s.takeover := rfl
@[simp] theorem State.setSlot_retired (s : State) (i : Nat) (sl : Slot) : (s.setSlot i sl).retired = s.retired := rfl
@[simp] theorem State.setSlot_failed (s : State) (i : Nat) (sl : Slot) : (s.setSlot i sl).failed = s.failed := rfl
@[simp] theorem State.setSlot_westWalks (s : State) (i : Nat) (sl : Slot) : (s.setSlot i sl).westWalks = s.westWalks := rfl
@[simp] theorem State.setSlot_eastWalks (s : State) (i : Nat) (sl : Slot) : (s.setSlot i sl).eastWalks = s.eastWalks := rfl
@[simp] theorem State.setSlot_stoppedParts (s : State) (i : Nat) (sl : Slot) : (s.setSlot i sl).stoppedParts = s.stoppedParts := rfl
@[simp] theorem State.setSlot_resident (s : State) (i : Nat) (sl : Slot) : (s.setSlot i sl).resident = s.resident := rfl
@[simp] theorem State.setSlot_drawers (s : State) (i : Nat) (sl : Slot) : (s.setSlot i sl).drawers = s.drawers := rfl
@[simp] theorem State.setSlot_halted (s : State) (i : Nat) (sl : Slot) : (s.setSlot i sl).halted = s.halted := rfl
@[simp] theorem State.setSlot_policy (s : State) (i : Nat) (sl : Slot) : (s.setSlot i sl).policy = s.policy := rfl
@[simp] theorem State.setSlot_copies (s : State) (i : Nat) (sl : Slot) : (s.setSlot i sl).copies = s.copies := rfl
@[simp] theorem State.setSlot_colls (s : State) (i : Nat) (sl : Slot) : (s.setSlot i sl).colls = s.colls := rfl
@[simp] theorem State.setSlot_collCounts (s : State) (i : Nat) (sl : Slot) : (s.setSlot i sl).collCounts = s.collCounts := rfl
@[simp] theorem State.setSlot_earlyParts (s : State) (i : Nat) (sl : Slot) : (s.setSlot i sl).earlyParts = s.earlyParts := rfl
@[simp] theorem State.setSlot_devWrites (s : State) (i : Nat) (sl : Slot) : (s.setSlot i sl).devWrites = s.devWrites := rfl
@[simp] theorem State.setSlot_invals (s : State) (i : Nat) (sl : Slot) : (s.setSlot i sl).invals = s.invals := rfl
@[simp] theorem State.setSlot_evals (s : State) (i : Nat) (sl : Slot) : (s.setSlot i sl).evals = s.evals := rfl
@[simp] theorem State.setSlot_wakes (s : State) (i : Nat) (sl : Slot) : (s.setSlot i sl).wakes = s.wakes := rfl
@[simp] theorem State.setSlot_refDrops (s : State) (i : Nat) (sl : Slot) : (s.setSlot i sl).refDrops = s.refDrops := rfl
@[simp] theorem State.setSlot_frames (s : State) (i : Nat) (sl : Slot) : (s.setSlot i sl).frames = s.frames := rfl
@[simp] theorem State.setSlot_sparks (s : State) (i : Nat) (sl : Slot) : (s.setSlot i sl).sparks = s.sparks := rfl
@[simp] theorem State.setSlot_faultBuf (s : State) (i : Nat) (sl : Slot) : (s.setSlot i sl).faultBuf = s.faultBuf := rfl
@[simp] theorem State.setSlot_records (s : State) (i : Nat) (sl : Slot) : (s.setSlot i sl).records = s.records := rfl
@[simp] theorem State.setSlot_sections (s : State) (i : Nat) (sl : Slot) : (s.setSlot i sl).sections = s.sections := rfl
@[simp] theorem State.setSlot_doomed (s : State) (i : Nat) (sl : Slot) : (s.setSlot i sl).doomed = s.doomed := rfl
@[simp] theorem State.setSlot_groups (s : State) (i : Nat) (sl : Slot) : (s.setSlot i sl).groups = s.groups := rfl
@[simp] theorem State.setSlot_experts (s : State) (i : Nat) (sl : Slot) : (s.setSlot i sl).experts = s.experts := rfl
@[simp] theorem State.setSlot_shelf (s : State) (i : Nat) (sl : Slot) : (s.setSlot i sl).shelf = s.shelf := rfl
@[simp] theorem State.setSlot_codeQueue (s : State) (i : Nat) (sl : Slot) : (s.setSlot i sl).codeQueue = s.codeQueue := rfl
@[simp] theorem State.setSlot_retransmit (s : State) (i : Nat) (sl : Slot) : (s.setSlot i sl).retransmit = s.retransmit := rfl
@[simp] theorem State.setSlot_cupboard (s : State) (i : Nat) (sl : Slot) : (s.setSlot i sl).cupboard = s.cupboard := rfl
@[simp] theorem State.setSlot_cupLost (s : State) (i : Nat) (sl : Slot) : (s.setSlot i sl).cupLost = s.cupLost := rfl
@[simp] theorem State.setSlot_settled (s : State) (i : Nat) (sl : Slot) : (s.setSlot i sl).settled = s.settled := rfl
@[simp] theorem State.setSlot_accepted (s : State) (i : Nat) (sl : Slot) : (s.setSlot i sl).accepted = s.accepted := rfl
@[simp] theorem State.setSlot_adverts (s : State) (i : Nat) (sl : Slot) : (s.setSlot i sl).adverts = s.adverts := rfl
@[simp] theorem State.setSlot_posts (s : State) (i : Nat) (sl : Slot) : (s.setSlot i sl).posts = s.posts := rfl
@[simp] theorem State.setSlot_refused (s : State) (i : Nat) (sl : Slot) : (s.setSlot i sl).refused = s.refused := rfl
@[simp] theorem State.setSlot_packets (s : State) (i : Nat) (sl : Slot) : (s.setSlot i sl).packets = s.packets := rfl
@[simp] theorem State.setSlot_nacks (s : State) (i : Nat) (sl : Slot) : (s.setSlot i sl).nacks = s.nacks := rfl
@[simp] theorem State.setSlot_losses (s : State) (i : Nat) (sl : Slot) : (s.setSlot i sl).losses = s.losses := rfl
@[simp] theorem State.setSlot_rows (s : State) (i : Nat) (sl : Slot) : (s.setSlot i sl).rows = s.rows := rfl
@[simp] theorem State.setSlot_places (s : State) (i : Nat) (sl : Slot) : (s.setSlot i sl).places = s.places := rfl
@[simp] theorem State.setSlot_launches (s : State) (i : Nat) (sl : Slot) : (s.setSlot i sl).launches = s.launches := rfl
@[simp] theorem State.setSlot_leaseEnds (s : State) (i : Nat) (sl : Slot) : (s.setSlot i sl).leaseEnds = s.leaseEnds := rfl
@[simp] theorem State.setSlot_resReqs (s : State) (i : Nat) (sl : Slot) : (s.setSlot i sl).resReqs = s.resReqs := rfl
@[simp] theorem State.setSlot_launchSeq (s : State) (i : Nat) (sl : Slot) : (s.setSlot i sl).launchSeq = s.launchSeq := rfl
@[simp] theorem State.setSlot_gangs (s : State) (i : Nat) (sl : Slot) : (s.setSlot i sl).gangs = s.gangs := rfl
@[simp] theorem State.setSlot_coreDrawers (s : State) (i : Nat) (sl : Slot) : (s.setSlot i sl).coreDrawers = s.coreDrawers := rfl
@[simp] theorem State.setSlot_savedHalts (s : State) (i : Nat) (sl : Slot) : (s.setSlot i sl).savedHalts = s.savedHalts := rfl
@[simp] theorem State.setSlot_spill (s : State) (i : Nat) (sl : Slot) : (s.setSlot i sl).spill = s.spill := rfl
@[simp] theorem State.setSlot_endings (s : State) (i : Nat) (sl : Slot) : (s.setSlot i sl).endings = s.endings := rfl
@[simp] theorem State.setSlot_esel (s : State) (i : Nat) (sl : Slot) : (s.setSlot i sl).esel = s.esel := rfl
@[simp] theorem State.setSlot_jbase (s : State) (i : Nat) (sl : Slot) : (s.setSlot i sl).jbase = s.jbase := rfl
@[simp] theorem State.setSlot_jhead (s : State) (i : Nat) (sl : Slot) : (s.setSlot i sl).jhead = s.jhead := rfl
@[simp] theorem State.setSlot_disc (s : State) (i : Nat) (sl : Slot) : (s.setSlot i sl).disc = s.disc := rfl
@[simp] theorem State.setSlot_rfcnt (s : State) (i : Nat) (sl : Slot) : (s.setSlot i sl).rfcnt = s.rfcnt := rfl
@[simp] theorem State.setSlot_refusals (s : State) (i : Nat) (sl : Slot) : (s.setSlot i sl).refusals = s.refusals := rfl
@[simp] theorem State.setSlot_fwMinSvn (s : State) (i : Nat) (sl : Slot) : (s.setSlot i sl).fwMinSvn = s.fwMinSvn := rfl
@[simp] theorem State.setSlot_fwPending (s : State) (i : Nat) (sl : Slot) : (s.setSlot i sl).fwPending = s.fwPending := rfl
@[simp] theorem State.setSlot_clockFaults (s : State) (i : Nat) (sl : Slot) : (s.setSlot i sl).clockFaults = s.clockFaults := rfl
@[simp] theorem State.setSlot_outOfService (s : State) (i : Nat) (sl : Slot) : (s.setSlot i sl).outOfService = s.outOfService := rfl
@[simp] theorem State.setSlot_linkWidth (s : State) (i : Nat) (sl : Slot) : (s.setSlot i sl).linkWidth = s.linkWidth := rfl
@[simp] theorem State.setSlot_enumGen (s : State) (i : Nat) (sl : Slot) : (s.setSlot i sl).enumGen = s.enumGen := rfl
@[simp] theorem State.setSlot_badPages (s : State) (i : Nat) (sl : Slot) : (s.setSlot i sl).badPages = s.badPages := rfl
@[simp] theorem State.setSlot_flash (s : State) (i : Nat) (sl : Slot) : (s.setSlot i sl).flash = s.flash := rfl
@[simp] theorem State.setSlot_mirrors (s : State) (i : Nat) (sl : Slot) : (s.setSlot i sl).mirrors = s.mirrors := rfl
@[simp] theorem State.setSlot_dumps (s : State) (i : Nat) (sl : Slot) : (s.setSlot i sl).dumps = s.dumps := rfl
@[simp] theorem State.setSlot_issued (s : State) (i : Nat) (sl : Slot) : (s.setSlot i sl).issued = s.issued := rfl

@[simp] theorem State.setCore_time (s : State) (c : Nat) (k : Core) : (s.setCore c k).time = s.time := rfl
@[simp] theorem State.setCore_sub (s : State) (c : Nat) (k : Core) : (s.setCore c k).sub = s.sub := rfl
@[simp] theorem State.setCore_timeHold (s : State) (c : Nat) (k : Core) : (s.setCore c k).timeHold = s.timeHold := rfl
@[simp] theorem State.setCore_cycle (s : State) (c : Nat) (k : Core) : (s.setCore c k).cycle = s.cycle := rfl
@[simp] theorem State.setCore_turned (s : State) (c : Nat) (k : Core) : (s.setCore c k).turned = s.turned := rfl
@[simp] theorem State.setCore_cur (s : State) (c : Nat) (k : Core) : (s.setCore c k).cur = s.cur := rfl
@[simp] theorem State.setCore_bumped (s : State) (c : Nat) (k : Core) : (s.setCore c k).bumped = s.bumped := rfl
@[simp] theorem State.setCore_flagged (s : State) (c : Nat) (k : Core) : (s.setCore c k).flagged = s.flagged := rfl
@[simp] theorem State.setCore_bankLast (s : State) (c : Nat) (k : Core) : (s.setCore c k).bankLast = s.bankLast := rfl
@[simp] theorem State.setCore_bankServed (s : State) (c : Nat) (k : Core) : (s.setCore c k).bankServed = s.bankServed := rfl
@[simp] theorem State.setCore_agenda (s : State) (c : Nat) (k : Core) : (s.setCore c k).agenda = s.agenda := rfl
@[simp] theorem State.setCore_freeCtr (s : State) (c : Nat) (k : Core) : (s.setCore c k).freeCtr = s.freeCtr := rfl
@[simp] theorem State.setCore_slots (s : State) (c : Nat) (k : Core) : (s.setCore c k).slots = s.slots := rfl
@[simp] theorem State.setCore_mem (s : State) (c : Nat) (k : Core) : (s.setCore c k).mem = s.mem := rfl
@[simp] theorem State.setCore_lines (s : State) (c : Nat) (k : Core) : (s.setCore c k).lines = s.lines := rfl
@[simp] theorem State.setCore_sliceVer (s : State) (c : Nat) (k : Core) : (s.setCore c k).sliceVer = s.sliceVer := rfl
@[simp] theorem State.setCore_feFull (s : State) (c : Nat) (k : Core) : (s.setCore c k).feFull = s.feFull := rfl
@[simp] theorem State.setCore_feSleep (s : State) (c : Nat) (k : Core) : (s.setCore c k).feSleep = s.feSleep := rfl
@[simp] theorem State.setCore_resv (s : State) (c : Nat) (k : Core) : (s.setCore c k).resv = s.resv := rfl
@[simp] theorem State.setCore_loads (s : State) (c : Nat) (k : Core) : (s.setCore c k).loads = s.loads := rfl
@[simp] theorem State.setCore_atoms (s : State) (c : Nat) (k : Core) : (s.setCore c k).atoms = s.atoms := rfl
@[simp] theorem State.setCore_cntAdds (s : State) (c : Nat) (k : Core) : (s.setCore c k).cntAdds = s.cntAdds := rfl
@[simp] theorem State.setCore_guestAdds (s : State) (c : Nat) (k : Core) : (s.setCore c k).guestAdds = s.guestAdds := rfl
@[simp] theorem State.setCore_flights (s : State) (c : Nat) (k : Core) : (s.setCore c k).flights = s.flights := rfl
@[simp] theorem State.setCore_outbox (s : State) (c : Nat) (k : Core) : (s.setCore c k).outbox = s.outbox := rfl
@[simp] theorem State.setCore_dev (s : State) (c : Nat) (k : Core) : (s.setCore c k).dev = s.dev := rfl
@[simp] theorem State.setCore_present (s : State) (c : Nat) (k : Core) : (s.setCore c k).present = s.present := rfl
@[simp] theorem State.setCore_raf (s : State) (c : Nat) (k : Core) : (s.setCore c k).raf = s.raf := rfl
@[simp] theorem State.setCore_hgsel (s : State) (c : Nat) (k : Core) : (s.setCore c k).hgsel = s.hgsel := rfl
@[simp] theorem State.setCore_hg (s : State) (c : Nat) (k : Core) : (s.setCore c k).hg = s.hg := rfl
@[simp] theorem State.setCore_trapsInFlight (s : State) (c : Nat) (k : Core) : (s.setCore c k).trapsInFlight = s.trapsInFlight := rfl
@[simp] theorem State.setCore_tq (s : State) (c : Nat) (k : Core) : (s.setCore c k).tq = s.tq := rfl
@[simp] theorem State.setCore_tqSeq (s : State) (c : Nat) (k : Core) : (s.setCore c k).tqSeq = s.tqSeq := rfl
@[simp] theorem State.setCore_tqLost (s : State) (c : Nat) (k : Core) : (s.setCore c k).tqLost = s.tqLost := rfl
@[simp] theorem State.setCore_tqOvf (s : State) (c : Nat) (k : Core) : (s.setCore c k).tqOvf = s.tqOvf := rfl
@[simp] theorem State.setCore_tqnote (s : State) (c : Nat) (k : Core) : (s.setCore c k).tqnote = s.tqnote := rfl
@[simp] theorem State.setCore_regions (s : State) (c : Nat) (k : Core) : (s.setCore c k).regions = s.regions := rfl
@[simp] theorem State.setCore_snaps (s : State) (c : Nat) (k : Core) : (s.setCore c k).snaps = s.snaps := rfl
@[simp] theorem State.setCore_snapSerial (s : State) (c : Nat) (k : Core) : (s.setCore c k).snapSerial = s.snapSerial := rfl
@[simp] theorem State.setCore_grade (s : State) (c : Nat) (k : Core) : (s.setCore c k).grade = s.grade := rfl
@[simp] theorem State.setCore_nonlive (s : State) (c : Nat) (k : Core) : (s.setCore c k).nonlive = s.nonlive := rfl
@[simp] theorem State.setCore_defect (s : State) (c : Nat) (k : Core) : (s.setCore c k).defect = s.defect := rfl
@[simp] theorem State.setCore_takeover (s : State) (c : Nat) (k : Core) : (s.setCore c k).takeover = s.takeover := rfl
@[simp] theorem State.setCore_retired (s : State) (c : Nat) (k : Core) : (s.setCore c k).retired = s.retired := rfl
@[simp] theorem State.setCore_failed (s : State) (c : Nat) (k : Core) : (s.setCore c k).failed = s.failed := rfl
@[simp] theorem State.setCore_westWalks (s : State) (c : Nat) (k : Core) : (s.setCore c k).westWalks = s.westWalks := rfl
@[simp] theorem State.setCore_eastWalks (s : State) (c : Nat) (k : Core) : (s.setCore c k).eastWalks = s.eastWalks := rfl
@[simp] theorem State.setCore_stoppedParts (s : State) (c : Nat) (k : Core) : (s.setCore c k).stoppedParts = s.stoppedParts := rfl
@[simp] theorem State.setCore_resident (s : State) (c : Nat) (k : Core) : (s.setCore c k).resident = s.resident := rfl
@[simp] theorem State.setCore_drawers (s : State) (c : Nat) (k : Core) : (s.setCore c k).drawers = s.drawers := rfl
@[simp] theorem State.setCore_halted (s : State) (c : Nat) (k : Core) : (s.setCore c k).halted = s.halted := rfl
@[simp] theorem State.setCore_policy (s : State) (c : Nat) (k : Core) : (s.setCore c k).policy = s.policy := rfl
@[simp] theorem State.setCore_copies (s : State) (c : Nat) (k : Core) : (s.setCore c k).copies = s.copies := rfl
@[simp] theorem State.setCore_colls (s : State) (c : Nat) (k : Core) : (s.setCore c k).colls = s.colls := rfl
@[simp] theorem State.setCore_collCounts (s : State) (c : Nat) (k : Core) : (s.setCore c k).collCounts = s.collCounts := rfl
@[simp] theorem State.setCore_earlyParts (s : State) (c : Nat) (k : Core) : (s.setCore c k).earlyParts = s.earlyParts := rfl
@[simp] theorem State.setCore_devWrites (s : State) (c : Nat) (k : Core) : (s.setCore c k).devWrites = s.devWrites := rfl
@[simp] theorem State.setCore_invals (s : State) (c : Nat) (k : Core) : (s.setCore c k).invals = s.invals := rfl
@[simp] theorem State.setCore_evals (s : State) (c : Nat) (k : Core) : (s.setCore c k).evals = s.evals := rfl
@[simp] theorem State.setCore_wakes (s : State) (c : Nat) (k : Core) : (s.setCore c k).wakes = s.wakes := rfl
@[simp] theorem State.setCore_refDrops (s : State) (c : Nat) (k : Core) : (s.setCore c k).refDrops = s.refDrops := rfl
@[simp] theorem State.setCore_frames (s : State) (c : Nat) (k : Core) : (s.setCore c k).frames = s.frames := rfl
@[simp] theorem State.setCore_sparks (s : State) (c : Nat) (k : Core) : (s.setCore c k).sparks = s.sparks := rfl
@[simp] theorem State.setCore_faultBuf (s : State) (c : Nat) (k : Core) : (s.setCore c k).faultBuf = s.faultBuf := rfl
@[simp] theorem State.setCore_records (s : State) (c : Nat) (k : Core) : (s.setCore c k).records = s.records := rfl
@[simp] theorem State.setCore_sections (s : State) (c : Nat) (k : Core) : (s.setCore c k).sections = s.sections := rfl
@[simp] theorem State.setCore_doomed (s : State) (c : Nat) (k : Core) : (s.setCore c k).doomed = s.doomed := rfl
@[simp] theorem State.setCore_groups (s : State) (c : Nat) (k : Core) : (s.setCore c k).groups = s.groups := rfl
@[simp] theorem State.setCore_experts (s : State) (c : Nat) (k : Core) : (s.setCore c k).experts = s.experts := rfl
@[simp] theorem State.setCore_shelf (s : State) (c : Nat) (k : Core) : (s.setCore c k).shelf = s.shelf := rfl
@[simp] theorem State.setCore_codeQueue (s : State) (c : Nat) (k : Core) : (s.setCore c k).codeQueue = s.codeQueue := rfl
@[simp] theorem State.setCore_retransmit (s : State) (c : Nat) (k : Core) : (s.setCore c k).retransmit = s.retransmit := rfl
@[simp] theorem State.setCore_cupboard (s : State) (c : Nat) (k : Core) : (s.setCore c k).cupboard = s.cupboard := rfl
@[simp] theorem State.setCore_cupLost (s : State) (c : Nat) (k : Core) : (s.setCore c k).cupLost = s.cupLost := rfl
@[simp] theorem State.setCore_settled (s : State) (c : Nat) (k : Core) : (s.setCore c k).settled = s.settled := rfl
@[simp] theorem State.setCore_accepted (s : State) (c : Nat) (k : Core) : (s.setCore c k).accepted = s.accepted := rfl
@[simp] theorem State.setCore_adverts (s : State) (c : Nat) (k : Core) : (s.setCore c k).adverts = s.adverts := rfl
@[simp] theorem State.setCore_posts (s : State) (c : Nat) (k : Core) : (s.setCore c k).posts = s.posts := rfl
@[simp] theorem State.setCore_refused (s : State) (c : Nat) (k : Core) : (s.setCore c k).refused = s.refused := rfl
@[simp] theorem State.setCore_packets (s : State) (c : Nat) (k : Core) : (s.setCore c k).packets = s.packets := rfl
@[simp] theorem State.setCore_nacks (s : State) (c : Nat) (k : Core) : (s.setCore c k).nacks = s.nacks := rfl
@[simp] theorem State.setCore_losses (s : State) (c : Nat) (k : Core) : (s.setCore c k).losses = s.losses := rfl
@[simp] theorem State.setCore_rows (s : State) (c : Nat) (k : Core) : (s.setCore c k).rows = s.rows := rfl
@[simp] theorem State.setCore_places (s : State) (c : Nat) (k : Core) : (s.setCore c k).places = s.places := rfl
@[simp] theorem State.setCore_launches (s : State) (c : Nat) (k : Core) : (s.setCore c k).launches = s.launches := rfl
@[simp] theorem State.setCore_leaseEnds (s : State) (c : Nat) (k : Core) : (s.setCore c k).leaseEnds = s.leaseEnds := rfl
@[simp] theorem State.setCore_resReqs (s : State) (c : Nat) (k : Core) : (s.setCore c k).resReqs = s.resReqs := rfl
@[simp] theorem State.setCore_launchSeq (s : State) (c : Nat) (k : Core) : (s.setCore c k).launchSeq = s.launchSeq := rfl
@[simp] theorem State.setCore_gangs (s : State) (c : Nat) (k : Core) : (s.setCore c k).gangs = s.gangs := rfl
@[simp] theorem State.setCore_coreDrawers (s : State) (c : Nat) (k : Core) : (s.setCore c k).coreDrawers = s.coreDrawers := rfl
@[simp] theorem State.setCore_savedHalts (s : State) (c : Nat) (k : Core) : (s.setCore c k).savedHalts = s.savedHalts := rfl
@[simp] theorem State.setCore_spill (s : State) (c : Nat) (k : Core) : (s.setCore c k).spill = s.spill := rfl
@[simp] theorem State.setCore_endings (s : State) (c : Nat) (k : Core) : (s.setCore c k).endings = s.endings := rfl
@[simp] theorem State.setCore_esel (s : State) (c : Nat) (k : Core) : (s.setCore c k).esel = s.esel := rfl
@[simp] theorem State.setCore_jbase (s : State) (c : Nat) (k : Core) : (s.setCore c k).jbase = s.jbase := rfl
@[simp] theorem State.setCore_jhead (s : State) (c : Nat) (k : Core) : (s.setCore c k).jhead = s.jhead := rfl
@[simp] theorem State.setCore_disc (s : State) (c : Nat) (k : Core) : (s.setCore c k).disc = s.disc := rfl
@[simp] theorem State.setCore_rfcnt (s : State) (c : Nat) (k : Core) : (s.setCore c k).rfcnt = s.rfcnt := rfl
@[simp] theorem State.setCore_refusals (s : State) (c : Nat) (k : Core) : (s.setCore c k).refusals = s.refusals := rfl
@[simp] theorem State.setCore_fwMinSvn (s : State) (c : Nat) (k : Core) : (s.setCore c k).fwMinSvn = s.fwMinSvn := rfl
@[simp] theorem State.setCore_fwPending (s : State) (c : Nat) (k : Core) : (s.setCore c k).fwPending = s.fwPending := rfl
@[simp] theorem State.setCore_clockFaults (s : State) (c : Nat) (k : Core) : (s.setCore c k).clockFaults = s.clockFaults := rfl
@[simp] theorem State.setCore_outOfService (s : State) (c : Nat) (k : Core) : (s.setCore c k).outOfService = s.outOfService := rfl
@[simp] theorem State.setCore_linkWidth (s : State) (c : Nat) (k : Core) : (s.setCore c k).linkWidth = s.linkWidth := rfl
@[simp] theorem State.setCore_enumGen (s : State) (c : Nat) (k : Core) : (s.setCore c k).enumGen = s.enumGen := rfl
@[simp] theorem State.setCore_badPages (s : State) (c : Nat) (k : Core) : (s.setCore c k).badPages = s.badPages := rfl
@[simp] theorem State.setCore_flash (s : State) (c : Nat) (k : Core) : (s.setCore c k).flash = s.flash := rfl
@[simp] theorem State.setCore_mirrors (s : State) (c : Nat) (k : Core) : (s.setCore c k).mirrors = s.mirrors := rfl
@[simp] theorem State.setCore_dumps (s : State) (c : Nat) (k : Core) : (s.setCore c k).dumps = s.dumps := rfl
@[simp] theorem State.setCore_issued (s : State) (c : Nat) (k : Core) : (s.setCore c k).issued = s.issued := rfl

@[simp] theorem State.modSlot_time (s : State) (i : Nat) (f : Slot → Slot) : (s.modSlot i f).time = s.time := rfl
@[simp] theorem State.modSlot_sub (s : State) (i : Nat) (f : Slot → Slot) : (s.modSlot i f).sub = s.sub := rfl
@[simp] theorem State.modSlot_timeHold (s : State) (i : Nat) (f : Slot → Slot) : (s.modSlot i f).timeHold = s.timeHold := rfl
@[simp] theorem State.modSlot_cycle (s : State) (i : Nat) (f : Slot → Slot) : (s.modSlot i f).cycle = s.cycle := rfl
@[simp] theorem State.modSlot_turned (s : State) (i : Nat) (f : Slot → Slot) : (s.modSlot i f).turned = s.turned := rfl
@[simp] theorem State.modSlot_cur (s : State) (i : Nat) (f : Slot → Slot) : (s.modSlot i f).cur = s.cur := rfl
@[simp] theorem State.modSlot_bumped (s : State) (i : Nat) (f : Slot → Slot) : (s.modSlot i f).bumped = s.bumped := rfl
@[simp] theorem State.modSlot_flagged (s : State) (i : Nat) (f : Slot → Slot) : (s.modSlot i f).flagged = s.flagged := rfl
@[simp] theorem State.modSlot_bankLast (s : State) (i : Nat) (f : Slot → Slot) : (s.modSlot i f).bankLast = s.bankLast := rfl
@[simp] theorem State.modSlot_bankServed (s : State) (i : Nat) (f : Slot → Slot) : (s.modSlot i f).bankServed = s.bankServed := rfl
@[simp] theorem State.modSlot_agenda (s : State) (i : Nat) (f : Slot → Slot) : (s.modSlot i f).agenda = s.agenda := rfl
@[simp] theorem State.modSlot_freeCtr (s : State) (i : Nat) (f : Slot → Slot) : (s.modSlot i f).freeCtr = s.freeCtr := rfl
@[simp] theorem State.modSlot_cores (s : State) (i : Nat) (f : Slot → Slot) : (s.modSlot i f).cores = s.cores := rfl
@[simp] theorem State.modSlot_mem (s : State) (i : Nat) (f : Slot → Slot) : (s.modSlot i f).mem = s.mem := rfl
@[simp] theorem State.modSlot_lines (s : State) (i : Nat) (f : Slot → Slot) : (s.modSlot i f).lines = s.lines := rfl
@[simp] theorem State.modSlot_sliceVer (s : State) (i : Nat) (f : Slot → Slot) : (s.modSlot i f).sliceVer = s.sliceVer := rfl
@[simp] theorem State.modSlot_feFull (s : State) (i : Nat) (f : Slot → Slot) : (s.modSlot i f).feFull = s.feFull := rfl
@[simp] theorem State.modSlot_feSleep (s : State) (i : Nat) (f : Slot → Slot) : (s.modSlot i f).feSleep = s.feSleep := rfl
@[simp] theorem State.modSlot_resv (s : State) (i : Nat) (f : Slot → Slot) : (s.modSlot i f).resv = s.resv := rfl
@[simp] theorem State.modSlot_loads (s : State) (i : Nat) (f : Slot → Slot) : (s.modSlot i f).loads = s.loads := rfl
@[simp] theorem State.modSlot_atoms (s : State) (i : Nat) (f : Slot → Slot) : (s.modSlot i f).atoms = s.atoms := rfl
@[simp] theorem State.modSlot_cntAdds (s : State) (i : Nat) (f : Slot → Slot) : (s.modSlot i f).cntAdds = s.cntAdds := rfl
@[simp] theorem State.modSlot_guestAdds (s : State) (i : Nat) (f : Slot → Slot) : (s.modSlot i f).guestAdds = s.guestAdds := rfl
@[simp] theorem State.modSlot_flights (s : State) (i : Nat) (f : Slot → Slot) : (s.modSlot i f).flights = s.flights := rfl
@[simp] theorem State.modSlot_outbox (s : State) (i : Nat) (f : Slot → Slot) : (s.modSlot i f).outbox = s.outbox := rfl
@[simp] theorem State.modSlot_dev (s : State) (i : Nat) (f : Slot → Slot) : (s.modSlot i f).dev = s.dev := rfl
@[simp] theorem State.modSlot_present (s : State) (i : Nat) (f : Slot → Slot) : (s.modSlot i f).present = s.present := rfl
@[simp] theorem State.modSlot_raf (s : State) (i : Nat) (f : Slot → Slot) : (s.modSlot i f).raf = s.raf := rfl
@[simp] theorem State.modSlot_hgsel (s : State) (i : Nat) (f : Slot → Slot) : (s.modSlot i f).hgsel = s.hgsel := rfl
@[simp] theorem State.modSlot_hg (s : State) (i : Nat) (f : Slot → Slot) : (s.modSlot i f).hg = s.hg := rfl
@[simp] theorem State.modSlot_trapsInFlight (s : State) (i : Nat) (f : Slot → Slot) : (s.modSlot i f).trapsInFlight = s.trapsInFlight := rfl
@[simp] theorem State.modSlot_tq (s : State) (i : Nat) (f : Slot → Slot) : (s.modSlot i f).tq = s.tq := rfl
@[simp] theorem State.modSlot_tqSeq (s : State) (i : Nat) (f : Slot → Slot) : (s.modSlot i f).tqSeq = s.tqSeq := rfl
@[simp] theorem State.modSlot_tqLost (s : State) (i : Nat) (f : Slot → Slot) : (s.modSlot i f).tqLost = s.tqLost := rfl
@[simp] theorem State.modSlot_tqOvf (s : State) (i : Nat) (f : Slot → Slot) : (s.modSlot i f).tqOvf = s.tqOvf := rfl
@[simp] theorem State.modSlot_tqnote (s : State) (i : Nat) (f : Slot → Slot) : (s.modSlot i f).tqnote = s.tqnote := rfl
@[simp] theorem State.modSlot_regions (s : State) (i : Nat) (f : Slot → Slot) : (s.modSlot i f).regions = s.regions := rfl
@[simp] theorem State.modSlot_snaps (s : State) (i : Nat) (f : Slot → Slot) : (s.modSlot i f).snaps = s.snaps := rfl
@[simp] theorem State.modSlot_snapSerial (s : State) (i : Nat) (f : Slot → Slot) : (s.modSlot i f).snapSerial = s.snapSerial := rfl
@[simp] theorem State.modSlot_grade (s : State) (i : Nat) (f : Slot → Slot) : (s.modSlot i f).grade = s.grade := rfl
@[simp] theorem State.modSlot_nonlive (s : State) (i : Nat) (f : Slot → Slot) : (s.modSlot i f).nonlive = s.nonlive := rfl
@[simp] theorem State.modSlot_defect (s : State) (i : Nat) (f : Slot → Slot) : (s.modSlot i f).defect = s.defect := rfl
@[simp] theorem State.modSlot_takeover (s : State) (i : Nat) (f : Slot → Slot) : (s.modSlot i f).takeover = s.takeover := rfl
@[simp] theorem State.modSlot_retired (s : State) (i : Nat) (f : Slot → Slot) : (s.modSlot i f).retired = s.retired := rfl
@[simp] theorem State.modSlot_failed (s : State) (i : Nat) (f : Slot → Slot) : (s.modSlot i f).failed = s.failed := rfl
@[simp] theorem State.modSlot_westWalks (s : State) (i : Nat) (f : Slot → Slot) : (s.modSlot i f).westWalks = s.westWalks := rfl
@[simp] theorem State.modSlot_eastWalks (s : State) (i : Nat) (f : Slot → Slot) : (s.modSlot i f).eastWalks = s.eastWalks := rfl
@[simp] theorem State.modSlot_stoppedParts (s : State) (i : Nat) (f : Slot → Slot) : (s.modSlot i f).stoppedParts = s.stoppedParts := rfl
@[simp] theorem State.modSlot_resident (s : State) (i : Nat) (f : Slot → Slot) : (s.modSlot i f).resident = s.resident := rfl
@[simp] theorem State.modSlot_drawers (s : State) (i : Nat) (f : Slot → Slot) : (s.modSlot i f).drawers = s.drawers := rfl
@[simp] theorem State.modSlot_halted (s : State) (i : Nat) (f : Slot → Slot) : (s.modSlot i f).halted = s.halted := rfl
@[simp] theorem State.modSlot_policy (s : State) (i : Nat) (f : Slot → Slot) : (s.modSlot i f).policy = s.policy := rfl
@[simp] theorem State.modSlot_copies (s : State) (i : Nat) (f : Slot → Slot) : (s.modSlot i f).copies = s.copies := rfl
@[simp] theorem State.modSlot_colls (s : State) (i : Nat) (f : Slot → Slot) : (s.modSlot i f).colls = s.colls := rfl
@[simp] theorem State.modSlot_collCounts (s : State) (i : Nat) (f : Slot → Slot) : (s.modSlot i f).collCounts = s.collCounts := rfl
@[simp] theorem State.modSlot_earlyParts (s : State) (i : Nat) (f : Slot → Slot) : (s.modSlot i f).earlyParts = s.earlyParts := rfl
@[simp] theorem State.modSlot_devWrites (s : State) (i : Nat) (f : Slot → Slot) : (s.modSlot i f).devWrites = s.devWrites := rfl
@[simp] theorem State.modSlot_invals (s : State) (i : Nat) (f : Slot → Slot) : (s.modSlot i f).invals = s.invals := rfl
@[simp] theorem State.modSlot_evals (s : State) (i : Nat) (f : Slot → Slot) : (s.modSlot i f).evals = s.evals := rfl
@[simp] theorem State.modSlot_wakes (s : State) (i : Nat) (f : Slot → Slot) : (s.modSlot i f).wakes = s.wakes := rfl
@[simp] theorem State.modSlot_refDrops (s : State) (i : Nat) (f : Slot → Slot) : (s.modSlot i f).refDrops = s.refDrops := rfl
@[simp] theorem State.modSlot_frames (s : State) (i : Nat) (f : Slot → Slot) : (s.modSlot i f).frames = s.frames := rfl
@[simp] theorem State.modSlot_sparks (s : State) (i : Nat) (f : Slot → Slot) : (s.modSlot i f).sparks = s.sparks := rfl
@[simp] theorem State.modSlot_faultBuf (s : State) (i : Nat) (f : Slot → Slot) : (s.modSlot i f).faultBuf = s.faultBuf := rfl
@[simp] theorem State.modSlot_records (s : State) (i : Nat) (f : Slot → Slot) : (s.modSlot i f).records = s.records := rfl
@[simp] theorem State.modSlot_sections (s : State) (i : Nat) (f : Slot → Slot) : (s.modSlot i f).sections = s.sections := rfl
@[simp] theorem State.modSlot_doomed (s : State) (i : Nat) (f : Slot → Slot) : (s.modSlot i f).doomed = s.doomed := rfl
@[simp] theorem State.modSlot_groups (s : State) (i : Nat) (f : Slot → Slot) : (s.modSlot i f).groups = s.groups := rfl
@[simp] theorem State.modSlot_experts (s : State) (i : Nat) (f : Slot → Slot) : (s.modSlot i f).experts = s.experts := rfl
@[simp] theorem State.modSlot_shelf (s : State) (i : Nat) (f : Slot → Slot) : (s.modSlot i f).shelf = s.shelf := rfl
@[simp] theorem State.modSlot_codeQueue (s : State) (i : Nat) (f : Slot → Slot) : (s.modSlot i f).codeQueue = s.codeQueue := rfl
@[simp] theorem State.modSlot_retransmit (s : State) (i : Nat) (f : Slot → Slot) : (s.modSlot i f).retransmit = s.retransmit := rfl
@[simp] theorem State.modSlot_cupboard (s : State) (i : Nat) (f : Slot → Slot) : (s.modSlot i f).cupboard = s.cupboard := rfl
@[simp] theorem State.modSlot_cupLost (s : State) (i : Nat) (f : Slot → Slot) : (s.modSlot i f).cupLost = s.cupLost := rfl
@[simp] theorem State.modSlot_settled (s : State) (i : Nat) (f : Slot → Slot) : (s.modSlot i f).settled = s.settled := rfl
@[simp] theorem State.modSlot_accepted (s : State) (i : Nat) (f : Slot → Slot) : (s.modSlot i f).accepted = s.accepted := rfl
@[simp] theorem State.modSlot_adverts (s : State) (i : Nat) (f : Slot → Slot) : (s.modSlot i f).adverts = s.adverts := rfl
@[simp] theorem State.modSlot_posts (s : State) (i : Nat) (f : Slot → Slot) : (s.modSlot i f).posts = s.posts := rfl
@[simp] theorem State.modSlot_refused (s : State) (i : Nat) (f : Slot → Slot) : (s.modSlot i f).refused = s.refused := rfl
@[simp] theorem State.modSlot_packets (s : State) (i : Nat) (f : Slot → Slot) : (s.modSlot i f).packets = s.packets := rfl
@[simp] theorem State.modSlot_nacks (s : State) (i : Nat) (f : Slot → Slot) : (s.modSlot i f).nacks = s.nacks := rfl
@[simp] theorem State.modSlot_losses (s : State) (i : Nat) (f : Slot → Slot) : (s.modSlot i f).losses = s.losses := rfl
@[simp] theorem State.modSlot_rows (s : State) (i : Nat) (f : Slot → Slot) : (s.modSlot i f).rows = s.rows := rfl
@[simp] theorem State.modSlot_places (s : State) (i : Nat) (f : Slot → Slot) : (s.modSlot i f).places = s.places := rfl
@[simp] theorem State.modSlot_launches (s : State) (i : Nat) (f : Slot → Slot) : (s.modSlot i f).launches = s.launches := rfl
@[simp] theorem State.modSlot_leaseEnds (s : State) (i : Nat) (f : Slot → Slot) : (s.modSlot i f).leaseEnds = s.leaseEnds := rfl
@[simp] theorem State.modSlot_resReqs (s : State) (i : Nat) (f : Slot → Slot) : (s.modSlot i f).resReqs = s.resReqs := rfl
@[simp] theorem State.modSlot_launchSeq (s : State) (i : Nat) (f : Slot → Slot) : (s.modSlot i f).launchSeq = s.launchSeq := rfl
@[simp] theorem State.modSlot_gangs (s : State) (i : Nat) (f : Slot → Slot) : (s.modSlot i f).gangs = s.gangs := rfl
@[simp] theorem State.modSlot_coreDrawers (s : State) (i : Nat) (f : Slot → Slot) : (s.modSlot i f).coreDrawers = s.coreDrawers := rfl
@[simp] theorem State.modSlot_savedHalts (s : State) (i : Nat) (f : Slot → Slot) : (s.modSlot i f).savedHalts = s.savedHalts := rfl
@[simp] theorem State.modSlot_spill (s : State) (i : Nat) (f : Slot → Slot) : (s.modSlot i f).spill = s.spill := rfl
@[simp] theorem State.modSlot_endings (s : State) (i : Nat) (f : Slot → Slot) : (s.modSlot i f).endings = s.endings := rfl
@[simp] theorem State.modSlot_esel (s : State) (i : Nat) (f : Slot → Slot) : (s.modSlot i f).esel = s.esel := rfl
@[simp] theorem State.modSlot_jbase (s : State) (i : Nat) (f : Slot → Slot) : (s.modSlot i f).jbase = s.jbase := rfl
@[simp] theorem State.modSlot_jhead (s : State) (i : Nat) (f : Slot → Slot) : (s.modSlot i f).jhead = s.jhead := rfl
@[simp] theorem State.modSlot_disc (s : State) (i : Nat) (f : Slot → Slot) : (s.modSlot i f).disc = s.disc := rfl
@[simp] theorem State.modSlot_rfcnt (s : State) (i : Nat) (f : Slot → Slot) : (s.modSlot i f).rfcnt = s.rfcnt := rfl
@[simp] theorem State.modSlot_refusals (s : State) (i : Nat) (f : Slot → Slot) : (s.modSlot i f).refusals = s.refusals := rfl
@[simp] theorem State.modSlot_fwMinSvn (s : State) (i : Nat) (f : Slot → Slot) : (s.modSlot i f).fwMinSvn = s.fwMinSvn := rfl
@[simp] theorem State.modSlot_fwPending (s : State) (i : Nat) (f : Slot → Slot) : (s.modSlot i f).fwPending = s.fwPending := rfl
@[simp] theorem State.modSlot_clockFaults (s : State) (i : Nat) (f : Slot → Slot) : (s.modSlot i f).clockFaults = s.clockFaults := rfl
@[simp] theorem State.modSlot_outOfService (s : State) (i : Nat) (f : Slot → Slot) : (s.modSlot i f).outOfService = s.outOfService := rfl
@[simp] theorem State.modSlot_linkWidth (s : State) (i : Nat) (f : Slot → Slot) : (s.modSlot i f).linkWidth = s.linkWidth := rfl
@[simp] theorem State.modSlot_enumGen (s : State) (i : Nat) (f : Slot → Slot) : (s.modSlot i f).enumGen = s.enumGen := rfl
@[simp] theorem State.modSlot_badPages (s : State) (i : Nat) (f : Slot → Slot) : (s.modSlot i f).badPages = s.badPages := rfl
@[simp] theorem State.modSlot_flash (s : State) (i : Nat) (f : Slot → Slot) : (s.modSlot i f).flash = s.flash := rfl
@[simp] theorem State.modSlot_mirrors (s : State) (i : Nat) (f : Slot → Slot) : (s.modSlot i f).mirrors = s.mirrors := rfl
@[simp] theorem State.modSlot_dumps (s : State) (i : Nat) (f : Slot → Slot) : (s.modSlot i f).dumps = s.dumps := rfl
@[simp] theorem State.modSlot_issued (s : State) (i : Nat) (f : Slot → Slot) : (s.modSlot i f).issued = s.issued := rfl

@[simp] theorem State.modCore_time (s : State) (c : Nat) (f : Core → Core) : (s.modCore c f).time = s.time := rfl
@[simp] theorem State.modCore_sub (s : State) (c : Nat) (f : Core → Core) : (s.modCore c f).sub = s.sub := rfl
@[simp] theorem State.modCore_timeHold (s : State) (c : Nat) (f : Core → Core) : (s.modCore c f).timeHold = s.timeHold := rfl
@[simp] theorem State.modCore_cycle (s : State) (c : Nat) (f : Core → Core) : (s.modCore c f).cycle = s.cycle := rfl
@[simp] theorem State.modCore_turned (s : State) (c : Nat) (f : Core → Core) : (s.modCore c f).turned = s.turned := rfl
@[simp] theorem State.modCore_cur (s : State) (c : Nat) (f : Core → Core) : (s.modCore c f).cur = s.cur := rfl
@[simp] theorem State.modCore_bumped (s : State) (c : Nat) (f : Core → Core) : (s.modCore c f).bumped = s.bumped := rfl
@[simp] theorem State.modCore_flagged (s : State) (c : Nat) (f : Core → Core) : (s.modCore c f).flagged = s.flagged := rfl
@[simp] theorem State.modCore_bankLast (s : State) (c : Nat) (f : Core → Core) : (s.modCore c f).bankLast = s.bankLast := rfl
@[simp] theorem State.modCore_bankServed (s : State) (c : Nat) (f : Core → Core) : (s.modCore c f).bankServed = s.bankServed := rfl
@[simp] theorem State.modCore_agenda (s : State) (c : Nat) (f : Core → Core) : (s.modCore c f).agenda = s.agenda := rfl
@[simp] theorem State.modCore_freeCtr (s : State) (c : Nat) (f : Core → Core) : (s.modCore c f).freeCtr = s.freeCtr := rfl
@[simp] theorem State.modCore_slots (s : State) (c : Nat) (f : Core → Core) : (s.modCore c f).slots = s.slots := rfl
@[simp] theorem State.modCore_mem (s : State) (c : Nat) (f : Core → Core) : (s.modCore c f).mem = s.mem := rfl
@[simp] theorem State.modCore_lines (s : State) (c : Nat) (f : Core → Core) : (s.modCore c f).lines = s.lines := rfl
@[simp] theorem State.modCore_sliceVer (s : State) (c : Nat) (f : Core → Core) : (s.modCore c f).sliceVer = s.sliceVer := rfl
@[simp] theorem State.modCore_feFull (s : State) (c : Nat) (f : Core → Core) : (s.modCore c f).feFull = s.feFull := rfl
@[simp] theorem State.modCore_feSleep (s : State) (c : Nat) (f : Core → Core) : (s.modCore c f).feSleep = s.feSleep := rfl
@[simp] theorem State.modCore_resv (s : State) (c : Nat) (f : Core → Core) : (s.modCore c f).resv = s.resv := rfl
@[simp] theorem State.modCore_loads (s : State) (c : Nat) (f : Core → Core) : (s.modCore c f).loads = s.loads := rfl
@[simp] theorem State.modCore_atoms (s : State) (c : Nat) (f : Core → Core) : (s.modCore c f).atoms = s.atoms := rfl
@[simp] theorem State.modCore_cntAdds (s : State) (c : Nat) (f : Core → Core) : (s.modCore c f).cntAdds = s.cntAdds := rfl
@[simp] theorem State.modCore_guestAdds (s : State) (c : Nat) (f : Core → Core) : (s.modCore c f).guestAdds = s.guestAdds := rfl
@[simp] theorem State.modCore_flights (s : State) (c : Nat) (f : Core → Core) : (s.modCore c f).flights = s.flights := rfl
@[simp] theorem State.modCore_outbox (s : State) (c : Nat) (f : Core → Core) : (s.modCore c f).outbox = s.outbox := rfl
@[simp] theorem State.modCore_dev (s : State) (c : Nat) (f : Core → Core) : (s.modCore c f).dev = s.dev := rfl
@[simp] theorem State.modCore_present (s : State) (c : Nat) (f : Core → Core) : (s.modCore c f).present = s.present := rfl
@[simp] theorem State.modCore_raf (s : State) (c : Nat) (f : Core → Core) : (s.modCore c f).raf = s.raf := rfl
@[simp] theorem State.modCore_hgsel (s : State) (c : Nat) (f : Core → Core) : (s.modCore c f).hgsel = s.hgsel := rfl
@[simp] theorem State.modCore_hg (s : State) (c : Nat) (f : Core → Core) : (s.modCore c f).hg = s.hg := rfl
@[simp] theorem State.modCore_trapsInFlight (s : State) (c : Nat) (f : Core → Core) : (s.modCore c f).trapsInFlight = s.trapsInFlight := rfl
@[simp] theorem State.modCore_tq (s : State) (c : Nat) (f : Core → Core) : (s.modCore c f).tq = s.tq := rfl
@[simp] theorem State.modCore_tqSeq (s : State) (c : Nat) (f : Core → Core) : (s.modCore c f).tqSeq = s.tqSeq := rfl
@[simp] theorem State.modCore_tqLost (s : State) (c : Nat) (f : Core → Core) : (s.modCore c f).tqLost = s.tqLost := rfl
@[simp] theorem State.modCore_tqOvf (s : State) (c : Nat) (f : Core → Core) : (s.modCore c f).tqOvf = s.tqOvf := rfl
@[simp] theorem State.modCore_tqnote (s : State) (c : Nat) (f : Core → Core) : (s.modCore c f).tqnote = s.tqnote := rfl
@[simp] theorem State.modCore_regions (s : State) (c : Nat) (f : Core → Core) : (s.modCore c f).regions = s.regions := rfl
@[simp] theorem State.modCore_snaps (s : State) (c : Nat) (f : Core → Core) : (s.modCore c f).snaps = s.snaps := rfl
@[simp] theorem State.modCore_snapSerial (s : State) (c : Nat) (f : Core → Core) : (s.modCore c f).snapSerial = s.snapSerial := rfl
@[simp] theorem State.modCore_grade (s : State) (c : Nat) (f : Core → Core) : (s.modCore c f).grade = s.grade := rfl
@[simp] theorem State.modCore_nonlive (s : State) (c : Nat) (f : Core → Core) : (s.modCore c f).nonlive = s.nonlive := rfl
@[simp] theorem State.modCore_defect (s : State) (c : Nat) (f : Core → Core) : (s.modCore c f).defect = s.defect := rfl
@[simp] theorem State.modCore_takeover (s : State) (c : Nat) (f : Core → Core) : (s.modCore c f).takeover = s.takeover := rfl
@[simp] theorem State.modCore_retired (s : State) (c : Nat) (f : Core → Core) : (s.modCore c f).retired = s.retired := rfl
@[simp] theorem State.modCore_failed (s : State) (c : Nat) (f : Core → Core) : (s.modCore c f).failed = s.failed := rfl
@[simp] theorem State.modCore_westWalks (s : State) (c : Nat) (f : Core → Core) : (s.modCore c f).westWalks = s.westWalks := rfl
@[simp] theorem State.modCore_eastWalks (s : State) (c : Nat) (f : Core → Core) : (s.modCore c f).eastWalks = s.eastWalks := rfl
@[simp] theorem State.modCore_stoppedParts (s : State) (c : Nat) (f : Core → Core) : (s.modCore c f).stoppedParts = s.stoppedParts := rfl
@[simp] theorem State.modCore_resident (s : State) (c : Nat) (f : Core → Core) : (s.modCore c f).resident = s.resident := rfl
@[simp] theorem State.modCore_drawers (s : State) (c : Nat) (f : Core → Core) : (s.modCore c f).drawers = s.drawers := rfl
@[simp] theorem State.modCore_halted (s : State) (c : Nat) (f : Core → Core) : (s.modCore c f).halted = s.halted := rfl
@[simp] theorem State.modCore_policy (s : State) (c : Nat) (f : Core → Core) : (s.modCore c f).policy = s.policy := rfl
@[simp] theorem State.modCore_copies (s : State) (c : Nat) (f : Core → Core) : (s.modCore c f).copies = s.copies := rfl
@[simp] theorem State.modCore_colls (s : State) (c : Nat) (f : Core → Core) : (s.modCore c f).colls = s.colls := rfl
@[simp] theorem State.modCore_collCounts (s : State) (c : Nat) (f : Core → Core) : (s.modCore c f).collCounts = s.collCounts := rfl
@[simp] theorem State.modCore_earlyParts (s : State) (c : Nat) (f : Core → Core) : (s.modCore c f).earlyParts = s.earlyParts := rfl
@[simp] theorem State.modCore_devWrites (s : State) (c : Nat) (f : Core → Core) : (s.modCore c f).devWrites = s.devWrites := rfl
@[simp] theorem State.modCore_invals (s : State) (c : Nat) (f : Core → Core) : (s.modCore c f).invals = s.invals := rfl
@[simp] theorem State.modCore_evals (s : State) (c : Nat) (f : Core → Core) : (s.modCore c f).evals = s.evals := rfl
@[simp] theorem State.modCore_wakes (s : State) (c : Nat) (f : Core → Core) : (s.modCore c f).wakes = s.wakes := rfl
@[simp] theorem State.modCore_refDrops (s : State) (c : Nat) (f : Core → Core) : (s.modCore c f).refDrops = s.refDrops := rfl
@[simp] theorem State.modCore_frames (s : State) (c : Nat) (f : Core → Core) : (s.modCore c f).frames = s.frames := rfl
@[simp] theorem State.modCore_sparks (s : State) (c : Nat) (f : Core → Core) : (s.modCore c f).sparks = s.sparks := rfl
@[simp] theorem State.modCore_faultBuf (s : State) (c : Nat) (f : Core → Core) : (s.modCore c f).faultBuf = s.faultBuf := rfl
@[simp] theorem State.modCore_records (s : State) (c : Nat) (f : Core → Core) : (s.modCore c f).records = s.records := rfl
@[simp] theorem State.modCore_sections (s : State) (c : Nat) (f : Core → Core) : (s.modCore c f).sections = s.sections := rfl
@[simp] theorem State.modCore_doomed (s : State) (c : Nat) (f : Core → Core) : (s.modCore c f).doomed = s.doomed := rfl
@[simp] theorem State.modCore_groups (s : State) (c : Nat) (f : Core → Core) : (s.modCore c f).groups = s.groups := rfl
@[simp] theorem State.modCore_experts (s : State) (c : Nat) (f : Core → Core) : (s.modCore c f).experts = s.experts := rfl
@[simp] theorem State.modCore_shelf (s : State) (c : Nat) (f : Core → Core) : (s.modCore c f).shelf = s.shelf := rfl
@[simp] theorem State.modCore_codeQueue (s : State) (c : Nat) (f : Core → Core) : (s.modCore c f).codeQueue = s.codeQueue := rfl
@[simp] theorem State.modCore_retransmit (s : State) (c : Nat) (f : Core → Core) : (s.modCore c f).retransmit = s.retransmit := rfl
@[simp] theorem State.modCore_cupboard (s : State) (c : Nat) (f : Core → Core) : (s.modCore c f).cupboard = s.cupboard := rfl
@[simp] theorem State.modCore_cupLost (s : State) (c : Nat) (f : Core → Core) : (s.modCore c f).cupLost = s.cupLost := rfl
@[simp] theorem State.modCore_settled (s : State) (c : Nat) (f : Core → Core) : (s.modCore c f).settled = s.settled := rfl
@[simp] theorem State.modCore_accepted (s : State) (c : Nat) (f : Core → Core) : (s.modCore c f).accepted = s.accepted := rfl
@[simp] theorem State.modCore_adverts (s : State) (c : Nat) (f : Core → Core) : (s.modCore c f).adverts = s.adverts := rfl
@[simp] theorem State.modCore_posts (s : State) (c : Nat) (f : Core → Core) : (s.modCore c f).posts = s.posts := rfl
@[simp] theorem State.modCore_refused (s : State) (c : Nat) (f : Core → Core) : (s.modCore c f).refused = s.refused := rfl
@[simp] theorem State.modCore_packets (s : State) (c : Nat) (f : Core → Core) : (s.modCore c f).packets = s.packets := rfl
@[simp] theorem State.modCore_nacks (s : State) (c : Nat) (f : Core → Core) : (s.modCore c f).nacks = s.nacks := rfl
@[simp] theorem State.modCore_losses (s : State) (c : Nat) (f : Core → Core) : (s.modCore c f).losses = s.losses := rfl
@[simp] theorem State.modCore_rows (s : State) (c : Nat) (f : Core → Core) : (s.modCore c f).rows = s.rows := rfl
@[simp] theorem State.modCore_places (s : State) (c : Nat) (f : Core → Core) : (s.modCore c f).places = s.places := rfl
@[simp] theorem State.modCore_launches (s : State) (c : Nat) (f : Core → Core) : (s.modCore c f).launches = s.launches := rfl
@[simp] theorem State.modCore_leaseEnds (s : State) (c : Nat) (f : Core → Core) : (s.modCore c f).leaseEnds = s.leaseEnds := rfl
@[simp] theorem State.modCore_resReqs (s : State) (c : Nat) (f : Core → Core) : (s.modCore c f).resReqs = s.resReqs := rfl
@[simp] theorem State.modCore_launchSeq (s : State) (c : Nat) (f : Core → Core) : (s.modCore c f).launchSeq = s.launchSeq := rfl
@[simp] theorem State.modCore_gangs (s : State) (c : Nat) (f : Core → Core) : (s.modCore c f).gangs = s.gangs := rfl
@[simp] theorem State.modCore_coreDrawers (s : State) (c : Nat) (f : Core → Core) : (s.modCore c f).coreDrawers = s.coreDrawers := rfl
@[simp] theorem State.modCore_savedHalts (s : State) (c : Nat) (f : Core → Core) : (s.modCore c f).savedHalts = s.savedHalts := rfl
@[simp] theorem State.modCore_spill (s : State) (c : Nat) (f : Core → Core) : (s.modCore c f).spill = s.spill := rfl
@[simp] theorem State.modCore_endings (s : State) (c : Nat) (f : Core → Core) : (s.modCore c f).endings = s.endings := rfl
@[simp] theorem State.modCore_esel (s : State) (c : Nat) (f : Core → Core) : (s.modCore c f).esel = s.esel := rfl
@[simp] theorem State.modCore_jbase (s : State) (c : Nat) (f : Core → Core) : (s.modCore c f).jbase = s.jbase := rfl
@[simp] theorem State.modCore_jhead (s : State) (c : Nat) (f : Core → Core) : (s.modCore c f).jhead = s.jhead := rfl
@[simp] theorem State.modCore_disc (s : State) (c : Nat) (f : Core → Core) : (s.modCore c f).disc = s.disc := rfl
@[simp] theorem State.modCore_rfcnt (s : State) (c : Nat) (f : Core → Core) : (s.modCore c f).rfcnt = s.rfcnt := rfl
@[simp] theorem State.modCore_refusals (s : State) (c : Nat) (f : Core → Core) : (s.modCore c f).refusals = s.refusals := rfl
@[simp] theorem State.modCore_fwMinSvn (s : State) (c : Nat) (f : Core → Core) : (s.modCore c f).fwMinSvn = s.fwMinSvn := rfl
@[simp] theorem State.modCore_fwPending (s : State) (c : Nat) (f : Core → Core) : (s.modCore c f).fwPending = s.fwPending := rfl
@[simp] theorem State.modCore_clockFaults (s : State) (c : Nat) (f : Core → Core) : (s.modCore c f).clockFaults = s.clockFaults := rfl
@[simp] theorem State.modCore_outOfService (s : State) (c : Nat) (f : Core → Core) : (s.modCore c f).outOfService = s.outOfService := rfl
@[simp] theorem State.modCore_linkWidth (s : State) (c : Nat) (f : Core → Core) : (s.modCore c f).linkWidth = s.linkWidth := rfl
@[simp] theorem State.modCore_enumGen (s : State) (c : Nat) (f : Core → Core) : (s.modCore c f).enumGen = s.enumGen := rfl
@[simp] theorem State.modCore_badPages (s : State) (c : Nat) (f : Core → Core) : (s.modCore c f).badPages = s.badPages := rfl
@[simp] theorem State.modCore_flash (s : State) (c : Nat) (f : Core → Core) : (s.modCore c f).flash = s.flash := rfl
@[simp] theorem State.modCore_mirrors (s : State) (c : Nat) (f : Core → Core) : (s.modCore c f).mirrors = s.mirrors := rfl
@[simp] theorem State.modCore_dumps (s : State) (c : Nat) (f : Core → Core) : (s.modCore c f).dumps = s.dumps := rfl
@[simp] theorem State.modCore_issued (s : State) (c : Nat) (f : Core → Core) : (s.modCore c f).issued = s.issued := rfl

@[simp] theorem State.modMe_time (s : State) (f : Slot → Slot) : (s.modMe f).time = s.time := rfl
@[simp] theorem State.modMe_sub (s : State) (f : Slot → Slot) : (s.modMe f).sub = s.sub := rfl
@[simp] theorem State.modMe_timeHold (s : State) (f : Slot → Slot) : (s.modMe f).timeHold = s.timeHold := rfl
@[simp] theorem State.modMe_cycle (s : State) (f : Slot → Slot) : (s.modMe f).cycle = s.cycle := rfl
@[simp] theorem State.modMe_turned (s : State) (f : Slot → Slot) : (s.modMe f).turned = s.turned := rfl
@[simp] theorem State.modMe_cur (s : State) (f : Slot → Slot) : (s.modMe f).cur = s.cur := rfl
@[simp] theorem State.modMe_bumped (s : State) (f : Slot → Slot) : (s.modMe f).bumped = s.bumped := rfl
@[simp] theorem State.modMe_flagged (s : State) (f : Slot → Slot) : (s.modMe f).flagged = s.flagged := rfl
@[simp] theorem State.modMe_bankLast (s : State) (f : Slot → Slot) : (s.modMe f).bankLast = s.bankLast := rfl
@[simp] theorem State.modMe_bankServed (s : State) (f : Slot → Slot) : (s.modMe f).bankServed = s.bankServed := rfl
@[simp] theorem State.modMe_agenda (s : State) (f : Slot → Slot) : (s.modMe f).agenda = s.agenda := rfl
@[simp] theorem State.modMe_freeCtr (s : State) (f : Slot → Slot) : (s.modMe f).freeCtr = s.freeCtr := rfl
@[simp] theorem State.modMe_cores (s : State) (f : Slot → Slot) : (s.modMe f).cores = s.cores := rfl
@[simp] theorem State.modMe_mem (s : State) (f : Slot → Slot) : (s.modMe f).mem = s.mem := rfl
@[simp] theorem State.modMe_lines (s : State) (f : Slot → Slot) : (s.modMe f).lines = s.lines := rfl
@[simp] theorem State.modMe_sliceVer (s : State) (f : Slot → Slot) : (s.modMe f).sliceVer = s.sliceVer := rfl
@[simp] theorem State.modMe_feFull (s : State) (f : Slot → Slot) : (s.modMe f).feFull = s.feFull := rfl
@[simp] theorem State.modMe_feSleep (s : State) (f : Slot → Slot) : (s.modMe f).feSleep = s.feSleep := rfl
@[simp] theorem State.modMe_resv (s : State) (f : Slot → Slot) : (s.modMe f).resv = s.resv := rfl
@[simp] theorem State.modMe_loads (s : State) (f : Slot → Slot) : (s.modMe f).loads = s.loads := rfl
@[simp] theorem State.modMe_atoms (s : State) (f : Slot → Slot) : (s.modMe f).atoms = s.atoms := rfl
@[simp] theorem State.modMe_cntAdds (s : State) (f : Slot → Slot) : (s.modMe f).cntAdds = s.cntAdds := rfl
@[simp] theorem State.modMe_guestAdds (s : State) (f : Slot → Slot) : (s.modMe f).guestAdds = s.guestAdds := rfl
@[simp] theorem State.modMe_flights (s : State) (f : Slot → Slot) : (s.modMe f).flights = s.flights := rfl
@[simp] theorem State.modMe_outbox (s : State) (f : Slot → Slot) : (s.modMe f).outbox = s.outbox := rfl
@[simp] theorem State.modMe_dev (s : State) (f : Slot → Slot) : (s.modMe f).dev = s.dev := rfl
@[simp] theorem State.modMe_present (s : State) (f : Slot → Slot) : (s.modMe f).present = s.present := rfl
@[simp] theorem State.modMe_raf (s : State) (f : Slot → Slot) : (s.modMe f).raf = s.raf := rfl
@[simp] theorem State.modMe_hgsel (s : State) (f : Slot → Slot) : (s.modMe f).hgsel = s.hgsel := rfl
@[simp] theorem State.modMe_hg (s : State) (f : Slot → Slot) : (s.modMe f).hg = s.hg := rfl
@[simp] theorem State.modMe_trapsInFlight (s : State) (f : Slot → Slot) : (s.modMe f).trapsInFlight = s.trapsInFlight := rfl
@[simp] theorem State.modMe_tq (s : State) (f : Slot → Slot) : (s.modMe f).tq = s.tq := rfl
@[simp] theorem State.modMe_tqSeq (s : State) (f : Slot → Slot) : (s.modMe f).tqSeq = s.tqSeq := rfl
@[simp] theorem State.modMe_tqLost (s : State) (f : Slot → Slot) : (s.modMe f).tqLost = s.tqLost := rfl
@[simp] theorem State.modMe_tqOvf (s : State) (f : Slot → Slot) : (s.modMe f).tqOvf = s.tqOvf := rfl
@[simp] theorem State.modMe_tqnote (s : State) (f : Slot → Slot) : (s.modMe f).tqnote = s.tqnote := rfl
@[simp] theorem State.modMe_regions (s : State) (f : Slot → Slot) : (s.modMe f).regions = s.regions := rfl
@[simp] theorem State.modMe_snaps (s : State) (f : Slot → Slot) : (s.modMe f).snaps = s.snaps := rfl
@[simp] theorem State.modMe_snapSerial (s : State) (f : Slot → Slot) : (s.modMe f).snapSerial = s.snapSerial := rfl
@[simp] theorem State.modMe_grade (s : State) (f : Slot → Slot) : (s.modMe f).grade = s.grade := rfl
@[simp] theorem State.modMe_nonlive (s : State) (f : Slot → Slot) : (s.modMe f).nonlive = s.nonlive := rfl
@[simp] theorem State.modMe_defect (s : State) (f : Slot → Slot) : (s.modMe f).defect = s.defect := rfl
@[simp] theorem State.modMe_takeover (s : State) (f : Slot → Slot) : (s.modMe f).takeover = s.takeover := rfl
@[simp] theorem State.modMe_retired (s : State) (f : Slot → Slot) : (s.modMe f).retired = s.retired := rfl
@[simp] theorem State.modMe_failed (s : State) (f : Slot → Slot) : (s.modMe f).failed = s.failed := rfl
@[simp] theorem State.modMe_westWalks (s : State) (f : Slot → Slot) : (s.modMe f).westWalks = s.westWalks := rfl
@[simp] theorem State.modMe_eastWalks (s : State) (f : Slot → Slot) : (s.modMe f).eastWalks = s.eastWalks := rfl
@[simp] theorem State.modMe_stoppedParts (s : State) (f : Slot → Slot) : (s.modMe f).stoppedParts = s.stoppedParts := rfl
@[simp] theorem State.modMe_resident (s : State) (f : Slot → Slot) : (s.modMe f).resident = s.resident := rfl
@[simp] theorem State.modMe_drawers (s : State) (f : Slot → Slot) : (s.modMe f).drawers = s.drawers := rfl
@[simp] theorem State.modMe_halted (s : State) (f : Slot → Slot) : (s.modMe f).halted = s.halted := rfl
@[simp] theorem State.modMe_policy (s : State) (f : Slot → Slot) : (s.modMe f).policy = s.policy := rfl
@[simp] theorem State.modMe_copies (s : State) (f : Slot → Slot) : (s.modMe f).copies = s.copies := rfl
@[simp] theorem State.modMe_colls (s : State) (f : Slot → Slot) : (s.modMe f).colls = s.colls := rfl
@[simp] theorem State.modMe_collCounts (s : State) (f : Slot → Slot) : (s.modMe f).collCounts = s.collCounts := rfl
@[simp] theorem State.modMe_earlyParts (s : State) (f : Slot → Slot) : (s.modMe f).earlyParts = s.earlyParts := rfl
@[simp] theorem State.modMe_devWrites (s : State) (f : Slot → Slot) : (s.modMe f).devWrites = s.devWrites := rfl
@[simp] theorem State.modMe_invals (s : State) (f : Slot → Slot) : (s.modMe f).invals = s.invals := rfl
@[simp] theorem State.modMe_evals (s : State) (f : Slot → Slot) : (s.modMe f).evals = s.evals := rfl
@[simp] theorem State.modMe_wakes (s : State) (f : Slot → Slot) : (s.modMe f).wakes = s.wakes := rfl
@[simp] theorem State.modMe_refDrops (s : State) (f : Slot → Slot) : (s.modMe f).refDrops = s.refDrops := rfl
@[simp] theorem State.modMe_frames (s : State) (f : Slot → Slot) : (s.modMe f).frames = s.frames := rfl
@[simp] theorem State.modMe_sparks (s : State) (f : Slot → Slot) : (s.modMe f).sparks = s.sparks := rfl
@[simp] theorem State.modMe_faultBuf (s : State) (f : Slot → Slot) : (s.modMe f).faultBuf = s.faultBuf := rfl
@[simp] theorem State.modMe_records (s : State) (f : Slot → Slot) : (s.modMe f).records = s.records := rfl
@[simp] theorem State.modMe_sections (s : State) (f : Slot → Slot) : (s.modMe f).sections = s.sections := rfl
@[simp] theorem State.modMe_doomed (s : State) (f : Slot → Slot) : (s.modMe f).doomed = s.doomed := rfl
@[simp] theorem State.modMe_groups (s : State) (f : Slot → Slot) : (s.modMe f).groups = s.groups := rfl
@[simp] theorem State.modMe_experts (s : State) (f : Slot → Slot) : (s.modMe f).experts = s.experts := rfl
@[simp] theorem State.modMe_shelf (s : State) (f : Slot → Slot) : (s.modMe f).shelf = s.shelf := rfl
@[simp] theorem State.modMe_codeQueue (s : State) (f : Slot → Slot) : (s.modMe f).codeQueue = s.codeQueue := rfl
@[simp] theorem State.modMe_retransmit (s : State) (f : Slot → Slot) : (s.modMe f).retransmit = s.retransmit := rfl
@[simp] theorem State.modMe_cupboard (s : State) (f : Slot → Slot) : (s.modMe f).cupboard = s.cupboard := rfl
@[simp] theorem State.modMe_cupLost (s : State) (f : Slot → Slot) : (s.modMe f).cupLost = s.cupLost := rfl
@[simp] theorem State.modMe_settled (s : State) (f : Slot → Slot) : (s.modMe f).settled = s.settled := rfl
@[simp] theorem State.modMe_accepted (s : State) (f : Slot → Slot) : (s.modMe f).accepted = s.accepted := rfl
@[simp] theorem State.modMe_adverts (s : State) (f : Slot → Slot) : (s.modMe f).adverts = s.adverts := rfl
@[simp] theorem State.modMe_posts (s : State) (f : Slot → Slot) : (s.modMe f).posts = s.posts := rfl
@[simp] theorem State.modMe_refused (s : State) (f : Slot → Slot) : (s.modMe f).refused = s.refused := rfl
@[simp] theorem State.modMe_packets (s : State) (f : Slot → Slot) : (s.modMe f).packets = s.packets := rfl
@[simp] theorem State.modMe_nacks (s : State) (f : Slot → Slot) : (s.modMe f).nacks = s.nacks := rfl
@[simp] theorem State.modMe_losses (s : State) (f : Slot → Slot) : (s.modMe f).losses = s.losses := rfl
@[simp] theorem State.modMe_rows (s : State) (f : Slot → Slot) : (s.modMe f).rows = s.rows := rfl
@[simp] theorem State.modMe_places (s : State) (f : Slot → Slot) : (s.modMe f).places = s.places := rfl
@[simp] theorem State.modMe_launches (s : State) (f : Slot → Slot) : (s.modMe f).launches = s.launches := rfl
@[simp] theorem State.modMe_leaseEnds (s : State) (f : Slot → Slot) : (s.modMe f).leaseEnds = s.leaseEnds := rfl
@[simp] theorem State.modMe_resReqs (s : State) (f : Slot → Slot) : (s.modMe f).resReqs = s.resReqs := rfl
@[simp] theorem State.modMe_launchSeq (s : State) (f : Slot → Slot) : (s.modMe f).launchSeq = s.launchSeq := rfl
@[simp] theorem State.modMe_gangs (s : State) (f : Slot → Slot) : (s.modMe f).gangs = s.gangs := rfl
@[simp] theorem State.modMe_coreDrawers (s : State) (f : Slot → Slot) : (s.modMe f).coreDrawers = s.coreDrawers := rfl
@[simp] theorem State.modMe_savedHalts (s : State) (f : Slot → Slot) : (s.modMe f).savedHalts = s.savedHalts := rfl
@[simp] theorem State.modMe_spill (s : State) (f : Slot → Slot) : (s.modMe f).spill = s.spill := rfl
@[simp] theorem State.modMe_endings (s : State) (f : Slot → Slot) : (s.modMe f).endings = s.endings := rfl
@[simp] theorem State.modMe_esel (s : State) (f : Slot → Slot) : (s.modMe f).esel = s.esel := rfl
@[simp] theorem State.modMe_jbase (s : State) (f : Slot → Slot) : (s.modMe f).jbase = s.jbase := rfl
@[simp] theorem State.modMe_jhead (s : State) (f : Slot → Slot) : (s.modMe f).jhead = s.jhead := rfl
@[simp] theorem State.modMe_disc (s : State) (f : Slot → Slot) : (s.modMe f).disc = s.disc := rfl
@[simp] theorem State.modMe_rfcnt (s : State) (f : Slot → Slot) : (s.modMe f).rfcnt = s.rfcnt := rfl
@[simp] theorem State.modMe_refusals (s : State) (f : Slot → Slot) : (s.modMe f).refusals = s.refusals := rfl
@[simp] theorem State.modMe_fwMinSvn (s : State) (f : Slot → Slot) : (s.modMe f).fwMinSvn = s.fwMinSvn := rfl
@[simp] theorem State.modMe_fwPending (s : State) (f : Slot → Slot) : (s.modMe f).fwPending = s.fwPending := rfl
@[simp] theorem State.modMe_clockFaults (s : State) (f : Slot → Slot) : (s.modMe f).clockFaults = s.clockFaults := rfl
@[simp] theorem State.modMe_outOfService (s : State) (f : Slot → Slot) : (s.modMe f).outOfService = s.outOfService := rfl
@[simp] theorem State.modMe_linkWidth (s : State) (f : Slot → Slot) : (s.modMe f).linkWidth = s.linkWidth := rfl
@[simp] theorem State.modMe_enumGen (s : State) (f : Slot → Slot) : (s.modMe f).enumGen = s.enumGen := rfl
@[simp] theorem State.modMe_badPages (s : State) (f : Slot → Slot) : (s.modMe f).badPages = s.badPages := rfl
@[simp] theorem State.modMe_flash (s : State) (f : Slot → Slot) : (s.modMe f).flash = s.flash := rfl
@[simp] theorem State.modMe_mirrors (s : State) (f : Slot → Slot) : (s.modMe f).mirrors = s.mirrors := rfl
@[simp] theorem State.modMe_dumps (s : State) (f : Slot → Slot) : (s.modMe f).dumps = s.dumps := rfl
@[simp] theorem State.modMe_issued (s : State) (f : Slot → Slot) : (s.modMe f).issued = s.issued := rfl

@[simp] theorem State.sendRecord_time (s : State) (r : TrapRec) : (s.sendRecord r).time = s.time := rfl
@[simp] theorem State.sendRecord_sub (s : State) (r : TrapRec) : (s.sendRecord r).sub = s.sub := rfl
@[simp] theorem State.sendRecord_timeHold (s : State) (r : TrapRec) : (s.sendRecord r).timeHold = s.timeHold := rfl
@[simp] theorem State.sendRecord_cycle (s : State) (r : TrapRec) : (s.sendRecord r).cycle = s.cycle := rfl
@[simp] theorem State.sendRecord_turned (s : State) (r : TrapRec) : (s.sendRecord r).turned = s.turned := rfl
@[simp] theorem State.sendRecord_cur (s : State) (r : TrapRec) : (s.sendRecord r).cur = s.cur := rfl
@[simp] theorem State.sendRecord_bumped (s : State) (r : TrapRec) : (s.sendRecord r).bumped = s.bumped := rfl
@[simp] theorem State.sendRecord_flagged (s : State) (r : TrapRec) : (s.sendRecord r).flagged = s.flagged := rfl
@[simp] theorem State.sendRecord_bankLast (s : State) (r : TrapRec) : (s.sendRecord r).bankLast = s.bankLast := rfl
@[simp] theorem State.sendRecord_bankServed (s : State) (r : TrapRec) : (s.sendRecord r).bankServed = s.bankServed := rfl
@[simp] theorem State.sendRecord_agenda (s : State) (r : TrapRec) : (s.sendRecord r).agenda = s.agenda := rfl
@[simp] theorem State.sendRecord_freeCtr (s : State) (r : TrapRec) : (s.sendRecord r).freeCtr = s.freeCtr := rfl
@[simp] theorem State.sendRecord_slots (s : State) (r : TrapRec) : (s.sendRecord r).slots = s.slots := rfl
@[simp] theorem State.sendRecord_cores (s : State) (r : TrapRec) : (s.sendRecord r).cores = s.cores := rfl
@[simp] theorem State.sendRecord_mem (s : State) (r : TrapRec) : (s.sendRecord r).mem = s.mem := rfl
@[simp] theorem State.sendRecord_lines (s : State) (r : TrapRec) : (s.sendRecord r).lines = s.lines := rfl
@[simp] theorem State.sendRecord_sliceVer (s : State) (r : TrapRec) : (s.sendRecord r).sliceVer = s.sliceVer := rfl
@[simp] theorem State.sendRecord_feFull (s : State) (r : TrapRec) : (s.sendRecord r).feFull = s.feFull := rfl
@[simp] theorem State.sendRecord_feSleep (s : State) (r : TrapRec) : (s.sendRecord r).feSleep = s.feSleep := rfl
@[simp] theorem State.sendRecord_resv (s : State) (r : TrapRec) : (s.sendRecord r).resv = s.resv := rfl
@[simp] theorem State.sendRecord_loads (s : State) (r : TrapRec) : (s.sendRecord r).loads = s.loads := rfl
@[simp] theorem State.sendRecord_atoms (s : State) (r : TrapRec) : (s.sendRecord r).atoms = s.atoms := rfl
@[simp] theorem State.sendRecord_cntAdds (s : State) (r : TrapRec) : (s.sendRecord r).cntAdds = s.cntAdds := rfl
@[simp] theorem State.sendRecord_guestAdds (s : State) (r : TrapRec) : (s.sendRecord r).guestAdds = s.guestAdds := rfl
@[simp] theorem State.sendRecord_flights (s : State) (r : TrapRec) : (s.sendRecord r).flights = s.flights := rfl
@[simp] theorem State.sendRecord_outbox (s : State) (r : TrapRec) : (s.sendRecord r).outbox = s.outbox := rfl
@[simp] theorem State.sendRecord_dev (s : State) (r : TrapRec) : (s.sendRecord r).dev = s.dev := rfl
@[simp] theorem State.sendRecord_present (s : State) (r : TrapRec) : (s.sendRecord r).present = s.present := rfl
@[simp] theorem State.sendRecord_raf (s : State) (r : TrapRec) : (s.sendRecord r).raf = s.raf := rfl
@[simp] theorem State.sendRecord_hgsel (s : State) (r : TrapRec) : (s.sendRecord r).hgsel = s.hgsel := rfl
@[simp] theorem State.sendRecord_hg (s : State) (r : TrapRec) : (s.sendRecord r).hg = s.hg := rfl
@[simp] theorem State.sendRecord_tq (s : State) (r : TrapRec) : (s.sendRecord r).tq = s.tq := rfl
@[simp] theorem State.sendRecord_tqSeq (s : State) (r : TrapRec) : (s.sendRecord r).tqSeq = s.tqSeq := rfl
@[simp] theorem State.sendRecord_tqLost (s : State) (r : TrapRec) : (s.sendRecord r).tqLost = s.tqLost := rfl
@[simp] theorem State.sendRecord_tqOvf (s : State) (r : TrapRec) : (s.sendRecord r).tqOvf = s.tqOvf := rfl
@[simp] theorem State.sendRecord_tqnote (s : State) (r : TrapRec) : (s.sendRecord r).tqnote = s.tqnote := rfl
@[simp] theorem State.sendRecord_regions (s : State) (r : TrapRec) : (s.sendRecord r).regions = s.regions := rfl
@[simp] theorem State.sendRecord_snaps (s : State) (r : TrapRec) : (s.sendRecord r).snaps = s.snaps := rfl
@[simp] theorem State.sendRecord_snapSerial (s : State) (r : TrapRec) : (s.sendRecord r).snapSerial = s.snapSerial := rfl
@[simp] theorem State.sendRecord_grade (s : State) (r : TrapRec) : (s.sendRecord r).grade = s.grade := rfl
@[simp] theorem State.sendRecord_nonlive (s : State) (r : TrapRec) : (s.sendRecord r).nonlive = s.nonlive := rfl
@[simp] theorem State.sendRecord_defect (s : State) (r : TrapRec) : (s.sendRecord r).defect = s.defect := rfl
@[simp] theorem State.sendRecord_takeover (s : State) (r : TrapRec) : (s.sendRecord r).takeover = s.takeover := rfl
@[simp] theorem State.sendRecord_retired (s : State) (r : TrapRec) : (s.sendRecord r).retired = s.retired := rfl
@[simp] theorem State.sendRecord_failed (s : State) (r : TrapRec) : (s.sendRecord r).failed = s.failed := rfl
@[simp] theorem State.sendRecord_westWalks (s : State) (r : TrapRec) : (s.sendRecord r).westWalks = s.westWalks := rfl
@[simp] theorem State.sendRecord_eastWalks (s : State) (r : TrapRec) : (s.sendRecord r).eastWalks = s.eastWalks := rfl
@[simp] theorem State.sendRecord_stoppedParts (s : State) (r : TrapRec) : (s.sendRecord r).stoppedParts = s.stoppedParts := rfl
@[simp] theorem State.sendRecord_resident (s : State) (r : TrapRec) : (s.sendRecord r).resident = s.resident := rfl
@[simp] theorem State.sendRecord_drawers (s : State) (r : TrapRec) : (s.sendRecord r).drawers = s.drawers := rfl
@[simp] theorem State.sendRecord_halted (s : State) (r : TrapRec) : (s.sendRecord r).halted = s.halted := rfl
@[simp] theorem State.sendRecord_policy (s : State) (r : TrapRec) : (s.sendRecord r).policy = s.policy := rfl
@[simp] theorem State.sendRecord_copies (s : State) (r : TrapRec) : (s.sendRecord r).copies = s.copies := rfl
@[simp] theorem State.sendRecord_colls (s : State) (r : TrapRec) : (s.sendRecord r).colls = s.colls := rfl
@[simp] theorem State.sendRecord_collCounts (s : State) (r : TrapRec) : (s.sendRecord r).collCounts = s.collCounts := rfl
@[simp] theorem State.sendRecord_earlyParts (s : State) (r : TrapRec) : (s.sendRecord r).earlyParts = s.earlyParts := rfl
@[simp] theorem State.sendRecord_devWrites (s : State) (r : TrapRec) : (s.sendRecord r).devWrites = s.devWrites := rfl
@[simp] theorem State.sendRecord_invals (s : State) (r : TrapRec) : (s.sendRecord r).invals = s.invals := rfl
@[simp] theorem State.sendRecord_evals (s : State) (r : TrapRec) : (s.sendRecord r).evals = s.evals := rfl
@[simp] theorem State.sendRecord_wakes (s : State) (r : TrapRec) : (s.sendRecord r).wakes = s.wakes := rfl
@[simp] theorem State.sendRecord_refDrops (s : State) (r : TrapRec) : (s.sendRecord r).refDrops = s.refDrops := rfl
@[simp] theorem State.sendRecord_frames (s : State) (r : TrapRec) : (s.sendRecord r).frames = s.frames := rfl
@[simp] theorem State.sendRecord_sparks (s : State) (r : TrapRec) : (s.sendRecord r).sparks = s.sparks := rfl
@[simp] theorem State.sendRecord_faultBuf (s : State) (r : TrapRec) : (s.sendRecord r).faultBuf = s.faultBuf := rfl
@[simp] theorem State.sendRecord_records (s : State) (r : TrapRec) : (s.sendRecord r).records = s.records := rfl
@[simp] theorem State.sendRecord_sections (s : State) (r : TrapRec) : (s.sendRecord r).sections = s.sections := rfl
@[simp] theorem State.sendRecord_doomed (s : State) (r : TrapRec) : (s.sendRecord r).doomed = s.doomed := rfl
@[simp] theorem State.sendRecord_groups (s : State) (r : TrapRec) : (s.sendRecord r).groups = s.groups := rfl
@[simp] theorem State.sendRecord_experts (s : State) (r : TrapRec) : (s.sendRecord r).experts = s.experts := rfl
@[simp] theorem State.sendRecord_shelf (s : State) (r : TrapRec) : (s.sendRecord r).shelf = s.shelf := rfl
@[simp] theorem State.sendRecord_codeQueue (s : State) (r : TrapRec) : (s.sendRecord r).codeQueue = s.codeQueue := rfl
@[simp] theorem State.sendRecord_retransmit (s : State) (r : TrapRec) : (s.sendRecord r).retransmit = s.retransmit := rfl
@[simp] theorem State.sendRecord_cupboard (s : State) (r : TrapRec) : (s.sendRecord r).cupboard = s.cupboard := rfl
@[simp] theorem State.sendRecord_cupLost (s : State) (r : TrapRec) : (s.sendRecord r).cupLost = s.cupLost := rfl
@[simp] theorem State.sendRecord_settled (s : State) (r : TrapRec) : (s.sendRecord r).settled = s.settled := rfl
@[simp] theorem State.sendRecord_accepted (s : State) (r : TrapRec) : (s.sendRecord r).accepted = s.accepted := rfl
@[simp] theorem State.sendRecord_adverts (s : State) (r : TrapRec) : (s.sendRecord r).adverts = s.adverts := rfl
@[simp] theorem State.sendRecord_posts (s : State) (r : TrapRec) : (s.sendRecord r).posts = s.posts := rfl
@[simp] theorem State.sendRecord_refused (s : State) (r : TrapRec) : (s.sendRecord r).refused = s.refused := rfl
@[simp] theorem State.sendRecord_packets (s : State) (r : TrapRec) : (s.sendRecord r).packets = s.packets := rfl
@[simp] theorem State.sendRecord_nacks (s : State) (r : TrapRec) : (s.sendRecord r).nacks = s.nacks := rfl
@[simp] theorem State.sendRecord_losses (s : State) (r : TrapRec) : (s.sendRecord r).losses = s.losses := rfl
@[simp] theorem State.sendRecord_rows (s : State) (r : TrapRec) : (s.sendRecord r).rows = s.rows := rfl
@[simp] theorem State.sendRecord_places (s : State) (r : TrapRec) : (s.sendRecord r).places = s.places := rfl
@[simp] theorem State.sendRecord_launches (s : State) (r : TrapRec) : (s.sendRecord r).launches = s.launches := rfl
@[simp] theorem State.sendRecord_leaseEnds (s : State) (r : TrapRec) : (s.sendRecord r).leaseEnds = s.leaseEnds := rfl
@[simp] theorem State.sendRecord_resReqs (s : State) (r : TrapRec) : (s.sendRecord r).resReqs = s.resReqs := rfl
@[simp] theorem State.sendRecord_launchSeq (s : State) (r : TrapRec) : (s.sendRecord r).launchSeq = s.launchSeq := rfl
@[simp] theorem State.sendRecord_gangs (s : State) (r : TrapRec) : (s.sendRecord r).gangs = s.gangs := rfl
@[simp] theorem State.sendRecord_coreDrawers (s : State) (r : TrapRec) : (s.sendRecord r).coreDrawers = s.coreDrawers := rfl
@[simp] theorem State.sendRecord_savedHalts (s : State) (r : TrapRec) : (s.sendRecord r).savedHalts = s.savedHalts := rfl
@[simp] theorem State.sendRecord_spill (s : State) (r : TrapRec) : (s.sendRecord r).spill = s.spill := rfl
@[simp] theorem State.sendRecord_endings (s : State) (r : TrapRec) : (s.sendRecord r).endings = s.endings := rfl
@[simp] theorem State.sendRecord_esel (s : State) (r : TrapRec) : (s.sendRecord r).esel = s.esel := rfl
@[simp] theorem State.sendRecord_jbase (s : State) (r : TrapRec) : (s.sendRecord r).jbase = s.jbase := rfl
@[simp] theorem State.sendRecord_jhead (s : State) (r : TrapRec) : (s.sendRecord r).jhead = s.jhead := rfl
@[simp] theorem State.sendRecord_disc (s : State) (r : TrapRec) : (s.sendRecord r).disc = s.disc := rfl
@[simp] theorem State.sendRecord_rfcnt (s : State) (r : TrapRec) : (s.sendRecord r).rfcnt = s.rfcnt := rfl
@[simp] theorem State.sendRecord_refusals (s : State) (r : TrapRec) : (s.sendRecord r).refusals = s.refusals := rfl
@[simp] theorem State.sendRecord_fwMinSvn (s : State) (r : TrapRec) : (s.sendRecord r).fwMinSvn = s.fwMinSvn := rfl
@[simp] theorem State.sendRecord_fwPending (s : State) (r : TrapRec) : (s.sendRecord r).fwPending = s.fwPending := rfl
@[simp] theorem State.sendRecord_clockFaults (s : State) (r : TrapRec) : (s.sendRecord r).clockFaults = s.clockFaults := rfl
@[simp] theorem State.sendRecord_outOfService (s : State) (r : TrapRec) : (s.sendRecord r).outOfService = s.outOfService := rfl
@[simp] theorem State.sendRecord_linkWidth (s : State) (r : TrapRec) : (s.sendRecord r).linkWidth = s.linkWidth := rfl
@[simp] theorem State.sendRecord_enumGen (s : State) (r : TrapRec) : (s.sendRecord r).enumGen = s.enumGen := rfl
@[simp] theorem State.sendRecord_badPages (s : State) (r : TrapRec) : (s.sendRecord r).badPages = s.badPages := rfl
@[simp] theorem State.sendRecord_flash (s : State) (r : TrapRec) : (s.sendRecord r).flash = s.flash := rfl
@[simp] theorem State.sendRecord_mirrors (s : State) (r : TrapRec) : (s.sendRecord r).mirrors = s.mirrors := rfl
@[simp] theorem State.sendRecord_dumps (s : State) (r : TrapRec) : (s.sendRecord r).dumps = s.dumps := rfl
@[simp] theorem State.sendRecord_issued (s : State) (r : TrapRec) : (s.sendRecord r).issued = s.issued := rfl

@[simp] theorem State.finish_time (s : State) (pc : Word) : (s.finish pc).time = s.time := rfl
@[simp] theorem State.finish_sub (s : State) (pc : Word) : (s.finish pc).sub = s.sub := rfl
@[simp] theorem State.finish_timeHold (s : State) (pc : Word) : (s.finish pc).timeHold = s.timeHold := rfl
@[simp] theorem State.finish_cycle (s : State) (pc : Word) : (s.finish pc).cycle = s.cycle := rfl
@[simp] theorem State.finish_turned (s : State) (pc : Word) : (s.finish pc).turned = s.turned := rfl
@[simp] theorem State.finish_cur (s : State) (pc : Word) : (s.finish pc).cur = s.cur := rfl
@[simp] theorem State.finish_bumped (s : State) (pc : Word) : (s.finish pc).bumped = s.bumped := rfl
@[simp] theorem State.finish_flagged (s : State) (pc : Word) : (s.finish pc).flagged = s.flagged := rfl
@[simp] theorem State.finish_bankLast (s : State) (pc : Word) : (s.finish pc).bankLast = s.bankLast := rfl
@[simp] theorem State.finish_bankServed (s : State) (pc : Word) : (s.finish pc).bankServed = s.bankServed := rfl
@[simp] theorem State.finish_agenda (s : State) (pc : Word) : (s.finish pc).agenda = s.agenda := rfl
@[simp] theorem State.finish_freeCtr (s : State) (pc : Word) : (s.finish pc).freeCtr = s.freeCtr := rfl
@[simp] theorem State.finish_cores (s : State) (pc : Word) : (s.finish pc).cores = s.cores := rfl
@[simp] theorem State.finish_mem (s : State) (pc : Word) : (s.finish pc).mem = s.mem := rfl
@[simp] theorem State.finish_lines (s : State) (pc : Word) : (s.finish pc).lines = s.lines := rfl
@[simp] theorem State.finish_sliceVer (s : State) (pc : Word) : (s.finish pc).sliceVer = s.sliceVer := rfl
@[simp] theorem State.finish_feFull (s : State) (pc : Word) : (s.finish pc).feFull = s.feFull := rfl
@[simp] theorem State.finish_feSleep (s : State) (pc : Word) : (s.finish pc).feSleep = s.feSleep := rfl
@[simp] theorem State.finish_resv (s : State) (pc : Word) : (s.finish pc).resv = s.resv := rfl
@[simp] theorem State.finish_loads (s : State) (pc : Word) : (s.finish pc).loads = s.loads := rfl
@[simp] theorem State.finish_atoms (s : State) (pc : Word) : (s.finish pc).atoms = s.atoms := rfl
@[simp] theorem State.finish_cntAdds (s : State) (pc : Word) : (s.finish pc).cntAdds = s.cntAdds := rfl
@[simp] theorem State.finish_guestAdds (s : State) (pc : Word) : (s.finish pc).guestAdds = s.guestAdds := rfl
@[simp] theorem State.finish_flights (s : State) (pc : Word) : (s.finish pc).flights = s.flights := rfl
@[simp] theorem State.finish_outbox (s : State) (pc : Word) : (s.finish pc).outbox = s.outbox := rfl
@[simp] theorem State.finish_dev (s : State) (pc : Word) : (s.finish pc).dev = s.dev := rfl
@[simp] theorem State.finish_present (s : State) (pc : Word) : (s.finish pc).present = s.present := rfl
@[simp] theorem State.finish_raf (s : State) (pc : Word) : (s.finish pc).raf = s.raf := rfl
@[simp] theorem State.finish_hgsel (s : State) (pc : Word) : (s.finish pc).hgsel = s.hgsel := rfl
@[simp] theorem State.finish_hg (s : State) (pc : Word) : (s.finish pc).hg = s.hg := rfl
@[simp] theorem State.finish_trapsInFlight (s : State) (pc : Word) : (s.finish pc).trapsInFlight = s.trapsInFlight := rfl
@[simp] theorem State.finish_tq (s : State) (pc : Word) : (s.finish pc).tq = s.tq := rfl
@[simp] theorem State.finish_tqSeq (s : State) (pc : Word) : (s.finish pc).tqSeq = s.tqSeq := rfl
@[simp] theorem State.finish_tqLost (s : State) (pc : Word) : (s.finish pc).tqLost = s.tqLost := rfl
@[simp] theorem State.finish_tqOvf (s : State) (pc : Word) : (s.finish pc).tqOvf = s.tqOvf := rfl
@[simp] theorem State.finish_tqnote (s : State) (pc : Word) : (s.finish pc).tqnote = s.tqnote := rfl
@[simp] theorem State.finish_regions (s : State) (pc : Word) : (s.finish pc).regions = s.regions := rfl
@[simp] theorem State.finish_snaps (s : State) (pc : Word) : (s.finish pc).snaps = s.snaps := rfl
@[simp] theorem State.finish_snapSerial (s : State) (pc : Word) : (s.finish pc).snapSerial = s.snapSerial := rfl
@[simp] theorem State.finish_grade (s : State) (pc : Word) : (s.finish pc).grade = s.grade := rfl
@[simp] theorem State.finish_nonlive (s : State) (pc : Word) : (s.finish pc).nonlive = s.nonlive := rfl
@[simp] theorem State.finish_defect (s : State) (pc : Word) : (s.finish pc).defect = s.defect := rfl
@[simp] theorem State.finish_takeover (s : State) (pc : Word) : (s.finish pc).takeover = s.takeover := rfl
@[simp] theorem State.finish_retired (s : State) (pc : Word) : (s.finish pc).retired = s.retired := rfl
@[simp] theorem State.finish_failed (s : State) (pc : Word) : (s.finish pc).failed = s.failed := rfl
@[simp] theorem State.finish_westWalks (s : State) (pc : Word) : (s.finish pc).westWalks = s.westWalks := rfl
@[simp] theorem State.finish_eastWalks (s : State) (pc : Word) : (s.finish pc).eastWalks = s.eastWalks := rfl
@[simp] theorem State.finish_stoppedParts (s : State) (pc : Word) : (s.finish pc).stoppedParts = s.stoppedParts := rfl
@[simp] theorem State.finish_resident (s : State) (pc : Word) : (s.finish pc).resident = s.resident := rfl
@[simp] theorem State.finish_drawers (s : State) (pc : Word) : (s.finish pc).drawers = s.drawers := rfl
@[simp] theorem State.finish_halted (s : State) (pc : Word) : (s.finish pc).halted = s.halted := rfl
@[simp] theorem State.finish_policy (s : State) (pc : Word) : (s.finish pc).policy = s.policy := rfl
@[simp] theorem State.finish_copies (s : State) (pc : Word) : (s.finish pc).copies = s.copies := rfl
@[simp] theorem State.finish_colls (s : State) (pc : Word) : (s.finish pc).colls = s.colls := rfl
@[simp] theorem State.finish_collCounts (s : State) (pc : Word) : (s.finish pc).collCounts = s.collCounts := rfl
@[simp] theorem State.finish_earlyParts (s : State) (pc : Word) : (s.finish pc).earlyParts = s.earlyParts := rfl
@[simp] theorem State.finish_devWrites (s : State) (pc : Word) : (s.finish pc).devWrites = s.devWrites := rfl
@[simp] theorem State.finish_invals (s : State) (pc : Word) : (s.finish pc).invals = s.invals := rfl
@[simp] theorem State.finish_evals (s : State) (pc : Word) : (s.finish pc).evals = s.evals := rfl
@[simp] theorem State.finish_wakes (s : State) (pc : Word) : (s.finish pc).wakes = s.wakes := rfl
@[simp] theorem State.finish_refDrops (s : State) (pc : Word) : (s.finish pc).refDrops = s.refDrops := rfl
@[simp] theorem State.finish_frames (s : State) (pc : Word) : (s.finish pc).frames = s.frames := rfl
@[simp] theorem State.finish_sparks (s : State) (pc : Word) : (s.finish pc).sparks = s.sparks := rfl
@[simp] theorem State.finish_faultBuf (s : State) (pc : Word) : (s.finish pc).faultBuf = s.faultBuf := rfl
@[simp] theorem State.finish_records (s : State) (pc : Word) : (s.finish pc).records = s.records := rfl
@[simp] theorem State.finish_sections (s : State) (pc : Word) : (s.finish pc).sections = s.sections := rfl
@[simp] theorem State.finish_doomed (s : State) (pc : Word) : (s.finish pc).doomed = s.doomed := rfl
@[simp] theorem State.finish_groups (s : State) (pc : Word) : (s.finish pc).groups = s.groups := rfl
@[simp] theorem State.finish_experts (s : State) (pc : Word) : (s.finish pc).experts = s.experts := rfl
@[simp] theorem State.finish_shelf (s : State) (pc : Word) : (s.finish pc).shelf = s.shelf := rfl
@[simp] theorem State.finish_codeQueue (s : State) (pc : Word) : (s.finish pc).codeQueue = s.codeQueue := rfl
@[simp] theorem State.finish_retransmit (s : State) (pc : Word) : (s.finish pc).retransmit = s.retransmit := rfl
@[simp] theorem State.finish_cupboard (s : State) (pc : Word) : (s.finish pc).cupboard = s.cupboard := rfl
@[simp] theorem State.finish_cupLost (s : State) (pc : Word) : (s.finish pc).cupLost = s.cupLost := rfl
@[simp] theorem State.finish_settled (s : State) (pc : Word) : (s.finish pc).settled = s.settled := rfl
@[simp] theorem State.finish_accepted (s : State) (pc : Word) : (s.finish pc).accepted = s.accepted := rfl
@[simp] theorem State.finish_adverts (s : State) (pc : Word) : (s.finish pc).adverts = s.adverts := rfl
@[simp] theorem State.finish_posts (s : State) (pc : Word) : (s.finish pc).posts = s.posts := rfl
@[simp] theorem State.finish_refused (s : State) (pc : Word) : (s.finish pc).refused = s.refused := rfl
@[simp] theorem State.finish_packets (s : State) (pc : Word) : (s.finish pc).packets = s.packets := rfl
@[simp] theorem State.finish_nacks (s : State) (pc : Word) : (s.finish pc).nacks = s.nacks := rfl
@[simp] theorem State.finish_losses (s : State) (pc : Word) : (s.finish pc).losses = s.losses := rfl
@[simp] theorem State.finish_rows (s : State) (pc : Word) : (s.finish pc).rows = s.rows := rfl
@[simp] theorem State.finish_places (s : State) (pc : Word) : (s.finish pc).places = s.places := rfl
@[simp] theorem State.finish_launches (s : State) (pc : Word) : (s.finish pc).launches = s.launches := rfl
@[simp] theorem State.finish_leaseEnds (s : State) (pc : Word) : (s.finish pc).leaseEnds = s.leaseEnds := rfl
@[simp] theorem State.finish_resReqs (s : State) (pc : Word) : (s.finish pc).resReqs = s.resReqs := rfl
@[simp] theorem State.finish_launchSeq (s : State) (pc : Word) : (s.finish pc).launchSeq = s.launchSeq := rfl
@[simp] theorem State.finish_gangs (s : State) (pc : Word) : (s.finish pc).gangs = s.gangs := rfl
@[simp] theorem State.finish_coreDrawers (s : State) (pc : Word) : (s.finish pc).coreDrawers = s.coreDrawers := rfl
@[simp] theorem State.finish_savedHalts (s : State) (pc : Word) : (s.finish pc).savedHalts = s.savedHalts := rfl
@[simp] theorem State.finish_spill (s : State) (pc : Word) : (s.finish pc).spill = s.spill := rfl
@[simp] theorem State.finish_endings (s : State) (pc : Word) : (s.finish pc).endings = s.endings := rfl
@[simp] theorem State.finish_esel (s : State) (pc : Word) : (s.finish pc).esel = s.esel := rfl
@[simp] theorem State.finish_jbase (s : State) (pc : Word) : (s.finish pc).jbase = s.jbase := rfl
@[simp] theorem State.finish_jhead (s : State) (pc : Word) : (s.finish pc).jhead = s.jhead := rfl
@[simp] theorem State.finish_disc (s : State) (pc : Word) : (s.finish pc).disc = s.disc := rfl
@[simp] theorem State.finish_rfcnt (s : State) (pc : Word) : (s.finish pc).rfcnt = s.rfcnt := rfl
@[simp] theorem State.finish_refusals (s : State) (pc : Word) : (s.finish pc).refusals = s.refusals := rfl
@[simp] theorem State.finish_fwMinSvn (s : State) (pc : Word) : (s.finish pc).fwMinSvn = s.fwMinSvn := rfl
@[simp] theorem State.finish_fwPending (s : State) (pc : Word) : (s.finish pc).fwPending = s.fwPending := rfl
@[simp] theorem State.finish_clockFaults (s : State) (pc : Word) : (s.finish pc).clockFaults = s.clockFaults := rfl
@[simp] theorem State.finish_outOfService (s : State) (pc : Word) : (s.finish pc).outOfService = s.outOfService := rfl
@[simp] theorem State.finish_linkWidth (s : State) (pc : Word) : (s.finish pc).linkWidth = s.linkWidth := rfl
@[simp] theorem State.finish_enumGen (s : State) (pc : Word) : (s.finish pc).enumGen = s.enumGen := rfl
@[simp] theorem State.finish_badPages (s : State) (pc : Word) : (s.finish pc).badPages = s.badPages := rfl
@[simp] theorem State.finish_flash (s : State) (pc : Word) : (s.finish pc).flash = s.flash := rfl
@[simp] theorem State.finish_mirrors (s : State) (pc : Word) : (s.finish pc).mirrors = s.mirrors := rfl
@[simp] theorem State.finish_dumps (s : State) (pc : Word) : (s.finish pc).dumps = s.dumps := rfl
@[simp] theorem State.finish_issued (s : State) (pc : Word) : (s.finish pc).issued = s.issued := rfl

@[simp] theorem State.retire_time (s : State) (k : Nat) : (s.retire k).time = s.time := rfl
@[simp] theorem State.retire_sub (s : State) (k : Nat) : (s.retire k).sub = s.sub := rfl
@[simp] theorem State.retire_timeHold (s : State) (k : Nat) : (s.retire k).timeHold = s.timeHold := rfl
@[simp] theorem State.retire_cycle (s : State) (k : Nat) : (s.retire k).cycle = s.cycle := rfl
@[simp] theorem State.retire_turned (s : State) (k : Nat) : (s.retire k).turned = s.turned := rfl
@[simp] theorem State.retire_cur (s : State) (k : Nat) : (s.retire k).cur = s.cur := rfl
@[simp] theorem State.retire_bumped (s : State) (k : Nat) : (s.retire k).bumped = s.bumped := rfl
@[simp] theorem State.retire_flagged (s : State) (k : Nat) : (s.retire k).flagged = s.flagged := rfl
@[simp] theorem State.retire_bankLast (s : State) (k : Nat) : (s.retire k).bankLast = s.bankLast := rfl
@[simp] theorem State.retire_bankServed (s : State) (k : Nat) : (s.retire k).bankServed = s.bankServed := rfl
@[simp] theorem State.retire_agenda (s : State) (k : Nat) : (s.retire k).agenda = s.agenda := rfl
@[simp] theorem State.retire_freeCtr (s : State) (k : Nat) : (s.retire k).freeCtr = s.freeCtr := rfl
@[simp] theorem State.retire_cores (s : State) (k : Nat) : (s.retire k).cores = s.cores := rfl
@[simp] theorem State.retire_mem (s : State) (k : Nat) : (s.retire k).mem = s.mem := rfl
@[simp] theorem State.retire_lines (s : State) (k : Nat) : (s.retire k).lines = s.lines := rfl
@[simp] theorem State.retire_sliceVer (s : State) (k : Nat) : (s.retire k).sliceVer = s.sliceVer := rfl
@[simp] theorem State.retire_feFull (s : State) (k : Nat) : (s.retire k).feFull = s.feFull := rfl
@[simp] theorem State.retire_feSleep (s : State) (k : Nat) : (s.retire k).feSleep = s.feSleep := rfl
@[simp] theorem State.retire_resv (s : State) (k : Nat) : (s.retire k).resv = s.resv := rfl
@[simp] theorem State.retire_loads (s : State) (k : Nat) : (s.retire k).loads = s.loads := rfl
@[simp] theorem State.retire_atoms (s : State) (k : Nat) : (s.retire k).atoms = s.atoms := rfl
@[simp] theorem State.retire_cntAdds (s : State) (k : Nat) : (s.retire k).cntAdds = s.cntAdds := rfl
@[simp] theorem State.retire_guestAdds (s : State) (k : Nat) : (s.retire k).guestAdds = s.guestAdds := rfl
@[simp] theorem State.retire_flights (s : State) (k : Nat) : (s.retire k).flights = s.flights := rfl
@[simp] theorem State.retire_outbox (s : State) (k : Nat) : (s.retire k).outbox = s.outbox := rfl
@[simp] theorem State.retire_dev (s : State) (k : Nat) : (s.retire k).dev = s.dev := rfl
@[simp] theorem State.retire_present (s : State) (k : Nat) : (s.retire k).present = s.present := rfl
@[simp] theorem State.retire_raf (s : State) (k : Nat) : (s.retire k).raf = s.raf := rfl
@[simp] theorem State.retire_hgsel (s : State) (k : Nat) : (s.retire k).hgsel = s.hgsel := rfl
@[simp] theorem State.retire_hg (s : State) (k : Nat) : (s.retire k).hg = s.hg := rfl
@[simp] theorem State.retire_trapsInFlight (s : State) (k : Nat) : (s.retire k).trapsInFlight = s.trapsInFlight := rfl
@[simp] theorem State.retire_tq (s : State) (k : Nat) : (s.retire k).tq = s.tq := rfl
@[simp] theorem State.retire_tqSeq (s : State) (k : Nat) : (s.retire k).tqSeq = s.tqSeq := rfl
@[simp] theorem State.retire_tqLost (s : State) (k : Nat) : (s.retire k).tqLost = s.tqLost := rfl
@[simp] theorem State.retire_tqOvf (s : State) (k : Nat) : (s.retire k).tqOvf = s.tqOvf := rfl
@[simp] theorem State.retire_tqnote (s : State) (k : Nat) : (s.retire k).tqnote = s.tqnote := rfl
@[simp] theorem State.retire_regions (s : State) (k : Nat) : (s.retire k).regions = s.regions := rfl
@[simp] theorem State.retire_snaps (s : State) (k : Nat) : (s.retire k).snaps = s.snaps := rfl
@[simp] theorem State.retire_snapSerial (s : State) (k : Nat) : (s.retire k).snapSerial = s.snapSerial := rfl
@[simp] theorem State.retire_grade (s : State) (k : Nat) : (s.retire k).grade = s.grade := rfl
@[simp] theorem State.retire_nonlive (s : State) (k : Nat) : (s.retire k).nonlive = s.nonlive := rfl
@[simp] theorem State.retire_defect (s : State) (k : Nat) : (s.retire k).defect = s.defect := rfl
@[simp] theorem State.retire_takeover (s : State) (k : Nat) : (s.retire k).takeover = s.takeover := rfl
@[simp] theorem State.retire_retired (s : State) (k : Nat) : (s.retire k).retired = s.retired := rfl
@[simp] theorem State.retire_failed (s : State) (k : Nat) : (s.retire k).failed = s.failed := rfl
@[simp] theorem State.retire_westWalks (s : State) (k : Nat) : (s.retire k).westWalks = s.westWalks := rfl
@[simp] theorem State.retire_eastWalks (s : State) (k : Nat) : (s.retire k).eastWalks = s.eastWalks := rfl
@[simp] theorem State.retire_stoppedParts (s : State) (k : Nat) : (s.retire k).stoppedParts = s.stoppedParts := rfl
@[simp] theorem State.retire_resident (s : State) (k : Nat) : (s.retire k).resident = s.resident := rfl
@[simp] theorem State.retire_drawers (s : State) (k : Nat) : (s.retire k).drawers = s.drawers := rfl
@[simp] theorem State.retire_halted (s : State) (k : Nat) : (s.retire k).halted = s.halted := rfl
@[simp] theorem State.retire_policy (s : State) (k : Nat) : (s.retire k).policy = s.policy := rfl
@[simp] theorem State.retire_copies (s : State) (k : Nat) : (s.retire k).copies = s.copies := rfl
@[simp] theorem State.retire_colls (s : State) (k : Nat) : (s.retire k).colls = s.colls := rfl
@[simp] theorem State.retire_collCounts (s : State) (k : Nat) : (s.retire k).collCounts = s.collCounts := rfl
@[simp] theorem State.retire_earlyParts (s : State) (k : Nat) : (s.retire k).earlyParts = s.earlyParts := rfl
@[simp] theorem State.retire_devWrites (s : State) (k : Nat) : (s.retire k).devWrites = s.devWrites := rfl
@[simp] theorem State.retire_invals (s : State) (k : Nat) : (s.retire k).invals = s.invals := rfl
@[simp] theorem State.retire_evals (s : State) (k : Nat) : (s.retire k).evals = s.evals := rfl
@[simp] theorem State.retire_wakes (s : State) (k : Nat) : (s.retire k).wakes = s.wakes := rfl
@[simp] theorem State.retire_refDrops (s : State) (k : Nat) : (s.retire k).refDrops = s.refDrops := rfl
@[simp] theorem State.retire_frames (s : State) (k : Nat) : (s.retire k).frames = s.frames := rfl
@[simp] theorem State.retire_sparks (s : State) (k : Nat) : (s.retire k).sparks = s.sparks := rfl
@[simp] theorem State.retire_faultBuf (s : State) (k : Nat) : (s.retire k).faultBuf = s.faultBuf := rfl
@[simp] theorem State.retire_records (s : State) (k : Nat) : (s.retire k).records = s.records := rfl
@[simp] theorem State.retire_sections (s : State) (k : Nat) : (s.retire k).sections = s.sections := rfl
@[simp] theorem State.retire_doomed (s : State) (k : Nat) : (s.retire k).doomed = s.doomed := rfl
@[simp] theorem State.retire_groups (s : State) (k : Nat) : (s.retire k).groups = s.groups := rfl
@[simp] theorem State.retire_experts (s : State) (k : Nat) : (s.retire k).experts = s.experts := rfl
@[simp] theorem State.retire_shelf (s : State) (k : Nat) : (s.retire k).shelf = s.shelf := rfl
@[simp] theorem State.retire_codeQueue (s : State) (k : Nat) : (s.retire k).codeQueue = s.codeQueue := rfl
@[simp] theorem State.retire_retransmit (s : State) (k : Nat) : (s.retire k).retransmit = s.retransmit := rfl
@[simp] theorem State.retire_cupboard (s : State) (k : Nat) : (s.retire k).cupboard = s.cupboard := rfl
@[simp] theorem State.retire_cupLost (s : State) (k : Nat) : (s.retire k).cupLost = s.cupLost := rfl
@[simp] theorem State.retire_settled (s : State) (k : Nat) : (s.retire k).settled = s.settled := rfl
@[simp] theorem State.retire_accepted (s : State) (k : Nat) : (s.retire k).accepted = s.accepted := rfl
@[simp] theorem State.retire_adverts (s : State) (k : Nat) : (s.retire k).adverts = s.adverts := rfl
@[simp] theorem State.retire_posts (s : State) (k : Nat) : (s.retire k).posts = s.posts := rfl
@[simp] theorem State.retire_refused (s : State) (k : Nat) : (s.retire k).refused = s.refused := rfl
@[simp] theorem State.retire_packets (s : State) (k : Nat) : (s.retire k).packets = s.packets := rfl
@[simp] theorem State.retire_nacks (s : State) (k : Nat) : (s.retire k).nacks = s.nacks := rfl
@[simp] theorem State.retire_losses (s : State) (k : Nat) : (s.retire k).losses = s.losses := rfl
@[simp] theorem State.retire_rows (s : State) (k : Nat) : (s.retire k).rows = s.rows := rfl
@[simp] theorem State.retire_places (s : State) (k : Nat) : (s.retire k).places = s.places := rfl
@[simp] theorem State.retire_launches (s : State) (k : Nat) : (s.retire k).launches = s.launches := rfl
@[simp] theorem State.retire_leaseEnds (s : State) (k : Nat) : (s.retire k).leaseEnds = s.leaseEnds := rfl
@[simp] theorem State.retire_resReqs (s : State) (k : Nat) : (s.retire k).resReqs = s.resReqs := rfl
@[simp] theorem State.retire_launchSeq (s : State) (k : Nat) : (s.retire k).launchSeq = s.launchSeq := rfl
@[simp] theorem State.retire_gangs (s : State) (k : Nat) : (s.retire k).gangs = s.gangs := rfl
@[simp] theorem State.retire_coreDrawers (s : State) (k : Nat) : (s.retire k).coreDrawers = s.coreDrawers := rfl
@[simp] theorem State.retire_savedHalts (s : State) (k : Nat) : (s.retire k).savedHalts = s.savedHalts := rfl
@[simp] theorem State.retire_spill (s : State) (k : Nat) : (s.retire k).spill = s.spill := rfl
@[simp] theorem State.retire_endings (s : State) (k : Nat) : (s.retire k).endings = s.endings := rfl
@[simp] theorem State.retire_esel (s : State) (k : Nat) : (s.retire k).esel = s.esel := rfl
@[simp] theorem State.retire_jbase (s : State) (k : Nat) : (s.retire k).jbase = s.jbase := rfl
@[simp] theorem State.retire_jhead (s : State) (k : Nat) : (s.retire k).jhead = s.jhead := rfl
@[simp] theorem State.retire_disc (s : State) (k : Nat) : (s.retire k).disc = s.disc := rfl
@[simp] theorem State.retire_rfcnt (s : State) (k : Nat) : (s.retire k).rfcnt = s.rfcnt := rfl
@[simp] theorem State.retire_refusals (s : State) (k : Nat) : (s.retire k).refusals = s.refusals := rfl
@[simp] theorem State.retire_fwMinSvn (s : State) (k : Nat) : (s.retire k).fwMinSvn = s.fwMinSvn := rfl
@[simp] theorem State.retire_fwPending (s : State) (k : Nat) : (s.retire k).fwPending = s.fwPending := rfl
@[simp] theorem State.retire_clockFaults (s : State) (k : Nat) : (s.retire k).clockFaults = s.clockFaults := rfl
@[simp] theorem State.retire_outOfService (s : State) (k : Nat) : (s.retire k).outOfService = s.outOfService := rfl
@[simp] theorem State.retire_linkWidth (s : State) (k : Nat) : (s.retire k).linkWidth = s.linkWidth := rfl
@[simp] theorem State.retire_enumGen (s : State) (k : Nat) : (s.retire k).enumGen = s.enumGen := rfl
@[simp] theorem State.retire_badPages (s : State) (k : Nat) : (s.retire k).badPages = s.badPages := rfl
@[simp] theorem State.retire_flash (s : State) (k : Nat) : (s.retire k).flash = s.flash := rfl
@[simp] theorem State.retire_mirrors (s : State) (k : Nat) : (s.retire k).mirrors = s.mirrors := rfl
@[simp] theorem State.retire_dumps (s : State) (k : Nat) : (s.retire k).dumps = s.dumps := rfl
@[simp] theorem State.retire_issued (s : State) (k : Nat) : (s.retire k).issued = s.issued := rfl

end Sys2Proof.Machine
end

