-- ==== Sys2Proof/Laws/Slots.lean ====
section
/-! SUPPORT. Slots and cores after an update, operands, and what the shared operations of scalar instructions come to:
the lemmas to cite in place of unfolding them. -/

namespace Sys2Proof.Machine

@[simp] theorem State.slot_setSlot_same (s : State) (i : Nat) (sl : Slot) : (s.setSlot i sl).slot i = sl := by
  simp [State.slot, State.setSlot]

theorem State.slot_setSlot_ne (s : State) (i j : Nat) (sl : Slot) (h : j ≠ i) :
    (s.setSlot i sl).slot j = s.slot j := by
  simp [State.slot, State.setSlot, mapGet_mapPut_ne _ _ _ _ h]

@[simp] theorem State.slot_setCore (s : State) (c j : Nat) (k : Core) : (s.setCore c k).slot j = s.slot j := rfl

@[simp] theorem State.core_setSlot (s : State) (i c : Nat) (sl : Slot) : (s.setSlot i sl).core c = s.core c := rfl

@[simp] theorem State.core_setCore_same (s : State) (c : Nat) (k : Core) : (s.setCore c k).core c = k := by
  simp [State.core, State.setCore]

theorem State.core_setCore_ne (s : State) (c d : Nat) (k : Core) (h : d ≠ c) : (s.setCore c k).core d = s.core d := by
  simp [State.core, State.setCore, mapGet_mapPut_ne _ _ _ _ h]

@[simp] theorem State.slot_modSlot_same (s : State) (i : Nat) (f : Slot → Slot) :
    (s.modSlot i f).slot i = f (s.slot i) := by simp [State.modSlot]

theorem State.slot_modSlot_ne (s : State) (i j : Nat) (f : Slot → Slot) (h : j ≠ i) :
    (s.modSlot i f).slot j = s.slot j := by simp [State.modSlot, State.slot_setSlot_ne _ _ _ _ h]

@[simp] theorem State.core_modSlot (s : State) (i c : Nat) (f : Slot → Slot) : (s.modSlot i f).core c = s.core c := rfl

@[simp] theorem State.core_modCore_same (s : State) (c : Nat) (f : Core → Core) :
    (s.modCore c f).core c = f (s.core c) := by simp [State.modCore]

@[simp] theorem State.slot_modCore (s : State) (c j : Nat) (f : Core → Core) : (s.modCore c f).slot j = s.slot j := rfl

theorem State.core_modCore_ne (s : State) (c d : Nat) (f : Core → Core) (h : d ≠ c) :
    (s.modCore c f).core d = s.core d := by simp [State.modCore, State.core_setCore_ne _ _ _ _ h]

@[simp] theorem State.me_modMe (s : State) (f : Slot → Slot) : (s.modMe f).me = f s.me := by
  simp [State.me, State.modMe]

@[simp] theorem State.me_setCore (s : State) (c : Nat) (k : Core) : (s.setCore c k).me = s.me := rfl

@[simp] theorem State.me_modCore (s : State) (c : Nat) (f : Core → Core) : (s.modCore c f).me = s.me := rfl

@[simp] theorem State.core_modMe (s : State) (c : Nat) (f : Slot → Slot) : (s.modMe f).core c = s.core c := rfl

@[simp] theorem State.myCore_modMe (s : State) (f : Slot → Slot) : (s.modMe f).myCore = s.myCore := rfl

theorem State.slot_modMe_ne (s : State) (j : Nat) (f : Slot → Slot) (h : j ≠ s.cur) : (s.modMe f).slot j = s.slot j :=
  State.slot_modSlot_ne s s.cur j f h

/-- The slot after its instruction completes at a pc. -/
theorem State.me_finish (s : State) (pc : Word) :
    (s.finish pc).me = { clearProgress s.me with pc := pc, status := .ready, wpSkip := false } := by
  simp [State.finish]

theorem State.slot_finish_ne (s : State) (pc : Word) (j : Nat) (h : j ≠ s.cur) : (s.finish pc).slot j = s.slot j :=
  State.slot_modMe_ne s j _ h

@[simp] theorem State.core_finish (s : State) (pc : Word) (c : Nat) : (s.finish pc).core c = s.core c := rfl

/-- Two updates of one slot are one. -/
theorem mapPut_mapPut {α : Type} (m : SMap α) (n : Nat) (v w : α) : mapPut (mapPut m n v) n w = mapPut m n w := by
  induction m with
  | nil => simp [mapPut]
  | cons e m ih =>
    obtain ⟨a, u⟩ := e
    simp only [mapPut]
    split
    · simp [mapPut]
    · split
      · simp [mapPut]
      · simp [mapPut, *]

theorem State.modMe_modMe (s : State) (f g : Slot → Slot) : (s.modMe f).modMe g = s.modMe (fun sl => g (f sl)) := by
  simp [State.modMe, State.modSlot, State.setSlot, State.slot, mapPut_mapPut]

@[simp] theorem Slot.reg_zero (sl : Slot) : sl.reg 0 = 0 := rfl

@[simp] theorem Slot.setReg_zero (sl : Slot) (v : Word) : sl.setReg 0 v = sl := rfl

/-- A register after a write: g0 reads 0, the register written its value, another what it held. -/
theorem Slot.reg_setReg (sl : Slot) (r x : Reg) (v : Word) :
    (sl.setReg r v).reg x = if x = 0 then 0 else if x = r then v else sl.reg x := by
  by_cases h0 : x = 0
  · subst h0; simp [Slot.reg]
  · by_cases hr : r = 0
    · subst hr
      simp only [Slot.setReg_zero, if_neg h0]
    · simp only [Slot.reg, Slot.setReg, if_neg h0, if_neg hr]
      by_cases hx : x = r
      · subst hx; simp
      · have hn : r.toNat ≠ x.toNat := fun h => hx (BitVec.eq_of_toNat_eq h.symm)
        rw [if_neg hx, Vector.getElem_set_ne _ _ hn]

/-- With no alias bound, no register is a stream (R94). -/
theorem boundStream_none (sl : Slot) (r : Reg) (h : sl.streams = []) : boundStream sl r = none := by
  unfold boundStream
  split
  · simp [h, mapGet]
  · rfl

/-- Reading a plain register. -/
theorem readG_plain (s : State) (r : Reg) (h : boundStream s.me r = none) : readG s r = .ok (s.me.reg r) s := by
  simp [readG, h]

/-- Writing a plain register. -/
theorem writeG_plain (s : State) (r : Reg) (v : Word) (h : boundStream s.me r = none) :
    writeG s r v = .ok () (s.modMe (fun sl => sl.setReg r v)) := by
  simp [writeG, h]

@[simp] theorem Slot.setReg_streams (sl : Slot) (r : Reg) (v : Word) : (sl.setReg r v).streams = sl.streams := by
  unfold Slot.setReg; split <;> rfl

@[simp] theorem Slot.setReg_pc (sl : Slot) (r : Reg) (v : Word) : (sl.setReg r v).pc = sl.pc := by
  unfold Slot.setReg; split <;> rfl

@[simp] theorem Slot.setReg_region (sl : Slot) (r : Reg) (v : Word) : (sl.setReg r v).region = sl.region := by
  unfold Slot.setReg; split <;> rfl

@[simp] theorem Eff.andThen_ok {α β : Type} (a : α) (s : State) (k : α → State → Eff β) :
    (Eff.ok a s).andThen k = k a s := rfl

@[simp] theorem Eff.andThen_trap {α β : Type} (c : Cause) (v : Word) (k : α → State → Eff β) :
    (Eff.trap c v : Eff α).andThen k = .trap c v := rfl

@[simp] theorem Eff.andThen_wait {α β : Type} (f : State → State) (k : α → State → Eff β) :
    (Eff.wait f : Eff α).andThen k = .wait f := rfl

@[simp] theorem conclude_ok (s t : State) : conclude s (.ok () t) = .next t := rfl

@[simp] theorem conclude_trap (s : State) (c : Cause) (v : Word) : conclude s (.trap c v) = .next (takeFault s c v) := rfl

@[simp] theorem conclude_wait (s : State) (f : State → State) : conclude s (.wait f) = .next (f s) := rfl

/-- No instruction stops the machine: what a computation comes to is a next state. -/
theorem conclude_next (s : State) (e : Eff Unit) : ∃ t, conclude s e = .next t := by
  cases e <;> exact ⟨_, rfl⟩

theorem check_true (s : State) (c : Cause) (v : Word) : check s true c v = .ok () s := rfl

theorem check_false (s : State) (c : Cause) (v : Word) : check s false c v = .trap c v := rfl

theorem checkScope_ok (s : State) (sc : BitVec 3) (w : W32) (h : sc.toNat < 6) : checkScope s sc w = .ok () s := by
  simp [checkScope, check, h]

theorem checkScope_bad (s : State) (sc : BitVec 3) (w : W32) (h : ¬ sc.toNat < 6) :
    checkScope s sc w = .trap .scope (w.setWidth 64) := by simp [checkScope, check, h]

theorem checkSup_ok (s : State) (w : W32) (h : s.me.region = 0) : checkSup s w = .ok () s := by
  simp [checkSup, check, h]

theorem checkSup_bad (s : State) (w : W32) (h : s.me.region ≠ 0) : checkSup s w = .trap .priv (w.setWidth 64) := by
  simp [checkSup, check, h]

/-- A computation of two plain sources into a plain destination. -/
theorem binary_plain (s : State) (gd ga gb : Reg) (f : Word → Word → Word) (h : s.me.streams = []) :
    binary s gd ga gb f =
      .ok () ((s.modMe (fun sl => sl.setReg gd (f (s.me.reg ga) (s.me.reg gb)))).retire 4) := by
  simp [binary, writeDone, readG_plain, writeG_plain, boundStream_none, h, done]

/-- A computation of one plain source into a plain destination. -/
theorem unary_plain (s : State) (gd ga : Reg) (f : Word → Word) (h : s.me.streams = []) :
    unary s gd ga f = .ok () ((s.modMe (fun sl => sl.setReg gd (f (s.me.reg ga)))).retire 4) := by
  simp [unary, writeDone, readG_plain, writeG_plain, boundStream_none, h, done]

end Sys2Proof.Machine
end

