-- ==== Sys2Proof/Laws/Banks.lean ====
section
/-! SUPPORT. What an access to local memory and the end of an instruction with an effect come to: the lemmas to cite in place of
unfolding bankRead, bankStore and effectDone. -/

namespace Sys2Proof.Machine

/-- A read of local memory outside the scratchpads is at once, with none of the core's updates of those bytes outstanding. -/
theorem bankRead_direct (s : State) (k n : Nat) (hb : s.me.bank = none) (hk : inBanks k = false)
    (hf : bankFree s s.myCore k n = true) : bankRead s k n = .ok (readBytes s.mem k n) s := by
  simp [bankRead, bankDone, hb, atFreeBank, hf, atService, hk]

/-- A read of a scratchpad that no bank has served yet goes before its banks. -/
theorem bankRead_asks (s : State) (k n : Nat) (hb : s.me.bank = none) (hk : inBanks k = true)
    (hf : bankFree s s.myCore k n = true) : bankRead s k n = hold (askBanks s k n none false) := by
  simp [bankRead, bankDone, hb, atFreeBank, hf, atService, hk]

/-- A read of a scratchpad whose banks have served its words has them. -/
theorem bankRead_served (s : State) (k n : Nat) (x : BankAccess) (h : bankDone s k n false = some x) :
    bankRead s k n = .ok x.bytes (bankOver s) := by simp [bankRead, h]

/-- A write of local memory outside the scratchpads is at once. -/
theorem bankStore_direct (s : State) (a : Word) (k : Nat) (bs : List Byte) (hk : inBanks k = false)
    (hf : bankFree s s.myCore k bs.length = true) : bankStore s a k bs = .ok () (bankWrite s k bs) := by
  simp [bankStore, hk, hf]

/-- A write of a scratchpad that its banks have served is made already. -/
theorem bankStore_served (s : State) (a : Word) (k : Nat) (bs : List Byte) (x : BankAccess) (hk : inBanks k = true)
    (h : bankDone s k bs.length true = some x) : bankStore s a k bs = .ok () (bankOver s) := by
  simp [bankStore, hk, h]

/-- An instruction with an effect whose destination is no push that waits: the destination is written and it is complete. -/
theorem effectDone_at_once (s t : State) (r : Reg) (v : Word) (h : pushWaits s r = false) (hw : writeG s r v = .ok () t) :
    effectDone s r v = .ok () (t.retire 4) := by
  simp [effectDone, h, writeDone, hw, done]

/-- One whose push waits: its effect is made, and the push is all that is left of it. -/
theorem effectDone_later (s0 s t : State) (r : Reg) (v : Word) (h : pushWaits s r = true) (hp : probeG s r = .ok () t) :
    conclude s0 (effectDone s r v) = .next (t.modMe (pushLater r v)) := by
  simp [effectDone, h, hp]

end Sys2Proof.Machine
end

