-- ==== Sys2Proof/Laws/Encoding.lean ====
section
/-! SUPPORT. The fields of encoded words: every field of each format of R34 reads back from the word it stands in. -/

namespace Sys2Proof

theorem fMaj_rWord (m : BitVec 6) (gd ga gb : Reg) (fn : BitVec 11) : fMaj (rWord m gd ga gb fn) = m := by
  simp only [fMaj, bitsOf, rWord]; ext i hi; simp; grind

theorem fGd_rWord (m : BitVec 6) (gd ga gb : Reg) (fn : BitVec 11) : fGd (rWord m gd ga gb fn) = gd := by
  simp only [fGd, bitsOf, rWord]; ext i hi; simp; grind

theorem fGa_rWord (m : BitVec 6) (gd ga gb : Reg) (fn : BitVec 11) : fGa (rWord m gd ga gb fn) = ga := by
  simp only [fGa, bitsOf, rWord]; ext i hi; simp; grind

theorem fGb_rWord (m : BitVec 6) (gd ga gb : Reg) (fn : BitVec 11) : fGb (rWord m gd ga gb fn) = gb := by
  simp only [fGb, bitsOf, rWord]; ext i hi; simp; grind

/-- Every field within fn reads back from it. -/
theorem bitsOf_rWord (m : BitVec 6) (gd ga gb : Reg) (fn : BitVec 11) (lo len : Nat) (h : lo + len ≤ 11) :
    bitsOf (rWord m gd ga gb fn) lo len = fn.extractLsb' lo len := by
  simp only [bitsOf, rWord]; ext i hi; simp; grind

theorem fSel_rWord (m : BitVec 6) (gd ga gb : Reg) (fn : BitVec 11) :
    fSel (rWord m gd ga gb fn) = fn.extractLsb' 6 5 := bitsOf_rWord m gd ga gb fn 6 5 (by decide)

theorem fMaj_iWord (m : BitVec 6) (a b : Reg) (imm : BitVec 16) : fMaj (iWord m a b imm) = m := by
  simp only [fMaj, bitsOf, iWord]; ext i hi; simp; grind

theorem fGd_iWord (m : BitVec 6) (a b : Reg) (imm : BitVec 16) : fGd (iWord m a b imm) = a := by
  simp only [fGd, bitsOf, iWord]; ext i hi; simp; grind

theorem fGa_iWord (m : BitVec 6) (a b : Reg) (imm : BitVec 16) : fGa (iWord m a b imm) = b := by
  simp only [fGa, bitsOf, iWord]; ext i hi; simp; grind

/-- Every field within the immediate reads back from it. -/
theorem bitsOf_iWord (m : BitVec 6) (a b : Reg) (imm : BitVec 16) (lo len : Nat) (h : lo + len ≤ 16) :
    bitsOf (iWord m a b imm) lo len = imm.extractLsb' lo len := by
  simp only [bitsOf, iWord]; ext i hi; simp; grind

theorem fMaj_uWord (m : BitVec 6) (gd : Reg) (imm : BitVec 21) : fMaj (uWord m gd imm) = m := by
  simp only [fMaj, bitsOf, uWord]; ext i hi; simp; grind

theorem fGd_uWord (m : BitVec 6) (gd : Reg) (imm : BitVec 21) : fGd (uWord m gd imm) = gd := by
  simp only [fGd, bitsOf, uWord]; ext i hi; simp; grind

theorem bitsOf_uWord (m : BitVec 6) (gd : Reg) (imm : BitVec 21) : bitsOf (uWord m gd imm) 0 21 = imm := by
  simp only [bitsOf, uWord]; ext i hi; simp; grind

theorem fMaj_jWord (m : BitVec 6) (off : BitVec 26) : fMaj (jWord m off) = m := by
  simp only [fMaj, bitsOf, jWord]; ext i hi; simp; grind

theorem bitsOf_jWord (m : BitVec 6) (off : BitVec 26) : bitsOf (jWord m off) 0 26 = off := by
  simp only [bitsOf, jWord]; ext i hi; simp; grind

theorem fMaj_mWord (m : BitVec 6) (gd ga : Reg) (sz : BitVec 3) (fl : BitVec 2) (off : BitVec 11) :
    fMaj (mWord m gd ga sz fl off) = m := by
  simp only [fMaj, bitsOf, mWord]; ext i hi; simp; grind

theorem fGd_mWord (m : BitVec 6) (gd ga : Reg) (sz : BitVec 3) (fl : BitVec 2) (off : BitVec 11) :
    fGd (mWord m gd ga sz fl off) = gd := by
  simp only [fGd, bitsOf, mWord]; ext i hi; simp; grind

theorem fGa_mWord (m : BitVec 6) (gd ga : Reg) (sz : BitVec 3) (fl : BitVec 2) (off : BitVec 11) :
    fGa (mWord m gd ga sz fl off) = ga := by
  simp only [fGa, bitsOf, mWord]; ext i hi; simp; grind

theorem bitsOf_mWord_size (m : BitVec 6) (gd ga : Reg) (sz : BitVec 3) (fl : BitVec 2) (off : BitVec 11) (lo len : Nat)
    (h : lo + len ≤ 3) : bitsOf (mWord m gd ga sz fl off) (13 + lo) len = sz.extractLsb' lo len := by
  simp only [bitsOf, mWord]; ext i hi; simp; grind

theorem bitsOf_mWord_flags (m : BitVec 6) (gd ga : Reg) (sz : BitVec 3) (fl : BitVec 2) (off : BitVec 11) :
    bitsOf (mWord m gd ga sz fl off) 11 2 = fl := by
  simp only [bitsOf, mWord]; ext i hi; simp; grind

theorem bitsOf_mWord_off (m : BitVec 6) (gd ga : Reg) (sz : BitVec 3) (fl : BitVec 2) (off : BitVec 11) :
    bitsOf (mWord m gd ga sz fl off) 0 11 = off := by
  simp only [bitsOf, mWord]; ext i hi; simp; grind

end Sys2Proof
end

