-- ==== Sys2Proof/Laws/Ops.lean ====
section
/-! SUPPORT. What the shared operations come to, one lemma each, to cite in place of unfolding them: answers, giving up
a reservation, taking a fault, writes to banks, homes and region blocks. -/

namespace Sys2Proof.Machine

/-- A table whose entries are all changed by one function. -/
theorem mapGet_map {α β : Type} (m : SMap α) (f : α → β) (n : Nat) :
    mapGet (m.map (fun e => (e.1, f e.2))) n = (mapGet m n).map f := by
  induction m with
  | nil => rfl
  | cons e m ih =>
    simp only [List.map_cons, mapGet]
    split
    · rfl
    · exact ih

/-- A slot that goes on. -/
@[simp] theorem resume_slot_same (s : State) (i : Nat) : (resume s i).slot i = { s.slot i with status := .ready } :=
  State.slot_modSlot_same s i (fun sl => { sl with status := .ready })

theorem resume_slot_ne (s : State) (i j : Nat) (h : j ≠ i) : (resume s i).slot j = s.slot j :=
  State.slot_modSlot_ne s i j (fun sl => { sl with status := .ready }) h

/-- A slot that is answered. -/
@[simp] theorem answer_slot_same (s : State) (i : Nat) (r : Reply) :
    (answer s i r).slot i = { s.slot i with reply := some r, status := .ready } := by
  simp [answer]

theorem answer_slot_ne (s : State) (i j : Nat) (r : Reply) (h : j ≠ i) : (answer s i r).slot j = s.slot j := by
  rw [answer, resume_slot_ne _ _ _ h, State.slot_modSlot_ne _ _ _ _ h]

/-- Who comes to hold a reservation is answered; nothing else of a slot changes. -/
theorem grantHead_slot (s : State) (key i : Nat) :
    ∃ r, (grantHead s key).slot i = { s.slot i with reply := r } := by
  unfold grantHead
  split
  · split
    · exact ⟨_, rfl⟩
    · rename_i r _ _ _ _
      by_cases h : i = r.slot
      · subst h; exact ⟨_, State.slot_modSlot_same _ _ _⟩
      · exact ⟨(s.slot i).reply, State.slot_modSlot_ne _ _ _ _ h⟩
  · exact ⟨_, rfl⟩

/-- What leaving a queue keeps. -/
structure KeepsButReservations (s t : State) : Prop where
  slot : ∀ i, ∃ r, t.slot i = { s.slot i with reply := r }
  rest : { t with slots := s.slots, resv := s.resv } = s

theorem KeepsButReservations.refl (s : State) : KeepsButReservations s s := ⟨fun _ => ⟨_, rfl⟩, rfl⟩

theorem KeepsButReservations.trans {s t u : State} (h : KeepsButReservations s t) (h' : KeepsButReservations t u) :
    KeepsButReservations s u := by
  refine ⟨fun i => ?_, ?_⟩
  · obtain ⟨r, hr⟩ := h.slot i
    obtain ⟨r', hr'⟩ := h'.slot i
    exact ⟨r', by rw [hr', hr]⟩
  · have h1 := h.rest
    have h2 := h'.rest
    rw [← h2] at h1
    exact h1

theorem KeepsButReservations.put (s : State) (m : SMap (List Resv)) : KeepsButReservations s { s with resv := m } :=
  ⟨fun _ => ⟨_, rfl⟩, rfl⟩

theorem grantHead_keeps (s : State) (key : Nat) : KeepsButReservations s (grantHead s key) := by
  refine ⟨grantHead_slot s key, ?_⟩
  unfold grantHead
  split
  · split <;> rfl
  · rfl

theorem leaveQueue_keeps (s : State) (slot key : Nat) : KeepsButReservations s (leaveQueue s slot key) := by
  unfold leaveQueue
  split
  · exact .refl s
  · split
    · exact .put s _
    · exact (KeepsButReservations.put s _).trans (grantHead_keeps _ _)

theorem leaveQueues_keeps (s : State) (slot : Nat) (es : SMap (List Resv)) :
    KeepsButReservations s (es.foldl (fun s e => leaveQueue s slot e.1) s) := by
  induction es generalizing s with
  | nil => exact .refl s
  | cons e es ih => exact .trans (leaveQueue_keeps s slot e.1) (ih _)

/-- Giving up a reservation changes reservations and the replies of those who come to hold them; a slot that holds one at
another device withdraws there. Nothing else changes (R167). -/
theorem giveUpReservation_spec (s : State) (slot : Nat) :
    (∀ i, ∃ r, (s.giveUpReservation slot).slot i =
      { s.slot i with reply := r, awayResv := if i = slot then false else (s.slot i).awayResv }) ∧
    { s.giveUpReservation slot with slots := s.slots, resv := s.resv, outbox := s.outbox } = s ∧
    (s.giveUpReservation slot).outbox = s.outbox ++ if (s.slot slot).awayResv then [Out.withdraw slot] else [] := by
  have hk := leaveQueues_keeps s slot (s.resv.filter (fun e => e.2.any (fun r => r.slot == slot)))
  unfold State.giveUpReservation
  generalize (s.resv.filter (fun e => e.2.any (fun r => r.slot == slot))).foldl (fun s e => leaveQueue s slot e.1) s = t at hk
  obtain ⟨r, hr⟩ := hk.slot slot
  have ha : (t.slot slot).awayResv = (s.slot slot).awayResv := by rw [hr]
  have ho : t.outbox = s.outbox := (congrArg State.outbox hk.rest :)
  have hs : { t with slots := s.slots, resv := s.resv, outbox := s.outbox } = s := by
    have h := congrArg (fun u : State => { u with outbox := s.outbox }) hk.rest
    exact h
  unfold dropAway
  by_cases h : (s.slot slot).awayResv = true
  · rw [if_pos (ha.trans h)]
    refine ⟨fun i => ?_, hs, by simp [h, ho]⟩
    by_cases hi : i = slot
    · subst hi
      exact ⟨r, (State.slot_modSlot_same t i (fun sl => { sl with awayResv := false })).trans (by rw [hr, if_pos rfl])⟩
    · obtain ⟨r', hr'⟩ := hk.slot i
      exact ⟨r', (State.slot_modSlot_ne t slot i (fun sl => { sl with awayResv := false }) hi).trans (by rw [hr', if_neg hi])⟩
  · rw [if_neg (by rw [ha]; exact h)]
    refine ⟨fun i => ?_, hs, by simp [h, ho]⟩
    obtain ⟨r', hr'⟩ := hk.slot i
    refine ⟨r', hr'.trans ?_⟩
    by_cases hi : i = slot
    · subst hi; simp [h]
    · simp [hi]

@[simp] theorem State.slot_sendRecord (s : State) (r : TrapRec) (i : Nat) : (s.sendRecord r).slot i = s.slot i := rfl

@[simp] theorem State.sendRecord_trapsInFlight (s : State) (r : TrapRec) :
    (s.sendRecord r).trapsInFlight = s.trapsInFlight ++ [r] := rfl

/-- What taking a fault comes to (R356, R357): the saved registers, and either the handler or the parked slot with its
record. -/
theorem takeFaultOf_spec (s : State) (i : Nat) (c : Cause) (v : Word) :
    (takeFaultOf s i c v).mem = s.mem ∧ (takeFaultOf s i c v).regions = s.regions ∧
    (takeFaultOf s i c v).cores = s.cores ∧ (takeFaultOf s i c v).tq = s.tq ∧
    (takeFaultOf s i c v).slot i = (
      let sl := { clearProgress (s.slot i) with
        epc := (s.slot i).pc, cause := causeCode c, tval := v, wpSkip := false, awayResv := false }
      if c = .fatalhw then { sl with status := .parked none }
      else if (s.slot i).inh then { sl with cause := causeCode .double, status := .parked none }
      else if handles (s.region (s.slot i).region) c && (s.slot i).tvec != 0 then
        { sl with inh := true, pc := (s.slot i).tvec, status := .ready }
      else { sl with status := .parked none }) ∧
    (takeFaultOf s i c v).trapsInFlight = s.trapsInFlight ++ (
      let rec_ := fun kind cause aux => trapRec s kind cause 0 (s.slot i).region i (s.slot i).pc v aux
      if c = .fatalhw then [rec_ 3 (causeCode c) 0]
      else if (s.slot i).inh then [rec_ 0 (causeCode .double) ((causeCode c).setWidth 64)]
      else if handles (s.region (s.slot i).region) c && (s.slot i).tvec != 0 then []
      else [rec_ 0 (causeCode c) (if c = .shadowfull then v else 0)]) := by
  obtain ⟨hsl, hrest, -⟩ := giveUpReservation_spec s i
  obtain ⟨r, hr⟩ := hsl i
  rw [if_pos rfl] at hr
  have hm : (s.giveUpReservation i).mem = s.mem := (congrArg State.mem hrest :)
  have hg : (s.giveUpReservation i).regions = s.regions := (congrArg State.regions hrest :)
  have hc : (s.giveUpReservation i).cores = s.cores := (congrArg State.cores hrest :)
  have hq : (s.giveUpReservation i).tq = s.tq := (congrArg State.tq hrest :)
  have ht : (s.giveUpReservation i).trapsInFlight = s.trapsInFlight := (congrArg State.trapsInFlight hrest :)
  have htime : (s.giveUpReservation i).time = s.time := (congrArg State.time hrest :)
  have hd : (s.giveUpReservation i).dev = s.dev := (congrArg State.dev hrest :)
  have hreg : ∀ n, (s.giveUpReservation i).region n = s.region n := fun n => by simp only [State.region, hg]
  unfold takeFaultOf
  simp only [hr]
  by_cases h1 : c = .fatalhw
  · simp [h1, State.park, hm, hg, hc, hq, ht, htime, hd, hr, trapRec, clearProgress]
  · by_cases h2 : (s.slot i).inh = true
    · simp [h1, h2, State.park, hm, hg, hc, hq, ht, htime, hd, hr, trapRec, clearProgress]
    · have hmod : ∀ f n, ((s.giveUpReservation i).modSlot i f).region n = s.region n := fun _ n => hreg n
      simp only [h1, h2, if_false, hmod]
      by_cases h3 : (handles (s.region (s.slot i).region) c && (s.slot i).tvec != 0) = true
      · simp only [h3, if_true]
        simp [hm, hg, hc, hq, ht, hr, clearProgress]
      · simp only [h3]
        by_cases h4 : c = .shadowfull <;> simp [State.park, hm, hg, hc, hq, ht, htime, hd, hr, trapRec, clearProgress, h4]

@[simp] theorem State.region_setSlot (s : State) (i : Nat) (sl : Slot) (n : Nat) :
    (s.setSlot i sl).region n = s.region n := rfl

@[simp] theorem State.region_setCore (s : State) (c : Nat) (k : Core) (n : Nat) :
    (s.setCore c k).region n = s.region n := rfl

@[simp] theorem State.region_modSlot (s : State) (i : Nat) (f : Slot → Slot) (n : Nat) :
    (s.modSlot i f).region n = s.region n := rfl

@[simp] theorem State.region_modCore (s : State) (c : Nat) (f : Core → Core) (n : Nat) :
    (s.modCore c f).region n = s.region n := rfl

/-- A write wakes sleepers on counted words and changes nothing else of a slot than its reply (R176). -/
theorem wakeCounter_reply (s : State) (key len : Nat) (sl : Slot) :
    ∃ r, wakeCounter s key len sl = { sl with reply := r } ∧ (sl.reply.isSome → r = sl.reply) ∧
      ((∀ z, sl.status ≠ .asleep z) → r = sl.reply) := by
  unfold wakeCounter
  split
  · rename_i z h1 h2
    split
    · split
      · have late : ∀ (c : Prop) [Decidable c] (x : Reply), ∃ r, (if c then { sl with reply := some x } else sl) =
            { sl with reply := r } ∧ (sl.reply.isSome → r = sl.reply) ∧ ((∀ z, sl.status ≠ .asleep z) → r = sl.reply) := by
          intro c _ x
          split
          · exact ⟨_, rfl, by simp [h2], fun h => absurd h1 (h z)⟩
          · exact ⟨_, rfl, fun _ => rfl, fun _ => rfl⟩
        exact late _ _
      · exact ⟨_, rfl, fun _ => rfl, fun _ => rfl⟩
    · exact ⟨_, rfl, fun _ => rfl, fun _ => rfl⟩
  · exact ⟨_, rfl, fun _ => rfl, fun _ => rfl⟩

/-- A table whose entries are all changed by a function of their numbers too. -/
theorem mapGet_mapIdx {α β : Type} (m : SMap α) (f : Nat → α → β) (n : Nat) :
    mapGet (m.map (fun e => (e.1, f e.1 e.2))) n = (mapGet m n).map (f n) := by
  induction m with
  | nil => rfl
  | cons e m ih =>
    simp only [List.map_cons, mapGet]
    split
    · rename_i h; subst h; rfl
    · exact ih

/-- A request that is still on its way to its home is not woken (R176). -/
theorem wakeCounters_slot (s : State) (key len i : Nat) :
    (wakeCounters s key len).slot i = if onWay s i then s.slot i else wakeCounter s key len (s.slot i) := by
  simp only [wakeCounters, State.slot, mapGet_mapIdx s.slots (fun n sl => if onWay s n then sl else wakeCounter s key len sl)]
  cases mapGet s.slots i
  · show Slot.idle = _; split <;> rfl
  · rfl

/-- A write to a bank: the bytes, and at most the reply of a slot (R111, R176). -/
@[simp] theorem bankWrite_mem (s : State) (key : Nat) (bs : List Byte) :
    (bankWrite s key bs).mem = writeBytes s.mem key bs := rfl

theorem bankWrite_slot (s : State) (key : Nat) (bs : List Byte) (i : Nat) :
    ∃ r, (bankWrite s key bs).slot i = { s.slot i with reply := r } ∧ ((s.slot i).reply.isSome → r = (s.slot i).reply) ∧
      ((∀ z, (s.slot i).status ≠ .asleep z) → r = (s.slot i).reply) := by
  have h := wakeCounters_slot { s with mem := writeBytes s.mem key bs } key bs.length i
  obtain ⟨r, hr, h1, h2⟩ := wakeCounter_reply { s with mem := writeBytes s.mem key bs } key bs.length (s.slot i)
  by_cases ho : onWay { s with mem := writeBytes s.mem key bs } i = true
  · exact ⟨_, h.trans (if_pos ho), fun _ => rfl, fun _ => rfl⟩
  · exact ⟨r, (h.trans (if_neg ho)).trans hr, h1, h2⟩

/-- What the device writes at a home itself: the bytes, and the line's version. -/
@[simp] theorem rawWrite_mem (s : State) (p : Nat) (bs : List Byte) : (rawWrite s p bs).mem = writeBytes s.mem p bs := by
  unfold rawWrite bumpLine nextVersion State.modLine; split <;> rfl

theorem rawWrite_rest (s : State) (p : Nat) (bs : List Byte) :
    { rawWrite s p bs with mem := s.mem, lines := s.lines, sliceVer := s.sliceVer } = s := by
  unfold rawWrite bumpLine nextVersion State.modLine; split <;> rfl

theorem modLine_line (s : State) (l m : Nat) (f : LineInfo → LineInfo) :
    (s.modLine l f).line m = if m = l then f (s.line l) else s.line m := by
  simp only [State.modLine, State.line, mapGet_mapPut]
  split <;> simp_all

theorem rawWrite_line (s : State) (p : Nat) (bs : List Byte) (l : Nat) :
    ∃ v d, (rawWrite s p bs).line l = { s.line l with version := v, dirty := d } := by
  unfold rawWrite bumpLine nextVersion
  split
  · exact ⟨_, _, rfl⟩
  · simp only [modLine_line]
    split
    · rename_i h; subst h; exact ⟨_, _, rfl⟩
    · exact ⟨_, _, rfl⟩

/-- The same line after line: outside the bytes every byte of memory stays, and of a line only its version changes. -/
theorem rawWriteLines_spec (n : Nat) (s : State) (p : Nat) (bs : List Byte) :
    { rawWriteLines s p bs n with mem := s.mem, lines := s.lines, sliceVer := s.sliceVer } = s ∧
    (∀ l, ∃ v d, (rawWriteLines s p bs n).line l = { s.line l with version := v, dirty := d }) ∧
    (Memory.wf s.mem = true → Memory.wf (rawWriteLines s p bs n).mem = true) ∧
    ∀ a, a < p ∨ p + 128 * n ≤ a → byteAt (rawWriteLines s p bs n).mem a = byteAt s.mem a := by
  induction n generalizing s p bs with
  | zero => exact ⟨rfl, fun _ => ⟨_, _, rfl⟩, fun h => h, fun _ _ => rfl⟩
  | succ n ih =>
    obtain ⟨h1, h2, h3, h4⟩ := ih (rawWrite s p (bs.take 128)) (p + 128) (bs.drop 128)
    have h0 := rawWrite_rest s p (bs.take 128)
    refine ⟨?_, fun l => ?_, fun hw => ?_, fun a ha => ?_⟩
    · rw [← h1] at h0; exact h0
    · obtain ⟨v, d, h⟩ := h2 l
      obtain ⟨v', d', h'⟩ := rawWrite_line s p (bs.take 128) l
      exact ⟨v, d, by rw [rawWriteLines, h, h']⟩
    · exact h3 (by rw [rawWrite_mem]; exact Memory.wf_writeBytes _ _ _ hw)
    · have : (bs.take 128).length ≤ 128 := List.length_take_le _ _
      rw [rawWriteLines, h4 a (by omega), rawWrite_mem, byteAt_writeBytes_outside _ _ _ _ (by omega)]

/-- A region's block changed by hardware: the region, and no byte outside the block (R331). -/
theorem putRegion_spec (s : State) (r : Nat) (g : Region) :
    (∀ n, (putRegion s r g).region n = if n = r then g else s.region n) ∧
    { putRegion s r g with mem := s.mem, lines := s.lines, sliceVer := s.sliceVer, regions := s.regions } = s ∧
    (∀ l, ∃ v d, (putRegion s r g).line l = { s.line l with version := v, dirty := d }) ∧
    (Memory.wf s.mem = true → Memory.wf (putRegion s r g).mem = true) ∧
    ∀ a, (∀ q, g.phys = some q → a < q ∨ q + 512 ≤ a) → byteAt (putRegion s r g).mem a = byteAt s.mem a := by
  have hr : ∀ t : State, t.regions = mapPut s.regions r g → ∀ n, t.region n = if n = r then g else s.region n := by
    intro t ht n
    simp only [State.region, ht, mapGet_mapPut]
    split <;> rfl
  unfold putRegion
  cases hp : g.phys with
  | none => exact ⟨hr _ rfl, rfl, fun _ => ⟨_, _, rfl⟩, fun h => h, fun _ _ => rfl⟩
  | some q =>
    obtain ⟨h1, h2, h3, h4⟩ := rawWriteLines_spec 4 { s with regions := mapPut s.regions r g } q
      (rcbImage { s with regions := mapPut s.regions r g } r g)
    refine ⟨hr _ (congrArg State.regions h1 :), ?_, h2, h3, fun a ha => h4 a (ha q rfl)⟩
    have := congrArg (fun u : State => { u with regions := s.regions }) h1
    exact this

end Sys2Proof.Machine
end

