-- ==== Sys2Proof/Laws/PerInstr.lean ====
section
/-! SUPPORT. What R32 says of every instruction, one lemma per constructor: a well-formed tile command leads with a
word whose major opcode is 0x3F, and no other instruction's word does. -/

namespace Sys2Proof.Laws.Lead

/-- The leading word tells a tile command from every other instruction (R32). -/
def Statement (i : Instr) : Prop :=
  (∀ t, i.tile? = some t → WellFormed i = true → fMaj t.w0 = 0x3F) ∧ (i.tile? = none → fMaj (encodeScalar i) ≠ 0x3F)

/-- A command of the command port and an event have no word of their own; the encoder gives 0 for them. -/
theorem of_zero (i : Instr) (ht : i.tile? = none) (hw : encodeScalar i = 0) : Statement i :=
  ⟨fun t h => (by rw [ht] at h; cases h), fun _ => by rw [hw]; decide⟩

theorem of_word (i : Instr) (m : BitVec 6) (ht : i.tile? = none) (hw : fMaj (encodeScalar i) = m) (hm : m ≠ 0x3F) :
    Statement i :=
  ⟨fun t h => (by rw [ht] at h; cases h), fun _ => by rw [hw]; exact hm⟩

theorem of_tile (i : Instr) (t : TileWords) (e : BitVec 4) (o : BitVec 8) (ht : i.tile? = some t)
    (hw : WellFormed i = t.isOp e o) : Statement i := by
  refine ⟨fun u h w => ?_, fun h => (by rw [ht] at h; cases h)⟩
  rw [ht] at h; cases h; rw [hw] at w
  simp only [TileWords.isOp, Bool.and_eq_true, beq_iff_eq] at w
  exact w.1.1

theorem add (gd ga gb : Reg) : Statement (.add gd ga gb) := of_word _ 0x01 rfl (fMaj_rWord _ _ _ _ _) (by decide)
theorem sub (gd ga gb : Reg) : Statement (.sub gd ga gb) := of_word _ 0x01 rfl (fMaj_rWord _ _ _ _ _) (by decide)
theorem and (gd ga gb : Reg) : Statement (.and gd ga gb) := of_word _ 0x01 rfl (fMaj_rWord _ _ _ _ _) (by decide)
theorem or (gd ga gb : Reg) : Statement (.or gd ga gb) := of_word _ 0x01 rfl (fMaj_rWord _ _ _ _ _) (by decide)
theorem xor (gd ga gb : Reg) : Statement (.xor gd ga gb) := of_word _ 0x01 rfl (fMaj_rWord _ _ _ _ _) (by decide)
theorem andn (gd ga gb : Reg) : Statement (.andn gd ga gb) := of_word _ 0x01 rfl (fMaj_rWord _ _ _ _ _) (by decide)
theorem sll (gd ga gb : Reg) : Statement (.sll gd ga gb) := of_word _ 0x01 rfl (fMaj_rWord _ _ _ _ _) (by decide)
theorem srl (gd ga gb : Reg) : Statement (.srl gd ga gb) := of_word _ 0x01 rfl (fMaj_rWord _ _ _ _ _) (by decide)
theorem sra (gd ga gb : Reg) : Statement (.sra gd ga gb) := of_word _ 0x01 rfl (fMaj_rWord _ _ _ _ _) (by decide)
theorem rol (gd ga gb : Reg) : Statement (.rol gd ga gb) := of_word _ 0x01 rfl (fMaj_rWord _ _ _ _ _) (by decide)
theorem min (gd ga gb : Reg) : Statement (.min gd ga gb) := of_word _ 0x01 rfl (fMaj_rWord _ _ _ _ _) (by decide)
theorem max (gd ga gb : Reg) : Statement (.max gd ga gb) := of_word _ 0x01 rfl (fMaj_rWord _ _ _ _ _) (by decide)
theorem minu (gd ga gb : Reg) : Statement (.minu gd ga gb) := of_word _ 0x01 rfl (fMaj_rWord _ _ _ _ _) (by decide)
theorem maxu (gd ga gb : Reg) : Statement (.maxu gd ga gb) := of_word _ 0x01 rfl (fMaj_rWord _ _ _ _ _) (by decide)
theorem slt (gd ga gb : Reg) : Statement (.slt gd ga gb) := of_word _ 0x01 rfl (fMaj_rWord _ _ _ _ _) (by decide)
theorem sltu (gd ga gb : Reg) : Statement (.sltu gd ga gb) := of_word _ 0x01 rfl (fMaj_rWord _ _ _ _ _) (by decide)
theorem seq (gd ga gb : Reg) : Statement (.seq gd ga gb) := of_word _ 0x01 rfl (fMaj_rWord _ _ _ _ _) (by decide)
theorem sel (gd ga gb : Reg) : Statement (.sel gd ga gb) := of_word _ 0x01 rfl (fMaj_rWord _ _ _ _ _) (by decide)
theorem clz (gd ga : Reg) : Statement (.clz gd ga) := of_word _ 0x01 rfl (fMaj_rWord _ _ _ _ _) (by decide)
theorem ctz (gd ga : Reg) : Statement (.ctz gd ga) := of_word _ 0x01 rfl (fMaj_rWord _ _ _ _ _) (by decide)
theorem popc (gd ga : Reg) : Statement (.popc gd ga) := of_word _ 0x01 rfl (fMaj_rWord _ _ _ _ _) (by decide)
theorem bswap (gd ga : Reg) : Statement (.bswap gd ga) := of_word _ 0x01 rfl (fMaj_rWord _ _ _ _ _) (by decide)
theorem sextb (gd ga : Reg) : Statement (.sextb gd ga) := of_word _ 0x01 rfl (fMaj_rWord _ _ _ _ _) (by decide)
theorem sexth (gd ga : Reg) : Statement (.sexth gd ga) := of_word _ 0x01 rfl (fMaj_rWord _ _ _ _ _) (by decide)
theorem sextw (gd ga : Reg) : Statement (.sextw gd ga) := of_word _ 0x01 rfl (fMaj_rWord _ _ _ _ _) (by decide)
theorem zextw (gd ga : Reg) : Statement (.zextw gd ga) := of_word _ 0x01 rfl (fMaj_rWord _ _ _ _ _) (by decide)
theorem addi (gd ga : Reg) (imm : BitVec 16) : Statement (.addi gd ga imm) :=
    of_word _ 0x02 rfl (fMaj_iWord _ _ _ _) (by decide)
theorem andi (gd ga : Reg) (imm : BitVec 16) : Statement (.andi gd ga imm) :=
    of_word _ 0x03 rfl (fMaj_iWord _ _ _ _) (by decide)
theorem ori (gd ga : Reg) (imm : BitVec 16) : Statement (.ori gd ga imm) :=
    of_word _ 0x04 rfl (fMaj_iWord _ _ _ _) (by decide)
theorem xori (gd ga : Reg) (imm : BitVec 16) : Statement (.xori gd ga imm) :=
    of_word _ 0x05 rfl (fMaj_iWord _ _ _ _) (by decide)
theorem slli (gd ga : Reg) (sh : BitVec 6) : Statement (.slli gd ga sh) :=
    of_word _ 0x06 rfl (fMaj_iWord _ _ _ _) (by decide)
theorem srli (gd ga : Reg) (sh : BitVec 6) : Statement (.srli gd ga sh) :=
    of_word _ 0x06 rfl (fMaj_iWord _ _ _ _) (by decide)
theorem srai (gd ga : Reg) (sh : BitVec 6) : Statement (.srai gd ga sh) :=
    of_word _ 0x06 rfl (fMaj_iWord _ _ _ _) (by decide)
theorem slti (gd ga : Reg) (imm : BitVec 15) : Statement (.slti gd ga imm) :=
    of_word _ 0x07 rfl (fMaj_iWord _ _ _ _) (by decide)
theorem sltiu (gd ga : Reg) (imm : BitVec 15) : Statement (.sltiu gd ga imm) :=
    of_word _ 0x07 rfl (fMaj_iWord _ _ _ _) (by decide)
theorem lui (gd : Reg) (imm : BitVec 21) : Statement (.lui gd imm) :=
    of_word _ 0x08 rfl (fMaj_uWord _ _ _) (by decide)
theorem adpc (gd : Reg) (imm : BitVec 21) : Statement (.adpc gd imm) :=
    of_word _ 0x09 rfl (fMaj_uWord _ _ _) (by decide)
theorem mul (gd ga gb : Reg) : Statement (.mul gd ga gb) := of_word _ 0x0A rfl (fMaj_rWord _ _ _ _ _) (by decide)
theorem mulh (gd ga gb : Reg) : Statement (.mulh gd ga gb) := of_word _ 0x0A rfl (fMaj_rWord _ _ _ _ _) (by decide)
theorem mulhu (gd ga gb : Reg) : Statement (.mulhu gd ga gb) := of_word _ 0x0A rfl (fMaj_rWord _ _ _ _ _) (by decide)
theorem div (gd ga gb : Reg) : Statement (.div gd ga gb) := of_word _ 0x0A rfl (fMaj_rWord _ _ _ _ _) (by decide)
theorem divu (gd ga gb : Reg) : Statement (.divu gd ga gb) := of_word _ 0x0A rfl (fMaj_rWord _ _ _ _ _) (by decide)
theorem rem (gd ga gb : Reg) : Statement (.rem gd ga gb) := of_word _ 0x0A rfl (fMaj_rWord _ _ _ _ _) (by decide)
theorem remu (gd ga gb : Reg) : Statement (.remu gd ga gb) := of_word _ 0x0A rfl (fMaj_rWord _ _ _ _ _) (by decide)
theorem fadd (gd ga gb : Reg) : Statement (.fadd gd ga gb) := of_word _ 0x0B rfl (fMaj_rWord _ _ _ _ _) (by decide)
theorem fsub (gd ga gb : Reg) : Statement (.fsub gd ga gb) := of_word _ 0x0B rfl (fMaj_rWord _ _ _ _ _) (by decide)
theorem fmul (gd ga gb : Reg) : Statement (.fmul gd ga gb) := of_word _ 0x0B rfl (fMaj_rWord _ _ _ _ _) (by decide)
theorem ffma (gd ga gb : Reg) : Statement (.ffma gd ga gb) := of_word _ 0x0B rfl (fMaj_rWord _ _ _ _ _) (by decide)
theorem fmin (gd ga gb : Reg) : Statement (.fmin gd ga gb) := of_word _ 0x0B rfl (fMaj_rWord _ _ _ _ _) (by decide)
theorem fmax (gd ga gb : Reg) : Statement (.fmax gd ga gb) := of_word _ 0x0B rfl (fMaj_rWord _ _ _ _ _) (by decide)
theorem fcmp (gd ga gb : Reg) (cc : BitVec 2) : Statement (.fcmp gd ga gb cc) :=
    of_word _ 0x0B rfl (fMaj_rWord _ _ _ _ _) (by decide)
theorem fcvtif (gd ga : Reg) (u : Bool) : Statement (.fcvtif gd ga u) :=
    of_word _ 0x0B rfl (fMaj_rWord _ _ _ _ _) (by decide)
theorem fcvtfi (gd ga : Reg) (u : Bool) : Statement (.fcvtfi gd ga u) :=
    of_word _ 0x0B rfl (fMaj_rWord _ _ _ _ _) (by decide)
theorem fneg (gd ga : Reg) : Statement (.fneg gd ga) := of_word _ 0x0B rfl (fMaj_rWord _ _ _ _ _) (by decide)
theorem beq (ga gb : Reg) (off : BitVec 16) : Statement (.beq ga gb off) :=
    of_word _ 0x10 rfl (fMaj_iWord _ _ _ _) (by decide)
theorem bne (ga gb : Reg) (off : BitVec 16) : Statement (.bne ga gb off) :=
    of_word _ 0x11 rfl (fMaj_iWord _ _ _ _) (by decide)
theorem blt (ga gb : Reg) (off : BitVec 16) : Statement (.blt ga gb off) :=
    of_word _ 0x12 rfl (fMaj_iWord _ _ _ _) (by decide)
theorem bge (ga gb : Reg) (off : BitVec 16) : Statement (.bge ga gb off) :=
    of_word _ 0x13 rfl (fMaj_iWord _ _ _ _) (by decide)
theorem bltu (ga gb : Reg) (off : BitVec 16) : Statement (.bltu ga gb off) :=
    of_word _ 0x14 rfl (fMaj_iWord _ _ _ _) (by decide)
theorem bgeu (ga gb : Reg) (off : BitVec 16) : Statement (.bgeu ga gb off) :=
    of_word _ 0x15 rfl (fMaj_iWord _ _ _ _) (by decide)
theorem jmp (off : BitVec 26) : Statement (.jmp off) := of_word _ 0x16 rfl (fMaj_jWord _ _) (by decide)
theorem call (off : BitVec 26) : Statement (.call off) := of_word _ 0x17 rfl (fMaj_jWord _ _) (by decide)
theorem jr (gd ga : Reg) : Statement (.jr gd ga) := of_word _ 0x18 rfl (fMaj_rWord _ _ _ _ _) (by decide)
theorem ld (gd ga : Reg) (w : BitVec 2) (off : BitVec 11) : Statement (.ld gd ga w off) :=
    of_word _ 0x20 rfl (fMaj_mWord _ _ _ _ _ _) (by decide)
theorem ldA8 (gd ga : Reg) (off : BitVec 11) : Statement (.ldA8 gd ga off) :=
    of_word _ 0x20 rfl (fMaj_mWord _ _ _ _ _ _) (by decide)
theorem ldu (gd ga : Reg) (w : BitVec 2) (off : BitVec 11) : Statement (.ldu gd ga w off) :=
    of_word _ 0x20 rfl (fMaj_mWord _ _ _ _ _ _) (by decide)
theorem st (gd ga : Reg) (w : BitVec 2) (off : BitVec 11) : Statement (.st gd ga w off) :=
    of_word _ 0x21 rfl (fMaj_mWord _ _ _ _ _ _) (by decide)
theorem stA8 (gd ga : Reg) (off : BitVec 11) : Statement (.stA8 gd ga off) :=
    of_word _ 0x21 rfl (fMaj_mWord _ _ _ _ _ _) (by decide)
theorem ldacq (gd ga : Reg) (scope : BitVec 3) (w : BitVec 2) (off : BitVec 11) : Statement (.ldacq gd ga scope w off) :=
    of_word _ 0x22 rfl (fMaj_mWord _ _ _ _ _ _) (by decide)
theorem strel (gd ga : Reg) (scope : BitVec 3) (w : BitVec 2) (off : BitVec 11) : Statement (.strel gd ga scope w off) :=
    of_word _ 0x23 rfl (fMaj_mWord _ _ _ _ _ _) (by decide)
theorem renew (ga : Reg) : Statement (.renew ga) := of_word _ 0x24 rfl (fMaj_rWord _ _ _ _ _) (by decide)
theorem drop (ga : Reg) : Statement (.drop ga) := of_word _ 0x24 rfl (fMaj_rWord _ _ _ _ _) (by decide)
theorem prune (ga gb : Reg) : Statement (.prune ga gb) := of_word _ 0x24 rfl (fMaj_rWord _ _ _ _ _) (by decide)
theorem pref (ga : Reg) : Statement (.pref ga) := of_word _ 0x24 rfl (fMaj_rWord _ _ _ _ _) (by decide)
theorem fenceAcq (scope : BitVec 3) : Statement (.fenceAcq scope) :=
    of_word _ 0x25 rfl (fMaj_rWord _ _ _ _ _) (by decide)
theorem fenceRel (scope : BitVec 3) : Statement (.fenceRel scope) :=
    of_word _ 0x25 rfl (fMaj_rWord _ _ _ _ _) (by decide)
theorem fenceFull (scope : BitVec 3) : Statement (.fenceFull scope) :=
    of_word _ 0x25 rfl (fMaj_rWord _ _ _ _ _) (by decide)
theorem amoAdd (gd ga gb : Reg) (scope : BitVec 3) (ord : BitVec 2) (w8 : Bool) : Statement (.amoAdd gd ga gb scope ord w8) :=
    of_word _ 0x26 rfl (fMaj_rWord _ _ _ _ _) (by decide)
theorem amoAnd (gd ga gb : Reg) (scope : BitVec 3) (ord : BitVec 2) (w8 : Bool) : Statement (.amoAnd gd ga gb scope ord w8) :=
    of_word _ 0x26 rfl (fMaj_rWord _ _ _ _ _) (by decide)
theorem amoOr (gd ga gb : Reg) (scope : BitVec 3) (ord : BitVec 2) (w8 : Bool) : Statement (.amoOr gd ga gb scope ord w8) :=
    of_word _ 0x26 rfl (fMaj_rWord _ _ _ _ _) (by decide)
theorem amoXor (gd ga gb : Reg) (scope : BitVec 3) (ord : BitVec 2) (w8 : Bool) : Statement (.amoXor gd ga gb scope ord w8) :=
    of_word _ 0x26 rfl (fMaj_rWord _ _ _ _ _) (by decide)
theorem amoMin (gd ga gb : Reg) (scope : BitVec 3) (ord : BitVec 2) (w8 : Bool) : Statement (.amoMin gd ga gb scope ord w8) :=
    of_word _ 0x26 rfl (fMaj_rWord _ _ _ _ _) (by decide)
theorem amoMax (gd ga gb : Reg) (scope : BitVec 3) (ord : BitVec 2) (w8 : Bool) : Statement (.amoMax gd ga gb scope ord w8) :=
    of_word _ 0x26 rfl (fMaj_rWord _ _ _ _ _) (by decide)
theorem amoMinu (gd ga gb : Reg) (scope : BitVec 3) (ord : BitVec 2) (w8 : Bool) : Statement (.amoMinu gd ga gb scope ord w8) :=
    of_word _ 0x26 rfl (fMaj_rWord _ _ _ _ _) (by decide)
theorem amoMaxu (gd ga gb : Reg) (scope : BitVec 3) (ord : BitVec 2) (w8 : Bool) : Statement (.amoMaxu gd ga gb scope ord w8) :=
    of_word _ 0x26 rfl (fMaj_rWord _ _ _ _ _) (by decide)
theorem amoSwap (gd ga gb : Reg) (scope : BitVec 3) (ord : BitVec 2) (w8 : Bool) : Statement (.amoSwap gd ga gb scope ord w8) :=
    of_word _ 0x26 rfl (fMaj_rWord _ _ _ _ _) (by decide)
theorem amoFadd (gd ga gb : Reg) (scope : BitVec 3) (ord : BitVec 2) : Statement (.amoFadd gd ga gb scope ord) :=
    of_word _ 0x26 rfl (fMaj_rWord _ _ _ _ _) (by decide)
theorem cas (gd ga gb : Reg) (scope : BitVec 3) (sord : BitVec 2) (facq : Bool) (w8 : Bool) : Statement (.cas gd ga gb scope sord facq w8) :=
    of_word _ 0x27 rfl (fMaj_rWord _ _ _ _ _) (by decide)
theorem lrw (gd ga : Reg) (scope : BitVec 3) (w8 : Bool) : Statement (.lrw gd ga scope w8) :=
    of_word _ 0x28 rfl (fMaj_rWord _ _ _ _ _) (by decide)
theorem sch (gd ga gb : Reg) (scope : BitVec 3) (w8 : Bool) : Statement (.sch gd ga gb scope w8) :=
    of_word _ 0x28 rfl (fMaj_rWord _ _ _ _ _) (by decide)
theorem ldfe (gd ga : Reg) : Statement (.ldfe gd ga) := of_word _ 0x29 rfl (fMaj_rWord _ _ _ _ _) (by decide)
theorem ldff (gd ga : Reg) : Statement (.ldff gd ga) := of_word _ 0x29 rfl (fMaj_rWord _ _ _ _ _) (by decide)
theorem stef (ga gb : Reg) : Statement (.stef ga gb) := of_word _ 0x29 rfl (fMaj_rWord _ _ _ _ _) (by decide)
theorem sete (ga : Reg) : Statement (.sete ga) := of_word _ 0x29 rfl (fMaj_rWord _ _ _ _ _) (by decide)
theorem arrive (gd ga gb : Reg) (scope : BitVec 3) : Statement (.arrive gd ga gb scope) :=
    of_word _ 0x2A rfl (fMaj_rWord _ _ _ _ _) (by decide)
theorem waitph (ga gb : Reg) (scope : BitVec 3) : Statement (.waitph ga gb scope) :=
    of_word _ 0x2A rfl (fMaj_rWord _ _ _ _ _) (by decide)
theorem bard (gd ga gb : Reg) (scope : BitVec 3) : Statement (.bard gd ga gb scope) :=
    of_word _ 0x2A rfl (fMaj_rWord _ _ _ _ _) (by decide)
theorem waitcnt (gd ga gb : Reg) (scope : BitVec 3) : Statement (.waitcnt gd ga gb scope) :=
    of_word _ 0x2B rfl (fMaj_rWord _ _ _ _ _) (by decide)
theorem notify (ga gb : Reg) (scope : BitVec 3) : Statement (.notify ga gb scope) :=
    of_word _ 0x2B rfl (fMaj_rWord _ _ _ _ _) (by decide)
theorem rupd (gd ga gb : Reg) (scope : BitVec 3) (op : BitVec 3) : Statement (.rupd gd ga gb scope op) :=
    of_word _ 0x2B rfl (fMaj_rWord _ _ _ _ _) (by decide)
theorem ldq (gd ga : Reg) (flags : BitVec 2) (off : BitVec 11) : Statement (.ldq gd ga flags off) :=
    of_word _ 0x2C rfl (fMaj_mWord _ _ _ _ _ _) (by decide)
theorem stq (gd ga : Reg) (flags : BitVec 2) (off : BitVec 11) : Statement (.stq gd ga flags off) :=
    of_word _ 0x2C rfl (fMaj_mWord _ _ _ _ _ _) (by decide)
theorem send (gd ga gb : Reg) (scope : BitVec 3) : Statement (.send gd ga gb scope) :=
    of_word _ 0x30 rfl (fMaj_rWord _ _ _ _ _) (by decide)
theorem spawn (gd ga gb : Reg) (scope : BitVec 3) : Statement (.spawn gd ga gb scope) :=
    of_word _ 0x30 rfl (fMaj_rWord _ _ _ _ _) (by decide)
theorem recv (gd ga : Reg) : Statement (.recv gd ga) := of_word _ 0x30 rfl (fMaj_rWord _ _ _ _ _) (by decide)
theorem peek (gd : Reg) : Statement (.peek gd) := of_word _ 0x30 rfl (fMaj_rWord _ _ _ _ _) (by decide)
theorem migrate (gd ga : Reg) : Statement (.migrate gd ga) := of_word _ 0x30 rfl (fMaj_rWord _ _ _ _ _) (by decide)
theorem yield (gd ga : Reg) : Statement (.yield gd ga) := of_word _ 0x30 rfl (fMaj_rWord _ _ _ _ _) (by decide)
theorem exit : Statement .exit := of_word _ 0x30 rfl (fMaj_rWord _ _ _ _ _) (by decide)
theorem slotq (gd : Reg) : Statement (.slotq gd) := of_word _ 0x30 rfl (fMaj_rWord _ _ _ _ _) (by decide)
theorem suspend (gd ga : Reg) : Statement (.suspend gd ga) := of_word _ 0x31 rfl (fMaj_rWord _ _ _ _ _) (by decide)
theorem force (gd ga : Reg) : Statement (.force gd ga) := of_word _ 0x31 rfl (fMaj_rWord _ _ _ _ _) (by decide)
theorem fpoll (gd ga : Reg) : Statement (.fpoll gd ga) := of_word _ 0x31 rfl (fMaj_rWord _ _ _ _ _) (by decide)
theorem spark (gd ga : Reg) : Statement (.spark gd ga) := of_word _ 0x31 rfl (fMaj_rWord _ _ _ _ _) (by decide)
theorem retain (ga : Reg) : Statement (.retain ga) := of_word _ 0x31 rfl (fMaj_rWord _ _ _ _ _) (by decide)
theorem release (ga : Reg) : Statement (.release ga) := of_word _ 0x31 rfl (fMaj_rWord _ _ _ _ _) (by decide)
theorem mkval (gd ga : Reg) : Statement (.mkval gd ga) := of_word _ 0x31 rfl (fMaj_rWord _ _ _ _ _) (by decide)
theorem hstate (gd ga : Reg) : Statement (.hstate gd ga) := of_word _ 0x31 rfl (fMaj_rWord _ _ _ _ _) (by decide)
theorem snap (gd ga gb : Reg) : Statement (.snap gd ga gb) := of_word _ 0x32 rfl (fMaj_rWord _ _ _ _ _) (by decide)
theorem accept (ga : Reg) : Statement (.accept ga) := of_word _ 0x32 rfl (fMaj_rWord _ _ _ _ _) (by decide)
theorem reject (gd ga : Reg) : Statement (.reject gd ga) := of_word _ 0x32 rfl (fMaj_rWord _ _ _ _ _) (by decide)
theorem snapq (gd ga : Reg) : Statement (.snapq gd ga) := of_word _ 0x32 rfl (fMaj_rWord _ _ _ _ _) (by decide)
theorem shuf (gd ga gb : Reg) : Statement (.shuf gd ga gb) := of_word _ 0x33 rfl (fMaj_rWord _ _ _ _ _) (by decide)
theorem side (gd ga gb : Reg) : Statement (.side gd ga gb) := of_word _ 0x33 rfl (fMaj_rWord _ _ _ _ _) (by decide)
theorem unside (gd gb : Reg) : Statement (.unside gd gb) := of_word _ 0x33 rfl (fMaj_rWord _ _ _ _ _) (by decide)
theorem disp (gd ga gb : Reg) : Statement (.disp gd ga gb) := of_word _ 0x33 rfl (fMaj_rWord _ _ _ _ _) (by decide)
theorem shq (gd ga : Reg) : Statement (.shq gd ga) := of_word _ 0x33 rfl (fMaj_rWord _ _ _ _ _) (by decide)
theorem bind (ga : Reg) (q : BitVec 3) : Statement (.bind ga q) :=
    of_word _ 0x34 rfl (fMaj_rWord _ _ _ _ _) (by decide)
theorem unbind (q : BitVec 3) : Statement (.unbind q) := of_word _ 0x34 rfl (fMaj_rWord _ _ _ _ _) (by decide)
theorem closeb (gd : Reg) : Statement (.closeb gd) := of_word _ 0x34 rfl (fMaj_rWord _ _ _ _ _) (by decide)
theorem waitb (gd : Reg) (n : BitVec 4) : Statement (.waitb gd n) :=
    of_word _ 0x34 rfl (fMaj_rWord _ _ _ _ _) (by decide)
theorem spos (gd : Reg) (q : BitVec 3) : Statement (.spos gd q) :=
    of_word _ 0x34 rfl (fMaj_rWord _ _ _ _ _) (by decide)
theorem launch (gd ga : Reg) : Statement (.launch gd ga) := of_word _ 0x35 rfl (fMaj_rWord _ _ _ _ _) (by decide)
theorem rcreate (gd ga : Reg) : Statement (.rcreate gd ga) := of_word _ 0x35 rfl (fMaj_rWord _ _ _ _ _) (by decide)
theorem rbudget (gd ga gb : Reg) : Statement (.rbudget gd ga gb) :=
    of_word _ 0x35 rfl (fMaj_rWord _ _ _ _ _) (by decide)
theorem resideReq (gd ga gb : Reg) : Statement (.resideReq gd ga gb) :=
    of_word _ 0x35 rfl (fMaj_rWord _ _ _ _ _) (by decide)
theorem resideRel (gd ga gb : Reg) : Statement (.resideRel gd ga gb) :=
    of_word _ 0x35 rfl (fMaj_rWord _ _ _ _ _) (by decide)
theorem resideQry (gd ga gb : Reg) : Statement (.resideQry gd ga gb) :=
    of_word _ 0x35 rfl (fMaj_rWord _ _ _ _ _) (by decide)
theorem atTime (gd ga gb : Reg) : Statement (.atTime gd ga gb) :=
    of_word _ 0x35 rfl (fMaj_rWord _ _ _ _ _) (by decide)
theorem waitt (gd ga : Reg) : Statement (.waitt gd ga) := of_word _ 0x35 rfl (fMaj_rWord _ _ _ _ _) (by decide)
theorem gang (gd ga : Reg) : Statement (.gang gd ga) := of_word _ 0x35 rfl (fMaj_rWord _ _ _ _ _) (by decide)
theorem rdone (gd ga : Reg) : Statement (.rdone gd ga) := of_word _ 0x35 rfl (fMaj_rWord _ _ _ _ _) (by decide)
theorem crr (gd : Reg) (cr : BitVec 6) : Statement (.crr gd cr) :=
    of_word _ 0x36 rfl (fMaj_rWord _ _ _ _ _) (by decide)
theorem crw (ga : Reg) (cr : BitVec 6) : Statement (.crw ga cr) :=
    of_word _ 0x36 rfl (fMaj_rWord _ _ _ _ _) (by decide)
theorem crs (gd ga : Reg) (cr : BitVec 6) : Statement (.crs gd ga cr) :=
    of_word _ 0x36 rfl (fMaj_rWord _ _ _ _ _) (by decide)
theorem crc (gd ga : Reg) (cr : BitVec 6) : Statement (.crc gd ga cr) :=
    of_word _ 0x36 rfl (fMaj_rWord _ _ _ _ _) (by decide)
theorem trap (ga : Reg) (cc : BitVec 5) : Statement (.trap ga cc) :=
    of_word _ 0x36 rfl (fMaj_rWord _ _ _ _ _) (by decide)
theorem eretSelf : Statement .eretSelf := of_word _ 0x36 rfl (fMaj_rWord _ _ _ _ _) (by decide)
theorem eretResume (gd ga gb : Reg) : Statement (.eretResume gd ga gb) :=
    of_word _ 0x36 rfl (fMaj_rWord _ _ _ _ _) (by decide)
theorem eretEnd (gd ga : Reg) : Statement (.eretEnd gd ga) := of_word _ 0x36 rfl (fMaj_rWord _ _ _ _ _) (by decide)
theorem tqpop (gd ga : Reg) : Statement (.tqpop gd ga) := of_word _ 0x36 rfl (fMaj_rWord _ _ _ _ _) (by decide)
theorem tlbinvRange (gd ga gb : Reg) : Statement (.tlbinvRange gd ga gb) :=
    of_word _ 0x36 rfl (fMaj_rWord _ _ _ _ _) (by decide)
theorem tlbinvAll (gd : Reg) : Statement (.tlbinvAll gd) := of_word _ 0x36 rfl (fMaj_rWord _ _ _ _ _) (by decide)
theorem tlbinvReplay (gd ga gb : Reg) : Statement (.tlbinvReplay gd ga gb) :=
    of_word _ 0x36 rfl (fMaj_rWord _ _ _ _ _) (by decide)
theorem nop : Statement .nop := of_word _ 0x36 rfl (fMaj_rWord _ _ _ _ _) (by decide)
theorem enum (gd ga : Reg) : Statement (.enum gd ga) := of_word _ 0x36 rfl (fMaj_rWord _ _ _ _ _) (by decide)
theorem bkpt (code : BitVec 6) : Statement (.bkpt code) := of_word _ 0x37 rfl (fMaj_rWord _ _ _ _ _) (by decide)
theorem watch (ga gb : Reg) (kind : BitVec 2) (wp : Bool) : Statement (.watch ga gb kind wp) :=
    of_word _ 0x37 rfl (fMaj_rWord _ _ _ _ _) (by decide)
theorem xtrigHalt (gd ga : Reg) : Statement (.xtrigHalt gd ga) :=
    of_word _ 0x37 rfl (fMaj_rWord _ _ _ _ _) (by decide)
theorem xtrigResume (gd ga : Reg) : Statement (.xtrigResume gd ga) :=
    of_word _ 0x37 rfl (fMaj_rWord _ _ _ _ _) (by decide)
theorem xtrigQuery (gd ga : Reg) : Statement (.xtrigQuery gd ga) :=
    of_word _ 0x37 rfl (fMaj_rWord _ _ _ _ _) (by decide)
theorem tracewStart (gd ga gb : Reg) : Statement (.tracewStart gd ga gb) :=
    of_word _ 0x37 rfl (fMaj_rWord _ _ _ _ _) (by decide)
theorem tracewStop (gd ga gb : Reg) : Statement (.tracewStop gd ga gb) :=
    of_word _ 0x37 rfl (fMaj_rWord _ _ _ _ _) (by decide)
theorem tracewDump (gd ga gb : Reg) : Statement (.tracewDump gd ga gb) :=
    of_word _ 0x37 rfl (fMaj_rWord _ _ _ _ _) (by decide)
theorem flash (gd ga gb : Reg) : Statement (.flash gd ga gb) := of_word _ 0x37 rfl (fMaj_rWord _ _ _ _ _) (by decide)
theorem hsift (gd ga gb : Reg) : Statement (.hsift gd ga gb) := of_word _ 0x38 rfl (fMaj_rWord _ _ _ _ _) (by decide)
theorem htake (gd ga : Reg) : Statement (.htake gd ga) := of_word _ 0x38 rfl (fMaj_rWord _ _ _ _ _) (by decide)
theorem kset (ga : Reg) (kc : BitVec 5) : Statement (.kset ga kc) :=
    of_word _ 0x38 rfl (fMaj_rWord _ _ _ _ _) (by decide)
theorem kwait (gd ga : Reg) (kc : BitVec 5) : Statement (.kwait gd ga kc) :=
    of_word _ 0x38 rfl (fMaj_rWord _ _ _ _ _) (by decide)
theorem kread (gd : Reg) (kc : BitVec 5) : Statement (.kread gd kc) :=
    of_word _ 0x38 rfl (fMaj_rWord _ _ _ _ _) (by decide)
theorem mma (t : TileWords) : Statement (.mma t) := of_tile _ _ _ _ rfl rfl
theorem mmar (t : TileWords) : Statement (.mmar t) := of_tile _ _ _ _ rfl rfl
theorem rot (t : TileWords) : Statement (.rot t) := of_tile _ _ _ _ rfl rfl
theorem zacc (t : TileWords) : Statement (.zacc t) := of_tile _ _ _ _ rfl rfl
theorem tadd (t : TileWords) : Statement (.tadd t) := of_tile _ _ _ _ rfl rfl
theorem tsub (t : TileWords) : Statement (.tsub t) := of_tile _ _ _ _ rfl rfl
theorem tmul (t : TileWords) : Statement (.tmul t) := of_tile _ _ _ _ rfl rfl
theorem tfma (t : TileWords) : Statement (.tfma t) := of_tile _ _ _ _ rfl rfl
theorem tmax (t : TileWords) : Statement (.tmax t) := of_tile _ _ _ _ rfl rfl
theorem tmin (t : TileWords) : Statement (.tmin t) := of_tile _ _ _ _ rfl rfl
theorem texp (t : TileWords) : Statement (.texp t) := of_tile _ _ _ _ rfl rfl
theorem trcp (t : TileWords) : Statement (.trcp t) := of_tile _ _ _ _ rfl rfl
theorem trsq (t : TileWords) : Statement (.trsq t) := of_tile _ _ _ _ rfl rfl
theorem tsilu (t : TileWords) : Statement (.tsilu t) := of_tile _ _ _ _ rfl rfl
theorem tgelu (t : TileWords) : Statement (.tgelu t) := of_tile _ _ _ _ rfl rfl
theorem tcmp (t : TileWords) : Statement (.tcmp t) := of_tile _ _ _ _ rfl rfl
theorem tsel (t : TileWords) : Statement (.tsel t) := of_tile _ _ _ _ rfl rfl
theorem ttrn (t : TileWords) : Statement (.ttrn t) := of_tile _ _ _ _ rfl rfl
theorem tred (t : TileWords) : Statement (.tred t) := of_tile _ _ _ _ rfl rfl
theorem tbcast (t : TileWords) : Statement (.tbcast t) := of_tile _ _ _ _ rfl rfl
theorem tfill (t : TileWords) : Statement (.tfill t) := of_tile _ _ _ _ rfl rfl
theorem combine (t : TileWords) : Statement (.combine t) := of_tile _ _ _ _ rfl rfl
theorem ldtab (t : TileWords) : Statement (.ldtab t) := of_tile _ _ _ _ rfl rfl
theorem cvt (t : TileWords) : Statement (.cvt t) := of_tile _ _ _ _ rfl rfl
theorem qnt (t : TileWords) : Statement (.qnt t) := of_tile _ _ _ _ rfl rfl
theorem dqt (t : TileWords) : Statement (.dqt t) := of_tile _ _ _ _ rfl rfl
theorem amax (t : TileWords) : Statement (.amax t) := of_tile _ _ _ _ rfl rfl
theorem scl (t : TileWords) : Statement (.scl t) := of_tile _ _ _ _ rfl rfl
theorem copy (t : TileWords) : Statement (.copy t) := of_tile _ _ _ _ rfl rfl
theorem gather (t : TileWords) : Statement (.gather t) := of_tile _ _ _ _ rfl rfl
theorem scatter (t : TileWords) : Statement (.scatter t) := of_tile _ _ _ _ rfl rfl
theorem coll (t : TileWords) : Statement (.coll t) := of_tile _ _ _ _ rfl rfl
theorem illegalEncoding (word : W32) (idx : BitVec 3) : Statement (.illegalEncoding word idx) := of_zero _ rfl rfl
theorem tileDispatch (e : Engine) (unit : Nat) : Statement (.tileDispatch e unit) := of_zero _ rfl rfl
theorem tileCompletion (e : Engine) (unit : Nat) : Statement (.tileCompletion e unit) := of_zero _ rfl rfl
theorem completionMessagePlace (core : Nat) : Statement (.completionMessagePlace core) := of_zero _ rfl rfl
theorem ringHandoff (core : Nat) : Statement (.ringHandoff core) := of_zero _ rfl rfl
theorem fetchLineFill (slot : Nat) : Statement (.fetchLineFill slot) := of_zero _ rfl rfl
theorem streamStallResume (slot : Nat) : Statement (.streamStallResume slot) := of_zero _ rfl rfl
theorem storeDrain (core i : Nat) : Statement (.storeDrain core i) := of_zero _ rfl rfl
theorem remoteStoreAccept (slot : Nat) (ans : Answer) : Statement (.remoteStoreAccept slot ans) := of_zero _ rfl rfl
theorem homeLoadRequest (i : Nat) : Statement (.homeLoadRequest i) := of_zero _ rfl rfl
theorem loadReply (src : Src RemoteData) : Statement (.loadReply src) := of_zero _ rfl rfl
theorem leaseExpiry (core i : Nat) : Statement (.leaseExpiry core i) := of_zero _ rfl rfl
theorem homeEviction (line : Nat) : Statement (.homeEviction line) := of_zero _ rfl rfl
theorem atomicAtHome (i : Nat) : Statement (.atomicAtHome i) := of_zero _ rfl rfl
theorem updateEntryArrival (core i : Nat) : Statement (.updateEntryArrival core i) := of_zero _ rfl rfl
theorem rupdCountAdd (i : Nat) : Statement (.rupdCountAdd i) := of_zero _ rfl rfl
theorem lrwResend (slot : Nat) : Statement (.lrwResend slot) := of_zero _ rfl rfl
theorem reservationTimeout (i : Nat) : Statement (.reservationTimeout i) := of_zero _ rfl rfl
theorem bardNotificationArrival (src : Src BardNote) : Statement (.bardNotificationArrival src) := of_zero _ rfl rfl
theorem bardResend (i : Nat) : Statement (.bardResend i) := of_zero _ rfl rfl
theorem sleepWake (slot : Nat) (ans : Option Answer) : Statement (.sleepWake slot ans) := of_zero _ rfl rfl
theorem waitlimExpiry (slot : Nat) : Statement (.waitlimExpiry slot) := of_zero _ rfl rfl
theorem withdrawalResult (slot : Nat) : Statement (.withdrawalResult slot) := of_zero _ rfl rfl
theorem messageArrival (src : Src InboxMsg) : Statement (.messageArrival src) := of_zero _ rfl rfl
theorem taskStart (src : Src TaskMsg) : Statement (.taskStart src) := of_zero _ rfl rfl
theorem taskBudgetRetest (i : Nat) : Statement (.taskBudgetRetest i) := of_zero _ rfl rfl
theorem spawnRequestArrival (i : Nat) : Statement (.spawnRequestArrival i) := of_zero _ rfl rfl
theorem spawnAnswerArrival (i : Nat) : Statement (.spawnAnswerArrival i) := of_zero _ rfl rfl
theorem migrateTransfer (i : Nat) : Statement (.migrateTransfer i) := of_zero _ rfl rfl
theorem yieldTimeout (slot : Nat) : Statement (.yieldTimeout slot) := of_zero _ rfl rfl
theorem coreHot (core : Nat) (hot : Bool) : Statement (.coreHot core hot) := of_zero _ rfl rfl
theorem thermalDisplacement (core : Nat) : Statement (.thermalDisplacement core) := of_zero _ rfl rfl
theorem sparkTake (core : Nat) : Statement (.sparkTake core) := of_zero _ rfl rfl
theorem sparkDrop (cluster i : Nat) : Statement (.sparkDrop cluster i) := of_zero _ rfl rfl
theorem evalWake (i : Nat) : Statement (.evalWake i) := of_zero _ rfl rfl
theorem frameGrant (ev : Nat) : Statement (.frameGrant ev) := of_zero _ rfl rfl
theorem evalCommandComplete (ev : Nat) : Statement (.evalCommandComplete ev) := of_zero _ rfl rfl
theorem referenceDrop (i : Nat) : Statement (.referenceDrop i) := of_zero _ rfl rfl
theorem snapAnnounce (seq home : Nat) : Statement (.snapAnnounce seq home) := of_zero _ rfl rfl
theorem snapshotEndAnnounce (seq home : Nat) : Statement (.snapshotEndAnnounce seq home) := of_zero _ rfl rfl
theorem advertisementArrival (src : Src Advert) : Statement (.advertisementArrival src) := of_zero _ rfl rfl
theorem shelfExpiry (i : Nat) : Statement (.shelfExpiry i) := of_zero _ rfl rfl
theorem cupboardExpiry (i : Nat) : Statement (.cupboardExpiry i) := of_zero _ rfl rfl
theorem blockPostArrival (src : Src Post) : Statement (.blockPostArrival src) := of_zero _ rfl rfl
theorem shufResend (slot : Nat) : Statement (.shufResend slot) := of_zero _ rfl rfl
theorem codingWindowExpiry : Statement .codingWindowExpiry := of_zero _ rfl rfl
theorem retransmitRelease (i : Nat) : Statement (.retransmitRelease i) := of_zero _ rfl rfl
theorem packetReceive (src : Src Packet) : Statement (.packetReceive src) := of_zero _ rfl rfl
theorem nackArrival (src : Src Nack) : Statement (.nackArrival src) := of_zero _ rfl rfl
theorem lossNotice (src : Src Nack) : Statement (.lossNotice src) := of_zero _ rfl rfl
theorem cupboardEviction (i : Nat) : Statement (.cupboardEviction i) := of_zero _ rfl rfl
theorem dispatchArrival (src : Src DispRow) : Statement (.dispatchArrival src) := of_zero _ rfl rfl
theorem placeRow (i : Nat) : Statement (.placeRow i) := of_zero _ rfl rfl
theorem collTimeout (i : Nat) : Statement (.collTimeout i) := of_zero _ rfl rfl
theorem launchPlacement (i : Nat) : Statement (.launchPlacement i) := of_zero _ rfl rfl
theorem residencyGrant (region entry : Nat) : Statement (.residencyGrant region entry) := of_zero _ rfl rfl
theorem residencyRelease (region entry : Nat) : Statement (.residencyRelease region entry) := of_zero _ rfl rfl
theorem alarm (core i : Nat) : Statement (.alarm core i) := of_zero _ rfl rfl
theorem waittWake (slot : Nat) : Statement (.waittWake slot) := of_zero _ rfl rfl
theorem gangSwitchOut (part : Nat) : Statement (.gangSwitchOut part) := of_zero _ rfl rfl
theorem gangSwitchIn (part : Nat) : Statement (.gangSwitchIn part) := of_zero _ rfl rfl
theorem trapRecordAppend (i : Nat) : Statement (.trapRecordAppend i) := of_zero _ rfl rfl
theorem heldRecordAppend (i : Nat) : Statement (.heldRecordAppend i) := of_zero _ rfl rfl
theorem remoteAccessArrival (a : RemoteAccess) : Statement (.remoteAccessArrival a) := of_zero _ rfl rfl
theorem xlateReplayTimeout (i : Nat) : Statement (.xlateReplayTimeout i) := of_zero _ rfl rfl
theorem sharerInvalidate (reader line : Nat) : Statement (.sharerInvalidate reader line) := of_zero _ rfl rfl
theorem linePoison (line : Nat) : Statement (.linePoison line) := of_zero _ rfl rfl
theorem builtInSelfCheck (core : Nat) (faulty : Bool) : Statement (.builtInSelfCheck core faulty) := of_zero _ rfl rfl
theorem coreFail (core : Nat) : Statement (.coreFail core) := of_zero _ rfl rfl
theorem clockFault (die : Nat) : Statement (.clockFault die) := of_zero _ rfl rfl
theorem domainJoin (dev : BitVec 9) (time : Word) : Statement (.domainJoin dev time) := of_zero _ rfl rfl
theorem powerOn : Statement .powerOn := of_zero _ rfl rfl
theorem linkWidthChange (link : Nat) (width : BitVec 2) : Statement (.linkWidthChange link width) := of_zero _ rfl rfl
theorem linkLoss (link : Nat) : Statement (.linkLoss link) := of_zero _ rfl rfl
theorem moduleReset (linksRun : Bool) : Statement (.moduleReset linksRun) := of_zero _ rfl rfl
theorem moduleRemoval (dev : BitVec 9) (joins : Bool) : Statement (.moduleRemoval dev joins) := of_zero _ rfl rfl
theorem hostMemWrite (addr : Nat) (bytes : List Byte) : Statement (.hostMemWrite addr bytes) := of_zero _ rfl rfl
theorem hostLaunch (cmd : List Byte) : Statement (.hostLaunch cmd) := of_zero _ rfl rfl
theorem allow (cmd : List Byte) : Statement (.allow cmd) := of_zero _ rfl rfl
theorem revoke (cmd : List Byte) : Statement (.revoke cmd) := of_zero _ rfl rfl
theorem endRegion (cmd : List Byte) : Statement (.endRegion cmd) := of_zero _ rfl rfl
theorem ackstop (cmd : List Byte) : Statement (.ackstop cmd) := of_zero _ rfl rfl
theorem fwload (cmd : List Byte) : Statement (.fwload cmd) := of_zero _ rfl rfl
theorem markCmd (cmd : List Byte) : Statement (.markCmd cmd) := of_zero _ rfl rfl
theorem discardedWrite : Statement .discardedWrite := of_zero _ rfl rfl
theorem discClear : Statement .discClear := of_zero _ rfl rfl
theorem policyActivate (p : Policy) : Statement (.policyActivate p) := of_zero _ rfl rfl
theorem hgdataWrite (slot : Nat) : Statement (.hgdataWrite slot) := of_zero _ rfl rfl
theorem rafWrite (slot : Nat) : Statement (.rafWrite slot) := of_zero _ rfl rfl
theorem tqnoteWrite (slot : Nat) : Statement (.tqnoteWrite slot) := of_zero _ rfl rfl
theorem tqstatWrite (slot : Nat) : Statement (.tqstatWrite slot) := of_zero _ rfl rfl
theorem traceStop (cluster : Nat) : Statement (.traceStop cluster) := of_zero _ rfl rfl
theorem flashPulse : Statement .flashPulse := of_zero _ rfl rfl
theorem clockFaultClear (die : Nat) : Statement (.clockFaultClear die) := of_zero _ rfl rfl
theorem matrixBlockEnd (core : Nat) : Statement (.matrixBlockEnd core) := of_zero _ rfl rfl
theorem partialResultArrival (p : Partial) : Statement (.partialResultArrival p) := of_zero _ rfl rfl
theorem uncorrectableError (u : ErrorSite) : Statement (.uncorrectableError u) := of_zero _ rfl rfl
theorem otherOpCommand (cmd : List Byte) : Statement (.otherOpCommand cmd) := of_zero _ rfl rfl

end Sys2Proof.Laws.Lead
end

