-- ==== Sys2Proof/Tests/Slice0.lean ====
section
/-! SUPPORT. Tests: ill-formed terms that WellFormed refuses, words written out from the spec's encodings, single steps
on small states with results taken from the spec, and for each statement a state and operands that meet its hypotheses. -/

open Sys2Proof Sys2Proof.Machine

namespace Sys2Proof.Tests

set_option maxRecDepth 20000

/-! An ill-formed term for each check of WellFormed. -/

theorem test_ldu_size_refused : WellFormed (.ldu 1 2 3 0) = false := by decide
theorem test_ldq_odd_pair_refused : WellFormed (.ldq 3 2 0 0) = false := by decide
theorem test_ldq_g0_pair_refused : WellFormed (.ldq 0 2 0 0) = false := by decide
theorem test_ldq_flags_refused : WellFormed (.ldq 2 3 3 0) = false := by decide
theorem test_stq_odd_pair_refused : WellFormed (.stq 31 2 0 0) = false := by decide
theorem test_stq_flags_refused : WellFormed (.stq 2 3 3 0) = false := by decide
theorem test_rupd_op_refused : WellFormed (.rupd 1 2 3 2 6) = false := by decide

/-- The words of a tile command from its first word. -/
def tile (w0 : W32) : TileWords := ⟨w0, 0, 0, 0, 0, 0, 0, 0⟩

/-- The constructors of the tile commands. -/
def tileCtors : List (TileWords → Instr) :=
  [.mma, .mmar, .rot, .zacc, .tadd, .tsub, .tmul, .tfma, .tmax, .tmin, .texp, .trcp, .trsq, .tsilu, .tgelu, .tcmp, .tsel,
    .ttrn, .tred, .tbcast, .tfill, .combine, .ldtab, .cvt, .qnt, .dqt, .amax, .scl, .copy, .gather, .scatter, .coll]

/-- A first word with the major of a scalar instruction, and one of an engine that is reserved. -/
theorem test_tile_ops_refused : ∀ c ∈ tileCtors,
    WellFormed (c (tile 0x04000000#32)) = false ∧ WellFormed (c (tile 0xFD400000#32)) = false := by decide

/-- A command of this many bytes with this op. -/
def command (op : Byte) (n : Nat) : List Byte := op :: List.replicate (n - 1) 0

theorem test_commands_refused : ∀ c ∈ ([(1, .hostLaunch), (2, .allow), (3, .revoke), (4, .endRegion), (5, .ackstop),
      (6, .fwload), (7, .markCmd)] : List (Byte × (List Byte → Instr))),
    WellFormed (c.2 (command c.1 63)) = false ∧ WellFormed (c.2 (command (c.1 + 1) 64)) = false ∧
      WellFormed (c.2 (command c.1 64)) = true := by decide
theorem test_other_op_listed_refused : WellFormed (.otherOpCommand (command 7 64)) = false := by decide
theorem test_other_op_short_refused : WellFormed (.otherOpCommand (command 9 63)) = false := by decide

/-! Words of the spec and words written out field by field from its encodings. -/

/-- The words that the encoding sections give beside their shorthands (R34, R129, R163, R168, R170, R173, R177, R350, R358,
R364, R369). -/
def specWords : List (W32 × Instr) :=
  [(0x04642800, .add 3 4 5), (0xD8000200, .nop), (0xD8E0000B, .crr 7 0x0B), (0xD805004C, .crw 5 0x0C),
   (0xD8E50098, .crs 7 5 0x18), (0xD8E500D8, .crc 7 5 0x18), (0xD8000140, .eretSelf), (0xD8E53141, .eretResume 7 5 6),
   (0xD8E50142, .eretEnd 7 5), (0xD8050104, .trap 5 4), (0xD8E50180, .tqpop 7 5), (0xD0E00080, .closeb 7),
   (0xD0E000C2, .waitb 7 2), (0x80E6A7FE, .ldu 7 6 1 0x7FE), (0x84C56808, .stA8 6 5 8), (0xB1450020, .ldq 10 5 0 32),
   (0xB1453000, .stq 10 5 2 0), (0xA4E50000, .ldfe 7 5), (0xA4E50040, .ldff 7 5), (0xA4053080, .stef 5 6),
   (0xA40500C0, .sete 5), (0xA8E53010, .arrive 7 5 6 2), (0xA8053050, .waitph 5 6 2),
   (0x90053080, .prune 5 6), (0x94000203, .fenceFull 2), (0x94000401, .fenceAcq 4),
   (0x9CE53458, .cas 7 5 6 4 1 true true), (0xA8E530A0, .bard 7 5 6 4)]

theorem test_spec_words : ∀ p ∈ specWords, (match decodeWords [p.1] with
    | .ok i => i == p.2
    | .error _ => false) = true := by decide

/-- One word of each family, bit by bit. -/
def familyWords : List (W32 × Instr) :=
  [(0b000001_00001_00010_00011_01111_000000, .sltu 1 2 3), (0b000001_00001_00010_00000_10010_000000, .clz 1 2),
   (0b000101_00001_00010_1000000000000001, .xori 1 2 0x8001), (0b001001_00001_000000000000000000010, .adpc 1 2),
   (0b001010_00001_00010_00011_00011_000000, .div 1 2 3), (0b001011_00001_00010_00011_00011_000000, .ffma 1 2 3),
   (0b010101_00001_00010_0000000000000100, .bgeu 1 2 4), (0b010111_00000000000000000000000101, .call 5),
   (0b011000_00001_00010_00000_00000000000, .jr 1 2), (0b100010_00001_00010_011_10_00000000100, .ldacq 1 2 3 2 4),
   (0b100011_00001_00010_101_11_00000001000, .strel 1 2 5 3 8), (0b100100_00000_00010_00000_00011_000000, .pref 2),
   (0b100101_00000_00000_00000_100_000000_11, .fenceFull 4),
   (0b100110_00001_00010_00011_01000_010_11_1, .amoSwap 1 2 3 2 3 true),
   (0b100111_00001_00010_00011_010_10_0_1_1_000, .cas 1 2 3 2 2 true true),
   (0b101000_00001_00010_00011_00001_100_00_0, .sch 1 2 3 4 false),
   (0b101011_00001_00010_00011_00000_010_000, .waitcnt 1 2 3 2), (0b110000_00001_00010_00000_00100_000000, .migrate 1 2),
   (0b110001_00001_00010_00000_00001_000000, .force 1 2), (0b110010_00001_00010_00000_00010_000000, .reject 1 2),
   (0b110011_00001_00010_00011_00011_000000, .disp 1 2 3), (0b110100_00000_00010_00000_00000_000_101, .bind 2 5),
   (0b110101_00001_00010_00011_00100_000000, .atTime 1 2 3), (0b110110_00001_00010_00011_00111_0000_10, .tlbinvReplay 1 2 3),
   (0b110111_00000_00010_00011_00001_000_11_1, .watch 2 3 3 true), (0b111000_00001_00010_00011_00000_000000, .hsift 1 2 3)]

theorem test_family_words : ∀ p ∈ familyWords, (match decodeWords [p.1] with
    | .ok i => i == p.2
    | .error _ => false) = true := by decide

/-- One tile command of each engine by its first word (R40, R41): engine in bits 25:22, op in bits 21:14. -/
def tileWords : List (W32 × (TileWords → Instr)) :=
  [(0b111111_0000_00000001_0_0_000000000000, .mmar), (0b111111_0001_00001110_0_0_000000000000, .tred),
   (0b111111_0010_00000011_0_1_000000000000, .dqt), (0b111111_0011_00000010_0_0_000000000000, .scatter),
   (0b111111_0100_00000000_1_0_000000000000, .coll)]

theorem test_tile_words : ∀ p ∈ tileWords, (match decodeWords [p.1, 1, 2, 3, 4, 5, 6, 7] with
    | .ok i => i == p.2 ⟨p.1, 1, 2, 3, 4, 5, 6, 7⟩
    | .error _ => false) = true := by decide

theorem test_reserved_fn_bit_refused : (match decodeWords [0x04642801] with
    | .ok _ => true
    | .error _ => false) = false := by decide
theorem test_pair_odd_refused : (match decodeWords [0b101100_00011_00010_000_00_00000000000] with
    | .ok _ => true
    | .error _ => false) = false := by decide
theorem test_ldu_size_3_refused : (match decodeWords [0b100000_00001_00010_1_11_00_00000000000] with
    | .ok _ => true
    | .error _ => false) = false := by decide

/-! Single steps on small states. -/

/-- A protection window of the root over the first 2^19 units of a space, with every permission (R112). -/
def window (space : BitVec 2) : Word := 1#1 ++ space ++ 7#3 ++ 0#14 ++ 0#19 ++ 0x7FFFF#19 ++ 0#6

/-- A slot of the root with a few registers. -/
def slotWith (g1 g2 g3 : Word) : Slot := { Slot.idle with
  g := (((Slot.idle.g.set 1 g1).set 2 g2).set 3 g3), pc := 0xFFFF000000000100, status := .ready }

/-- The core of the tests: windows over its TCM, its scratchpad and its die's shared SRAM. -/
def testCore : Core := { Core.init with pw := ((Core.init.pw.set 0 (window 0)).set 1 (window 1)).set 2 (window 2) }

/-- A ready root task in slot 0 of core 0 with g1, g2 and g3. -/
def at3 (g1 g2 g3 : Word) : State := { State.reset with time := 1000, slots := [(0, slotWith g1 g2 g3)], cores := [(0, testCore)] }

/-- Something that holds after an instruction. -/
def after (i : Instr) (s : State) (f : State → Bool) : Bool :=
  match exec i s with
  | .next t => f t
  | _ => false

/-- A register after an instruction, with the pc 4 further. -/
def gives (i : Instr) (s : State) (r : Reg) (v : Word) : Bool :=
  after i s (fun t => t.me.reg r == v && t.me.pc == s.me.pc + 4)

/-- R98: its example and its table of cases. -/
theorem test_div_example : gives (.div 1 2 3) (at3 0 (-7) 2) 1 (-3) = true := by decide
theorem test_div_overflow : gives (.div 1 2 3) (at3 0 0x8000000000000000 (-1)) 1 0x8000000000000000 = true := by decide
theorem test_rem_example : gives (.rem 1 2 3) (at3 0 (-7) 2) 1 (-1) = true := by decide
theorem test_rem_overflow : gives (.rem 1 2 3) (at3 0 0x8000000000000000 (-1)) 1 0 = true := by decide
theorem test_divu_by_zero : gives (.divu 1 2 3) (at3 0 7 0) 1 0xFFFFFFFFFFFFFFFF = true := by decide
theorem test_remu_by_zero : gives (.remu 1 2 3) (at3 0 7 0) 1 7 = true := by decide
theorem test_mulh_signed : gives (.mulh 1 2 3) (at3 0 (-1) 2) 1 (-1) = true := by decide
theorem test_mulhu_unsigned : gives (.mulhu 1 2 3) (at3 0 (-1) 2) 1 1 = true := by decide

/-- R95: a sum that wraps, a source that is the destination, a rotation by more than the width, SEL of 0. -/
theorem test_add_wraps : gives (.add 2 2 3) (at3 0 0xFFFFFFFFFFFFFFFF 2) 2 1 = true := by decide
theorem test_add_g0 : gives (.add 0 2 3) (at3 0 5 6) 0 0 = true := by decide
theorem test_sub_order : gives (.sub 1 2 3) (at3 0 5 7) 1 (-2) = true := by decide
theorem test_rol_by_68 : gives (.rol 1 2 3) (at3 0 0x8000000000000001 68) 1 0x18 = true := by decide
theorem test_sra_negative : gives (.sra 1 2 3) (at3 0 0x8000000000000000 63) 1 (-1) = true := by decide
theorem test_slt_signed : gives (.slt 1 2 3) (at3 0 (-1) 0) 1 1 = true := by decide
theorem test_sltu_unsigned : gives (.sltu 1 2 3) (at3 0 (-1) 0) 1 0 = true := by decide
theorem test_sel_zero_keeps : gives (.sel 1 2 3) (at3 9 0 6) 1 9 = true := by decide
theorem test_clz_zero : gives (.clz 1 2) (at3 0 0 0) 1 64 = true := by decide
theorem test_bswap : gives (.bswap 1 2) (at3 0 0x0102030405060708 0) 1 0x0807060504030201 = true := by decide
theorem test_sextw : gives (.sextw 1 2) (at3 0 0x80000000 0) 1 0xFFFFFFFF80000000 = true := by decide

/-- R96: ANDI takes its immediate zero-extended, SLTIU its 15 bits sign-extended. -/
theorem test_andi_example : gives (.andi 1 2 0xFFFF) (at3 0 0x123456789 0) 1 0x6789 = true := by decide
theorem test_sltiu_sign_extended : gives (.sltiu 1 2 0x7FFF) (at3 0 (-2) 0) 1 1 = true := by decide
theorem test_lui_negative : gives (.lui 1 0x100000) (at3 0 0 0) 1 0xFFFFFFFF80000000 = true := by decide

/-- R93, R100: FP32 results. -/
theorem test_fadd_upper_bits : gives (.fadd 1 2 3) (at3 (-1) 0xFFFFFFFF3F800000 0x40000000) 1 0x40400000 = true := by decide
theorem test_fmin_zeros : gives (.fmin 1 2 3) (at3 0 0 0x80000000) 1 0x80000000 = true := by decide
theorem test_fmax_two_nans : gives (.fmax 1 2 3) (at3 0 0x7F800001 0xFFC00000) 1 0x7FC00000 = true := by decide
theorem test_ffma_once : gives (.ffma 1 2 3) (at3 0x3F800000 0x40000000 0x40400000) 1 0x40E00000 = true := by decide
theorem test_fcmp_unordered : gives (.fcmp 1 2 3 2) (at3 7 0x7FC00000 0) 1 0 = true := by decide
theorem test_fcvtfi_ties_even : gives (.fcvtfi 1 2 false) (at3 0 0x40200000 0) 1 2 = true := by decide

/-- R102 to R104. -/
theorem test_branch_back : after (.blt 2 3 0xFFFF) (at3 0 (-1) 0) (fun t => t.me.pc == 0xFFFF0000000000FC) = true := by decide
theorem test_call_links : after (.call 4) (at3 0 0 0) (fun t => t.me.pc == 0xFFFF000000000110 &&
    t.me.reg 31 == 0xFFFF000000000104) = true := by decide
theorem test_jr_same_register : after (.jr 2 2) (at3 0 0xFFFF000000000200 0) (fun t => t.me.pc == 0xFFFF000000000200 &&
    t.me.reg 2 == 0xFFFF000000000104) = true := by decide
theorem test_jr_misaligned : after (.jr 1 2) (at3 5 0xFFFF000000000202 0) (fun t => t.me.reg 1 == 5 &&
    t.me.cause == 0x03 && t.me.tval == 0xFFFF000000000202 && t.me.epc == 0xFFFF000000000100) = true := by decide

/-- R124 to R126: sign and zero extension, byte order, the last byte of the TCM. -/
theorem test_st_ld_sign : after (.st 3 2 0 0) (at3 0 0xFFFF00000003FFFF 0x1F0) (fun t =>
    gives (.ld 1 2 0 0) t 1 0xFFFFFFFFFFFFFFF0 && gives (.ldu 1 2 0 0) t 1 0xF0) = true := by decide
theorem test_store_little_endian : after (.st 3 2 3 8) (at3 0 0xFFFF000000000000 0x0102030405060708) (fun t =>
    byteAt t.mem (tcmKey 0 8) == 8 && byteAt t.mem (tcmKey 0 15) == 1 && byteAt t.mem (tcmKey 0 16) == 0) = true := by decide
theorem test_stq_pair : after (.stq 2 1 0 0) (at3 0xFFFF000000000010 5 6) (fun t =>
    byteAt t.mem (tcmKey 0 16) == 5 && byteAt t.mem (tcmKey 0 24) == 6) = true := by decide
theorem test_load_past_tcm : after (.ld 1 2 0 0) (at3 0 0xFFFF000000040000 0) (fun t => t.me.cause == 0x04 &&
    t.me.status == .parked none && t.trapsInFlight.length == 1) = true := by decide

/-- R173: the steps of its example. -/
theorem test_arrive_example :
    (arriveStep 0x0000000300000000 0).map Prod.fst = some 0x0000000300000001 ∧
    (arriveStep 0x0000000300000001 0).map Prod.fst = some 0x0000000300000002 ∧
    (arriveStep 0x0000000300000002 1).map Prod.fst = some 0x0000000300010002 ∧
    arriveStep 0x0000000300010002 2 = none ∧
    (arriveStep 0x0000000300010002 0).map Prod.fst = some 0x4000000300000001 := by decide

/-- R281: the steps of its example, entries worst first. -/
theorem test_heap_example :
    hsift ⟨0, 0x200, 2, []⟩ 0x000000033F000000 = (1, some [0x000000033F000000]) ∧
    hsift ⟨0, 0x201, 2, [0x000000033F000000]⟩ 0x000000073F400000 = (1, some [0x000000033F000000, 0x000000073F400000]) ∧
    hsift ⟨0, 0x202, 2, [0x000000033F000000, 0x000000073F400000]⟩ 0x000000013F000000 =
      (1, some [0x000000013F000000, 0x000000073F400000]) ∧
    hsift ⟨0, 0x202, 2, [0x000000013F000000, 0x000000073F400000]⟩ 0x000000053F000000 = (0, none) := by decide

/-- R386, R388: the latency entry of d0. -/
theorem test_enum_latency : gives (.enum 1 2) (at3 0 0x50000 0) 1 0x43213210 = true := by decide
/-- R350: CRS of FLAGS gives the old value and clears what it names. -/
theorem test_crs_flags : after (.crs 1 2 0x18) ((at3 0 1 0).modMe (fun sl => { sl with flags := 3 })) (fun t =>
    t.me.reg 1 == 3 && t.me.flags == 2) = true := by decide
/-- R376, R357: BKPT in a slot with a handler. -/
theorem test_bkpt_handled : after (.bkpt 37) ({ (at3 0 0 0) with
    regions := [(0, { Region.root with hmask := BitVec.allOnes 32 })] }.modMe (fun sl => { sl with tvec := 0xFFFF000000000800 }))
    (fun t => t.me.pc == 0xFFFF000000000800 && t.me.inh && t.me.cause == 0x12 && t.me.tval == 37 &&
      t.me.epc == 0xFFFF000000000100 && t.trapsInFlight.isEmpty) = true := by decide
/-- R349: TQPOP in a user slot. -/
theorem test_tqpop_user : after (.tqpop 7 5) ((at3 0 0 0).modMe (fun sl => { sl with region := 3 })) (fun t =>
    t.me.cause == 0x02 && t.me.tval == 0xD8E50180) = true := by decide
/-- R32, R105: a step fetches, decodes and executes. -/
theorem test_step_runs : (match step (State.reset.withFetchWord 32 0x04642800) with
    | .next t => t.me.pc == 0xFFFF000000000004 && t.me.status == .ready
    | _ => false) = true := by decide

/-! What meets the hypotheses of each statement: a state and operands, clause by clause. -/

/-- An effect completes with this value in this state. -/
def okTo {α : Type} [DecidableEq α] (e : Eff α) (a : α) (t : State) : Bool :=
  match e with
  | .ok b u => b == a && u == t
  | _ => false

/-- An effect completes with this value. -/
def okVal {α : Type} [DecidableEq α] (e : Eff α) (a : α) : Bool :=
  match e with
  | .ok b _ => b == a
  | _ => false

/-- An effect completes. -/
def isOk {α : Type} (e : Eff α) : Bool :=
  match e with
  | .ok _ _ => true
  | _ => false

theorem okTo_iff {α : Type} [DecidableEq α] (e : Eff α) (a : α) (t : State) : okTo e a t = true ↔ e = .ok a t := by
  cases e <;> simp [okTo]

theorem isOk_iff {α : Type} (e : Eff α) : isOk e = true ↔ ∃ a t, e = .ok a t := by
  cases e <;> simp [isOk]

/-- Both watchpoints are off. -/
def noWatch (s : State) : Bool := s.me.wp0.kind == 0 && s.me.wp1.kind == 0

theorem unwatched_of_noWatch (s : State) (h : noWatch s = true) : unwatched s := by
  simp only [noWatch, Bool.and_eq_true, beq_iff_eq] at h; exact .inr h

/-- The tests' state with a leaf over the first GiB of this device's memory, homed on core 0, in the walk caches, and a
residency lease of the root over it. -/
def glob (g1 g2 g3 : Word) : State :=
  let leaf : WalkEntry := ⟨0, 30, 0xF000000000000000, []⟩
  { at3 g1 g2 g3 with
    cores := [(0, { testCore with walks := [leaf] })]
    eastWalks := [leaf]
    westWalks := [leaf]
    regions := [(0, { Region.root with
      res := Region.root.res.set 0 ⟨0x7FC0000000000000, 0x40000000, 2⟩, hmask := BitVec.allOnes 32 })] }

/-- An address of the leaf's page. -/
def ga0 : Word := 0x7FC0000000001000

/-- What a step needs to run the word that a slot's task has before it. -/
theorem witness_StepRunsDecoded :
    let s := State.reset.withFetchWord 32 0x04642800
    let u := beginTurn { s with agenda := [] } 0
    s.agenda = [.turn 0] ∧ dueNow s = none ∧ takesTurn { s with agenda := [] } 0 = true ∧ u.me.push = none ∧ u.me.inst = none ∧
      (match fetchWords u u.cur with
        | .words ws v => (match decodeWords ws with
            | .ok i => i == .add 3 4 5 && (match exec i (issueNow v i) with
                | .next _ => true
                | _ => false)
            | .error _ => false)
        | _ => false) = true := by decide

/-- The same with an empty agenda: nothing else can move, and slot 0 of core 0 is next. -/
theorem witness_StepRunsDecoded_default :
    let s := { State.reset.withFetchWord 32 0x04642800 with agenda := [] }
    s.agenda = [] ∧ nextEvent s = none ∧ nextTurn s = some 0 := by decide

/-- A slot that has issued an instruction and waits, in a cycle in which it may issue, and one with its push alone left. -/
theorem witness_StepRunsDecoded_waiting :
    let s := { (at3 0 5 6).modMe (fun sl => { sl with inst := some (.add 1 2 3), status := .waiting .poll }) with agenda := [.turn 0] }
    let p := { (at3 0 5 6).modMe (fun sl => { sl with push := some (1, 7), status := .waiting .poll }) with agenda := [.turn 0] }
    dueNow s = none ∧ dueNow p = none ∧ takesTurn { s with agenda := [] } 0 = true ∧ takesTurn { p with agenda := [] } 0 = true ∧
    (beginTurn { s with agenda := [] } 0).me.push = none ∧ (beginTurn { s with agenda := [] } 0).me.inst = some (.add 1 2 3) ∧
    gives (.add 1 2 3) (issueNow (beginTurn { s with agenda := [] } 0) (.add 1 2 3)) 1 11 = true ∧
    (match conclude (beginTurn { p with agenda := [] } 0) (writeDone (beginTurn { p with agenda := [] } 0) 1 7) with
      | .next t => t.me.reg 1 == 7
      | _ => false) = true := by decide

/-- A load of n bytes from the start of the scratchpad by slot 0 of core 0, for which its banks are to serve. -/
def atBankLoad (i : Instr) (n : Nat) (st : Status) : State := { at3 0 0xFFFF000100000000 0 with
  slots := [(0, { slotWith 0 0xFFFF000100000000 0 with
    status := st, inst := some i, bank := some ⟨spadKey 0 0, n, none, wordsIn (spadKey 0 0) n, [], false⟩ })] }

/-- No turn is left and a bank serves the slot: the last word of a load, one of two words, and the last of a line of code. -/
theorem witness_StepRunsDecoded_bank :
    (let s := atBankLoad (.ld 1 2 3 0) 8 (.waiting .bank);
      let v := { serveBank s 0 0 with cur := 0 };
      nextTurn s = none ∧ nextEvent s = none ∧ dueNow s = none ∧ nextService s = some (0, 0) ∧ wordsDue v.me = [] ∧
      v.me.push = none ∧ v.me.inst = some (.ld 1 2 3 0) ∧
      after (.ld 1 2 3 0) (issueNow (v.modMe (fun sl => { sl with status := .ready })) (.ld 1 2 3 0))
        (fun t => t.me.pc == s.me.pc + 4) = true) ∧
    (let s := atBankLoad (.ldq 2 2 0 0) 16 (.waiting .bank);
      nextTurn s = none ∧ nextEvent s = none ∧ dueNow s = none ∧ nextService s = some (0, 0) ∧
      wordsDue ({ serveBank s 0 0 with cur := 0 } : State).me ≠ []) ∧
    (let s := (atBankLoad .nop 8 (.waiting (.fetch 0xFFFF000100000000))).modMe (fun sl => { sl with pc := 0xFFFF000100000000 });
      nextTurn s = none ∧ nextEvent s = none ∧ dueNow s = none ∧ nextService s = some (0, 0) ∧
      wordsDue ({ serveBank s 0 0 with cur := 0 } : State).me = []) := by decide

theorem witness_DecodeEncode : hasWords (.ldu 1 2 2 0x7FF) = true ∧ WellFormed (.ldu 1 2 2 0x7FF) = true ∧
    hasWords (.coll (tile 0xFD000000)) = true ∧ WellFormed (.coll (tile 0xFD000000)) = true := by decide

theorem witness_EncodeDecode : (match decodeWords [0x80E6A7FE] with
    | .ok i => i.tile?.isNone
    | .error _ => false) = true := by decide

/-- The first word of the TCM and its last, a tile command at the last 32 bytes of a line, and bad words. -/
theorem witness_FetchOrFault :
    inBanks (tcmKey 0 0) = false ∧ inBanks (spadKey 0 0) = true ∧
    (let s := (at3 0 0 0).modMe (fun sl => { sl with pc := 0xFFFF000100000000 });
      (match accessLoc s ⟨0, 0, 0⟩ s.me.pc 4 .fetch with
        | .ok (.bank k, t) => k == spadKey 0 0 && t == s
        | _ => false) = true) ∧
    (∀ off ∈ [0, 0x3FFFC],
      let s := (at3 0 0 0).modMe (fun sl => { sl with pc := 0xFFFF000000000000 + BitVec.ofNat 64 off })
      s.me.pc.toNat % 4 = 0 ∧ s.me.fetch = none ∧
      (match accessLoc s ⟨0, 0, 0⟩ s.me.pc 4 .fetch with
        | .ok (.bank k, t) => k == tcmKey 0 off && t == s
        | _ => false) = true) ∧
    (let s := { (at3 0 0 0).modMe (fun sl => { sl with pc := 0xFFFF000000000060 }) with
        mem := writeBytes [] (tcmKey 0 0x60) [0, 0, 0, 0xFC] };
      fMaj ((wordsOfBytes (readBytes s.mem (tcmKey 0 0x60) 32)).headD 0) = 0x3F ∧ s.me.pc.toNat % 32 = 0 ∧
      (let u := s.modSlot 0 (fun sl => { sl with fetch := some (0xFFFF000000000000, readBytes s.mem (tcmKey 0 0) 128) });
        (match accessLoc u ⟨0, 0, 0⟩ s.me.pc 32 .fetch with
          | .ok (.bank k, t) => k == tcmKey 0 0x60 && t == u
          | _ => false) = true)) ∧
    (match decodeWords [0] with
      | .error _ => true
      | .ok _ => false) = true ∧
    fMaj 0xFC000000 = 0x3F ∧ (0xFFFF000000000004 : Word).toNat % 32 ≠ 0 := by decide

theorem witness_StepKeepsMemoryForm : Memory.wf (State.reset.withFetchWord 32 0xD8000200).mem = true ∧
    (match step (State.reset.withFetchWord 32 0xD8000200) with
      | .next _ => true
      | _ => false) = true := by decide

theorem witness_RegisterFrame : boundStream (at3 0 5 6).me 2 = none ∧ boundStream (at3 0 5 6).me 31 = none ∧
    regOnly (.add 1 2 3) = some 1 ∧ regOnly .nop = some 0 ∧ regOnly (.call 0) = some 31 ∧ (at3 0 5 6).me.streams = [] := by
  decide

/-- Sources and destination of a register instruction: plain registers, and g0 as the destination. -/
theorem witness_IntegerBinaryResults : okTo (readG (at3 0 5 6) 2) 5 (at3 0 5 6) = true ∧
    okTo (readG (at3 0 5 6) 3) 6 (at3 0 5 6) = true ∧ isOk (writeG (at3 0 5 6) 1 11) = true ∧
    okTo (writeG (at3 0 5 6) 0 11) () (at3 0 5 6) = true := by decide

theorem witness_UnaryResults : okTo (readG (at3 0 5 6) 2) 5 (at3 0 5 6) = true ∧
    isOk (writeG (at3 0 5 6) 31 (BitVec.clz 5#64)) = true ∧ isOk (writeG (at3 0 5 6) 1 0x80000000) = true := by decide

theorem witness_FloatAndSelectResults : okTo (readG (at3 1 0 6) 2) 0 (at3 1 0 6) = true ∧
    okTo (readG (at3 1 0 6) 3) 6 (at3 1 0 6) = true ∧ okTo (readG (at3 1 0 6) 1) 1 (at3 1 0 6) = true ∧
    isOk (writeG (at3 1 0 6) 1 0x3F800000) = true ∧ okTo (readG (at3 1 5 6) 2) 5 (at3 1 5 6) = true := by decide

theorem witness_BranchAndJumpTargets : okTo (readG (at3 0 5 6) 2) 5 (at3 0 5 6) = true ∧
    okTo (readG (at3 0 5 6) 3) 6 (at3 0 5 6) = true ∧ isOk (writeG (at3 0 4 6) 31 0xFFFF000000000104) = true ∧
    (5 : Word).toNat % 4 ≠ 0 ∧ okTo (readG (at3 0 4 6) 2) 4 (at3 0 4 6) = true ∧ (4 : Word).toNat % 4 = 0 ∧
    isOk (writeG (at3 0 4 6) 1 0xFFFF000000000104) = true := by decide

/-- The last aligned place of the TCM, every width. -/
theorem witness_LoadsComplete : okTo (readG (at3 0 0xFFFF00000003FFF0 0) 2) 0xFFFF00000003FFF0 (at3 0 0xFFFF00000003FFF0 0) = true ∧
    (∀ w ∈ ([0, 1, 2, 3] : List (BitVec 2)), (effAddr 0xFFFF00000003FFF0 0).toNat % 2 ^ w.toNat = 0) ∧
    (∀ w ∈ ([0, 1, 2, 3] : List (BitVec 2)), okVal (loadBytes (at3 0 0xFFFF00000003FFF0 0) (effAddr 0xFFFF00000003FFF0 0)
      (2 ^ w.toNat) true false) (List.replicate (2 ^ w.toNat) 0) = true) ∧
    (∀ w ∈ ([0, 1, 2, 3] : List (BitVec 2)), okVal (loadBytes (at3 0 0xFFFF00000003FFF0 0) (effAddr 0xFFFF00000003FFF0 0)
      (2 ^ w.toNat) false true) (List.replicate (2 ^ w.toNat) 0) = true) := by decide

theorem witness_LoadsComplete_pair : (effAddr 0xFFFF00000003FFF0 0).toNat % 16 = 0 ∧
    okVal (loadBytes (at3 0 0xFFFF00000003FFF0 0) (effAddr 0xFFFF00000003FFF0 0) 16 true false) (List.replicate 16 0) = true ∧
    okTo (probeBoth (at3 0 0xFFFF00000003FFF0 0) 2 3) () (at3 0 0xFFFF00000003FFF0 0) = true ∧
    isOk (writeG (at3 0 0xFFFF00000003FFF0 0) 2 0) = true ∧ isOk (writeG (at3 0 0xFFFF00000003FFF0 0) 3 0) = true ∧
    isOk (writeG (acquire (at3 0 0xFFFF00000003FFF0 0) 5) 1 0) = true := by decide

theorem witness_StoresComplete : okTo (readG (at3 0 0xFFFF00000003FFF0 7) 2) 0xFFFF00000003FFF0 (at3 0 0xFFFF00000003FFF0 7) = true ∧
    okTo (readG (at3 0 0xFFFF00000003FFF0 7) 3) 7 (at3 0 0xFFFF00000003FFF0 7) = true ∧
    (∀ w ∈ ([0, 1, 2, 3] : List (BitVec 2)), isOk (storeBytes (at3 0 0xFFFF00000003FFF0 7) (effAddr 0xFFFF00000003FFF0 0)
      (bytesOf (2 ^ w.toNat) 7) false 0) = true) ∧
    okTo (readG (at3 0 0xFFFF00000003FFF0 7) 4) 0 (at3 0 0xFFFF00000003FFF0 7) = true ∧
    isOk (storeBytes (at3 0 0xFFFF00000003FFF0 7) (effAddr 0xFFFF00000003FFF0 0) (bytesOf 8 7 ++ bytesOf 8 0) false 0) = true := by
  decide

theorem witness_StoresComplete_strel :
    okTo (slotLoc (at3 0 0xFFFF00000003FFF8 7) (effAddr 0xFFFF00000003FFF8 0) 8 .store) (.bank (tcmKey 0 0x3FFF8))
      (at3 0 0xFFFF00000003FFF8 7) = true ∧ watchHit (at3 0 0xFFFF00000003FFF8 7) (effAddr 0xFFFF00000003FFF8 0) 8 false true = none ∧
    isOk (release (at3 0 0xFFFF00000003FFF8 7) 5) = true ∧
    isOk (storeBytes (at3 0 0xFFFF00000003FFF8 7) (effAddr 0xFFFF00000003FFF8 0) (bytesOf 8 7) true 5) = true := by decide

theorem witness_MisalignedAccess : okTo (readG (at3 0 0xFFFF000000000001 0) 2) 0xFFFF000000000001 (at3 0 0xFFFF000000000001 0) = true ∧
    (effAddr 0xFFFF000000000001 0).toNat % 2 ^ (1 : BitVec 2).toNat ≠ 0 ∧ (effAddr 0xFFFF000000000001 0).toNat % 8 ≠ 0 ∧
    (effAddr 0xFFFF000000000001 0x7FF).toNat % 16 = 0 ∧ (effAddr 0xFFFF000000000001 7).toNat % 16 ≠ 0 := by decide

/-- The last byte of a window, the first of another space, and one byte past the TCM, which no window passes. -/
theorem witness_LocalWindows : isLocal 0xFFFF00000003FFFF = true ∧ isLocal 0xFFFF000200000000 = true ∧
    (window 0).getLsbD 63 = true ∧ ((window 0).extractLsb' 61 2).toNat = 0 ∧ ((window 0).extractLsb' 44 14).toNat = 0 ∧
    0x3FFFF + 1 ≤ 2 ^ 18 ∧ (window 0).getLsbD 60 = true ∧ (window 0).getLsbD 59 = true ∧ (window 0).getLsbD 58 = true ∧
    0x3FFFF + 1 ≤ (((window 0).extractLsb' 25 19).toNat + ((window 0).extractLsb' 6 19).toNat + 1) * 128 ∧
    ((window 2).extractLsb' 61 2).toNat = 2 ∧ ((window 1).extractLsb' 61 2).toNat = 1 ∧
    (match slotLoc (at3 0 0 0) 0xFFFF00000003FFFF 2 .load with
      | .trap c _ _ => c == .prot
      | _ => false) = true := by decide

theorem witness_GlobalChecks : isLocal 0x8000000000000000 = false ∧ (0x8000000000000000 : Word).getLsbD 63 = true ∧
    isLocal ga0 = false ∧ ga0.getLsbD 63 = false ∧ devOf (glob 0 0 0) ga0 = 0x1FF ∧ (glob 0 0 0).myCore < 1024 ∧
    devOf (glob 0 0 0) 0x0140000000000000 = 5 ∧ (5 : Nat) ∉ (glob 0 0 0).present ∧
    432 ≤ (devOf (glob 0 0 0) 0x6C00000000000000).toNat ∧
    (match (walk (at3 0 0 0) (.core 0) (vaOf ga0)).1 with
      | .error c => c == .outside
      | .ok _ => false) = true ∧
    (match walk (glob 0 0 0) (.core 0) (vaOf ga0) with
      | (.ok (w, b), t) => w == 0xF000000000000000 && b == 30 && t == glob 0 0 0
      | _ => false) = true ∧ isWalked (glob 0 0 0) (.core 0) (vaOf ga0) = true ∧
    resident (glob 0 0 0) 0 ga0 8 = true ∧ resident (at3 0 0 0) 0 ga0 8 = false ∧
    homeOf (glob 0 0 0) ((0xF000000000000000 : Word).extractLsb' 44 12) (frameOf 0xF000000000000000 30 (vaOf ga0)) = some 0 ∧
    debugRefuses (glob 0 0 0) (glob 0 0 0).who ga0 (frameOf 0xF000000000000000 30 (vaOf ga0)) 8 .load = false ∧
    leafPermits 0xF000000000000000 .load = true ∧ leafPermits 0x8000000000000000 .load = false := by decide

/-- The state with a store-buffer entry over the 8 bytes at ga0. -/
def buffered (k : SbKind) : State := (glob 0 ga0 7).modCore 0 (fun c => { c with
  sbuf := [⟨0, 0, 0, ga0, .home 0x1000 0, [1, 2, 3, 4, 5, 6, 7, 8], k, 0, false⟩], sbNext := 1 })

/-- The state with the line of ga0 in the cache. -/
def cached : State := (glob 0 ga0 7).modCore 0 (fun c => { c with
  cache := [⟨ga0, some 0x1000, List.replicate 128 9, List.replicate 128 9, false, 0, 1000, true, 0⟩] })

/-- The state with device 5 present and a lease of its memory. -/
def twoDevices : State := { glob 0 0x0140000000001000 7 with
  present := [5]
  regions := [(0, { Region.root with res := Region.root.res.set 0 ⟨0x0140000000000000, 0x40000000, 2⟩ })] }

/-- Each place in turn: local memory, a buffered entry that covers and one that does not, a valid line, one whose lease is
over, another device. -/
theorem witness_AccessPlaces : (glob 0 ga0 7).me.step2 = none ∧ (glob 0 ga0 7).me.got = [] ∧
    bankFree (at3 0 0 0) 0 (tcmKey 0 0) 8 = true ∧
    bankFree ((at3 0 0 0).modCore 0 (fun c => { c with
      sbuf := [⟨0, 0, 0, 0, .bank (tcmKey 0 0), [0], .update 0 1 none, 0, false⟩] })) 0 (tcmKey 0 0) 8 = false ∧ noWatch (glob 0 ga0 7) = true ∧
    okTo (slotLoc (at3 0 0 0) 0xFFFF000000000000 8 .load) (.bank (tcmKey 0 0)) (at3 0 0 0) = true ∧
    okTo (slotLoc (glob 0 ga0 7) ga0 8 .load) (.home 0x1000 0) (glob 0 ga0 7) = true ∧
    okTo (slotLoc (glob 0 ga0 7) ga0 8 .store) (.home 0x1000 0) (glob 0 ga0 7) = true ∧
    lookSbuf ((buffered .plain).core 0).sbuf (.home 0x1000 0) 8 = .forward [1, 2, 3, 4, 5, 6, 7, 8] ∧
    lookSbuf ((buffered (.update 0 1 none)).core 0).sbuf (.home 0x1000 0) 8 = .conflict ∧
    lookSbuf ((glob 0 ga0 7).core 0).sbuf (.home 0x1000 0) 8 = .nothing := by decide

theorem witness_AccessPlaces_lines :
    (match cachedLine cached 0 ga0 with
      | some l => leaseValid cached (cached.core 0) l && !(leaseValid { cached with time := 1512 } (cached.core 0) l) && !l.poison
      | none => false) = true ∧
    cachedLine (glob 0 ga0 7) 0 ga0 = none ∧
    okTo (slotLoc twoDevices 0x0140000000001000 8 .load) (.away 0x0140000000001000) twoDevices = true ∧
    okTo (slotLoc twoDevices 0x0140000000001000 8 .store) (.away 0x0140000000001000) twoDevices = true ∧
    lookSbuf (twoDevices.core 0).sbuf (.away 0x0140000000001000) 8 = .nothing ∧
    cachedLine twoDevices 0 0x0140000000001000 = none ∧ ((glob 0 ga0 7).core 0).sbuf.length < 32 ∧
    32 ≤ (((glob 0 ga0 7).modCore 0 (fun c => { c with
      sbuf := List.replicate 32 ⟨0, 0, 0, ga0, .home 0x1000 0, [1], .plain, 0, false⟩ })).core 0).sbuf.length ∧ twoDevices.me.sent = [] := by decide

/-- Page tables of three levels at 0x1000, 0x2000 and 0x3000, with a leaf over the first GiB of this device's memory (R366). -/
def unwalked : State := { at3 0 ga0 7 with
  raf := State.reset.raf.set 0 0xE000000000001000
  mem := writeBytes (writeBytes (writeBytes [] 0x1000 (bytesOf 8 0x8000000000002000)) 0x2000 (bytesOf 8 0x8000000000003000))
    0x3000 (bytesOf 8 0xF000000000000000)
  regions := (glob 0 0 0).regions }

/-- A core that has yet to walk for ga0, and the entry it then finds. -/
theorem witness_GlobalChecks_walk : isWalked unwalked (.core 0) (vaOf ga0) = false ∧
    (match (walk unwalked (.core 0) (vaOf ga0)).1 with
      | .ok (w, _) => w == 0xF000000000000000
      | .error _ => false) = true ∧
    (match walkFirst unwalked ga0 with
      | .pause _ _ => true
      | _ => false) = true ∧ okTo (walkFirst (glob 0 ga0 7) ga0) () (glob 0 ga0 7) = true := by decide

/-- A state once the banks have served the slot's access to some bytes of a scratchpad, of a store or of none. -/
def served (s : State) (k n : Nat) (store : Option (Word × List Byte)) : State :=
  s.modMe (fun sl => { sl with bank := some ⟨k, n, store, [], (wordsIn k n).map (fun w => (w, readBytes s.mem (8 * w) 8)), false⟩ })

/-- A scratchpad word before and after its bank has served the slot's instruction, of a load and of a store. -/
theorem witness_AccessPlaces_banks : inBanks (tcmKey 0 0) = false ∧ inBanks (spadKey 0 0) = true ∧
    okTo (slotLoc (at3 0 0 0) 0xFFFF000100000000 8 .load) (.bank (spadKey 0 0)) (at3 0 0 0) = true ∧
    okTo (slotLoc (at3 0 0 0) 0xFFFF000100000000 8 .store) (.bank (spadKey 0 0)) (at3 0 0 0) = true ∧
    okTo (localKey (at3 0 0 0) 0xFFFF000000000000 8 .load) (tcmKey 0 0) (at3 0 0 0) = true ∧
    bankDone (at3 0 0 0) (spadKey 0 0) 8 false = none ∧ (at3 0 0 0).me.bank = none ∧
    (bankDone (served (at3 0 0 0) (spadKey 0 0) 8 none) (spadKey 0 0) 8 false).isSome = true ∧
    (bankDone (served (at3 0 0 0) (spadKey 0 0) 8 (some (0xFFFF000100000000, List.replicate 8 1))) (spadKey 0 0) 8 true).isSome = true ∧
    bankFree (at3 0 0 0) 0 (spadKey 0 0) 8 = true ∧ (at3 0 0 0).me.looked = [] := by decide

/-- The state in debug mode with a record arena over the line of ga0, with a shadow pool there, and with a collective that
uses it as its staging area. -/
def inArena (debug : Bool) : State := { glob 0 ga0 7 with
  regions := [(0, { ((glob 0 0 0).region 0) with recBase := ga0, recSize := 128, debug })] }

/-- See inArena. -/
def inPool : State := { glob 0 ga0 7 with regions := [(0, { ((glob 0 0 0).region 0) with shdBase := ga0, shdSize := 128 })] }

/-- See inArena. -/
def staged (s : State) : State :=
  let c : TileCmd := ⟨tile 0xFD000000, 0, 0, 0, 0, 0, 0, 0, 0, 0, 0, 0, 0, none, 0, 0, 0, false, none, 0, none⟩
  { s with colls := [⟨ranWhole c none 0, 0, ga0, 0, 900, 0, ⟨2, [], 0, 1, 1, 0, 0⟩, [], false⟩] }

/-- A place in a shadow pool, in a staging area in use, in a record arena, and in none of them. -/
theorem witness_AccessPlaces_marked : inShadowPool (glob 0 ga0 7) ga0 8 = false ∧ inShadowPool cached ga0 8 = false ∧
    inStaging (glob 0 ga0 7) ga0 8 = false ∧ inRecords (glob 0 ga0 7) ga0 8 = false ∧
    inShadowPool inPool ga0 8 = true ∧ okTo (slotLoc inPool ga0 8 .load) (.home 0x1000 0) inPool = true ∧
    inStaging (staged (glob 0 ga0 7)) ga0 8 = true ∧
    okTo (slotLoc (staged (glob 0 ga0 7)) ga0 8 .load) (.home 0x1000 0) (staged (glob 0 ga0 7)) = true ∧
    inRecords (inArena true) ga0 8 = true ∧ ((inArena true).region (inArena true).me.region).debug = true ∧
    okTo (slotLoc (inArena true) ga0 8 .store) (.home 0x1000 0) (inArena true) = true := by decide

/-- The last byte of the TCM. -/
theorem witness_LocalAccessFrames : (at3 0 0xFFFF00000003FFF8 7).me.streams = [] ∧
    bankFree (at3 0 0xFFFF00000003FFF8 7) 0 (tcmKey 0 0x3FFFF) 1 = true ∧
    inBanks (tcmKey 0 0x3FFFF) = false ∧ (at3 0 0xFFFF00000003FFF8 7).me.bank = none ∧ (at3 0 0xFFFF00000003FFF8 7).me.sent = [] ∧
    (at3 0 0xFFFF00000003FFF8 7).me.got = [] ∧ noWatch (at3 0 0xFFFF00000003FFF8 7) = true ∧
    (effAddr ((at3 0 0xFFFF00000003FFF8 7).me.reg 2) 7).toNat % 2 ^ (0 : BitVec 2).toNat = 0 ∧
    okTo (slotLoc (at3 0 0xFFFF00000003FFF8 7) (effAddr ((at3 0 0xFFFF00000003FFF8 7).me.reg 2) 7) 1 .store)
      (.bank (tcmKey 0 0x3FFFF)) (at3 0 0xFFFF00000003FFF8 7) = true ∧
    okTo (slotLoc (at3 0 0xFFFF00000003FFF8 7) (effAddr ((at3 0 0xFFFF00000003FFF8 7).me.reg 2) 7) 1 .load)
      (.bank (tcmKey 0 0x3FFFF)) (at3 0 0xFFFF00000003FFF8 7) = true := by decide

/-- The same in a scratchpad, before its banks and after. -/
theorem witness_LocalAccessFrames_banks :
    let s := at3 0 0xFFFF000100000000 7
    (effAddr (s.me.reg 2) 0).toNat % 2 ^ (3 : BitVec 2).toNat = 0 ∧ bankFree s s.myCore (spadKey 0 0) 8 = true ∧
    okTo (slotLoc s (effAddr (s.me.reg 2) 0) 8 .store) (.bank (spadKey 0 0)) s = true ∧
    okTo (slotLoc s (effAddr (s.me.reg 2) 0) 8 .load) (.bank (spadKey 0 0)) s = true ∧ s.me.bank = none ∧
    (let t := served s (spadKey 0 0) 8 (some (0xFFFF000100000000, bytesOf 8 7));
      okTo (slotLoc t (effAddr (t.me.reg 2) 0) 8 .store) (.bank (spadKey 0 0)) t = true ∧
      (bankDone t (spadKey 0 0) 8 true).isSome = true ∧ t.me.sent = [] ∧ t.me.streams = [] ∧ noWatch t = true) ∧
    (let t := served s (spadKey 0 0) 8 none;
      okTo (slotLoc t (effAddr (t.me.reg 2) 0) 8 .load) (.bank (spadKey 0 0)) t = true ∧
      (bankDone t (spadKey 0 0) 8 false).isSome = true) := by decide

/-- Scopes 1, 2, 5 and 6; an empty store buffer and one with an entry; an address with a line and one without, and a local
one that no home leases. -/
theorem witness_FencesAndLeases : (1 : BitVec 3).toNat < 2 ∧ 2 ≤ (2 : BitVec 3).toNat ∧ (5 : BitVec 3).toNat < 6 ∧
    6 ≤ (6 : BitVec 3).toNat ∧ ((glob 0 ga0 7).core (glob 0 ga0 7).myCore).sbuf = [] ∧ (buffered .plain).me.drain = none ∧
    (((buffered .plain).core 0).sbuf.any (fun e => decide (e.id < ((buffered .plain).core 0).sbNext))) = true ∧
    okTo (readG (glob 0 ga0 7) 2) ga0 (glob 0 ga0 7) = true ∧ okTo (readG (glob 0 ga0 7) 3) 7 (glob 0 ga0 7) = true ∧
    leasable (glob 0 ga0 7) (ga0 &&& ~~~(127 : Word)) = some (.home 0x1000 0) ∧ (cachedLine cached 0 ga0).isSome = true ∧
    cachedLine (glob 0 ga0 7) 0 ga0 = none ∧
    okTo (walkFirst (glob 0 ga0 7) ga0) () (glob 0 ga0 7) = true ∧ isWalked (at3 0 ga0 0) (.core 0) (vaOf ga0) = false ∧
    okTo (walkFirst (at3 0 0xFFFF000000000000 0) 0xFFFF000000000000) () (at3 0 0xFFFF000000000000 0) = true ∧
    leasable (at3 0 0xFFFF000000000000 0) (0xFFFF000000000000 &&& ~~~(127 : Word)) = none := by decide

/-- A slot whose answer has come back. -/
def answered (v : Word) (g1 g2 g3 : Word) : State := (glob g1 g2 g3).modMe (fun sl => { sl with reply := some (.val v) })

/-- The request functions name where they would sleep. -/
theorem witness_RequestsComplete : (5 : BitVec 3).toNat < 6 ∧ okTo (readG (answered 9 1 ga0 7) 2) ga0 (answered 9 1 ga0 7) = true ∧
    okTo (readG (answered 9 1 ga0 7) 3) 7 (answered 9 1 ga0 7) = true ∧ okTo (readG (answered 9 1 ga0 7) 1) 1 (answered 9 1 ga0 7) = true ∧
    okTo (request (answered 9 1 ga0 7) 1 ga0 (.amo 0 8 7) .rmw true 5 none) 9 (answered 9 1 ga0 7) = true ∧
    okTo (request (answered 9 1 ga0 7) 1 ga0 (.amo 9 4 7) .rmw false 5 none) 9 (answered 9 1 ga0 7) = true ∧
    okTo (request (answered 9 1 ga0 7) 1 ga0 (.cas 8 1 7) .rmw false 5 none) 9 (answered 9 1 ga0 7) = true ∧
    okTo (request (answered 9 1 ga0 7) 1 ga0 (.sch 8 7) .rmw true 5 none) 9 (answered 9 1 ga0 7) = true ∧
    okTo (request (answered 9 1 ga0 7) 1 ga0 (.arrive 3) .rmw true 5 none) 9 (answered 9 1 ga0 7) = true ∧
    okTo (request (answered 9 1 ga0 7) 1 ga0 (.waitph 3) .look false 5 (some (fun l => SleepFor.waitph l 3))) 9 (answered 9 1 ga0 7) = true ∧
    okTo (request (answered 9 1 ga0 7) 1 ga0 (.waitcnt 7) .look false 5 (some (fun l => SleepFor.waitcnt l 7))) 9 (answered 9 1 ga0 7) = true ∧
    okTo (request (answered 9 1 ga0 7) 1 ga0 (.lrw 8) .rmw false 5 (some (fun l => SleepFor.lrw l 8))) 9 (answered 9 1 ga0 7) = true ∧
    isOk (writeG (answered 9 1 ga0 7) 1 9) = true ∧ isOk (writeG (acquire (answered 9 1 ga0 7) 5) 1 9) = true := by decide

/-- An answer, a fault, a misaligned location, a bank that answers and one that sleeps, a home and another device. -/
theorem witness_RequestPlaces : (answered 9 1 ga0 7).me.reply = some (.val 9) ∧
    ((glob 0 ga0 7).modMe (fun sl => { sl with reply := some (.fault .prot 1) })).me.reply = some (.fault .prot 1) ∧
    (ga0 + 4).toNat % atomWidth (.amo 0 8 7) ≠ 0 ∧ ga0.toNat % atomWidth (.amo 0 8 7) = 0 ∧ noWatch (glob 0 ga0 7) = true ∧
    okTo (slotLoc (at3 0 0 0) 0xFFFF000000000000 8 .rmw) (.bank (tcmKey 0 0)) (at3 0 0 0) = true ∧
    okTo (probeG (glob 0 ga0 7) 1) () (glob 0 ga0 7) = true ∧ okTo (probeG (at3 0 0 0) 1) () (at3 0 0 0) = true ∧ (lineWait (at3 0 0 0) 0xFFFF000000000000 (.bank (tcmKey 0 0))).isNone = true ∧
    (lineWait ((at3 0 0 0).modCore 0 (fun c => { c with
      sbuf := [⟨0, 0, 0, 0, .bank (tcmKey 0 0), [0], .update 0 1 none, 0, false⟩], sbNext := 1 })) 0xFFFF000000000000
      (.bank (tcmKey 0 0))).isSome = true ∧
    (match (atBank (at3 0 0 0) 0 0xFFFF000000000000 (tcmKey 0 0) (.amo 0 8 7)).2 with
      | .value _ => true
      | _ => false) = true ∧
    okTo (slotLoc (at3 0 0 0) 0xFFFF000000000000 8 .look) (.bank (tcmKey 0 0)) (at3 0 0 0) = true ∧
    (match (atBank (at3 0 0 0) 0 0xFFFF000000000000 (tcmKey 0 0) (.waitcnt 7)).2 with
      | .sleeps => true
      | _ => false) = true ∧
    okTo (slotLoc (glob 0 ga0 7) ga0 8 .rmw) (.home 0x1000 0) (glob 0 ga0 7) = true ∧
    okTo (slotLoc twoDevices 0x0140000000001000 8 .rmw) (.away 0x0140000000001000) twoDevices = true ∧
    okTo (slotLoc (at3 0 0 0) 0xFFFF000100000000 8 .rmw) (.bank (spadKey 0 0)) (at3 0 0 0) = true ∧
    (lineWait (at3 0 0 0) 0xFFFF000100000000 (.bank (spadKey 0 0))).isNone = true ∧ pushWaits (at3 0 0 0) 1 = false := by decide

/-- A state whose slot has a stream of two elements of 8 bytes bound to g24, read from or written to a place. -/
def streaming (s : State) (base : Word) (reads : Bool) : State := s.modMe (fun sl => { sl with
  streams := [(0, ⟨0xFFFF000000000040, base, 8, 0, 2, 1, 3, false, reads, !reads, 0, 0, 0, 0, 0, 0⟩)] })

/-- A push to a scratchpad, which the instruction waits for, of an atomic at a bank of the TCM. -/
theorem witness_RequestPlaces_push :
    let s := streaming (at3 0 0 0) 0xFFFF000100000000 false
    s.me.reply = none ∧ noWatch s = true ∧
    (match probeG s 24 with
      | .ok _ p => pushWaits p 24 && (lineWait p 0xFFFF000000000000 (.bank (tcmKey 0 0))).isNone &&
        (match (atBank p 0 0xFFFF000000000000 (tcmKey 0 0) (.amo 0 8 7)).2 with
          | .value _ => true
          | _ => false)
      | _ => false) = true ∧
    okTo (slotLoc s 0xFFFF000000000000 8 .rmw) (.bank (tcmKey 0 0)) s = true ∧
    pushWaits (streaming twoDevices 0x0140000000001000 false) 24 = true := by decide

/-- Each case of ARRIVE at its boundary: E = 0, a phase two ahead, the next phase full and not, the last arrival and not. -/
theorem witness_ArriveCounts :
    ((0 : Word).extractLsb' 32 16).toNat = 0 ∧
    (let w : Word := 0x4000000300020001;
      (2 : BitVec 2) ≠ w.extractLsb' 62 2 ∧ (2 : BitVec 2) = w.extractLsb' 62 2 + 1 ∧ (3 : BitVec 2) ≠ w.extractLsb' 62 2 + 1 ∧
      (w.extractLsb' 16 16).toNat ≠ (w.extractLsb' 32 16).toNat ∧ (1 : BitVec 2) = w.extractLsb' 62 2 ∧
      (w.extractLsb' 0 16).toNat + 1 ≠ (w.extractLsb' 32 16).toNat) ∧
    (let w : Word := 0x0000000300030002;
      (w.extractLsb' 16 16).toNat = (w.extractLsb' 32 16).toNat ∧ (1 : BitVec 2) = w.extractLsb' 62 2 + 1) ∧
    (let w : Word := 0x0000000300020002;
      (w.extractLsb' 0 16).toNat + 1 = (w.extractLsb' 32 16).toNat ∧ (w.extractLsb' 16 16).toNat ≠ (w.extractLsb' 32 16).toNat) := by
  decide

theorem witness_LocalAtomicFrame : (2 : BitVec 3).toNat < 6 ∧ Memory.wf (at3 0 0xFFFF00000003FFF8 7).mem = true ∧
    (at3 0 0xFFFF00000003FFF8 7).me.streams = [] ∧ (at3 0 0xFFFF00000003FFF8 7).me.reply = none ∧
    ((at3 0 0xFFFF00000003FFF8 7).core 0).sbuf = [] ∧ noWatch (at3 0 0xFFFF00000003FFF8 7) = true ∧ ((at3 0 0xFFFF00000003FFF8 7).me.reg 2).toNat % 8 = 0 ∧
    okTo (slotLoc (at3 0 0xFFFF00000003FFF8 7) ((at3 0 0xFFFF00000003FFF8 7).me.reg 2) 8 .rmw) (.bank (tcmKey 0 0x3FFF8))
      (at3 0 0xFFFF00000003FFF8 7) = true ∧ inBanks (tcmKey 0 0x3FFF8) = false ∧
    (1 : BitVec 2).getLsbD 1 = false := by decide

/-- The first word of the scratchpad, full and empty, once its bank has served the slot and before. -/
theorem witness_FullEmpty :
    let e := served (at3 0 0xFFFF000100000000 7) (spadKey 0 0) 8 none
    let f := setFull e (spadKey 0 0) true
    inBanks (spadKey 0 0) = true ∧
    okTo (readG f 2) 0xFFFF000100000000 f = true ∧ f.me.reply = none ∧ noWatch f = true ∧ f.feSleep = [] ∧
    (bankDone f (spadKey 0 0) 8 false).isSome = true ∧ (bankDone e (spadKey 0 0) 8 false).isSome = true ∧ pushWaits f 1 = false ∧
    bankDone (at3 0 0xFFFF000100000000 7) (spadKey 0 0) 8 false = none ∧
    bankFree f f.myCore (spadKey 0 0) 8 = true ∧ okTo (probeG f 1) () f = true ∧ okTo (probeG e 1) () e = true ∧
    bankFree e e.myCore (spadKey 0 0) 8 = true ∧
    okTo (feLoc f 0xFFFF000100000000 .rmw) (spadKey 0 0) f = true ∧ okTo (feLoc f 0xFFFF000100000000 .look) (spadKey 0 0) f = true ∧
    isFull f (spadKey 0 0) = true ∧ isFull e (spadKey 0 0) = false ∧ okTo (readG e 3) 7 e = true ∧
    okTo (feLoc e 0xFFFF000100000000 .store) (spadKey 0 0) e = true ∧ isOk (release e 2) = true ∧
    okTo (feLoc e 0xFFFF000100000000 .rmw) (spadKey 0 0) e = true ∧ e.me.status = .ready ∧
    isOk (writeG (acquire (emptyWord f (spadKey 0 0)) 2) 1 0) = true := by decide

/-- LDFE and LDFF of a full word whose result goes to a stream in a scratchpad. -/
theorem witness_FullEmpty_push :
    let f := streaming (setFull (served (at3 0 0xFFFF000100000000 7) (spadKey 0 0) 8 none) (spadKey 0 0) true) 0xFFFF000100000040 false
    (match probeG f 24 with
      | .ok _ p => pushWaits p 24 && isFull p (spadKey 0 0) && bankFree p p.myCore (spadKey 0 0) 8 &&
        (bankDone p (spadKey 0 0) 8 false).isSome
      | _ => false) = true ∧
    okTo (feLoc f 0xFFFF000100000000 .rmw) (spadKey 0 0) f = true ∧ okTo (feLoc f 0xFFFF000100000000 .look) (spadKey 0 0) f = true := by
  decide

/-- NOTIFY and RUPD, with and without a counted word. -/
theorem witness_UpdatesComplete :
    let s := glob ga0 ga0 7
    okTo (readG s 2) ga0 s = true ∧ okTo (readG s 3) 7 s = true ∧ okTo (readG s 1) ga0 s = true ∧ ga0.toNat % 8 = 0 ∧
    okTo (slotLoc s ga0 8 .rmw) (.home 0x1000 0) s = true ∧ okTo (slotLoc s ga0 4 .rmw) (.home 0x1000 0) s = true ∧
    noWatch s = true ∧ okTo (release s 1) () s = true ∧ isOk (release s 5) = true ∧ (s.core s.myCore).sbuf.length < 32 ∧
    okTo (rupdLocs s ga0 8 (some ga0)) (.home 0x1000 0) s = true := by decide

/-- Counts 0, 4,097 and one not above the index; the index below the count; every round done, and a round whose partner has
notified. -/
theorem witness_BardRounds :
    let s := glob 0 ga0 0x20001
    okTo (readG s 2) ga0 s = true ∧ okTo (readG s 3) 0x20001 s = true ∧ ((0x20001 : Word).extractLsb' 16 13).toNat = 2 ∧
    ((0x20001 : Word).extractLsb' 0 13).toNat = 1 ∧ ga0.toNat % 8 = 0 ∧ s.me.reply = none ∧ s.me.bardRound ≠ bardRounds 2 ∧
    (1 : BitVec 3).toNat < 2 ∧ okTo (probeG s 1) () s = true ∧
    ((0x10010001 : Word).extractLsb' 16 13).toNat = 4097 ∧ ((0x20002 : Word).extractLsb' 0 13).toNat = 2 ∧
    (s.modMe (fun sl => { sl with bardRound := 1 })).me.bardRound = bardRounds 2 ∧
    s.me.bardNoted = [] ∧ s.me.bardFault = none ∧ s.me.bardNoted.contains s.me.bardRound = false ∧
    okTo (release s 1) () s = true ∧ isOk (loadBytes cached (ga0 + 0) 8 true false) = true ∧
    (s.modMe (fun sl => { sl with bardFault := some (.prot, 0) })).me.bardFault = some (.prot, 0) ∧
    (let u := s.modMe (fun sl => { sl with bardNoted := [0], bardHeld := [⟨0, 0, 0, 0, 0⟩] });
      ¬(u.me.bardRound = 0 ∧ u.me.bardNoted = []) ∧ u.me.bardNoted.contains u.me.bardRound = true ∧
      (findIdx (bardNeeds u.me 1 2) u.me.bardHeld).isSome = true ∧
      findIdx (bardNeeds u.me 1 2) (u.modMe (fun sl => { sl with bardHeld := [] })).me.bardHeld = none) ∧
    (match bardEntry s 0x000001FF00000000, bardEntry s 0xFFFFFFFFFFFFFFFF with
      | .ok _, .error _ => true
      | _, _ => false) = true := by decide

/-- The global state with the line of ga0 in its home's slice. -/
def homed : State := { glob 0 ga0 7 with lines := [(32, { LineInfo.init with slice := some 0 })] }

theorem plain_homed : PlainLine homed ga0 0x1000 0 8 :=
  ⟨by decide, by decide, by decide, by decide, by decide, by decide, by decide, by decide⟩

/-- A buffered store, an update and a request at the home of ga0. -/
theorem witness_HomeWrites :
    let e : SbEntry := ⟨0, 0, 0, ga0, .home 0x1000 0, [1, 2, 3, 4, 5, 6, 7, 8], .plain, 0, false⟩
    let s := homed.modCore 0 (fun k => { k with sbuf := [e] })
    Memory.wf s.mem = true ∧ (s.core 0).sbuf[0]? = some e ∧ mayDrain s (s.core 0).sbuf e = true ∧
    mayDrain s (s.core 0).sbuf { e with kind := .update 0 7 none } = true ∧ (updateFn 0).2 = 8 ∧
    (homed.core (coreOf 0)).sbuf = [] ∧ (⟨0, ga0, .home 0x1000 0, .amo 0 8 7, 0, false⟩ : AtomReq).look = false ∧
    (⟨0, ga0, .home 0x1000 0, .amo 0 8 7, 0, false⟩ : AtomReq).loc = .home 0x1000 0 := by decide

/-- Requests and replies of loads, a lease, an eviction, a store that another device has answered. -/
theorem witness_AnswersArrive :
    let r : LoadReq := ⟨0, some 0, ga0, ga0, 8, .home 0x1000 0, none, [], 1000, none, none, false, true, none⟩
    let b : Word := 0x0140000000001000
    let rb : LoadReq := { r with line := b, addr := b, loc := .away b }
    let d : RemoteData := ⟨0, b, some (List.replicate 128 3), false, 1, none⟩
    let a : LoadAnswer := ⟨some (List.replicate 128 1), false, 1, List.replicate 128 1, none⟩
    let w := homed.modMe (fun sl => { sl with status := .waiting .reply })
    r.answer = none ∧ r.strong = none ∧ (homed.line (0x1000 / 128)).slice = some 0 ∧ inShadowPool homed r.line 128 = false ∧ inStaging homed r.line 128 = false ∧ r.code = false ∧ r.fwd = none ∧
    holdsNewer (homed.core 0) r a = false ∧
    holdsNewer { homed.core 0 with cache := [⟨ga0, some 0x1000, [], [], false, 2, 1000, true, 0⟩] } r a = true ∧
    rb.loc = .away b ∧ rb.core = coreOf d.slot ∧ rb.line = lineAddr w d.line ∧ rb.slot = some d.slot ∧ d.fault = none ∧
    d.bytes.isSome = true ∧ lineAddr w b = lineAddr w d.line ∧
    a.fault = none ∧ a.bytes.isSome = true ∧ (w.slot 0).status = .waiting .reply ∧ (cached.core 0).cache[0]?.isSome = true ∧
    (homed.line 32).slice ≠ none ∧ (homed.line 32).sharers = [] ∧ homed.invals = [] ∧
    ({ LineInfo.init with slice := some 0, sharers := [0] } : LineInfo).sharers ≠ [] ∧
    (let e : SbEntry := ⟨0, 0, 0, b, .away b, [1, 2, 3, 4, 5, 6, 7, 8], .plain, 0, false⟩
      let s := ({ homed with outbox := [.store 0 b e.bytes false false] }.modMe (fun sl => { sl with status := .waiting .accept })).modCore 0
        (fun c => { c with sbuf := [e] })
      (s.core (coreOf 0)).sbuf.find? (fun x => x.slot == 0 && unaccepted s x) = some e) := by decide

/-- Slots that wait for code, for a ring's chunk and for a reservation; a queue of two; a notification for a slot with room
and for one without a task. -/
theorem witness_SlotsResume :
    let f := (at3 0 0 0).modMe (fun sl => { sl with status := .waiting (.fetch 0xFFFF000000000100) })
    let z : Sleep := ⟨.lrw (.home 0x1000 0) 8, 1000, 0, ga0, false⟩
    let l := homed.modMe (fun sl => { sl with status := .asleep z })
    let r : Resv := ⟨0, some 0, 8, ga0, some 10, 20⟩
    let r2 : Resv := ⟨1, some 0, 8, ga0, none, 0⟩
    let at_ := fun (s : State) (pc : Word) => accessLoc s ⟨0, 0, 0⟩ pc 4 .fetch
    (f.slot 0).status = .waiting (.fetch 0xFFFF000000000100) ∧
    (match at_ (glob 0 0 0) ga0 with
      | .ok (.home _ _, t) => (codeHit t 0 ga0).isNone && !(codeAsked t 0 ga0)
      | _ => false) = true ∧
    (match codeHit cached 0 ga0 with
      | some (.value _, _) => true
      | _ => false) = true ∧
    (match codeHit (cached.modCore 0 (fun c => { c with cache := c.cache.map (fun l => { l with poison := true }) })) 0 ga0 with
      | some (.fault _, _) => true
      | _ => false) = true ∧
    (match at_ f 0xFFFF000000040000 with
      | .error _ => true
      | .ok _ => false) = true ∧
    (match at_ f 0xFFFF000000000100, at_ f 0xFFFF000100000100 with
      | .ok (.bank k, t), .ok (.bank j, u) => !(inBanks k) && inBanks j && t == f && u == f
      | _, _ => false) = true ∧ (f.slot 0).bank = none ∧
    (l.slot 0).status = .asleep z ∧ (l.slot 0).reply = none ∧ l.resv = [] ∧ l.atoms = [] ∧
    r.held = some 10 ∧ r.lim ≠ 0 ∧ (10 : Word).toNat + r.lim.toNat < l.time.toNat ∧ r2.held = none ∧
    (l.line (0x1000 / 128)).poison = false ∧
    (let st : Stream := ⟨0xFFFF000000000040, 0xFFFF000000000100, 4, 0, 2, 2, 2, true, true, true, 0, 0, 0, 0, 0, 0⟩
      let w : Sleep := ⟨.ring 0 0, 1000, 0, 0, false⟩
      let s := (at3 0 0 0).modMe (fun sl => { sl with streams := [(0, st)], status := .asleep w })
      (s.slot 0).status = .asleep w ∧ mapGet (s.slot 0).streams 0 = some st ∧ chunkOpen s (coreOf 0) st 0 = true) ∧
    isLiveSlot (at3 0 0 0) 0 = true ∧ isLiveSlot (at3 0 0 0) 8192 = false ∧
    ((at3 0 0 0).slot 0).status = .ready ∧ ((at3 0 0 0).slot 0).bardHeld.length < 16 ∧ ((at3 0 0 0).slot 9).status = .noTask := by
  decide

/-- A message to slot 0.1 of this device and one to a device that is present, the payload at the TCM's end, before the
answer and with it. -/
theorem witness_SendAndSpawn :
    let s := at3 4 0x7FC0010000000000 0xFFFF00000003FFC0
    okTo (readG s 2) 0x7FC0010000000000 s = true ∧ okTo (readG s 3) 0xFFFF00000003FFC0 s = true ∧ okTo (readG s 1) 4 s = true ∧
    (0xFFFF00000003FFC0 : Word).toNat % 64 = 0 ∧ okTo (localKey s 0xFFFF00000003FFC0 64 .load) (tcmKey 0 0x3FFC0) s = true ∧
    noWatch s = true ∧ okTo (release s 1) () s = true ∧ isHere s (destDev 0x7FC0010000000000) = true ∧
    okTo (checkDest s 0x7FC0010000000000) () s = true ∧ (takeGot s 0xFFFF00000003FFC0 64).isNone = true ∧
    okTo (probeG s 1) () s = true ∧ okTo (probeG s 0) () s = true ∧ isOk (bankRead s (tcmKey 0 0x3FFC0) 64) = true ∧
    (takeGot (s.modMe (fun sl => { sl with got := [⟨0xFFFF00000003FFC0, 64, .value (List.replicate 64 1)⟩] }))
      0xFFFF00000003FFC0 64).isSome = true ∧ destSlot 0x7FC0010000000000 = 1 ∧ outgoing s s.myCore < 4 ∧
    (4 : Word).toNat % 4 = 0 ∧ (0x7FC0010000000000 : Word).getLsbD 63 = false ∧ s.me.reply = none ∧
    isHere twoDevices (destDev 0x0140000000000000) = false ∧ isPresent twoDevices (destDev 0x0140000000000000) = true ∧
    (answered 1 4 0 0).me.reply = some (.val 1) ∧ isOk (writeG s 1 3) = true := by decide

/-- An inbox entry for slot 0.0. -/
def withEntry : State := (at3 0 0xFFFF00000003FFC0 7).modCore 0 (fun k => { k with inbox := [⟨0, 5, List.replicate 64 1⟩] })

theorem witness_ReceiveAndWait : okTo (readG withEntry 2) 0xFFFF00000003FFC0 withEntry = true ∧
    entriesOf withEntry withEntry.cur = [⟨0, 5, List.replicate 64 1⟩] ∧
    okTo (localKey withEntry 0xFFFF00000003FFC0 64 .store) (tcmKey 0 0x3FFC0) withEntry = true ∧ noWatch withEntry = true ∧
    inBanks (tcmKey 0 0x3FFC0) = false ∧ bankFree withEntry withEntry.myCore (tcmKey 0 0x3FFC0) 64 = true ∧
    isOk (bankStore withEntry 0xFFFF00000003FFC0 (tcmKey 0 0x3FFC0) (List.replicate 64 1)) = true ∧
    okTo (localKey withEntry 0xFFFF000100000000 64 .store) (spadKey 0 0) withEntry = true ∧ inBanks (spadKey 0 0) = true ∧
    bankFree withEntry withEntry.myCore (spadKey 0 0) 64 = true ∧ withEntry.me.bank = none ∧ pushWaits withEntry 1 = false ∧
    entriesOf (at3 0 0 7) 0 = [] ∧ (at3 0 0 7).me.status = .ready ∧ (at3 0 0 7).me.since = none ∧
    (at3 0 0 7).time.toNat + (7 : Word).toNat < 2 ^ 64 ∧ isOk (writeG withEntry 1 5) = true := by decide

theorem witness_TaskStartsAndEnds : (at3 0 0 0).me.status ≠ .noTask ∧ (at3 0 0 0).resv = [] ∧ (at3 0 0 0).wakes = [] ∧
    (at3 0 0 0).evals = [] ∧ (at3 0 0 0).me.status = .ready ∧ ((at3 0 0 0).region 0).phys = none := by decide

/-- MIGRATE to the own core, to core 1 with a free slot and with none, and with an alias bound; a thread that arrives. -/
theorem witness_Migration :
    let own : Word := 0x7FC0000000000000
    let one : Word := 0x7FC0080000000000
    let s := at3 0 one 0
    let full := { s with slots := (0, slotWith 0 one 0) :: (List.range 8).map (fun i => (8 + i, slotWith 0 0 0)) }
    okTo (readG s 2) one s = true ∧ isHere s (destDev one) = true ∧ okTo (checkDest s one) () s = true ∧
    destCore own = s.myCore ∧ destCore one ≠ s.myCore ∧ s.me.streams = [] ∧ hasTile s s.cur = false ∧
    (s.core s.myCore).sbuf = [] ∧ freeSlot (s.giveUpReservation s.cur) (destCore one) = some 8 ∧ 8 ≠ s.cur ∧
    freeSlot (full.giveUpReservation full.cur) (destCore one) = none ∧
    (s.modMe (fun sl => { sl with streams := [(0, streamOf 0 [])] })).me.streams ≠ [] := by decide

theorem witness_MessageEvents :
    let m : InboxMsg := ⟨0x1FF, 0, 0, 0, 0, 5, List.replicate 64 1⟩
    let tm : TaskMsg := ⟨0, 0, 0, 0xFFFF000000000000, List.replicate 64 1⟩
    let s := at3 0 0 0
    let spent := { s with regions := [(0, { Region.root with budgets := Region.root.budgets.set 0 ⟨1, 1⟩ })] }
    let full := { s with slots := (List.range 8).map (fun i => (i, slotWith 0 0 0)) }
    messageWaits s m = false ∧ (s.slot m.slot).status = .ready ∧ (s.slot m.slot).gen = m.gen ∧ (s.slot m.slot).ctx = m.ctx ∧
    (s.slot 3).status = .noTask ∧ shareUsed s 0 true < 32 ∧ tm.ctx = residentCtx s tm.core ∧ isLive s tm.region = true ∧
    s.halted = [] ∧ freeSlot s tm.core = some 1 ∧ chargeFits (s.region 0) [(.slots, 1)] = true ∧
    (charge s tm.region [(.slots, 1)]).isSome = true ∧ charge spent tm.region [(.slots, 1)] = none ∧ freeSlot full tm.core = none ∧
    taskFits s tm = true ∧ taskFits s { tm with ctx := 2 } = false ∧ earlierOnWay s s.flights.length m = false ∧
    heldFor s ⟨.vector, 0, 0, ⟨0, 0, []⟩⟩ = true ∧ heldFor s ⟨.vector, 1, 0, ⟨0, 0, []⟩⟩ = false ∧
    (900 : Word).toNat ≤ s.time.toNat := by decide

/-- A hot core with nothing to move, and one whose slot may move to core 1. -/
theorem witness_MessageEvents_hot :
    let hot := (at3 0 0 0).modCore 0 (fun k => { k with hot := true })
    let moves := { hot.modMe (fun sl => { sl with migok := true }) with policy := { Policy.reset with thermal := [(0, [1])] } }
    (hot.core 0).hot = true ∧ (hot.core 0).lastDisp = none ∧ eligible hot 0 = false ∧
    ((List.range 8).map (fun n => 8 * 0 + n)).find? (fun n => eligible moves n) = some 0 ∧ coolTarget moves 0 = some 8 ∧
    canLeave moves 0 = true ∧ canLeave (moves.modCore 0 (fun k => { k with
      sbuf := [⟨0, 0, 0, ga0, .home 0x1000 0, [1], .plain, 0, false⟩] })) 0 = false := by
  decide

/-- An alias with two elements of 4 bytes at the TCM's end, at its first, its last and past it. -/
def bound (pos : Nat) : State := (at3 0 0 0).modMe (fun sl => { sl with
  streams := [(0, ⟨0xFFFF000000000040, 0xFFFF00000003FFF8, 4, 0, 2, 1, 2, false, false, true, 0, 0, 0, pos, 0, 0⟩)] })

theorem witness_StreamOperands : ((boundStream (bound 1).me 24).map Prod.fst) = some 0 ∧ (2 * 1 ≤ 2) ∧ (1 < 2 * 1) ∧
    isOk (fetchBytes (bound 1) 0xFFFF00000003FFFC 4 true false) = true ∧
    isOk (storeBytes (bound 1) 0xFFFF00000003FFFC (bytesOf 4 7) false 0) = true ∧
    (bound 1).me.kept[(bound 1).me.popped.length]? = none ∧ roomFor (bound 1) ((bound 1).me.streams.headD (0, streamOf 0 [])).2 = none := by decide

/-- An element that has been popped for good, and a push whose place has been checked. -/
theorem witness_StreamOperands_again :
    let st := ((bound 1).me.streams.headD (0, streamOf 0 [])).2
    let k := (bound 1).modMe (fun sl => { sl with kept := [[1, 2, 3, 4]] })
    let r := (bound 1).modMe (fun sl => { sl with room := some (0xFFFF00000003FFFC, .bank (tcmKey 0 0x3FFFC)) })
    k.me.kept[k.me.popped.length]? = some [1, 2, 3, 4] ∧ noWatch k = true ∧
    roomFor r st = some (.bank (tcmKey 0 0x3FFFC)) ∧ (takeSent r 0xFFFF00000003FFFC).isNone = true ∧
    isOk (storeAt r 0xFFFF00000003FFFC (.bank (tcmKey 0 0x3FFFC)) (bytesOf 4 7) false 0) = true := by decide

/-- A ring of two chunks of one element at the TCM's start, its counted word at ga0, that reads or writes. -/
def ringState (write : Bool) (entered : Nat) : State := (glob 0 0 7).modMe (fun sl => { sl with
  streams := [(0, ⟨0xFFFF000000000040, 0xFFFF000000000100, 4, 4, 1, 2, 2, write, true, true, 3, 2, ga0, 0, 0, entered⟩)] })

/-- The chunk of a ring that reads is not open, that of one that writes is; one that is entered; the word's update. -/
theorem witness_StreamOperands_ring :
    ((boundStream (ringState false 0).me 24).map Prod.fst) = some 0 ∧
    chunkOpen (ringState false 0) 0 ((ringState false 0).me.streams.headD (0, streamOf 0 [])).2 0 = false ∧
    chunkOpen (ringState true 0) 0 ((ringState true 0).me.streams.headD (0, streamOf 0 [])).2 0 = true ∧
    (ringState false 0).me.status = .ready ∧
    isOk (fetchBytes (ringState false 1) 0xFFFF000000000100 4 true false) = true ∧
    (ringState false 1).me.kept = [] ∧ (ringState false 1).me.room = none ∧
    isOk (storeBytes (ringState true 1) 0xFFFF000000000100 (bytesOf 4 7) false 0) = true ∧
    (match accessLoc (ringState true 1) (ringState true 1).who ga0 8 .rmw with
      | .ok (.home _ _, t) => sbufRoom t
      | _ => false) = true ∧ isOk (readG (ringState false 1) 24) = true ∧ isOk (writeG (ringState true 0) 24 7) = true := by decide

/-- A descriptor at the TCM's start: base, s0 = 4, n0 = 2, n1 = 1, width 4. -/
def withDescriptor : State := { at3 0 0xFFFF000000000000 7 with
  mem := writeBytes [] (tcmKey 0 0) (bytesOf 8 0xFFFF000000000100 ++ bytesOf 4 4 ++ bytesOf 4 0 ++ bytesOf 4 2 ++ bytesOf 4 1 ++
    bytesOf 8 2) }

theorem witness_StreamMembers : okTo (readG withDescriptor 2) 0xFFFF000000000000 withDescriptor = true ∧
    okVal (localRead withDescriptor 0xFFFF000000000000 64) (readBytes withDescriptor.mem (tcmKey 0 0) 64) = true ∧
    noWatch withDescriptor = true ∧
    (let st := streamOf 0xFFFF000000000000 (readBytes withDescriptor.mem (tcmKey 0 0) 64)
     streamAligned st = true ∧ st.n0 = 2 ∧ st.n1 = 1 ∧ st.ring = false) ∧
    (bound 1).me.streams.length = 1 ∧ (at3 0 0 7).me.batchPending = 0 ∧
    ((at3 0 0 7).modMe (fun sl => { sl with batchPending := 1 })).me.batches.length < 15 ∧
    ((at3 0 0 7).modMe (fun sl => { sl with batches := [(0, 1)] })).me.batches.length > (0 : BitVec 4).toNat ∧
    okTo (readG (at3 0 0 7) 2) 0 (at3 0 0 7) = true ∧ okTo (readG (at3 0 0 7) 3) 7 (at3 0 0 7) = true ∧
    ((0 : Word).extractLsb' 0 32).toNat ≤ (((at3 0 0 7).core 0).counter 0).toNat ∧
    (((at3 0 0 7).core 0).counter 0).toNat < ((7 : Word).extractLsb' 0 32).toNat ∧
    isOk (closing (at3 0 0 7) 0) = true ∧
    15 ≤ ((at3 0 0 7).modMe (fun sl => { sl with
      batchPending := 1, batches := (List.range 15).map (fun i => (i, 1)) })).me.batches.length := by decide

/-- A heap of capacity 2 at TCM offset 0x0400, as R281 lays it out: header, then entries. -/
def heapState (hdr : Word) (es : List Word) : State := { at3 0 0xFFFF000000000400 0x000000033F000000 with
  mem := writeBytes [] (tcmKey 0 0x400) (bytesOf 8 hdr ++ es.flatMap (bytesOf 8)) }

/-- A bad header, an empty heap and a full one. -/
theorem witness_GatingHeap : okTo (readG (heapState 0x200 []) 2) 0xFFFF000000000400 (heapState 0x200 []) = true ∧
    okTo (readG (heapState 0x200 []) 3) 0x000000033F000000 (heapState 0x200 []) = true ∧ noWatch (heapState 0x200 []) = true ∧
    okTo (heapAt (heapState 0x203 []) 0xFFFF000000000400) none (heapState 0x203 []) = true ∧
    okTo (heapAt (heapState 0x200 []) 0xFFFF000000000400) (some ⟨tcmKey 0 0x400, 0x200, 2, []⟩) (heapState 0x200 []) = true := by
  decide

theorem witness_GatingHeap_full :
    okTo (heapAt (heapState 0x202 [0x000000013F000000, 0x000000073F400000]) 0xFFFF000000000400)
      (some ⟨tcmKey 0 0x400, 0x202, 2, [0x000000013F000000, 0x000000073F400000]⟩)
      (heapState 0x202 [0x000000013F000000, 0x000000073F400000]) = true ∧
    isNan (num32 0x7FC00000) = true ∧ isNan (num32 0x3F000000) = false ∧
    worse 0x000000013F000000 0x000000053F000000 = false ∧ worse 0x000000033F000000 0x000000013F000000 = true := by decide

/-- A heap in order, its step with a better entry, and its worst entry taken. -/
theorem witness_GatingHeap_order :
    noNans [0x000000033F000000, 0x000000073F400000] ∧ heapOrdered [0x000000033F000000, 0x000000073F400000] ∧
    hsift ⟨tcmKey 0 0x400, 0x202, 2, [0x000000033F000000, 0x000000073F400000]⟩ 0x000000013F000000 =
      (1, some [0x000000013F000000, 0x000000073F400000]) := by
  refine ⟨?_, ?_, by decide⟩
  · intro x hx
    rcases List.mem_cons.1 hx with e | e
    · subst e; decide
    · rw [List.mem_singleton.1 e]; decide
  · intro e h0 h1
    have : e = 1 := by simp at h1; omega
    subst this; decide

/-- A record of region 0 at ga0 with this header, in an arena of one page. -/
def withRecord (hd : Word) : State :=
  let s := glob 0 0x8000000000001000 7
  { s with
    lines := [(32, { LineInfo.init with slice := some 0 })]
    mem := writeBytes [] 0x1000 (bytesOf 8 hd)
    regions := s.regions.map (fun e => (e.1, { e.2 with
      recBase := 0x7FC0000000001000, recSize := 0x1000, frmBase := 0x7FC0000000002000, frmSize := 0x1000 })) }

/-- What a handle of the record opens as. -/
def opens (s : State) (st refs : Nat) : Bool :=
  match handleEff s 0x8000000000001000 with
  | .ok (.record _ h) _ => h.st == st && h.refs == refs && h.gen == 0
  | _ => false

/-- Whether the record's header lies in a poisoned line. -/
def meetsPoison (s : State) : Bool :=
  match globalLoc s s.who (hAddr 0x8000000000001000) 8 .load with
  | .ok (.home p h, t) => ((touchLine t (p / 128) h).line (p / 128)).poison
  | _ => false

theorem witness_HandleChecks : (0 : Word).extractLsb' 62 2 = 0 ∧ (0xC000000000000000 : Word).extractLsb' 62 2 = 3 ∧
    (0x4000000000001000 : Word).extractLsb' 62 2 = 1 ∧ ((0x4000000000001000 : Word).extractLsb' 48 14).toNat = 0 ∧
    ((0x4001000000001000 : Word).extractLsb' 48 14).toNat = 1 ∧ (0x8000000000001000 : Word).extractLsb' 62 2 = 2 ∧
    ((0x8001000000001000 : Word).extractLsb' 48 14).toNat = 1 ∧
    inRange (glob 0 0 0) (hAddr 0x8000000000001000) 0 0 = false ∧ opens (withRecord 0x100000003) 3 1 = true ∧
    (match openRecord (withRecord 0) (withRecord 0).who 0x8000000000001000 with
      | .ok ((_, h), _) => h.st == 0
      | .error _ => false) = true ∧
    (match openRecord (withRecord 0x103) (withRecord 0x103).who 0x8000000000001000 with
      | .ok ((_, h), _) => h.gen == 1
      | .error _ => false) = true ∧
    meetsPoison { withRecord 3 with lines := [(32, { LineInfo.init with slice := some 0, poison := true })] } = true := by
  decide

/-- A header's line whose last strong access had another size, in debug mode. -/
theorem witness_HandleChecks_mixed :
    let s := ({ withRecord 3 with lines := [(32, { LineInfo.init with slice := some 0, strong := some (0, 4) })] }).modRegion 0
      (fun g => { g with debug := true })
    meetsPoison s = false ∧ (mixedPart s 0x1000 8).isSome = true ∧ (s.region s.me.region).debug = true ∧
    (match globalLoc s s.who (hAddr 0x8000000000001000) 8 .load with
      | .ok (.home p h, t) => p == 0x1000 && touchLine t (p / 128) h == s
      | _ => false) = true := by decide

/-- Records that are THUNK, EVALUATING, VALUE and FAULTED; evaluations free and taken; an immediate; a fault that came. -/
theorem witness_ForceAndPoll : okTo (readG (withRecord 3) 2) 0x8000000000001000 (withRecord 3) = true ∧ (withRecord 3).me.reply = none ∧
    opens (withRecord 0x100000001) 1 1 = true ∧ opens (withRecord 0x100000002) 2 1 = true ∧ opens (withRecord 0x100000003) 3 1 = true ∧
    opens (withRecord 0x100000024) 4 1 = true ∧ causeOf 4 = some .prot ∧
    okTo (handleEff (withRecord 3) 0x4000000000001000) (.tile 0x7FC0000000001000) (withRecord 3) = true ∧
    freeEval (withRecord 1) 0 = some 0 ∧ okTo (probeG (withRecord 1) 1) () (withRecord 1) = true ∧ pushWaits (withRecord 3) 1 = false ∧
    freeEval { withRecord 1 with evals := (List.range 4).map (fun i => (i, { Eval.init with phase := .command })) } 0 = none := by
  decide

/-- References 0, 1, 2 and 65,535; an immediate inside and outside the frame arena; the conditions of MKVAL and HSTATE. -/
theorem witness_ThunkMembers : opens (withRecord 0x000000001) 1 0 = true ∧ opens (withRecord 0x100000001) 1 1 = true ∧
    opens (withRecord 0x200000001) 1 2 = true ∧ opens (withRecord 0xFFFF00000001) 1 65535 = true ∧
    (sparksOf (withRecord 1) 0).length < (withRecord 1).policy.sparkPool ∧
    inRange (withRecord 1) 0x7FC0000000002000 0x7FC0000000002000 0x1000 = true ∧
    inRange (withRecord 1) 0x7FC0000000001000 0x7FC0000000002000 0x1000 = false ∧
    (0, 0x7FC0000000002000) ∈ ({ withRecord 1 with frames := [(0, 0x7FC0000000002000)] } : State).frames ∧
    (0, 0x7FC0000000002000) ∉ (withRecord 1).frames ∧
    isLocal ga0 = false ∧ ga0.extractLsb' 54 9 = 0x1FF ∧ ga0.extractLsb' 48 6 = 0 ∧ ga0.toNat % 64 = 0 ∧
    isLocal 0xFFFF000000000000 = true ∧ (ga0 + 32).toNat % 64 ≠ 0 ∧ (ga0 + 32).extractLsb' 54 9 = 0x1FF ∧
    (0x0040000000000000 : Word).extractLsb' 54 9 ≠ 0x1FF ∧ (0x0040000000000000 : Word).extractLsb' 54 9 ≠ (withRecord 1).dev ∧
    (0x7FC1000000000000 : Word).extractLsb' 48 6 ≠ 0 := by decide

/-- The image of a TRCP of one handle at the TCM's start: w0, a in mode 10 naming g2, b and c NONE, M = N = 1. -/
def image : List Byte :=
  [0xFC41C000, 0x80000002, 0xC0000002, 0xC0000002, 0x00000401, 0, 0, 0].flatMap (fun w : W32 => bytesOf 4 (w.setWidth 64))

/-- A slot with that image, an immediate handle in g2, and an arena of one free record. -/
def withImage (reply : Option Reply) : State :=
  let s := withRecord 0
  { s.modMe (fun sl => { sl with
      g := (sl.g.set 1 0xFFFF000000000000).set 2 0x4000000000001000
      reply := reply }) with
    mem := writeBytes [] (tcmKey 0 0) image
    regions := s.regions.map (fun e => (e.1, { e.2 with recSize := 64 })) }

/-- The checks of SUSPEND's image, before and with the answer of a strict evaluation. -/
theorem witness_ThunkMembers_suspend : okTo (readG (withImage none) 1) 0xFFFF000000000000 (withImage none) = true ∧
    (0xFFFF000000000000 : Word).toNat % 32 = 0 ∧ okVal (localRead (withImage none) 0xFFFF000000000000 32) image = true ∧
    (withImage none).me.reply = none ∧
    (imageSpec (imageWords image).w0).isSome = true ∧
    badWord (imageWords image) (vectorSpec 7) true (formats (imageWords image) 0 0 0) 16 = none ∧
    okTo (imageOperand (withImage none) (imageWords image) 1) (0x4000000000001000, 0) (withImage none) = true ∧
    okTo (imageOperand (withImage none) (imageWords image) 2) (0, 0) (withImage none) = true ∧
    okTo (imageOperand (withImage none) (imageWords image) 3) (0, 0) (withImage none) = true ∧
    noWatch (withImage none) = true ∧ ((withImage none).core 0).sbuf = [] ∧ (withImage (some (.val 5))).me.reply = some (.val 5) ∧
    okTo (operandAgain (withImage (some (.val 5))) (imageWords image) 1) 0x4000000000001000 (withImage (some (.val 5))) = true := by
  decide

/-- What a SUSPEND holds once it is decided: a lazy one and a strict one. -/
def suspOf (pin : Option Nat) : Susp := ⟨⟨0, 0, 0, 0, false, [0x4000000000001000, 0, 0], [], none⟩, 1, pin⟩

/-- The one record of the arena is free; a SUSPEND before and after its decision, with its answer and with no evaluation
free. -/
theorem witness_ThunkMembers_record :
    let s := withImage none
    let d := s.modMe (fun sl => { sl with susp := some (suspOf (some 2048)) })
    let busy : State := { s with evals := (List.range 4).map (fun i => (i, { Eval.init with phase := .command })) }
    (chooseRecord s 0 0 0).isSome = true ∧ (chooseRecord (withRecord 1) 0 0 64).isNone = true ∧
    isLazy s 0 1 (pinned [0x4000000000001000, 0, 0]) = true ∧
    isLazy (s.modRegion 0 (fun g => { g with cap := 0 })) 0 1 (pinned [0x4000000000001000, 0, 0]) = false ∧
    s.me.susp = none ∧ okTo (probeG s 1) () s = true ∧ d.me.susp = some (suspOf (some 2048)) ∧ isOk (release d 4) = true ∧
    isOk (operandsAgain d (imageWords image)) = true ∧ (suspOf none).pin = none ∧
    (match chooseRecord s 0 0 0 with
      | some (r, t) => (mixedHeaders t r [0x4000000000001000, 0, 0]).isNone && (recHeader t r).1.st == 0
      | none => false) = true ∧
    (let m := { s with lines := [(32, { LineInfo.init with slice := some 0, strong := some (0, 4) })] }.modRegion 0
        (fun g => { g with debug := true })
     (match chooseRecord m 0 0 0 with
      | some (r, t) => (mixedHeaders t r [0x4000000000001000, 0, 0]).isSome
      | none => false) = true) ∧ freeEval busy 0 = none ∧
    (match suspendChecks s 1 0xFFFF000000000000 (imageWords image) with
      | .ok u _ => u.pin.isSome && isOk (release (decideSusp u s) 4)
      | _ => false) = true ∧ s.me.status = .ready := by decide

theorem witness_ThunkEvents :
    let s := withRecord 1
    let z : Sleep := ⟨.thunk 0x8000000000001000, 1000, 0, 0, false⟩
    let f : EvalFrame := ⟨0, 0xFC400000, 0, 0, false, [0, 0, 0], [0, 0, 0], some 0x7FC0000000002000⟩
    let e := { s with evals := [(0, { Eval.init with phase := .frame, stack := [f] })] }
    let d := { s with evals := [(0, { Eval.init with phase := .command, done := some none, stack := [f], waiter := some 0 })] }
    (∀ i ∈ [0, 1, 2, 3], (s.eval (4 * 0 + i)).phase = .idle) ∧ s.halted = [] ∧ s.gangs = [] ∧ (s.core 0).stopped = false ∧
    isLiveCore s 0 = true ∧ residentCtx s 0 = 0 ∧ ({ s with halted := [0] } : State).halted.contains (clusterOf s 0) = true ∧
    (match checkHandle s ⟨0, 0, 0⟩ 0x8000000000001000 with
      | .ok (.record _ h, _) => h.st == 1
      | _ => false) = true ∧
    (match checkHandle (withRecord 0x100000003) ⟨0, 0, 0⟩ 0x8000000000001000 with
      | .ok (.record _ h, _) => h.st != 1
      | _ => false) = true ∧
    (match checkHandle s ⟨0, 0, 0⟩ 0 with
      | .error _ => true
      | .ok _ => false) = true ∧
    z.kind = .thunk 0x8000000000001000 ∧ (e.eval 0).phase = .frame ∧ (e.eval 0).stack = [f] ∧ f.ops.getD 2 0 = 0 ∧
    queueRoom e 0 (evalCommand e 0 f 0x7FC0000000002000).words = true ∧ (d.eval 0).phase = .command ∧
    (d.eval 0).done = some none ∧ (d.eval 0).waiter = some 0 ∧ (recAt s 0 (hAddr 0x8000000000001000)).isSome = true := by decide

/-- A snapshot of the root over a line at ga0, of this level and serial number. -/
def snapOf (level seq : Nat) (ending : Option (Bool × BitVec 1024 × Nat)) : Snap :=
  ⟨0, level, seq, ga0, 128, false, 0, 0, ending, some ⟨0, 0, 0⟩, some ⟨0, 0, 0⟩⟩

set_option exponentiation.threshold 2000 in
/-- SNAP of one line with no snapshot live and with eight. -/
theorem witness_SnapshotInstructions :
    let s := glob 0 ga0 128
    okTo (readG s 2) ga0 s = true ∧ okTo (readG s 3) 128 s = true ∧ s.me.reply = none ∧ ga0.toNat % 128 = 0 ∧
    ga0.getLsbD 63 = false ∧ devOf s ga0 = 0x1FF ∧ vaOf ga0 + 128 ≤ 2 ^ 54 ∧ snapRefused s s.me.region ga0 128 = false ∧
    uncovered s s.me.region (normAddr s ga0).toNat ((normAddr s ga0).toNat + 128) 9 = none ∧ isOk (waitDrained s) = true ∧
    okTo (probeG s 1) () s = true ∧ (liveSnaps s 0).length < 8 ∧ (s.snaps.filter (fun m => m.ending.isNone)).length < 256 ∧
    (liveSnaps { s with snaps := (List.range 8).map (fun i => snapOf i (i + 1) none) } 0).length = 8 ∧
    isOk (writeG (answered 5 0 ga0 128) 1 5) = true ∧ (answered 5 0 ga0 128).me.reply = some (.val 5) ∧
    blockClear s 0 0x1000 1 := by
  refine ⟨?_, ?_, ?_, ?_, ?_, ?_, ?_, ?_, ?_, ?_, ?_, ?_, ?_, ?_, ?_, ?_, ?_⟩ <;> first | decide | (intro q hq; simp [glob, State.region, mapGet, Region.root] at hq)

set_option exponentiation.threshold 2000 in
/-- The innermost snapshot, one that is not, and an identifier of none. -/
theorem witness_SnapshotInstructions_ends :
    let two : State := { glob 0 0x2000000000000002 0 with snaps := [snapOf 0 1 none, snapOf 1 2 none] }
    snapId (snapOf 1 2 none) = 0x2000000000000002 ∧
    snapNamed two 0 0x2000000000000002 = some (snapOf 1 2 none) ∧ (snapOf 1 2 none).level + 1 = (liveSnaps two 0).length ∧
    snapNamed two 0 1 = some (snapOf 0 1 none) ∧ (snapOf 0 1 none).level + 1 ≠ (liveSnaps two 0).length ∧
    snapNamed two 0 2 = none ∧ okTo (probeG two 1) () two = true ∧ ({ snapOf 1 2 none with broken := true } : Snap).broken = true ∧
    two.me.reply = none ∧ isOk (waitDrained two) = true ∧ isOk (writeG two 1 0) = true := by decide

/-- A snapshot in progress over ga0, and a pool of one line for it. -/
def snapped : State := { glob 0 0 0 with snaps := [{ snapOf 0 1 none with recorded := BitVec.allOnes 1024 }] }

/-- See snapped. -/
def pooled : State := snapped.modRegion 0 (fun g => { g with shdBase := 0x7FC0000000010000, shdSize := 128 })

theorem pooled_line : chooseLine pooled 0 = some (0x7FC0000000010000, pooled.draw.2) := by
  have hn : (pooled.region 0).shdSize.toNat / 128 = 1 := by decide
  have hb : normAddr pooled (pooled.region 0).shdBase = 0x7FC0000000010000 := by decide
  have hl : poolLines pooled = [] := by decide
  simp only [chooseLine, hn, hl, Nat.mod_one, Nat.mul_zero, BitVec.ofNat_eq_ofNat, BitVec.add_zero, hb]; rfl

set_option exponentiation.threshold 2000 in
/-- A write that a snapshot needs, with room in the region's pool and without. -/
theorem witness_SnapshotEvents_shadow : inNeed pooled ga0 0x1000 0 = pooled.snaps ∧ inNeed snapped ga0 0x1000 0 = snapped.snaps ∧
    (∃ s1, takePoolLine pooled 0 0 = some (0x7FC0000000010000, s1) ∧ (charge s1 0 [(.shadows, 1)]).isSome = true) ∧
    takePoolLine snapped 0 0 = none := by
  refine ⟨by decide, by decide, ⟨pooled.draw.2, ?_, by decide⟩, by decide⟩
  simp only [takePoolLine, pooled_line]; decide

set_option exponentiation.threshold 2000 in
/-- Announcements of a snapshot and of its end by REJECT, with a line that has a shadow of it. -/
theorem witness_SnapshotEvents :
    let n := snapOf 0 1 none
    let e := { snapOf 0 1 (some (true, 0, 0)) with recorded := 1, snapWait := none }
    let h : Shadow := ⟨0x7FC0000000010000, List.replicate 128 7, false, 1, 0, 0⟩
    let s := (glob 0 ga0 128).modMe (fun sl => { sl with status := .waiting .reply })
    let t := { s with snaps := [e], lines := [(32, { LineInfo.init with shadows := [h] })] }
    n.ending = none ∧ n.recorded.getLsbD 0 = false ∧ isLiveCore s 0 = true ∧ n.snapWait = some (waiterOf s 0) ∧ e.snapWait = none ∧
    e.recorded.getLsbD 0 = true ∧ storesFirst s e 0 = false ∧ s.endings = [] ∧ e.endWait = some (waiterOf s 0) ∧
    allHomes s (0 ||| 1#1024 <<< 0) = false ∧ allHomes s (BitVec.allOnes 1024 ||| 1#1024 <<< 0) = true ∧ (s.slot n.slot).status = .waiting .reply ∧
    e.ending = some (true, 0, 0) ∧ (0 : BitVec 1024).getLsbD 0 = false ∧ h.region = e.region ∧ h.home = 0 ∧
    h.mask.getLsbD e.level = true ∧ h.bytes.length = 128 ∧ Memory.wf t.mem = true ∧ t.lines = [(32, { LineInfo.init with shadows := [h] })] ∧
    (t.region 0).phys = none := by decide

/-- A group of two members, this device member 0 and the hub. -/
def groupOf : Group := ⟨[0x1FF, 5], 0, 0, 2, 0, 1, 0, 0x7FC0000000010000⟩

/-- The state with the group, and a block word in g3: blk 7, arg 1, group 0, member 0. -/
def grouped (bw : Word) : State := { glob 0 ga0 bw with groups := [(0, groupOf)], present := [5] }

/-- A group of the region, of another and none; the fields of a SHUF's and a SIDE's block word. -/
theorem witness_ShuffleInstructions :
    let bw : Word := 0x0000000700010000
    let s := grouped bw
    okTo (readG s 2) ga0 s = true ∧ okTo (readG s 3) bw s = true ∧ s.me.reply = none ∧ ga0.toNat % 64 = 0 ∧
    mapGet s.groups (bwGrp bw) = some groupOf ∧ mapGet s.groups (bwGrp 1) = none ∧ groupOf.region = s.me.region ∧
    ({ groupOf with region := 3 } : Group).region ≠ s.me.region ∧ bw.extractLsb' 11 5 = 0 ∧ bw.extractLsb' 6 2 = 0 ∧
    bwDst bw < groupOf.cnt ∧ bw.extractLsb' 6 10 = 0 ∧ heldBlock s (bwGrp bw) (bwBlk bw) = none ∧ groupOf.hub = groupOf.memb ∧
    s.me.status = .ready ∧ groupAbsent s groupOf = false ∧ groupAbsent { s with present := [] } groupOf = true ∧ cupFree s ≠ 0 ∧
    okTo (probeG s 1) () s = true ∧ (heldBlock { s with cupboard := [⟨0, 7, 2000, [], true⟩] } (bwGrp bw) (bwBlk bw)).isSome = true ∧
    okTo (sourceChecks s bw ga0 2048 false false) () s = true ∧
    cupFree { s with cupLost := 16384 } = 0 ∧ isOk (release s 5) = true ∧ isOk (writeG s 1 0) = true := by decide

/-- The source of a SHUF of 2,048 bytes passes its checks. -/
theorem witness_ShuffleInstructions_source : okTo (sourceChecks (grouped 0x0000000700010000) 0x0000000700010000 ga0 2048 false true) ()
    (grouped 0x0000000700010000) = true := by decide

/-- A source at the TCM's start, which is read at once. -/
theorem witness_ShuffleInstructions_read :
    let s := { glob 0 0xFFFF000000000000 0x0000000700010000 with groups := [(0, groupOf)], present := [5] }
    okTo (readG s 2) 0xFFFF000000000000 s = true ∧ s.me.reply = none ∧
    okTo (sourceChecks s 0x0000000700010000 0xFFFF000000000000 2048 false true) () s = true ∧ isOk (release s 5) = true ∧
    isOk (loadRange s 0xFFFF000000000000 2048) = true ∧ okTo (probeG s 1) () s = true := by decide

/-- The word of a DISP is in gd: one row of 64 bytes for member 0; and the shelf of an UNSIDE. -/
theorem witness_ShuffleInstructions_disp :
    let w : Word := 0x10000
    let s := { glob w ga0 1 with groups := [(0, groupOf)], present := [5] }
    okTo (readG s 1) w s = true ∧ s.me.reply = none ∧ mapGet s.groups (bwGrp w) = some groupOf ∧ w.extractLsb' 32 32 = 0 ∧
    w.extractLsb' 6 2 = 0 ∧ bwDst w < groupOf.cnt ∧ groupAbsent s groupOf = false ∧ okTo (probeG s 1) () s = true ∧ bwDst w = groupOf.memb ∧
    64 * ((w.extractLsb' 11 5).toNat + 1) = 64 ∧ okTo (sourceChecks s w ga0 64 false true) () s = true ∧
    isOk (release s 5) = true ∧ (0x0000000700000000 : Word).extractLsb' 6 26 = 0 ∧ isOk (writeG s 1 1) = true := by decide

/-- An advertisement in time and one too near; a shelf entry and a cupboard entry whose time is over and not. -/
theorem witness_ShuffleEvents :
    let a : Advert := ⟨0, 0, 7, 2000, 0, 0, true, false⟩
    let s := { (grouped 0).modMe (fun sl => { sl with status := .waiting .reply }) with adverts := [a] }
    let c : CupEntry := ⟨0, 7, 900, [], true⟩
    s.codeQueue = [] ∧ mapGet s.groups a.grp = some groupOf ∧ a.memb = groupOf.memb ∧ (s.slot a.slot).status = .waiting .reply ∧
    ¬ a.until_.toNat ≤ s.time.toNat + max 16 s.policy.margin ∧ (1064 : Word).toNat ≤ s.time.toNat + max 16 s.policy.margin ∧
    ({ s with shelf := [⟨0, 0, 7, 1000⟩] } : State).shelf[0]? = some ⟨0, 0, 7, 1000⟩ ∧ (1000 : Word).toNat ≤ s.time.toNat ∧
    ({ s with cupboard := [c] } : State).cupboard[0]? = some c ∧ s.shelf.length < 65536 ∧
    65536 ≤ (List.replicate 65536 (⟨1, 0, 0, 0⟩ : Shelved)).length ∧ a.withdrawn = false ∧
    ({ a with withdrawn := true } : Advert).withdrawn = true ∧ (s.slot a.slot).gen = a.gen ∧
    extending { s with adverts := [] } c = false := by
  refine ⟨by decide, by decide, by decide, by decide, by decide, by decide, by decide, by decide, by decide, by decide, Nat.le_of_eq List.length_replicate.symm, by decide, by decide, by decide, by decide⟩

/-- A posted block, in the coding queue and in the retransmit buffer, its packet, and a NACK for it. -/
theorem witness_ShuffleEvents_blocks :
    let p : Post := ⟨0, 7, 0, 1, 0, 0, 0, [3]⟩
    let z : Sleep := ⟨.shuf, 1000, 0, 0, false⟩
    let s := (grouped 0).modMe (fun sl => { sl with status := .asleep z })
    let n : Nack := ⟨0, 0, 7, 1, 0, 0⟩
    mapGet s.groups p.grp = some groupOf ∧ p.sender = groupOf.memb ∧ (s.slot p.slot).status = .asleep z ∧ z.kind = .shuf ∧
    s.codeQueue = [] ∧ 0 < s.policy.window ∧ groupOf.hub = groupOf.memb ∧ p.dst = groupOf.memb ∧ groupOf.region = p.region ∧
    s.time.toNat < (1000 : Word).toNat + min 4096 s.policy.window ∧ (744 : Word).toNat + min 4096 s.policy.window ≤ s.time.toNat ∧
    p.grp = n.grp ∧ p.dst = n.memb ∧ p.blk = n.blk ∧ p.arg = n.arg ∧ n.memb = groupOf.memb ∧
    1024 ≤ (List.replicate 1024 (⟨p, 0⟩ : Queued)).length := by
  refine ⟨?_, ?_, ?_, ?_, ?_, ?_, ?_, ?_, ?_, ?_, ?_, ?_, ?_, ?_, ?_, ?_, ?_⟩ <;> first | exact Nat.le_of_eq List.length_replicate.symm | decide

/-- A row for one expert, with room and with none. -/
theorem witness_ShuffleEvents_rows :
    let x : Expert := ⟨0, 0, 1, 0, 0, 0, 0, 0⟩
    let s := { grouped 0 with experts := [(63, x)] }
    namedExperts s (1#64 <<< 63) = [63] ∧ mapGet s.experts 63 = some x ∧ x.die < 8 ∧ x.kept < x.cap ∧
    ({ x with kept := 1 } : Expert).cap ≤ 1 := by decide

/-- An image of a region block at ga0 whose cap this byte is. -/
def blockState (cap : Byte) : State := { glob 0 ga0 0 with mem := writeBytes [] 0x10D0 [cap] }

/-- The block's bytes: everything 0 but for the cap. -/
def blockOf (cap : Byte) : List Byte := List.replicate 208 0 ++ cap :: List.replicate 303 0

/-- RCREATE of a block that its parent admits and of one whose cap is 0. -/
theorem witness_RegionInstructions_create : okTo (readG (blockState 1) 2) ga0 (blockState 1) = true ∧ ga0.toNat % 512 = 0 ∧
    isLocal ga0 = false ∧ devOf (blockState 1) ga0 = 0x1FF ∧ (childRegion (blockState 1) 0 (blockOf 1)).isSome = true ∧
    childRegion (blockState 0) 0 (blockOf 0) = none ∧ freeNumber (blockState 1) 1 16383 = some 1 ∧
    (recAt (blockState 1) 0 ga0).isSome = true ∧ isOk (writeG (blockState 1) 1 1) = true := by decide

theorem witness_RegionInstructions_block : okTo (sourceChecks (blockState 1) ga0 ga0 512 false true) () (blockState 1) = true ∧
    isOk (release (blockState 1) 4) = true := by decide

/-- The root, named by 0, and no region; limits below the count, in between and above the parent's; an entry of the table
in each status. -/
theorem witness_RegionInstructions :
    let s := glob 0 0 0
    let e := glob 0 0x7FC0000000000000 0x40000000
    let as := fun (st : BitVec 2) => e.modRegion 0 (fun g => { g with res := g.res.set 0 ⟨0x7FC0000000000000, 0x40000000, st⟩ })
    okTo (blockChecks s 0) () s = true ∧ namedRegion s 0 = some 0 ∧ okTo (blockChecks s ga0) () s = true ∧
    namedRegion s ga0 = none ∧ (budgetOf s 0 6).2.1 ≤ 16 ∧ 16 ≤ (budgetOf s 0 6).2.2 ∧ (budgetOf s 0 6).2.2 < 17 ∧
    3 < (budgetOf (s.modRegion 0 (fun g => { g with budgets := g.budgets.set 0 ⟨9, 4⟩ })) 0 0).2.1 ∧
    okTo (readG e 2) 0x7FC0000000000000 e = true ∧ okTo (readG e 3) 0x40000000 e = true ∧ e.me.reply = none ∧
    entryExact e 0 0x7FC0000000000000 0x40000000 = some (0, ⟨0x7FC0000000000000, 0x40000000, 2⟩) ∧
    entryExact e 0 0x7FC0000000000000 0x1000 = none ∧
    entryExact (as 0) 0 0x7FC0000000000000 0x40000000 = some (0, ⟨0x7FC0000000000000, 0x40000000, 0⟩) ∧
    entryExact (as 3) 0 0x7FC0000000000000 0x40000000 = some (0, ⟨0x7FC0000000000000, 0x40000000, 3⟩) := by decide

/-- AT with a payload in local memory and a task message's word, with 16 alarms and with none; WAITT of both sides; GANG of
near and far times; RDONE of the slot's own region and of one below it. -/
theorem witness_RegionInstructions_time :
    let d : Word := 0x7FC0000000000000
    let s := glob 0xFFFF000000000000 d 2000
    let full := s.modCore 0 (fun k => { k with alarms := List.replicate 16 ⟨2000, 0, 0, 0, d, 0, []⟩ })
    let child : Region := { Region.root with addr := ga0, parent := 0 }
    let two := { glob 0 ga0 0 with regions := (glob 0 ga0 0).regions ++ [(1, child)] }
    okTo (readG s 1) 0xFFFF000000000000 s = true ∧ (0xFFFF000000000000 : Word).toNat % 8 = 0 ∧
    isOk (localRead s 0xFFFF000000000000 72) = true ∧ d.getLsbD 63 = false ∧ isHere s (destDev d) = true ∧
    okTo (checkDest s d) () s = true ∧ okTo (checkWatch s 0xFFFF000000000000 72 true false) () s = true ∧
    (s.core s.myCore).alarms.length < 16 ∧ 16 ≤ (full.core full.myCore).alarms.length ∧
    (1000 : Word).toNat ≤ s.time.toNat ∧ s.time.toNat < (1001 : Word).toNat ∧ s.me.region = 0 ∧ ga0.toNat % 16 = 0 ∧
    (10999 : Word).toNat < s.time.toNat + 10000 ∧ ¬ (11000 : Word).toNat < s.time.toNat + 10000 ∧ s.clockFaults = [] ∧ s.gangs = [] ∧
    ga0 ≠ 0 ∧ namedRegion two ga0 = some 1 ∧ isBelow two two.me.region 1 16384 = false ∧
    isBelow (two.modMe (fun sl => { sl with region := 1 })) 1 1 16384 = true := by decide

/-- The descriptor of a launch of one task in the root: pc, rank count, task arguments and ranges at ga0. -/
def launchOf (n : Byte) : List Byte :=
  bytesOf 8 0 ++ bytesOf 8 0xFFFF000000000000 ++ [0, 0, 0, 0, n, 0, 0, 0] ++ bytesOf 8 0 ++ bytesOf 8 ga0 ++ bytesOf 8 ga0 ++
    bytesOf 8 0 ++ bytesOf 8 0

/-- A launch that is accepted and one of no tasks. -/
theorem witness_RegionInstructions_launch :
    (match checkLaunch (glob 0 ga0 0) 0 0 false (launchOf 1) with
      | .ok l => l.time == 0 && l.ranges == [(0, 0)] && l.pc == 0xFFFF000000000000
      | .error _ => false) = true ∧
    (match checkLaunch (glob 0 ga0 0) 0 0 false (launchOf 0) with
      | .error st => st == 1
      | .ok _ => false) = true ∧
    okTo (sourceChecks (glob 0 ga0 0) ga0 ga0 64 false true) () (glob 0 ga0 0) = true ∧ (launchOf 1).length = 64 ∧
    (match checkLaunch (glob 0 ga0 0) 0 0 false (List.replicate 56 0 ++ bytesOf 8 5000) with
      | .ok l => l.time != 0
      | .error _ => true) = true ∧ ({ glob 0 ga0 0 with clockFaults := [0] } : State).clockFaults ≠ [] := by decide

/-- A launch whose entry is under no lease does not start. -/
theorem witness_RegionEvents_held :
    let l : Launch := ⟨0, 0, 0, 0xFFFF000000000000, ga0, 0, [(ga0, 16)], 0, false, [], []⟩
    let s := (glob 0 0 0).modRegion 0 (fun g => { g with res := g.res.set 0 ⟨0x7FC0000000000000, 0x40000000, 0⟩ })
    startLaunch s l = none := by decide

/-- A requested entry over a mapped range, its sleeper, an ended lease, alarms and a sleeper of WAITT. -/
theorem witness_RegionEvents :
    let e : ResEntry := ⟨0x7FC0000000000000, 0x40000000, 1⟩
    let z : Sleep := ⟨.reside 0, 1000, 0, 0, false⟩
    let s := ((glob 0 0 0).modRegion 0 (fun g => { g with res := g.res.set 0 e })).modMe (fun sl => { sl with status := .asleep z })
    let a : Alarm := ⟨1000, 0, 0, 0, 0x7FC0000000000000, 0, List.replicate 64 1⟩
    let t := s.modCore 0 (fun k => { k with alarms := [a] })
    isLive s 0 = true ∧ ((s.region 0).res[0]).st = 1 ∧ e.base.getLsbD 63 = false ∧ devOf s e.base = 0x1FF ∧
    mapped s (vaOf e.base) e.len.toNat (e.len.toNat / 4096 + 2) = true ∧ s.slots = [(0, s.slot 0)] ∧ (s.slot 0).region = 0 ∧
    (s.slot 0).status = .asleep z ∧ z.kind = .reside 0 ∧
    accessing { s with leaseEnds := [⟨0, 0, e.base, 4096, true⟩] } 0 e.base 4096 = false ∧ (t.core 0).alarms[0]? = some a ∧
    a.time.toNat ≤ t.time.toNat ∧ outgoing t 0 < 4 ∧ a.dest.getLsbD 63 = false ∧ t.time.toNat < (1001 : Word).toNat := by decide

/-- A launch of one task in a leased region with a resident context starts. -/
theorem witness_RegionEvents_start :
    (startLaunch (glob 0 0 0) ⟨0, 0, 0, 0xFFFF000000000000, ga0, 0, [(ga0, 16)], 0, false, [], []⟩).isSome = true := by decide

/-- The state with core 0 alone in partition 1. -/
def parted : State := (glob 0 0 0).modCore 0 (fun k => { k with part := 1 })

theorem parted_cores : partCores parted 1 = [0] := by decide

/-- A slot of context 0 to switch out and a drawer to switch in, in partition 1. -/
theorem witness_RegionEvents_gang :
    let g : Gang := ⟨1, 1000, some 0, some 1, false⟩
    g.outDone = false ∧ g.time.toNat ≤ parted.time.toNat ∧ g.out = some 0 ∧ (mapGet parted.resident g.part).getD 0 = 0 ∧
    readyToSwitch parted (partCores parted 1) 0 = true ∧ ctxSlots parted (partCores parted 1) 0 = [0] ∧ parted.evals = [] ∧
    (parted.slot 0).ctx = 0 ∧ (parted.slot 0).status ≠ .waiting .accept ∧ waitsCheck parted 0 = false ∧ 8193 / 8192 = 1 ∧ coreOf (8193 % 8192) ∈ partCores parted 1 ∧
    parted.flash = none ∧ parted.snaps = [] ∧
    8192 * (8193 % 8192) + 8192 ≤ ((parted.modRegion 0 (fun g => { g with drwSize := 0x4010000 })).region 0).drwSize.toNat := by
  rw [parted_cores]; decide

/-- A fault with a handler, one while INH is set, and an unhandled one; a parked slot and one that is not. -/
theorem witness_Exceptions :
    let h := ((at3 0 7 4).modMe (fun sl => { sl with tvec := 0xFFFF000000000200 })).modRegion 0 (fun g => { g with hmask := BitVec.allOnes 32 })
    let p := (at3 0 0 4).modMe (fun sl => { sl with status := .parked none })
    handles (h.region 0) .prot = true ∧ (h.slot 0).inh = false ∧ (h.slot 0).tvec ≠ 0 ∧ handles ((at3 0 7 4).region 0) .prot = false ∧
    (h.modMe (fun sl => { sl with inh := true })).me.inh = true ∧ Cause.prot ≠ .fatalhw ∧ causeOf 0 = none ∧ causeOf 0x15 = none ∧
    okTo (readG h 2) 7 h = true ∧ h.me.region = 0 ∧ parkedAt p 0 = 0 ∧ parkedAt h 0 = 1 ∧ parkedAt h 8192 = 1 ∧
    okTo (readG p 2) 0 p = true ∧ okTo (readG p 3) 4 p = true ∧ isOk (writeG p 1 0) = true := by decide

/-- A slot of region 1. -/
def userSlot : State := (at3 0 5 6).modMe (fun sl => { sl with region := 1 })

theorem witness_PrivilegeChecks : userSlot.me.region ≠ 0 ∧ crKind 0x1B = some .sup ∧ crKind 0x38 = some .sup ∧
    (tstat userSlot).getLsbD 1 = false ∧ (tstat (at3 0 0 0)).getLsbD 1 = true := by decide

/-- A register of each kind, read in gd and written from ga; a window with space 2 and one with 3; a device register before
and after its event; groups 17 and 18 of HGSEL. -/
theorem witness_ControlRegisters :
    let w : DevWrite := ⟨0, 0x37, .write, 0xE0000000000FF000⟩
    let s := at3 0 0xC000000000000000 0
    let wait := (at3 0 0 0).modMe (fun sl => { sl with status := .waiting .reply })
    okTo (readG s 2) 0xC000000000000000 s = true ∧ isOk (writeG s 1 0) = true ∧ s.me.region = 0 ∧ userSlot.me.region ≠ 0 ∧
    (0xC000000000000000 : Word).extractLsb' 61 2 ≠ 3 ∧ (7 : Nat) < 8 ∧ 0x3A ≤ (0x3A : BitVec 6).toNat ∧ crRemote 0x28 = true ∧
    s.me.reply = none ∧ (answered 5 0 0 0).me.reply = some (.val 5) ∧ w.op = .write ∧ (wait.slot w.slot).status = .waiting .reply ∧
    (leavingLines wait).any (isShared wait) = false ∧
    (let sh := { wait with lines := [(2 ^ 40, { LineInfo.init with slice := some 0, sharers := [0] })] }
     (leavingLines sh).any (isShared sh) = true) ∧
    w.cr = BitVec.ofNat 6 (0x28 + 15) ∧ (hgGroup { wait with hgsel := 0x7FF }).2 ≥ 18 ∧ (hgGroup wait).2 < 18 ∧
    noteOk wait ga0 = true ∧ noteOk wait 4 = false ∧ noteOk wait 0 = true ∧ w.v.getLsbD 63 = true := by decide

/-- A trap record. -/
def recordOf (kind : BitVec 2) : TrapRec := ⟨kind, causeCode .prot, 0, 0, 0x1FF, 0, 0x100, 7, 0, 1000, 0, none⟩

/-- The trap queue empty and with a record, a local place for it; sharers of a line and none; a parked access; a mirror that
records and one that does not; a halted cluster and one that is not. -/
theorem witness_SystemInstructions :
    let s := glob 0 0xFFFF000000000000 0
    let acc : RemoteAccess := ⟨5, 9, ga0, .load 8 false none, 0, false, false⟩
    let p : ParkedAccess := ⟨acc, recordOf 2, some 4, 900⟩
    let m : Mirror := ⟨true, 0, some 1, []⟩
    let on := { s with mirrors := [(0, m)] }
    okTo (readG s 2) 0xFFFF000000000000 s = true ∧ okTo (readG s 3) 0 s = true ∧ (0xFFFF000000000000 : Word).toNat % 64 = 0 ∧
    okTo (localKey s 0xFFFF000000000000 64 .store) (tcmKey 0 0) s = true ∧ bankStored s = false ∧
    inBanks (tcmKey 0 0) = false ∧ bankFree s s.myCore (tcmKey 0 0) 64 = true ∧ (recordBytes (recordOf 1)).length = 64 ∧
    okTo (localKey s 0xFFFF000100000000 64 .store) (spadKey 0 0) s = true ∧ inBanks (spadKey 0 0) = true ∧
    bankFree s s.myCore (spadKey 0 0) 64 = true ∧ (bankDone s (spadKey 0 0) 64 false).isNone = true ∧
    bankStored (s.modMe (fun sl => { sl with
      bank := some ⟨spadKey 0 0, 64, some (0xFFFF000100000000, List.replicate 64 0), [], [], true⟩ })) = true ∧
    okTo (checkWatch s 0xFFFF000000000000 64 false true) () s = true ∧ s.tq = [] ∧ s.me.region = 0 ∧ s.me.reply = none ∧
    isOk (waitDrained s) = true ∧ okTo (probeG s 1) () s = true ∧ (s.lines.map (fun e => e.2.sharers)) = [] ∧
    ({ LineInfo.init with sharers := [0] } : LineInfo).sharers ≠ [] ∧ s.invals = [] ∧
    ({ s with invals := [⟨0, 32, none, none⟩] } : State).invals ≠ [] ∧ (0x1000 : Word).toNat % 4096 = 0 ∧ s.faultBuf = [] ∧
    p.seq = some 4 ∧ (4 : W32).setWidth 64 = (4 : Word) ∧ (1 : Word).getLsbD 0 = true ∧ (2 : Word).getLsbD 0 = false ∧
    (remoteTry s acc).isSome = true ∧ isRecording on (mirrorOf on 0) = true ∧ isRecording s (mirrorOf s 0) = false ∧
    isRecording { on with cycle := 1 } (mirrorOf { on with cycle := 1 } 0) = false ∧ s.flash = none ∧ s.clockFaults = [] ∧
    (1000 : Word).toNat ≤ s.time.toNat ∧ s.time.toNat < (1001 : Word).toNat ∧ (0 : Nat) ∉ s.halted ∧
    (63 : Nat) ∈ ({ s with halted := [63] } : State).halted ∧ isOk (writeG s 1 0) = true := by decide

/-- A store anywhere in the mapped GiB passes its checks. -/
theorem glob_store_ok (a : Word) (n : Nat) (h : 0x7FC0000000000000 ≤ a.toNat) (hn : a.toNat + n ≤ 0x7FC0000040000000)
    (h1 : 0 < n) : ∃ x, accessLoc (glob 0 0 ga0) ⟨0, 0, 0⟩ a n .store = .ok x := by
  have l : isLocal a = false := by
    simp only [isLocal, beq_eq_false_iff_ne, ne_eq, ← BitVec.toNat_inj, BitVec.extractLsb'_toNat, Nat.shiftRight_eq_div_pow]
    simp; omega
  have b : a.getLsbD 63 = false := by
    rw [← Bool.not_eq_true, BitVec.getLsbD, Nat.testBit_eq_decide_div_mod_eq]
    simp; omega
  have d9 : a.extractLsb' 54 9 = 0x1FF#9 := by
    simp only [← BitVec.toNat_inj, BitVec.extractLsb'_toNat, Nat.shiftRight_eq_div_pow]
    simp; omega
  have na : normAddr (glob 0 0 ga0) a = a := by
    unfold normAddr
    split
    · apply BitVec.eq_of_toNat_eq
      simp only [BitVec.toNat_append, BitVec.extractLsb'_toNat, Nat.shiftRight_eq_div_pow, ← Nat.shiftLeft_add_eq_or_of_lt (Nat.mod_lt _ (by decide : 0 < 2 ^ 54))]
      simp [Nat.shiftLeft_eq]; omega
    · rfl
  have va : vaOf a = a.toNat - 0x7FC0000000000000 := by
    simp only [vaOf, BitVec.extractLsb'_toNat, Nat.shiftRight_eq_div_pow]
    omega
  have dv : devOf (glob 0 0 ga0) a = 0x1FF := by rw [devOf, na]; exact d9
  have hr : resident (glob 0 0 ga0) 0 a n = true := by
    have e : ((glob 0 0 ga0).region 0).res.toList.any (fun e => e == ⟨0x7FC0000000000000, 0x40000000, 2⟩) = true := by decide
    unfold resident
    rw [na]
    obtain ⟨e, he, hq⟩ := List.any_eq_true.1 e
    refine List.any_eq_true.2 ⟨e, he, ?_⟩
    have : e = ⟨0x7FC0000000000000, 0x40000000, 2⟩ := by simpa using hq
    subst this
    have q : (normAddr (glob 0 0 ga0) 0x7FC0000000000000).toNat = 0x7FC0000000000000 := by decide
    simp only [q]
    simp; omega
  have lf : leafFor (glob 0 0 ga0) (.core 0) (vaOf a) = .ok ((0xF000000000000000, 30), glob 0 0 ga0) := by
    have hw : walksOf (glob 0 0 ga0) (.core 0) = [⟨0, 30, 0xF000000000000000, []⟩] := by decide
    have z : vaOf a / 2 ^ 30 = 0 := by omega
    have fnd : (walksOf (glob 0 0 ga0) (.core 0)).find? (fun e => e.page == vaOf a / 2 ^ e.bits) =
        some ⟨0, 30, 0xF000000000000000, []⟩ := by rw [hw, List.find?_cons_of_pos]; simp only [z]; decide
    unfold leafFor walk
    rw [fnd]
  have g : globalLoc (glob 0 0 ga0) ⟨0, 0, 0⟩ a n .store = .ok (.home (frameOf 0xF000000000000000 30 (vaOf a)) 0, glob 0 0 ga0) := by
    have ho : ∀ p, homeOf (glob 0 0 ga0) ((0xF000000000000000#64 : Word).extractLsb' 44 12) p = some 0 := by
      intro p; unfold homeOf; rw [if_neg (by decide), if_pos (by decide)]; decide
    have dr : ∀ p, debugRefuses (glob 0 0 ga0) ⟨0, 0, 0⟩ a p n .store = false := by
      intro p; unfold debugRefuses softRefuses; rw [show ((glob 0 0 ga0).region 0).debug = false from by decide]; rfl
    have fr : frameOf 0xF000000000000000 30 (vaOf a) = vaOf a := by
      unfold frameOf
      rw [show ((0xF000000000000000 : Word).extractLsb' 12 28).toNat * 4096 / 2 ^ 30 * 2 ^ 30 = 0 from by decide,
        Nat.zero_add, Nat.mod_eq_of_lt (by omega)]
    have nj : inJournal (glob 0 0 ga0) (frameOf 0xF000000000000000 30 (vaOf a)) n = false := by
      have jb : (glob 0 0 ga0).jbase.toNat = 0xFFFF000000 := by decide
      rw [fr]; unfold inJournal; rw [jb]
      simp; omega
    unfold globalLoc
    simp only [b, dv, if_false, if_true, Bool.false_eq_true]
    rw [show (Who.mk 0 0 0).reader = .core 0 from by decide, lf]
    simp only [dr, hr, nj]
    rfl
  exact ⟨_, by rw [accessLoc, l]; exact g⟩

/-- The pieces of a range lie in it. -/
theorem pieces_within (fuel : Nat) : ∀ (a : Word) (n : Nat), a.toNat + n < 2 ^ 64 → ∀ p ∈ linePieces a n fuel,
    a.toNat ≤ p.1.toNat ∧ p.1.toNat + p.2 ≤ a.toNat + n ∧ 0 < p.2 := by
  induction fuel with
  | zero => intro a n _ p hp; simp [linePieces] at hp
  | succ k ih =>
    intro a n h p hp
    simp only [linePieces] at hp
    split at hp
    · simp at hp
    · split at hp
      · simp at hp; subst hp; simp; omega
      · rcases List.mem_cons.1 hp with e | e
        · subst e; simp; omega
        · have q : (a + BitVec.ofNat 64 (128 - a.toNat % 128)).toNat = a.toNat + (128 - a.toNat % 128) := by
            rw [BitVec.toNat_add, BitVec.toNat_ofNat]; omega
          have := ih _ _ (by rw [q]; omega) p e
          omega

/-- The area of a dump passes its checks where they do one by one. -/
theorem traceArea_ok {s : State} {a : Word} {k n : Nat} (h : checkAlign s a k = .ok () s)
    (h2 : check s (!(a.getLsbD 63) && devOf s a == 0x1FF) .prot a = .ok () s) (h3 : rangeFault s s.who a n .store = none) :
    traceArea s a k n = .ok () s := by
  unfold traceArea
  rw [h]
  simp only [Eff.andThen]
  rw [h2]
  simp only [h3]

/-- A mirror's whole image fits the mapped first GiB. -/
theorem glob_traceArea : okTo (traceArea (glob 0 0 ga0) ga0 4096 mirrorBytes) () (glob 0 0 ga0) = true := by
  have f : rangeFault (glob 0 0 ga0) ⟨0, 0, 0⟩ ga0 mirrorBytes .store = none := by
    unfold rangeFault
    dsimp only
    rw [List.filterMap_eq_nil_iff.2]
    · rfl
    · intro p hp
      have w := pieces_within _ ga0 mirrorBytes (by decide) p hp
      have g0 : ga0.toNat = 0x7FC0000000001000 := by decide
      have m0 : mirrorBytes = 9437248 := by decide
      obtain ⟨x, hx⟩ := glob_store_ok p.1 p.2 (by omega) (by omega) w.2.2
      rw [hx]
  rw [okTo_iff]
  exact traceArea_ok ((okTo_iff _ _ _).1 (by decide)) ((okTo_iff _ _ _).1 (by decide)) (by rw [show (glob 0 0 ga0).who = ⟨0, 0, 0⟩ from by decide]; exact f)

/-- The areas of a flash and of a mirror dump in the mapped first GiB; a dump that is done. -/
theorem witness_SystemInstructions_dump :
    okTo (traceArea (glob 0 0 ga0) ga0 2048 131072) () (glob 0 0 ga0) = true ∧
    okTo (probeG (glob 0 0 ga0) 1) () (glob 0 0 ga0) = true ∧ (glob 0 0 ga0).me.reply = none ∧
    (glob 0 0 ga0).me.status = .ready ∧ (answered 0 0 0 0).me.reply = some (.val 0) ∧
    isOk (writeG (endRange (answered 0 0 0 0) 0 ga0 (BitVec.ofNat 64 (64 + 9437184))) 1 0) = true := by decide

/-- Commands of one element by their words of R37: mode 10 operands in g1, g2 and g3. -/
def zaccWords : TileWords := ⟨0xFC00C000, 0xC0000002, 0xC0000002, 0xC0000002, 0, 0x000F0000, 0, 0⟩
def taddWords : TileWords := ⟨0xFC400000, 0x80000001, 0x80000002, 0x80000003, 0x00000401, 0, 0, 0⟩
def cvtWords : TileWords := ⟨0xFC804000, 0x80000001, 0xC0000002, 0x80000003, 0x00000401, 0, 0, 0⟩
def copyWords : TileWords := ⟨0xFCC00000, 0x80000001, 0xC0000002, 0x80000003, 0x00000401, 0, 0, 0⟩
def collWords : TileWords := ⟨0xFD000000, 0x80000001, 0x80000002, 0x80000003, 0x00000401, 0, 0, 0⟩
def mmaWords : TileWords := ⟨0xFC000000, 0x80000001, 0x80000002, 0xC0000003, 0x00100401, 0x00000011, 0, 0⟩

/-- A word that fails, none, a full queue and one that is not. -/
theorem witness_TileIssue :
    let s := at3 0xFFFF000000000000 0xFFFF000000000040 0xFFFF000000000080
    badWord taddWords (vectorSpec 0) false (formats taddWords s.me.fmta s.me.fmtb s.me.fmtc) (ringLen s s.myCore) = none ∧
    badWord zaccWords zaccSpec false (formats zaccWords 0 0 0) 16 = none ∧
    badWord cvtWords (convertSpec 1) false (formats cvtWords 0 0 0) 16 = none ∧
    badWord copyWords (copySpec 0) false (formats copyWords 0 0 0) 16 = none ∧
    badWord collWords collSpec false (formats collWords 0 0 0) 16 = none ∧
    badWord mmaWords (mmaSpec 0) false (formats mmaWords 0 0 0) 16 = none ∧
    badWord taddWords zaccSpec false (formats taddWords 0 0 0) 16 = some 1 ∧ (s.core s.myCore).qn.length < 32 ∧
    okTo (capture s taddWords 1 true) 0xFFFF000000000000 s = true ∧ okTo (capture s taddWords 2 true) 0xFFFF000000000040 s = true ∧
    okTo (capture s taddWords 3 true) 0xFFFF000000000080 s = true ∧ okTo (capture s taddWords 6 (taddWords.smode == 1)) 0 s = true := by
  decide

/-- A command of slot 0 of core 0 with its operands at these addresses. -/
def cmdOf (w : TileWords) (v1 v2 v3 : Word) : TileCmd :=
  ⟨w, v1, v2, v3, 0, 0, 0, 0, 0, 0, 0, 0xFFFF000000000100, 0, none, 0, 0, 0, false, none, 0, none⟩

/-- The same with a place for the operands. -/
def tcmCmd (w : TileWords) : TileCmd := cmdOf w 0xFFFF000000000000 0xFFFF000000000040 0xFFFF000000000080

theorem witness_EngineEvents_priority :
    let c := tcmCmd taddWords
    let s := (at3 0 0 0).modCore 0 (fun k => { k with qp := [c], qn := [c] })
    (s.core 0).qp = [c] ∧ (s.core 0).qn = [c] ∧ engineOf c.words = .vector ∧ ringReady (s.core 0) c = true ∧
    tableFree (s.core 0) c = true ∧
    (match testTrigger s 0 c with
      | (b, d, t) => b && d == c && t == s) = true := by decide

/-- A core whose normal queue holds one command. -/
def queued (w : TileWords) (v3 : Word) : State :=
  (at3 0 0 0).modCore 0 (fun k => { k with qn := [cmdOf w 0xFFFF000000000000 0xFFFF000000000040 v3] })

/-- What a unit takes from that queue. -/
def took (s : State) (e : Engine) : Option (TileCmd × Bool) := (takeCmd s 0 e (fun _ => true) 0).1

/-- Whether a unit's work ends well. -/
def worked {α : Type} (w : Work α) : Bool :=
  match w with
  | .ok _ _ => true
  | _ => false

/-- A vector command that completes and one whose destination is misaligned; a conversion; ZACC. -/
theorem witness_EngineEvents :
    let s := queued taddWords 0xFFFF000000000080
    mayDispatch s 0 .vector = true ∧ mayDispatch s 0 .convert = true ∧ mayDispatch s 0 .matrix = true ∧ trigFault (tcmCmd taddWords) = none ∧ (s.core 0).vector.run = none ∧
    took s .vector = some (tcmCmd taddWords, false) ∧
    worked (vectorWork (unqueue (takeCmd s 0 .vector (fun _ => true) 0).2 0 (tcmCmd taddWords) false) (tcmCmd taddWords)) = true ∧
    (match vectorWork (queued taddWords 0xFFFF000000000084) (cmdOf taddWords 0xFFFF000000000000 0xFFFF000000000040 0xFFFF000000000084) with
      | .fault e a _ => e == .misalign && a == 0xFFFF000000000084
      | _ => false) = true ∧
    harmWaits s (tcmCmd taddWords) (vectorDest (tcmCmd taddWords)) = false ∧
    harmWaits (s.modCore 0 (fun k => { k with
      sbuf := [⟨0, 0, 0, 0xFFFF000000000080, .bank (tcmKey 0 0x80), [1], .plain, 0, false⟩] }))
      { tcmCmd taddWords with mark := 1 } (vectorDest (tcmCmd taddWords)) = true ∧
    (s.core 0).convert.run = none ∧ took (queued cvtWords 0xFFFF000000000080) .convert = some (tcmCmd cvtWords, false) ∧
    worked (convertWork (queued cvtWords 0xFFFF000000000080) (tcmCmd cvtWords)) = true ∧ (s.core 0).matrix.run = none ∧
    (s.core 0).handoff = none ∧ windowOwner s 0 = none ∧
    took (queued zaccWords 0xFFFF000000000080) .matrix = some (tcmCmd zaccWords, false) ∧ bitsOf zaccWords.w0 14 8 = 3 ∧
    coreOf (tcmCmd zaccWords).slot = 0 := by decide

/-- A copy of one byte, and a matrix block of one element. -/
theorem witness_EngineEvents_copy :
    let s := queued copyWords 0xFFFF000000000080
    (0 : Nat) ∉ s.halted ∧ (copyOf s 0).run = none ∧
    (match takeCopy s (coresAfter s 0 (copyOf s 0).last) with
      | (some (c, x), t) => c == 0 && (leaveCore t 0 x).1 == { ranWhole (tcmCmd copyWords) none 0 with block := 0 } &&
        (copyRefused (leaveCore t 0 x).2 (tcmCmd copyWords)).isNone &&
        (match copyAhead (leaveCore t 0 x).2 (tcmCmd copyWords) with
          | some (p, none, u) => p == CopyProgress.init && (copyNext u { (leaveCore t 0 x).1 with copy := p }).isSome
          | _ => false)
      | (none, _) => false) = true ∧
    (match copyRow s (tcmCmd copyWords) CopyProgress.init 0 with
      | .ready _ beats _ => beats.length == 1
      | _ => false) = true ∧
    (match copyRow (queued copyWords 0xFFFF00FF00000000) (cmdOf copyWords 0xFFFF000000000000 0xFFFF000000000040 0xFFFF00FF00000000)
        CopyProgress.init 0 with
      | .stopped _ e a => e == .prot && a == 0xFFFF00FF00000000
      | _ => false) = true ∧
    switchDue s 0 = false ∧
    switchDue { s with gangs := [⟨0, 1000, some 0, none, false⟩] } 0 = true ∧ (0 : Nat) < copyWords.m ∧ copyWords.m ≤ 1 := by decide

/-- A copy of one row onto its own source in debug mode, and a copy between two rows, at a beat and before its last beat. -/
theorem witness_EngineEvents_beats :
    let c := cmdOf copyWords 0xFFFF000000000000 0xFFFF000000000040 0xFFFF000000000000
    let s := (queued copyWords 0xFFFF000000000000).modRegion 0 (fun g => { g with debug := true })
    let r : Running := { ranWhole { c with words := { copyWords with w4 := 0x00000402 } } none 0 with block := 0 }
    (match copyAhead s c with
      | some (_, a, _) => a == some 0xFFFF000000000000
      | none => false) = true ∧ c.eval = none ∧
    (r.copy.beats = []) ∧ ({ r.copy with beats := [[], []] } : CopyProgress).beats = [] :: [[]] ∧ r.block + 1 < r.cmd.words.m := by
  decide

/-- A block at the last address of the TCM that it can take; a ring handoff; completions. -/
theorem witness_EngineEvents_run :
    let r := { ranWhole { tcmCmd mmaWords with fa := 1, fb := 1 } none 0 with block := 0 }
    let c := ranWhole (tcmCmd taddWords) none 0
    let s := (at3 0 0 0).modCore 0 (fun k => { k with matrix := ⟨some r, 0⟩ })
    let h := (at3 0 0 0).modCore 0 (fun k => { k with handoff := some ⟨[], 0, 1⟩ })
    (s.core 0).matrix.run = some r ∧ ranAll r = false ∧ switchDue s 0 = false ∧ (runBlock s r).isSome = true ∧
    c.cmd.eval = none ∧ (s.slot c.cmd.slot).status ≠ .noTask ∧ (s.slot c.cmd.slot).gen = c.cmd.gen ∧
    (s.slot c.cmd.slot).ctx = c.cmd.ctx ∧ engineOf c.cmd.words ≠ .matrix ∧ (h.core 0).handoff = some ⟨[], 0, 1⟩ ∧
    nextLive h 0 = some 1 ∧ (h.core 1).latch = none ∧ residentCtx h 0 = residentCtx h 1 ∧ (h.core 0).part = (h.core 1).part ∧
    taddWords.w7.getLsbD 25 = false ∧ s.endings = [] ∧ writesAway s c.cmd = false ∧ mapGet s.coreDrawers (2048 * c.cmd.ctx + 0) = none ∧
    ({ taddWords with w7 := 0x84000000 } : TileWords).w7.getLsbD 31 = true := by decide

/-- A collective descriptor at offset 0x40 of the TCM: result at its counts, stage, two ranks, rank 0. -/
def collState : State := { queued collWords 0xFFFF000000000080 with
  mem := writeBytes [] (tcmKey 0 0x40) (bytesOf 8 0xFFFF000000001000 ++ bytesOf 8 0xFFFF000000002000 ++ bytesOf 4 1 ++ bytesOf 4 0) }

/-- A collective of one rank, and one in progress before and at its limit. -/
theorem witness_EngineEvents_collective :
    let r : CollRun := ⟨ranWhole (tcmCmd collWords) none 0, 0, ga0, 0, 900, 0, ⟨2, [], 0, 1, 1, 0, 0⟩, [], false⟩
    let s := { at3 0 0 0 with colls := [r] }
    took collState .collective = some (tcmCmd collWords, false) ∧
    (match collRead collState (tcmCmd collWords) with
      | .ok (rank, sig, _, _) _ => rank == 0 && sig.p == 1
      | _ => false) = true ∧ worked (collStart (countColl collState (tcmCmd collWords)).2 (tcmCmd collWords)) = true ∧
    (countColl collState (tcmCmd collWords)).1 = (0xFFFF000000002000, 0) ∧
    (collState.core 0).sbuf = [] ∧ s.colls[0]? = some r ∧ r.finished = false ∧ r.run.cmd.eval = none ∧
    s.time.toNat < r.start.toNat + s.policy.collTimeout ∧
    (900 : Word).toNat + ({ Policy.reset with collTimeout := 100 } : Policy).collTimeout ≤ s.time.toNat ∧
    r.stage = normAddr s (Partial.mk ga0 0 r.sig 1 2 []).stage ∧ r.k = (Partial.mk ga0 0 r.sig 1 2 []).k ∧
    (Partial.mk ga0 0 r.sig 1 2 []).lo < (Partial.mk ga0 0 r.sig 1 2 []).hi ∧
    (Partial.mk ga0 0 r.sig 1 2 []).hi ≤ r.sig.p ∧ r.rank < (Partial.mk ga0 0 r.sig 1 2 []).lo ∧
    (∀ q ∈ s.colls, q.stage = normAddr s ga0 → q.k = 1 → q.finished = true) ∧ collCount s ga0 ≤ 1 ∧
    ¬ collCount { s with collCounts := [(ga0.toNat, 2)] } ga0 ≤ 1 ∧
    allCompared (s.modRegion 0 (fun g => { g with debug := true })) r = false ∧ allCompared s r = true ∧ mayDispatch collState 0 .collective = true ∧
    (CollSig.mk 3 [] 0 1 1 0 0) ≠ r.sig ∧ ((s.modRegion 0 (fun g => { g with debug := true })).region r.run.cmd.region).debug = true := by decide

/-- A sleep that is over, one that is not, at its limit and before it, and one whose withdrawal has left. -/
theorem witness_SleepEvents :
    let z : Sleep := ⟨.waitt 1000, 500, 0, 0, false⟩
    let y : Sleep := ⟨.kwait 0 1, 900, 100, 0, false⟩
    let s := (at3 0 0 0).modMe (fun sl => { sl with status := .asleep z })
    let t := (at3 0 0 0).modMe (fun sl => { sl with status := .asleep y })
    (0 : Nat) < 16384 ∧ (s.slot 0).status = .asleep z ∧ sleepOver s 0 z = true ∧ z.lim = 0 ∧ (t.slot 0).status = .asleep y ∧
    sleepOver t 0 y = false ∧ y.lim ≠ 0 ∧ y.start.toNat + y.lim.toNat ≤ t.time.toNat ∧
    { t with time := 999 }.time.toNat < y.start.toNat + y.lim.toNat ∧ clusterOf t (coreOf 0) ∉ t.halted ∧ isHalted t 0 = false ∧
    isHalted { t with halted := [0] } 0 = true ∧ isPlacing t 0 = false ∧
    isPlacing { t with places := [⟨⟨0, [], 0, 0, 0, 0, 0, 0, t.dev⟩, []⟩] } 0 = true ∧ t.wakes = [] ∧
    (∃ w ∈ ({ t with wakes := [⟨slotLink 0, 0, .value⟩] } : State).wakes, w.to_ = slotLink 0) ∧ y.withdrawn = false ∧
    ({ y with withdrawn := true } : Sleep).withdrawn = true ∧
    (((at3 0 0 0).modMe (fun sl => { sl with status := .waiting .reply })).slot 0).status = .waiting .reply := by decide

/-- Records on their way and held, with the queue empty and at its limit; a TLBINV's last sharer; another device's access
that is served and one that is parked; a parked one before and at its limit; a mirror's stop; the pulse. -/
theorem witness_SystemEvents :
    let s := (glob 0 0 0).modMe (fun sl => { sl with status := .waiting .reply })
    let held := (at3 0 0 0).modMe (fun sl => { sl with status := .parked (some (recordOf 0)) })
    let a : RemoteAccess := ⟨5, 9, ga0, .load 8 false none, 0, false, false⟩
    originWrites s (recordOf 1) = false ∧ heldBefore s (recordOf 1) = false ∧ heldBefore held (recordOf 0) = true ∧
    originWrites (s.modCore 0 (fun k => { k with sbuf := [⟨0, 0, 0, ga0, .home 0x1000 0, [1], .plain, 0, false⟩] })) (recordOf 0) = true ∧
    (recordOf 1).kind ≠ 3 ∧ s.tq.length < 4094 ∧ s.tqnote = 0 ∧ (recordOf 1).kind = 1 ∧ (recordOf 0).kind = 0 ∧
    (held.slot 0).status = .parked (some (recordOf 0)) ∧ held.faultBuf = [] ∧ held.drawers = [] ∧
    (((at3 0 0 0).modMe (fun sl => { sl with status := .parked none })).slot 0).status = .parked none ∧
    (s.slot 0).status = .waiting .reply ∧ s.loads = [] ∧ s.atoms = [] ∧ s.copies = [] ∧ (s.cores.map (fun c => c.2.sbuf)) = [[]] ∧
    (s.slots.map (fun e => e.2.push)) = [none] ∧
    a.kind ≠ .withdraw ∧ s.outOfService = false ∧ (remoteTry s a).isSome = true ∧ (remoteTry (at3 0 0 0) a).isNone = true ∧
    s.faultBuf.length < 64 ∧ (900 : Word).toNat + max s.policy.replayLimit 100000 > s.time.toNat ∧
    (900 : Word).toNat + max s.policy.replayLimit 100000 ≤ (0x10000000 : Word).toNat ∧
    leafPermits 0xF000000000000000 .load = true ∧ leafPermits 0x1000000000000000 .load = false ∧
    (({ s with lines := [(32, { LineInfo.init with slice := some 0 })] } : State).line (0x1000 / 128)).slice = some 0 ∧
    a.debug = false ∧ inShadowPool s (normAddr s ga0) 8 = false ∧ inShadowPool s (lineAddr s (normAddr s ga0)) 128 = false ∧
    inStaging s (lineAddr s (normAddr s ga0)) 128 = false ∧ inJournal s 0x1000 8 = false ∧ inJournal s s.jbase.toNat 8 = true ∧
    a.look = false ∧
    (let d : Dump := ⟨waiterOf s 0, 0, ga0, [], 0⟩
      let z : Sleep := ⟨.dump, 900, 0, 0, false⟩
      let t := { s.modMe (fun sl => { sl with status := .asleep z }) with dumps := [d] }
      t.dumps = [d] ∧ d.left = 0 ∧ (t.slot d.who.slot).status = .asleep z ∧ waiterOf t d.who.slot = d.who ∧
      ({ d with rows := [[1]], left := 1 } : Dump).rows = [1] :: []) ∧
    inShadowPool pooled 0x7FC0000000010000 8 = true ∧ (waiterOf s 0).slot = 0 ∧ (1000 : Word).toNat ≤ s.time.toNat ∧ s.time.toNat < (1001 : Word).toNat := by
  decide

/-- A core in service, one that is retired, free spares and none; dies with a clock fault and without; links 13 and 14. -/
theorem witness_ModuleEvents :
    let s := at3 0 0 0
    isLiveCore s 1023 = true ∧ isLiveCore { s with retired := [1023] } 1023 = false ∧ isLiveCore s 1024 = false ∧
    s.endings = [] ∧ freeSpares s 63 = [1150, 1151] ∧ freeSpares { s with defect := [1150, 1151] } 63 = [] ∧ (3 : Nat) ∉ s.clockFaults ∧
    (3 : Nat) ∈ ({ s with clockFaults := [3] } : State).clockFaults ∧ (431 : BitVec 9).toNat < 432 ∧ (13 : Nat) < 14 ∧ 14 ≤ 14 ∧
    ((mapGet s.linkWidth 13).getD 0).toNat < (2 : BitVec 2).toNat ∧ (431 : BitVec 9) ≠ s.dev ∧
    devOf s 0x6BC0000000000000 = 431 ∧ ({ s with outbox := [.coll (Partial.mk 0 0 ⟨2, [], 0, 1, 1, 0, 0⟩ 0 1 []) 0 431] } : State).outbox =
      [.coll (Partial.mk 0 0 ⟨2, [], 0, 1, 1, 0, 0⟩ 0 1 []) 0 (431 : BitVec 9).toNat] ∧
    leadsOver 0 0 0 = false ∧ leadsOver 0 8 9 = true ∧ s.fwPending = false ∧ ({ s with fwPending := true } : State).fwPending = true := by decide

/-- A command of this op for the root with two more words. -/
def commandOf (op : Byte) (b c d : Word) : List Byte :=
  op :: List.replicate 7 0 ++ bytesOf 8 0 ++ bytesOf 8 b ++ bytesOf 8 c ++ bytesOf 8 d ++ List.replicate 24 0

/-- Commands of 64 bytes, an entry at its bounds, the last places before the journal and in it, a read of an image. -/
theorem witness_HostCommands :
    let s := glob 0 0 0
    (commandOf 2 7 0x7FC0000000000000 0x1000).length = 64 ∧ byteNat (commandOf 2 7 0x7FC0000000000000 0x1000) 0 = 2 ∧
    byteNat (commandOf 2 7 0x7FC0000000000000 0x1000) 16 = 7 ∧ 8 ≤ byteNat (commandOf 2 8 0 0) 16 ∧
    w64At (commandOf 2 7 0x7FC0000000000000 0x1000) 24 = 0x7FC0000000000000 ∧ w64At (commandOf 2 7 0 0x1000) 32 = 0x1000 ∧
    byteNat (commandOf 8 0 0 0) 0 = 8 ∧ s.outOfService = false ∧ s.timeHold = 0 ∧ (snappedAt s 0x1000).isNone = true ∧
    (snappedAt snapped 0x1000).isSome = true ∧
    (match commandRegion s (commandOf 2 7 0 0) with
      | .ok r => r == 0
      | .error _ => false) = true ∧
    ((s.region 0).res[0]).len ≠ 0 ∧ 127 + [(0 : Byte)].length ≤ 128 ∧ (s.jbase.toNat - 1) + [(0 : Byte)].length ≤ s.jbase.toNat ∧
    (s.jbase.toNat + journalSize - 1) + [(0 : Byte)].length ≤ s.jbase.toNat + journalSize ∧ s.jbase.toNat + journalSize ≤ 2 ^ 40 ∧
    (s.jbase.toNat + journalSize - 1) % 128 + [(0 : Byte)].length ≤ 128 ∧ Memory.wf s.mem = true ∧
    (schedRead s ga0 64).isSome = true ∧
    (match checkLaunch s 0 0 true (launchOf 1) with
      | .ok l => l.time == 0
      | .error _ => false) = true ∧
    (match checkLaunch s 0 0 true (launchOf 0) with
      | .ok _ => false
      | .error st => st == 1) = true := by decide

/-- END of a region other than the root. -/
theorem witness_HostCommands_end :
    let two := { glob 0 0 0 with regions := (glob 0 0 0).regions ++ [(1, { Region.root with addr := ga0 })] }
    let cmd : List Byte := 4 :: List.replicate 7 0 ++ bytesOf 8 ga0 ++ List.replicate 48 0
    cmd.length = 64 ∧ byteNat cmd 0 = 4 ∧ w64At cmd 8 ≠ 0 ∧
    (match commandRegion two cmd with
      | .ok r => r == 1
      | .error _ => false) = true := by decide

end Sys2Proof.Tests
end

section
/-! The scalar class (R91 to R107): what its members with one source and its jumps compute, in the terms of the spec. -/

namespace Sys2Proof.Machine

/-! Counts of bits (R95). -/

/-- Counting down from bit n, with the bits above it passed already. -/
theorem clzAuxRec_eq_clzFrom (a : Word) (n : Nat) (hn : n < 64) :
    a.clzAuxRec n = BitVec.ofNat 64 (63 - n + clzFrom a (n + 1)) := by
  induction n with
  | zero => simp only [BitVec.clzAuxRec_zero, clzFrom]; split <;> rfl
  | succ n ih =>
    rw [BitVec.clzAuxRec_succ, clzFrom, ih (by omega)]
    split
    · rfl
    · congr 1; omega

theorem clzFrom_eq_clz (a : Word) : BitVec.ofNat 64 (clzFrom a 64) = a.clz := by
  rw [BitVec.clz, clzAuxRec_eq_clzFrom a 63 (by omega), Nat.sub_self, Nat.zero_add]

/-- Trailing zeros are the leading zeros of the word read from its other end. -/
theorem ctzFrom_eq_clzFrom_reverse (a : Word) (n : Nat) (hn : n ≤ 64) : ctzFrom a n = clzFrom a.reverse n := by
  induction n with
  | zero => rfl
  | succ n ih =>
    have hbit : a.reverse.getLsbD n = a.getLsbD (63 - n) := by
      rw [BitVec.getLsbD_reverse, BitVec.getMsbD_eq_getLsbD, decide_eq_true (by omega : n < 64), Bool.true_and]
    rw [ctzFrom, clzFrom, hbit, ih (by omega)]

theorem ctzFrom_eq_ctz (a : Word) : BitVec.ofNat 64 (ctzFrom a 64) = a.ctz := by
  rw [ctzFrom_eq_clzFrom_reverse a 64 (by omega), clzFrom_eq_clz, BitVec.ctz_eq_reverse_clz]

theorem cpopNatRec_eq_popcFrom (a : Word) (n acc : Nat) : a.cpopNatRec n acc = acc + popcFrom a n := by
  induction n generalizing acc with
  | zero => rfl
  | succ n ih => rw [BitVec.cpopNatRec_succ, ih, popcFrom, Nat.add_assoc]

theorem popcFrom_eq_cpop (a : Word) : BitVec.ofNat 64 (popcFrom a 64) = a.cpop := by
  rw [BitVec.cpop, cpopNatRec_eq_popcFrom, Nat.zero_add]

/-! Bytes and halves of a word (R93, R95). -/

/-- One more byte below a number of bytes. -/
theorem natOfBytes_cons_eq_append {n : Nat} {x : BitVec n} {bs : List Byte} (h : natOfBytes bs = x.toNat) (b : Byte) :
    natOfBytes (b :: bs) = (x ++ b).toNat := by
  rw [BitVec.toNat_append, ← Nat.shiftLeft_add_eq_or_of_lt b.isLt, Nat.shiftLeft_eq, natOfBytes, h]
  omega

theorem bytesOf_eq_extractLsb' (a : Word) :
    bytesOf 8 a = [a.extractLsb' 0 8, a.extractLsb' 8 8, a.extractLsb' 16 8, a.extractLsb' 24 8,
      a.extractLsb' 32 8, a.extractLsb' 40 8, a.extractLsb' 48 8, a.extractLsb' 56 8] := by
  simp [bytesOf, bytesOfNat, BitVec.extractLsb', Nat.shiftRight_eq_div_pow, Nat.div_div_eq_div_mul]

theorem bswap_eq_append (a : Word) :
    bswap a = a.extractLsb' 0 8 ++ a.extractLsb' 8 8 ++ a.extractLsb' 16 8 ++ a.extractLsb' 24 8 ++
      a.extractLsb' 32 8 ++ a.extractLsb' 40 8 ++ a.extractLsb' 48 8 ++ a.extractLsb' 56 8 := by
  rw [bswap, bytesOf_eq_extractLsb', wordOf]
  refine Eq.trans (congrArg (BitVec.ofNat 64) ?_) (BitVec.ofNat_toNat 64 _ |>.trans (BitVec.setWidth_eq _))
  iterate 7 apply natOfBytes_cons_eq_append
  rfl

/-- Sign-extension of the low n bits. -/
theorem signExtend_setWidth_eq_extractLsb' (a : Word) {n : Nat} (hn : n ≤ 64) :
    (a.setWidth n).signExtend 64 = (a.extractLsb' 0 n).signExtend 64 := by
  rw [BitVec.setWidth_eq_extractLsb' hn]

/-- Zero-extension of a low half. -/
theorem setWidth_eq_zero_append (x : W32) : x.setWidth 64 = 0#32 ++ x := BitVec.setWidth_eq_append (by decide)

theorem low32_eq_extractLsb' (a : Word) : low32 a = a.extractLsb' 0 32 := BitVec.setWidth_eq_extractLsb' (by decide)

/-- Bit 31 of the low half inverted (R100). -/
theorem low32_xor_signBit (a : Word) :
    low32 a ^^^ 0x80000000 = ~~~(a.extractLsb' 31 1) ++ a.extractLsb' 0 31 := by
  have hbit : (0x80000000 : W32) = BitVec.twoPow 32 31 := rfl
  apply BitVec.eq_of_getLsbD_eq
  intro i hi
  rw [hbit, low32, BitVec.getLsbD_xor, BitVec.getLsbD_twoPow, BitVec.getLsbD_append]
  by_cases h : i < 31
  · simp [h, hi, show 31 ≠ i by omega]
  · obtain rfl : i = 31 := by omega
    simp

/-! Comparisons (R95, R96). -/

theorem boolWord_slt (a b : Word) : boolWord (a.slt b) = if a.toInt < b.toInt then 1 else 0 := by
  simp [boolWord, BitVec.slt]

theorem boolWord_ult (a b : Word) : boolWord (a.ult b) = if a.toNat < b.toNat then 1 else 0 := by
  simp [boolWord, BitVec.ult]

theorem bne_eq_decide_ne (a b : Word) : (a != b) = decide (a ≠ b) := by
  rw [bne, Bool.beq_eq_decide_eq, decide_not]

theorem not_slt_eq_decide_le (a b : Word) : (!a.slt b) = decide (b.toInt ≤ a.toInt) := by
  simp [BitVec.slt, ← decide_not]

theorem not_ult_eq_decide_le (a b : Word) : (!a.ult b) = decide (b.toNat ≤ a.toNat) := by
  simp [BitVec.ult, ← decide_not]

/-! Targets (R35, R102 to R104). -/

/-- The target of a word offset of any width: the offset is signed and counts words. -/
theorem wordTarget_signExtend {n : Nat} (pc : Word) (off : BitVec n) :
    wordTarget pc (off.signExtend 64) = pc + BitVec.ofInt 64 (4 * off.toInt) := by
  rw [wordTarget, BitVec.ofInt_mul]; rfl

theorem setWidth_two_beq_zero (a : Word) : (a.setWidth 2 == 0#2) = decide (a.toNat % 4 = 0) := by
  simp [BitVec.toNat_eq, Bool.beq_eq_decide_eq]

/-! What the shared operations come to once their operands are at hand. -/

/-- A destination that can be written completes the instruction (R94). -/
theorem conclude_writeDone (s : State) {s1 t : State} {gd : Reg} {v : Word} (hw : writeG s1 gd v = .ok () t) :
    conclude s (writeDone s1 gd v) = .next (t.retire 4) := by
  rw [writeDone, hw]; rfl

/-- One source read, the result written (R94). -/
theorem conclude_unary {s s1 t : State} {gd ga : Reg} {a : Word} {f : Word → Word} (hr : readG s ga = .ok a s1)
    (hw : writeG s1 gd (f a) = .ok () t) : conclude s (unary s gd ga f) = .next (t.retire 4) := by
  rw [unary, hr]; exact conclude_writeDone s hw

/-- A branch whose sources have been read: its target where it is taken, the next instruction where not (R102). -/
theorem conclude_branch {s s1 t : State} {ga gb : Reg} {a b : Word} (off : BitVec 16) (taken : Word → Word → Bool)
    (ha : readG s ga = .ok a s1) (hb : readG s1 gb = .ok b t) :
    conclude s (branch s ga gb off taken) =
      .next (t.finish (if taken a b then t.me.pc + BitVec.ofInt 64 (4 * off.toInt) else t.me.pc + 4)) := by
  rw [branch, ha, Eff.andThen_ok, hb, Eff.andThen_ok, wordTarget_signExtend]
  split <;> rfl

/-- An instruction that completes at a pc leaves the slot's pc there. -/
theorem finish_pc {o : Host.Outcome State Fault Refusal} {t : State} {pc : Word} (h : o = .next (t.finish pc)) :
    ∃ u, o = .next u ∧ u = t.finish u.me.pc ∧ u.me.pc = pc := by
  have hpc : (t.finish pc).me.pc = pc := by rw [State.me_finish]
  exact ⟨t.finish pc, h, by rw [hpc], hpc⟩

/-! The members with one source. -/

/-- The members with this constructor read ga and write f of it to gd, whatever the state. -/
def ComputesUnary (member : Reg → Reg → Instr) (f : Word → Word) : Prop :=
  ∀ (gd ga : Reg) (s : State), exec (member gd ga) s = conclude s (unary s gd ga f)

theorem ComputesUnary.congr {member : Reg → Reg → Instr} {f g : Word → Word} (h : ComputesUnary member g)
    (hfg : ∀ a, g a = f a) : ComputesUnary member f := by
  rwa [← funext hfg]

/-- Every row computes what the table says, by the laws of words above; where none is named, the member's own function is
the row's. -/
theorem unaryRows_compute (imm : BitVec 16) (imm15 : BitVec 15) (sh : BitVec 6) :
    ∀ row ∈ unaryRows imm imm15 sh, ComputesUnary row.1 row.2 := by
  simp only [unaryRows, List.forall_mem_cons, List.not_mem_nil, false_implies, implies_true, and_true]
  refine ⟨
    .congr (fun _ _ _ => rfl) clzFrom_eq_clz,
    .congr (fun _ _ _ => rfl) ctzFrom_eq_ctz,
    .congr (fun _ _ _ => rfl) popcFrom_eq_cpop,
    .congr (fun _ _ _ => rfl) bswap_eq_append,
    .congr (fun _ _ _ => rfl) fun a => signExtend_setWidth_eq_extractLsb' a (by decide),
    .congr (fun _ _ _ => rfl) fun a => signExtend_setWidth_eq_extractLsb' a (by decide),
    .congr (fun _ _ _ => rfl) fun a => signExtend_setWidth_eq_extractLsb' a (by decide),
    .congr (fun _ _ _ => rfl) fun a => (setWidth_eq_zero_append _).trans (congrArg _ (low32_eq_extractLsb' a)),
    ?addi, ?andi, ?ori, ?xori, ?slli, ?srli, ?srai,
    .congr (fun _ _ _ => rfl) fun a => boolWord_slt a (imm15.signExtend 64),
    .congr (fun _ _ _ => rfl) fun a => boolWord_ult a (imm15.signExtend 64),
    ?fcvtifU, ?fcvtifS, ?fcvtfiU, ?fcvtfiS,
    .congr (fun _ _ _ => rfl) fun a => (setWidth_eq_zero_append _).trans (congrArg _ (low32_xor_signBit a))⟩
  all_goals exact fun _ _ _ => rfl

/-- Settles O11: every row computes its function, and what a unary member computes it writes; LUI and ADPC write their
immediate at once. -/
theorem unaryResults : Obligations.UnaryResults := by
  unfold Obligations.UnaryResults
  refine ⟨fun imm imm15 sh row hrow s s1 t gd ga a hr hw => ?_, fun s t u gd imm => ⟨fun hw => ?_, fun hw => ?_⟩⟩
  · rw [unaryRows_compute imm imm15 sh row hrow gd ga s]
    exact conclude_unary hr hw
  · exact conclude_writeDone s hw
  · exact conclude_writeDone s hw

/-! Branches, JMP, CALL and JR. -/

theorem conclude_branch_congr {f g : Word → Word → Bool} (h : ∀ a b, f a b = g a b) (ga gb : Reg) (off : BitVec 16)
    (s : State) : conclude s (branch s ga gb off f) = conclude s (branch s ga gb off g) := by
  rw [funext fun a => funext (h a)]

/-- Every branch compares as the table says (R102). -/
theorem branchRows_compute : ∀ row ∈ branchRows, ∀ (ga gb : Reg) (off : BitVec 16) (s : State),
    exec (row.1 ga gb off) s = conclude s (branch s ga gb off row.2) := by
  simp only [branchRows, List.forall_mem_cons, List.not_mem_nil, false_implies, implies_true, and_true]
  exact ⟨
    conclude_branch_congr Bool.beq_eq_decide_eq,
    conclude_branch_congr bne_eq_decide_ne,
    conclude_branch_congr fun _ _ => rfl,
    conclude_branch_congr not_slt_eq_decide_le,
    conclude_branch_congr fun _ _ => rfl,
    conclude_branch_congr not_ult_eq_decide_le⟩

theorem exec_jmp (off : BitVec 26) (s : State) :
    exec (.jmp off) s = .next (s.finish (s.me.pc + BitVec.ofInt 64 (4 * off.toInt))) := by
  rw [← wordTarget_signExtend]; rfl

/-- CALL with the link written (R103). -/
theorem exec_call {s t : State} {off : BitVec 26} (hw : writeG s 31 (s.me.pc + 4) = .ok () t) :
    exec (.call off) s = .next (t.finish (t.me.pc + BitVec.ofInt 64 (4 * off.toInt))) := by
  show execCall off s = _
  rw [execCall, hw, Eff.andThen_ok, wordTarget_signExtend, conclude_ok]

/-- JR to an aligned target with the link written (R104). -/
theorem exec_jr_aligned {s s1 t : State} {gd ga : Reg} {a : Word} (hr : readG s ga = .ok a s1) (ha : a.toNat % 4 = 0)
    (hw : writeG s1 gd (s1.me.pc + 4) = .ok () t) : exec (.jr gd ga) s = .next (t.finish a) := by
  show execJr gd ga s = _
  rw [execJr, hr, Eff.andThen_ok, setWidth_two_beq_zero, decide_eq_true ha, check_true, Eff.andThen_ok, hw, Eff.andThen_ok,
    conclude_ok]

/-- JR to a misaligned target: the fault is taken in the state JR began in (R104). -/
theorem exec_jr_misaligned {s s1 : State} {gd ga : Reg} {a : Word} (hr : readG s ga = .ok a s1) (ha : a.toNat % 4 ≠ 0) :
    exec (.jr gd ga) s = .next (takeFault s .misalign a) := by
  show execJr gd ga s = _
  rw [execJr, hr, Eff.andThen_ok, setWidth_two_beq_zero, decide_eq_false ha, check_false, Eff.andThen_trap, conclude_trap]

/-- Settles O13: each transfer of control completes at its target. -/
theorem branchAndJumpTargets : Obligations.BranchAndJumpTargets := by
  unfold Obligations.BranchAndJumpTargets
  refine ⟨fun row hrow s s1 t ga gb off a b ha hb => finish_pc ?_, fun s off => finish_pc (exec_jmp off s),
    fun s t off hw => finish_pc (exec_call hw),
    fun s s1 t gd ga a hr => ⟨exec_jr_aligned hr, exec_jr_misaligned hr⟩⟩
  rw [branchRows_compute row hrow ga gb off s]
  exact conclude_branch off row.2 ha hb

end Sys2Proof.Machine
end

section
/-! Streams, batches and arrival counters (R258, R259, R287 to R294): what BIND, UNBIND and SPOS, CLOSEB and WAITB, and KSET,
KREAD and KWAIT come to. -/

namespace Sys2Proof.Machine

/-! The checks that BIND makes of its descriptor, once they are met (R291). -/

theorem check_met (s : State) {ok : Bool} (c : Cause) (v : Word) (h : ok = true) : check s ok c v = .ok () s := by
  rw [h, check_true]

theorem checkAlign_aligned (s : State) {a : Word} {n : Nat} (h : a.toNat % n = 0) : checkAlign s a n = .ok () s :=
  check_met s _ _ (decide_eq_true h)

theorem watchNames_kind_zero {w : Watch} (h : w.kind = 0) (ld st : Bool) : watchNames w ld st = false := by
  rw [watchNames, h]; rfl

/-- No access of a slot that no watchpoint watches is seen (R378). -/
theorem checkWatch_unwatched {s : State} (h : unwatched s) (a : Word) (n : Nat) (ld st : Bool) :
    checkWatch s a n ld st = .ok () s := by
  have hit : watchHit s a n ld st = none := by
    obtain hskip | ⟨h0, h1⟩ := h
    · rw [watchHit, if_pos hskip]
    · rw [watchHit, watchNames_kind_zero h0, watchNames_kind_zero h1]
      split
      · rfl
      · exact List.find?_eq_none.2 fun _ _ => by simp
  rw [checkWatch, hit]

/-! A slot after its instruction, and one that sleeps. -/

/-- What completing an instruction leaves its slot: no progress, the pc past its bytes (R32). -/
theorem State.me_retire (s : State) (k : Nat) : (s.retire k).me =
    { clearProgress s.me with pc := s.me.pc + BitVec.ofNat 64 k, status := .ready, wpSkip := false } :=
  State.me_finish s _

@[simp] theorem State.retire_pc (s : State) (k : Nat) : (s.retire k).me.pc = s.me.pc + BitVec.ofNat 64 k := by
  rw [State.me_retire]

@[simp] theorem State.retire_streams (s : State) (k : Nat) : (s.retire k).me.streams = s.me.streams := by
  rw [State.me_retire]; rfl

@[simp] theorem State.retire_g (s : State) (k : Nat) : (s.retire k).me.g = s.me.g := by
  rw [State.me_retire]; rfl

@[simp] theorem State.retire_core (s : State) (k c : Nat) : (s.retire k).core c = s.core c := rfl

/-- Keeping the pops of an instruction that waits (R94) changes neither its slot's status, its pc nor its open batch. -/
theorem keepPops_status (s s0 : State) : (keepPops s s0).me.status = s0.me.status := by
  rw [keepPops, State.me_modMe]; rfl

theorem keepPops_pc (s s0 : State) : (keepPops s s0).me.pc = s0.me.pc := by
  rw [keepPops, State.me_modMe]; rfl

theorem keepPops_batchPending (s s0 : State) : (keepPops s s0).me.batchPending = s0.me.batchPending := by
  rw [keepPops, State.me_modMe]; rfl

/-- A slot that falls asleep sleeps for what it is told, with its pc on the instruction (R169). -/
theorem sleepFor_asleep {s : State} (h : ∀ z, s.me.status ≠ .asleep z) (k : SleepFor) (v : Word) :
    ∃ z, (s.sleepFor k v).me.status = .asleep z ∧ z.kind = k ∧ (s.sleepFor k v).me.pc = s.me.pc := by
  rw [State.sleepFor, State.me_modMe]
  split
  next z hz => exact absurd hz (h z)
  next => exact ⟨_, rfl, rfl, rfl⟩

theorem conclude_sleep (s : State) (k : SleepFor) (v : Word) : conclude s (sleep k v) = .next (s.sleepFor k v) := rfl

/-! Stream bindings (R290 to R294). -/

@[simp] theorem mapGet_setStream_streams (s : State) (q : Nat) (st : Stream) :
    mapGet (setStream s q st).me.streams q = some st := by
  rw [setStream, State.me_modMe, mapGet_mapPut_same]

@[simp] theorem setStream_pc (s : State) (q : Nat) (st : Stream) : (setStream s q st).me.pc = s.me.pc := by
  rw [setStream, State.me_modMe]

/-- The stream that BIND binds: as the descriptor's bytes describe it, from where the counter of a ring stands (R291). -/
def boundBy (s : State) (a : Word) (bs : List Byte) : Stream :=
  let st := streamOf a bs
  { st with f0 := if st.ring then (s.core s.myCore).counter st.kc else 0 }

/-- BIND of a descriptor that passes its checks (R291). -/
theorem exec_bind {s s0 s1 : State} {ga : Reg} {a : Word} {bs : List Byte} (q : BitVec 3) (hr : readG s ga = .ok a s0)
    (ha : a.toNat % 64 = 0) (hb : localRead s0 a 64 = .ok bs s1) (hw : unwatched s1)
    (haligned : streamAligned (streamOf a bs) = true) (hn0 : (streamOf a bs).n0 ≠ 0) (hn1 : (streamOf a bs).n1 ≠ 0)
    (hscope : (streamOf a bs).ring = true → (streamOf a bs).scope.toNat < 6) :
    exec (.bind ga q) s = .next ((setStream s1 q.toNat (boundBy s1 a bs)).retire 4) := by
  have hcounts : (decide ((streamOf a bs).n0 ≠ 0) && decide ((streamOf a bs).n1 ≠ 0)) = true := by simp [hn0, hn1]
  have hsc : (!(streamOf a bs).ring || decide ((streamOf a bs).scope.toNat < 6)) = true := by
    cases h : (streamOf a bs).ring <;> simp [h, hscope]
  show execBind ga q s = _
  simp only [execBind, hr, checkAlign_aligned s0 ha, hb, check_met s1 _ _ haligned, check_met s1 _ _ hcounts,
    check_met s1 _ _ hsc, checkWatch_unwatched hw, Eff.andThen_ok]
  rfl

/-- UNBIND, whether or not there is a binding to end (R293). -/
theorem exec_unbind (q : BitVec 3) (s : State) : exec (.unbind q) s =
    .next ((s.modMe (fun sl => { sl with streams := mapDel sl.streams q.toNat })).retire 4) := rfl

/-- SPOS where nothing is bound (R294). -/
theorem exec_spos_unbound {s t : State} {gd : Reg} {q : BitVec 3} (h : mapGet s.me.streams q.toNat = none)
    (hw : writeG s gd 0 = .ok () t) : exec (.spos gd q) s = .next (t.retire 4) := by
  show execSpos gd q s = _
  rw [execSpos, h]; exact conclude_writeDone s hw

/-- SPOS of a binding (R294). -/
theorem exec_spos_bound {s t : State} {gd : Reg} {q : BitVec 3} {st : Stream} (h : mapGet s.me.streams q.toNat = some st)
    (hw : writeG s gd (1#1 ++ BitVec.ofBool st.write ++
      BitVec.ofBool (!st.ring && decide (st.n0 * st.n1 ≤ st.pos)) ++ 0#29 ++ BitVec.ofNat 32 st.pos) = .ok () t) :
    exec (.spos gd q) s = .next (t.retire 4) := by
  show execSpos gd q s = _
  rw [execSpos, h]; exact conclude_writeDone s hw

/-! Batches (R287, R288). -/

/-- With no command in the open batch there is nothing to close. -/
theorem closing_empty {s : State} (h : s.me.batchPending = 0) (v : Word) : closing s v = .ok () s := by
  rw [closing, if_pos h]

theorem closing_room {s : State} (h : s.me.batchPending ≠ 0) (hroom : s.me.batches.length < 15) (v : Word) :
    closing s v = .ok () (s.modMe closeBatch) := by
  rw [closing, if_neg h, outstanding, if_pos hroom]

theorem closing_full {s : State} (h : s.me.batchPending ≠ 0) (hfull : 15 ≤ s.me.batches.length) (v : Word) :
    closing s v = sleep .closeb v := by
  rw [closing, if_neg h, outstanding, if_neg (by omega)]

theorem exec_closeb {s s1 t : State} {gd : Reg} (hc : closing s 0 = .ok () s1)
    (hw : writeG s1 gd (BitVec.ofNat 64 s1.me.batches.length) = .ok () t) :
    exec (.closeb gd) s = .next (t.retire 4) := by
  show execCloseb gd s = _
  rw [execCloseb, hc]; exact conclude_writeDone s hw

/-- WAITB once few enough batches are outstanding (R288). -/
theorem exec_waitb_reached {s s1 t : State} {gd : Reg} {n : BitVec 4} (hc : closing s (n.setWidth 64) = .ok () s1)
    (hn : s1.me.batches.length ≤ n.toNat) (hw : writeG (expireAll s1 s1.myCore) gd
      (BitVec.ofNat 64 (expireAll s1 s1.myCore).me.batches.length) = .ok () t) :
    exec (.waitb gd n) s = .next (t.retire 4) := by
  show execWaitb gd n s = _
  rw [execWaitb, hc, Eff.andThen_ok, outstanding, if_pos hn]; exact conclude_writeDone s hw

/-- WAITB with nothing to close while too many batches are outstanding (R288). -/
theorem exec_waitb_sleeps {s : State} (gd : Reg) {n : BitVec 4} (hp : s.me.batchPending = 0)
    (hn : n.toNat < s.me.batches.length) :
    exec (.waitb gd n) s = .next ((keepPops s s).sleepFor (.waitb n.toNat) (n.setWidth 64)) := by
  have hkept : (keepPops s s).me.batchPending = 0 := by rw [keepPops_batchPending, hp]
  show execWaitb gd n s = _
  rw [execWaitb, closing_empty hp, Eff.andThen_ok, outstanding, if_neg (by omega), act, conclude_wait, if_pos hkept]

/-! Arrival counters (R258, R259). -/

/-- A core with one arrival counter set. -/
def Core.setCounter (k : Core) (kc : BitVec 5) (v : W32) : Core := { k with k := k.k.set kc.toNat v kc.isLt }

@[simp] theorem Core.counter_setCounter_same (k : Core) (kc : BitVec 5) (v : W32) :
    (k.setCounter kc v).counter kc = v := by
  simp only [Core.counter, Core.setCounter, Vector.getElem_set_self]

theorem Core.counter_setCounter_ne (k : Core) {kc x : BitVec 5} (v : W32) (h : x ≠ kc) :
    (k.setCounter kc v).counter x = k.counter x := by
  have hne : kc.toNat ≠ x.toNat := fun e => h (BitVec.eq_of_toNat_eq e.symm)
  simp only [Core.counter, Core.setCounter, Vector.getElem_set_ne _ _ hne]

/-- KSET: the value, and on it the bumps of the same cycle (R258, R259). -/
theorem exec_kset {s s1 : State} {ga : Reg} {v : Word} (kc : BitVec 5) (hr : readG s ga = .ok v s1) :
    exec (.kset ga kc) s = .next ((s1.modCore s1.myCore (fun k => k.setCounter kc (v.extractLsb' 0 32 +
      BitVec.ofNat 32 (s1.bumped.filter (fun b => b == (s1.myCore, kc.toNat))).length))).retire 4) := by
  show execKset ga kc s = _
  rw [execKset, hr, Eff.andThen_ok, ← low32_eq_extractLsb']; rfl

theorem exec_kread {s t : State} {gd : Reg} {kc : BitVec 5}
    (hw : writeG (expireAll s s.myCore) gd (0#32 ++ (s.core s.myCore).counter kc) = .ok () t) :
    exec (.kread gd kc) s = .next (t.retire 4) := by
  rw [← setWidth_eq_zero_append] at hw
  exact conclude_writeDone s hw

/-- KWAIT of a counter that has reached its threshold (R259). -/
theorem exec_kwait_reached {s s1 t : State} {gd ga : Reg} {kc : BitVec 5} {v : Word} (hr : readG s ga = .ok v s1)
    (hv : (v.extractLsb' 0 32).toNat ≤ ((s1.core s1.myCore).counter kc).toNat)
    (hw : writeG (expireAll s1 s1.myCore) gd (0#32 ++ (s1.core s1.myCore).counter kc) = .ok () t) :
    exec (.kwait gd ga kc) s = .next (t.retire 4) := by
  rw [← setWidth_eq_zero_append] at hw
  rw [← low32_eq_extractLsb'] at hv
  show execKwait gd ga kc s = _
  rw [execKwait, hr, Eff.andThen_ok, if_pos hv]; exact conclude_writeDone s hw

/-- KWAIT of a counter below its threshold (R259). -/
theorem exec_kwait_sleeps {s s1 : State} (gd : Reg) {ga : Reg} {kc : BitVec 5} {v : Word} (hr : readG s ga = .ok v s1)
    (hv : ((s1.core s1.myCore).counter kc).toNat < (v.extractLsb' 0 32).toNat) :
    exec (.kwait gd ga kc) s =
      .next (s.sleepFor (.kwait kc (v.extractLsb' 0 32)) ((v.extractLsb' 0 32).setWidth 64)) := by
  rw [← low32_eq_extractLsb'] at hv ⊢
  show execKwait gd ga kc s = _
  rw [execKwait, hr, Eff.andThen_ok, if_neg (by omega), conclude_sleep]

/-- Settles O39: each member comes to one state, named above, or to a sleep; the rest is what that state holds. -/
theorem streamMembers : Obligations.StreamMembers := by
  unfold Obligations.StreamMembers
  refine ⟨?bind, ?unbind, fun s t gd q => ⟨exec_spos_unbound, fun st => exec_spos_bound⟩, ?batches, ?counters⟩
  case bind =>
    intro s s0 s1 ga q a bs hr ha hb hw st haligned hn0 hn1 hscope
    have hbound : mapGet ((setStream s1 q.toNat (boundBy s1 a bs)).retire 4).me.streams q.toNat =
        some (boundBy s1 a bs) := by
      rw [State.retire_streams, mapGet_setStream_streams]
    exact ⟨_, exec_bind q hr ha hb hw haligned hn0 hn1 hscope, by simp, rfl, boundBy s1 a bs, hbound,
      rfl, rfl, rfl, rfl, rfl, rfl, rfl, rfl, rfl⟩
  case unbind =>
    intro s q
    exact ⟨_, exec_unbind q s, by simp, by simp, by simp, rfl⟩
  case batches =>
    intro s t gd
    refine ⟨fun v h => closing_empty h v, fun v h hroom => closing_room h hroom v,
      fun v h hfull => ⟨_, closing_full h hfull v, rfl⟩, fun s1 => exec_closeb, fun n s1 => exec_waitb_reached, ?_⟩
    intro n hp hn hawake
    rw [← keepPops_status s s] at hawake
    obtain ⟨z, hz, hkind, hpc⟩ := sleepFor_asleep hawake (.waitb n.toNat) (n.setWidth 64)
    exact ⟨_, z, exec_waitb_sleeps gd hp hn, hz, hkind, hpc.trans (keepPops_pc s s)⟩
  case counters =>
    intro s s1 t gd ga kc v hr
    refine ⟨⟨_, exec_kset kc hr, ?set, fun x hx => ?others, fun c hc => ?cores⟩, exec_kread, exec_kwait_reached hr,
      fun hv hawake => ?sleeps⟩
    case set => rw [State.retire_core, State.core_modCore_same, Core.counter_setCounter_same]
    case others => rw [State.retire_core, State.core_modCore_same, Core.counter_setCounter_ne _ _ hx]
    case cores => rw [State.retire_core, State.core_modCore_ne _ _ _ _ hc]
    case sleeps =>
      obtain ⟨z, hz, hkind, -⟩ := sleepFor_asleep hawake (.kwait kc (v.extractLsb' 0 32))
        ((v.extractLsb' 0 32).setWidth 64)
      exact ⟨_, z, exec_kwait_sleeps gd hr hv, hz, hkind⟩

end Sys2Proof.Machine
end

section
/-! Privilege (R349): what a supervisor instruction, and an access to a register of supervisor fields, come to in a user
slot. -/

namespace Sys2Proof.Machine

/-- TSTAT's bit 1 is SUP: a slot of region 0 is a supervisor slot (R349, R354). -/
theorem tstat_getLsbD_one (s : State) : (tstat s).getLsbD 1 = (s.me.region == 0) := by
  rw [tstat, BitVec.getLsbD_append, BitVec.getLsbD_append]
  simp

/-- A part that faults ends the instruction, whatever would follow it. -/
theorem conclude_andThen_of_trap {α : Type} (s : State) {e : Eff α} {c : Cause} {v : Word} (h : e = .trap c v)
    (rest : α → State → Eff Unit) : conclude s (e.andThen rest) = .next (takeFault s c v) := by
  rw [h, Eff.andThen_trap, conclude_trap]

/-! The supervisor instructions. -/

/-- An instruction whose first part, in every state, is the check for a supervisor slot with its own word. -/
def ChecksSupFirst (i : Instr) : Prop :=
  ∃ rest : Unit → State → Eff Unit, ∀ s : State,
    exec i s = conclude s ((checkSup s (encodeScalar i)).andThen rest)

/-- What would follow the check has no effect in a user slot. -/
theorem ChecksSupFirst.exec_user {i : Instr} (h : ChecksSupFirst i) {s : State} (huser : s.me.region ≠ 0) :
    exec i s = .next (takeFault s .priv ((encodeScalar i).setWidth 64)) := by
  obtain ⟨rest, hexec⟩ := h
  rw [hexec, conclude_andThen_of_trap s (checkSup_bad s _ huser)]

/-- The instructions that are for supervisor slots alone (R349, R375). -/
def supervisorInstrs (gd ga gb : Reg) : List Instr :=
  [.eretResume gd ga gb, .eretEnd gd ga, .tqpop gd ga, .tlbinvRange gd ga gb, .tlbinvAll gd, .tlbinvReplay gd ga gb,
    .gang gd ga, .xtrigHalt gd ga, .xtrigResume gd ga, .xtrigQuery gd ga, .tracewStart gd ga gb, .tracewStop gd ga gb,
    .tracewDump gd ga gb, .flash gd ga gb]

theorem supervisorInstrs_checkSupFirst (gd ga gb : Reg) : ∀ i ∈ supervisorInstrs gd ga gb, ChecksSupFirst i := by
  simp only [supervisorInstrs, List.forall_mem_cons, List.not_mem_nil, false_implies, implies_true, and_true]
  refine ⟨?eretResume, ?eretEnd, ?tqpop, ?tlbinvRange, ?tlbinvAll, ?tlbinvReplay, ?gang, ?xtrigHalt, ?xtrigResume,
    ?xtrigQuery, ?tracewStart, ?tracewStop, ?tracewDump, ?flash⟩
  all_goals exact ⟨_, fun _ => rfl⟩

/-! The registers of supervisor fields: reading and writing both begin with the check (R351). -/

section
variable {s : State} {cr : BitVec 6} (hcr : crKind cr = some .sup) (huser : s.me.region ≠ 0)
include hcr huser

theorem crReadable_sup_user (word : W32) : crReadable s cr word = .trap .priv (word.setWidth 64) := by
  rw [crReadable, hcr]; exact congrArg (Eff.andThen · _) (checkSup_bad s word huser)

theorem crWritable_sup_user (word : W32) : crWritable s cr word = .trap .priv (word.setWidth 64) := by
  rw [crWritable, hcr]; exact congrArg (Eff.andThen · _) (checkSup_bad s word huser)

theorem crChange_sup_user (op : CrOp) (word : W32) (gd ga : Reg) :
    crChange s cr op word gd ga = .trap .priv (word.setWidth 64) := by
  rw [crChange, crWritable_sup_user hcr huser, Eff.andThen_trap]

end

/-- Settles O53: a supervisor instruction begins with its check, and so does every access to a register of supervisor
fields. -/
theorem privilegeChecks : Obligations.PrivilegeChecks := by
  unfold Obligations.PrivilegeChecks
  refine ⟨tstat_getLsbD_one, fun s gd ga gb cr huser => ⟨fun hcr => ?registers, ?instructions⟩⟩
  case registers =>
    simp only [List.forall_mem_cons, List.not_mem_nil, false_implies, implies_true, and_true]
    exact ⟨
      conclude_andThen_of_trap s (crReadable_sup_user hcr huser _) _,
      conclude_andThen_of_trap s (crChange_sup_user hcr huser .write _ 0 ga) _,
      conclude_andThen_of_trap s (crChange_sup_user hcr huser .set _ gd ga) _,
      conclude_andThen_of_trap s (crChange_sup_user hcr huser .clear _ gd ga) _⟩
  case instructions =>
    exact fun i hi => (supervisorInstrs_checkSupFirst gd ga gb i hi).exec_user huser

end Sys2Proof.Machine
end

section
/-! Decoding and encoding (R32 to R43): each group of members gives back the word it decodes, and the word of each
well-formed instruction decodes to it. -/

namespace Sys2Proof

/-! A word is made of its fields. -/

theorem bitsOf_append {a b : Nat} (w : W32) (lo : Nat) : bitsOf w (lo + b) a ++ bitsOf w lo b = bitsOf w lo (a + b) := by
  ext i hi; simp [bitsOf, BitVec.getElem_append]; grind

theorem bitsOf_eq_append {a b : Nat} {w : W32} {lo : Nat} {x : BitVec a} {y : BitVec b} (hx : bitsOf w (lo + b) a = x)
    (hy : bitsOf w lo b = y) : bitsOf w lo (a + b) = x ++ y := by rw [← bitsOf_append, hx, hy]

theorem bitsOf_eq_ofNat {w : W32} {lo len n : Nat} (h : (bitsOf w lo len).toNat = n) :
    bitsOf w lo len = BitVec.ofNat len n := by
  rw [← h, BitVec.ofNat_toNat, BitVec.setWidth_eq]

/-- Every field within bits that are zero is zero. -/
theorem field_of_zero {w : W32} {lo len n : Nat} (h : (bitsOf w 0 n == 0) = true) (hn : lo + len ≤ n) :
    bitsOf w lo len = 0 := by
  have hz : bitsOf w lo len = (bitsOf w 0 n).extractLsb' lo len := by
    simp only [bitsOf]; ext i hi; simp; grind
  rw [hz, beq_iff_eq.1 h]; simp

theorem ofBool_beq_one (b : BitVec 1) : BitVec.ofBool (b == 1#1) = b := by revert b; decide

/-- A word of the R format from its fields (R34). -/
theorem eq_rWord {w : W32} {m : BitVec 6} {gd ga gb : Reg} {fn : BitVec 11} (hm : fMaj w = m) (hgd : fGd w = gd)
    (hga : fGa w = ga) (hgb : fGb w = gb) (hfn : bitsOf w 0 11 = fn) : rWord m gd ga gb fn = w := by
  subst hm hgd hga hgb hfn
  simp only [rWord, fMaj, fGd, fGa, fGb, bitsOf]; ext i hi; simp; grind

theorem eq_iWord {w : W32} {m : BitVec 6} {a b : Reg} {imm : BitVec 16} (hm : fMaj w = m) (ha : fGd w = a)
    (hb : fGa w = b) (himm : bitsOf w 0 16 = imm) : iWord m a b imm = w := by
  subst hm ha hb himm
  simp only [iWord, fMaj, fGd, fGa, bitsOf]; ext i hi; simp; grind

theorem eq_uWord {w : W32} {m : BitVec 6} (hm : fMaj w = m) : uWord m (fGd w) (bitsOf w 0 21) = w := by
  subst hm
  simp only [uWord, fMaj, fGd, bitsOf]; ext i hi; simp; grind

theorem eq_jWord {w : W32} {m : BitVec 6} (hm : fMaj w = m) : jWord m (bitsOf w 0 26) = w := by
  subst hm
  simp only [jWord, fMaj, bitsOf]; ext i hi; simp; grind

theorem eq_mWord {w : W32} {m : BitVec 6} {size : BitVec 3} {flags : BitVec 2} (hm : fMaj w = m)
    (hsize : bitsOf w 13 3 = size) (hflags : bitsOf w 11 2 = flags) :
    mWord m (fGd w) (fGa w) size flags (bitsOf w 0 11) = w := by
  subst hm hsize hflags
  simp only [mWord, fMaj, fGd, fGa, bitsOf]; ext i hi; simp; grind

/-- fn of a word with this selector and the bits below it (R38). -/
theorem fn_of_selector {w : W32} {n : Nat} {low : BitVec 6} (hs : (fSel w).toNat = n) (hlow : bitsOf w 0 6 = low) :
    bitsOf w 0 11 = BitVec.ofNat 5 n ++ low :=
  bitsOf_eq_append (a := 5) (b := 6) (bitsOf_eq_ofNat hs) hlow

/-- The same where the bits below the selector are two fields. -/
theorem fn_of_selector_split {w : W32} {n a b : Nat} {x : BitVec a} {y : BitVec b} (hab : a + b = 6)
    (hs : (fSel w).toNat = n) (hx : bitsOf w b a = x) (hy : bitsOf w 0 b = y) :
    bitsOf w 0 (5 + a + b) = BitVec.ofNat 5 n ++ x ++ y := by
  subst hx hy
  refine bitsOf_eq_append (bitsOf_eq_append ?_ (by rw [Nat.zero_add])) rfl
  rw [Nat.zero_add, Nat.add_comm, hab]
  exact bitsOf_eq_ofNat hs

/-! What a word decodes to encodes as that word again and is well-formed. -/

/-- A decoder's answer for a word is an instruction that this word stands for. -/
def Inverts (w : W32) (d : Except Reject Instr) : Prop :=
  ∀ i, d = .ok i → encodeScalar i = w ∧ WellFormed i = true

theorem Inverts.error (w : W32) (r : Reject) : Inverts w (.error r) := fun _ h => nomatch h

theorem Inverts.ok {w : W32} {i : Instr} (he : encodeScalar i = w) (hw : WellFormed i = true) : Inverts w (.ok i) := by
  intro j h; cases h; exact ⟨he, hw⟩

theorem Inverts.need {w : W32} {c : Bool} {i : Instr} (hw : c = true → WellFormed i = true)
    (he : c = true → encodeScalar i = w) : Inverts w (need c i) := by
  unfold Sys2Proof.need
  split
  next h => exact .ok (he h) (hw h)
  next => exact .error w _

theorem Inverts.needSize {w : W32} {c : Bool} {i : Instr} (hw : c = true → WellFormed i = true)
    (he : c = true → encodeScalar i = w) : Inverts w (needSize c i) := by
  unfold Sys2Proof.needSize
  split
  next h => exact .ok (he h) (hw h)
  next => exact .error w _

section
variable {w : W32}

theorem decodeInt_inverts (h : fMaj w = 0x01) : Inverts w (decodeInt w) := by
  unfold decodeInt
  split
  case h_27 => exact .error w _
  all_goals
    next hs =>
    refine .need (fun _ => rfl) fun hr => ?_
    simp at hr
    exact eq_rWord h rfl rfl (by simp [hr]) (fn_of_selector hs (by simp [hr]))

theorem decodeMuldiv_inverts (h : fMaj w = 0x0A) : Inverts w (decodeMuldiv w) := by
  unfold decodeMuldiv
  split
  case h_8 => exact .error w _
  all_goals
    next hs =>
    refine .need (fun _ => rfl) fun hr => ?_
    simp at hr
    exact eq_rWord h rfl rfl rfl (fn_of_selector hs hr)

theorem decodeFp_inverts (h : fMaj w = 0x0B) : Inverts w (decodeFp w) := by
  unfold decodeFp
  split
  case h_11 => exact .error w _
  all_goals
    rename_i hs
    refine .need (fun _ => rfl) fun hr => ?_
    simp at hr
  case h_7 => exact eq_rWord h rfl rfl rfl (fn_of_selector_split (a := 4) (b := 2) rfl hs hr rfl)
  case h_8 | h_9 =>
    exact eq_rWord h rfl rfl hr.1 (fn_of_selector_split (a := 5) (b := 1) rfl hs hr.2 (ofBool_beq_one _).symm)
  all_goals exact eq_rWord h rfl rfl (by simp [hr]) (fn_of_selector hs (by simp [hr]))

theorem decodeLease_inverts (h : fMaj w = 0x24) : Inverts w (decodeLease w) := by
  unfold decodeLease
  split
  case h_5 => exact .error w _
  all_goals
    next hs =>
    refine .need (fun _ => rfl) fun hr => ?_
    simp at hr
    exact eq_rWord h (by simp [hr]) rfl (by simp [hr]) (fn_of_selector hs (by simp [hr]))

/-- fn of an atomic's word: the selector, scope, order and width (R161, R163). -/
theorem fn_of_amo {n : Nat} {w8 : BitVec 1} (hs : (fSel w).toNat = n) (hw : bitsOf w 0 1 = w8) :
    bitsOf w 0 11 = BitVec.ofNat 5 n ++ bitsOf w 3 3 ++ bitsOf w 1 2 ++ w8 :=
  bitsOf_eq_append (a := 10) (b := 1)
    (bitsOf_eq_append (a := 8) (b := 2) (bitsOf_eq_append (a := 5) (b := 3) (bitsOf_eq_ofNat hs) rfl) rfl) hw

theorem decodeAmo_inverts (h : fMaj w = 0x26) : Inverts w (decodeAmo w) := by
  unfold decodeAmo
  split
  case h_11 => exact .error w _
  all_goals
    rename_i hs
    refine .need (fun _ => rfl) fun hr => ?_
  case h_10 => exact eq_rWord h rfl rfl rfl (fn_of_amo hs (by simpa using hr))
  all_goals exact eq_rWord h rfl rfl rfl (fn_of_amo hs (ofBool_beq_one _).symm)

theorem decodeQres_inverts (h : fMaj w = 0x28) : Inverts w (decodeQres w) := by
  unfold decodeQres
  split
  case h_3 => exact .error w _
  all_goals
    next hs =>
    refine .need (fun _ => rfl) fun hr => ?_
    simp at hr
    exact eq_rWord h rfl rfl (by simp [hr]) (bitsOf_eq_append (a := 10) (b := 1)
      (bitsOf_eq_append (a := 8) (b := 2) (bitsOf_eq_append (a := 5) (b := 3) (bitsOf_eq_ofNat hs) rfl) (by simp [hr]))
      (ofBool_beq_one _).symm)

theorem decodeFe_inverts (h : fMaj w = 0x29) : Inverts w (decodeFe w) := by
  unfold decodeFe
  split
  case h_5 => exact .error w _
  all_goals
    next hs =>
    refine .need (fun _ => rfl) fun hr => ?_
    simp at hr
    exact eq_rWord h (by simp [hr]) rfl (by simp [hr]) (fn_of_selector hs (by simp [hr]))

theorem decodeBar_inverts (h : fMaj w = 0x2A) : Inverts w (decodeBar w) := by
  unfold decodeBar
  split
  case h_4 => exact .error w _
  all_goals
    next hs =>
    refine .need (fun _ => rfl) fun hr => ?_
    simp at hr
    exact eq_rWord h (by simp [hr]) rfl rfl (fn_of_selector_split (a := 3) (b := 3) rfl hs rfl (by simp [hr]))

theorem decodeCnt_inverts (h : fMaj w = 0x2B) : Inverts w (decodeCnt w) := by
  unfold decodeCnt
  split
  case h_4 => exact .error w _
  case h_3 hs =>
    exact .need id fun _ => eq_rWord h rfl rfl rfl (fn_of_selector_split (a := 3) (b := 3) rfl hs rfl rfl)
  all_goals
    next hs =>
    refine .need (fun _ => rfl) fun hr => ?_
    simp at hr
    exact eq_rWord h (by simp [hr]) rfl rfl (fn_of_selector_split (a := 3) (b := 3) rfl hs rfl (by simp [hr]))

theorem decodeMsg_inverts (h : fMaj w = 0x30) : Inverts w (decodeMsg w) := by
  unfold decodeMsg
  split
  case h_9 => exact .error w _
  all_goals
    rename_i hs
    refine .need (fun _ => rfl) fun hr => ?_
    simp at hr
  case h_1 | h_2 => exact eq_rWord h rfl rfl rfl (fn_of_selector_split (a := 3) (b := 3) rfl hs rfl hr)
  all_goals exact eq_rWord h (by simp [hr]) (by simp [hr]) (by simp [hr]) (fn_of_selector hs (by simp [hr]))

theorem decodeThunk_inverts (h : fMaj w = 0x31) : Inverts w (decodeThunk w) := by
  unfold decodeThunk
  split
  case h_9 => exact .error w _
  all_goals
    next hs =>
    refine .need (fun _ => rfl) fun hr => ?_
    simp at hr
    exact eq_rWord h (by simp [hr]) rfl (by simp [hr]) (fn_of_selector hs (by simp [hr]))

theorem decodeSnapshot_inverts (h : fMaj w = 0x32) : Inverts w (decodeSnapshot w) := by
  unfold decodeSnapshot
  split
  case h_5 => exact .error w _
  all_goals
    next hs =>
    refine .need (fun _ => rfl) fun hr => ?_
    simp at hr
    exact eq_rWord h (by simp [hr]) rfl (by simp [hr]) (fn_of_selector hs (by simp [hr]))

theorem decodeShuffle_inverts (h : fMaj w = 0x33) : Inverts w (decodeShuffle w) := by
  unfold decodeShuffle
  split
  case h_6 => exact .error w _
  all_goals
    next hs =>
    refine .need (fun _ => rfl) fun hr => ?_
    simp at hr
    exact eq_rWord h rfl (by simp [hr]) (by simp [hr]) (fn_of_selector hs (by simp [hr]))

theorem decodeStream_inverts (h : fMaj w = 0x34) : Inverts w (decodeStream w) := by
  unfold decodeStream
  split
  case h_6 => exact .error w _
  all_goals
    rename_i hs
    refine .need (fun _ => rfl) fun hr => ?_
    simp at hr
    refine eq_rWord h (by simp [hr]) (by simp [hr]) (by simp [hr]) ?_
  case h_3 => exact fn_of_selector hs (by simp [hr])
  case h_4 => exact fn_of_selector_split (a := 2) (b := 4) rfl hs (by simp [hr]) rfl
  all_goals exact fn_of_selector_split (a := 3) (b := 3) rfl hs (by simp [hr]) rfl

/-- fn of a word whose form stands in bits 1:0 (R38). -/
theorem fn_of_form {n k : Nat} (hs : (fSel w).toNat = n) (hr : bitsOf w 2 4 = 0) (hf : (bitsOf w 0 2).toNat = k) :
    bitsOf w 0 11 = BitVec.ofNat 5 n ++ 0#4 ++ BitVec.ofNat 2 k :=
  fn_of_selector_split (a := 4) (b := 2) rfl hs hr (bitsOf_eq_ofNat hf)

theorem decodeRegion_inverts (h : fMaj w = 0x35) : Inverts w (decodeRegion w) := by
  unfold decodeRegion
  split
  case h_9 => exact .error w _
  case h_4 hs =>
    split
    case h_4 => exact .error w _
    all_goals
      next hf =>
      refine .need (fun _ => rfl) fun hr => ?_
      exact eq_rWord h rfl rfl rfl (fn_of_form hs (by simpa using hr) hf)
  all_goals
    next hs =>
    refine .need (fun _ => rfl) fun hr => ?_
    simp at hr
    exact eq_rWord h rfl rfl (by simp [hr]) (fn_of_selector hs (by simp [hr]))

theorem decodeSys_inverts (h : fMaj w = 0x36) : Inverts w (decodeSys w) := by
  unfold decodeSys
  split
  case h_11 => exact .error w _
  case h_6 hs | h_8 hs =>
    split
    case h_4 => exact .error w _
    all_goals
      next hf =>
      refine .need (fun _ => rfl) fun hr => ?_
      simp at hr
      exact eq_rWord h (by simp [hr]) (by simp [hr]) (by simp [hr]) (fn_of_form hs (by simp [hr]) hf)
  all_goals
    rename_i hs
    refine .need (fun _ => rfl) fun hr => ?_
    simp at hr
    refine eq_rWord h (by simp [hr]) (by simp [hr]) (by simp [hr]) ?_
  case h_1 | h_2 | h_3 | h_4 => exact fn_of_selector hs rfl
  case h_5 => exact fn_of_selector_split (a := 1) (b := 5) rfl hs (by simp [hr]) rfl
  all_goals exact fn_of_selector hs (by simp [hr])

theorem decodeDebug_inverts (h : fMaj w = 0x37) : Inverts w (decodeDebug w) := by
  unfold decodeDebug
  split
  case h_6 => exact .error w _
  case h_3 hs | h_4 hs =>
    split
    case h_4 => exact .error w _
    all_goals
      next hf =>
      refine .need (fun _ => rfl) fun hr => ?_
      simp at hr
      exact eq_rWord h rfl rfl (by simp [hr]) (fn_of_form hs (by simp [hr]) hf)
  all_goals
    rename_i hs
    refine .need (fun _ => rfl) fun hr => ?_
    simp at hr
    refine eq_rWord h (by simp [hr]) (by simp [hr]) (by simp [hr]) ?_
  case h_1 => exact fn_of_selector hs rfl
  case h_2 =>
    exact bitsOf_eq_append (a := 10) (b := 1)
      (bitsOf_eq_append (a := 8) (b := 2) (bitsOf_eq_append (a := 5) (b := 3) (bitsOf_eq_ofNat hs) (by simp [hr])) rfl)
      (ofBool_beq_one _).symm
  case h_5 => exact fn_of_selector hs hr

theorem decodeHeapk_inverts (h : fMaj w = 0x38) : Inverts w (decodeHeapk w) := by
  unfold decodeHeapk
  split
  case h_6 => exact .error w _
  all_goals
    rename_i hs
    refine .need (fun _ => rfl) fun hr => ?_
    simp at hr
    refine eq_rWord h (by simp [hr]) (by simp [hr]) (by simp [hr]) ?_
  case h_1 | h_2 => exact fn_of_selector hs (by simp [hr])
  all_goals exact fn_of_selector_split (a := 1) (b := 5) rfl hs (by simp [hr]) rfl

theorem decodeShi_inverts (h : fMaj w = 0x06) : Inverts w (decodeShi w) := by
  unfold decodeShi
  split
  case h_4 => exact .error w _
  all_goals
    next hs =>
    refine .need (fun _ => rfl) fun hr => eq_iWord h rfl rfl ?_
    exact bitsOf_eq_append (a := 10) (b := 6)
      (bitsOf_eq_append (a := 2) (b := 8) (bitsOf_eq_ofNat hs) (by simpa using hr)) rfl

theorem bit_eq_one {x : BitVec 1} (h : x.toNat ≠ 0) : x = 1#1 := by revert x; decide

theorem decodeSeti_inverts (h : fMaj w = 0x07) : Inverts w (decodeSeti w) := by
  unfold decodeSeti
  split
  case h_1 hs => exact .ok (eq_iWord h rfl rfl (bitsOf_eq_append (a := 1) (b := 15) (bitsOf_eq_ofNat hs) rfl)) rfl
  case h_2 hs => exact .ok (eq_iWord h rfl rfl (bitsOf_eq_append (a := 1) (b := 15) (bit_eq_one hs) rfl)) rfl

/-- The size field of a memory access with its top bit and width (R36). -/
theorem size_of_bits {b : BitVec 1} (h : bitsOf w 15 1 = b) : bitsOf w 13 3 = b ++ bitsOf w 13 2 :=
  bitsOf_eq_append (a := 1) (b := 2) h rfl

theorem decodeLd_inverts (h : fMaj w = 0x20) : Inverts w (decodeLd w) := by
  unfold decodeLd
  split
  case h_1 hf hu => exact .ok (eq_mWord h (size_of_bits (bitsOf_eq_ofNat hu)) (bitsOf_eq_ofNat hf)) rfl
  case h_2 hf hu =>
    exact .needSize id fun _ => eq_mWord h (size_of_bits (bit_eq_one hu)) (bitsOf_eq_ofNat hf)
  case h_3 hf hu =>
    refine .needSize (fun _ => rfl) fun hr => eq_mWord h ?_ (bitsOf_eq_ofNat hf)
    rw [size_of_bits (bitsOf_eq_ofNat hu), beq_iff_eq.1 hr]; rfl
  case h_4 => exact .error w _

theorem decodeSt_inverts (h : fMaj w = 0x21) : Inverts w (decodeSt w) := by
  unfold decodeSt
  split
  case h_1 hf hu => exact .ok (eq_mWord h (size_of_bits (bitsOf_eq_ofNat hu)) (bitsOf_eq_ofNat hf)) rfl
  case h_2 hf hu =>
    refine .needSize (fun _ => rfl) fun hr => eq_mWord h ?_ (bitsOf_eq_ofNat hf)
    rw [size_of_bits (bitsOf_eq_ofNat hu), beq_iff_eq.1 hr]; rfl
  case h_3 => exact .error w _

theorem decodeMemq_inverts (h : fMaj w = 0x2C) : Inverts w (decodeMemq w) := by
  unfold decodeMemq
  split
  case h_3 => exact .error w _
  all_goals
    next hs => exact .needSize id fun _ => eq_mWord h (bitsOf_eq_ofNat hs) rfl

theorem decodeFence_inverts (h : fMaj w = 0x25) : Inverts w (decodeFence w) := by
  unfold decodeFence
  split
  case h_4 => exact .error w _
  all_goals
    next hk =>
    refine .need (fun _ => rfl) fun hr => ?_
    simp at hr
    exact eq_rWord h (by simp [hr]) (by simp [hr]) (by simp [hr]) (bitsOf_eq_append (a := 9) (b := 2)
      (bitsOf_eq_append (a := 3) (b := 6) rfl (by simp [hr])) (bitsOf_eq_ofNat hk))

theorem decodeCas_inverts (h : fMaj w = 0x27) : Inverts w (decodeCas w) := by
  refine .need (fun _ => rfl) fun hr => ?_
  simp at hr
  exact eq_rWord h rfl rfl rfl (bitsOf_eq_append (a := 8) (b := 3) (bitsOf_eq_append (a := 7) (b := 1)
    (bitsOf_eq_append (a := 6) (b := 1) (bitsOf_eq_append (a := 5) (b := 1) (bitsOf_eq_append (a := 3) (b := 2) rfl rfl)
      (by simp [hr])) (ofBool_beq_one _).symm) (ofBool_beq_one _).symm) (by simp [hr]))

/-- A scalar word stands for what it decodes to: the major names the group (R37). -/
theorem decodeScalar_inverts (w : W32) : Inverts w (decodeScalar w) := by
  unfold decodeScalar
  split
  case h_43 => exact .error w _
  all_goals
    rename_i hm
    replace hm : fMaj w = _ := bitsOf_eq_ofNat hm
  case h_1 => exact decodeInt_inverts hm
  case h_2 => exact decodeMuldiv_inverts hm
  case h_3 => exact decodeFp_inverts hm
  case h_4 => exact decodeLease_inverts hm
  case h_5 => exact decodeAmo_inverts hm
  case h_6 => exact decodeQres_inverts hm
  case h_7 => exact decodeFe_inverts hm
  case h_8 => exact decodeBar_inverts hm
  case h_9 => exact decodeCnt_inverts hm
  case h_10 => exact decodeMsg_inverts hm
  case h_11 => exact decodeThunk_inverts hm
  case h_12 => exact decodeSnapshot_inverts hm
  case h_13 => exact decodeShuffle_inverts hm
  case h_14 => exact decodeStream_inverts hm
  case h_15 => exact decodeRegion_inverts hm
  case h_16 => exact decodeSys_inverts hm
  case h_17 => exact decodeDebug_inverts hm
  case h_18 => exact decodeHeapk_inverts hm
  case h_23 => exact decodeShi_inverts hm
  case h_24 => exact decodeSeti_inverts hm
  case h_25 | h_26 => exact .ok (eq_uWord hm) rfl
  case h_33 | h_34 => exact .ok (eq_jWord hm) rfl
  case h_35 =>
    refine .need (fun _ => rfl) fun hr => ?_
    exact eq_rWord hm rfl rfl (field_of_zero hr (by decide)) (field_of_zero hr (by decide))
  case h_36 => exact decodeLd_inverts hm
  case h_37 => exact decodeSt_inverts hm
  case h_38 | h_39 => exact .ok (eq_mWord hm rfl rfl) rfl
  case h_40 => exact decodeFence_inverts hm
  case h_41 => exact decodeCas_inverts hm
  case h_42 => exact decodeMemq_inverts hm
  all_goals exact .ok (eq_iWord hm rfl rfl rfl) rfl

/-- A tile command's words decode to that command's constructor, and to no scalar instruction. -/
theorem decodeTile_tile {t : TileWords} {i : Instr} (h : decodeTile t = .ok i) : i.tile? = some t := by
  unfold decodeTile at h
  split at h
  case h_33 => cases h
  all_goals cases h; rfl

/-- A scalar instruction's words are one word. -/
theorem decodeWords_scalar {rest : List W32} {i : Instr} (h : decodeWords (w :: rest) = .ok i) (ht : i.tile? = none) :
    fMaj w ≠ 0x3F ∧ decodeScalar w = .ok i := by
  rw [decodeWords] at h
  split at h
  next =>
    split at h
    next t _ => rw [decodeTile_tile h] at ht; cases ht
    next => cases h
  next hm => exact ⟨by simpa using hm, h⟩

/-- No word of zeros decodes: 0x00 is no major opcode (R37). -/
theorem decodeScalar_ne_zero {i : Instr} (h : decodeScalar w = .ok i) : w ≠ 0 := by
  rintro rfl
  exact nomatch (h : Except.error Reject.reservedMajor = .ok i)

end
namespace Machine

/-- The instructions of one word are those whose encoding is not the word of zeros. -/
theorem hasWords_scalar {i : Instr} (ht : i.tile? = none) : hasWords i = true ↔ encodeScalar i ≠ 0 := by
  unfold hasWords isEvent
  rw [ht]
  split
  next word idx =>
    have h0 : encodeScalar (.illegalEncoding word idx) = 0 := rfl
    simp [h0]
  next => simp
end Machine

/-- Settles O2: the word is made of the fields of what it decodes to, group by group. -/
theorem encodeDecode : Obligations.EncodeDecode := by
  unfold Obligations.EncodeDecode
  intro w rest i h ht
  obtain ⟨-, hd⟩ := decodeWords_scalar h ht
  obtain ⟨he, hw⟩ := decodeScalar_inverts w i hd
  refine ⟨?_, hw, (Machine.hasWords_scalar ht).2 (he ▸ decodeScalar_ne_zero hd)⟩
  rw [encode, ht, he]

end Sys2Proof
end

section
/-! The word of a well-formed instruction decodes to it (R32 to R43). First what the fields of fn are, for each way that fn is
made up. -/

namespace Sys2Proof

/-- Bits that are an append are its parts, each where it stands. -/
theorem parts_of_append {w : W32} {lo a b : Nat} {x : BitVec a} {y : BitVec b} (h : bitsOf w lo (a + b) = x ++ y) :
    bitsOf w (lo + b) a = x ∧ bitsOf w lo b = y := by
  rw [← bitsOf_append] at h
  have hl := congrArg (BitVec.extractLsb' b a) h
  have hr := congrArg (BitVec.extractLsb' 0 b) h
  rw [BitVec.extractLsb'_append_eq_left, BitVec.extractLsb'_append_eq_left] at hl
  rw [BitVec.extractLsb'_append_eq_right, BitVec.extractLsb'_append_eq_right] at hr
  exact ⟨hl, hr⟩

section
variable (m : BitVec 6) (gd ga gb : Reg)

theorem fn_rWord (fn : BitVec 11) : bitsOf (rWord m gd ga gb fn) 0 11 = fn := by
  rw [bitsOf_rWord m gd ga gb fn 0 11 (by decide), BitVec.extractLsb'_eq_self]

@[simp] theorem fn_low (k : BitVec 5) (x : BitVec 6) :
    fSel (rWord m gd ga gb (k ++ x)) = k ∧ bitsOf (rWord m gd ga gb (k ++ x)) 0 6 = x :=
  parts_of_append (a := 5) (b := 6) (fn_rWord m gd ga gb (k ++ x))

@[simp] theorem fn_3_3 (k : BitVec 5) (x : BitVec 3) (y : BitVec 3) :
    fSel (rWord m gd ga gb (k ++ x ++ y)) = k ∧ bitsOf (rWord m gd ga gb (k ++ x ++ y)) 3 3 = x ∧
      bitsOf (rWord m gd ga gb (k ++ x ++ y)) 0 3 = y := by
  obtain ⟨h, hy⟩ := parts_of_append (a := 8) (b := 3) (fn_rWord m gd ga gb (k ++ x ++ y))
  obtain ⟨hk, hx⟩ := parts_of_append (a := 5) (b := 3) h
  exact ⟨hk, hx, hy⟩

@[simp] theorem fn_4_2 (k : BitVec 5) (x : BitVec 4) (y : BitVec 2) :
    fSel (rWord m gd ga gb (k ++ x ++ y)) = k ∧ bitsOf (rWord m gd ga gb (k ++ x ++ y)) 2 4 = x ∧
      bitsOf (rWord m gd ga gb (k ++ x ++ y)) 0 2 = y := by
  obtain ⟨h, hy⟩ := parts_of_append (a := 9) (b := 2) (fn_rWord m gd ga gb (k ++ x ++ y))
  obtain ⟨hk, hx⟩ := parts_of_append (a := 5) (b := 4) h
  exact ⟨hk, hx, hy⟩

@[simp] theorem fn_5_1 (k : BitVec 5) (x : BitVec 5) (y : BitVec 1) :
    fSel (rWord m gd ga gb (k ++ x ++ y)) = k ∧ bitsOf (rWord m gd ga gb (k ++ x ++ y)) 1 5 = x ∧
      bitsOf (rWord m gd ga gb (k ++ x ++ y)) 0 1 = y := by
  obtain ⟨h, hy⟩ := parts_of_append (a := 10) (b := 1) (fn_rWord m gd ga gb (k ++ x ++ y))
  obtain ⟨hk, hx⟩ := parts_of_append (a := 5) (b := 5) h
  exact ⟨hk, hx, hy⟩

@[simp] theorem fn_2_4 (k : BitVec 5) (x : BitVec 2) (y : BitVec 4) :
    fSel (rWord m gd ga gb (k ++ x ++ y)) = k ∧ bitsOf (rWord m gd ga gb (k ++ x ++ y)) 4 2 = x ∧
      bitsOf (rWord m gd ga gb (k ++ x ++ y)) 0 4 = y := by
  obtain ⟨h, hy⟩ := parts_of_append (a := 7) (b := 4) (fn_rWord m gd ga gb (k ++ x ++ y))
  obtain ⟨hk, hx⟩ := parts_of_append (a := 5) (b := 2) h
  exact ⟨hk, hx, hy⟩

@[simp] theorem fn_1_5 (k : BitVec 5) (x : BitVec 1) (y : BitVec 5) :
    fSel (rWord m gd ga gb (k ++ x ++ y)) = k ∧ bitsOf (rWord m gd ga gb (k ++ x ++ y)) 5 1 = x ∧
      bitsOf (rWord m gd ga gb (k ++ x ++ y)) 0 5 = y := by
  obtain ⟨h, hy⟩ := parts_of_append (a := 6) (b := 5) (fn_rWord m gd ga gb (k ++ x ++ y))
  obtain ⟨hk, hx⟩ := parts_of_append (a := 5) (b := 1) h
  exact ⟨hk, hx, hy⟩

@[simp] theorem fn_3_2_1 (k : BitVec 5) (x : BitVec 3) (y : BitVec 2) (z : BitVec 1) :
    fSel (rWord m gd ga gb (k ++ x ++ y ++ z)) = k ∧ bitsOf (rWord m gd ga gb (k ++ x ++ y ++ z)) 3 3 = x ∧
      bitsOf (rWord m gd ga gb (k ++ x ++ y ++ z)) 1 2 = y ∧ bitsOf (rWord m gd ga gb (k ++ x ++ y ++ z)) 0 1 = z := by
  obtain ⟨h, hz⟩ := parts_of_append (a := 10) (b := 1) (fn_rWord m gd ga gb (k ++ x ++ y ++ z))
  obtain ⟨h, hy⟩ := parts_of_append (a := 8) (b := 2) h
  obtain ⟨hk, hx⟩ := parts_of_append (a := 5) (b := 3) h
  exact ⟨hk, hx, hy, hz⟩

/-- fn of FENCE: the scope and the kind (R148). -/
@[simp] theorem fn_fence (x : BitVec 3) (k : BitVec 2) :
    bitsOf (rWord m gd ga gb (x ++ 0#6 ++ k)) 8 3 = x ∧ bitsOf (rWord m gd ga gb (x ++ 0#6 ++ k)) 2 6 = 0 ∧
      bitsOf (rWord m gd ga gb (x ++ 0#6 ++ k)) 0 2 = k := by
  obtain ⟨h, hk⟩ := parts_of_append (a := 9) (b := 2) (fn_rWord m gd ga gb (x ++ 0#6 ++ k))
  obtain ⟨hx, h0⟩ := parts_of_append (a := 3) (b := 6) h
  exact ⟨hx, h0, hk⟩

/-- fn of CAS: scope, success order, failure order and width (R163). -/
@[simp] theorem fn_cas (x : BitVec 3) (y : BitVec 2) (f w8 : BitVec 1) :
    let w := rWord m gd ga gb (x ++ y ++ 0#1 ++ f ++ w8 ++ 0#3)
    bitsOf w 8 3 = x ∧ bitsOf w 6 2 = y ∧ bitsOf w 5 1 = 0 ∧ bitsOf w 4 1 = f ∧ bitsOf w 3 1 = w8 ∧ bitsOf w 0 3 = 0 := by
  obtain ⟨h, h0⟩ := parts_of_append (a := 8) (b := 3) (fn_rWord m gd ga gb (x ++ y ++ 0#1 ++ f ++ w8 ++ 0#3))
  obtain ⟨h, hw⟩ := parts_of_append (a := 7) (b := 1) h
  obtain ⟨h, hf⟩ := parts_of_append (a := 6) (b := 1) h
  obtain ⟨h, h1⟩ := parts_of_append (a := 5) (b := 1) h
  obtain ⟨hx, hy⟩ := parts_of_append (a := 3) (b := 2) h
  exact ⟨hx, hy, h1, hf, hw, h0⟩

/-- The immediate of SHI: the selector and the shift count (R39). -/
@[simp] theorem imm_shi (k : BitVec 2) (sh : BitVec 6) :
    bitsOf (iWord m gd ga (k ++ 0#8 ++ sh)) 14 2 = k ∧ bitsOf (iWord m gd ga (k ++ 0#8 ++ sh)) 6 8 = 0 ∧
      bitsOf (iWord m gd ga (k ++ 0#8 ++ sh)) 0 6 = sh := by
  have hi : bitsOf (iWord m gd ga (k ++ 0#8 ++ sh)) 0 16 = k ++ 0#8 ++ sh := by
    rw [bitsOf_iWord _ _ _ _ _ _ (by decide), BitVec.extractLsb'_eq_self]
  obtain ⟨h, hsh⟩ := parts_of_append (a := 10) (b := 6) hi
  obtain ⟨hk, h0⟩ := parts_of_append (a := 2) (b := 8) h
  exact ⟨hk, h0, hsh⟩

/-- The immediate of SETI: the selector and 15 bits (R39). -/
@[simp] theorem imm_seti (k : BitVec 1) (imm : BitVec 15) :
    bitsOf (iWord m gd ga (k ++ imm)) 15 1 = k ∧ bitsOf (iWord m gd ga (k ++ imm)) 0 15 = imm := by
  have hi : bitsOf (iWord m gd ga (k ++ imm)) 0 16 = k ++ imm := by
    rw [bitsOf_iWord _ _ _ _ _ _ (by decide), BitVec.extractLsb'_eq_self]
  exact parts_of_append (a := 1) (b := 15) hi

@[simp] theorem imm_iWord (imm : BitVec 16) : bitsOf (iWord m gd ga imm) 0 16 = imm := by
  rw [bitsOf_iWord _ _ _ _ _ _ (by decide), BitVec.extractLsb'_eq_self]

/-- The size field of an access: its top bit and width (R36). -/
@[simp] theorem size_mWord (b : BitVec 1) (x fl : BitVec 2) (off : BitVec 11) :
    bitsOf (mWord m gd ga (b ++ x) fl off) 15 1 = b ∧ bitsOf (mWord m gd ga (b ++ x) fl off) 13 2 = x := by
  have hs : bitsOf (mWord m gd ga (b ++ x) fl off) 13 3 = b ++ x := by
    rw [bitsOf_mWord_size _ _ _ _ _ _ 0 _ (by decide), BitVec.extractLsb'_eq_self]
  exact parts_of_append (a := 1) (b := 2) hs

@[simp] theorem wholeSize_mWord (sz : BitVec 3) (fl : BitVec 2) (off : BitVec 11) : bitsOf (mWord m gd ga sz fl off) 13 3 = sz := by
  rw [bitsOf_mWord_size _ _ _ _ _ _ 0 _ (by decide), BitVec.extractLsb'_eq_self]

end

/-- The fields that every word of a format has (R34). -/
@[simp] theorem fields_rWord (m : BitVec 6) (gd ga gb : Reg) (fn : BitVec 11) :
    fMaj (rWord m gd ga gb fn) = m ∧ fGd (rWord m gd ga gb fn) = gd ∧ fGa (rWord m gd ga gb fn) = ga ∧
      fGb (rWord m gd ga gb fn) = gb :=
  ⟨fMaj_rWord .., fGd_rWord .., fGa_rWord .., fGb_rWord ..⟩

@[simp] theorem fields_iWord (m : BitVec 6) (a b : Reg) (imm : BitVec 16) :
    fMaj (iWord m a b imm) = m ∧ fGd (iWord m a b imm) = a ∧ fGa (iWord m a b imm) = b :=
  ⟨fMaj_iWord .., fGd_iWord .., fGa_iWord ..⟩

@[simp] theorem fields_uWord (m : BitVec 6) (gd : Reg) (imm : BitVec 21) :
    fMaj (uWord m gd imm) = m ∧ fGd (uWord m gd imm) = gd ∧ bitsOf (uWord m gd imm) 0 21 = imm :=
  ⟨fMaj_uWord .., fGd_uWord .., bitsOf_uWord ..⟩

@[simp] theorem fields_jWord (m : BitVec 6) (off : BitVec 26) :
    fMaj (jWord m off) = m ∧ bitsOf (jWord m off) 0 26 = off :=
  ⟨fMaj_jWord .., bitsOf_jWord ..⟩

@[simp] theorem fields_mWord (m : BitVec 6) (gd ga : Reg) (sz : BitVec 3) (fl : BitVec 2) (off : BitVec 11) :
    fMaj (mWord m gd ga sz fl off) = m ∧ fGd (mWord m gd ga sz fl off) = gd ∧ fGa (mWord m gd ga sz fl off) = ga ∧
      bitsOf (mWord m gd ga sz fl off) 11 2 = fl ∧ bitsOf (mWord m gd ga sz fl off) 0 11 = off :=
  ⟨fMaj_mWord .., fGd_mWord .., fGa_mWord .., bitsOf_mWord_flags .., bitsOf_mWord_off ..⟩

/-- The word of JR has nothing below ga (R104). -/
@[simp] theorem low_jrWord (m : BitVec 6) (gd ga : Reg) : bitsOf (rWord m gd ga 0#5 0#11) 0 16 = 0#16 :=
  bitsOf_eq_append (a := 5) (b := 11) (fGb_rWord ..) (fn_rWord ..)

/-- The size field of the .A8 forms (R36). -/
@[simp] theorem size_a8Word (m : BitVec 6) (gd ga : Reg) (fl : BitVec 2) (off : BitVec 11) :
    bitsOf (mWord m gd ga 3#3 fl off) 15 1 = 0#1 ∧ bitsOf (mWord m gd ga 3#3 fl off) 13 2 = 3#2 :=
  size_mWord m gd ga 0 3 fl off

@[simp] theorem ofBool_beq_one_eq (b : Bool) : (BitVec.ofBool b == 1#1) = b := by cases b <;> rfl

/-! The group that a major opcode names (R37). -/
section
variable {w : W32}

theorem decodeScalar_int (h : fMaj w = 0x01) : decodeScalar w = decodeInt w := by
  rw [decodeScalar, h]; rfl

theorem decodeScalar_muldiv (h : fMaj w = 0x0A) : decodeScalar w = decodeMuldiv w := by
  rw [decodeScalar, h]; rfl

theorem decodeScalar_fp (h : fMaj w = 0x0B) : decodeScalar w = decodeFp w := by
  rw [decodeScalar, h]; rfl

theorem decodeScalar_lease (h : fMaj w = 0x24) : decodeScalar w = decodeLease w := by
  rw [decodeScalar, h]; rfl

theorem decodeScalar_amo (h : fMaj w = 0x26) : decodeScalar w = decodeAmo w := by
  rw [decodeScalar, h]; rfl

theorem decodeScalar_qres (h : fMaj w = 0x28) : decodeScalar w = decodeQres w := by
  rw [decodeScalar, h]; rfl

theorem decodeScalar_fe (h : fMaj w = 0x29) : decodeScalar w = decodeFe w := by
  rw [decodeScalar, h]; rfl

theorem decodeScalar_bar (h : fMaj w = 0x2A) : decodeScalar w = decodeBar w := by
  rw [decodeScalar, h]; rfl

theorem decodeScalar_cnt (h : fMaj w = 0x2B) : decodeScalar w = decodeCnt w := by
  rw [decodeScalar, h]; rfl

theorem decodeScalar_msg (h : fMaj w = 0x30) : decodeScalar w = decodeMsg w := by
  rw [decodeScalar, h]; rfl

theorem decodeScalar_thunk (h : fMaj w = 0x31) : decodeScalar w = decodeThunk w := by
  rw [decodeScalar, h]; rfl

theorem decodeScalar_snapshot (h : fMaj w = 0x32) : decodeScalar w = decodeSnapshot w := by
  rw [decodeScalar, h]; rfl

theorem decodeScalar_shuffle (h : fMaj w = 0x33) : decodeScalar w = decodeShuffle w := by
  rw [decodeScalar, h]; rfl

theorem decodeScalar_stream (h : fMaj w = 0x34) : decodeScalar w = decodeStream w := by
  rw [decodeScalar, h]; rfl

theorem decodeScalar_region (h : fMaj w = 0x35) : decodeScalar w = decodeRegion w := by
  rw [decodeScalar, h]; rfl

theorem decodeScalar_sys (h : fMaj w = 0x36) : decodeScalar w = decodeSys w := by
  rw [decodeScalar, h]; rfl

theorem decodeScalar_debug (h : fMaj w = 0x37) : decodeScalar w = decodeDebug w := by
  rw [decodeScalar, h]; rfl

theorem decodeScalar_heapk (h : fMaj w = 0x38) : decodeScalar w = decodeHeapk w := by
  rw [decodeScalar, h]; rfl

theorem decodeScalar_shi (h : fMaj w = 0x06) : decodeScalar w = decodeShi w := by
  rw [decodeScalar, h]; rfl

theorem decodeScalar_seti (h : fMaj w = 0x07) : decodeScalar w = decodeSeti w := by
  rw [decodeScalar, h]; rfl

theorem decodeScalar_ld (h : fMaj w = 0x20) : decodeScalar w = decodeLd w := by
  rw [decodeScalar, h]; rfl

theorem decodeScalar_st (h : fMaj w = 0x21) : decodeScalar w = decodeSt w := by
  rw [decodeScalar, h]; rfl

theorem decodeScalar_fence (h : fMaj w = 0x25) : decodeScalar w = decodeFence w := by
  rw [decodeScalar, h]; rfl

theorem decodeScalar_cas (h : fMaj w = 0x27) : decodeScalar w = decodeCas w := by
  rw [decodeScalar, h]; rfl

theorem decodeScalar_memq (h : fMaj w = 0x2C) : decodeScalar w = decodeMemq w := by
  rw [decodeScalar, h]; rfl

end


/-- The word of a well-formed scalar instruction decodes to it, group by group. -/
theorem decodeScalar_encodeScalar {i : Instr} (hw : encodeScalar i ≠ 0) (hwf : WellFormed i = true) :
    decodeScalar (encodeScalar i) = .ok i := by
  cases i
  case add | sub | and | or | xor | andn | sll | srl | sra | rol | min | max | minu | maxu | slt | sltu | seq
      | sel | clz | ctz | popc | bswap | sextb | sexth | sextw | zextw =>
    change decodeScalar (rWord 0x01 _ _ _ _) = _
    rw [decodeScalar_int (fMaj_rWord ..)]
    simp [decodeInt, need, -BitVec.reduceAppend]
  case mul | mulh | mulhu | div | divu | rem | remu =>
    change decodeScalar (rWord 0x0A _ _ _ _) = _
    rw [decodeScalar_muldiv (fMaj_rWord ..)]
    simp [decodeMuldiv, need, -BitVec.reduceAppend]
  case fadd | fsub | fmul | ffma | fmin | fmax | fcmp | fcvtif | fcvtfi | fneg =>
    change decodeScalar (rWord 0x0B _ _ _ _) = _
    rw [decodeScalar_fp (fMaj_rWord ..)]
    simp [decodeFp, need, -BitVec.reduceAppend]
  case renew | drop | prune | pref =>
    change decodeScalar (rWord 0x24 _ _ _ _) = _
    rw [decodeScalar_lease (fMaj_rWord ..)]
    simp [decodeLease, need, -BitVec.reduceAppend]
  case amoAdd | amoAnd | amoOr | amoXor | amoMin | amoMax | amoMinu | amoMaxu | amoSwap | amoFadd =>
    change decodeScalar (rWord 0x26 _ _ _ _) = _
    rw [decodeScalar_amo (fMaj_rWord ..)]
    simp [decodeAmo, need, -BitVec.reduceAppend]
  case lrw | sch =>
    change decodeScalar (rWord 0x28 _ _ _ _) = _
    rw [decodeScalar_qres (fMaj_rWord ..)]
    simp [decodeQres, need, -BitVec.reduceAppend]
  case ldfe | ldff | stef | sete =>
    change decodeScalar (rWord 0x29 _ _ _ _) = _
    rw [decodeScalar_fe (fMaj_rWord ..)]
    simp [decodeFe, need, -BitVec.reduceAppend]
  case arrive | waitph | bard =>
    change decodeScalar (rWord 0x2A _ _ _ _) = _
    rw [decodeScalar_bar (fMaj_rWord ..)]
    simp [decodeBar, need, -BitVec.reduceAppend]
  case waitcnt | notify =>
    change decodeScalar (rWord 0x2B _ _ _ _) = _
    rw [decodeScalar_cnt (fMaj_rWord ..)]
    simp [decodeCnt, need, -BitVec.reduceAppend]
  case send | spawn | recv | peek | migrate | yield | exit | slotq =>
    change decodeScalar (rWord 0x30 _ _ _ _) = _
    rw [decodeScalar_msg (fMaj_rWord ..)]
    simp [decodeMsg, need, -BitVec.reduceAppend]
  case suspend | force | fpoll | spark | retain | release | mkval | hstate =>
    change decodeScalar (rWord 0x31 _ _ _ _) = _
    rw [decodeScalar_thunk (fMaj_rWord ..)]
    simp [decodeThunk, need, -BitVec.reduceAppend]
  case snap | accept | reject | snapq =>
    change decodeScalar (rWord 0x32 _ _ _ _) = _
    rw [decodeScalar_snapshot (fMaj_rWord ..)]
    simp [decodeSnapshot, need, -BitVec.reduceAppend]
  case shuf | side | unside | disp | shq =>
    change decodeScalar (rWord 0x33 _ _ _ _) = _
    rw [decodeScalar_shuffle (fMaj_rWord ..)]
    simp [decodeShuffle, need, -BitVec.reduceAppend]
  case bind | unbind | closeb | waitb | spos =>
    change decodeScalar (rWord 0x34 _ _ _ _) = _
    rw [decodeScalar_stream (fMaj_rWord ..)]
    simp [decodeStream, need, -BitVec.reduceAppend]
  case launch | rcreate | rbudget | resideReq | resideRel | resideQry | atTime | waitt | gang | rdone =>
    change decodeScalar (rWord 0x35 _ _ _ _) = _
    rw [decodeScalar_region (fMaj_rWord ..)]
    simp [decodeRegion, need, -BitVec.reduceAppend]
  case crr | crw | crs | crc | trap | eretSelf | eretResume | eretEnd | tqpop | tlbinvRange | tlbinvAll |
      tlbinvReplay | nop | enum =>
    change decodeScalar (rWord 0x36 _ _ _ _) = _
    rw [decodeScalar_sys (fMaj_rWord ..)]
    simp [decodeSys, need, -BitVec.reduceAppend]
  case bkpt | watch | xtrigHalt | xtrigResume | xtrigQuery | tracewStart | tracewStop | tracewDump | flash =>
    change decodeScalar (rWord 0x37 _ _ _ _) = _
    rw [decodeScalar_debug (fMaj_rWord ..)]
    simp [decodeDebug, need, -BitVec.reduceAppend]
  case hsift | htake | kset | kwait | kread =>
    change decodeScalar (rWord 0x38 _ _ _ _) = _
    rw [decodeScalar_heapk (fMaj_rWord ..)]
    simp [decodeHeapk, need, -BitVec.reduceAppend]
  case addi =>
    change decodeScalar (iWord 0x02 _ _ _) = _
    simp [decodeScalar]
  case andi =>
    change decodeScalar (iWord 0x03 _ _ _) = _
    simp [decodeScalar]
  case ori =>
    change decodeScalar (iWord 0x04 _ _ _) = _
    simp [decodeScalar]
  case xori =>
    change decodeScalar (iWord 0x05 _ _ _) = _
    simp [decodeScalar]
  case slli | srli | srai =>
    change decodeScalar (iWord 0x06 _ _ _) = _
    rw [decodeScalar_shi (fMaj_iWord ..)]
    simp [decodeShi, need, -BitVec.reduceAppend]
  case slti | sltiu =>
    change decodeScalar (iWord 0x07 _ _ _) = _
    rw [decodeScalar_seti (fMaj_iWord ..)]
    simp [decodeSeti, -BitVec.reduceAppend]
  case lui =>
    change decodeScalar (uWord 0x08 _ _) = _
    simp [decodeScalar]
  case adpc =>
    change decodeScalar (uWord 0x09 _ _) = _
    simp [decodeScalar]
  case beq =>
    change decodeScalar (iWord 0x10 _ _ _) = _
    simp [decodeScalar]
  case bne =>
    change decodeScalar (iWord 0x11 _ _ _) = _
    simp [decodeScalar]
  case blt =>
    change decodeScalar (iWord 0x12 _ _ _) = _
    simp [decodeScalar]
  case bge =>
    change decodeScalar (iWord 0x13 _ _ _) = _
    simp [decodeScalar]
  case bltu =>
    change decodeScalar (iWord 0x14 _ _ _) = _
    simp [decodeScalar]
  case bgeu =>
    change decodeScalar (iWord 0x15 _ _ _) = _
    simp [decodeScalar]
  case jmp =>
    change decodeScalar (jWord 0x16 _) = _
    simp [decodeScalar]
  case call =>
    change decodeScalar (jWord 0x17 _) = _
    simp [decodeScalar]
  case jr =>
    change decodeScalar (rWord 0x18 _ _ _ _) = _
    simp [decodeScalar, need]
  case ld | ldA8 =>
    change decodeScalar (mWord 0x20 _ _ _ _ _) = _
    rw [decodeScalar_ld (fMaj_mWord ..)]
    simp [decodeLd, needSize, -BitVec.reduceAppend]
  case st | stA8 =>
    change decodeScalar (mWord 0x21 _ _ _ _ _) = _
    rw [decodeScalar_st (fMaj_mWord ..)]
    simp [decodeSt, needSize, -BitVec.reduceAppend]
  case ldacq =>
    change decodeScalar (mWord 0x22 _ _ _ _ _) = _
    simp [decodeScalar]
  case strel =>
    change decodeScalar (mWord 0x23 _ _ _ _ _) = _
    simp [decodeScalar]
  case fenceAcq | fenceRel | fenceFull =>
    change decodeScalar (rWord 0x25 _ _ _ _) = _
    rw [decodeScalar_fence (fMaj_rWord ..)]
    simp [decodeFence, need, -BitVec.reduceAppend]
  case cas =>
    change decodeScalar (rWord 0x27 _ _ _ _) = _
    rw [decodeScalar_cas (fMaj_rWord ..)]
    simp [decodeCas, need, -BitVec.reduceAppend]
  case rupd op =>
    have hop : op.toNat < 6 := of_decide_eq_true hwf
    change decodeScalar (rWord 0x2B _ _ _ _) = _
    rw [decodeScalar_cnt (fMaj_rWord ..)]
    simp [decodeCnt, need, -BitVec.reduceAppend, hop]
  case ldu w _ =>
    have hsize : (w != 3#2) = true := hwf
    change decodeScalar (mWord 0x20 _ _ _ _ _) = _
    rw [decodeScalar_ld (fMaj_mWord ..)]
    simpa [decodeLd, needSize, -BitVec.reduceAppend] using hsize
  case ldq gd _ fl _ | stq gd _ fl _ =>
    have hsize : (pairOk gd && fl != 3#2) = true := hwf
    change decodeScalar (mWord 0x2C _ _ _ _ _) = _
    rw [decodeScalar_memq (fMaj_mWord ..)]
    simpa [decodeMemq, needSize, -BitVec.reduceAppend] using hsize
  all_goals exact absurd rfl hw

/-- A tile command decodes by the engine and the op of its first word (R40, R41). -/
theorem decodeWords_isOp {t : TileWords} {e : BitVec 4} {o : BitVec 8} {d : Except Reject Instr} (hop : t.isOp e o = true)
    (hd : bitsOf t.w0 22 4 = e → bitsOf t.w0 14 8 = o → decodeTile t = d) : decodeWords t.words = d := by
  simp only [TileWords.isOp, Bool.and_eq_true, beq_iff_eq] at hop
  obtain ⟨⟨hm, he⟩, ho⟩ := hop
  rw [← hd he ho, TileWords.words, decodeWords, fMaj, hm]; rfl

/-- The words of a well-formed tile command decode to it (R32, R40, R41). -/
theorem decodeTile_words {i : Instr} {t : TileWords} (ht : i.tile? = some t) (hwf : WellFormed i = true) :
    decodeWords t.words = .ok i := by
  cases i
  case mma | mmar | rot | zacc | tadd | tsub | tmul | tfma | tmax | tmin | texp | trcp | trsq | tsilu | tgelu | tcmp | tsel
      | ttrn | tred | tbcast | tfill | combine | ldtab | cvt | qnt | dqt | amax | scl | copy | gather | scatter | coll =>
    cases ht
    refine decodeWords_isOp hwf fun he ho => ?_
    rw [decodeTile, he, ho]; rfl
  all_goals cases ht

/-- 0x3F leads tile commands alone (R37). -/
theorem decodeScalar_major_ne {w : W32} {i : Instr} (h : decodeScalar w = .ok i) : fMaj w ≠ 0x3F := by
  intro hm
  rw [decodeScalar, hm] at h
  exact nomatch (h : Except.error Reject.reservedMajor = .ok i)

/-- Settles O1: a tile command's words are its own, and a scalar instruction's word has every field where the decoder reads
it. -/
theorem decodeEncode : Obligations.DecodeEncode := by
  unfold Obligations.DecodeEncode
  intro i hwords hwf
  cases ht : i.tile? with
  | some t => rw [encode, ht]; exact decodeTile_words ht hwf
  | none =>
    have hd := decodeScalar_encodeScalar ((Machine.hasWords_scalar ht).1 hwords) hwf
    rw [encode, ht]
    exact (if_neg (by simpa using decodeScalar_major_ne hd)).trans hd

end Sys2Proof
end

section
/-! Every step answers a next state (R28, R356): no meaning of an instruction or event stops the machine, and neither does what
stands around it. -/

namespace Sys2Proof.Machine

/-- What every instruction and event comes to is a next state: a scalar instruction or tile command ends with what it has come
to, an event and a command of the port with the state they leave. -/
theorem exec_next (i : Instr) (s : State) : ∃ t, exec i s = .next t := by
  cases i
  case eretSelf =>
    show ∃ t, execEretSelf s = .next t
    unfold execEretSelf
    split <;> exact ⟨_, rfl⟩
  case hostLaunch cmd =>
    show ∃ t, execHostLaunch cmd s = .next t
    unfold execHostLaunch
    dsimp only
    split
    · exact ⟨_, rfl⟩
    · split
      · exact ⟨_, rfl⟩
      · split <;> exact ⟨_, rfl⟩
  case otherOpCommand cmd =>
    show ∃ t, execOtherOpCommand cmd s = .next t
    unfold execOtherOpCommand
    dsimp only
    split <;> exact ⟨_, rfl⟩
  case jmp | unbind | nop | bkpt | illegalEncoding | storeDrain | remoteStoreAccept | homeLoadRequest | loadReply |
      leaseExpiry | homeEviction | fetchLineFill | streamStallResume | atomicAtHome | lrwResend | reservationTimeout |
      bardNotificationArrival | bardResend | exit | completionMessagePlace | messageArrival | taskStart |
      taskBudgetRetest | spawnRequestArrival | spawnAnswerArrival | migrateTransfer | yieldTimeout | coreHot |
      thermalDisplacement | hgdataWrite | rafWrite | tqnoteWrite | tqstatWrite | sharerInvalidate | linePoison |
      uncorrectableError | tileDispatch | ringHandoff | matrixBlockEnd | collTimeout | partialResultArrival |
      snapAnnounce | sparkTake | sparkDrop | evalWake | frameGrant | evalCommandComplete | referenceDrop |
      advertisementArrival | shelfExpiry | cupboardExpiry | blockPostArrival | shufResend | codingWindowExpiry |
      retransmitRelease | packetReceive | nackArrival | lossNotice | cupboardEviction | dispatchArrival | placeRow |
      launchPlacement | residencyGrant | residencyRelease | waittWake | alarm | gangSwitchOut | gangSwitchIn |
      tileCompletion | snapshotEndAnnounce | trapRecordAppend | heldRecordAppend | rupdCountAdd | remoteAccessArrival
      | xlateReplayTimeout | traceStop | flashPulse | coreFail | builtInSelfCheck | clockFault | clockFaultClear |
      domainJoin | powerOn | moduleReset | linkWidthChange | linkLoss | moduleRemoval | hostMemWrite | discardedWrite
      | discClear | allow | revoke | endRegion | ackstop | fwload | markCmd | policyActivate | sleepWake |
      waitlimExpiry | withdrawalResult | updateEntryArrival =>
    exact ⟨_, rfl⟩
  all_goals exact conclude_next _ _

/-- A turn answers, whatever is noted of it. -/
theorem fetchAndRun_next {note : Host.Outcome State Fault Refusal → Host.Outcome State Fault Refusal}
    (hnote : ∀ u, ∃ t, note (.next u) = .next t) (s : State) : ∃ t, fetchAndRun note s = .next t := by
  unfold fetchAndRun
  split
  next r v _ =>
    obtain ⟨u, hu⟩ := conclude_next s (writeDone s r v)
    rw [pushOn, hu]; exact hnote u
  next i _ _ =>
    obtain ⟨u, hu⟩ := exec_next i (issueNow s i)
    rw [hu]; exact hnote u
  next =>
    split
    next ws s' _ =>
      obtain ⟨u, hu⟩ := exec_next (instrAt s.me.pc ws) (issueNow s' (instrAt s.me.pc ws))
      dsimp only
      rw [hu]; exact hnote u
    next => exact ⟨_, rfl⟩
    next => exact hnote _

theorem takeTurn_next (s : State) (slot : Nat) : ∃ t, takeTurn s slot = .next t :=
  fetchAndRun_next (fun _ => ⟨_, rfl⟩) _

theorem serviceTurn_next (s : State) (b slot : Nat) : ∃ t, serviceTurn s b slot = .next t := by
  unfold serviceTurn
  dsimp only
  split
  · exact ⟨_, rfl⟩
  · split
    · exact ⟨_, rfl⟩
    · exact fetchAndRun_next (fun _ => ⟨_, rfl⟩) _

theorem passStep_next (s : State) (after : List Move) : ∃ t, passStep s after = .next t := by
  unfold passStep
  split
  · exact takeTurn_next ..
  · exact serviceTurn_next ..
  · exact ⟨_, rfl⟩

theorem runMove_next (m : Move) (rest : List Move) (s : State) : ∃ t, runMove m rest s = .next t := by
  unfold runMove
  split
  · dsimp only
    split
    · exact takeTurn_next ..
    · exact ⟨_, rfl⟩
  · split
    · exact exec_next ..
    · exact ⟨_, rfl⟩
  case h_7 => exact passStep_next ..
  all_goals exact ⟨_, rfl⟩

theorem defaultMove_next (s : State) : ∃ t, defaultMove s = .next t := by
  unfold defaultMove
  split
  · exact ⟨_, rfl⟩
  · exact passStep_next ..

/-- Settles O6: an event that is due, a move of the agenda and the default schedule's move each answer. -/
theorem stepAlwaysAnswers : Obligations.StepAlwaysAnswers := by
  unfold Obligations.StepAlwaysAnswers
  intro s
  unfold step
  split
  · exact ⟨_, rfl⟩
  · exact runMove_next ..
  · exact defaultMove_next ..

end Sys2Proof.Machine
end

section
/-! Results of the members with two sources (R95, R98, R100): the words of the model's functions, and each member as what it
computes. -/

namespace Sys2Proof.Machine

/-! Products and quotients (R98). -/

theorem toNat_setWidth_six (b : Word) : (b.setWidth 6).toNat = b.toNat % 64 := by simp

/-- The high half of a product, from the product of the whole numbers. -/
theorem extractLsb'_ofInt_high (z : Int) : (BitVec.ofInt 128 z).extractLsb' 64 64 = BitVec.ofInt 64 (z / 2 ^ 64) := by
  apply BitVec.eq_of_toNat_eq
  simp only [BitVec.extractLsb'_toNat, BitVec.toNat_ofInt, Nat.shiftRight_eq_div_pow]
  omega

theorem mulHS_eq (a b : Word) : mulHS a b = (a.signExtend 128 * b.signExtend 128).extractLsb' 64 64 := by
  rw [mulHS, ← extractLsb'_ofInt_high, BitVec.ofInt_mul]; rfl

theorem mulHU_eq (a b : Word) : mulHU a b = (a.setWidth 128 * b.setWidth 128).extractLsb' 64 64 := by
  have ha := a.isLt
  have hb := b.isLt
  have hlt : a.toNat * b.toNat < 2 ^ 128 := by
    have := Nat.mul_lt_mul'' ha hb
    omega
  apply BitVec.eq_of_toNat_eq
  simp only [mulHU, BitVec.extractLsb'_toNat, BitVec.toNat_ofNat, BitVec.toNat_mul, BitVec.toNat_setWidth,
    Nat.shiftRight_eq_div_pow]
  rw [Nat.mod_eq_of_lt (a := a.toNat) (by omega), Nat.mod_eq_of_lt (a := b.toNat) (by omega), Nat.mod_eq_of_lt hlt]

theorem ofInt_tdiv_eq_sdiv (a b : Word) : BitVec.ofInt 64 (a.toInt.tdiv b.toInt) = a.sdiv b := by
  apply BitVec.eq_of_toInt_eq
  rw [BitVec.toInt_sdiv, BitVec.toInt_ofInt]

theorem divS_eq (a b : Word) : divS a b = if b = 0 then BitVec.allOnes 64 else a.sdiv b := by
  rw [divS, ofInt_tdiv_eq_sdiv]

theorem divU_eq (a b : Word) : divU a b = if b = 0 then BitVec.allOnes 64 else a.udiv b := by
  rw [divU, ← BitVec.toNat_udiv, BitVec.ofNat_toNat, BitVec.setWidth_eq]; rfl

/-- A word is its truncated quotient by another, times that, and the remainder. -/
theorem mul_tdiv_add_srem (a b : Word) : b * BitVec.ofInt 64 (a.toInt.tdiv b.toInt) + a.srem b = a := by
  have hr : BitVec.ofInt 64 (a.toInt.tmod b.toInt) = a.srem b := by rw [← BitVec.toInt_srem, BitVec.ofInt_toInt]
  calc b * BitVec.ofInt 64 (a.toInt.tdiv b.toInt) + a.srem b
    _ = BitVec.ofInt 64 (b.toInt * a.toInt.tdiv b.toInt + a.toInt.tmod b.toInt) := by
      rw [BitVec.ofInt_add, BitVec.ofInt_mul, BitVec.ofInt_toInt, hr]
    _ = a := by rw [Int.mul_tdiv_add_tmod, BitVec.ofInt_toInt]

theorem mul_div_add_umod (a b : Word) : b * BitVec.ofNat 64 (a.toNat / b.toNat) + a.umod b = a := by
  have hr : BitVec.ofNat 64 (a.toNat % b.toNat) = a.umod b := by
    rw [← BitVec.toNat_umod, BitVec.ofNat_toNat, BitVec.setWidth_eq]; rfl
  calc b * BitVec.ofNat 64 (a.toNat / b.toNat) + a.umod b
    _ = BitVec.ofNat 64 (b.toNat * (a.toNat / b.toNat) + a.toNat % b.toNat) := by
      rw [BitVec.ofNat_add, BitVec.ofNat_mul, BitVec.ofNat_toNat, BitVec.setWidth_eq, hr]
    _ = a := by rw [Nat.div_add_mod, BitVec.ofNat_toNat, BitVec.setWidth_eq]

theorem sub_eq_of_add {a b c : Word} (h : b + c = a) : a - b = c := by
  rw [← h, BitVec.add_comm, BitVec.add_sub_cancel]

theorem remS_eq (a b : Word) : remS a b = if b = 0 then a else a.srem b := by
  unfold remS divS
  split
  · rfl
  · exact sub_eq_of_add (mul_tdiv_add_srem a b)

theorem remU_eq (a b : Word) : remU a b = if b = 0 then a else a.umod b := by
  unfold remU divU
  split
  · rfl
  · exact sub_eq_of_add (mul_div_add_umod a b)

/-! Comparisons (R95). -/

theorem minS_eq (a b : Word) : minS a b = if a.toInt < b.toInt then a else b := by simp [minS, BitVec.slt]

theorem maxS_eq (a b : Word) : maxS a b = if a.toInt < b.toInt then b else a := by simp [maxS, BitVec.slt]

theorem minU_eq (a b : Word) : minU a b = if a.toNat < b.toNat then a else b := by simp [minU, BitVec.ult]

theorem maxU_eq (a b : Word) : maxU a b = if a.toNat < b.toNat then b else a := by simp [maxU, BitVec.ult]

theorem boolWord_beq (a b : Word) : boolWord (a == b) = if a = b then 1 else 0 := by simp [boolWord]

/-! The members with two sources. -/

/-- Two sources read in their order, the result written (R94). -/
theorem conclude_binary {s s1 s2 t : State} {gd ga gb : Reg} {a b : Word} {f : Word → Word → Word}
    (ha : readG s ga = .ok a s1) (hb : readG s1 gb = .ok b s2) (hw : writeG s2 gd (f a b) = .ok () t) :
    conclude s (binary s gd ga gb f) = .next (t.retire 4) := by
  rw [binary, ha, Eff.andThen_ok, hb]; exact conclude_writeDone s hw

/-- The members with this constructor read ga, then gb, and write f of them to gd, whatever the state. -/
def ComputesBinary (member : Reg → Reg → Reg → Instr) (f : Word → Word → Word) : Prop :=
  ∀ (gd ga gb : Reg) (s : State), exec (member gd ga gb) s = conclude s (binary s gd ga gb f)

theorem ComputesBinary.congr {member : Reg → Reg → Reg → Instr} {f g : Word → Word → Word} (h : ComputesBinary member g)
    (hfg : ∀ a b, g a b = f a b) : ComputesBinary member f := by
  have : g = f := funext fun a => funext (hfg a)
  rwa [← this]

theorem ComputesBinary.exec {member : Reg → Reg → Reg → Instr} {f : Word → Word → Word} (h : ComputesBinary member f)
    {s s1 s2 t : State} {gd ga gb : Reg} {a b : Word} (ha : readG s ga = .ok a s1) (hb : readG s1 gb = .ok b s2)
    (hw : writeG s2 gd (f a b) = .ok () t) : exec (member gd ga gb) s = .next (t.retire 4) := by
  rw [h gd ga gb s, conclude_binary ha hb hw]

/-- Every row computes what the table says; where no law of words is named, the member's own function is the row's. -/
theorem binaryRows_compute : ∀ row ∈ binaryRows, ComputesBinary row.1 row.2 := by
  simp only [binaryRows, List.forall_mem_cons, List.not_mem_nil, false_implies, implies_true, and_true]
  refine ⟨?add, ?sub, ?and, ?or, ?xor, ?andn, ?sll, ?srl, ?sra, ?rol,
    .congr (fun _ _ _ _ => rfl) minS_eq, .congr (fun _ _ _ _ => rfl) maxS_eq,
    .congr (fun _ _ _ _ => rfl) minU_eq, .congr (fun _ _ _ _ => rfl) maxU_eq,
    .congr (fun _ _ _ _ => rfl) boolWord_slt, .congr (fun _ _ _ _ => rfl) boolWord_ult,
    .congr (fun _ _ _ _ => rfl) boolWord_beq, ?mul,
    .congr (fun _ _ _ _ => rfl) mulHS_eq, .congr (fun _ _ _ _ => rfl) mulHU_eq,
    .congr (fun _ _ _ _ => rfl) divS_eq, .congr (fun _ _ _ _ => rfl) divU_eq,
    .congr (fun _ _ _ _ => rfl) remS_eq, .congr (fun _ _ _ _ => rfl) remU_eq⟩
  case sll => exact .congr (fun _ _ _ _ => rfl) fun a b => by rw [toNat_setWidth_six]
  case srl => exact .congr (fun _ _ _ _ => rfl) fun a b => by rw [toNat_setWidth_six]
  case sra => exact .congr (fun _ _ _ _ => rfl) fun a b => by rw [toNat_setWidth_six]
  case rol => exact .congr (fun _ _ _ _ => rfl) fun a b => by rw [toNat_setWidth_six]
  all_goals exact fun _ _ _ _ => rfl

/-- Settles O10: every row computes its function, and what a member computes it writes. -/
theorem integerBinaryResults : Obligations.IntegerBinaryResults := by
  unfold Obligations.IntegerBinaryResults
  exact fun row hrow s s1 s2 t gd ga gb a b ha hb hw => (binaryRows_compute row hrow).exec ha hb hw

/-! FP32 (R93, R100). -/

/-- An operation on the low halves, zero-extended, as the statements write it. -/
theorem onLow_eq (f : W32 → W32 → W32) (a b : Word) : onLow f a b = 0#32 ++ f (a.extractLsb' 0 32) (b.extractLsb' 0 32) := by
  rw [onLow, setWidth_eq_zero_append, low32_eq_extractLsb', low32_eq_extractLsb']

/-- A comparison's result is a word of one bit. -/
theorem boolWord_low (f : W32 → W32 → Bool) (p : W32 → W32 → Prop) [∀ a b, Decidable (p a b)]
    (h : ∀ a b, f a b = decide (p a b)) (a b : Word) : boolWord (f (low32 a) (low32 b)) =
      0#32 ++ (if p (a.extractLsb' 0 32) (b.extractLsb' 0 32) then 1 else 0 : W32) := by
  rw [low32_eq_extractLsb', low32_eq_extractLsb', h, boolWord]
  by_cases hp : p (a.extractLsb' 0 32) (b.extractLsb' 0 32) <;> simp [hp]

theorem floatRows_compute : ∀ row ∈ floatRows,
    ComputesBinary row.1 (fun a b => 0#32 ++ row.2 (a.extractLsb' 0 32) (b.extractLsb' 0 32)) := by
  simp only [floatRows, List.forall_mem_cons, List.not_mem_nil, false_implies, implies_true, and_true]
  refine ⟨?fadd, ?fsub, ?fmul, ?fmin, ?fmax, ?eq, ?lt, ?le, ?un⟩
  case eq =>
    refine .congr (g := fun a b => boolWord (fcmp32 0 (low32 a) (low32 b))) (fun _ _ _ _ => rfl) ?_
    exact boolWord_low (fcmp32 0) (fun a b => eqNum (num32 a) (num32 b) = true) fun _ _ => by simp [fcmp32]
  case lt =>
    refine .congr (g := fun a b => boolWord (fcmp32 1 (low32 a) (low32 b))) (fun _ _ _ _ => rfl) ?_
    exact boolWord_low (fcmp32 1) (fun a b => ltNum (num32 a) (num32 b) = true) fun _ _ => by simp [fcmp32]
  case le =>
    refine .congr (g := fun a b => boolWord (fcmp32 2 (low32 a) (low32 b))) (fun _ _ _ _ => rfl) ?_
    exact boolWord_low (fcmp32 2) (fun a b => ltNum (num32 a) (num32 b) = true ∨ eqNum (num32 a) (num32 b) = true) fun _ _ => by simp [fcmp32]
  case un =>
    refine .congr (g := fun a b => boolWord (fcmp32 3 (low32 a) (low32 b))) (fun _ _ _ _ => rfl) ?_
    exact boolWord_low (fcmp32 3) (fun a b => isNan (num32 a) = true ∨ isNan (num32 b) = true) fun _ _ => by simp [fcmp32]
  all_goals exact .congr (fun _ _ _ _ => rfl) (onLow_eq _)

/-- FFMA with its three sources read (R94, R100). -/
theorem exec_ffma {s s1 s2 s3 t : State} {gd ga gb : Reg} {a b d : Word} (ha : readG s ga = .ok a s1)
    (hb : readG s1 gb = .ok b s2) (hd : readG s2 gd = .ok d s3)
    (hw : writeG s3 gd ((ffma32 (low32 a) (low32 b) (low32 d)).setWidth 64) = .ok () t) :
    exec (.ffma gd ga gb) s = .next (t.retire 4) := by
  show execFfma gd ga gb s = _
  rw [execFfma, ha, Eff.andThen_ok, hb, Eff.andThen_ok, hd, Eff.andThen_ok, conclude_writeDone s hw]

/-- SEL with its sources read: gb where ga is not 0 (R95). -/
theorem exec_sel_taken {s s1 s2 t : State} {gd ga gb : Reg} {a b : Word} (ha : readG s ga = .ok a s1)
    (hb : readG s1 gb = .ok b s2) (h : a ≠ 0) (hw : writeG s2 gd b = .ok () t) :
    exec (.sel gd ga gb) s = .next (t.retire 4) := by
  show execSel gd ga gb s = _
  rw [execSel, ha, Eff.andThen_ok, hb, Eff.andThen_ok, if_neg h, conclude_writeDone s hw]

/-- SEL with ga 0: gd is read, and kept (R95). -/
theorem exec_sel_kept {s s1 s2 t : State} {gd ga gb : Reg} {a b d : Word} (ha : readG s ga = .ok a s1)
    (hb : readG s1 gb = .ok b s2) (h : a = 0) (hd : readG s2 gd = .ok d t) :
    exec (.sel gd ga gb) s = .next (t.retire 4) := by
  show execSel gd ga gb s = _
  rw [execSel, ha, Eff.andThen_ok, hb, Eff.andThen_ok, if_pos h, hd]; rfl

/-- Settles O12: every FP32 row computes its function on the low halves; FFMA and SEL by their reads. -/
theorem floatAndSelectResults : Obligations.FloatAndSelectResults := by
  unfold Obligations.FloatAndSelectResults
  refine ⟨⟨fun row hrow s s1 s2 t gd ga gb a b ha hb hw => (floatRows_compute row hrow).exec ha hb hw, ?ffma⟩,
    fun s s1 s2 t gd ga gb a b d ha hb => ⟨exec_sel_taken ha hb, exec_sel_kept ha hb⟩⟩
  intro s s1 s2 s3 t gd ga gb a b d ha hb hd hw
  refine exec_ffma ha hb hd ?_
  rwa [setWidth_eq_zero_append, low32_eq_extractLsb', low32_eq_extractLsb', low32_eq_extractLsb']

end Sys2Proof.Machine
end

section
/-! The frame of a register read and write, and of the instructions that touch registers and the pc only (R93 to R104). -/

namespace Sys2Proof.Machine

/-- A change of the slot whose turn it is depends on that slot alone. -/
theorem State.modMe_congr (s : State) {f g : Slot → Slot} (h : f s.me = g s.me) : s.modMe f = s.modMe g :=
  congrArg (s.setSlot s.cur) h

@[simp] theorem Slot.with_setReg_g (sl : Slot) (r : Reg) (v : Word) : { sl with g := (sl.setReg r v).g } = sl.setReg r v := by
  unfold Slot.setReg; split <;> rfl

theorem Slot.reg_setReg_ne (sl : Slot) {r x : Reg} (v : Word) (h : x ≠ r) : (sl.setReg r v).reg x = sl.reg x := by
  rw [Slot.reg_setReg, if_neg h]
  split
  next h0 => rw [h0, Slot.reg_zero]
  next => rfl

theorem Slot.reg_setReg_same (sl : Slot) (r : Reg) (v : Word) : (sl.setReg r v).reg r = if r = 0 then 0 else v := by
  rw [Slot.reg_setReg, if_pos rfl]

/-- The registers of a slot are its field g: two slots that agree on it read alike. -/
theorem Slot.reg_congr {sl sl' : Slot} (h : sl.g = sl'.g) (r : Reg) : sl.reg r = sl'.reg r := by
  simp only [Slot.reg, h]

/-- What an instruction that touches registers and the pc only comes to: at most gd written, the slot on at some pc. -/
def RegStep (s : State) (gd : Reg) (t : State) : Prop :=
  ∃ (r : Reg) (v pc : Word), (r = gd ∨ r = 0) ∧ t = (s.modMe (fun sl => sl.setReg r v)).finish pc

/-- The slot after it, in terms of the slot before. -/
theorem me_modMe_finish (s : State) (f : Slot → Slot) (pc : Word) : ((s.modMe f).finish pc).me =
    { clearProgress (f s.me) with pc := pc, status := .ready, wpSkip := false } := by
  rw [State.me_finish, State.me_modMe]

theorem RegStep.of_write (s : State) (gd : Reg) (v pc : Word) :
    RegStep s gd ((s.modMe (fun sl => sl.setReg gd v)).finish pc) := ⟨gd, v, pc, .inl rfl, rfl⟩

theorem RegStep.of_finish (s : State) (gd : Reg) (pc : Word) : RegStep s gd (s.finish pc) := by
  refine ⟨0, 0, pc, .inr rfl, ?_⟩
  rw [State.finish, State.finish, State.modMe_modMe]
  rfl

/-- Nothing but the slot's registers, its pc and its progress marks changes; of the registers gd at most. -/
theorem RegStep.frame {s t : State} {gd : Reg} (h : RegStep s gd t) : t = { s with slots := t.slots } ∧
    (∀ n, n ≠ s.cur → t.slot n = s.slot n) ∧
    t.me = { clearProgress s.me with g := t.me.g, pc := t.me.pc, status := .ready, wpSkip := false } ∧
    (∀ r : Reg, r ≠ gd → t.me.reg r = s.me.reg r) ∧ ∀ a, byteAt t.mem a = byteAt s.mem a := by
  obtain ⟨r, v, pc, hr, rfl⟩ := h
  refine ⟨rfl, fun n hn => ?_, ?_, fun x hx => ?_, fun a => rfl⟩
  · exact (State.slot_finish_ne (s.modMe _) pc n hn).trans (State.slot_modMe_ne s n _ hn)
  · rw [me_modMe_finish]
    unfold Slot.setReg
    split <;> rfl
  · rw [me_modMe_finish]
    refine (Slot.reg_congr (sl' := s.me.setReg r v) rfl x).trans ?_
    obtain rfl | rfl := hr
    · exact Slot.reg_setReg_ne _ _ hx
    · rfl

/-! What each kind of these instructions comes to with no alias bound. -/

section
variable {s : State} (hs : s.me.streams = [])
include hs

theorem conclude_writeDone_plain (s0 : State) (gd : Reg) (v : Word) :
    conclude s0 (writeDone s gd v) = .next ((s.modMe (fun sl => sl.setReg gd v)).retire 4) :=
  conclude_writeDone s0 (writeG_plain s gd v (boundStream_none _ _ hs))

theorem regStep_binary (gd ga gb : Reg) (f : Word → Word → Word) :
    ∃ t, conclude s (binary s gd ga gb f) = .next t ∧ RegStep s gd t := by
  rw [binary_plain s gd ga gb f hs]
  exact ⟨_, rfl, .of_write ..⟩

theorem regStep_unary (gd ga : Reg) (f : Word → Word) : ∃ t, conclude s (unary s gd ga f) = .next t ∧ RegStep s gd t := by
  rw [unary_plain s gd ga f hs]
  exact ⟨_, rfl, .of_write ..⟩

theorem regStep_writeDone (gd : Reg) (v : Word) : ∃ t, conclude s (writeDone s gd v) = .next t ∧ RegStep s gd t :=
  ⟨_, conclude_writeDone_plain hs s gd v, .of_write ..⟩

theorem regStep_branch (gd ga gb : Reg) (off : BitVec 16) (taken : Word → Word → Bool) :
    ∃ t, conclude s (branch s ga gb off taken) = .next t ∧ RegStep s gd t :=
  ⟨_, conclude_branch off taken (readG_plain s ga (boundStream_none _ _ hs)) (readG_plain s gb (boundStream_none _ _ hs)),
    .of_finish ..⟩

theorem readG_none (r : Reg) : readG s r = .ok (s.me.reg r) s := readG_plain s r (boundStream_none _ _ hs)

theorem writeG_none (r : Reg) (v : Word) : writeG s r v = .ok () (s.modMe (fun sl => sl.setReg r v)) :=
  writeG_plain s r v (boundStream_none _ _ hs)

/-- The register-only instructions, by their kinds. -/
theorem exec_regOnly {i : Instr} {gd : Reg} (h : regOnly i = some gd) : ∃ t, exec i s = .next t ∧ RegStep s gd t := by
  cases i
  case sel gd ga gb =>
    cases h
    by_cases ha : s.me.reg ga = 0
    · exact ⟨_, exec_sel_kept (readG_none hs ga) (readG_none hs gb) ha (readG_none hs gd), .of_finish ..⟩
    · exact ⟨_, exec_sel_taken (readG_none hs ga) (readG_none hs gb) ha (writeG_none hs gd _), .of_write ..⟩
  case ffma gd ga gb =>
    cases h
    exact ⟨_, exec_ffma (readG_none hs ga) (readG_none hs gb) (readG_none hs gd) (writeG_none hs gd _), .of_write ..⟩
  case add | sub | and | or | xor | andn | sll | srl | sra | rol | min | max | minu | maxu | slt | sltu | seq | mul | mulh
      | mulhu | div | divu | rem | remu | fadd | fsub | fmul | fmin | fmax | fcmp =>
    cases h; exact regStep_binary hs ..
  case clz | ctz | popc | bswap | sextb | sexth | sextw | zextw | addi | andi | ori | xori | slli | srli | srai | slti
      | sltiu | fcvtif | fcvtfi | fneg =>
    cases h; exact regStep_unary hs ..
  case lui | adpc => cases h; exact regStep_writeDone hs ..
  case beq | bne | blt | bge | bltu | bgeu => cases h; exact regStep_branch hs ..
  case jmp off => cases h; exact ⟨_, exec_jmp off s, .of_finish ..⟩
  case nop => cases h; exact ⟨_, rfl, .of_finish ..⟩
  case call off => cases h; exact ⟨_, exec_call (writeG_none hs 31 _), .of_write ..⟩
  all_goals cases h

end

/-- Settles O9: a plain read and write, and the frame of what each register-only instruction comes to. -/
theorem registerFrame : Obligations.RegisterFrame := by
  unfold Obligations.RegisterFrame
  refine ⟨fun s r v hb => ⟨readG_plain s r hb, _, writeG_plain s r v hb, ?write, fun x hx => ?other, ?same⟩,
    fun i gd s h hs => ?frame⟩
  case write =>
    refine State.modMe_congr s ?_
    rw [State.me_modMe, Slot.with_setReg_g]
  case other => rw [State.me_modMe]; exact Slot.reg_setReg_ne _ _ hx
  case same => rw [State.me_modMe]; exact Slot.reg_setReg_same ..
  case frame =>
    obtain ⟨t, hexec, hstep⟩ := exec_regOnly hs h
    exact ⟨t, hexec, hstep.frame⟩

end Sys2Proof.Machine
end

section
/-! The loads and stores (R124 to R126, R129, R146, R147): complete where their bytes are found or taken, and MISALIGN
before any other check of the address. -/

namespace Sys2Proof.Machine

theorem checkAlign_misaligned (s : State) {a : Word} {n : Nat} (h : a.toNat % n ≠ 0) :
    checkAlign s a n = .trap .misalign a := by
  rw [checkAlign, decide_eq_false h, check_false]

/-- What follows a Release that is over at once is done as it stands (R159). -/
theorem released_ok {α : Type} {s t u : State} {scope : BitVec 3} {k : State → Eff α} {x : α}
    (hr : release s scope = .ok () t) (hk : k t = .ok x u) : released s scope k = .ok x u := by
  unfold release at hr
  unfold released
  split at hr
  next h => rw [if_pos h, hr, Eff.andThen_ok, hk]
  next h => cases hr; rw [if_neg h, hk]

/-! The shared computations of LD, LDU and ST. -/

theorem loadInstr_ok {s s1 s2 : State} {gd ga : Reg} {n : Nat} {off : BitVec 11} {b : Word} {bs : List Byte}
    (hr : readG s ga = .ok b s1) (ha : (effAddr b off).toNat % n = 0)
    (hl : loadBytes s1 (effAddr b off) n true false = .ok bs s2) (sx : Bool) :
    loadInstr s gd ga n off sx = writeDone s2 gd (if sx then sextBytes n (wordOf bs) else wordOf bs) := by
  simp only [loadInstr, hr, Eff.andThen_ok, checkAlign_aligned s1 ha, hl]

theorem loadInstr_misaligned {s s1 : State} {ga : Reg} {n : Nat} {off : BitVec 11} {b : Word}
    (hr : readG s ga = .ok b s1) (ha : (effAddr b off).toNat % n ≠ 0) (gd : Reg) (sx : Bool) :
    loadInstr s gd ga n off sx = .trap .misalign (effAddr b off) := by
  simp only [loadInstr, hr, Eff.andThen_ok, checkAlign_misaligned s1 ha, Eff.andThen_trap]

theorem storeInstr_ok {s s1 s2 t : State} {gd ga : Reg} {n : Nat} {off : BitVec 11} {b v : Word}
    (hr : readG s ga = .ok b s1) (hd : readG s1 gd = .ok v s2) (ha : (effAddr b off).toNat % n = 0)
    (hst : storeBytes s2 (effAddr b off) (bytesOf n v) false 0 = .ok () t) : storeInstr s gd ga n off = done t := by
  simp only [storeInstr, hr, Eff.andThen_ok, checkAlign_aligned s1 ha, hd, hst]

theorem storeInstr_misaligned {s s1 : State} {ga : Reg} {n : Nat} {off : BitVec 11} {b : Word}
    (hr : readG s ga = .ok b s1) (ha : (effAddr b off).toNat % n ≠ 0) (gd : Reg) :
    storeInstr s gd ga n off = .trap .misalign (effAddr b off) := by
  simp only [storeInstr, hr, Eff.andThen_ok, checkAlign_misaligned s1 ha, Eff.andThen_trap]

theorem conclude_done (s t : State) : conclude s (done t) = .next (t.retire 4) := rfl

/-! The instructions. -/

theorem exec_ldq {s s1 s2 t u : State} {gd ga : Reg} {fl : BitVec 2} {off : BitVec 11} {b : Word} {bs : List Byte}
    (hr : readG s ga = .ok b s1) (ha : (effAddr b off).toNat % 16 = 0)
    (hl : loadBytes s1 (effAddr b off) 16 true false = .ok bs s2) (hp : probeBoth s2 gd (gd + 1) = .ok () s2)
    (hlo : writeG s2 gd (wordOf (bs.take 8)) = .ok () t) (hhi : writeG t (gd + 1) (wordOf (bs.drop 8)) = .ok () u) :
    exec (.ldq gd ga fl off) s = .next (u.retire 4) := by
  show execLdq gd ga fl off s = _
  simp only [execLdq, hr, Eff.andThen_ok, checkAlign_aligned s1 ha, hl, hp, hlo]
  exact conclude_writeDone s hhi

theorem exec_ldacq {s s1 s2 t : State} {gd ga : Reg} {scope : BitVec 3} {w : BitVec 2} {off : BitVec 11} {b : Word}
    {bs : List Byte} (hs : scope.toNat < 6) (hr : readG s ga = .ok b s1) (ha : (effAddr b off).toNat % 2 ^ w.toNat = 0)
    (hl : loadBytes s1 (effAddr b off) (2 ^ w.toNat) (decide (scope = 0)) true = .ok bs s2)
    (hw : writeG (acquire s2 scope) gd (wordOf bs) = .ok () t) :
    exec (.ldacq gd ga scope w off) s = .next (t.retire 4) := by
  show execLdacq gd ga scope w off s = _
  simp only [execLdacq, widthBytes, checkScope_ok s scope _ hs, hr, Eff.andThen_ok, checkAlign_aligned s1 ha, hl]
  exact conclude_writeDone s hw

theorem exec_stq {s s1 s2 s3 t : State} {gd ga : Reg} {fl : BitVec 2} {off : BitVec 11} {b lo hi : Word}
    (hr : readG s ga = .ok b s1) (ha : (effAddr b off).toNat % 16 = 0) (hlo : readG s1 gd = .ok lo s2)
    (hhi : readG s2 (gd + 1) = .ok hi s3)
    (hst : storeBytes s3 (effAddr b off) (bytesOf 8 lo ++ bytesOf 8 hi) false 0 = .ok () t) :
    exec (.stq gd ga fl off) s = .next (t.retire 4) := by
  show execStq gd ga fl off s = _
  simp only [execStq, hr, Eff.andThen_ok, checkAlign_aligned s1 ha, hlo, hhi, hst]
  exact conclude_done s t

theorem exec_strel {s s1 s2 s3 s4 t : State} {gd ga : Reg} {scope : BitVec 3} {w : BitVec 2} {off : BitVec 11} {b v : Word}
    {l : Loc} (hs : scope.toNat < 6) (hr : readG s ga = .ok b s1) (ha : (effAddr b off).toNat % 2 ^ w.toNat = 0)
    (hd : readG s1 gd = .ok v s2) (hloc : slotLoc s2 (effAddr b off) (2 ^ w.toNat) .store = .ok l s3)
    (hrel : release s3 scope = .ok () s4)
    (hst : storeBytes s4 (effAddr b off) (bytesOf (2 ^ w.toNat) v) true scope = .ok () t) :
    exec (.strel gd ga scope w off) s = .next (t.retire 4) := by
  show execStrel gd ga scope w off s = _
  simp only [execStrel, widthBytes, checkScope_ok s scope _ hs, hr, Eff.andThen_ok, checkAlign_aligned s1 ha, hd, hloc]
  rw [released_ok (x := ()) (u := t.retire 4) hrel (by rw [hst]; rfl), conclude_ok]

/-- Settles O14: each load is its reads and checks in their order, then the write of gd. -/
theorem loadsComplete : Obligations.LoadsComplete := by
  unfold Obligations.LoadsComplete
  intro s s1 s2 t u gd ga off b bs hr
  refine ⟨fun w ha hl => ⟨fun hw => ?_, fun hw => ?_, fun h3 hw => ?_⟩, fun fl ha hl hp hlo hhi => ?_, fun scope w hs ha hl hw => ?_⟩
  · exact (congrArg (conclude s) (loadInstr_ok hr ha hl true)).trans (conclude_writeDone s hw)
  · exact (congrArg (conclude s) (loadInstr_ok hr ha hl false)).trans (conclude_writeDone s hw)
  · subst h3
    exact (congrArg (conclude s) (loadInstr_ok hr ha hl true)).trans (conclude_writeDone s hw)
  · exact exec_ldq hr ha hl hp hlo hhi
  · exact exec_ldacq hs hr ha hl hw

/-- Settles O15: each store is its reads and checks in their order, then the store of the bytes. -/
theorem storesComplete : Obligations.StoresComplete := by
  unfold Obligations.StoresComplete
  intro s s1 s2 s3 s4 t gd ga off b v hi hr hd
  refine ⟨fun w ha hst => ⟨?_, fun h3 => ?_⟩, fun fl ha hhi hst => ?_, fun scope w l hs ha hloc hrel hst => ?_⟩
  · exact congrArg (conclude s) (storeInstr_ok hr hd ha hst)
  · subst h3
    exact congrArg (conclude s) (storeInstr_ok hr hd ha hst)
  · exact exec_stq hr ha hd hhi hst
  · exact exec_strel hs hr ha hd hloc hrel hst

/-- Settles O16: in every form the check of alignment is the first after the read of ga. -/
theorem misalignedAccess : Obligations.MisalignedAccess := by
  unfold Obligations.MisalignedAccess
  intro s s1 gd ga off b hr
  refine ⟨fun w ha => ⟨?_, ?_, ?_, fun scope hs => ⟨?_, ?_⟩⟩, fun ha => ⟨?_, ?_⟩, fun ha fl => ⟨?_, ?_⟩⟩
  · exact congrArg (conclude s) (loadInstr_misaligned hr ha gd true)
  · exact congrArg (conclude s) (loadInstr_misaligned hr ha gd false)
  · exact congrArg (conclude s) (storeInstr_misaligned hr ha gd)
  · show execLdacq gd ga scope w off s = _
    simp only [execLdacq, widthBytes, checkScope_ok s scope _ hs, hr, Eff.andThen_ok, checkAlign_misaligned s1 ha,
      Eff.andThen_trap, conclude_trap]
  · show execStrel gd ga scope w off s = _
    simp only [execStrel, widthBytes, checkScope_ok s scope _ hs, hr, Eff.andThen_ok, checkAlign_misaligned s1 ha,
      Eff.andThen_trap, conclude_trap]
  · exact congrArg (conclude s) (loadInstr_misaligned hr ha gd true)
  · exact congrArg (conclude s) (storeInstr_misaligned hr ha gd)
  · show execLdq gd ga fl off s = _
    simp only [execLdq, hr, Eff.andThen_ok, checkAlign_misaligned s1 ha, Eff.andThen_trap, conclude_trap]
  · show execStq gd ga fl off s = _
    simp only [execStq, hr, Eff.andThen_ok, checkAlign_misaligned s1 ha, Eff.andThen_trap, conclude_trap]

end Sys2Proof.Machine
end

section
/-! Requests at a location (R157 to R167, R173, R176): what they do to it, where they are answered, and how the instructions that
make them complete. -/

namespace Sys2Proof.Machine

/-! What a request does to its location. -/

/-- The read-modify-writes compute at the access width. -/
theorem amoOp_row {row : (Reg → Reg → Reg → BitVec 3 → BitVec 2 → Bool → Instr) × BitVec 4 ×
    ((n : Nat) → BitVec n → BitVec n → BitVec n)} (h : row ∈ amoRows) (n : Nat) (m v : Word) :
    amoOp row.2.1 n m v = (row.2.2 (8 * n) (m.setWidth (8 * n)) (v.setWidth (8 * n))).setWidth 64 := by
  simp only [amoRows, List.mem_cons, List.not_mem_nil, or_false] at h
  obtain rfl | rfl | rfl | rfl | rfl | rfl | rfl | rfl | rfl := h <;>
    (simp only [amoOp, BitVec.ofNat_toNat, BitVec.slt, BitVec.ult, decide_eq_true_eq]; rfl)

/-- A phase is pending where it is the one in progress or the next (R173). -/
theorem phase_ahead_iff (p q : BitVec 2) : (p.toNat + 4 - q.toNat) % 4 < 2 ↔ p = q ∨ p = q + 1 := by
  rw [BitVec.toNat_eq, BitVec.toNat_eq, BitVec.toNat_add]
  have := p.isLt
  have := q.isLt
  simp only [show (1 : BitVec 2).toNat = 1 from rfl]
  omega

theorem phasePending_iff (m : Word) (p : BitVec 2) :
    phasePending m p = true ↔ p = m.extractLsb' 62 2 ∨ p = m.extractLsb' 62 2 + 1 := by
  rw [phasePending, decide_eq_true_eq]
  exact phase_ahead_iff p _

/-- Settles O24: each request's step by its definition, the read-modify-writes by their rows. -/
theorem requestSteps : Obligations.RequestSteps := by
  unfold Obligations.RequestSteps
  intro s slot key m v e
  refine ⟨fun row h => ⟨?_, ?_⟩, ?_, ?_, ?_, fun n => rfl, rfl, fun p => ?_⟩
  · rw [atomStep, amoOp_row h]; simp
  · rw [atomStep, amoOp_row h, setWidth_eq_zero_append]
  · rw [← setWidth_eq_zero_append]; rfl
  · simp [atomStep, apply_ite (fun w : Option Word => (w, AtomRes.value m))]
  · simp [atomStep, apply_ite (fun w : Option Word => (w, AtomRes.value m))]
  · simp only [atomStep, phasePending_iff]

/-! Where a request is answered. -/

/-- A part that leads to a value is made of two that do. -/
theorem Eff.andThen_eq_ok {α β : Type} {e : Eff α} {k : α → State → Eff β} {b : β} {t : State} :
    e.andThen k = .ok b t ↔ ∃ a s, e = .ok a s ∧ k a s = .ok b t := by
  cases e with
  | ok a s => exact ⟨fun h => ⟨a, s, rfl, h⟩, fun ⟨_, _, he, h⟩ => by cases he; exact h⟩
  | seen a s w => cases h : k a s <;> simp [Eff.andThen, Eff.watched, h]
  | wait f => simp
  | pause f g => simp [Eff.andThen]
  | trap c v w => simp [Eff.andThen]

/-- The check of gd's push leaves the state, but for the note of where the push goes (R94). -/
theorem probeG_ok {s p : State} {r : Reg} (h : probeG s r = .ok () p) : p = s ∨ ∃ a loc, p = atPlace s a loc := by
  unfold probeG at h
  split at h
  next => cases h; exact .inl rfl
  next q st hb =>
    dsimp only at h
    split at h
    next => cases h; exact .inl rfl
    next =>
      simp only [Eff.andThen_eq_ok] at h
      obtain ⟨_, _, _, _, _, _, _, _, _, _, s', hw, h⟩ := h
      have hs' : s' = s := by
        unfold checkWatch at hw
        split at hw <;> cases hw
        rfl
      subst hs'
      split at h <;> cases h
      exact .inr ⟨_, _, rfl⟩

theorem probeG_cur {s p : State} {r : Reg} (h : probeG s r = .ok () p) : p.cur = s.cur := by
  obtain rfl | ⟨a, loc, rfl⟩ := probeG_ok h <;> rfl

theorem probeG_plain (s : State) {r : Reg} (h : boundStream s.me r = none) : probeG s r = .ok () s := by
  rw [probeG, h]

theorem pushWaits_plain (s : State) {r : Reg} (h : boundStream s.me r = none) : pushWaits s r = false := by
  rw [pushWaits, h]

theorem watchAtom_unwatched {s : State} (h : unwatched s) (a : Word) (op : AtomOp) : watchAtom s a op = .ok () s := by
  unfold watchAtom
  cases op <;> exact checkWatch_unwatched h ..

/-- A word outside the scratchpads needs no service, and one that its bank has served has had it (R110). -/
theorem atService_served {α : Type} {s : State} {k n : Nat} (must : Bool) (e : Eff α)
    (h : inBanks k = false ∨ (bankDone s k n false).isSome = true) : atService s k n must e = e := by
  unfold atService
  rw [if_neg]
  obtain h | h := h
  · simp [h]
  · simp [Option.isNone_eq_false_iff.mpr h]

theorem atService_asks {α : Type} {s : State} {k n : Nat} (must : Bool) (e : Eff α) (hk : inBanks k = true)
    (h : bankDone s k n false = none) : atService s k n must e = hold (askBanks s k n none must) := by
  rw [atService, hk, h]; rfl

theorem released_zero {α : Type} (s : State) (k : State → Eff α) : released s 0#3 k = k s := rfl

section
variable {s p : State} {gd : Reg} {a : Word} {op : AtomOp} {need : Need} {scope : BitVec 3}

theorem request_answered {v : Word} (h : s.me.reply = some (.val v)) (hw : unwatched s) (rel : Bool)
    (k : Option (Loc → SleepFor)) : request s gd a op need rel scope k = .ok v s := by
  simp only [request, h, watchAtom_unwatched hw, Eff.andThen_ok]

theorem request_refused {c : Cause} {x : Word} (h : s.me.reply = some (.fault c x)) (rel : Bool)
    (k : Option (Loc → SleepFor)) : request s gd a op need rel scope k = .trap c a := by
  simp only [request, h]

theorem request_misaligned (h : s.me.reply = none) (ha : a.toNat % atomWidth op ≠ 0) (rel : Bool)
    (k : Option (Loc → SleepFor)) : request s gd a op need rel scope k = .trap .misalign a := by
  simp only [request, h, checkAlign_misaligned s ha, Eff.andThen_trap]

variable (hr : s.me.reply = none) (ha : a.toNat % atomWidth op = 0) (hw : unwatched s) (hp : probeG s gd = .ok () p)
include hr ha hw hp

theorem request_overlapped {loc : Loc} {f : State → State} (hline : lineWait p a loc = some f)
    (hkind : (∃ key, loc = .bank key) ∨ ∃ b, loc = .away b) (hloc : slotLoc s a (atomWidth op) need = .ok loc s)
    (k : Option (Loc → SleepFor)) : request s gd a op need false scope k = .pause f f := by
  obtain ⟨key, rfl⟩ | ⟨b, rfl⟩ := hkind <;>
    simp [request, hr, checkAlign_aligned s ha, hloc, watchAtom_unwatched hw, hp, released_zero, hline, hold]

theorem request_asksBank {key : Nat} (hline : lineWait p a (.bank key) = none)
    (hloc : slotLoc s a (atomWidth op) need = .ok (.bank key) s) (hk : inBanks key = true)
    (hb : bankDone p key (atomWidth op) false = none) (k : Option (Loc → SleepFor)) :
    request s gd a op need false scope k = hold (askBanks p key (atomWidth op) none (mustReply op)) := by
  simp [request, hr, checkAlign_aligned s ha, hloc, watchAtom_unwatched hw, hp, released_zero, hline, atService_asks, hk, hb]

theorem request_bankValue {key : Nat} {v : Word} {t : State} (hline : lineWait p a (.bank key) = none)
    (hloc : slotLoc s a (atomWidth op) need = .ok (.bank key) s)
    (hk : inBanks key = false ∨ (bankDone p key (atomWidth op) false).isSome = true)
    (hat : atBank p s.cur a key op = (t, .value v)) (k : Option (Loc → SleepFor)) :
    request s gd a op need false scope k =
      if pushWaits p gd then act p (fun s0 => withResult (atBank s0 s0.cur a key op).1 v) else .ok v t := by
  rw [← probeG_cur hp] at hat
  simp [request, hr, checkAlign_aligned s ha, hloc, watchAtom_unwatched hw, hp, released_zero, hline,
    atService_served _ _ hk, hat]

theorem request_bankSleeps {key : Nat} {f : Loc → SleepFor} {t : State} (hline : lineWait p a (.bank key) = none)
    (hloc : slotLoc s a (atomWidth op) need = .ok (.bank key) s)
    (hk : inBanks key = false ∨ (bankDone p key (atomWidth op) false).isSome = true)
    (hat : atBank p s.cur a key op = (t, .sleeps)) :
    request s gd a op need false scope (some f) =
      act p (fun s0 => (atBank s0 s0.cur a key op).1.sleepFor (f (.bank key)) a) := by
  rw [← probeG_cur hp] at hat
  simp [request, hr, checkAlign_aligned s ha, hloc, watchAtom_unwatched hw, hp, released_zero, hline,
    atService_served _ _ hk, hat]

theorem request_leaves {loc : Loc} (hkind : (∃ q h, loc = .home q h) ∨ (∃ b, loc = .away b) ∧ lineWait p a loc = none)
    (hloc : slotLoc s a (atomWidth op) need = .ok loc s) (k : Option (Loc → SleepFor)) :
    ∃ g look, request s gd a op need false scope k = .pause g look ∧
      g s = match k with
        | none => (sendAtom (keepPops p s) a loc op false).stall .reply
        | some f => (sendAtom (keepPops p s) a loc op false).sleepFor (f loc) a := by
  obtain ⟨q, h, rfl⟩ | ⟨⟨b, rfl⟩, hline⟩ := hkind
  · cases lineWait p a (.home q h) <;> cases k <;>
      exact ⟨_, _, by simp [request, hr, checkAlign_aligned s ha, hloc, watchAtom_unwatched hw, hp, released_zero]
                      exact ⟨rfl, rfl⟩, rfl⟩
  · cases k <;>
      exact ⟨_, _, by simp [request, hr, checkAlign_aligned s ha, hloc, watchAtom_unwatched hw, hp, released_zero, hline]
                      exact ⟨rfl, rfl⟩, rfl⟩

end

/-- Settles O23: the places of a request, one lemma each. -/
theorem requestPlaces : Obligations.RequestPlaces := by
  unfold Obligations.RequestPlaces
  intro s p gd a op need rel scope k
  refine ⟨fun v h hw => request_answered h hw rel k, fun c x h => request_refused h rel k,
    fun h ha => request_misaligned h ha rel k, fun hr ha hw hp hrel => ?_⟩
  subst hrel
  refine ⟨fun loc f hline hkind hloc => request_overlapped hr ha hw hp hline hkind hloc k, ?asks, ?value, ?sleeps,
    fun loc hkind hloc => request_leaves hr ha hw hp hkind hloc k⟩
  case asks =>
    intro key hline hloc hk hb
    refine ⟨_, request_asksBank hr ha hw hp hline hloc hk hb k, rfl, ?_, ?_⟩ <;> rw [askBanks, State.me_modMe]
  case value =>
    intro key v t hline hloc hk hat
    rw [request_bankValue hr ha hw hp hline hloc hk hat k]
    exact ⟨fun hq => by rw [hq]; rfl, fun hq => ⟨_, by rw [hq]; rfl, rfl⟩⟩
  case sleeps =>
    intro key f t hf hline hk hloc hat
    subst hf
    exact ⟨_, request_bankSleeps hr ha hw hp hline hloc hk hat, rfl⟩

/-! The instructions. -/

/-- The read-modify-writes are one computation, each with its selector (R162). -/
theorem exec_amoRow {row : (Reg → Reg → Reg → BitVec 3 → BitVec 2 → Bool → Instr) × BitVec 4 ×
    ((n : Nat) → BitVec n → BitVec n → BitVec n)} (h : row ∈ amoRows) (gd ga gb : Reg) (scope : BitVec 3) (ord : BitVec 2)
    (w8 : Bool) (s : State) : ∃ word, exec (row.1 gd ga gb scope ord w8) s =
      conclude s (amoInstr s word row.2.1 gd ga gb scope ord (wBytes w8)) := by
  simp only [amoRows, List.mem_cons, List.not_mem_nil, or_false] at h
  obtain rfl | rfl | rfl | rfl | rfl | rfl | rfl | rfl | rfl := h <;> exact ⟨_, rfl⟩

theorem conclude_amoInstr {s s1 s2 s3 t : State} {word : W32} {fn : BitVec 4} {gd ga gb : Reg} {scope : BitVec 3}
    {ord : BitVec 2} {n : Nat} {ea v r : Word} (hs : scope.toNat < 6) (ha : readG s ga = .ok ea s1)
    (hb : readG s1 gb = .ok v s2) (hreq : request s2 gd ea (.amo fn n v) .rmw (ord.getLsbD 1) scope none = .ok r s3)
    (hw : writeG (if ord.getLsbD 0 then acquire s3 scope else s3) gd r = .ok () t) :
    conclude s (amoInstr s word fn gd ga gb scope ord n) = .next (t.retire 4) := by
  simp only [amoInstr, relOrd, acqOrd, checkScope_ok s scope _ hs, ha, hb, hreq, Eff.andThen_ok]
  exact conclude_writeDone s hw

/-- The order of a CAS is that of its outcome (R164). -/
theorem acquires_by_outcome (c : Prop) [Decidable c] (x y : Bool) :
    ((decide c && x) || (!decide c && y)) = if c then x else y := by
  by_cases h : c <;> simp [h]

theorem exec_cas {s s1 s2 s3 s4 t : State} {gd ga gb : Reg} {scope : BitVec 3} {sord : BitVec 2} {facq w8 : Bool}
    {ea v e r : Word} (hs : scope.toNat < 6) (ha : readG s ga = .ok ea s1) (hb : readG s1 gb = .ok v s2)
    (hd : readG s2 gd = .ok e s3)
    (hreq : request s3 gd ea (.cas (wBytes w8) e v) .rmw (sord.getLsbD 1) scope none = .ok r s4)
    (hw : writeG (if (if BitVec.ofNat (8 * wBytes w8) r.toNat = BitVec.ofNat (8 * wBytes w8) e.toNat then sord.getLsbD 0
      else facq) then acquire s4 scope else s4) gd r = .ok () t) :
    exec (.cas gd ga gb scope sord facq w8) s = .next (t.retire 4) := by
  show execCas gd ga gb scope sord facq w8 s = _
  simp only [execCas, relOrd, acqOrd, checkScope_ok s scope _ hs, ha, hb, hd, hreq, Eff.andThen_ok, acquires_by_outcome]
  exact conclude_writeDone s hw

/-- Settles O22: each member is its scope check, its reads, its request and what follows the answer. -/
theorem requestsComplete : Obligations.RequestsComplete := by
  unfold Obligations.RequestsComplete
  intro s s1 s2 s3 s4 t gd ga gb scope w8 ea v e r hs ha
  refine ⟨fun hb => ⟨?amo, ?fadd, ?cas, ?sch, ?arrive, ?waitph, ?waitcnt⟩, ?lrw⟩
  case amo =>
    intro row h ord hreq hw
    obtain ⟨word, hexec⟩ := exec_amoRow h gd ga gb scope ord w8 s
    exact hexec.trans (conclude_amoInstr hs ha hb hreq hw)
  case fadd => exact fun ord hreq hw => conclude_amoInstr hs ha hb hreq hw
  case cas => exact fun sord facq hd hreq hw => exec_cas hs ha hb hd hreq hw
  case sch =>
    intro hreq hw
    show execSch gd ga gb scope w8 s = _
    simp only [execSch, wBytes, checkScope_ok s scope _ hs, ha, hb, hreq, Eff.andThen_ok]
    exact conclude_writeDone s hw
  case arrive =>
    intro hreq hw
    show execArrive gd ga gb scope s = _
    simp only [execArrive, checkScope_ok s scope _ hs, ha, hb, hreq, Eff.andThen_ok]
    exact conclude_writeDone s hw
  case waitph =>
    intro hreq
    show execWaitph ga gb scope s = _
    simp only [execWaitph, checkScope_ok s scope _ hs, ha, hb, hreq, Eff.andThen_ok]
    exact conclude_done s _
  case waitcnt =>
    intro hreq hw
    show execWaitcnt gd ga gb scope s = _
    simp only [execWaitcnt, checkScope_ok s scope _ hs, ha, hb, hreq, Eff.andThen_ok]
    exact conclude_writeDone s hw
  case lrw =>
    intro hreq hw
    show execLrw gd ga scope w8 s = _
    simp only [execLrw, wBytes, checkScope_ok s scope _ hs, ha, hreq, Eff.andThen_ok]
    exact conclude_writeDone s hw

end Sys2Proof.Machine
end

section
/-! ExpireAll slot by slot (R146), and a read-modify-write of local memory in one step (R157, R162). -/

namespace Sys2Proof.Machine

/-- ExpireAll empties the fetch buffers of the core's slots and changes nothing else of a slot. -/
theorem expireAll_slot (s : State) (c i : Nat) :
    (expireAll s c).slot i = { s.slot i with fetch := if coreOf i = c then none else (s.slot i).fetch } := by
  have hmap : ∀ e : Nat × Slot, (if coreOf e.1 = c then (e.1, { e.2 with fetch := none }) else e) =
      (e.1, { e.2 with fetch := if coreOf e.1 = c then none else e.2.fetch }) := fun e => by split <;> rfl
  simp only [expireAll, State.slot, State.modCore, State.setCore, hmap,
    mapGet_mapIdx s.slots (fun n sl => { sl with fetch := if coreOf n = c then none else sl.fetch })]
  cases mapGet s.slots i
  · show Slot.idle = _
    split <;> rfl
  · rfl

theorem acquire_slot (s : State) (scope : BitVec 3) (i : Nat) : ∃ f, (acquire s scope).slot i = { s.slot i with fetch := f } := by
  unfold acquire
  split
  · exact ⟨_, expireAll_slot ..⟩
  · exact ⟨_, rfl⟩

/-- Beyond the slots' fetch buffers an acquire changes the core's leases alone. -/
theorem acquire_rest (s : State) (scope : BitVec 3) :
    { acquire s scope with slots := s.slots, cores := s.cores, loads := s.loads } = s := by
  unfold acquire; split <;> rfl

/-- With none of the core's stores and updates in its line, a request waits for none (R142). -/
theorem lineWait_none {s : State} {loc : Loc} (h : ∀ e ∈ (s.core s.myCore).sbuf, sameLine loc e.loc = false) (a : Word) :
    lineWait s a loc = none := by
  unfold lineWait
  rw [if_neg]
  simp only [List.any_eq_true, Bool.and_eq_true, not_exists, not_and]
  intro e he _
  rw [h e he]
  exact Bool.false_ne_true

theorem atBank_amo (s : State) (slot : Nat) (a : Word) (k : Nat) (fn : BitVec 4) (n : Nat) (v : Word) :
    atBank s slot a k (.amo fn n v) =
      (bankWrite s k (bytesOf n (amoOp fn n (wordOf (readBytes s.mem k n)) v)), .value (wordOf (readBytes s.mem k n))) := rfl

/-- A read-modify-write of a bank with no alias bound, in one step. -/
theorem exec_amo_local {row : (Reg → Reg → Reg → BitVec 3 → BitVec 2 → Bool → Instr) × BitVec 4 ×
    ((n : Nat) → BitVec n → BitVec n → BitVec n)} (h : row ∈ amoRows) {s : State} {gd ga gb : Reg} {scope : BitVec 3}
    {ord : BitVec 2} {w8 : Bool} {k : Nat} (hs : scope.toNat < 6) (hst : s.me.streams = []) (hr : s.me.reply = none)
    (hw : unwatched s) (ha : (s.me.reg ga).toNat % wBytes w8 = 0)
    (hloc : slotLoc s (s.me.reg ga) (wBytes w8) .rmw = .ok (.bank k) s) (hrel : ord.getLsbD 1 = false)
    (hline : ∀ e ∈ (s.core s.myCore).sbuf, sameLine (.bank k) e.loc = false)
    (hk : inBanks k = false ∨ (bankDone s k (wBytes w8) false).isSome = true) :
    let old := wordOf (readBytes s.mem k (wBytes w8))
    let s3 := bankWrite s k (bytesOf (wBytes w8) (amoOp row.2.1 (wBytes w8) old (s.me.reg gb)))
    exec (row.1 gd ga gb scope ord w8) s =
      .next (((if ord.getLsbD 0 then acquire s3 scope else s3).modMe (fun sl => sl.setReg gd old)).retire 4) := by
  intro old s3
  obtain ⟨word, hexec⟩ := exec_amoRow h gd ga gb scope ord w8 s
  have plain : ∀ r, boundStream s.me r = none := fun r => boundStream_none _ r hst
  have hreq : request s gd (s.me.reg ga) (.amo row.2.1 (wBytes w8) (s.me.reg gb)) .rmw (ord.getLsbD 1) scope none =
      .ok old s3 := by
    rw [hrel, request_bankValue (op := .amo row.2.1 (wBytes w8) (s.me.reg gb)) hr ha hw (probeG_plain s (plain gd))
      (lineWait_none hline _) hloc hk (atBank_amo ..) none, pushWaits_plain s (plain gd)]
    rfl
  obtain ⟨r, hslot, -⟩ := bankWrite_slot s k (bytesOf (wBytes w8) (amoOp row.2.1 (wBytes w8) old (s.me.reg gb))) s.cur
  have hst3 : (s3.slot s.cur).streams = [] := by rw [hslot]; exact hst
  refine hexec.trans (conclude_amoInstr hs (readG_plain s ga (plain ga)) (readG_plain s gb (plain gb)) hreq ?_)
  refine writeG_plain _ gd old (boundStream_none _ _ ?_)
  split
  · obtain ⟨f, hf⟩ := acquire_slot s3 scope s.cur
    show ((acquire s3 scope).slot _).streams = []
    have hcur : (acquire s3 scope).cur = s.cur := by unfold acquire; split <;> rfl
    rw [hcur, hf]
    exact hst3
  · exact hst3

/-- What such a step keeps, once the bank's bytes are written. -/
structure KeepsSlot (s t : State) : Prop where
  cur : t.cur = s.cur
  g : t.me.g = s.me.g
  pc : t.me.pc = s.me.pc
  flags : t.me.flags = s.me.flags
  tq : t.tq = s.tq
  regions : t.regions = s.regions

theorem KeepsSlot.bankWrite (s : State) (k : Nat) (bs : List Byte) : KeepsSlot s (bankWrite s k bs) := by
  obtain ⟨r, hslot, -⟩ := bankWrite_slot s k bs s.cur
  have hme : (Machine.bankWrite s k bs).me = { s.me with reply := r } := hslot
  exact ⟨rfl, by rw [hme], by rw [hme], by rw [hme], rfl, rfl⟩

theorem KeepsSlot.acquire {s t : State} (h : KeepsSlot s t) (scope : BitVec 3) : KeepsSlot s (acquire t scope) := by
  obtain ⟨f, hf⟩ := acquire_slot t scope t.cur
  have hrest := acquire_rest t scope
  have hcur : (Machine.acquire t scope).cur = t.cur := (congrArg State.cur hrest :)
  have hme : (Machine.acquire t scope).me = { t.me with fetch := f } := (congrArg _ hcur).trans hf
  exact ⟨hcur.trans h.cur, by rw [hme]; exact h.g, by rw [hme]; exact h.pc, by rw [hme]; exact h.flags,
    (congrArg State.tq hrest :).trans h.tq, (congrArg State.regions hrest :).trans h.regions⟩

theorem acquire_mem (s : State) (scope : BitVec 3) : (acquire s scope).mem = s.mem :=
  (congrArg State.mem (acquire_rest s scope) :)

theorem me_modMe_retire (s : State) (f : Slot → Slot) (k : Nat) : ((s.modMe f).retire k).me =
    { clearProgress (f s.me) with pc := (f s.me).pc + BitVec.ofNat 64 k, status := .ready, wpSkip := false } := by
  rw [State.retire, me_modMe_finish, State.me_modMe]

@[simp] theorem Slot.setReg_flags (sl : Slot) (r : Reg) (v : Word) : (sl.setReg r v).flags = sl.flags := by
  unfold Slot.setReg; split <;> rfl

/-- Settles O26: the one step, then what each part of its state is. -/
theorem localAtomicFrame : Obligations.LocalAtomicFrame := by
  unfold Obligations.LocalAtomicFrame
  intro row h s gd ga gb scope ord w8 k n old hs hst hr hw ha hloc hrel hline hk
  refine ⟨_, exec_amo_local h hs hst hr hw ha hloc hrel hline hk, ?_⟩
  generalize hbs : bytesOf (wBytes w8) (amoOp row.2.1 (wBytes w8) (wordOf (readBytes s.mem k (wBytes w8))) (s.me.reg gb)) = bs
  have hlen : bs.length = n := by rw [← hbs]; exact bytesOf_length ..
  generalize hu : (if ord.getLsbD 0 then acquire (bankWrite s k bs) scope else bankWrite s k bs) = u
  have hmem : u.mem = writeBytes s.mem k bs := by
    rw [← hu]; split
    · rw [acquire_mem, bankWrite_mem]
    · rfl
  have hkeep : KeepsSlot s u := by
    rw [← hu]; split
    · exact (KeepsSlot.bankWrite s k bs).acquire scope
    · exact KeepsSlot.bankWrite s k bs
  have hme := me_modMe_retire u (fun sl => sl.setReg gd old) 4
  refine ⟨?bytes, ?others, ?regs, ?pc, ?flags, hkeep.tq, hkeep.regions⟩
  case bytes =>
    show readBytes u.mem k n = _
    have hread := readBytes_writeBytes s.mem k bs
    rw [hlen] at hread
    rw [hmem, hread, ← hbs, amoOp_row h]
    rfl
  case others =>
    intro a ha
    show byteAt u.mem a = _
    rw [hmem, byteAt_writeBytes_outside _ _ _ _ (by rw [hlen]; exact ha)]
  case regs =>
    intro r hr0
    refine (congrArg (Slot.reg · r) hme).trans ((Slot.reg_congr (sl' := u.me.setReg gd old) rfl r).trans ?_)
    rw [Slot.reg_setReg, if_neg hr0, Slot.reg_congr hkeep.g]
  case pc =>
    refine (congrArg Slot.pc hme).trans ?_
    show (u.me.setReg gd old).pc + 4 = _
    rw [Slot.setReg_pc, hkeep.pc]
  case flags =>
    refine (congrArg Slot.flags hme).trans ?_
    show (u.me.setReg gd old).flags = _
    rw [Slot.setReg_flags, hkeep.flags]

end Sys2Proof.Machine
end

section
/-! The checks of an address (R108, R109, R112, R117, R365 to R368): local windows and global translations. -/

namespace Sys2Proof.Machine

/-! The walk that comes first. -/

theorem walkFirst_walked {s : State} {a : Word} (h : walksFor s s.who a = false) : walkFirst s a = .ok () s := by
  rw [walkFirst, h]; rfl

theorem afterWalk_walked {s : State} {w : Who} {a : Word} (h : walksFor s w a = false) : afterWalk s w a = s := by
  rw [afterWalk, h]; rfl

theorem walksFor_of_bit63 {s : State} {w : Who} {a : Word} (h : a.getLsbD 63 = true) : walksFor s w a = false := by
  rw [walksFor, h]; rfl

/-- A local address is none of a global one (R108). -/
theorem isLocal_bit63 {a : Word} (h : isLocal a = true) : a.getLsbD 63 = true := by
  rw [isLocal, beq_iff_eq] at h
  have hbit := congrArg (fun x : BitVec 16 => x.getLsbD 15) h
  simpa using hbit

/-- The check of a place with its walk behind it. -/
theorem slotLoc_walked {s : State} {a : Word} (h : walksFor s s.who a = false) (n : Nat) (need : Need) :
    slotLoc s a n need = match accessLoc s s.who a n need with
      | .ok (l, s') => .ok l s'
      | .error c => .trap c a (fun s0 => afterWalk s0 s0.who a) := by
  rw [slotLoc, walkFirst_walked h, Eff.andThen_ok] <;> rfl

theorem slotLoc_refused {s : State} {a : Word} {n : Nat} {need : Need} {c : Cause} (h : walksFor s s.who a = false)
    (hc : accessLoc s s.who a n need = .error c) : ∃ w, slotLoc s a n need = .trap c a w ∧ w s = s := by
  refine ⟨fun s0 => afterWalk s0 s0.who a, ?_, afterWalk_walked h⟩
  rw [slotLoc_walked h, hc]

/-! Local windows. -/

/-- What a window lets pass of a space (R112). -/
def PassesWindow (region sp off n : Nat) (need : Need) (pw : Word) : Prop :=
  pw.getLsbD 63 = true ∧ (pw.extractLsb' 61 2).toNat = sp ∧ (pw.extractLsb' 44 14).toNat = region ∧
    (pw.extractLsb' 25 19).toNat * 128 ≤ off ∧
    off + n ≤ ((pw.extractLsb' 25 19).toNat + (pw.extractLsb' 6 19).toNat + 1) * 128 ∧
    (need = .load ∨ need = .look ∨ need = .rmw → pw.getLsbD 60 = true) ∧
    (need = .store ∨ need = .rmw → pw.getLsbD 59 = true) ∧ (need = .fetch → pw.getLsbD 58 = true)

theorem windowPasses_iff (pw : Word) (region sp off n : Nat) (need : Need) :
    windowPasses pw region sp off n need = true ↔ PassesWindow region sp off n need pw ∧ off + n ≤ spaceSize sp := by
  have hlen : (pw.extractLsb' 25 19).toNat * 128 + ((pw.extractLsb' 6 19).toNat + 1) * 128 =
      ((pw.extractLsb' 25 19).toNat + (pw.extractLsb' 6 19).toNat + 1) * 128 := by omega
  unfold windowPasses PassesWindow
  simp only [hlen, Bool.and_eq_true, beq_iff_eq, decide_eq_true_eq]
  cases need <;> simp <;> grind

/-- Some window of a core passes an access of a space (R112). -/
def SomeWindow (s : State) (w : Who) (sp off n : Nat) (need : Need) : Prop :=
  ∃ i : Fin 8, PassesWindow w.region sp off n need (s.core w.core).pw[i] ∧ off + n ≤ spaceSize sp

theorem someWindow_iff (s : State) (w : Who) (sp off n : Nat) (need : Need) :
    (s.core w.core).pw.toList.any (fun pw => windowPasses pw w.region sp off n need) = true ↔
      SomeWindow s w sp off n need := by
  simp only [List.any_eq_true, Vector.mem_toList_iff, Vector.mem_iff_getElem, windowPasses_iff]
  constructor
  · rintro ⟨_, ⟨i, hi, rfl⟩, hp⟩
    exact ⟨⟨i, hi⟩, hp⟩
  · rintro ⟨i, hp⟩
    exact ⟨_, ⟨i, i.isLt, rfl⟩, hp⟩

theorem localLoc_passes {s : State} {w : Who} {a : Word} {sp off n : Nat} {need : Need} (h : localSpace a = some (sp, off))
    (hp : SomeWindow s w sp off n need) : localLoc s w a n need = .ok (.bank (spaceKey s w.core sp off)) := by
  simp only [localLoc, h, (someWindow_iff ..).mpr hp, if_true]

theorem localLoc_refuses {s : State} {w : Who} {a : Word} {n : Nat} {need : Need}
    (hp : ∀ sp off, localSpace a = some (sp, off) → ¬ SomeWindow s w sp off n need) :
    localLoc s w a n need = .error .prot := by
  unfold localLoc
  split
  next => rfl
  next sp off h => rw [if_neg (mt (someWindow_iff ..).mp (hp sp off h))]

section
variable {a : Word}

theorem localSpace_tcm (h : (a.extractLsb' 0 48).toNat < 2 ^ 18) :
    localSpace a = some (0, (a.extractLsb' 0 48).toNat) := by
  simp only [localSpace, if_pos h]

theorem localSpace_spad (h : 2 ^ 32 ≤ (a.extractLsb' 0 48).toNat) (h' : (a.extractLsb' 0 48).toNat < 2 ^ 32 + 2 ^ 22) :
    localSpace a = some (1, (a.extractLsb' 0 48).toNat - 2 ^ 32) := by
  simp only [localSpace]
  rw [if_neg (by omega), if_pos ⟨h, h'⟩]

theorem localSpace_sram (h : 2 ^ 33 ≤ (a.extractLsb' 0 48).toNat) (h' : (a.extractLsb' 0 48).toNat < 2 ^ 33 + 2 ^ 26) :
    localSpace a = some (2, (a.extractLsb' 0 48).toNat - 2 ^ 33) := by
  simp only [localSpace]
  rw [if_neg (by omega), if_neg (by omega), if_pos ⟨h, h'⟩]

/-- The spaces that there are (R108). -/
theorem localSpace_cases (a : Word) : localSpace a = none ∨
    ((a.extractLsb' 0 48).toNat < 2 ^ 18 ∧ localSpace a = some (0, (a.extractLsb' 0 48).toNat)) ∨
    (2 ^ 32 ≤ (a.extractLsb' 0 48).toNat ∧ localSpace a = some (1, (a.extractLsb' 0 48).toNat - 2 ^ 32)) ∨
    (2 ^ 33 ≤ (a.extractLsb' 0 48).toNat ∧ localSpace a = some (2, (a.extractLsb' 0 48).toNat - 2 ^ 33)) := by
  simp only [localSpace]
  split
  next h => exact .inr (.inl ⟨h, rfl⟩)
  next =>
    split
    next h => exact .inr (.inr (.inl ⟨h.1, rfl⟩))
    next =>
      split
      next h => exact .inr (.inr (.inr ⟨h.1, rfl⟩))
      next => exact .inl rfl

end

/-- The place of a local address that a window passes. -/
theorem slotLoc_local {s : State} {a : Word} {n sp off : Nat} {need : Need} (hl : isLocal a = true)
    (hsp : localSpace a = some (sp, off)) (hp : SomeWindow s s.who sp off n need) :
    slotLoc s a n need = .ok (.bank (spaceKey s s.myCore sp off)) s := by
  rw [slotLoc_walked (walksFor_of_bit63 (isLocal_bit63 hl)), accessLoc, if_pos hl, localLoc_passes hsp hp]
  rfl

theorem slotLoc_local_refused {s : State} {a : Word} {n : Nat} {need : Need} (hl : isLocal a = true)
    (hp : ∀ sp off, localSpace a = some (sp, off) → ¬ SomeWindow s s.who sp off n need) :
    ∃ w, slotLoc s a n need = .trap .prot a w ∧ w s = s := by
  refine slotLoc_refused (walksFor_of_bit63 (isLocal_bit63 hl)) ?_
  rw [accessLoc, if_pos hl, localLoc_refuses hp]
  rfl

theorem spaceSize_spad : spaceSize 1 = 2 ^ 22 := rfl

theorem spaceSize_sram : spaceSize 2 = 2 ^ 26 := rfl

theorem spaceKey_spad (s : State) (c off : Nat) : spaceKey s c 1 off = spadKey (c / s.liveCores) off := rfl

theorem spaceKey_sram (s : State) (c off : Nat) : spaceKey s c 2 off = sramKey (c / (8 * s.liveCores)) off := rfl

/-- Settles O17: the space that an offset lies in, and the windows of the core over it. -/
theorem localWindows : Obligations.LocalWindows := by
  unfold Obligations.LocalWindows
  intro s a n need hl hn pass o c
  refine ⟨?tcm, ?spad, ?sram, ?none⟩
  case tcm =>
    rintro ⟨i, hle, hp⟩
    exact slotLoc_local hl (localSpace_tcm (a := a) (by omega)) ⟨i, hp, hle⟩
  case spad =>
    rintro ⟨i, hlo, hhi, hp⟩
    have hloc := slotLoc_local (n := n) hl (localSpace_spad hlo (by omega)) ⟨i, hp, by rw [spaceSize_spad]; omega⟩
    rwa [spaceKey_spad] at hloc
  case sram =>
    rintro ⟨i, hlo, hhi, hp⟩
    have hloc := slotLoc_local (n := n) hl (localSpace_sram hlo (by omega)) ⟨i, hp, by rw [spaceSize_sram]; omega⟩
    rwa [spaceKey_sram] at hloc
  case none =>
    intro hno
    refine slotLoc_local_refused hl fun sp off hsp => ?_
    rintro ⟨i, hp, hle⟩
    refine hno ⟨i, ?_⟩
    obtain h | ⟨-, h⟩ | ⟨hlo, h⟩ | ⟨hlo, h⟩ := localSpace_cases a
    · exact absurd (h.symm.trans hsp) (by simp)
    · obtain ⟨rfl, rfl⟩ := Prod.mk.inj (Option.some.inj (h.symm.trans hsp))
      exact .inl ⟨hle, hp⟩
    · have hoff := Prod.mk.inj (Option.some.inj (h.symm.trans hsp))
      rw [← hoff.1, ← hoff.2] at hp hle
      have hle : o - 2 ^ 32 + n ≤ 2 ^ 22 := hle
      exact .inr (.inl ⟨hlo, by omega, hp⟩)
    · have hoff := Prod.mk.inj (Option.some.inj (h.symm.trans hsp))
      rw [← hoff.1, ← hoff.2] at hp hle
      have hle : o - 2 ^ 33 + n ≤ 2 ^ 26 := hle
      exact .inr (.inr ⟨hlo, by omega, hp⟩)

/-! Global addresses. -/

theorem reader_core {w : Who} (h : w.core < 1024) : w.reader = .core w.core := by
  rw [Who.reader, if_neg (by simp only [westDie]; omega), if_neg (by simp only [eastDie]; omega)]

theorem walk_ok_of_isWalked {s : State} {r : Reader} {va : Nat} (h : isWalked s r va = true) :
    ∃ x, (walk s r va).1 = .ok x := by
  unfold isWalked at h
  unfold walk
  obtain ⟨e, he⟩ := Option.isSome_iff_exists.mp ((List.find?_isSome (p := fun e : WalkEntry => e.page == va / 2 ^ e.bits)).mpr
    (by simpa using h))
  rw [he]
  exact ⟨_, rfl⟩

theorem devOf_not_local {s : State} {a : Word} {w : Who} (h : devOf s a ≠ 0x1FF) : walksFor s w a = false := by
  simp only [walksFor, beq_eq_false_iff_ne.mpr h, Bool.and_false, Bool.false_and]

section
variable {s : State} {a : Word} {n : Nat} {need : Need} (hl : isLocal a = false)
include hl

theorem accessLoc_global (w : Who) : accessLoc s w a n need = globalLoc s w a n need := by
  rw [accessLoc, hl]; rfl

theorem slotLoc_bit63 (h : a.getLsbD 63 = true) : ∃ w, slotLoc s a n need = .trap .prot a w ∧ w s = s :=
  slotLoc_refused (walksFor_of_bit63 h) (by rw [accessLoc_global hl, globalLoc, if_pos h])

theorem slotLoc_absent (h : a.getLsbD 63 = false) (hd : devOf s a ≠ 0x1FF)
    (hp : 432 ≤ (devOf s a).toNat ∨ (devOf s a).toNat ∉ s.present) :
    ∃ w, slotLoc s a n need = .trap .fatalhw a w ∧ w s = s := by
  refine slotLoc_refused (devOf_not_local hd) ?_
  have habs : isPresent s (devOf s a) = false := by
    rw [isPresent, Bool.and_eq_false_iff, decide_eq_false_iff_not, ← Bool.not_eq_true, List.contains_iff_mem]
    exact hp.imp Nat.not_lt.mpr id
  rw [accessLoc_global hl, globalLoc, if_neg (by rw [h]; exact Bool.false_ne_true), if_neg hd, if_neg (by rw [habs]; exact Bool.false_ne_true)]

variable (h63 : a.getLsbD 63 = false) (hd : devOf s a = 0x1FF)
include h63 hd

omit hl in
theorem walksFor_device (w : Who) : walksFor s w a = !(isWalked s w.reader (vaOf a)) := by
  simp only [walksFor, h63, hd, Bool.not_false, Bool.true_and, beq_self_eq_true]

omit hl in
/-- A walk that the core has to make and that finds a translation comes first (R368). -/
theorem slotLoc_walks {x : Word × Nat} {t : State} (hw : isWalked s s.who.reader (vaOf a) = false)
    (hx : walk s s.who.reader (vaOf a) = (.ok x, t)) :
    ∃ f, slotLoc s a n need = .pause f f ∧ f s = t.stall .poll := by
  have hf : walksFor s s.who a = true := by rw [walksFor_device h63 hd, hw]; rfl
  have hfirst : walkFirst s a = hold (fun s0 => (afterWalk s0 s0.who a).stall .poll) := by
    rw [walkFirst, hf, hx]; rfl
  refine ⟨fun s0 => (afterWalk s0 s0.who a).stall .poll, ?_, ?_⟩
  · rw [slotLoc, hfirst]; rfl
  · show (afterWalk s s.who a).stall .poll = _
    rw [afterWalk, if_pos hf, hx]

/-- A walk that finds none is an OUTSIDE, its table lines read all the same. -/
theorem slotLoc_untranslated {t : State} (hx : walk s s.who.reader (vaOf a) = (.error .outside, t)) :
    ∃ w, slotLoc s a n need = .trap .outside a w ∧ w s = t := by
  have hf : walksFor s s.who a = true := by
    rw [walksFor_device h63 hd, Bool.not_eq_true']
    refine Bool.eq_false_iff.mpr fun hw => ?_
    obtain ⟨x, hok⟩ := walk_ok_of_isWalked hw
    rw [hx] at hok
    cases hok
  have hfirst : walkFirst s a = .ok () s := by rw [walkFirst, hx]; simp [Except.isOk, Except.toBool]
  have hloc : accessLoc s s.who a n need = .error .outside := by
    simp only [accessLoc_global hl, globalLoc, h63, hd, leafFor, hx]; rfl
  refine ⟨fun s0 => afterWalk s0 s0.who a, ?_, ?_⟩
  · rw [slotLoc, hfirst, Eff.andThen_ok, hloc]
  · show afterWalk s s.who a = _
    rw [afterWalk, if_pos hf, hx]

/-- The checks of an address whose leaf is found (R113, R117, R367). -/
theorem accessLoc_leaf {leaf : Word} {bits h : Nat} {w : Who} (hx : walk s w.reader (vaOf a) = (.ok (leaf, bits), s))
    (hh : homeOf s (leaf.extractLsb' 44 12) (frameOf leaf bits (vaOf a)) = some h)
    (hr : debugRefuses s w a (frameOf leaf bits (vaOf a)) n need = false) :
    accessLoc s w a n need =
      if leafPermits leaf need = false then .error .prot
      else if resident s w.region a n && !(inJournal s (frameOf leaf bits (vaOf a)) n) then
        .ok (.home (frameOf leaf bits (vaOf a)) h, s)
      else .error .outside := by
  simp only [accessLoc_global hl, globalLoc, h63, hd, leafFor, hx, hh, hr, Bool.or_false, Bool.not_eq_true',
    Bool.false_eq_true, if_false, if_true]

end

/-- Settles O18: the checks in the order of R129, with the walk before them. -/
theorem globalChecks : Obligations.GlobalChecks := by
  unfold Obligations.GlobalChecks
  intro s a n need hl
  refine ⟨slotLoc_bit63 hl, slotLoc_absent hl, fun h63 hd hcore => ?_⟩
  have hreader : s.who.reader = .core s.myCore := reader_core (w := s.who) hcore
  rw [← hreader]
  refine ⟨fun t hx => slotLoc_untranslated hl h63 hd hx, fun x t hw hx => slotLoc_walks h63 hd hw hx,
    fun leaf bits h hw hx hh hr => ?_⟩
  have hfound := accessLoc_leaf hl h63 hd hx hh hr
  have hno : walksFor s s.who a = false := by rw [walksFor_device h63 hd, hw]; rfl
  refine ⟨fun hp hres hj => ?_, fun hp => slotLoc_refused hno (by rw [hfound, if_pos hp]), fun hp hout => ?_⟩
  · have hres : resident s s.who.region a n = true := hres
    rw [slotLoc_walked hno, hfound, hp, hres, hj]; rfl
  · refine slotLoc_refused hno ?_
    rw [hfound, if_neg (by rw [hp]; exact Bool.true_eq_false.mp), if_neg]
    rintro h
    rw [Bool.and_eq_true, Bool.not_eq_true'] at h
    obtain hres | hj := hout
    · rw [show resident s s.me.region a n = true from h.1] at hres; cases hres
    · rw [h.2] at hj; cases hj

end Sys2Proof.Machine
end

section
/-! Where loads find their bytes and stores put them (R110, R111, R118, R122, R123, R298). -/

namespace Sys2Proof.Machine

/-! Loads. -/

theorem takeGot_nil {s : State} (h : s.me.got = []) (a : Word) (n : Nat) : takeGot s a n = none := by
  rw [takeGot, h]; rfl

/-- A slot keeps its watchpoints off while no change of it touches them. -/
theorem unwatched_congr {s t : State} (h : unwatched s) (hme : t.me.wpSkip = s.me.wpSkip ∧ t.me.wp0 = s.me.wp0 ∧ t.me.wp1 = s.me.wp1) :
    unwatched t := by
  obtain ⟨h0, h1, h2⟩ := hme
  rwa [unwatched, h0, h1, h2]

theorem unwatched_of_me {s t : State} (h : unwatched s) (hme : t.me = s.me) : unwatched t :=
  unwatched_congr h ⟨congrArg Slot.wpSkip hme, congrArg Slot.wp0 hme, congrArg Slot.wp1 hme⟩

theorem unwatched_modMe {s : State} (h : unwatched s) {f : Slot → Slot}
    (hf : (f s.me).wpSkip = s.me.wpSkip ∧ (f s.me).wp0 = s.me.wp0 ∧ (f s.me).wp1 = s.me.wp1) : unwatched (s.modMe f) :=
  unwatched_congr h (by rw [State.me_modMe]; exact hf)

/-- A load whose bytes are found, with no watchpoint in its way. -/
theorem loadBytes_found {s t : State} {a : Word} {n : Nat} {cached strong : Bool} {bs : List Byte}
    (h : fetchBytes s a n cached strong = .ok bs t) (hw : unwatched t) :
    loadBytes s a n cached strong = .ok bs (noteRead t a bs) := by
  rw [loadBytes, h, Eff.andThen_ok, checkWatch_unwatched hw, Eff.andThen_ok]

/-- One that waits waits. -/
theorem loadBytes_holds {s : State} {a : Word} {n : Nat} {cached strong : Bool} {f : State → State}
    (h : fetchBytes s a n cached strong = hold f) : loadBytes s a n cached strong = .pause f f := by
  rw [loadBytes, h]; rfl

theorem loadBytes_refused {s : State} {a : Word} {n : Nat} {cached strong : Bool} {c : Cause} {v : Word}
    (h : fetchBytes s a n cached strong = .trap c v) : loadBytes s a n cached strong = .trap c v := by
  rw [loadBytes, h, Eff.andThen_trap]

theorem fetchBytes_bank {s : State} {a : Word} {n k : Nat} (hg : s.me.got = [])
    (hloc : slotLoc s a n .load = .ok (.bank k) s) (cached strong : Bool) :
    fetchBytes s a n cached strong = bankRead s k n := by
  rw [fetchBytes, takeGot_nil hg, hloc]; rfl

theorem bankRead_free {s : State} {k n : Nat} (hb : bankDone s k n false = none) (hf : bankFree s s.myCore k n = true)
    (hk : inBanks k = false) : bankRead s k n = .ok (readBytes s.mem k n) s := by
  simp [bankRead, hb, atFreeBank, hf, atService, hk]

theorem bankRead_due {s : State} {k n : Nat} (hb : bankDone s k n false = none) (hf : bankFree s s.myCore k n = true)
    (hk : inBanks k = true) : bankRead s k n = hold (askBanks s k n none false) := by
  simp [bankRead, hb, atFreeBank, hf, atService, hk]

theorem bankRead_busy {s : State} {k n : Nat} (hb : bankDone s k n false = none) (hf : bankFree s s.myCore k n = false) :
    bankRead s k n = hold (fun s => s.stall .poll) := by
  simp [bankRead, hb, atFreeBank, hf, stall]

/-! What the core's own bytes are. -/

theorem drawBytes_me (s : State) (n : Nat) : (s.drawBytes n).2.me = s.me := by
  induction n generalizing s with
  | zero => rfl
  | succ n ih => exact ih s.draw.2

theorem scramblePool_me (s : State) (a : Word) (n : Nat) : (scramblePool s a n).me = s.me := drawBytes_me s 128

theorem fromCore_plain {s : State} {a : Word} {n : Nat} {bs : List Byte} (hp : inShadowPool s a n = false)
    (hs : inStaging s a n = false) : fromCore s a n bs none = .ok bs s := by
  simp [fromCore, coreBytes, hp, hs]

theorem fromCore_staging {s : State} {a : Word} {n : Nat} {bs : List Byte} (hp : inShadowPool s a n = false)
    (hs : inStaging s a n = true) : fromCore s a n bs none = .ok (s.drawBytes n).1 (s.drawBytes n).2 := by
  simp [fromCore, coreBytes, hp, hs]

theorem fromCore_pool {s : State} {a : Word} {n : Nat} {bs : List Byte} (hp : inShadowPool s a n = true) :
    fromCore s a n bs none = .ok ((scramblePool s a n).drawBytes n).1 ((scramblePool s a n).drawBytes n).2 := by
  simp [fromCore, coreBytes, hp]

/-- A plain load that waits for its home. -/
def askHome (a : Word) (n : Nat) (loc : Loc) (s0 : State) : State :=
  (requestLine s0 s0.cur true a n loc none none false).stall .reply

section
variable {s : State} {a : Word} {n : Nat} {loc : Loc} (hg : s.me.got = []) (h2 : s.me.step2 = none)
  (hloc : slotLoc s a n .load = .ok loc s) (hk : ∀ k, loc ≠ .bank k)
include hg h2 hloc hk

/-- A plain load of global memory: what the store buffer says decides (R123). -/
theorem fetchBytes_global (cached : Bool) : fetchBytes s a n cached false =
    match lookSbuf (s.core s.myCore).sbuf loc n with
    | .conflict => hold (waitOverlap s a n)
    | .forward bs => fromCore s a n bs none
    | .nothing =>
      match cachedLine s s.myCore a with
      | some l =>
        if cached && leaseValid s (s.core s.myCore) l then
          if l.poison then .trap .poison a
          else fromCore (useLine s s.myCore a) a n (inLine l.bytes a n) none
        else hold (askHome a n loc)
      | none => hold (askHome a n loc) := by
  rw [fetchBytes, takeGot_nil hg, hloc]
  cases loc with
  | bank k => exact absurd rfl (hk k)
  | home p h => simp only [Eff.andThen_ok, lookFirst, h2, Bool.false_and, Bool.false_eq_true, if_false]; rfl
  | away b => simp only [Eff.andThen_ok, lookFirst, h2, Bool.false_and, Bool.false_eq_true, if_false]; rfl

/-- A forwarded load, by what lies at its address. -/
theorem loadBytes_forwarded (hw : unwatched s) {bs : List Byte} (hf : lookSbuf (s.core s.myCore).sbuf loc n = .forward bs)
    (cached : Bool) :
    (inShadowPool s a n = false → inStaging s a n = false → loadBytes s a n cached false = .ok bs (noteRead s a bs)) ∧
    (inShadowPool s a n = false → inStaging s a n = true →
      ∃ t, loadBytes s a n cached false = .ok (s.drawBytes n).1 t) ∧
    (inShadowPool s a n = true → ∃ t, loadBytes s a n cached false = .ok ((scramblePool s a n).drawBytes n).1 t) := by
  have hfetch := fetchBytes_global hg h2 hloc hk cached
  rw [hf] at hfetch
  refine ⟨fun hp hs => loadBytes_found (hfetch.trans (fromCore_plain hp hs)) hw,
    fun hp hs => ⟨_, loadBytes_found (hfetch.trans (fromCore_staging hp hs)) (unwatched_of_me hw (drawBytes_me ..))⟩,
    fun hp => ⟨_, loadBytes_found (hfetch.trans (fromCore_pool hp))
      (unwatched_of_me hw ((drawBytes_me ..).trans (scramblePool_me ..)))⟩⟩

theorem loadBytes_conflict (hc : lookSbuf (s.core s.myCore).sbuf loc n = .conflict) (cached : Bool) :
    ∃ f g, loadBytes s a n cached false = .pause f g ∧
      f s = s.modMe (fun sl => { sl with step2 := some (a, n, (s.core s.myCore).sbNext), status := .waiting .poll }) := by
  have hfetch := fetchBytes_global hg h2 hloc hk cached
  rw [hc] at hfetch
  refine ⟨_, _, loadBytes_holds hfetch, ?_⟩
  rw [waitOverlap, h2]

/-- A line that the core holds under a valid lease serves a load that may take it (R118, R123). -/
theorem loadBytes_cached (hw : unwatched s) (hn : lookSbuf (s.core s.myCore).sbuf loc n = .nothing) {l : CacheLine}
    (hl : cachedLine s s.myCore a = some l) (hv : leaseValid s (s.core s.myCore) l = true) :
    (l.poison = true → loadBytes s a n true false = .trap .poison a) ∧
    (l.poison = false → inShadowPool s a n = false → inStaging s a n = false →
      loadBytes s a n true false = .ok (inLine l.bytes a n) (noteRead (useLine s s.myCore a) a (inLine l.bytes a n))) := by
  have hfetch := fetchBytes_global hg h2 hloc hk true
  rw [hn, hl] at hfetch
  simp only [hv, Bool.and_self, if_true] at hfetch
  refine ⟨fun hp => loadBytes_refused (hfetch.trans (if_pos hp)), fun hp hpool hstage => ?_⟩
  refine loadBytes_found (hfetch.trans ?_) (unwatched_of_me hw (State.me_modCore ..))
  rw [hp, if_neg Bool.false_ne_true]
  exact fromCore_plain hpool hstage

/-- A load that its core cannot serve asks the home of its line (R121). -/
theorem loadBytes_asks (hn : lookSbuf (s.core s.myCore).sbuf loc n = .nothing) {cached : Bool}
    (hno : ∀ l, cachedLine s s.myCore a = some l → leaseValid s (s.core s.myCore) l = false ∨ cached = false) :
    loadBytes s a n cached false = .pause (askHome a n loc) (askHome a n loc) := by
  have hfetch := fetchBytes_global hg h2 hloc hk cached
  rw [hn] at hfetch
  refine loadBytes_holds (hfetch.trans ?_)
  cases hl : cachedLine s s.myCore a with
  | none => rfl
  | some l =>
    refine if_neg ?_
    obtain hv | hc := hno l hl
    · simp [hv]
    · simp [hc]

end

/-! Stores. -/

theorem takeSent_nil {s : State} (h : s.me.sent = []) (a : Word) : takeSent s a = none := by
  rw [takeSent, h]; rfl

/-- A store that is checked to go to its place. -/
theorem storeBytes_at {s : State} {a : Word} {bs : List Byte} {loc : Loc} (hs : s.me.sent = [])
    (hloc : slotLoc s a bs.length .store = .ok loc s) (strong : Bool) (scope : BitVec 3) :
    storeBytes s a bs strong scope = storeAt s a loc bs strong scope := by
  rw [storeBytes, takeSent_nil hs, hloc]; rfl

theorem storeAt_bank {s : State} (hw : unwatched s) (a : Word) (k : Nat) (bs : List Byte) (strong : Bool) (scope : BitVec 3) :
    storeAt s a (.bank k) bs strong scope = bankStore (atPlace s a (.bank k)) a k bs := by
  rw [storeAt, checkWatch_unwatched hw]; rfl

theorem bankDone_atPlace (s : State) (a : Word) (loc : Loc) (k n : Nat) (st : Bool) :
    bankDone (atPlace s a loc) k n st = bankDone s k n st := by
  simp [bankDone, atPlace]

theorem bankFree_atPlace (s : State) (a : Word) (loc : Loc) (k n : Nat) :
    bankFree (atPlace s a loc) (atPlace s a loc).myCore k n = bankFree s s.myCore k n := rfl

theorem bankDone_none {s : State} (h : s.me.bank = none) (k n : Nat) (st : Bool) : bankDone s k n st = none := by
  rw [bankDone, h]; rfl

theorem bankStore_due {s : State} {k : Nat} {bs : List Byte} (hb : s.me.bank = none)
    (hf : bankFree s s.myCore k bs.length = true) (hk : inBanks k = true) (a : Word) :
    bankStore s a k bs = .pause (askBanks s k bs.length (some (a, bs)) false) (askBanks s k bs.length none false) := by
  simp [bankStore, hk, bankDone_none hb, hf]

theorem bankStore_busy {s : State} {k : Nat} {bs : List Byte} (hb : s.me.bank = none)
    (hf : bankFree s s.myCore k bs.length = false) (a : Word) : bankStore s a k bs = hold (fun s => s.stall .poll) := by
  cases hk : inBanks k <;> simp [bankStore, hk, bankDone_none hb, hf, stall]

theorem sbufRoom_iff (s : State) : sbufRoom s = true ↔ (s.core s.myCore).sbuf.length < 32 := by
  rw [sbufRoom, decide_eq_true_eq]; rfl

theorem lookedFirst_fresh {s : State} (h : s.me.looked = []) (a : Word) (e : Eff Unit) : lookedFirst s a e = e := by
  have hnone : lookedAt s a = none := by rw [lookedAt, h]; rfl
  unfold lookedFirst
  rw [hnone]

/-- A store to the banks, by what stands in its way. -/
theorem storeBytes_bank {s : State} {a : Word} {bs : List Byte} {k : Nat} (hs : s.me.sent = []) (hw : unwatched s)
    (hloc : slotLoc s a bs.length .store = .ok (.bank k) s) (strong : Bool) (scope : BitVec 3) :
    storeBytes s a bs strong scope = bankStore (atPlace s a (.bank k)) a k bs :=
  (storeBytes_at hs hloc strong scope).trans (storeAt_bank hw ..)

/-- A store of global memory on this device, with room in the buffer. -/
theorem storeAt_home {s : State} (hw : unwatched s) (hl : s.me.looked = []) {a : Word} {p h : Nat} {bs : List Byte}
    (hroom : (s.core s.myCore).sbuf.length < 32) :
    ((s.region s.me.region).debug = false ∨ inRecords s a bs.length = false →
      storeAt s a (.home p h) bs false 0 = .ok () (enterSbuf (updateCache (atPlace s a (.home p h)) s.myCore a (.home p h) bs)
        s.myCore s.cur (atPlace s a (.home p h)).me.region a (.home p h) bs .plain 0 false)) ∧
    ((s.region s.me.region).debug = true → inRecords s a bs.length = true →
      ∃ g, storeAt s a (.home p h) bs false 0 = .pause (fun s0 =>
        (enterSbuf (keepPops (atPlace s a (.home p h)) s0) s0.myCore s0.cur
          (keepPops (atPlace s a (.home p h)) s0).me.region a (.home p h) bs .checked 0 false).stall .reply) g) := by
  have hroom : sbufRoom (atPlace s a (.home p h)) = true := (sbufRoom_iff _).mpr hroom
  have hlook : (atPlace s a (.home p h)).me.looked = [] := by rw [atPlace, State.me_modMe]; exact hl
  constructor
  · intro hd
    have hd : ((s.region s.me.region).debug && (false || inRecords s a bs.length)) = false := by
      obtain h | h := hd <;> simp [h]
    rw [storeAt, checkWatch_unwatched hw]
    simp only [Eff.andThen_ok, hd, hroom, Bool.false_eq_true, if_false, if_true]
    rfl
  · intro h1 h2
    rw [storeAt, checkWatch_unwatched hw]
    simp only [Eff.andThen_ok, h1, h2, hroom, Bool.false_or, Bool.and_self, Bool.false_eq_true, if_false, if_true,
      lookedFirst_fresh hlook]
    exact ⟨_, rfl⟩

theorem storeAt_away {s : State} (hw : unwatched s) (hl : s.me.looked = []) {a b : Word} {bs : List Byte}
    (hroom : (s.core s.myCore).sbuf.length < 32) (strong : Bool) (scope : BitVec 3) :
    ∃ g kind, storeAt s a (.away b) bs strong scope = .pause (fun s0 =>
      let s1 := keepPops (atPlace s a (.away b)) s0
      let s2 := enterSbuf s1 s1.myCore s1.cur s1.me.region a (.away b) bs kind scope false
      { s2 with outbox := s2.outbox ++ [Out.store s2.cur b bs strong false] }.stall .accept) g := by
  have hroom : sbufRoom (atPlace s a (.away b)) = true := (sbufRoom_iff _).mpr hroom
  have hlook : (atPlace s a (.away b)).me.looked = [] := by rw [atPlace, State.me_modMe]; exact hl
  rw [storeAt, checkWatch_unwatched hw]
  simp only [Eff.andThen_ok, hroom, if_true, lookedFirst_fresh hlook]
  exact ⟨_, _, rfl⟩

theorem storeAt_full {s : State} (hw : unwatched s) {a : Word} {loc : Loc} (hk : ∀ k, loc ≠ .bank k) {bs : List Byte}
    (hfull : 32 ≤ (s.core s.myCore).sbuf.length) (strong : Bool) (scope : BitVec 3) :
    storeAt s a loc bs strong scope = hold (fun s => s.stall .poll) := by
  have hroom : sbufRoom (atPlace s a loc) = false := by
    rw [← Bool.not_eq_true, sbufRoom_iff]
    exact Nat.not_lt.mpr hfull
  rw [storeAt, checkWatch_unwatched hw]
  cases loc with
  | bank k => exact absurd rfl (hk k)
  | home p h => simp only [Eff.andThen_ok, hroom]; rfl
  | away b => simp only [Eff.andThen_ok, hroom]; rfl

theorem enterSbuf_sbuf (s : State) (c slot region : Nat) (a : Word) (loc : Loc) (bs : List Byte) (kind : SbKind)
    (scope : BitVec 3) (after : Bool) : ((enterSbuf s c slot region a loc bs kind scope after).core c).sbuf =
      (s.core c).sbuf ++ [⟨(s.core c).sbNext, slot, region, a, loc, bs, kind, scope, after⟩] := by
  rw [enterSbuf, State.core_setCore_same]

theorem updateCache_core (s : State) (c : Nat) (a : Word) (loc : Loc) (bs : List Byte) :
    ((updateCache s c a loc bs).core c).sbuf = (s.core c).sbuf ∧
      ((updateCache s c a loc bs).core c).sbNext = (s.core c).sbNext := by
  rw [updateCache, State.core_modCore_same]
  exact ⟨rfl, rfl⟩

theorem me_atPlace (s : State) (a : Word) (loc : Loc) : (atPlace s a loc).me = { s.me with room := some (a, loc) } := by
  rw [atPlace, State.me_modMe]

theorem keepPops_region (s s0 : State) : (keepPops s s0).me.region = s0.me.region := by
  rw [keepPops, State.me_modMe]; rfl

theorem stall_status (s : State) (w : Wait) : (s.stall w).me.status = .waiting w := by
  rw [State.stall, State.me_modMe]

theorem askBanks_me (s : State) (k n : Nat) (store : Option (Word × List Byte)) (must : Bool) (s0 : State) :
    (askBanks s k n store must s0).me.status = .waiting .bank ∧
      (askBanks s k n store must s0).me.bank = some ⟨k, n, store, wordsIn k n, [], must⟩ := by
  rw [askBanks, State.me_modMe]
  exact ⟨rfl, rfl⟩

/-- Settles O19: the places of loads, then of stores. -/
theorem accessPlaces : Obligations.AccessPlaces := by
  unfold Obligations.AccessPlaces
  refine ⟨fun s a n hg h2 hw => ⟨fun k strong cached hloc => ?loadBank, fun k hkey hb hf hk => ?localRead,
    fun loc cached hloc hk => ?loadGlobal⟩, fun s a bs hs hl hw => ⟨fun k strong scope hloc => ?storeBank,
    fun p h hloc => ?storeHome, fun b strong scope hloc => ?storeAway⟩⟩
  case loadBank =>
    have hfetch := fetchBytes_bank hg hloc cached strong
    refine ⟨fun x hx => ?_, fun hb hf => ⟨fun hk => ?_, fun hk => ?_⟩, fun hb hf => ?_⟩
    · exact loadBytes_found (hfetch.trans (bankRead_served s k n x hx)) (unwatched_modMe hw ⟨rfl, rfl, rfl⟩)
    · exact loadBytes_found (hfetch.trans (bankRead_free hb hf hk)) hw
    · exact ⟨_, _, loadBytes_holds (hfetch.trans (bankRead_due hb hf hk)), rfl, askBanks_me ..⟩
    · exact ⟨_, _, loadBytes_holds (hfetch.trans (bankRead_busy hb hf)), rfl⟩
  case localRead =>
    rw [localRead, takeGot_nil hg, hkey]
    simp only [Eff.andThen_ok, bankRead_free hb hf hk]
  case loadGlobal =>
    refine ⟨fun bs hf => loadBytes_forwarded hg h2 hloc hk hw hf cached, fun hc => loadBytes_conflict hg h2 hloc hk hc cached,
      fun hn => ⟨fun l hline hv hc => ?_, fun hno => ⟨_, _, loadBytes_asks hg h2 hloc hk hn hno, rfl⟩⟩⟩
    subst hc
    exact loadBytes_cached hg h2 hloc hk hw hn hline hv
  case storeBank =>
    have hstore := storeBytes_bank hs hw hloc strong scope
    have hbank : s.me.bank = none → (atPlace s a (.bank k)).me.bank = none := fun h => by rw [me_atPlace]; exact h
    refine ⟨fun hf => ⟨fun hk => ?_, fun hk hb => ?_⟩, fun hk hb => ?_, fun hf hb => ?_⟩
    · exact ⟨_, hstore.trans (bankStore_direct _ a k bs hk hf), rfl, rfl⟩
    · exact ⟨_, _, hstore.trans (bankStore_due (hbank hb) hf hk a), rfl, askBanks_me ..⟩
    · obtain ⟨x, hx⟩ := Option.isSome_iff_exists.mp hb
      rw [← bankDone_atPlace s a (.bank k)] at hx
      exact ⟨_, hstore.trans (bankStore_served _ a k bs x hk hx), rfl⟩
    · exact ⟨_, _, hstore.trans (bankStore_busy (hbank hb) hf a), rfl⟩
  case storeHome =>
    refine ⟨fun hroom => ⟨fun hd => ?_, fun h1 h2 => ?_⟩, fun hfull => ?_⟩
    · refine ⟨_, (storeBytes_at hs hloc false 0).trans ((storeAt_home hw hl hroom).1 hd), rfl, ?_⟩
      refine (enterSbuf_sbuf ..).trans ?_
      rw [(updateCache_core ..).1, (updateCache_core ..).2, me_atPlace]
      rfl
    · obtain ⟨g, hstore⟩ := (storeAt_home (p := p) (h := h) hw hl hroom).2 h1 h2
      refine ⟨_, g, (storeBytes_at hs hloc false 0).trans hstore, rfl, stall_status .., ?_⟩
      refine (enterSbuf_sbuf ..).trans ?_
      rw [keepPops_region]
      rfl
    · exact ⟨_, _, (storeBytes_at hs hloc false 0).trans (storeAt_full hw (fun _ => Loc.noConfusion) hfull ..), rfl⟩
  case storeAway =>
    refine ⟨fun hroom => ?_, fun hfull => ⟨_, _, (storeBytes_at hs hloc strong scope).trans (storeAt_full hw (fun _ => Loc.noConfusion) hfull ..), rfl⟩⟩
    obtain ⟨g, kind, hstore⟩ := storeAt_away (b := b) (a := a) (bs := bs) hw hl hroom strong scope
    refine ⟨_, g, (storeBytes_at hs hloc strong scope).trans hstore, rfl, ?_, stall_status .., rfl⟩
    refine (congrArg List.length (enterSbuf_sbuf ..)).trans ?_
    rw [List.length_append]
    rfl

end Sys2Proof.Machine
end

section
/-! The frames of ST, LD and LDU of local memory, byte by byte (R110, R111, R124). -/

namespace Sys2Proof.Machine

/-! A place in a bank lies as its address does within its word. -/

theorem localSpace_word {a : Word} {sp off : Nat} (h : localSpace a = some (sp, off)) : off % 8 = a.toNat % 8 := by
  have ho : (a.extractLsb' 0 48).toNat % 8 = a.toNat % 8 := by
    rw [BitVec.extractLsb'_toNat, Nat.shiftRight_zero, Nat.mod_mod_of_dvd _ (by decide)]
  obtain hc | ⟨-, hc⟩ | ⟨hlo, hc⟩ | ⟨hlo, hc⟩ := localSpace_cases a
  · rw [hc] at h; exact absurd h (by simp)
  all_goals
    have hoff := (Prod.mk.inj (Option.some.inj (hc.symm.trans h))).2
    omega

theorem spaceKey_word (s : State) (c sp off : Nat) : spaceKey s c sp off % 8 = off % 8 := by
  unfold spaceKey tcmKey spadKey sramKey
  split
  · omega
  · split <;> omega

theorem localLoc_word {s : State} {w : Who} {a : Word} {n k : Nat} {need : Need} (h : localLoc s w a n need = .ok (.bank k)) :
    k % 8 = a.toNat % 8 := by
  unfold localLoc at h
  split at h
  next => cases h
  next sp off hsp =>
    split at h
    · have hk : spaceKey s w.core sp off = k := by simpa using h
      rw [← hk, spaceKey_word, localSpace_word hsp]
    · cases h

theorem globalLoc_not_bank {s t : State} {w : Who} {a : Word} {n k : Nat} {need : Need} :
    globalLoc s w a n need ≠ .ok (.bank k, t) := by
  unfold globalLoc
  split
  · nofun
  split
  · split
    · split <;> nofun
    · dsimp only
      split
      · nofun
      · split
        · nofun
        · split <;> simp
  · split
    · split <;> simp
    · nofun

theorem slotLoc_word {s t : State} {a : Word} {n k : Nat} {need : Need} (h : slotLoc s a n need = .ok (.bank k) t) :
    k % 8 = a.toNat % 8 := by
  rw [slotLoc, Eff.andThen_eq_ok] at h
  obtain ⟨_, s', _, h⟩ := h
  unfold accessLoc at h
  by_cases hl : isLocal a = true
  · rw [if_pos hl] at h
    cases hloc : localLoc s' s'.who a n need with
    | ok l =>
      rw [hloc] at h
      obtain ⟨rfl, -⟩ : l = .bank k ∧ s' = t := by simpa [Except.map] using h
      exact localLoc_word hloc
    | error c => rw [hloc] at h; cases h
  · rw [if_neg hl] at h
    cases hg : globalLoc s' s'.who a n need with
    | ok x =>
      rw [hg] at h
      obtain ⟨hx, -⟩ : x.1 = .bank k ∧ x.2 = t := by simpa using h
      exact absurd (hg.trans (congrArg Except.ok (Prod.ext (y := (.bank k, x.2)) hx rfl))) globalLoc_not_bank
    | error c => rw [hg] at h; cases h

theorem lt_four {m : Nat} (h : m < 4) : m = 0 ∨ m = 1 ∨ m = 2 ∨ m = 3 := by omega

/-- An access at a multiple of its width, of a power of two up to a word, lies in one word. -/
theorem wordsIn_aligned {k : Nat} (w : BitVec 2) (h : k % 2 ^ w.toNat = 0) : wordsIn k (2 ^ w.toNat) = [k / 8] := by
  have hlt : w.toNat < 4 := w.isLt
  have hcount : (k + 2 ^ w.toNat + 7) / 8 - k / 8 = 1 := by
    generalize w.toNat = m at *
    rcases lt_four hlt with rfl | rfl | rfl | rfl <;> omega
  rw [wordsIn, hcount]
  rfl

theorem word_holds {k : Nat} (w : BitVec 2) (h : k % 2 ^ w.toNat = 0) :
    max k (8 * (k / 8)) = k ∧ min (k + 2 ^ w.toNat) (8 * (k / 8) + 8) = k + 2 ^ w.toNat := by
  have hlt : w.toNat < 4 := w.isLt
  generalize w.toNat = m at *
  rcases lt_four hlt with rfl | rfl | rfl | rfl <;> omega

theorem mod_width {k m : Nat} (w : BitVec 2) (h : k % 8 = m % 8) (hm : m % 2 ^ w.toNat = 0) : k % 2 ^ w.toNat = 0 := by
  have hlt : w.toNat < 4 := w.isLt
  generalize w.toNat = m at *
  rcases lt_four hlt with rfl | rfl | rfl | rfl <;> omega

/-! The store. -/

/-- A bank serves the one word of a store: the store's bytes are written. -/
theorem serveWord_store {t : State} {slot k : Nat} {w : BitVec 2} {a : Word} {bs : List Byte} {must : Bool} {due : List Nat}
    (h : (t.slot slot).bank = some ⟨k, 2 ^ w.toNat, some (a, bs), due, [], must⟩) (hlen : bs.length = 2 ^ w.toNat)
    (hk : k % 2 ^ w.toNat = 0) : (serveWord t slot (k / 8)).mem = writeBytes t.mem k bs := by
  obtain ⟨hlo, hhi⟩ := word_holds w hk
  simp only [serveWord, h, hlo, hhi]
  show writeBytes t.mem k _ = _
  rw [Nat.sub_self, List.drop_zero, Nat.add_sub_cancel_left, ← hlen, List.take_length]

theorem bytesOfNat_getElem (n v i : Nat) (h : i < (bytesOfNat n v).length) :
    (bytesOfNat n v)[i] = BitVec.ofNat 8 (v / 256 ^ i) := by
  induction n generalizing v i with
  | zero => simp at h
  | succ n ih =>
    cases i with
    | zero => simp [bytesOfNat]
    | succ i =>
      simp only [bytesOfNat, List.getElem_cons_succ]
      rw [ih, Nat.div_div_eq_div_mul, Nat.pow_succ']

theorem bytesOf_getElem (n : Nat) (v : Word) (i : Nat) (h : i < (bytesOf n v).length) :
    (bytesOf n v)[i] = v.extractLsb' (8 * i) 8 := by
  refine (bytesOfNat_getElem n v.toNat i h).trans ?_
  rw [BitVec.extractLsb', Nat.shiftRight_eq_div_pow, Nat.pow_mul]

/-- The bytes that a store has written, and those that it has not. -/
theorem byteAt_stored (m : Memory) (k n : Nat) (v : Word) :
    (∀ i, i < n → byteAt (writeBytes m k (bytesOf n v)) (k + i) = v.extractLsb' (8 * i) 8) ∧
    ∀ a, a < k ∨ k + n ≤ a → byteAt (writeBytes m k (bytesOf n v)) a = byteAt m a := by
  refine ⟨fun i hi => ?_, fun a ha => byteAt_writeBytes_outside m k a _ (by rwa [bytesOf_length])⟩
  rw [byteAt_writeBytes_inside m k i _ (by rwa [bytesOf_length]), bytesOf_getElem]

section
variable {s : State} {gd ga : Reg} {w : BitVec 2} {off : BitVec 11} (hst : s.me.streams = [])
  (ha : (effAddr (s.me.reg ga) off).toNat % 2 ^ w.toNat = 0)
include hst ha

/-- A store with no alias bound is its store of bytes, then its end. -/
theorem exec_st_plain : exec (.st gd ga w off) s = conclude s
    ((storeBytes s (effAddr (s.me.reg ga) off) (bytesOf (2 ^ w.toNat) (s.me.reg gd)) false 0).andThen fun _ s => done s) := by
  show conclude s (storeInstr s gd ga (widthBytes w) off) = _
  simp only [storeInstr, readG_plain s _ (boundStream_none _ _ hst), widthBytes, checkAlign_aligned s ha, Eff.andThen_ok]

/-- A load with no alias bound whose bytes are found. -/
theorem loadInstr_plain {t : State} {bs : List Byte}
    (hl : loadBytes s (effAddr (s.me.reg ga) off) (2 ^ w.toNat) true false = .ok bs t) (ht : t.me.streams = []) (sx : Bool) :
    loadInstr s gd ga (2 ^ w.toNat) off sx = .ok () ((t.modMe (fun sl => sl.setReg gd
      (if sx then sextBytes (2 ^ w.toNat) (wordOf bs) else wordOf bs))).retire 4) := by
  rw [loadInstr_ok (readG_plain s ga (boundStream_none _ _ hst)) ha hl sx, writeDone,
    writeG_plain t gd _ (boundStream_none _ _ ht)]
  rfl

end

/-- What a store of the banks with its words served ends in. -/
theorem me_retire_of {s t : State} (hg : t.me.g = s.me.g) (hf : t.me.flags = s.me.flags) (hpc : t.me.pc = s.me.pc) (k : Nat) :
    (t.retire k).me.g = s.me.g ∧ (t.retire k).me.flags = s.me.flags ∧ (t.retire k).me.pc = s.me.pc + BitVec.ofNat 64 k := by
  rw [State.retire, State.me_finish]
  exact ⟨hg, hf, congrArg (· + BitVec.ofNat 64 k) hpc⟩

theorem retire_slot_ne (s : State) (k n : Nat) (h : n ≠ s.cur) : (s.retire k).slot n = s.slot n :=
  State.slot_finish_ne s _ n h

/-- The slot whose turn it is after its access to the banks has been noted. -/
theorem me_askBanks (s : State) (k n : Nat) (store : Option (Word × List Byte)) (must : Bool) (s0 : State) :
    (askBanks s k n store must s0).me = { storeMade s0.me with
      got := s.me.reads ++ s.me.got, kept := s.me.popped, room := s.me.room
      bank := some ⟨k, n, store, wordsIn k n, [], must⟩, status := .waiting .bank } := by
  rw [askBanks, State.me_modMe]

/-- ST to a scratchpad (R110). -/
theorem st_scratchpad {s : State} {gd ga : Reg} {w : BitVec 2} {off : BitVec 11} {k : Nat} (hst : s.me.streams = [])
    (hs : s.me.sent = []) (hw : unwatched s) (ha : (effAddr (s.me.reg ga) off).toNat % 2 ^ w.toNat = 0)
    (hloc : slotLoc s (effAddr (s.me.reg ga) off) (2 ^ w.toNat) .store = .ok (.bank k) s)
    (hf : bankFree s s.myCore k (2 ^ w.toNat) = true) (hk : inBanks k = true) :
    (s.me.bank = none → exec (.st gd ga w off) s = .next (askBanks (atPlace s (effAddr (s.me.reg ga) off) (.bank k)) k
      (2 ^ w.toNat) (some (effAddr (s.me.reg ga) off, bytesOf (2 ^ w.toNat) (s.me.reg gd))) false s)) ∧
    ((bankDone s k (2 ^ w.toNat) true).isSome = true → exec (.st gd ga w off) s =
      .next ((bankOver (atPlace s (effAddr (s.me.reg ga) off) (.bank k))).retire 4)) := by
  have hlen := bytesOf_length (2 ^ w.toNat) (s.me.reg gd)
  rw [exec_st_plain hst ha]
  generalize effAddr (s.me.reg ga) off = ea at *
  generalize bytesOf (2 ^ w.toNat) (s.me.reg gd) = bs at *
  rw [← hlen] at hloc hf ⊢
  rw [storeBytes_bank hs hw hloc]
  constructor
  · intro hb
    rw [bankStore_due (s := atPlace s ea (.bank k)) (by rw [me_atPlace]; exact hb) hf hk]
    rfl
  · intro hb
    obtain ⟨x, hx⟩ := Option.isSome_iff_exists.mp hb
    rw [← bankDone_atPlace s ea (.bank k)] at hx
    rw [bankStore_served _ ea k bs x hk hx]
    rfl

/-- ST to local memory outside the scratchpads (R111). -/
theorem st_local {s : State} {gd ga : Reg} {w : BitVec 2} {off : BitVec 11} {k : Nat} (hst : s.me.streams = [])
    (hs : s.me.sent = []) (hw : unwatched s) (ha : (effAddr (s.me.reg ga) off).toNat % 2 ^ w.toNat = 0)
    (hloc : slotLoc s (effAddr (s.me.reg ga) off) (2 ^ w.toNat) .store = .ok (.bank k) s)
    (hf : bankFree s s.myCore k (2 ^ w.toNat) = true) (hk : inBanks k = false) :
    exec (.st gd ga w off) s = .next ((bankWrite (atPlace s (effAddr (s.me.reg ga) off) (.bank k)) k
      (bytesOf (2 ^ w.toNat) (s.me.reg gd))).retire 4) := by
  have hlen := bytesOf_length (2 ^ w.toNat) (s.me.reg gd)
  rw [exec_st_plain hst ha]
  generalize effAddr (s.me.reg ga) off = ea at *
  generalize bytesOf (2 ^ w.toNat) (s.me.reg gd) = bs at *
  rw [← hlen] at hloc hf
  rw [storeBytes_bank hs hw hloc, bankStore_direct (atPlace s ea (.bank k)) ea k bs hk hf]
  rfl

/-- The bytes of a load of the banks, and the state in which it has them: what it notes is of the slot alone. -/
theorem loadBytes_local {s : State} {a : Word} {n k : Nat} {bs : List Byte} (hg : s.me.got = []) (hw : unwatched s)
    (hloc : slotLoc s a n .load = .ok (.bank k) s) (hf : bankFree s s.myCore k n = true)
    (h : inBanks k = false ∧ s.me.bank = none ∧ bs = readBytes s.mem k n ∨ ∃ x, bankDone s k n false = some x ∧ bs = x.bytes) :
    ∃ f : Slot → Slot, loadBytes s a n true false = .ok bs (s.modMe f) ∧
      ∀ sl, ∃ b rd, f sl = { sl with bank := b, reads := rd } := by
  have hfetch := fetchBytes_bank hg hloc true false
  obtain ⟨hk, hb, rfl⟩ | ⟨x, hx, rfl⟩ := h
  · exact ⟨_, loadBytes_found (hfetch.trans (bankRead_direct s k n hb hk hf)) hw, fun sl => ⟨sl.bank, _, rfl⟩⟩
  · refine ⟨_, (loadBytes_found (hfetch.trans (bankRead_served s k n x hx)) (unwatched_modMe hw ⟨rfl, rfl, rfl⟩)).trans
      (congrArg _ (State.modMe_modMe ..)), fun sl => ⟨none, _, rfl⟩⟩

/-- LD and LDU of local memory: gd takes the value, and nothing else but the slot's pc and its marks changes. -/
theorem load_local_frame {s : State} {gd : Reg} {v : Word} {f : Slot → Slot} (hf : ∀ sl, ∃ b rd, f sl = { sl with bank := b, reads := rd }) :
    let t := ((s.modMe f).modMe (fun sl => sl.setReg gd v)).retire 4
    t = { s with slots := t.slots } ∧ (∀ n, n ≠ s.cur → t.slot n = s.slot n) ∧
      (∀ r : Reg, r ≠ gd → t.me.reg r = s.me.reg r) ∧ t.me.pc = s.me.pc + 4 ∧ t.me.flags = s.me.flags ∧
      (gd ≠ 0 → t.me.reg gd = v) := by
  intro t
  obtain ⟨b, rd, hb⟩ := hf s.me
  have hme : t.me = { clearProgress (s.me.setReg gd v) with pc := s.me.pc + 4, status := .ready, wpSkip := false } := by
    show (((s.modMe f).modMe (fun sl => sl.setReg gd v)).retire 4).me = _
    rw [State.modMe_modMe, me_modMe_retire, hb]
    unfold Slot.setReg
    split <;> rfl
  have hreg : ∀ r, t.me.reg r = (s.me.setReg gd v).reg r := fun r => by
    rw [hme]; exact Slot.reg_congr rfl r
  refine ⟨rfl, fun n hn => ?_, fun r hr => ?_, ?_, ?_, fun h0 => ?_⟩
  · exact (retire_slot_ne ((s.modMe f).modMe _) 4 n hn).trans ((State.slot_modMe_ne (s.modMe f) n _ hn).trans (State.slot_modMe_ne s n f hn))
  · rw [hreg, Slot.reg_setReg_ne _ _ hr]
  · rw [hme]
  · rw [hme]; exact Slot.setReg_flags ..
  · rw [hreg, Slot.reg_setReg_same, if_neg h0]

/-- Settles O20: the store by the kind of its bank, then the two loads. -/
theorem localAccessFrames : Obligations.LocalAccessFrames := by
  unfold Obligations.LocalAccessFrames
  refine ⟨fun s gd ga w off k hst hs hw ha hloc hf => ⟨fun hk => ⟨fun hb => ?asks, fun hb => ?served⟩, fun hk => ?direct⟩,
    fun s gd ga w off k hst hg hw ha hloc hf bs hbs i hi => ?load⟩
  case asks =>
    have hk0 := mod_width w (slotLoc_word hloc) ha
    have hstored := byteAt_stored s.mem k (2 ^ w.toNat) (s.me.reg gd)
    refine ⟨_, (st_scratchpad hst hs hw ha hloc hf hk).1 hb, rfl, ?_, ?_, ?_, ?_, ?_⟩
    · rw [me_askBanks]; rfl
    · rw [me_askBanks]; rfl
    · rw [me_askBanks]
    · rw [me_askBanks]; exact wordsIn_aligned w hk0
    · have hserve := serveWord_store (slot := s.cur) (congrArg Slot.bank (me_askBanks (atPlace s (effAddr (s.me.reg ga) off)
        (.bank k)) k (2 ^ w.toNat) (some (effAddr (s.me.reg ga) off, bytesOf (2 ^ w.toNat) (s.me.reg gd))) false s))
        (bytesOf_length ..) hk0
      rw [hserve]
      exact hstored
  case served =>
    refine ⟨_, (st_scratchpad hst hs hw ha hloc hf hk).2 hb, rfl, ?_⟩
    have hme : (bankOver (atPlace s (effAddr (s.me.reg ga) off) (.bank k))).me =
        { s.me with room := some (effAddr (s.me.reg ga) off, .bank k), bank := none } := by
      rw [bankOver, State.me_modMe, me_atPlace]
    generalize hu : bankOver (atPlace s (effAddr (s.me.reg ga) off) (.bank k)) = u at *
    obtain ⟨hg, hfl, hpc⟩ := me_retire_of (t := u) (s := s) (by rw [hme]) (by rw [hme]) (by rw [hme]) 4
    refine ⟨hg, hfl, hpc, fun n hn => ?_⟩
    subst hu
    exact (retire_slot_ne (bankOver (atPlace s _ _)) 4 n hn).trans
      ((State.slot_modMe_ne (atPlace s _ _) n _ hn).trans (State.slot_modMe_ne s n _ hn))
  case direct =>
    obtain ⟨hin, hout⟩ := byteAt_stored s.mem k (2 ^ w.toNat) (s.me.reg gd)
    refine ⟨_, st_local hst hs hw ha hloc hf hk, hin, hout, rfl, ?_⟩
    have hslot := bankWrite_slot (atPlace s (effAddr (s.me.reg ga) off) (.bank k)) k (bytesOf (2 ^ w.toNat) (s.me.reg gd))
    obtain ⟨r, hr, -⟩ := hslot s.cur
    have hme : (bankWrite (atPlace s (effAddr (s.me.reg ga) off) (.bank k)) k (bytesOf (2 ^ w.toNat) (s.me.reg gd))).me =
        { s.me with room := some (effAddr (s.me.reg ga) off, .bank k), reply := r } :=
      hr.trans (congrArg (fun sl : Slot => { sl with reply := r }) (me_atPlace ..))
    obtain ⟨hg, hfl, hpc⟩ := me_retire_of (t := bankWrite (atPlace s (effAddr (s.me.reg ga) off) (.bank k)) k
      (bytesOf (2 ^ w.toNat) (s.me.reg gd))) (s := s) (by rw [hme]) (by rw [hme]) (by rw [hme]) 4
    refine ⟨hg, hfl, hpc, fun n hn => ?_⟩
    obtain ⟨q, hq, -⟩ := hslot n
    have hn' := (retire_slot_ne (bankWrite (atPlace s _ _) k _) 4 n hn).trans (hq.trans (congrArg (fun sl : Slot => { sl with reply := q })
      (State.slot_modMe_ne s n (fun sl => { sl with room := some (effAddr (s.me.reg ga) off, .bank k) }) hn)))
    exact ⟨by rw [hn'], by rw [hn']⟩
  case load =>
    obtain ⟨f, hload, hslot⟩ := loadBytes_local hg hw hloc hf hbs
    have hst' : (s.modMe f).me.streams = [] := by
      obtain ⟨b, rd, hb⟩ := hslot s.me
      rw [State.me_modMe, hb]
      exact hst
    rw [List.mem_cons, List.mem_singleton] at hi
    obtain rfl | rfl := hi
    · refine ⟨_, congrArg (conclude s) (loadInstr_plain hst ha hload hst' true), ?_⟩
      obtain ⟨h1, h2, h3, h4, h5, h6⟩ := load_local_frame (s := s) (gd := gd) (v := sextBytes (2 ^ w.toNat) (wordOf bs)) hslot
      exact ⟨h1, h2, h3, h4, h5, fun h0 => (h6 h0).trans (if_pos rfl).symm⟩
    · refine ⟨_, congrArg (conclude s) (loadInstr_plain hst ha hload hst' false), ?_⟩
      obtain ⟨h1, h2, h3, h4, h5, h6⟩ := load_local_frame (s := s) (gd := gd) (v := wordOf bs) hslot
      exact ⟨h1, h2, h3, h4, h5, fun h0 => (h6 h0).trans (if_neg Instr.noConfusion).symm⟩

end Sys2Proof.Machine
end

section
/-! The fences and the lease members (R130, R135, R146, R149). -/

namespace Sys2Proof.Machine

/-! Draining. -/

theorem released_narrow {α : Type} {scope : BitVec 3} (h : scope.toNat < 2) (s : State) (k : State → Eff α) :
    released s scope k = k s := by
  rw [released, if_neg (Nat.not_le.mpr h)]

/-- The mark that a drain leaves with the slot. -/
def markDrain (s : State) : State := s.modMe (fun sl => { sl with drain := some (s.me.drain.getD (s.core s.myCore).sbNext) })

theorem waitDrained_empty {s : State} (h : (s.core s.myCore).sbuf = []) : waitDrained s = .ok () (markDrain s) := by
  rw [waitDrained, h]; rfl

theorem release_empty {s : State} {scope : BitVec 3} (h2 : 2 ≤ scope.toNat) (h : (s.core s.myCore).sbuf = []) :
    release s scope = .ok () (markDrain s) := by
  rw [release, if_pos h2, waitDrained_empty h]

/-- Entries of the buffer older than the drain are waited for. -/
theorem released_waits {α : Type} {s : State} {scope : BitVec 3} (h2 : 2 ≤ scope.toNat) (hd : s.me.drain = none)
    (h : ∃ e ∈ (s.core s.myCore).sbuf, e.id < (s.core s.myCore).sbNext) (k : State → Eff α) :
    released s scope k = hold (fun s0 => s0.modMe (fun sl => { sl with
      drain := some (s.core s.myCore).sbNext, status := .waiting .poll })) := by
  have hany : (s.core s.myCore).sbuf.any (fun e => decide (e.id < (s.core s.myCore).sbNext)) = true := by
    simpa only [List.any_eq_true, decide_eq_true_eq] using h
  rw [released, if_pos h2, waitDrained, hd]
  simp only [Option.getD_none, hany, if_true]
  rfl

/-! The fences. -/

theorem exec_fenceAcq {scope : BitVec 3} (h : scope.toNat < 6) (s : State) :
    exec (.fenceAcq scope) s = .next ((acquire s scope).retire 4) := by
  show execFenceAcq scope s = _
  rw [execFenceAcq, checkScope_ok s scope _ h]; rfl

section
variable {s : State} {scope : BitVec 3} (h : scope.toNat < 6)
include h

theorem exec_fenceRel_eq : exec (.fenceRel scope) s = conclude s (released s scope fun s => done s) := by
  show execFenceRel scope s = _
  rw [execFenceRel, checkScope_ok s scope _ h]; rfl

theorem exec_fenceFull_eq : exec (.fenceFull scope) s = conclude s (released s scope fun s => done (acquire s scope)) := by
  show execFenceFull scope s = _
  rw [execFenceFull, checkScope_ok s scope _ h]; rfl

theorem exec_fenceRel {t : State} (hr : release s scope = .ok () t) : exec (.fenceRel scope) s = .next (t.retire 4) := by
  rw [exec_fenceRel_eq h, released_ok (x := ()) (u := t.retire 4) hr rfl]; rfl

theorem exec_fenceFull {t : State} (hr : release s scope = .ok () t) :
    exec (.fenceFull scope) s = .next ((acquire t scope).retire 4) := by
  rw [exec_fenceFull_eq h, released_ok (x := ()) (u := (acquire t scope).retire 4) hr rfl]; rfl

end

theorem release_narrow {scope : BitVec 3} (h : scope.toNat < 2) (s : State) : release s scope = .ok () s := by
  rw [release, if_neg (Nat.not_le.mpr h)]

/-- The fences, each with its scope. -/
def fences (scope : BitVec 3) : List Instr := [.fenceAcq scope, .fenceRel scope, .fenceFull scope]

theorem exec_fence_scope {s : State} {scope : BitVec 3} (h : 6 ≤ scope.toNat) {i : Instr} (hi : i ∈ fences scope) :
    exec i s = .next (takeFault s .scope ((encodeScalar i).setWidth 64)) := by
  simp only [fences, List.mem_cons, List.not_mem_nil, or_false] at hi
  have hbad := fun w => checkScope_bad s scope w (Nat.not_lt.mpr h)
  obtain rfl | rfl | rfl := hi
  · exact conclude_andThen_of_trap s (hbad _) _
  · exact conclude_andThen_of_trap s (hbad _) _
  · exact conclude_andThen_of_trap s (hbad _) _

/-! ExpireAll, core by core. -/

theorem acquire_wide {scope : BitVec 3} (h : 1 ≤ scope.toNat) (s : State) : acquire s scope = expireAll s s.myCore := if_pos h

theorem expireAll_core (s : State) (c d : Nat) : (expireAll s c).core d =
    (s.modCore c (fun k => { k with cache := k.cache.map (fun l => { l with live := false }) })).core d := rfl

theorem expireAll_cache (s : State) (c : Nat) : ∀ l ∈ ((expireAll s c).core c).cache, l.live = false := by
  rw [expireAll_core, State.core_modCore_same]
  intro l hl
  obtain ⟨l', -, rfl⟩ := List.mem_map.mp hl
  rfl

theorem expireAll_core_ne (s : State) {c d : Nat} (h : d ≠ c) : (expireAll s c).core d = s.core d :=
  (expireAll_core s c d).trans (State.core_modCore_ne s c d _ h)

/-! The lease members. -/

theorem retire_me_pc (s : State) (k : Nat) : (s.retire k).me.pc = s.me.pc + BitVec.ofNat 64 k := by
  rw [State.retire, State.me_finish]

theorem dropLines_cache (s : State) (f : CacheLine → Bool) :
    ((dropLines s f).core s.myCore).cache = (s.core s.myCore).cache.filter (fun l => !(f l)) := by
  rw [dropLines, State.core_modCore_same]

/-- DROP leaves no line at the address. -/
theorem cachedLine_dropped (s : State) (x : Word) :
    cachedLine (dropLines s (fun l => l.addr == lineAddr s x)) s.myCore x = none := by
  rw [cachedLine, dropLines_cache, List.find?_eq_none]
  intro l hl
  have hne := (List.mem_filter.mp hl).2
  rw [Bool.not_eq_true'] at hne
  exact Bool.eq_false_iff.mp hne

section
variable {s s1 : State} {ga : Reg} {x : Word} (hr : readG s ga = .ok x s1)
include hr

theorem exec_drop : exec (.drop ga) s = .next ((dropLines s1 (fun l => l.addr == lineAddr s1 x)).retire 4) := by
  show execDrop ga s = _
  rw [execDrop, hr]; rfl

theorem exec_prune {s2 : State} {gb : Reg} {n : Word} (hb : readG s1 gb = .ok n s2) :
    exec (.prune ga gb) s = .next ((dropLines s2 (fun l => lineInRange s2 l.addr x n)).retire 4) := by
  show execPrune ga gb s = _
  rw [execPrune, hr, Eff.andThen_ok, hb]; rfl

theorem exec_lease_walks {f : State → State} (hw : walkFirst s1 x = .pause f f) :
    exec (.renew ga) s = .next (f s) ∧ exec (.pref ga) s = .next (f s) := by
  constructor
  · show execRenew ga s = _
    rw [execRenew, hr, Eff.andThen_ok, hw]; rfl
  · show execPref ga s = _
    rw [execPref, hr, Eff.andThen_ok, hw]; rfl

variable (hw : walkFirst s1 x = .ok () s1)
include hw

theorem exec_renew {loc : Loc} (hl : leasable s1 (x &&& ~~~(127 : Word)) = some loc) :
    exec (.renew ga) s = .next (if (cachedLine s1 s1.myCore x).isSome then (askLine s1 (x &&& ~~~(127 : Word)) loc).retire 4
      else s1.retire 4) := by
  show execRenew ga s = _
  rw [execRenew, hr, Eff.andThen_ok, hw, Eff.andThen_ok, hl]
  cases cachedLine s1 s1.myCore x <;> rfl

theorem exec_pref_held {loc : Loc} {l : CacheLine} (hl : leasable s1 (x &&& ~~~(127 : Word)) = some loc)
    (hc : cachedLine s1 s1.myCore x = some l) :
    exec (.pref ga) s = .next (if leaseValid s1 (s1.core s1.myCore) l then s1.retire 4
      else (askLine s1 (x &&& ~~~(127 : Word)) loc).retire 4) := by
  show execPref ga s = _
  rw [execPref, hr, Eff.andThen_ok, hw, Eff.andThen_ok, hl]
  simp only [hc]
  split <;> rfl

theorem exec_pref_missing {loc : Loc} (hl : leasable s1 (x &&& ~~~(127 : Word)) = some loc)
    (hc : cachedLine s1 s1.myCore x = none) :
    exec (.pref ga) s = .next ((askLine s1 (x &&& ~~~(127 : Word)) loc).retire 4) := by
  show execPref ga s = _
  rw [execPref, hr, Eff.andThen_ok, hw, Eff.andThen_ok, hl]
  simp only [hc]
  rfl

theorem exec_lease_none (hl : leasable s1 (x &&& ~~~(127 : Word)) = none) :
    exec (.renew ga) s = .next (s1.retire 4) ∧ exec (.pref ga) s = .next (s1.retire 4) := by
  constructor
  · show execRenew ga s = _
    rw [execRenew, hr, Eff.andThen_ok, hw, Eff.andThen_ok, hl]; rfl
  · show execPref ga s = _
    rw [execPref, hr, Eff.andThen_ok, hw, Eff.andThen_ok, hl]; rfl

end

/-- Settles O21: the fences by their scope, then the lease members by what they find. -/
theorem fencesAndLeases : Obligations.FencesAndLeases := by
  unfold Obligations.FencesAndLeases
  refine ⟨fun s scope => ⟨fun h => ⟨exec_fenceAcq h s, fun hn => ?narrow, fun h2 hb => ?drained, fun h2 hd he i hi => ?waits⟩,
    fun h i hi => exec_fence_scope h hi, fun h1 => ?expired, fun h0 => by rw [h0]; rfl⟩, fun s s1 s2 ga gb x n hr => ?leases⟩
  case narrow =>
    have hrel := release_narrow hn s
    exact ⟨exec_fenceRel h hrel, exec_fenceFull h hrel⟩
  case drained =>
    have hrel := release_empty h2 hb
    refine ⟨markDrain s, ?_, exec_fenceRel h hrel, exec_fenceFull h hrel⟩
    rw [markDrain, State.me_modMe]
  case waits =>
    simp only [List.mem_cons, List.not_mem_nil, or_false] at hi
    obtain rfl | rfl := hi
    · rw [exec_fenceRel_eq h, released_waits h2 hd he]; rfl
    · rw [exec_fenceFull_eq h, released_waits h2 hd he]; rfl
  case expired =>
    rw [acquire_wide h1]
    refine ⟨expireAll_cache s s.myCore, fun n hn => ?_, fun c hc => expireAll_core_ne s hc⟩
    rw [expireAll_slot, hn, if_pos rfl]
  case leases =>
    refine ⟨⟨_, exec_drop hr, cachedLine_dropped s1 x, rfl, ?_⟩, fun hb => ⟨_, exec_prune hr hb, ?_, rfl, ?_⟩,
      fun f hw => exec_lease_walks hr hw, fun loc hw hl => ⟨fun l hc => ⟨?_, exec_pref_held hr hw hl hc⟩,
        fun hc => ⟨?_, exec_pref_missing hr hw hl hc⟩⟩, fun hw hl => exec_lease_none hr hw hl⟩
    · exact retire_me_pc _ 4
    · exact retire_me_pc _ 4
    · exact dropLines_cache ..
    · rw [exec_renew hr hw hl, hc]; rfl
    · rw [exec_renew hr hw hl, hc]; rfl

end Sys2Proof.Machine
end

section
/-! NOTIFY and RUPD (R176 to R178): an update entry of the store buffer. -/

namespace Sys2Proof.Machine

/-- The width of an update's op (R177). -/
theorem updateFn_width (op : BitVec 3) : (updateFn op).2 = if op = 1 then 4 else 8 := by
  revert op; decide

/-- An update instruction after its checks: its Release, then its entry. -/
theorem conclude_update {s s4 s5 : State} {a v : Word} {loc : Loc} {n : Nat} {op scope : BitVec 3} {cnt : Option Word}
    (hw : unwatched s4) (hr : release s4 scope = .ok () s5) (hroom : (s5.core s5.myCore).sbuf.length < 32) :
    conclude s ((checkWatch s4 a n false true).andThen fun _ s =>
      released s scope fun s => if sbufRoom s then done (enterUpdate s a loc n op v cnt scope false) else stall .poll) =
      .next ((enterUpdate s5 a loc n op v cnt scope false).retire 4) := by
  rw [checkWatch_unwatched hw, Eff.andThen_ok, released_ok (x := ()) (u := (enterUpdate s5 a loc n op v cnt scope false).retire 4)
    hr (by rw [if_pos ((sbufRoom_iff s5).mpr hroom)]; rfl), conclude_ok]

section
variable {s s1 s2 s4 s5 : State} {ga gb : Reg} {scope : BitVec 3} {a v : Word} {loc : Loc} (hs : scope.toNat < 6)
  (ha : readG s ga = .ok a s1) (hb : readG s1 gb = .ok v s2) (hw : unwatched s4) (hr : release s4 scope = .ok () s5)
  (hroom : (s5.core s5.myCore).sbuf.length < 32)
include hs ha hb hw hr hroom

theorem exec_notify (h8 : a.toNat % 8 = 0) (hloc : slotLoc s2 a 8 .rmw = .ok loc s4) :
    exec (.notify ga gb scope) s = .next ((enterUpdate s5 a loc 8 0 v none scope false).retire 4) := by
  show execNotify ga gb scope s = _
  simp only [execNotify, checkScope_ok s scope _ hs, ha, hb, checkAlign_aligned s2 h8, hloc, Eff.andThen_ok]
  exact conclude_update hw hr hroom

/-- RUPD with its counted word read or absent. -/
theorem exec_rupd {s3 : State} {gd : Reg} {op : BitVec 3} {cnt : Option Word}
    (hc : (if gd = 0 then Eff.ok none s2 else (readG s2 gd).andThen fun w s => Eff.ok (some w) s) = .ok cnt s3)
    (hn : a.toNat % (if op = 1 then 4 else 8) = 0) (h8 : (cnt.getD 0).toNat % 8 = 0)
    (hloc : rupdLocs s3 a (if op = 1 then 4 else 8) cnt = .ok loc s4) :
    exec (.rupd gd ga gb scope op) s =
      .next ((enterUpdate s5 a loc (if op = 1 then 4 else 8) op v cnt scope false).retire 4) := by
  show execRupd gd ga gb scope op s = _
  rw [← updateFn_width] at *
  simp only [execRupd, checkScope_ok s scope _ hs, ha, hb, hc, checkAlign_aligned s3 hn, check_met s3 _ _ (decide_eq_true h8),
    hloc, Eff.andThen_ok]
  exact conclude_update hw hr hroom

end

/-- With no counted word the target's checks are all (R177). -/
theorem rupdLocs_target {s s4 : State} {a : Word} {n : Nat} {loc : Loc} (h : slotLoc s a n .rmw = .ok loc s4) :
    rupdLocs s a n none = .ok loc s4 := by
  rw [slotLoc, Eff.andThen_eq_ok] at h
  obtain ⟨_, s', hwalk, h⟩ := h
  have hnone : walkFirst s' (BitVec.allOnes 64) = .ok () s' := walkFirst_walked (walksFor_of_bit63 (by decide))
  rw [rupdLocs, hwalk, Eff.andThen_ok]
  show (walkFirst s' (BitVec.allOnes 64)).andThen _ = _
  rw [hnone, Eff.andThen_ok]
  split at h
  next l t hl => cases h; simp only [hl]
  next => cases h

/-- Settles O28: the entry after the checks of each form. -/
theorem updatesComplete : Obligations.UpdatesComplete := by
  unfold Obligations.UpdatesComplete
  intro s s1 s2 s3 s4 s5 ga gb gd scope a v w loc hs ha hb
  refine ⟨fun h8 hloc hw hr hroom => exec_notify hs ha hb hw hr hroom h8 hloc, fun op hn =>
    ⟨fun hloc hw hr hroom => ?plain, fun h0 hd h8 hloc hw hr hroom => ?counted⟩, fun n op cnt => ⟨enterSbuf_sbuf .., rfl⟩⟩
  case plain => exact exec_rupd hs ha hb hw hr hroom (cnt := none) (if_pos rfl) hn (by decide) (rupdLocs_target hloc)
  case counted =>
    exact exec_rupd hs ha hb hw hr hroom (cnt := some w) (by rw [if_neg h0, hd]; rfl) hn h8 hloc

end Sys2Proof.Machine
end

section
/-! The full/empty members (R170, R171) at a scratchpad word, once its bank has served it. -/

namespace Sys2Proof.Machine

/-! What follows a Release that is over at once, where it waits. -/

theorem released_wait {α : Type} {s t : State} {scope : BitVec 3} {k : State → Eff α} {f : State → State}
    (h2 : 2 ≤ scope.toNat) (hr : release s scope = .ok () t) (hk : k t = .wait f) :
    released s scope k = .wait (keepDrain t f) := by
  rw [release, if_pos h2] at hr
  rw [released, if_pos h2, hr, Eff.andThen_ok]
  simp only [hk]

theorem released_pause {α : Type} {s t : State} {scope : BitVec 3} {k : State → Eff α} {f g : State → State}
    (h2 : 2 ≤ scope.toNat) (hr : release s scope = .ok () t) (hk : k t = .pause f g) :
    released s scope k = .pause (keepDrain t f) (keepDrain t g) := by
  rw [release, if_pos h2] at hr
  rw [released, if_pos h2, hr, Eff.andThen_ok]
  simp only [hk]

/-! The banks. -/

theorem atFreeBank_served {α : Type} {s : State} {k n : Nat} (hf : bankFree s s.myCore k n = true)
    (hd : (bankDone s k n false).isSome = true) (must : Bool) (e : Eff α) : atFreeBank s k n must e = e := by
  rw [atFreeBank, if_pos hf, atService_served must e (.inr hd)]

theorem atFreeBank_asks {α : Type} {s : State} {k n : Nat} (hf : bankFree s s.myCore k n = true) (hk : inBanks k = true)
    (hd : bankDone s k n false = none) (must : Bool) (e : Eff α) :
    atFreeBank s k n must e = hold (askBanks s k n none must) := by
  rw [atFreeBank, if_pos hf, atService_asks must e hk hd]

/-! Tags with no sleeper at the bank. -/

theorem emptyWord_quiet {s : State} (h : s.feSleep = []) (key : Nat) : emptyWord s key = setFull s key false := by
  rw [emptyWord, h]; rfl

theorem fillWord_quiet {s : State} (h : s.feSleep = []) (key : Nat) (v : Word) :
    fillWord s key v = setFull (bankWrite s key (bytesOf 8 v)) key true := by
  have hq : (setFull (bankWrite s key (bytesOf 8 v)) key true).feSleep = [] := h
  rw [fillWord, hq]; rfl

/-- A slot that falls asleep at a bank (R169, R171). -/
theorem bankSleep_spec {s : State} (hq : s.feSleep = []) (ha : ∀ z, s.me.status ≠ .asleep z) (k : SleepFor) (a : Word) :
    (bankSleep k a s).feSleep = [s.cur] ∧ (bankSleep k a s).mem = s.mem ∧
      ∃ z, (bankSleep k a s).me.status = .asleep z ∧ z.kind = k ∧ z.lim = s.me.waitlim := by
  refine ⟨?_, rfl, ⟨k, s.me.since.getD s.time, s.me.waitlim, a, false⟩, ?_, rfl, rfl⟩
  · rw [bankSleep, hq]; rfl
  · show (s.sleepFor k a).me.status = _
    rw [State.sleepFor, State.me_modMe]
    split
    next z hz => exact absurd hz (ha z)
    next => rfl

theorem me_keepPops (s s0 : State) : (keepPops s s0).me = { storeMade s0.me with
    got := s.me.reads ++ s.me.got, kept := s.me.popped, room := s.me.room } := by
  rw [keepPops, State.me_modMe]

/-- The same after what the instruction keeps of its reads. -/
theorem bankSleep_kept {s p : State} (hq : s.feSleep = []) (ha : ∀ z, s.me.status ≠ .asleep z) (k : SleepFor) (a : Word) :
    (bankSleep k a (keepPops p s)).feSleep = [s.cur] ∧ (bankSleep k a (keepPops p s)).mem = s.mem ∧
      ∃ z, (bankSleep k a (keepPops p s)).me.status = .asleep z ∧ z.kind = k ∧ z.lim = s.me.waitlim := by
  obtain ⟨h1, h2, z, hz, hkind, hlim⟩ := bankSleep_spec (s := keepPops p s) hq (by rw [me_keepPops]; exact ha) k a
  exact ⟨h1, h2, z, hz, hkind, by rw [hlim, me_keepPops]; rfl⟩

section
variable {s s1 p : State} {ga gd : Reg} {a : Word} {key : Nat} (hr : readG s ga = .ok a s1) (hrep : s1.me.reply = none)
  (hw : unwatched s1) (hp : probeG s1 gd = .ok () p)
include hr hrep hw hp

/-- LDFE up to its bank. -/
theorem exec_ldfe (hloc : feLoc s1 a .rmw = .ok key s1) : exec (.ldfe gd ga) s = conclude s (atFreeBank p key 8 false (
    if isFull p key then
      if pushWaits p gd then act p (fun s0 => withResult (emptyWord s0 key) (wordOf (readBytes p.mem key 8)))
      else writeDone (acquire (emptyWord p key) 2) gd (wordOf (readBytes p.mem key 8))
    else act p (bankSleep (.ldfe key) a))) := by
  show execLdfe gd ga s = _
  simp only [execLdfe, hr, Eff.andThen_ok, hrep, hloc, checkWatch_unwatched hw, hp]

/-- LDFF up to its bank. -/
theorem exec_ldff (hloc : feLoc s1 a .look = .ok key s1) : exec (.ldff gd ga) s = conclude s (atFreeBank p key 8 false (
    if isFull p key then
      if pushWaits p gd then act p (fun s0 => withResult s0 (wordOf (readBytes p.mem key 8)))
      else writeDone (acquire p 2) gd (wordOf (readBytes p.mem key 8))
    else act p (bankSleep (.ldff key) a))) := by
  show execLdff gd ga s = _
  simp only [execLdff, hr, Eff.andThen_ok, hrep, hloc, checkWatch_unwatched hw, hp]

end

/-- STEF up to its bank. -/
theorem exec_stef {s s1 s2 : State} {ga gb : Reg} {a v : Word} {key : Nat} (hr : readG s ga = .ok a s1)
    (hv : readG s1 gb = .ok v s2) (hrep : s2.me.reply = none) (hw : unwatched s2)
    (hloc : feLoc s2 a .store = .ok key s2) : exec (.stef ga gb) s = conclude s (released s2 2 fun s =>
      atFreeBank s key 8 false (if isFull s key then act s (bankSleep (.stef key v) a) else done (fillWord s key v))) := by
  show execStef ga gb s = _
  simp only [execStef, hr, hv, Eff.andThen_ok, hrep, hloc, checkWatch_unwatched hw]

theorem exec_sete {s s1 : State} {ga : Reg} {a : Word} {key : Nat} (hr : readG s ga = .ok a s1)
    (hloc : feLoc s1 a .store = .ok key s1) :
    exec (.sete ga) s = conclude s (atFreeBank s1 key 8 true (done (emptyWord s1 key))) := by
  show execSete ga s = _
  simp only [execSete, hr, Eff.andThen_ok, hloc]

/-- Settles O27: each member by the tag that it finds, or by the bank that has yet to serve it. -/
theorem fullEmpty : Obligations.FullEmpty := by
  unfold Obligations.FullEmpty
  intro s s1 ga a key hr hrep hw hk hq
  refine ⟨fun p gd hp hf => ⟨fun hd hfull => ⟨fun hnow t => ⟨fun hloc hwr => ?_, fun hloc hwr => ?_⟩,
      fun hlater => ⟨fun hloc => ?_, fun hloc => ?_⟩⟩, fun hd hempty hq0 hst => ⟨fun hloc => ⟨_, ?_, bankSleep_kept (p := p) hq0 hst _ a⟩,
      fun hloc => ⟨_, ?_, bankSleep_kept (p := p) hq0 hst _ a⟩⟩, fun hd => ⟨fun hloc => ?_, fun hloc => ?_⟩⟩,
    fun s2 s3 gb v hv hrep2 hw2 hloc hrel hf => ⟨fun hd hempty hq3 => ?_, fun hd hfull hq0 hst => ?stefSleeps,
      fun hd => ?stefAsks⟩, fun hloc hf => ⟨fun hd => ?_, fun hd => ?_⟩⟩
  case stefSleeps =>
    obtain ⟨h1, h2, z, hz, hkind, hlim⟩ := bankSleep_kept (s := s.modMe (fun sl => { sl with drain := s3.me.drain })) (p := s3)
      hq0 (by rw [State.me_modMe]; exact hst) (.stef key v) a
    refine ⟨keepDrain s3 (fun s0 => bankSleep (.stef key v) a (keepPops s3 s0)) s, ?_, h1, h2, z, hz, hkind,
      by rw [hlim, State.me_modMe]⟩
    rw [exec_stef hr hv hrep2 hw2 hloc, released_wait (by decide) hrel (by rw [atFreeBank_served hf hd, hfull]; rfl),
      conclude_wait]
  case stefAsks =>
    refine ⟨keepDrain s3 (askBanks s3 key 8 none false) s, ?_, rfl, askBanks_me ..⟩
    rw [exec_stef hr hv hrep2 hw2 hloc, released_pause (by decide) hrel (by rw [atFreeBank_asks hf hk hd]; rfl)]
    rfl
  · rw [exec_ldfe hr hrep hw hp hloc, atFreeBank_served hf hd, hfull, hnow]
    exact conclude_writeDone s hwr
  · rw [exec_ldff hr hrep hw hp hloc, atFreeBank_served hf hd, hfull, hnow]
    exact conclude_writeDone s hwr
  · rw [exec_ldfe hr hrep hw hp hloc, atFreeBank_served hf hd, hfull, hlater]; rfl
  · rw [exec_ldff hr hrep hw hp hloc, atFreeBank_served hf hd, hfull, hlater]; rfl
  · rw [exec_ldfe hr hrep hw hp hloc, atFreeBank_served hf hd, hempty]; rfl
  · rw [exec_ldff hr hrep hw hp hloc, atFreeBank_served hf hd, hempty]; rfl
  · rw [exec_ldfe hr hrep hw hp hloc, atFreeBank_asks hf hk hd]; rfl
  · rw [exec_ldff hr hrep hw hp hloc, atFreeBank_asks hf hk hd]; rfl
  · rw [exec_stef hr hv hrep2 hw2 hloc, released_ok (x := ()) (u := (fillWord s3 key v).retire 4) hrel
      (by rw [atFreeBank_served hf hd, hempty]; rfl), fillWord_quiet hq3, conclude_ok]
  · rw [exec_sete hr hloc, atFreeBank_served hf hd, emptyWord_quiet hq]; rfl
  · rw [exec_sete hr hloc, atFreeBank_asks hf hk hd]; rfl

end Sys2Proof.Machine
end

section
/-! BARD (R174, R175): bad counts, rounds and episodes. -/

namespace Sys2Proof.Machine

/-! What an instruction comes to after a Release that is over at once. -/

/-- The state that a wait after a drain is told of: the one that the instruction began in, but for the drain's mark. -/
def DrainOf (s s' : State) : Prop := s' = s ∨ ∃ d, s' = s.modMe (fun sl => { sl with drain := d })

/-- The outcome of an instruction that began in s and whose waits are told of s'. -/
def concludeDrained (s s' : State) : Eff Unit → Host.Outcome State Fault Refusal
  | .ok _ t => .next t
  | .seen _ _ b => .next (takeFault s .watch b)
  | .wait f => .next (f s')
  | .pause f _ => .next (f s')
  | .trap c v w => .next (takeFault (w s) c v)

theorem concludeDrained_self (s : State) (e : Eff Unit) : concludeDrained s s e = conclude s e := by
  cases e <;> rfl

theorem conclude_released {s t : State} {scope : BitVec 3} (hr : release s scope = .ok () t) (s0 : State)
    (k : State → Eff Unit) : ∃ s', DrainOf s0 s' ∧ conclude s0 (released s scope k) = concludeDrained s0 s' (k t) := by
  by_cases h2 : 2 ≤ scope.toNat
  · refine ⟨s0.modMe (fun sl => { sl with drain := t.me.drain }), .inr ⟨_, rfl⟩, ?_⟩
    rw [release, if_pos h2] at hr
    rw [released, if_pos h2, hr, Eff.andThen_ok]
    cases k t <;> rfl
  · rw [release, if_neg h2] at hr
    cases hr
    exact ⟨s0, .inl rfl, by rw [released, if_neg h2, concludeDrained_self]⟩

section
variable {s s' : State} (h : DrainOf s s')
include h

theorem DrainOf.me : ∃ d, s'.me = { s.me with drain := d } := by
  obtain rfl | ⟨d, rfl⟩ := h
  · exact ⟨_, rfl⟩
  · exact ⟨d, State.me_modMe ..⟩

theorem DrainOf.rest : { s' with slots := s.slots } = s := by
  obtain rfl | ⟨d, rfl⟩ := h <;> rfl

end

/-! One round. -/

/-- What BARD does once its release is over: the round, or the end of the episode. -/
def bardBody (gd : Reg) (scope : BitVec 3) (table : Word) (i n : Nat) (s : State) : Eff Unit :=
  if s.me.bardRound = bardRounds n then
    writeDone (acquire (s.modMe (fun sl => { sl with
      bardHeld := sl.bardHeld.filter (fun x => x.episode != sl.bardEpisode)
      bardRound := 0, bardNoted := [], bardEpisode := sl.bardEpisode + 1 })) scope) gd 0
  else bardRound s table i n

section
variable {s : State} {table : Word} {i n : Nat}

/-- A round whose partner has notified goes on to the next. -/
theorem bardRound_goesOn (hn : s.me.bardNoted.contains s.me.bardRound = true)
    (hf : (findIdx (bardNeeds s.me i n) s.me.bardHeld).isSome = true) :
    bardRound s table i n = act s (bardProgress (fun sl => { sl with bardRound := sl.bardRound + 1 })) := by
  obtain ⟨x, hx⟩ := Option.isSome_iff_exists.mp hf
  rw [bardRound]
  simp only [hn, if_true, hx]

theorem bardRound_sleeps (hn : s.me.bardNoted.contains s.me.bardRound = true)
    (hf : findIdx (bardNeeds s.me i n) s.me.bardHeld = none) : bardRound s table i n = sleep .bard table := by
  rw [bardRound]
  simp only [hn, if_true, hf]

/-- A round whose notification has not left reads the participant's entry. -/
theorem bardRound_sends {s5 : State} {bs : List Byte} (hn : s.me.bardNoted.contains s.me.bardRound = false)
    (hl : loadBytes s (bardAt table i n s.me.bardRound) 8 true false = .ok bs s5) :
    bardRound s table i n = match bardEntry s5 (wordOf bs) with
      | .error c => .trap c (bardAt table i n s.me.bardRound)
      | .ok (d, slot) =>
        act s5 (fun s0 => bardProgress (fun sl => { sl with bardNoted := s.me.bardRound :: sl.bardNoted })
          (sendBard s0 d ⟨slot, i, s.me.bardRound, s0.me.bardEpisode, s0.me.region⟩)) := by
  rw [bardRound]
  simp only [hn, Bool.false_eq_true, if_false, hl, Eff.andThen_ok] <;> rfl

end

/-- What the progress of a BARD keeps: the registers of the slot, and every note but the one that it is about. -/
theorem bardProgress_me (f : Slot → Slot) (s0 : State) : (bardProgress f s0).me =
    { f s0.me with got := [], status := .waiting .poll, since := some (s0.me.since.getD s0.time) } := by
  rw [bardProgress, State.me_modMe]

theorem sendBard_me (s : State) (d : BitVec 9) (n : BardNote) : (sendBard s d n).me = s.me := by
  unfold sendBard; split <;> rfl

/-! The instruction. -/

section
variable {s s1 s2 : State} {gd ga gb : Reg} {scope : BitVec 3} {table x : Word} (hs : scope.toNat < 6)
  (ha : readG s ga = .ok table s1) (hb : readG s1 gb = .ok x s2)
include hs ha hb

theorem exec_bard_badCount {t : State} (hbad : (x.extractLsb' 16 13).toNat = 0 ∨ 4096 < (x.extractLsb' 16 13).toNat ∨
    (x.extractLsb' 16 13).toNat ≤ (x.extractLsb' 0 13).toNat) (hw : writeG s2 gd 1 = .ok () t) :
    exec (.bard gd ga gb scope) s = .next (t.retire 4) := by
  show execBard gd ga gb scope s = _
  simp only [execBard, checkScope_ok s scope _ hs, ha, hb, Eff.andThen_ok, if_pos hbad]
  exact conclude_writeDone s hw

variable {i n : Nat} (hi : (x.extractLsb' 0 13).toNat = i) (hn : (x.extractLsb' 16 13).toNat = n)
  (hgood : 0 < n ∧ n ≤ 4096 ∧ i < n) (h8 : table.toNat % 8 = 0)
include hi hn hgood h8

theorem exec_bard_fault {c : Cause} {q : Nat} (hf : s2.me.bardFault = some (c, q)) : exec (.bard gd ga gb scope) s =
    .next (takeFault (s.modMe (fun sl => { sl with bardFault := none })) c (bardAt table i n q)) := by
  show execBard gd ga gb scope s = _
  have hok : ¬ (n = 0 ∨ 4096 < n ∨ n ≤ i) := by omega
  simp only [execBard, checkScope_ok s scope _ hs, ha, hb, Eff.andThen_ok, hi, hn, if_neg hok, checkAlign_aligned s2 h8, hf]
  rfl

/-- From its first round or a later one on, BARD is its body in the state after its release. -/
theorem exec_bard_body {p s4 : State} (hf : s2.me.bardFault = none)
    (h4 : ¬ (s2.me.bardRound = 0 ∧ s2.me.bardNoted = []) ∧ s4 = s2 ∨
      (s2.me.bardRound = 0 ∧ s2.me.bardNoted = []) ∧ probeG s2 gd = .ok () p ∧ release p scope = .ok () s4) :
    ∃ s', DrainOf s s' ∧ exec (.bard gd ga gb scope) s = concludeDrained s s' (bardBody gd scope table i n s4) := by
  have hok : ¬ (n = 0 ∨ 4096 < n ∨ n ≤ i) := by omega
  have hfirst : (decide (s2.me.bardRound = 0) && s2.me.bardNoted.isEmpty) = true ↔
      s2.me.bardRound = 0 ∧ s2.me.bardNoted = [] := by simp
  show ∃ s', _ ∧ execBard gd ga gb scope s = _
  simp only [execBard, checkScope_ok s scope _ hs, ha, hb, Eff.andThen_ok, hi, hn, if_neg hok, checkAlign_aligned s2 h8, hf]
  obtain ⟨hno, rfl⟩ | ⟨hyes, hp, hr⟩ := h4
  · simp only [if_neg (mt hfirst.mp hno), Eff.andThen_ok]
    exact ⟨s, .inl rfl, (concludeDrained_self ..).symm⟩
  · simp only [if_pos (hfirst.mpr hyes), hp, Eff.andThen_ok]
    exact conclude_released hr s (bardBody gd scope table i n)

end

/-- Settles O29: the counts, the refusals, and what a round comes to. -/
theorem bardRounds_spec : Obligations.BardRounds := by
  unfold Obligations.BardRounds
  refine ⟨fun s s1 s2 t gd ga gb scope table x hs ha hb => ?_, rfl, rfl, rfl, rfl⟩
  intro i n r first
  refine ⟨fun hbad hw => exec_bard_badCount hs ha hb hbad hw, fun h0 h4096 hin h8 =>
    ⟨fun c q hf => exec_bard_fault hs ha hb rfl rfl ⟨h0, h4096, hin⟩ h8 hf, fun p s4 hf h4 hr => ?_⟩⟩
  obtain ⟨s', hd, hexec⟩ := exec_bard_body hs ha hb rfl rfl ⟨h0, h4096, hin⟩ h8 hf h4
  obtain ⟨d, hme⟩ := hd.me
  have hrest := hd.rest
  have hflights : s'.flights = s.flights := (congrArg State.flights hrest :)
  have houtbox : s'.outbox = s.outbox := (congrArg State.outbox hrest :)
  have hcur : s'.cur = s.cur := (congrArg State.cur hrest :)
  refine ⟨fun hend hw => ?done, fun hgo hnoted => ⟨fun hfound => ?next, fun hmiss hst => ?sleeps⟩,
    fun hgo hnot bs s5 hl => ⟨fun c hc => ?bad, fun dv slot hok => ?send⟩⟩
  all_goals rw [hexec, bardBody]
  case done =>
    rw [if_pos (hr.trans hend), writeDone, hw]
    rfl
  case next =>
    rw [← hr] at hnoted
    rw [if_neg (by rw [hr]; exact hgo), bardRound_goesOn hnoted hfound]
    refine ⟨_, rfl, ?_⟩
    rw [bardProgress_me, me_keepPops, hme]
    exact ⟨rfl, rfl, rfl, rfl, hflights, houtbox⟩
  case sleeps =>
    rw [← hr] at hnoted
    rw [if_neg (by rw [hr]; exact hgo), bardRound_sleeps hnoted hmiss]
    have hstatus : (s'.sleepFor .bard table).me.status = .asleep ⟨.bard, s'.me.since.getD s'.time, s'.me.waitlim, table, false⟩ := by
      rw [State.sleepFor, State.me_modMe]
      split
      next z hz => exact absurd (by rw [← hz, hme]) (hst z)
      next => rfl
    exact ⟨_, _, rfl, hstatus, rfl, hflights, houtbox⟩
  case bad =>
    rw [← hr] at hnot hl
    rw [if_neg (by rw [hr]; exact hgo), bardRound_sends hnot hl, hc, hr]
    rfl
  case send =>
    rw [← hr] at hnot hl
    rw [if_neg (by rw [hr]; exact hgo), bardRound_sends hnot hl, hok, hr]
    refine ⟨_, rfl, ?_⟩
    have hepisode : (keepPops s5 s').me.bardEpisode = s.me.bardEpisode := by rw [me_keepPops, hme]; rfl
    have hregion : (keepPops s5 s').me.region = s.me.region := by rw [me_keepPops, hme]; rfl
    rw [bardProgress_me, sendBard_me, me_keepPops, hme]
    refine ⟨rfl, rfl, rfl, fun hd9 => ?_, fun hd9 => ?_⟩
    · show (sendBard (keepPops s5 s') dv _).flights = _ ∧ (sendBard (keepPops s5 s') dv _).outbox = _
      rw [sendBard, if_pos hd9]
      exact ⟨by rw [show (keepPops s5 s').flights = s.flights from hflights, show (keepPops s5 s').cur = s.cur from hcur,
        hepisode, hregion], houtbox⟩
    · show (sendBard (keepPops s5 s') dv _).outbox = _ ∧ (sendBard (keepPops s5 s') dv _).flights = _
      rw [sendBard, if_neg hd9]
      exact ⟨by rw [show (keepPops s5 s').outbox = s.outbox from houtbox, show (keepPops s5 s').cur = s.cur from hcur,
        hepisode, hregion], hflights⟩

end Sys2Proof.Machine
end

section
/-! What reaches a home (R122, R142, R157, R162, R178): on a line with no special state the bytes alone change. -/

namespace Sys2Proof.Machine

/-! Writes at a plain line. -/

/-- What a write at a home changes: the bytes, the line's version and mark, and at most the replies of slots. -/
structure WroteAtHome (s t : State) (p : Nat) (bs : List Byte) : Prop where
  mem : t.mem = writeBytes s.mem p bs
  slot : ∀ i, ∃ r, t.slot i = { s.slot i with reply := r }
  rest : { t with mem := s.mem, slots := s.slots, lines := s.lines, sliceVer := s.sliceVer } = s

theorem mixedPart_none {s : State} {p : Nat} (h : (s.line (p / 128)).strong = none) (n : Nat) : mixedPart s p n = none := by
  rw [mixedPart, h]

section
variable {s : State} {a : Word} {p h n : Nat} (hl : PlainLine s a p h n)
include hl

theorem PlainLine.touch : touchLine s (p / 128) h = s := by
  rw [touchLine, hl.oneHome]

theorem PlainLine.homeWrite_eq (bs : List Byte) :
    homeWrite s a p h bs = wakeCounters (rawWrite s p bs) p bs.length := by
  have hneed : inNeed s a p h = [] := by rw [inNeed, hl.noSnaps]; rfl
  rw [homeWrite, hl.touch, shadowStep, hneed]

theorem PlainLine.recordsMet : Machine.recordsMet s a p n = [] := by
  have hr := hl.noRecord
  rwa [inLiveRecord, Bool.not_eq_false', List.isEmpty_iff] at hr

theorem PlainLine.softHarm_eq (t : State) : softHarm s t a p n = t := by
  rw [softHarm, hl.noBlock, hl.recordsMet, hl.noStaging, hl.noPool]
  rfl

theorem PlainLine.notRefused (debug : Bool) (need : Need) : softRefuses s debug a p n need = false := by
  have hstore : (inShadowPool s a n || (inRcb s p n || inLiveRecord s a p n)) = false := by
    rw [hl.noPool, hl.noBlock, hl.noRecord]; rfl
  have hload : (inShadowPool s a n || false) = false := by rw [hl.noPool]; rfl
  unfold softRefuses
  cases need
  · exact (congrArg (debug && ·) hload).trans (Bool.and_false _)
  · exact (congrArg (debug && ·) hstore).trans (Bool.and_false _)
  · exact (congrArg (debug && ·) hload).trans (Bool.and_false _)
  · exact (congrArg (debug && ·) hstore).trans (Bool.and_false _)
  · exact (congrArg (debug && ·) hload).trans (Bool.and_false _)

theorem PlainLine.strongBytes_eq : strongBytes s a p h n = (readBytes s.mem p n, s) := by
  have htwo : twoHomes s p h = false := by
    unfold twoHomes
    rw [hl.oneHome]
    simp
  have hread : homeBytes s a p h n = (readBytes s.mem p n, s) := by
    simp [homeBytes, hl.noPool, htwo, hl.noStaging]
  simp only [strongBytes, hread, mixedPart_none hl.notMixed, blur]

end

theorem rawWrite_wrote (s : State) (p : Nat) (bs : List Byte) : WroteAtHome s (wakeCounters (rawWrite s p bs) p bs.length) p bs := by
  have hrest := rawWrite_rest s p bs
  refine ⟨rawWrite_mem s p bs, fun i => ?_, ?_⟩
  · have hslots : (rawWrite s p bs).slots = s.slots := (congrArg State.slots hrest :)
    have hslot : (rawWrite s p bs).slot i = s.slot i := by simp only [State.slot, hslots]
    rw [wakeCounters_slot, hslot]
    split
    · exact ⟨_, rfl⟩
    · obtain ⟨r, hr, -⟩ := wakeCounter_reply (rawWrite s p bs) p bs.length (s.slot i)
      exact ⟨r, hr⟩
  · exact (congrArg (fun u : State => { u with slots := s.slots }) hrest :)

theorem rawWrite_strong (s : State) (p : Nat) (bs : List Byte) (l : Nat) :
    ((wakeCounters (rawWrite s p bs) p bs.length).line l).strong = (s.line l).strong := by
  obtain ⟨v, d, hv⟩ := rawWrite_line s p bs l
  have hline : (wakeCounters (rawWrite s p bs) p bs.length).line l = { s.line l with version := v, dirty := d } := hv
  rw [hline]

theorem plainStore_plain {s : State} {a : Word} {p h : Nat} {bs : List Byte} (hl : PlainLine s a p h bs.length) :
    plainStore s a p h bs = wakeCounters (rawWrite s p bs) p bs.length := by
  rw [plainStore, hl.homeWrite_eq, hl.softHarm_eq, clearStrong, rawWrite_strong, hl.notMixed]

theorem strongStore_plain {s : State} {a : Word} {p h : Nat} {bs : List Byte} (hl : PlainLine s a p h bs.length) :
    strongStore s a p h bs = recordStrong (wakeCounters (rawWrite s p bs) p bs.length) p bs.length := by
  rw [strongStore, mixedPart_none hl.notMixed]
  show recordStrong (softHarm s (homeWrite s a p h bs) a p bs.length) p bs.length = _
  rw [hl.homeWrite_eq, hl.softHarm_eq]

theorem WroteAtHome.strong {s t : State} {p : Nat} {bs : List Byte} (h : WroteAtHome s t p bs) (n : Nat) :
    WroteAtHome s (recordStrong t p n) p bs := ⟨h.mem, h.slot, h.rest⟩

section
variable {s t : State} {p : Nat} {bs : List Byte} (h : WroteAtHome s t p bs)
include h

theorem WroteAtHome.bytes : readBytes t.mem p bs.length = bs ∧
    ∀ a, a < p ∨ p + bs.length ≤ a → byteAt t.mem a = byteAt s.mem a := by
  rw [h.mem]
  exact ⟨readBytes_writeBytes .., fun a ha => byteAt_writeBytes_outside _ _ _ _ ha⟩

theorem WroteAtHome.cores : t.cores = s.cores := (congrArg State.cores h.rest :)

theorem WroteAtHome.core (c : Nat) : t.core c = s.core c := by rw [State.core, h.cores, State.core]

end

/-! What ends and drops with it. -/

theorem staleLoads_core (s : State) (c : Nat) (a : Word) (d : Nat) : (staleLoads s c a).core d = s.core d := rfl

/-- The end of a lease changes the core's lines and the requests on their way. -/
theorem endLease_sbuf (s : State) (c : Nat) (a : Word) (d : Nat) : ((endLease s c a).core d).sbuf = (s.core d).sbuf := by
  unfold endLease
  by_cases hd : d = c
  · subst hd
    rw [State.core_modCore_same]
    rfl
  · rw [State.core_modCore_ne _ _ _ _ hd]
    rfl

/-- STORE_DRAIN of an entry that may leave. -/
theorem exec_storeDrain {s : State} {c i : Nat} {e : SbEntry} (he : (s.core c).sbuf[i]? = some e)
    (hm : mayDrain s (s.core c).sbuf e = true) : exec (.storeDrain c i) s =
      .next (applyEntry (s.modCore c (fun k => { k with sbuf := dropAt k.sbuf i })) c e) := by
  show execStoreDrain c i s = _
  simp only [execStoreDrain, he, hm, if_true]

theorem exec_updateEntryArrival {s : State} {c i p h : Nat} {e : SbEntry} {op : BitVec 3} {v : Word} {cnt : Option Word}
    (he : (s.core c).sbuf[i]? = some e) (hloc : e.loc = .home p h) (hk : e.kind = .update op v cnt)
    (hm : mayDrain s (s.core c).sbuf e = true) : exec (.updateEntryArrival c i) s =
      .next (applyEntry (s.modCore c (fun k => { k with sbuf := dropAt k.sbuf i })) c e) := by
  show execUpdateEntryArrival c i s = _
  simp only [execUpdateEntryArrival, he, hk, hloc, hm, List.all_nil, Bool.and_self, if_true, List.foldl_nil]

/-- The state after a strong write at a plain line. -/
def strongWritten (s : State) (p : Nat) (bs : List Byte) : State :=
  recordStrong (wakeCounters (rawWrite s p bs) p bs.length) p bs.length

theorem strongWritten_wrote (s : State) (p : Nat) (bs : List Byte) : WroteAtHome s (strongWritten s p bs) p bs :=
  (rawWrite_wrote s p bs).strong bs.length

/-- An update at a plain line. -/
theorem updateAt_plain {s : State} {a : Word} {p h : Nat} {op : BitVec 3} {v : Word} {bs : List Byte}
    (hl : PlainLine s a p h (updateFn op).2) (hbs : bytesOf (updateFn op).2
      (amoOp (updateFn op).1 (updateFn op).2 (wordOf (readBytes s.mem p (updateFn op).2)) v) = bs) (debug : Bool)
    (refuse : State → Nat → Cause → State) : updateAt s debug refuse a (.home p h) op v = (strongWritten s p bs, true) := by
  simp only [updateAt, hl.touch, hl.notRefused, hl.notPoisoned, mixedPart_none hl.notMixed, Option.isSome_none,
    Bool.false_and, Bool.false_eq_true, if_false, hl.strongBytes_eq, hbs]
  rw [strongStore_plain (by rw [← hbs, bytesOf_length]; exact hl)]
  rfl

/-- A read-modify-write at a plain line. -/
theorem atHome_plain {s : State} {slot : Nat} {a : Word} {p h n : Nat} {fn : BitVec 4} {v : Word} {bs : List Byte}
    (hl : PlainLine s a p h n) (hbs : bytesOf n (amoOp fn n (wordOf (readBytes s.mem p n)) v) = bs) :
    atHome s slot a p h (.amo fn n v) = (strongWritten s p bs, .value (wordOf (readBytes s.mem p n))) := by
  simp only [atHome, atHomeIn, atomWidth, hl.touch, hl.notRefused, atomPoisoned, hl.notPoisoned, mixedPart_none hl.notMixed,
    Option.isSome_none, Bool.false_and, Bool.false_eq_true, if_false, hl.strongBytes_eq, atomStep, atomFinish, hbs]
  rw [strongStore_plain (by rw [← hbs, bytesOf_length]; exact hl)]
  rfl

/-- ATOMIC_AT_HOME with no entry of its core's buffer before it. -/
theorem exec_atomicAtHome {s t : State} {i p h : Nat} {q : AtomReq} {v : Word} (hq : s.atoms[i]? = some q)
    (hloc : q.loc = .home p h) (hlook : q.look = false) (hb : (s.core (coreOf q.slot)).sbuf = []) (hs : q.slot < 16384)
    (hat : atHome { s with atoms := dropAt s.atoms i } q.slot q.addr p h q.op = (t, .value v)) :
    exec (.atomicAtHome i) s = .next (answer (endLease t (coreOf q.slot) q.addr) q.slot (.val v)) := by
  show execAtomicAtHome i s = _
  simp only [execAtomicAtHome, hq, hloc, hb, List.any_nil, Bool.false_eq_true, if_false, hlook, hat,
    if_neg (Nat.not_le.mpr hs)]

theorem endLease_slot (s : State) (c : Nat) (a : Word) (i : Nat) : (endLease s c a).slot i = s.slot i := rfl

theorem answer_endLease_mem (s : State) (c : Nat) (a : Word) (i : Nat) (r : Reply) :
    (answer (endLease s c a) i r).mem = s.mem := rfl

theorem answer_endLease_atoms (s : State) (c : Nat) (a : Word) (i : Nat) (r : Reply) :
    (answer (endLease s c a) i r).atoms = s.atoms := rfl

/-- Settles O30: a drained store, an update and a read-modify-write, each one write at its home. -/
theorem homeWrites : Obligations.HomeWrites := by
  unfold Obligations.HomeWrites
  intro s c i p h
  refine ⟨fun e he hloc hm => ⟨fun hk hl => ?store, fun op v hk hl => ?update⟩, fun q fn n v hq hloc hop hlook hl hb hs => ?atomic⟩
  case store =>
    have hl' : PlainLine (s.modCore c (fun k => { k with sbuf := dropAt k.sbuf i })) e.addr p h e.bytes.length :=
      ⟨hl.1, hl.2, hl.3, hl.4, hl.5, hl.6, hl.7, hl.8⟩
    have hw := rawWrite_wrote (s.modCore c (fun k => { k with sbuf := dropAt k.sbuf i })) p e.bytes
    obtain ⟨hin, hout⟩ := hw.bytes
    rw [exec_storeDrain he hm]
    simp only [applyEntry, hk, hloc, plainStore_plain hl']
    refine ⟨_, rfl, hin, hout, ?_, (congrArg State.regions hw.rest :), (congrArg State.tq hw.rest :), fun n => ?_⟩
    · rw [staleLoads_core, hw.core, State.core_modCore_same]
    · obtain ⟨r, hr⟩ := hw.slot n
      have hr' : (staleLoads (wakeCounters (rawWrite (s.modCore c (fun k => { k with sbuf := dropAt k.sbuf i })) p e.bytes) p
        e.bytes.length) c e.addr).slot n = { s.slot n with reply := r } := hr
      rw [hr']
      exact ⟨rfl, rfl⟩
  case update =>
    have hl' : PlainLine (s.modCore c (fun k => { k with sbuf := dropAt k.sbuf i })) e.addr p h (updateFn op).2 :=
      ⟨hl.1, hl.2, hl.3, hl.4, hl.5, hl.6, hl.7, hl.8⟩
    generalize hbs : bytesOf (updateFn op).2 (amoOp (updateFn op).1 (updateFn op).2
      (wordOf (readBytes s.mem p (updateFn op).2)) v) = bs
    have hlen : bs.length = (updateFn op).2 := by rw [← hbs]; exact bytesOf_length ..
    have hw := strongWritten_wrote (s.modCore c (fun k => { k with sbuf := dropAt k.sbuf i })) p bs
    obtain ⟨hin, hout⟩ := hw.bytes
    have happ := updateAt_plain hl' hbs
    rw [exec_updateEntryArrival he hloc hk hm]
    simp only [applyEntry, hk, drainUpdate, applyUpdate, applyUpdateFrom, hloc, happ]
    rw [hlen] at hin hout
    refine ⟨_, rfl, hin, hout, ?_⟩
    rw [endLease_sbuf, hw.core, State.core_modCore_same]
  case atomic =>
    have hl' : PlainLine { s with atoms := dropAt s.atoms i } q.addr p h n := ⟨hl.1, hl.2, hl.3, hl.4, hl.5, hl.6, hl.7, hl.8⟩
    generalize hbs : bytesOf n (amoOp fn n (wordOf (readBytes s.mem p n)) v) = bs
    have hlen : bs.length = n := by rw [← hbs]; exact bytesOf_length ..
    have hw := strongWritten_wrote { s with atoms := dropAt s.atoms i } p bs
    have hat := (congrArg (atHome { s with atoms := dropAt s.atoms i } q.slot q.addr p h) hop).trans (atHome_plain hl' hbs)
    obtain ⟨hin, hout⟩ := hw.bytes
    obtain ⟨r, hr⟩ := hw.slot q.slot
    rw [hlen] at hin hout
    refine ⟨_, exec_atomicAtHome hq hloc hlook hb hs hat, ?_, ?_, ?_, ?_, ?_, ?_⟩
    · rw [answer_endLease_mem]; exact hin
    · rw [answer_endLease_mem]; exact hout
    · rw [answer_slot_same]
    · rw [answer_slot_same]
    · rw [answer_endLease_atoms]; exact (congrArg State.atoms hw.rest :)
    · rw [answer_slot_same, endLease_slot, hr]; rfl

end Sys2Proof.Machine
end

section
/-! Answers of homes and other devices (R116, R118, R121 to R123, R140, R141, R156, R368). -/

namespace Sys2Proof.Machine

/-! Lists by position. -/

theorem modAt_getElem? {α : Type} {f : α → α} {xs : List α} {i : Nat} {x : α} (h : xs[i]? = some x) :
    (modAt f xs i)[i]? = some (f x) := by
  induction xs generalizing i with
  | nil => cases h
  | cons y ys ih =>
    cases i with
    | zero => cases h; rfl
    | succ i => exact ih (i := i) (by simpa using h)

theorem dropAt_length {α : Type} {xs : List α} {i : Nat} {x : α} (h : xs[i]? = some x) :
    (dropAt xs i).length + 1 = xs.length := by
  induction xs generalizing i with
  | nil => cases h
  | cons y ys ih =>
    cases i with
    | zero => rfl
    | succ i => exact congrArg (· + 1) (ih (i := i) (by simpa using h))

theorem mem_of_mapGet {α : Type} {m : SMap α} {n : Nat} {v : α} (h : mapGet m n = some v) : (n, v) ∈ m := by
  induction m with
  | nil => cases h
  | cons e m ih =>
    obtain ⟨a, u⟩ := e
    simp only [mapGet] at h
    split at h
    next ha => cases h; rw [ha]; exact List.mem_cons_self
    next => exact List.mem_cons_of_mem _ (ih h)

/-! A home's answer. -/

/-- The answer of a home to a plain request for a line that it holds itself. -/
theorem homeAnswer_plain {s : State} {r : LoadReq} {p h : Nat} (hr : r.strong = none) (hs : (s.line (p / 128)).slice = some h)
    (hp : inShadowPool s r.line 128 = false) (hg : inStaging s r.line 128 = false) :
    homeAnswer s r p h = (⟨if r.version = some (s.line (p / 128)).version then none else some (readBytes s.mem p 128),
      (s.line (p / 128)).poison, (s.line (p / 128)).version, readBytes s.mem p 128, none⟩, s) := by
  have htouch : touchLine s (p / 128) h = s := by rw [touchLine, hs]
  have htwo : twoHomes s p h = false := by
    unfold twoHomes
    rw [hs]
    simp
  have hread : homeBytes s r.line p h 128 = (readBytes s.mem p 128, s) := by simp [homeBytes, hp, htwo, hg]
  unfold homeAnswer
  simp only [htouch, hread, hr, htwo, Bool.not_false, Bool.and_true, beq_iff_eq]

theorem exec_homeLoadRequest {s t : State} {i p h : Nat} {r : LoadReq} {a : LoadAnswer} (hi : s.loads[i]? = some r)
    (hn : r.answer = none) (hl : r.loc = .home p h) (ha : homeAnswer s r p h = (a, t)) :
    exec (.homeLoadRequest i) s =
      .next { t with loads := modAt (fun r => { r with answer := some a }) t.loads i } := by
  show execHomeLoadRequest i s = _
  simp only [execHomeLoadRequest, hi, hn, hl, ha]

/-! A reply at its core. -/

/-- A slot's reply to a plain load of data. -/
theorem deliverLoad_data {s : State} {r : LoadReq} {a : LoadAnswer} {sl : Nat} (hf : a.fault = none) (hs : r.slot = some sl)
    (hc : r.code = false) (hw : r.fwd = none) (ht : ((fillFrom s r a).slot sl).status = .waiting .reply) :
    deliverLoad s r a = resume ((fillFrom s r a).modSlot sl (fun x => { x with got := x.got ++ [⟨r.addr, r.n, loadResult r a⟩] }))
      sl := by
  have hawait : awaits (fillFrom s r a) sl = true := by rw [awaits, ht]; rfl
  simp [deliverLoad, hw, hf, hs, hc, hawait]

theorem fillFrom_slots (s : State) (r : LoadReq) (a : LoadAnswer) : (fillFrom s r a).slots = s.slots := by
  unfold fillFrom
  dsimp only
  split
  · rfl
  · split <;> rfl

theorem fillFrom_slot (s : State) (r : LoadReq) (a : LoadAnswer) (i : Nat) : (fillFrom s r a).slot i = s.slot i := by
  rw [State.slot, fillFrom_slots, State.slot]

theorem fillFrom_rest (s : State) (r : LoadReq) (a : LoadAnswer) :
    { fillFrom s r a with cores := s.cores, loads := s.loads } = s ∧ (fillFrom s r a).loads.length = s.loads.length := by
  unfold fillFrom
  dsimp only
  split
  · exact ⟨rfl, List.length_map ..⟩
  · split <;> exact ⟨rfl, List.length_map ..⟩

theorem fillFrom_newer {s : State} {r : LoadReq} {a : LoadAnswer} (h : holdsNewer (s.core r.core) r a = true) :
    (fillFrom s r a).cores = s.cores := by
  have h' : holdsNewer ((outrun s r a.version).core r.core) r a = true := h
  unfold fillFrom
  dsimp only
  rw [if_pos h']
  rfl

/-- The line that a fill brings (R121). -/
theorem fillFrom_fills {s : State} {r : LoadReq} {a : LoadAnswer} {bs : List Byte}
    (h : holdsNewer (s.core r.core) r a = false) (hb : a.bytes = some bs) :
    ∃ l ∈ ((fillFrom s r a).core r.core).cache, l.addr = r.line ∧ l.grant = r.grant ∧ l.live = r.live ∧
      l.version = a.version ∧ l.homeBytes = bs ∧ l.bytes = overPending s r.core r.loc bs := by
  have h' : holdsNewer ((outrun s r a.version).core r.core) r a = false := h
  unfold fillFrom
  dsimp only
  rw [if_neg (by rw [h']; exact Bool.false_ne_true), hb]
  simp only [State.core_setCore_same, fillCache]
  exact ⟨_, List.mem_cons_self, rfl, rfl, rfl, rfl, rfl, rfl⟩

theorem loadResult_plain {r : LoadReq} {a : LoadAnswer} (hw : r.fwd = none) (hf : a.fault = none) :
    loadResult r a = if a.poison then .fault .poison else .value ((a.seen.drop (r.addr.toNat % 128)).take r.n) := by
  unfold loadResult
  rw [hw, hf]
  rfl

theorem faultHeld_data {r : LoadReq} (h : r.code = false) (s : State) (a : LoadAnswer) : faultHeld s r a = false := by
  rw [faultHeld, h]; rfl

theorem exec_loadReply_mine {s : State} {i : Nat} {r : LoadReq} {a : LoadAnswer} (hi : s.loads[i]? = some r)
    (ha : r.answer = some a) (hc : r.code = false) :
    exec (.loadReply (.mine i)) s = .next (deliverLoad { s with loads := dropAt s.loads i } r a) := by
  show execLoadReply (.mine i) s = _
  simp only [execLoadReply, hi, ha, faultHeld_data hc, Bool.false_eq_true, if_false]

/-- What another device answers with bytes. -/
theorem remoteAnswer_bytes {s : State} {r : LoadReq} {d : RemoteData} {bs : List Byte} (hb : d.bytes = some bs) :
    remoteAnswer s r d = ⟨some (bs.take 128), d.poison, d.version, bs.take 128, d.fault⟩ := by
  unfold remoteAnswer
  rw [hb]
  rfl

theorem exec_loadReply_outside {s : State} {d : RemoteData} {a b : Word} {n : Nat} {v : Option (BitVec 48)} {r : LoadReq}
    (hout : s.outbox = [Out.load d.slot a n v]) (ha : lineAddr s a = lineAddr s d.line) (hl : s.loads = [r])
    (hloc : r.loc = .away b) (hcore : r.core = coreOf d.slot) (hline : r.line = lineAddr s d.line)
    (hslot : r.slot = some d.slot) (hc : r.code = false) :
    exec (.loadReply (.outside d)) s =
      .next (deliverLoad { s with outbox := [], loads := [] } r (remoteAnswer s r d)) := by
  show execLoadReply (.outside d) s = _
  simp only [execLoadReply, hout, takeFirst, asksLine, ha, beq_self_eq_true, Bool.and_self, if_true, hl, hcore, hline, hslot,
    hloc, Bool.or_true, arriveLoad, faultHeld_data hc, Bool.false_eq_true, if_false]

/-! Leases and evictions. -/

theorem exec_leaseExpiry (core i : Nat) (s : State) : ∃ f : CacheLine → CacheLine,
    exec (.leaseExpiry core i) s = .next (s.modCore core (fun k => { k with cache := modAt f k.cache i })) ∧
    ∀ l, (f l).bytes = l.bytes ∧ (f l).version = l.version ∧
      (f l).live = (l.live && decide (s.time.toNat < l.grant.toNat + (s.core core).leaselen)) := by
  refine ⟨fun l => if s.time.toNat < l.grant.toNat + (s.core core).leaselen then l else { l with live := false }, rfl,
    fun l => ?_⟩
  by_cases h : s.time.toNat < l.grant.toNat + (s.core core).leaselen <;> simp [h]

theorem exec_homeEviction {s : State} {l : Nat} (h : (s.line l).slice ≠ none) : exec (.homeEviction l) s =
    .next (if isShared s l then sendInvals s none (fun k => k == l) else evictLine s l) := by
  show execHomeEviction l s = _
  simp only [execHomeEviction, Option.isNone_iff_eq_none, h, if_false]

theorem isShared_iff (s : State) (l : Nat) :
    isShared s l = true ↔ (s.line l).sharers ≠ [] ∨ ∃ v ∈ s.invals, v.line = l := by
  simp [isShared]

theorem sendInvals_line (s : State) (who : Option Waiter) (f : Nat → Bool) (l : Nat) :
    (sendInvals s who f).line l = if f l then { s.line l with sharers := [] } else s.line l := by
  have hmap : ∀ e : Nat × LineInfo, (if f e.1 then (e.1, { e.2 with sharers := [] }) else e) =
      (e.1, if f e.1 then { e.2 with sharers := [] } else e.2) := fun e => by split <;> rfl
  simp only [sendInvals, State.line, hmap, mapGet_mapIdx s.lines (fun n i => if f n then { i with sharers := [] } else i)]
  cases mapGet s.lines l with
  | none => show LineInfo.init = _; split <;> rfl
  | some i => rfl

theorem sendInvals_sent {s : State} (who : Option Waiter) {f : Nat → Bool} {l : Nat} (hf : f l = true)
    (h : (s.line l).sharers ≠ []) : ∃ v ∈ (sendInvals s who f).invals, v.line = l := by
  cases hg : mapGet s.lines l with
  | none => rw [State.line, hg] at h; exact absurd rfl h
  | some i =>
    rw [State.line, hg] at h
    obtain ⟨b, hb⟩ := List.exists_mem_of_ne_nil _ h
    refine ⟨⟨b, l, who, none⟩, List.mem_append_right _ (List.mem_flatMap.mpr ⟨(l, i), ?_, ?_⟩), rfl⟩
    · exact List.mem_filter.mpr ⟨mem_of_mapGet hg, hf⟩
    · exact List.mem_map.mpr ⟨b, hb, rfl⟩

/-! Acceptance. -/

theorem storeShows_keeps (s : State) (c : Nat) (e : SbEntry) :
    { storeShows s c e with cores := s.cores } = s ∧ ((storeShows s c e).core c).sbuf = (s.core c).sbuf := by
  have hfold : ∀ (es : List SbEntry) (t : State), { es.foldl (fun s o => updateCache s c o.addr o.loc o.bytes) t with cores := s.cores } =
      { t with cores := s.cores } ∧ ((es.foldl (fun s o => updateCache s c o.addr o.loc o.bytes) t).core c).sbuf = (t.core c).sbuf := by
    intro es
    induction es with
    | nil => exact fun t => ⟨rfl, rfl⟩
    | cons o es ih =>
      intro t
      obtain ⟨h1, h2⟩ := ih (updateCache t c o.addr o.loc o.bytes)
      exact ⟨h1, h2.trans (updateCache_core ..).1⟩
  obtain ⟨h1, h2⟩ := hfold ((s.core c).sbuf.filter (fun o => decide (e.id < o.id) && showsStore s o))
    (updateCache s c e.addr e.loc e.bytes)
  exact ⟨h1, h2.trans (updateCache_core ..).1⟩

theorem answerStore_slot (s : State) (slot : Nat) (a : Word) (c : Option Cause) : (answerStore s slot a c).slot slot =
    { s.slot slot with sent := (s.slot slot).sent ++ [(a, c)], status := .ready } := by
  simp [answerStore]

section
variable {s : State} {slot : Nat} {e : SbEntry} {b : Word} {bs : List Byte} {strong : Bool}
  (hout : s.outbox = [Out.store slot b bs strong false])
  (hfind : (s.core (coreOf slot)).sbuf.find? (fun x => x.slot == slot && unaccepted s x) = some e)
include hout hfind

theorem exec_accept_val (v : Word) : exec (.remoteStoreAccept slot (.val v)) s =
    .next (answerStore (storeShows { s with outbox := [] } (coreOf slot) e) slot e.addr none) := by
  show execRemoteStoreAccept slot (.val v) s = _
  simp only [execRemoteStoreAccept, hfind, hout, takeFirst, asksStore, beq_self_eq_true, Bool.not_false, Bool.and_self, if_true]

theorem exec_accept_fault (c : Cause) : exec (.remoteStoreAccept slot (.fault c)) s =
    .next (answerStore ({ s with outbox := [] }.modCore (coreOf slot)
      (fun k => { k with sbuf := k.sbuf.filter (fun o => o.id != e.id) })) slot e.addr (some c)) := by
  show execRemoteStoreAccept slot (.fault c) s = _
  simp only [execRemoteStoreAccept, hfind, hout, takeFirst, asksStore, beq_self_eq_true, Bool.not_false, Bool.and_self, if_true]

end

/-- Settles O31: each answer in turn. -/
theorem answersArrive : Obligations.AnswersArrive := by
  unfold Obligations.AnswersArrive
  refine ⟨?home, ?mine, ?outside, ?expiry, ?eviction, ?accept⟩
  case home =>
    intro s i p h r hi hn hl hr hs hp hg
    exact ⟨_, _, exec_homeLoadRequest hi hn hl (homeAnswer_plain hr hs hp hg), modAt_getElem? hi, rfl, rfl, rfl, rfl, rfl, rfl⟩
  case mine =>
    intro s i sl r a bs hi ha hf hb hs hc hw ht
    let u : State := { s with loads := dropAt s.loads i }
    have hslot : ∀ j, (fillFrom u r a).slot j = s.slot j := fillFrom_slot u r a
    obtain ⟨hrest, hlen⟩ := fillFrom_rest u r a
    rw [exec_loadReply_mine hi ha hc, deliverLoad_data hf hs hc hw (by rw [hslot]; exact ht)]
    refine ⟨_, rfl, ?_, (congrArg State.mem hrest :), ?_, ?_, fun h => fillFrom_newer (s := u) h, fun h => fillFrom_fills (s := u) h hb⟩
    · exact (congrArg (· + 1) hlen).trans (dropAt_length hi)
    · rw [resume_slot_same]
    · rw [resume_slot_same, State.slot_modSlot_same, hslot, loadResult_plain hw hf]
  case outside =>
    intro s d a b n v r bs hout ha hl hloc hcore hline hslot hc hw hf hb ht
    let u : State := { s with outbox := [], loads := [] }
    have hsl : ∀ j, (fillFrom u r (remoteAnswer s r d)).slot j = s.slot j := fillFrom_slot u r _
    obtain ⟨hrest, hlen⟩ := fillFrom_rest u r (remoteAnswer s r d)
    have hans := remoteAnswer_bytes (s := s) (r := r) hb
    have hfa : (remoteAnswer s r d).fault = none := by rw [hans]; exact hf
    rw [exec_loadReply_outside hout ha hl hloc hcore hline hslot hc,
      deliverLoad_data hfa hslot hc hw (by rw [hsl]; exact ht)]
    refine ⟨_, rfl, (congrArg State.outbox hrest :), List.length_eq_zero_iff.mp hlen, (congrArg State.mem hrest :), ?_, ?_⟩
    · rw [resume_slot_same]
    · rw [resume_slot_same, State.slot_modSlot_same, hsl, loadResult_plain hw hfa, hans]
  case expiry =>
    intro s c i l hl
    obtain ⟨f, hexec, hf⟩ := exec_leaseExpiry c i s
    obtain ⟨h1, h2, h3⟩ := hf l
    refine ⟨_, f l, hexec, ?_, h1, h2, h3, rfl⟩
    rw [State.core_modCore_same]
    exact modAt_getElem? hl
  case eviction =>
    intro s l hs
    refine ⟨fun hno hinv => ?_, fun hsh => ?_⟩
    · have hshared : ¬ isShared s l = true := by
        rw [isShared_iff]
        rintro (h | ⟨v, hv, hvl⟩)
        · exact h hno
        · exact hinv v hv hvl
      refine ⟨_, exec_homeEviction hs, ?_⟩
      rw [if_neg hshared, evictLine, modLine_line, if_pos rfl]
      exact ⟨rfl, rfl, rfl, rfl⟩
    · refine ⟨_, exec_homeEviction hs, ?_⟩
      rw [if_pos ((isShared_iff s l).mpr (.inl hsh)), sendInvals_line, beq_self_eq_true, if_pos rfl]
      exact ⟨rfl, rfl, sendInvals_sent none (beq_self_eq_true l) hsh, rfl⟩
  case accept =>
    intro s slot e b bs strong ht hout hfind
    refine ⟨fun v => ⟨_, exec_accept_val hout hfind v, ?_⟩, fun c => ⟨_, exec_accept_fault hout hfind c, ?_⟩⟩
    · obtain ⟨hrest, hsb⟩ := storeShows_keeps { s with outbox := [] } (coreOf slot) e
      have hslot : (storeShows { s with outbox := [] } (coreOf slot) e).slot slot = s.slot slot := by
        simp only [State.slot, show (storeShows { s with outbox := [] } (coreOf slot) e).slots = s.slots from
          (congrArg State.slots hrest :)]
      rw [answerStore_slot, hslot]
      exact ⟨rfl, (congrArg State.outbox hrest :), rfl, hsb⟩
    · rw [answerStore_slot]
      refine ⟨rfl, rfl, rfl, fun x hx => ?_⟩
      have hx : x ∈ ((State.modCore { s with outbox := [] } (coreOf slot)
        (fun k => { k with sbuf := k.sbuf.filter (fun o => o.id != e.id) })).core (coreOf slot)).sbuf := hx
      rw [State.core_modCore_same] at hx
      simpa using (List.mem_filter.mp hx).2

end Sys2Proof.Machine
end

section
/-! What brings a waiting slot back and what is sent again (R94, R166, R167, R174, R175, R177, R415). -/

namespace Sys2Proof.Machine

/-! Fetches. -/

/-- A slot's fetch buffer is filled and it goes on. -/
def fetchFilled (s : State) (slot : Nat) (line : Word) (bs : List Byte) : State :=
  resume (s.modSlot slot (fun sl => { sl with fetch := some (line, bs) })) slot

theorem fetchFilled_slot (s : State) (slot : Nat) (line : Word) (bs : List Byte) :
    (fetchFilled s slot line bs).slot slot = { s.slot slot with fetch := some (line, bs), status := .ready } := by
  rw [fetchFilled, resume_slot_same, State.slot_modSlot_same]

section
variable {s : State} {slot : Nat} {line : Word} (hst : (s.slot slot).status = .waiting (.fetch line))
include hst

theorem exec_fetchLineFill_refused {c : Cause}
    (h : accessLoc s ⟨coreOf slot, slot, (s.slot slot).region⟩ (s.slot slot).pc 4 .fetch = .error c) :
    exec (.fetchLineFill slot) s = .next (if isHalted s slot then s else lateFault s slot c) := by
  show execFetchLineFill slot s = _
  simp only [execFetchLineFill, hst, h]

theorem exec_fetchLineFill_bank {k : Nat}
    (h : accessLoc s ⟨coreOf slot, slot, (s.slot slot).region⟩ (s.slot slot).pc 4 .fetch = .ok (.bank k, s)) :
    exec (.fetchLineFill slot) s = .next (
      if inBanks k = false then fetchFilled s slot line (readBytes s.mem (k - (s.slot slot).pc.toNat % 128) 128)
      else if (s.slot slot).bank.isSome then s
      else fetchBanks s slot k) := by
  show execFetchLineFill slot s = _
  simp only [execFetchLineFill, hst, h, fetchFilled]

/-- A line of code of global memory, by what the core's data cache says of it. -/
theorem exec_fetchLineFill_home {loc : Loc} {s1 : State}
    (h : accessLoc s ⟨coreOf slot, slot, (s.slot slot).region⟩ (s.slot slot).pc 4 .fetch = .ok (loc, s1))
    (hk : ∀ k, loc ≠ .bank k) :
    (∀ bs s2, codeHit s1 (coreOf slot) (s.slot slot).pc = some (.value bs, s2) →
      exec (.fetchLineFill slot) s = .next (fetchFilled s2 slot line bs)) ∧
    (∀ c s2, codeHit s1 (coreOf slot) (s.slot slot).pc = some (.fault c, s2) →
      exec (.fetchLineFill slot) s = .next (if isHalted s slot then s else lateFault s2 slot c)) ∧
    (codeHit s1 (coreOf slot) (s.slot slot).pc = none → codeAsked s slot line = false →
      exec (.fetchLineFill slot) s = .next (requestLine s1 slot true line 128 loc none none true)) := by
  refine ⟨fun bs s2 hc => ?_, fun c s2 hc => ?_, fun hc hn => ?_⟩
  all_goals
    show execFetchLineFill slot s = _
    cases loc with
    | bank k => exact absurd rfl (hk k)
    | home p q => simp only [execFetchLineFill, fetchFilled, *, Bool.false_eq_true, if_false]
    | away b => simp only [execFetchLineFill, fetchFilled, *, Bool.false_eq_true, if_false]

end

/-! Sleepers. -/

theorem sleepKind_asleep {s : State} {slot : Nat} {z : Sleep} (hs : (s.slot slot).status = .asleep z)
    (hr : (s.slot slot).reply = none) : sleepKind s slot = some z.kind := by
  rw [sleepKind, hs, hr]

theorem exec_streamStallResume {s : State} {slot : Nat} {z : Sleep} {q : BitVec 3} {r : Nat} {st : Stream}
    (hs : (s.slot slot).status = .asleep z) (hk : z.kind = .ring q r)
    (hm : mapGet (s.slot slot).streams q.toNat = some st) (ho : chunkOpen s (coreOf slot) st r = true) :
    exec (.streamStallResume slot) s = .next (resume s slot) := by
  show execStreamStallResume slot s = _
  simp only [execStreamStallResume, hs, hk, hm, ho, if_true]

theorem exec_lrwResend {s : State} {slot p h n : Nat} {z : Sleep} (hs : (s.slot slot).status = .asleep z)
    (hr : (s.slot slot).reply = none) (hk : z.kind = .lrw (.home p h) n) (hq : s.resv = []) (ha : s.atoms = []) :
    exec (.lrwResend slot) s = .next { s with atoms := [⟨slot, z.tval, .home p h, .lrw n, 0, false⟩] } := by
  show execLrwResend slot s = _
  simp only [execLrwResend, sleepKind_asleep hs hr, hk, hq, ha, List.any_nil, Bool.or_self, Bool.false_eq_true, if_false, hs,
    List.nil_append]

/-- What the next holder of a reservation reads (R166), where its line holds no poison. -/
theorem lateRead_sound {s : State} {home : Bool} {key n : Nat} (h : home = false ∨ (s.line (key / 128)).poison = false) :
    lateRead s home key n = .val (wordOf (readBytes s.mem key n)) := by
  unfold lateRead
  refine if_neg ?_
  obtain h | h := h
  · simp [h]
  · have h : ((mapGet s.lines (key / 128)).getD LineInfo.init).poison = false := h
    simp [h]

/-- A reservation that its holder passes on to the one queued slot (R167). -/
theorem passOn_pair {s : State} {key : Nat} {r r2 : Resv} (hq : s.resv = [(key, [r, r2])]) (hh : r2.held = none)
    (hp : r2.home = none ∨ (s.line (key / 128)).poison = false) :
    (passOn s key).resv = [(key, [{ r2 with held := some s.time }])] ∧
      ((passOn s key).slot r2.slot).reply = some (.val (wordOf (readBytes s.mem key r2.n))) := by
  have hget : mapGet s.resv key = some [r, r2] := by rw [hq]; simp [mapGet]
  have hput : ∀ q, mapPut s.resv key q = [(key, q)] := fun q => by rw [hq]; simp [mapPut]
  have hlate : lateRead { s with resv := [(key, [r2])] } r2.home.isSome key r2.n = .val (wordOf (readBytes s.mem key r2.n)) :=
    lateRead_sound (hp.imp (by rintro h; rw [h]; rfl) id)
  unfold passOn
  rw [hget]
  dsimp only
  rw [hput, grantHead]
  simp only [mapGet, if_true, hh, hlate, mapPut]
  exact ⟨by simp, by rw [State.slot_modSlot_same]⟩

theorem exec_reservationTimeout {s : State} {key : Nat} {r r2 : Resv} {t0 : Word} (hq : s.resv = [(key, [r, r2])])
    (hh : r.held = some t0) (hl : r.lim ≠ 0) (ht : t0.toNat + r.lim.toNat < s.time.toNat) :
    exec (.reservationTimeout 0) s = .next (passOn s key) := by
  show execReservationTimeout 0 s = _
  simp only [execReservationTimeout, hq, List.getElem?_cons_zero, hh, if_pos (And.intro hl ht)]

/-! Notifications. -/

theorem takeNote_taken {s : State} {n : BardNote} (hs : (s.slot n.slot).status = .ready)
    (hl : (s.slot n.slot).bardHeld.length < 16) :
    takeNote s n = some (s.modSlot n.slot (fun sl => { sl with bardHeld := sl.bardHeld ++ [n] })) := by
  have hfew : ¬ 16 ≤ (bardAhead (s.slot n.slot)).length := by
    have := List.length_filter_le (fun x : BardNote => !(x.episode == (s.slot n.slot).bardEpisode &&
      decide (x.round < (s.slot n.slot).bardRound))) (s.slot n.slot).bardHeld
    rw [bardAhead]
    omega
  unfold takeNote
  dsimp only
  rw [hs]
  exact if_neg fun h => hfew h.1

theorem takeNote_noTask {s : State} {n : BardNote} (hs : (s.slot n.slot).status = .noTask) : takeNote s n = none := by
  unfold takeNote
  dsimp only
  rw [hs]

/-- Settles O32: each event that brings a slot back or sends again. -/
theorem slotsResume : Obligations.SlotsResume := by
  unfold Obligations.SlotsResume
  refine ⟨?fetch, ?stream, ?lrw, ?timeout, ?note, ?guestNote, ?resend, ?count⟩
  case fetch =>
    intro s s1 s2 slot line loc bs hst w pc
    refine ⟨fun c h => exec_fetchLineFill_refused hst h, fun k h => ⟨fun hk => ?_, fun hk hb => ?_⟩, fun h hloc => ?_⟩
    · refine ⟨_, (exec_fetchLineFill_bank hst h).trans (congrArg _ (if_pos hk)), ?_, ?_, rfl⟩ <;> rw [fetchFilled_slot]
    · rw [exec_fetchLineFill_bank hst h, if_neg (by rw [hk]; exact Bool.true_eq_false.mp), hb]
      rfl
    · obtain ⟨hvalue, hfault, hnone⟩ := exec_fetchLineFill_home hst h hloc
      refine ⟨fun hc => ⟨_, hvalue bs s2 hc, ?_, ?_, rfl, rfl⟩, fun c hc => hfault c s2 hc, hnone⟩ <;> rw [fetchFilled_slot]
  case stream =>
    intro s slot z q r st hs hk hm ho
    refine ⟨_, exec_streamStallResume hs hk hm ho, ?_, rfl⟩
    rw [resume_slot_same]
  case lrw => exact fun s slot p h n z hs hr hk hq ha => exec_lrwResend hs hr hk hq ha
  case timeout =>
    intro s key r r2 t0 hq hh hl ht hh2 hp
    obtain ⟨hres, hrep⟩ := passOn_pair hq hh2 hp
    exact ⟨_, exec_reservationTimeout hq hh hl ht, ⟨_, hres, rfl, rfl⟩, hrep⟩
  case note =>
    intro s n src hf
    refine ⟨fun hs hl => ?_, fun hs => ?_⟩
    · refine ⟨{ s.modSlot n.slot (fun sl => { sl with bardHeld := sl.bardHeld ++ [n] }) with flights := [] }, ?_, rfl, ?_⟩
      · show execBardNotificationArrival (.mine 0) s = _
        simp only [execBardNotificationArrival, hf, List.getElem?_cons_zero, takeNote_taken hs hl]
        exact congrArg (fun fl : List Flight => Host.Outcome.next
          { s.modSlot n.slot (fun sl => { sl with bardHeld := sl.bardHeld ++ [n] }) with flights := dropAt fl 0 }) hf
      · exact congrArg Slot.bardHeld (State.slot_modSlot_same s n.slot (fun sl => { sl with bardHeld := sl.bardHeld ++ [n] }))
    · refine ⟨{ s with flights := [.bard n true src] }, ?_, rfl, rfl⟩
      show execBardNotificationArrival (.mine 0) s = _
      simp only [execBardNotificationArrival, hf, List.getElem?_cons_zero, takeNote_noTask hs, modAt]
  case guestNote =>
    intro s n
    refine ⟨fun hlive hs hl => ⟨s.modSlot n.slot (fun sl => { sl with bardHeld := sl.bardHeld ++ [n] }), ?_, ?_⟩,
      fun hdead => ⟨{ s with outbox := s.outbox ++ [Out.message n.slot "BARD PROT" []] }, ?_, List.length_append .., rfl⟩⟩
    · show execBardNotificationArrival (.outside n) s = _
      simp only [execBardNotificationArrival, hlive, if_true, takeNote_taken hs hl, Option.getD_some]
    · rw [State.slot_modSlot_same]
    · show execBardNotificationArrival (.outside n) s = _
      simp only [execBardNotificationArrival, hdead, Bool.false_eq_true, if_false]
  case resend =>
    intro s n src hf
    show execBardResend 0 s = _
    simp only [execBardResend, hf, List.getElem?_cons_zero, modAt, dropAt]
    split <;> rfl
  case count =>
    intro s a slot region sc hc
    show execRupdCountAdd 0 s = _
    simp only [execRupdCountAdd, hc, List.getElem?_cons_zero, dropAt]

end Sys2Proof.Machine
end

section
/-! SEND and SPAWN (R183, R184, R188, R190): the payload captured at issue, the release, and what follows. -/

namespace Sys2Proof.Machine

/-- A read that the instruction has been answered leaves the slot's answers. -/
theorem takeGot_some {s t : State} {a : Word} {n : Nat} {r : Found (List Byte)} (h : takeGot s a n = some (r, t)) :
    ∃ gs, t = s.modMe (fun sl => { sl with got := gs }) := by
  rw [takeGot, Option.map_eq_some_iff] at h
  obtain ⟨x, -, hx⟩ := h
  exact ⟨x.2, (Prod.mk.inj hx).2.symm⟩

/-- An instruction with captured bytes waits with them. -/
theorem conclude_holding (s : State) (a : Word) (bs : List Byte) (e : Eff Unit) :
    conclude s (holding a bs e) = concludeDrained s (s.modMe (holding.keep a bs)) e := by
  cases e <;> rfl

theorem concludeDrained_released {s t : State} {scope : BitVec 3} (hr : release s scope = .ok () t) (s0 s1 : State)
    (k : State → Eff Unit) : ∃ s', DrainOf s1 s' ∧ concludeDrained s0 s1 (released s scope k) = concludeDrained s0 s' (k t) := by
  by_cases h2 : 2 ≤ scope.toNat
  · refine ⟨s1.modMe (fun sl => { sl with drain := t.me.drain }), .inr ⟨_, rfl⟩, ?_⟩
    rw [release, if_pos h2] at hr
    rw [released, if_pos h2, hr, Eff.andThen_ok]
    cases k t <;> rfl
  · rw [release, if_neg h2] at hr
    cases hr
    exact ⟨s1, .inl rfl, by rw [released, if_neg h2]⟩

section
variable {s s1 s2 s3 s4 t : State} {gd ga gb : Reg} {scope : BitVec 3} {d pa x : Word} {pl : List Byte}
  (hs : scope.toNat < 6) (ha : readG s ga = .ok d s1) (hb : readG s1 gb = .ok pa s2) (hd : readG s2 gd = .ok x s3)
  (hw : unwatched s3) (hrel : release (noteRead t pa pl) scope = .ok () s4)
include hs ha hb hd hw hrel

/-- The part that SEND and SPAWN share comes to what follows the release. -/
theorem conclude_sendPart {dest : Option Reg} (hc : captures s3 (dest.getD 0) d pa pl t) {task : Word → Bool}
    (htask : (!(task d) || decide (x.toNat % 4 = 0)) = true) (word : W32)
    (k : Word → Word → List Byte → State → Eff Unit) :
    ∃ s', DrainOf (s.modMe (holding.keep pa pl)) s' ∧
      conclude s (sendPart s word task gd ga gb dest scope k) = concludeDrained s s' (k d x pl s4) := by
  obtain ⟨s', hdr, hend⟩ := concludeDrained_released hrel s (s.modMe (holding.keep pa pl)) (fun s => k d x pl s)
  refine ⟨s', hdr, Eq.trans ?_ hend⟩
  rw [← conclude_holding]
  obtain hgot | ⟨hgot, h64, hdest, key, p, hkey, hp, hread⟩ := hc
  · obtain ⟨gs, rfl⟩ := takeGot_some hgot
    have hw' : unwatched (s3.modMe (fun sl => { sl with got := gs })) := unwatched_modMe hw ⟨rfl, rfl, rfl⟩
    simp only [sendPart, checkScope_ok s scope _ hs, ha, hb, hd, hgot, checkWatch_unwatched hw', Eff.andThen_ok]
  · simp only [sendPart, checkScope_ok s scope _ hs, ha, hb, hd, hgot, checkAlign_aligned s3 h64,
      check_met s3 _ _ htask, hkey, hdest, checkWatch_unwatched hw, hp, hread, Eff.andThen_ok]

theorem exec_send (hc : captures s3 0 d pa pl t) (hx : d.getLsbD 63 = true → x.toNat % 4 = 0)
    (hroom : outgoing s4 s4.myCore < 4) :
    exec (.send gd ga gb scope) s = .next ((post s4 s4.cur s4.me.region d x pl).retire 4) := by
  have htask : (!(d.getLsbD 63) || decide (x.toNat % 4 = 0)) = true := by
    cases h : d.getLsbD 63
    · rfl
    · simp [hx h]
  obtain ⟨s', -, h⟩ := conclude_sendPart hs ha hb hd hw hrel (dest := none) hc (task := fun d => d.getLsbD 63) htask (encodeScalar (.send gd ga gb scope))
    (fun d x pl s => if outgoing s s.myCore < 4 then done (post s s.cur s.me.region d x pl) else stall .poll)
  rw [if_pos hroom] at h
  exact h

/-- SPAWN after its release. -/
theorem exec_spawn (hc : captures s3 gd d pa pl t) (hx : x.toNat % 4 = 0) :
    ∃ s', DrainOf (s.modMe (holding.keep pa pl)) s' ∧ exec (.spawn gd ga gb scope) s = concludeDrained s s' (
      if isHere s4 (destDev d) then
        match s4.me.reply with
        | some (.val st) => writeDone s4 gd st
        | _ => act s4 (fun s0 => { s0 with flights := s0.flights ++
            [Flight.spawn ⟨destCore d, s4.me.region, (s4.region s4.me.region).ctx, x, pl⟩ s0.cur] }.stall .reply)
      else writeDone s4 gd 3) :=
  conclude_sendPart hs ha hb hd hw hrel (dest := some gd) hc (task := fun _ => true) (by simp [hx])
    (encodeScalar (.spawn gd ga gb scope)) _

end

theorem concludeDrained_writeDone (s s' : State) {s4 u : State} {gd : Reg} {v : Word} (hw : writeG s4 gd v = .ok () u) :
    concludeDrained s s' (writeDone s4 gd v) = .next (u.retire 4) := by
  rw [writeDone, hw]; rfl

theorem me_stall (s : State) (w : Wait) :
    (s.stall w).me = { s.me with status := .waiting w, bank := s.me.bank.filter (fun x => x.store.isSome) } := by
  rw [State.stall, State.me_modMe]

/-- What a state that only a slot's marks have been changed in keeps. -/
theorem DrainOf.kept {s s' : State} {f : Slot → Slot} (h : DrainOf (s.modMe f) s') (hf : (f s.me).pc = s.me.pc) :
    s'.flights = s.flights ∧ s'.cur = s.cur ∧ s'.me.pc = s.me.pc := by
  obtain ⟨d, hme⟩ := h.me
  refine ⟨(congrArg State.flights h.rest :), (congrArg State.cur h.rest :), ?_⟩
  rw [hme, State.me_modMe]
  exact hf

/-- Settles O33: the shared part, then each member's own. -/
theorem sendAndSpawn : Obligations.SendAndSpawn := by
  unfold Obligations.SendAndSpawn
  intro s s1 s2 s3 s4 gd ga gb scope d pa x pl hs ha hb hd hw
  refine ⟨fun t hc hrel hx hroom => exec_send hs ha hb hd hw hrel hc hx hroom, fun h63 hhere => ?post,
    fun t hc hrel hx => ?spawn⟩
  case post =>
    refine ⟨messageCtx s4 s4.cur (destCore d), ?_⟩
    rw [post, if_neg (by rw [h63]; exact Bool.false_ne_true), if_pos hhere, BitVec.setWidth_eq_extractLsb' (by decide)]
  case spawn =>
    obtain ⟨s', hdr, hexec⟩ := exec_spawn hs ha hb hd hw hrel hc hx
    rw [hexec]
    refine ⟨fun hhere u hwr => ?_, fun hhere st u hrep hwr => ?_, fun hhere hrep => ?_⟩
    · rw [hhere]
      exact concludeDrained_writeDone s s' hwr
    · rw [hhere, hrep]
      exact concludeDrained_writeDone s s' hwr
    · rw [hhere, hrep]
      obtain ⟨hflights, hcur, hpc⟩ := hdr.kept (f := holding.keep pa pl) rfl
      refine ⟨_, rfl, stall_status .., ?_, ⟨destCore d, s4.me.region, (s4.region s4.me.region).ctx, x, pl⟩, ?_, rfl, rfl, rfl, rfl⟩
      · rw [me_stall]
        refine Eq.trans ?_ hpc
        show (keepPops s4 s').me.pc = _
        rw [me_keepPops]
        rfl
      · show s'.flights ++ [Flight.spawn _ s'.cur] = _
        rw [hflights, hcur]

end Sys2Proof.Machine
end

section
/-! RECV, PEEK, YIELD and SLOTQ (R182, R192, R193). -/

namespace Sys2Proof.Machine

/-- An instruction that comes to an effect with its write ends so (R94). -/
theorem endsWith_of_effectDone {i : Instr} {s u : State} {r : Reg} {v : Word} (h : exec i s = conclude s (effectDone u r v)) :
    endsWith i s u r v := by
  refine ⟨fun t hp hw => ?_, fun t hp hprobe => ?_⟩
  · rw [h, effectDone_at_once u t r v hp hw, conclude_ok]
  · rw [h, effectDone_later s u t r v hp hprobe]

/-- A slot that was awake falls asleep, from the time its instruction issued (R169). -/
theorem sleepFor_awake {s : State} (h : ∀ z, s.me.status ≠ .asleep z) (k : SleepFor) (tval : Word) : (s.sleepFor k tval).me =
    { s.me with
      status := .asleep ⟨k, s.me.since.getD s.time, s.me.waitlim, tval, false⟩, since := some (s.me.since.getD s.time) } := by
  rw [State.sleepFor, State.me_modMe]
  split
  next z hz => exact absurd hz (h z)
  next => rfl

/-! RECV. -/

section
variable {s s1 : State} {gd ga : Reg} {pa : Word} (hr : readG s ga = .ok pa s1)
include hr

/-- RECV of an entry with nowhere to put its payload. -/
theorem exec_recv_header {e : InboxEntry} {rest : List InboxEntry} (he : entriesOf s1 s1.cur = e :: rest) (h0 : ga = 0) :
    exec (.recv gd ga) s = conclude s (effectDone (expireAll (dropOldest s1 s1.cur) s1.myCore) gd e.header) := by
  show execRecv gd ga s = _
  simp only [execRecv, hr, Eff.andThen_ok, if_pos h0, he]
  rfl

theorem exec_recv_sleeps (he : entriesOf s1 s1.cur = []) (h0 : ga = 0) :
    exec (.recv gd ga) s = .next (s.sleepFor .recv pa) := by
  show execRecv gd ga s = _
  simp only [execRecv, hr, Eff.andThen_ok, if_pos h0, he]
  rfl

/-- RECV up to the write of its payload. -/
theorem exec_recv_payload {e : InboxEntry} {rest : List InboxEntry} {key : Nat} (he : entriesOf s1 s1.cur = e :: rest)
    (h0 : ga ≠ 0) (h64 : pa.toNat % 64 = 0) (hk : localKey s1 pa 64 .store = .ok key s1) (hw : unwatched s1) :
    exec (.recv gd ga) s = conclude s ((bankStore s1 pa key e.payload).andThen fun _ s =>
      effectDone (expireAll (dropOldest s s.cur) s.myCore) gd e.header) := by
  show execRecv gd ga s = _
  simp only [execRecv, hr, Eff.andThen_ok, if_neg h0, checkAlign_aligned s1 h64, hk, he, checkWatch_unwatched hw]
  rfl

end

/-! The oldest entry of a slot. -/

theorem findIdx_some {α : Type} {f : α → Bool} {xs : List α} (h : ∃ x ∈ xs, f x = true) :
    ∃ i x, findIdx f xs = some (i, x) ∧ xs[i]? = some x := by
  induction xs with
  | nil => obtain ⟨x, hx, -⟩ := h; cases hx
  | cons y ys ih =>
    by_cases hy : f y = true
    · exact ⟨0, y, by simp [findIdx, hy], rfl⟩
    · obtain ⟨x, hx, hfx⟩ := h
      have hys : x ∈ ys := (List.mem_cons.mp hx).resolve_left fun hxy => hy (hxy ▸ hfx)
      obtain ⟨i, z, hi, hz⟩ := ih ⟨x, hys, hfx⟩
      exact ⟨i + 1, z, by simp [findIdx, hy, hi], by simpa using hz⟩

theorem dropOldest_inbox {s : State} {e : InboxEntry} {rest : List InboxEntry} (h : entriesOf s s.cur = e :: rest) :
    e ∈ (s.core s.myCore).inbox ∧
      ((dropOldest s s.cur).core s.myCore).inbox.length + 1 = (s.core s.myCore).inbox.length := by
  have hmem : e ∈ entriesOf s s.cur := by rw [h]; exact List.mem_cons_self
  obtain ⟨hin, hslot⟩ := List.mem_filter.mp hmem
  refine ⟨hin, ?_⟩
  obtain ⟨i, x, hi, hx⟩ := findIdx_some (f := fun e : InboxEntry => e.slot == s.cur) ⟨e, hin, hslot⟩
  have hi' : findIdx (fun e : InboxEntry => e.slot == s.cur) (s.core s.myCore).inbox = some (i, x) := hi
  show (((s.modCore s.myCore _).core s.myCore).inbox.length) + 1 = _
  rw [State.core_modCore_same, hi']
  exact dropAt_length hx

/-! SLOTQ. -/

/-- Flags as a number: below the power of their count, each at its own bit. -/
theorem foldl_mask_testBit (f : Nat → Bool) (n : Nat) :
    (List.range n).foldl (fun m i => if f i then m + 2 ^ i else m) 0 < 2 ^ n ∧
      ∀ i, i < n → ((List.range n).foldl (fun m i => if f i then m + 2 ^ i else m) 0).testBit i = f i := by
  induction n with
  | zero => exact ⟨Nat.one_pos, fun i hi => absurd hi (Nat.not_lt_zero i)⟩
  | succ n ih =>
    obtain ⟨hlt, hbit⟩ := ih
    rw [List.range_succ, List.foldl_append, List.foldl_cons, List.foldl_nil]
    generalize (List.range n).foldl (fun m i => if f i then m + 2 ^ i else m) 0 = m at *
    have hn : m.testBit n = false := Nat.testBit_lt_two_pow hlt
    split
    next hf =>
      refine ⟨by omega, fun i hi => ?_⟩
      rw [Nat.add_comm]
      obtain h | rfl := Nat.lt_succ_iff_lt_or_eq.mp hi
      · rw [Nat.testBit_two_pow_add_gt h, hbit i h]
      · rw [Nat.testBit_two_pow_add_eq, hn, hf]; rfl
    next hf =>
      refine ⟨by omega, fun i hi => ?_⟩
      obtain h | rfl := Nat.lt_succ_iff_lt_or_eq.mp hi
      · exact hbit i h
      · rw [hn, Bool.eq_false_iff.mpr hf]

/-- The word that SLOTQ gives, by its fields (R193). -/
theorem eq_slotqWord {v : Word} {gen : Byte} {share len free : Nat} (h24 : v.extractLsb' 24 8 = gen)
    (h16 : (v.extractLsb' 16 8).toNat = share % 256) (h8 : (v.extractLsb' 8 8).toNat = len % 256)
    (h32 : v.extractLsb' 32 32 = 0) (h0 : ∀ i, i < 8 → v.getLsbD i = free.testBit i) :
    v = 0#32 ++ gen ++ BitVec.ofNat 8 share ++ BitVec.ofNat 8 len ++ BitVec.ofNat 8 free := by
  have h16' : v.extractLsb' 16 8 = BitVec.ofNat 8 share := BitVec.eq_of_toNat_eq (by rw [h16, BitVec.toNat_ofNat])
  have h8' : v.extractLsb' 8 8 = BitVec.ofNat 8 len := BitVec.eq_of_toNat_eq (by rw [h8, BitVec.toNat_ofNat])
  have h0' : v.extractLsb' 0 8 = BitVec.ofNat 8 free := by
    refine BitVec.eq_of_getLsbD_eq fun i hi => ?_
    rw [BitVec.getLsbD_extractLsb', BitVec.getLsbD_ofNat]
    simp [hi, h0 i hi]
  rw [← h24, ← h16', ← h8', ← h0', ← show v.extractLsb' 32 32 = 0#32 from h32]
  refine BitVec.eq_of_getLsbD_eq fun i hi => ?_
  simp only [BitVec.getLsbD_append, BitVec.getLsbD_extractLsb']
  grind

theorem exec_slotq {s t : State} {gd : Reg} {v : Word} (h24 : v.extractLsb' 24 8 = s.me.gen)
    (h16 : (v.extractLsb' 16 8).toNat = (32 - shareUsed s s.myCore false) % 256)
    (h8 : (v.extractLsb' 8 8).toNat = (entriesOf s s.cur).length % 256) (h32 : v.extractLsb' 32 32 = 0)
    (h0 : ∀ i, i < 8 → v.getLsbD i = slotFree s (8 * s.myCore + i)) (hw : writeG s gd v = .ok () t) :
    exec (.slotq gd) s = .next (t.retire 4) := by
  have hfree := (foldl_mask_testBit (fun i => slotFree s (8 * s.myCore + i)) 8).2
  rw [eq_slotqWord h24 h16 h8 h32 fun i hi => (h0 i hi).trans (hfree i hi).symm] at hw
  exact conclude_writeDone s hw

/-! YIELD. -/

section
variable {s s1 t : State} {gd ga : Reg} {x : Word} (hr : readG s ga = .ok x s1)
include hr

theorem exec_yield_entry {e : InboxEntry} {rest : List InboxEntry} (he : entriesOf s1 s1.cur = e :: rest)
    (hw : writeG s1 gd 1 = .ok () t) : exec (.yield gd ga) s = .next (t.retire 4) := by
  show execYield gd ga s = _
  simp only [execYield, hr, Eff.andThen_ok, he]
  exact conclude_writeDone s hw

theorem exec_yield_none (he : entriesOf s1 s1.cur = []) : exec (.yield gd ga) s = conclude s (
    if (s1.me.since.getD s1.time).toNat + x.toNat ≤ s1.time.toNat then writeDone s1 gd 0
    else sleep (.yield (if (s1.me.since.getD s1.time).toNat + x.toNat < 2 ^ 64 then
      BitVec.ofNat 64 ((s1.me.since.getD s1.time).toNat + x.toNat) else BitVec.allOnes 64)) 0) := by
  show execYield gd ga s = _
  simp only [execYield, hr, Eff.andThen_ok, he]

end

/-- Settles O34: RECV by its operand, PEEK and SLOTQ, YIELD by its limit. -/
theorem receiveAndWait : Obligations.ReceiveAndWait := by
  unfold Obligations.ReceiveAndWait
  refine ⟨fun s s1 s2 gd ga pa e rest key hr he => ⟨fun h0 => endsWith_of_effectDone (exec_recv_header hr he h0),
      fun h0 h64 hk hw => ?payload, dropOldest_inbox he⟩, fun s s1 gd ga pa hr he h0 hst => ?asleep,
    fun s t gd => ⟨fun e rest he hw => ?peek, fun he hw => ?peekNone, fun v h24 h16 h8 h32 h0 hw => exec_slotq h24 h16 h8 h32 h0 hw⟩,
    fun s s1 t gd ga x hr => ?yield⟩
  case payload =>
    have hexec := exec_recv_payload (gd := gd) hr he h0 h64 hk hw
    refine ⟨fun hstore => endsWith_of_effectDone ?_, fun hb hf => bankStore_direct s1 pa key e.payload hb hf, fun hb hf hn => ?_⟩
    · rw [hexec, hstore, Eff.andThen_ok]
    · rw [bankStore_due hn hf hb] at hexec
      exact ⟨_, hexec, rfl, rfl, askBanks_me ..⟩
  case asleep =>
    refine ⟨s.sleepFor .recv pa, ⟨.recv, s.me.since.getD s.time, s.me.waitlim, pa, false⟩, exec_recv_sleeps hr he h0, ?_, rfl,
      ?_, rfl⟩ <;> rw [sleepFor_awake hst]
  case peek =>
    show execPeek gd s = _
    rw [execPeek, he]
    exact conclude_writeDone s hw
  case peekNone =>
    show execPeek gd s = _
    rw [execPeek, he]
    exact conclude_writeDone s hw
  case yield =>
    intro from_
    refine ⟨fun e rest he hw => exec_yield_entry hr he hw, fun he ht hw => ?_, fun he ht hlim hst => ?_⟩
    · rw [exec_yield_none hr he, if_pos ht]
      exact conclude_writeDone s hw
    · rw [exec_yield_none hr he, if_neg (Nat.not_le.mpr ht), if_pos hlim]
      refine ⟨s.sleepFor (.yield (BitVec.ofNat 64 (from_ + x.toNat))) 0, ⟨_, s.me.since.getD s.time, s.me.waitlim, 0, false⟩, rfl, ?_, rfl⟩
      rw [sleepFor_awake hst]

end Sys2Proof.Machine
end


section
/-! What homes, walkers and records do on the way: the state that they may change, once for all of them. -/

namespace Sys2Proof.Machine

/-- The work of homes and walkers: of a slot it changes at most the reply, of a core the walk cache, and memory stays in
its form. -/
structure HomeWork (s t : State) : Prop where
  rest : { t with
    mem := s.mem, lines := s.lines, sliceVer := s.sliceVer, freeCtr := s.freeCtr, invals := s.invals, cores := s.cores
    westWalks := s.westWalks, eastWalks := s.eastWalks, regions := s.regions, snaps := s.snaps
    trapsInFlight := s.trapsInFlight, slots := s.slots } = s
  form : Memory.wf s.mem = true → Memory.wf t.mem = true
  slot : ∀ i, ∃ r, t.slot i = { s.slot i with reply := r }
  core : ∀ c, ∃ w, t.core c = { s.core c with walks := w }

/-- Work that leaves memory, the slots and the cores as they are. -/
theorem HomeWork.light {s t : State} (hm : t.mem = s.mem) (hs : t.slots = s.slots) (hc : t.cores = s.cores)
    (hr : { t with
      mem := s.mem, lines := s.lines, sliceVer := s.sliceVer, freeCtr := s.freeCtr, invals := s.invals, cores := s.cores
      westWalks := s.westWalks, eastWalks := s.eastWalks, regions := s.regions, snaps := s.snaps
      trapsInFlight := s.trapsInFlight, slots := s.slots } = s) : HomeWork s t where
  rest := hr
  form h := by rwa [hm]
  slot i := ⟨_, by rw [State.slot, hs]; rfl⟩
  core c := ⟨_, by rw [State.core, hc]; rfl⟩

theorem HomeWork.refl (s : State) : HomeWork s s := .light rfl rfl rfl rfl

theorem HomeWork.trans {s t u : State} (h : HomeWork s t) (h' : HomeWork t u) : HomeWork s u where
  rest := by
    have h1 := h.rest
    rw [← h'.rest] at h1
    exact h1
  form hw := h'.form (h.form hw)
  slot i := by
    obtain ⟨_, h1⟩ := h.slot i
    obtain ⟨_, h2⟩ := h'.slot i
    exact ⟨_, by rw [h2, h1]⟩
  core c := by
    obtain ⟨_, h1⟩ := h.core c
    obtain ⟨_, h2⟩ := h'.core c
    exact ⟨_, by rw [h2, h1]⟩

theorem HomeWork.foldl {α : Type} {f : State → α → State} (h : ∀ s a, HomeWork s (f s a)) (xs : List α) (s : State) :
    HomeWork s (xs.foldl f s) := by
  induction xs generalizing s with
  | nil => exact .refl s
  | cons x xs ih => exact (h s x).trans (ih _)

/-! Lines and walks. -/

theorem modLine_work (s : State) (l : Nat) (f : LineInfo → LineInfo) : HomeWork s (s.modLine l f) := .light rfl rfl rfl rfl

theorem sendInvals_work (s : State) (w : Option Waiter) (f : Nat → Bool) : HomeWork s (sendInvals s w f) := .light rfl rfl rfl rfl

theorem draw_work (s : State) : HomeWork s s.draw.2 := .light rfl rfl rfl rfl

theorem drawBytes_work (s : State) (n : Nat) : HomeWork s (s.drawBytes n).2 := by
  induction n generalizing s with
  | zero => exact .refl s
  | succ n ih => exact (draw_work s).trans (ih _)

theorem drawWords_work (s : State) (n : Nat) : HomeWork s (s.drawWords n).2 := by
  induction n generalizing s with
  | zero => exact .refl s
  | succ n ih => exact (draw_work s).trans (ih _)

theorem makeRoom_work (s : State) (h : Nat) : HomeWork s (makeRoom s h) := by
  unfold makeRoom evictLine
  dsimp only
  split
  · exact .refl s
  · split
    · exact (draw_work s).trans (sendInvals_work _ _ _)
    · exact (draw_work s).trans (modLine_work _ _ _)

theorem nextVersion_work (s : State) (h : Nat) (v : BitVec 48) : HomeWork s (nextVersion s h v).2 := .light rfl rfl rfl rfl

theorem touchLine_work (s : State) (l h : Nat) : HomeWork s (touchLine s l h) := by
  unfold touchLine
  split
  · exact .refl s
  · exact ((makeRoom_work s h).trans (nextVersion_work _ _ _)).trans (modLine_work _ _ _)

theorem bumpLine_work (s : State) (l : Nat) : HomeWork s (bumpLine s l) := by
  unfold bumpLine
  split
  · exact .refl s
  · exact (nextVersion_work _ _ _).trans (modLine_work _ _ _)

theorem markSharers_work (s : State) (b : Nat) (ls : List Nat) : HomeWork s (markSharers s b ls) :=
  .foldl (fun _ _ => modLine_work _ _ _) ls s

theorem modWalks_work (s : State) (r : Reader) (f : List WalkEntry → List WalkEntry) : HomeWork s (modWalks s r f) := by
  cases r with
  | core c =>
    refine ⟨rfl, id, fun i => ⟨_, rfl⟩, fun d => ?_⟩
    by_cases hd : d = c
    · subst hd; exact ⟨_, State.core_modCore_same _ _ _⟩
    · exact ⟨_, State.core_modCore_ne _ _ _ _ hd⟩
  | west => exact .light rfl rfl rfl rfl
  | east => exact .light rfl rfl rfl rfl

theorem walk_work (s : State) (r : Reader) (va : Nat) : HomeWork s (walk s r va).2 := by
  unfold walk
  split
  · exact .refl s
  · dsimp only
    split
    · split
      · exact markSharers_work ..
      · exact markSharers_work ..
      · exact (markSharers_work ..).trans (modWalks_work ..)
    · exact .refl s

theorem leafFor_work {s t : State} {r : Reader} {va : Nat} {x : Word × Nat} (h : leafFor s r va = .ok (x, t)) :
    HomeWork s t := by
  have hw := walk_work s r va
  unfold leafFor at h
  split at h
  · rename_i heq
    cases h
    rwa [heq] at hw
  · cases h

/-! Bytes and regions. -/

theorem writeMem_work (s : State) (p : Nat) (bs : List Byte) : HomeWork s { s with mem := writeBytes s.mem p bs } :=
  ⟨rfl, Memory.wf_writeBytes _ _ _, fun _ => ⟨_, rfl⟩, fun _ => ⟨_, rfl⟩⟩

theorem rawWrite_work (s : State) (p : Nat) (bs : List Byte) : HomeWork s (rawWrite s p bs) :=
  (writeMem_work s p bs).trans (bumpLine_work _ _)

theorem rawWriteLines_work (s : State) (p : Nat) (bs : List Byte) (n : Nat) : HomeWork s (rawWriteLines s p bs n) := by
  induction n generalizing s p bs with
  | zero => exact .refl s
  | succ n ih => exact (rawWrite_work ..).trans (ih ..)

theorem putRegion_work (s : State) (r : Nat) (g : Region) : HomeWork s (putRegion s r g) := by
  have h0 : HomeWork s { s with regions := mapPut s.regions r g } := .light rfl rfl rfl rfl
  unfold putRegion
  dsimp only
  split
  · exact h0
  · exact h0.trans (rawWriteLines_work ..)

theorem refund_work (s : State) (r : Nat) (xs : List (BudgetName × Nat)) : HomeWork s (refund s r xs) := putRegion_work ..

theorem charge_work {s t : State} {r : Nat} {xs : List (BudgetName × Nat)} (h : charge s r xs = some t) : HomeWork s t := by
  unfold charge at h
  split at h
  · cases h; exact putRegion_work ..
  · cases h

theorem wakeCounters_work (s : State) (key len : Nat) : HomeWork s (wakeCounters s key len) := by
  refine ⟨rfl, id, fun i => ?_, fun _ => ⟨_, rfl⟩⟩
  obtain ⟨r, hr, -, -⟩ := wakeCounter_reply s key len (s.slot i)
  rw [wakeCounters_slot]
  split
  · exact ⟨_, rfl⟩
  · exact ⟨_, hr⟩

theorem bankWrite_work (s : State) (key : Nat) (bs : List Byte) : HomeWork s (bankWrite s key bs) :=
  (writeMem_work ..).trans (wakeCounters_work ..)

/-! Shadows. -/

theorem breakSnap_work (s : State) (n : Snap) (a : Word) (h : Option Nat) : HomeWork s (breakSnap s n a h) := .light rfl rfl rfl rfl

theorem chooseLine_work {s t : State} {r : Nat} {a : Word} (h : chooseLine s r = some (a, t)) : HomeWork s t := by
  unfold chooseLine at h
  dsimp only at h
  split at h
  · cases h
  · obtain ⟨i, -, hi⟩ := Option.map_eq_some_iff.mp h
    cases hi
    exact draw_work s

theorem takePoolLine_work {s t : State} {r h : Nat} {a : Word} (ht : takePoolLine s r h = some (a, t)) : HomeWork s t := by
  unfold takePoolLine at ht
  split at ht
  · cases ht
  · rename_i hc
    split at ht
    · cases ht
    · rename_i hl
      split at ht
      · cases ht
        exact (chooseLine_work hc).trans (leafFor_work hl)
      · cases ht

theorem poolMiss_work (s : State) (r h : Nat) : HomeWork s (poolMiss s r h) := by
  unfold poolMiss
  split
  · exact .refl s
  · exact walk_work ..

theorem shadowStep_work (s : State) (a : Word) (p h : Nat) : HomeWork s (shadowStep s a p h) := by
  unfold shadowStep
  split
  · exact .refl s
  · dsimp only
    split
    · exact (poolMiss_work ..).trans (.foldl (fun _ _ => breakSnap_work ..) _ _)
    · rename_i hb
      obtain ⟨⟨a', s1⟩, hpool, hch⟩ := Option.bind_eq_some_iff.mp hb
      obtain ⟨s2, hs2, heq⟩ := Option.map_eq_some_iff.mp hch
      cases heq
      exact ((takePoolLine_work hpool).trans (charge_work hs2)).trans (modLine_work ..)

/-! Reads and writes at homes. -/

theorem homeWrite_work (s : State) (a : Word) (p h : Nat) (bs : List Byte) : HomeWork s (homeWrite s a p h bs) :=
  (((touchLine_work ..).trans (shadowStep_work ..)).trans (rawWrite_work ..)).trans (wakeCounters_work ..)

theorem recordStrong_work (s : State) (p n : Nat) : HomeWork s (recordStrong s p n) := modLine_work ..

theorem clearStrong_work (s : State) (p n : Nat) : HomeWork s (clearStrong s p n) := by
  unfold clearStrong
  split
  · exact .refl s
  · split
    · exact modLine_work ..
    · exact .refl s

theorem blur_work (s : State) (bs : List Byte) (part : Option (Nat × Nat)) : HomeWork s (blur s bs part).2 := by
  unfold blur
  split
  · exact .refl s
  · exact drawBytes_work ..

theorem scrambleRegion_work (s : State) (r : Nat) : HomeWork s (scrambleRegion s r) :=
  (drawWords_work s 18).trans (.light rfl rfl rfl rfl)

theorem scramblePool_work (s : State) (a : Word) (n : Nat) : HomeWork s (scramblePool s a n) := by
  have h := drawBytes_work s 128
  unfold scramblePool
  generalize s.drawBytes 128 = d at h ⊢
  exact h.trans (.light rfl rfl rfl rfl)

theorem scrambleBytes_work (s : State) (p n : Nat) : HomeWork s (scrambleBytes s p n) :=
  (drawBytes_work s n).trans (writeMem_work ..)

theorem softHarm_work (s0 s : State) (a : Word) (p n : Nat) : HomeWork s (softHarm s0 s a p n) := by
  have hif : ∀ (b : Bool) (t u : State), HomeWork t u → HomeWork t (if b = true then u else t) := by
    intro b t u h
    cases b
    · exact .refl t
    · exact h
  unfold softHarm
  dsimp only
  refine .trans (.trans (.trans (hif _ _ _ (.foldl (fun _ _ => scrambleRegion_work ..) _ _))
    (.foldl (fun _ _ => scrambleBytes_work ..) _ _)) (hif _ _ _ (scrambleBytes_work ..))) (hif _ _ _ (scramblePool_work ..))

theorem plainStore_work (s : State) (a : Word) (p h : Nat) (bs : List Byte) : HomeWork s (plainStore s a p h bs) :=
  ((homeWrite_work ..).trans (softHarm_work ..)).trans (clearStrong_work ..)

theorem strongStore_work (s : State) (a : Word) (p h : Nat) (bs : List Byte) : HomeWork s (strongStore s a p h bs) :=
  (((blur_work ..).trans (homeWrite_work ..)).trans (softHarm_work ..)).trans (recordStrong_work ..)

theorem homeBytes_work (s : State) (a : Word) (p h n : Nat) : HomeWork s (homeBytes s a p h n).2 := by
  unfold homeBytes
  split
  · exact (scramblePool_work ..).trans (drawBytes_work ..)
  · split
    · exact drawBytes_work ..
    · exact .refl s

theorem strongBytes_work (s : State) (a : Word) (p h n : Nat) : HomeWork s (strongBytes s a p h n).2 :=
  (homeBytes_work ..).trans (blur_work ..)

/-! Records and their waiters. -/

theorem recAt_work {s t : State} {c : Nat} {a : Word} {r : RecAt} (h : recAt s c a = some (r, t)) : HomeWork s t := by
  unfold recAt at h
  split at h
  · cases h
  · rename_i hl
    obtain ⟨h', -, heq⟩ := Option.map_eq_some_iff.mp h
    cases heq
    exact leafFor_work hl

theorem recMiss_work (s : State) (c : Nat) (a : Word) : HomeWork s (recMiss s c a) := walk_work ..

theorem recRead_work (s : State) (r : RecAt) (off : Nat) : HomeWork s (recRead s r off).2 := by
  have h := strongBytes_work (touchLine s (r.p / 128) r.h) (r.a + BitVec.ofNat 64 off) (r.p + off) r.h 8
  unfold recRead
  dsimp only
  generalize strongBytes (touchLine s (r.p / 128) r.h) (r.a + BitVec.ofNat 64 off) (r.p + off) r.h 8 = b at h ⊢
  exact ((touchLine_work ..).trans h).trans (recordStrong_work ..)

theorem recWrite_work (s : State) (r : RecAt) (off : Nat) (v : Word) : HomeWork s (recWrite s r off v) :=
  (homeWrite_work ..).trans (recordStrong_work ..)

theorem recHeader_work (s : State) (r : RecAt) : HomeWork s (recHeader s r).2 := recRead_work ..

theorem putHeader_work (s : State) (r : RecAt) (h : Header) : HomeWork s (putHeader s r h) := recWrite_work ..

theorem recOps_work (s : State) (r : RecAt) : HomeWork s (recOps s r).2 := by
  have h1 := recRead_work s r 24
  unfold recOps
  generalize recRead s r 24 = x at h1 ⊢
  have h2 := recRead_work x.2 r 32
  dsimp only
  generalize recRead x.2 r 32 = y at h2 ⊢
  exact (h1.trans h2).trans (recRead_work y.2 r 40)

/-! The lists of records. -/

/-- The work of homes, walkers and record lists: of a slot it changes at most the reply, the link word and the SUSPEND
under way, of a core the walk cache, and memory stays in its form. -/
structure RecordWork (s t : State) : Prop where
  rest : { t with
    mem := s.mem, lines := s.lines, sliceVer := s.sliceVer, freeCtr := s.freeCtr, invals := s.invals, cores := s.cores
    westWalks := s.westWalks, eastWalks := s.eastWalks, regions := s.regions, snaps := s.snaps
    trapsInFlight := s.trapsInFlight, slots := s.slots, evals := s.evals, wakes := s.wakes, refDrops := s.refDrops
    frames := s.frames, records := s.records, doomed := s.doomed } = s
  form : Memory.wf s.mem = true → Memory.wf t.mem = true
  slot : ∀ i, ∃ r l u, t.slot i = { s.slot i with reply := r, link := l, susp := u }
  core : ∀ c, ∃ w, t.core c = { s.core c with walks := w }

/-- Work on record lists that leaves memory, the slots and the cores as they are. -/
theorem RecordWork.light {s t : State} (hm : t.mem = s.mem) (hs : t.slots = s.slots) (hc : t.cores = s.cores)
    (hr : { t with
      mem := s.mem, lines := s.lines, sliceVer := s.sliceVer, freeCtr := s.freeCtr, invals := s.invals, cores := s.cores
      westWalks := s.westWalks, eastWalks := s.eastWalks, regions := s.regions, snaps := s.snaps
      trapsInFlight := s.trapsInFlight, slots := s.slots, evals := s.evals, wakes := s.wakes, refDrops := s.refDrops
      frames := s.frames, records := s.records, doomed := s.doomed } = s) : RecordWork s t where
  rest := hr
  form h := by rwa [hm]
  slot i := ⟨_, _, _, by rw [State.slot, hs]; rfl⟩
  core c := ⟨_, by rw [State.core, hc]; rfl⟩

theorem RecordWork.refl (s : State) : RecordWork s s := .light rfl rfl rfl rfl

theorem RecordWork.trans {s t u : State} (h : RecordWork s t) (h' : RecordWork t u) : RecordWork s u where
  rest := by
    have h1 := h.rest
    rw [← h'.rest] at h1
    exact h1
  form hw := h'.form (h.form hw)
  slot i := by
    obtain ⟨_, _, _, h1⟩ := h.slot i
    obtain ⟨_, _, _, h2⟩ := h'.slot i
    exact ⟨_, _, _, by rw [h2, h1]⟩
  core c := by
    obtain ⟨_, h1⟩ := h.core c
    obtain ⟨_, h2⟩ := h'.core c
    exact ⟨_, by rw [h2, h1]⟩

theorem RecordWork.foldl {α : Type} {f : State → α → State} (h : ∀ s a, RecordWork s (f s a)) (xs : List α) (s : State) :
    RecordWork s (xs.foldl f s) := by
  induction xs generalizing s with
  | nil => exact .refl s
  | cons x xs ih => exact (h s x).trans (ih _)

theorem HomeWork.records {s t : State} (h : HomeWork s t) : RecordWork s t where
  rest := by
    have h1 := congrArg (fun u : State => { u with
      evals := s.evals, wakes := s.wakes, refDrops := s.refDrops, frames := s.frames, records := s.records
      doomed := s.doomed }) h.rest
    exact h1
  form := h.form
  slot i := by
    obtain ⟨_, h1⟩ := h.slot i
    exact ⟨_, _, _, h1⟩
  core := h.core

theorem modEval_work (s : State) (e : Nat) (f : Eval → Eval) : RecordWork s (s.modEval e f) := .light rfl rfl rfl rfl

/-- A slot's reply, link word or SUSPEND under way changed. -/
theorem modSlot_work (s : State) (i : Nat) (f : Slot → Slot) (h : ∃ r l u, f (s.slot i) = { s.slot i with reply := r, link := l, susp := u }) :
    RecordWork s (s.modSlot i f) := by
  refine ⟨rfl, id, fun j => ?_, fun _ => ⟨_, rfl⟩⟩
  by_cases hj : j = i
  · subst hj
    rw [State.slot_modSlot_same]
    exact h
  · exact ⟨_, _, _, State.slot_modSlot_ne _ _ _ _ hj⟩

theorem setLink_work (s : State) (w v : Word) : RecordWork s (setLink s w v) := by
  unfold setLink
  split
  · exact modSlot_work _ _ _ ⟨_, _, _, rfl⟩
  · exact modEval_work ..

theorem waitersOf_work (s : State) (r : RecAt) : HomeWork s (waitersOf s r).2 := recRead_work ..

theorem linkChain_work (s : State) (ws : List Word) : RecordWork s (linkChain s ws) := by
  induction ws generalizing s with
  | nil => exact .refl s
  | cons w ws ih => exact (setLink_work ..).trans (ih _)

theorem joinWaiters_work (s : State) (r : RecAt) (w : Word) : RecordWork s (joinWaiters s r w) := by
  have h := (recRead_work s r 8).records
  unfold joinWaiters
  generalize recRead s r 8 = b at h ⊢
  exact (h.trans (setLink_work ..)).trans (recWrite_work ..).records

theorem leaveWaiters_work (s : State) (r : RecAt) (w : Word) : RecordWork s (leaveWaiters s r w) := by
  have h := (waitersOf_work s r).records
  unfold leaveWaiters
  generalize waitersOf s r = x at h ⊢
  dsimp only
  split
  · exact (h.trans (linkChain_work ..)).trans (recWrite_work ..).records
  · exact h

theorem wakeWaiters_work (s : State) (r : RecAt) (h : Word) (w : WakeEvent) : RecordWork s (wakeWaiters s r h w) := by
  have h' := (waitersOf_work s r).records
  unfold wakeWaiters
  generalize waitersOf s r = x at h' ⊢
  exact (h'.trans (recWrite_work ..).records).trans (.light rfl rfl rfl rfl)

theorem returnFrame_work (s : State) (rg : Nat) (f : Word) : RecordWork s (returnFrame s rg f) := by
  have h0 : RecordWork s { s with frames := s.frames.filter (fun x => x != (rg, f)) } := .light rfl rfl rfl rfl
  unfold returnFrame
  split
  · exact h0.trans (refund_work ..).records
  · exact .refl s

theorem RecordWork.ite {s t u : State} {c : Prop} [Decidable c] (ht : RecordWork s t) (hu : RecordWork s u) :
    RecordWork s (if c then t else u) := by
  split
  · exact ht
  · exact hu

theorem freeRecord_work (s : State) (rg : Nat) (r : RecAt) (hd : Header) : RecordWork s (freeRecord s rg r hd) := by
  have lists : ∀ (t : State) (ds : List Word) (rs : List (Nat × Word)) (ps : List Nat),
      RecordWork t { t with refDrops := ds, records := rs, doomed := ps } := fun _ _ _ _ => .light rfl rfl rfl rfl
  unfold freeRecord
  dsimp only
  refine .trans (.trans (.trans (.trans (.trans (.trans (.trans (.trans (recOps_work s r).records (recRead_work ..).records) (lists _ _ _ _))
    (.ite (refund_work ..).records (.refl _))) (.ite (returnFrame_work ..) (.refl _))) (refund_work ..).records) (lists _ _ _ _))
    (.ite (.refl _) (recWrite_work ..).records)) (putHeader_work ..).records

theorem dropCount_work (s : State) (rg : Nat) (r : RecAt) (hd : Header) : RecordWork s (dropCount s rg r hd) := by
  unfold dropCount
  refine .ite (.refl s) (.ite (freeRecord_work ..) ?_)
  exact (putHeader_work ..).records.trans (.ite (.light rfl rfl rfl rfl) (.refl _))

theorem dropRef_work (s : State) (c : Nat) (x : Word) : RecordWork s (dropRef s c x) := by
  unfold dropRef
  split
  · exact (recMiss_work ..).records
  · rename_i ha
    exact (recAt_work ha).records.trans ((recHeader_work ..).records.trans (.ite (.refl _) (dropCount_work ..)))

theorem dropSusp_work (s : State) (i : Nat) : RecordWork s (dropSusp s i) := by
  have h0 : RecordWork s (s.modSlot i (fun sl => { sl with susp := none })) := modSlot_work _ _ _ ⟨_, _, _, rfl⟩
  unfold dropSusp
  dsimp only
  split
  · exact .refl s
  · split
    · exact h0.trans (refund_work ..).records
    · exact h0.trans (.ite (.refl _) (returnFrame_work ..))
    · exact h0

theorem withdrawThunk_work (s : State) (i : Nat) : RecordWork s (withdrawThunk s i) := by
  have lists : ∀ (t : State) (es : SMap Eval) (ws : List Wake), RecordWork t { t with evals := es, wakes := ws } :=
    fun _ _ _ => .light rfl rfl rfl rfl
  unfold withdrawThunk
  dsimp only
  refine .trans (.trans (.trans (dropSusp_work s i) ?_) (lists _ _ _)) (.foldl (fun t w => ?_) _ _)
  · split
    · split
      · refine .ite ?_ (.refl _)
        split
        · rename_i ha
          exact (recAt_work ha).records.trans (leaveWaiters_work ..)
        · exact (recMiss_work ..).records
      · exact .refl _
    · exact .refl _
  · split
    · exact returnFrame_work ..
    · exact .refl t

end Sys2Proof.Machine
end


section
/-! Task starts and ends (R93, R185, R189, R194). -/

namespace Sys2Proof.Machine

/-! A slot that leaves every reservation queue. -/

theorem grantHead_queue (s : State) (key k : Nat) (q : List Resv) (h : mapGet (grantHead s key).resv k = some q) :
    ∃ q0, mapGet s.resv k = some q0 ∧ q.map Resv.slot = q0.map Resv.slot := by
  unfold grantHead at h
  split at h
  · rename_i r rest hk
    split at h
    · exact ⟨q, h, rfl⟩
    · rw [show (State.modSlot _ _ _).resv = mapPut s.resv key ({ r with held := some s.time } :: rest) from rfl, mapGet_mapPut] at h
      split at h
      · rename_i heq
        cases h
        exact ⟨r :: rest, by rw [heq, hk], rfl⟩
      · exact ⟨q, h, rfl⟩
  · exact ⟨q, h, rfl⟩

theorem map_slot_filter_ne {slot : Nat} {q : List Resv} {r : Resv} (hr : r.slot ∈ (q.filter (fun r => r.slot != slot)).map Resv.slot) :
    r.slot ≠ slot := by
  obtain ⟨x, hx, heq⟩ := List.mem_map.mp hr
  rw [← heq]
  simpa using (List.mem_filter.mp hx).2

/-- After leaving a queue the slot is not in it, and the slots of every other queue are as they were. -/
theorem leaveQueue_queue (s : State) (slot key k : Nat) (q : List Resv) (h : mapGet (leaveQueue s slot key).resv k = some q) :
    (k = key → ∀ r ∈ q, r.slot ≠ slot) ∧ ∃ q0, mapGet s.resv k = some q0 ∧ ∀ r ∈ q, r.slot ∈ q0.map Resv.slot := by
  have same : ∀ q0, mapGet s.resv k = some q0 → q.map Resv.slot = q0.map Resv.slot →
      ∃ q0, mapGet s.resv k = some q0 ∧ ∀ r ∈ q, r.slot ∈ q0.map Resv.slot := fun q0 h0 hm =>
    ⟨q0, h0, fun r hr => hm ▸ List.mem_map_of_mem hr⟩
  unfold leaveQueue at h
  split at h
  · rename_i hk
    refine ⟨fun heq => absurd h ?_, same q h rfl⟩
    rw [heq, hk]
    simp
  · rename_i q1 hk
    split at h
    · rw [show ({ s with resv := mapDel s.resv key } : State).resv = mapDel s.resv key from rfl, mapGet_mapDel] at h
      split at h
      · cases h
      · rename_i hne
        exact ⟨fun heq => absurd heq hne, same q h rfl⟩
    · obtain ⟨q2, h2, hm⟩ := grantHead_queue _ _ _ _ h
      rw [show ({ s with resv := _ } : State).resv = mapPut s.resv key _ from rfl, mapGet_mapPut] at h2
      split at h2
      · rename_i hkey
        cases h2
        have hslot : ∀ r ∈ q, r.slot ∈ (q1.filter (fun r => r.slot != slot)).map Resv.slot := fun r hr =>
          hm ▸ List.mem_map_of_mem hr
        refine ⟨fun _ r hr => map_slot_filter_ne (hslot r hr), q1, by rw [hkey, hk], fun r hr => ?_⟩
        obtain ⟨x, hx, heq⟩ := List.mem_map.mp (hslot r hr)
        exact List.mem_map.mpr ⟨x, (List.mem_filter.mp hx).1, heq⟩
      · rename_i hne
        exact ⟨fun heq => absurd heq hne, same q2 h2 hm⟩

theorem leaveQueues_queue (slot : Nat) (ks : SMap (List Resv)) (s : State) (k : Nat) (q : List Resv)
    (h : mapGet (ks.foldl (fun s e => leaveQueue s slot e.1) s).resv k = some q) :
    ((∃ e ∈ ks, e.1 = k) → ∀ r ∈ q, r.slot ≠ slot) ∧ ∃ q0, mapGet s.resv k = some q0 ∧ ∀ r ∈ q, r.slot ∈ q0.map Resv.slot := by
  induction ks generalizing s with
  | nil => exact ⟨fun ⟨_, he, _⟩ => absurd he (List.not_mem_nil), q, h, fun _ => List.mem_map_of_mem⟩
  | cons e ks ih =>
    obtain ⟨hin, q1, h1, hsub⟩ := ih _ h
    obtain ⟨hout, q0, h0, hsub0⟩ := leaveQueue_queue s slot e.1 k q1 h1
    refine ⟨fun ⟨e', he', hk⟩ r hr => ?_, q0, h0, fun r hr => ?_⟩
    · rcases List.mem_cons.mp he' with heq | hmem
      · obtain ⟨x, hx, hxr⟩ := List.mem_map.mp (hsub r hr)
        exact hxr ▸ hout (heq ▸ hk.symm) x hx
      · exact hin ⟨e', hmem, hk⟩ r hr
    · obtain ⟨x, hx, hxr⟩ := List.mem_map.mp (hsub r hr)
      exact hxr ▸ hsub0 x hx

theorem dropAway_resv (s : State) (slot : Nat) : (dropAway s slot).resv = s.resv := by
  unfold dropAway
  split <;> rfl

/-- A slot that gives up its reservations is in no queue (R167). -/
theorem giveUpReservation_queue (s : State) (slot k : Nat) (q : List Resv)
    (h : mapGet (s.giveUpReservation slot).resv k = some q) : ∀ r ∈ q, r.slot ≠ slot := by
  rw [State.giveUpReservation, dropAway_resv] at h
  obtain ⟨hin, q0, h0, hsub⟩ := leaveQueues_queue slot _ s k q h
  intro r hr heq
  obtain ⟨x, hx, hxr⟩ := List.mem_map.mp (hsub r hr)
  refine hin ⟨(k, q0), List.mem_filter.mpr ⟨mem_of_mapGet h0, List.any_eq_true.mpr ⟨x, hx, ?_⟩⟩, rfl⟩ r hr heq
  rw [hxr, heq, beq_self_eq_true]

/-! The withdrawal of what a slot has on its way. -/

/-- A withdrawal: of a slot it changes at most the reply, the link word, the SUSPEND under way and the reservation mark, of
a core the walk cache and the store buffer. -/
structure Withdrawal (s t : State) : Prop where
  rest : { t with
    mem := s.mem, lines := s.lines, sliceVer := s.sliceVer, freeCtr := s.freeCtr, invals := s.invals, cores := s.cores
    westWalks := s.westWalks, eastWalks := s.eastWalks, regions := s.regions, snaps := s.snaps
    trapsInFlight := s.trapsInFlight, slots := s.slots, evals := s.evals, wakes := s.wakes, refDrops := s.refDrops
    frames := s.frames, records := s.records, doomed := s.doomed, resv := s.resv, outbox := s.outbox, loads := s.loads
    atoms := s.atoms, feSleep := s.feSleep, posts := s.posts, rows := s.rows, refused := s.refused
    flights := s.flights } = s
  form : Memory.wf s.mem = true → Memory.wf t.mem = true
  slot : ∀ i, ∃ r l u a, t.slot i = { s.slot i with reply := r, link := l, susp := u, awayResv := a }
  core : ∀ c, ∃ w b, t.core c = { s.core c with walks := w, sbuf := b }

theorem RecordWork.withdrawal {s t : State} (h : RecordWork s t) : Withdrawal s t where
  rest := by
    have h1 := congrArg (fun u : State => { u with
      resv := s.resv, outbox := s.outbox, loads := s.loads, atoms := s.atoms, feSleep := s.feSleep, posts := s.posts
      rows := s.rows, refused := s.refused, flights := s.flights }) h.rest
    exact h1
  form := h.form
  slot i := by
    obtain ⟨_, _, _, h1⟩ := h.slot i
    exact ⟨_, _, _, _, h1⟩
  core c := by
    obtain ⟨_, h1⟩ := h.core c
    exact ⟨_, _, h1⟩

theorem Withdrawal.trans {s t u : State} (h : Withdrawal s t) (h' : Withdrawal t u) : Withdrawal s u where
  rest := by
    have h1 := h.rest
    rw [← h'.rest] at h1
    exact h1
  form hw := h'.form (h.form hw)
  slot i := by
    obtain ⟨_, _, _, _, h1⟩ := h.slot i
    obtain ⟨_, _, _, _, h2⟩ := h'.slot i
    exact ⟨_, _, _, _, by rw [h2, h1]⟩
  core c := by
    obtain ⟨_, _, h1⟩ := h.core c
    obtain ⟨_, _, h2⟩ := h'.core c
    exact ⟨_, _, by rw [h2, h1]⟩

/-- A withdrawal that changes lists of requests only. -/
theorem Withdrawal.requests (s : State) (out : List Out) (ls : List LoadReq) (as : List AtomReq) (fe : List Nat) (ps : List Post)
    (rs : List DispRow) (rf : List Post) (fl : List Flight) :
    Withdrawal s { s with
      outbox := out, loads := ls, atoms := as, feSleep := fe, posts := ps, rows := rs, refused := rf, flights := fl } :=
  ⟨rfl, id, fun _ => ⟨_, _, _, _, rfl⟩, fun _ => ⟨_, _, rfl⟩⟩

theorem giveUpReservation_withdrawal (s : State) (i : Nat) : Withdrawal s (s.giveUpReservation i) := by
  obtain ⟨hs, hr, -⟩ := giveUpReservation_spec s i
  generalize s.giveUpReservation i = t at hs hr
  refine ⟨?_, fun hw => by rwa [show t.mem = s.mem from (congrArg State.mem hr :)], fun n => ?_, fun c => ⟨(s.core c).walks, (s.core c).sbuf, ?_⟩⟩
  · rw [← hr]
  · obtain ⟨r, h⟩ := hs n
    exact ⟨r, (s.slot n).link, (s.slot n).susp, _, h⟩
  · rw [State.core, show t.cores = s.cores from (congrArg State.cores hr :)]
    rfl

theorem withdrawStore_withdrawal (s : State) (i : Nat) : Withdrawal s (withdrawStore s i) := by
  refine ⟨rfl, id, fun _ => ⟨_, _, _, _, rfl⟩, fun c => ?_⟩
  by_cases hc : c = coreOf i
  · subst hc; exact ⟨_, _, State.core_modCore_same _ _ _⟩
  · exact ⟨_, _, State.core_modCore_ne _ _ _ _ hc⟩

theorem withdrawAway_withdrawal (s : State) (i : Nat) : Withdrawal s (withdrawAway s i) := by
  unfold withdrawAway
  dsimp only
  split
  · exact .requests ..
  · exact (RecordWork.refl s).withdrawal

theorem withdrawLoads_withdrawal (s : State) (i : Nat) : Withdrawal s (withdrawLoads s i) := by
  unfold withdrawLoads
  dsimp only
  split
  · exact (RecordWork.refl s).withdrawal
  · exact .requests ..

theorem withdrawSlot_withdrawal (s : State) (i : Nat) : Withdrawal s (withdrawSlot s i) :=
  ((((giveUpReservation_withdrawal s i).trans (withdrawThunk_work ..).withdrawal).trans (withdrawStore_withdrawal ..)).trans
    (withdrawAway_withdrawal ..)).trans ((withdrawLoads_withdrawal ..).trans (.requests ..))

theorem withdrawAway_rest (s : State) (i : Nat) : { withdrawAway s i with outbox := s.outbox } = s := by
  unfold withdrawAway
  dsimp only
  split <;> rfl

theorem withdrawLoads_rest (s : State) (i : Nat) : { withdrawLoads s i with outbox := s.outbox, loads := s.loads } = s := by
  unfold withdrawLoads
  dsimp only
  split <;> rfl

/-- What a withdrawal leaves of everything but requests is what the record lists' part leaves. -/
theorem withdrawSlot_thunk (s : State) (i : Nat) :
    (withdrawSlot s i).resv = (withdrawThunk (s.giveUpReservation i) i).resv ∧
    (withdrawSlot s i).regions = (withdrawThunk (s.giveUpReservation i) i).regions ∧
    (withdrawSlot s i).mem = (withdrawThunk (s.giveUpReservation i) i).mem := by
  unfold withdrawSlot
  generalize withdrawThunk (s.giveUpReservation i) i = t
  have ha := withdrawAway_rest (withdrawStore t i) i
  generalize withdrawAway (withdrawStore t i) i = u at ha
  have hl := withdrawLoads_rest u i
  generalize withdrawLoads u i = v at hl
  refine ⟨?_, ?_, ?_⟩
  · exact (congrArg State.resv hl :).trans (congrArg State.resv ha :)
  · exact (congrArg State.regions hl :).trans (congrArg State.regions ha :)
  · exact (congrArg State.mem hl :).trans (congrArg State.mem ha :)

theorem withdrawSlot_queue (s : State) (i k : Nat) (q : List Resv) (h : mapGet (withdrawSlot s i).resv k = some q) :
    ∀ r ∈ q, r.slot ≠ i := by
  rw [(withdrawSlot_thunk s i).1, show (withdrawThunk (s.giveUpReservation i) i).resv = (s.giveUpReservation i).resv from
    (congrArg State.resv (withdrawThunk_work (s.giveUpReservation i) i).rest :)] at h
  exact giveUpReservation_queue s i k q h

/-- A slot that is ready and has no SUSPEND under way has nothing at records, where no wake or evaluation is about. -/
theorem withdrawThunk_idle {s : State} {i : Nat} (hu : (s.slot i).susp = none) (hst : (s.slot i).status = .ready)
    (hw : s.wakes = []) (he : s.evals = []) : withdrawThunk s i = s := by
  have hd : dropSusp s i = s := by rw [dropSusp, hu]
  rw [withdrawThunk, hd]
  dsimp only
  rw [hst, hw, he]
  simp only [List.filter_nil, List.map_nil, List.foldl_nil]
  rw [← he, ← hw]

/-! The end of a task. -/

/-- The slot of a task that has ended. -/
def endedSlot (sl : Slot) : Slot :=
  { clearProgress sl with
    status := .noTask, awayResv := false, streams := [], bardHeld := [], bardRound := 0, bardNoted := [], bardFault := none,
    bardEpisode := 0, fetch := none }

theorem sendHeld_rest (s : State) (sl : Slot) : { sendHeld s sl with trapsInFlight := s.trapsInFlight } = s := by
  unfold sendHeld
  split <;> rfl

theorem slot_congr {s t : State} (h : t.slots = s.slots) (i : Nat) : t.slot i = s.slot i := by rw [State.slot, h]; rfl

theorem core_congr {s t : State} (h : t.cores = s.cores) (c : Nat) : t.core c = s.core c := by rw [State.core, h]; rfl

theorem region_congr {s t : State} (h : t.regions = s.regions) (r : Nat) : t.region r = s.region r := by
  rw [State.region, h]; rfl

/-- A refund changes a region and its block, and nothing else. -/
theorem refund_rest (s : State) (r : Nat) (xs : List (BudgetName × Nat)) :
    { refund s r xs with mem := s.mem, lines := s.lines, sliceVer := s.sliceVer, regions := s.regions } = s :=
  (putRegion_spec s r _).2.1

/-- The state of an ended task before the region's count goes down: `u` is the state of the withdrawal. -/
def uncounted (u : State) (sl : Slot) (i : Nat) : State :=
  (u.modCore (coreOf i) (fun k => { k with
    inbox := k.inbox.filter (fun e => e.slot != i)
    held := k.held.filter (fun h => !(h.entry.slot == i && h.ctx == sl.ctx)) })).setSlot i (endedSlot sl)

theorem endTask_of_task {s : State} {i : Nat} (h : (s.slot i).status ≠ .noTask) :
    endTask s i = refund (uncounted (withdrawSlot (sendHeld s (s.slot i)) i) (s.slot i) i) (s.slot i).region [(.slots, 1)] := by
  unfold endTask
  dsimp only
  split
  · rename_i h0; exact absurd h0 h
  · rfl

theorem counted_inbox (u : State) (sl : Slot) (i r : Nat) (xs : List (BudgetName × Nat)) :
    ((refund (uncounted u sl i) r xs).core (coreOf i)).inbox = (u.core (coreOf i)).inbox.filter (fun e => e.slot != i) := by
  have hr := refund_rest (uncounted u sl i) r xs
  generalize refund (uncounted u sl i) r xs = t at hr
  have hc : t.cores = (uncounted u sl i).cores := (congrArg State.cores hr :)
  rw [core_congr hc]
  exact congrArg Core.inbox (State.core_modCore_same u (coreOf i) fun k => { k with
    inbox := k.inbox.filter (fun e => e.slot != i), held := k.held.filter (fun h => !(h.entry.slot == i && h.ctx == sl.ctx)) })

theorem counted_slot (u : State) (sl : Slot) (i r : Nat) (xs : List (BudgetName × Nat)) :
    (refund (uncounted u sl i) r xs).slot i = endedSlot sl := by
  have hr := refund_rest (uncounted u sl i) r xs
  generalize refund (uncounted u sl i) r xs = t at hr
  have hs : t.slots = (uncounted u sl i).slots := (congrArg State.slots hr :)
  rw [slot_congr hs]
  exact State.slot_setSlot_same ..

theorem counted_same (u : State) (sl : Slot) (i r : Nat) (xs : List (BudgetName × Nat)) :
    (refund (uncounted u sl i) r xs).cur = u.cur ∧ (refund (uncounted u sl i) r xs).resv = u.resv := by
  have hr := refund_rest (uncounted u sl i) r xs
  generalize refund (uncounted u sl i) r xs = t at hr
  exact ⟨(congrArg State.cur hr :), (congrArg State.resv hr :)⟩

theorem counted_region (u : State) (sl : Slot) (i r : Nat) :
    ((refund (uncounted u sl i) r [(.slots, 1)]).region r).budgets[(0 : Fin 5)].count =
      (u.region r).budgets[(0 : Fin 5)].count - 1 := by
  rw [refund, State.modRegion, (putRegion_spec ..).1, if_pos rfl]
  simp [subCounts, budgetIdx, uncounted]

theorem counted_mem (u : State) (sl : Slot) (i r : Nat) (h : (u.region r).phys = none) :
    (refund (uncounted u sl i) r [(.slots, 1)]).mem = u.mem := by
  rw [refund, State.modRegion, putRegion]
  simp only [subCounts]
  rw [show (uncounted u sl i).region r = u.region r from rfl, h]
  rfl

section
variable {s : State} {i : Nat} (h : (s.slot i).status ≠ .noTask)
include h

theorem endTask_slot : (endTask s i).slot i = endedSlot (s.slot i) := by
  rw [endTask_of_task h, counted_slot]

theorem endTask_cur : (endTask s i).cur = s.cur := by
  have hw := (withdrawSlot_withdrawal (sendHeld s (s.slot i)) i).rest
  have hh := sendHeld_rest s (s.slot i)
  rw [endTask_of_task h, (counted_same ..).1]
  generalize withdrawSlot (sendHeld s (s.slot i)) i = u at hw
  generalize sendHeld s (s.slot i) = v at hw hh
  exact (congrArg State.cur hw :).trans (congrArg State.cur hh :)

theorem endTask_inbox : ∀ e ∈ ((endTask s i).core (coreOf i)).inbox, e.slot ≠ i := by
  rw [endTask_of_task h, counted_inbox]
  intro e he
  simpa using (List.mem_filter.mp he).2

theorem endTask_queue (k : Nat) (q : List Resv) (hq : mapGet (endTask s i).resv k = some q) : ∀ r ∈ q, r.slot ≠ i := by
  rw [endTask_of_task h, (counted_same ..).2] at hq
  exact withdrawSlot_queue _ i k q hq

/-- An idle end: the region's count goes down by one and nothing else of it, and no byte is written but its block's. -/
theorem endTask_idle (hst : (s.slot i).status = .ready) (hu : (s.slot i).susp = none) (hw : s.wakes = []) (he : s.evals = [])
    (hres : s.resv = []) :
    ((endTask s i).region (s.slot i).region).budgets[(0 : Fin 5)].count =
        (s.region (s.slot i).region).budgets[(0 : Fin 5)].count - 1 ∧
      ((s.region (s.slot i).region).phys = none → (endTask s i).mem = s.mem) := by
  have hheld : sendHeld s (s.slot i) = s := by rw [sendHeld, hst]
  obtain ⟨hsl, hrest, -⟩ := giveUpReservation_spec s i
  have hslot : (s.giveUpReservation i).slot i = { s.slot i with awayResv := false } := by
    rw [show s.giveUpReservation i = dropAway s i by rw [State.giveUpReservation, hres]; rfl, dropAway]
    split
    · exact State.slot_modSlot_same s i (fun sl => { sl with awayResv := false })
    · rename_i ha
      rw [Bool.not_eq_true] at ha
      rw [← ha]
  obtain ⟨-, hreg, hmem⟩ := withdrawSlot_thunk s i
  have hidle : withdrawThunk (s.giveUpReservation i) i = s.giveUpReservation i := by
    refine withdrawThunk_idle ?_ ?_ ((congrArg State.wakes hrest :).trans hw) ((congrArg State.evals hrest :).trans he)
    · rw [hslot]; exact hu
    · rw [hslot]; exact hst
  rw [hidle] at hreg hmem
  have hregs : (withdrawSlot s i).regions = s.regions := hreg.trans (congrArg State.regions hrest :)
  rw [endTask_of_task h, hheld]
  refine ⟨?_, fun hp => ?_⟩
  · rw [counted_region, region_congr hregs]
  · rw [counted_mem _ _ _ _ (by rw [region_congr hregs]; exact hp), hmem]
    exact (congrArg State.mem hrest :)

end

/-! Task starts. -/

theorem reg_payloadRegs {payload : List Byte} {sl : Slot} (hg : sl.g = payloadRegs payload) (r : Reg) :
    sl.reg r = if 1 ≤ r.toNat ∧ r.toNat ≤ 8 then wordOf ((payload.drop (8 * (r.toNat - 1))).take 8) else 0 := by
  have hr0 : r = 0 ↔ r.toNat = 0 := by rw [← BitVec.toNat_inj]; rfl
  unfold Slot.reg
  by_cases h : r = 0
  · have h1 : ¬ 1 ≤ r.toNat := by rw [hr0] at h; omega
    rw [if_pos h, if_neg fun hc => h1 hc.1]
  · simp only [hg, payloadRegs, Vector.getElem_ofFn, if_neg h, w64At]

/-- The slot of a task that starts. -/
def startedSlot (s : State) (i region : Nat) (pc : Word) (payload : List Byte) : Slot :=
  { Slot.idle with
    g := payloadRegs payload, pc, region, rcb := (s.region region).addr, ctx := (s.region region).ctx
    gen := (s.slot i).gen + 1, link := (s.slot i).link, status := .ready }

theorem startTask_slot (s : State) (i region : Nat) (pc : Word) (payload : List Byte) :
    (startTask s i region pc payload).slot i = startedSlot s i region pc payload := by
  unfold startTask
  dsimp only
  rw [expireAll_slot, State.slot_setSlot_same, if_pos rfl]
  rfl

theorem startTask_slot_ne (s : State) (i region : Nat) (pc : Word) (payload : List Byte) {n : Nat} (h : n ≠ i) :
    ((startTask s i region pc payload).slot n).g = (s.slot n).g := by
  unfold startTask
  dsimp only
  rw [expireAll_slot, State.slot_setSlot_ne _ _ _ _ h]

/-- Settles O35: the registers and marks of a start, and what EXIT leaves of a task. -/
theorem taskStartsAndEnds : Obligations.TaskStartsAndEnds := by
  unfold Obligations.TaskStartsAndEnds
  refine ⟨fun s i region pc payload => ?_, fun s h => ?_⟩
  · have hs := startTask_slot s i region pc payload
    refine ⟨reg_payloadRegs (by rw [hs]; rfl), ?_, ?_, ?_, ?_, ?_, ?_, ?_, ?_, ?_, ?_, ?_, fun n hn => startTask_slot_ne s i region pc payload hn,
      rfl, expireAll_cache _ _⟩
    all_goals rw [hs]; rfl
  · refine ⟨endTask s s.cur, rfl, ?_, ?_, ?_, endTask_inbox h, endTask_queue h, ?_, fun hres hu hw he hst => endTask_idle h hst hu hw he hres⟩
    all_goals rw [State.me, endTask_cur h, endTask_slot h]; rfl

end Sys2Proof.Machine
end


section
/-! MIGRATE: a thread leaves and arrives (R189, R195). -/

namespace Sys2Proof.Machine

/-- The slot that a thread comes to. -/
def movedSlot (sl : Slot) (gen : Byte) (link : Word) (pc : Word) (gd : Option Reg) : Slot :=
  { clearProgress sl with
    pc, gen, fetch := none, link, status := .waiting .reply, awayResv := false
    batchId := 0, batchPending := 0, batches := [], wpSkip := sl.wpSkip && gd.isNone }

/-- The slot that a thread has left. -/
def leftSlot (sl : Slot) : Slot :=
  { clearProgress sl with
    status := .noTask, bardHeld := [], bardRound := 0, bardNoted := [], bardFault := none, fetch := none }

/-- A move is a withdrawal, which changes no slot's registers, then the two slots written and the thread on its way. -/
theorem moveThread_eq (s : State) (src dst : Nat) (pc : Word) (gd : Option Reg) (st : Status) :
    ∃ v : State, moveThread s src dst pc gd st =
      { (v.setSlot dst (movedSlot (s.slot src) ((s.slot dst).gen + 1) (v.slot dst).link pc gd)).modSlot src leftSlot with
        flights := v.flights ++ [.thread src dst gd st] } := by
  unfold moveThread
  generalize withdrawSlot s src = u
  exact ⟨_, rfl⟩

theorem moveThread_flights (s : State) (src dst : Nat) (pc : Word) (gd : Option Reg) (st : Status) :
    ∃ fs, (moveThread s src dst pc gd st).flights = fs ++ [.thread src dst gd st] := by
  obtain ⟨v, hv⟩ := moveThread_eq s src dst pc gd st
  exact ⟨v.flights, by rw [hv]⟩

/-- The thread stands in its new slot. -/
theorem moveThread_dst (s : State) {src dst : Nat} (pc : Word) (gd : Option Reg) (st : Status) (h : dst ≠ src) :
    ∃ l, (moveThread s src dst pc gd st).slot dst = movedSlot (s.slot src) ((s.slot dst).gen + 1) l pc gd := by
  obtain ⟨v, hv⟩ := moveThread_eq s src dst pc gd st
  rw [hv]
  exact ⟨_, (State.slot_modSlot_ne _ src dst leftSlot h).trans (State.slot_setSlot_same ..)⟩

theorem moveThread_src (s : State) (src dst : Nat) (pc : Word) (gd : Option Reg) (st : Status) :
    ((moveThread s src dst pc gd st).slot src).status = .noTask := by
  obtain ⟨v, hv⟩ := moveThread_eq s src dst pc gd st
  rw [hv]
  exact congrArg Slot.status (State.slot_modSlot_same _ src leftSlot)

theorem giveUpReservation_cur (s : State) (i : Nat) : (s.giveUpReservation i).cur = s.cur :=
  (congrArg State.cur (giveUpReservation_spec s i).2.1 :)

theorem giveUpReservation_g (s : State) (i n : Nat) : ((s.giveUpReservation i).slot n).g = (s.slot n).g := by
  obtain ⟨r, h⟩ := (giveUpReservation_spec s i).1 n
  rw [h]

section
variable {s s1 : State} {gd ga : Reg} {d : Word} (hr : readG s ga = .ok d s1) (hd : checkDest s1 d = .ok () s1)
include hr hd

theorem exec_migrate_stays {t : State} (h : isHere s1 (destDev d) = false ∨ destCore d = s1.myCore)
    (hw : writeG s1 gd 3 = .ok () t) : exec (.migrate gd ga) s = .next (t.retire 4) := by
  show execMigrate gd ga s = _
  have hc : (!(isHere s1 (destDev d)) || destCore d == s1.myCore) = true := by
    rcases h with h | h <;> simp [h]
  simp only [execMigrate, hr, hd, Eff.andThen_ok, hc, if_true]
  exact conclude_writeDone s hw

variable (hh : isHere s1 (destDev d) = true) (hc : destCore d ≠ s1.myCore)
include hh hc

theorem exec_migrate_bound {t : State} (hst : s1.me.streams ≠ []) (hw : writeG s1 gd 2 = .ok () t) :
    exec (.migrate gd ga) s = .next (t.retire 4) := by
  show execMigrate gd ga s = _
  simp only [execMigrate, hr, hd, Eff.andThen_ok, hh, hc, if_pos hst, Bool.not_true, Bool.false_or, beq_iff_eq, if_false]
  exact conclude_writeDone s hw

variable (hst : s1.me.streams = []) (htile : hasTile s1 s1.cur = false) (hbuf : (s1.core s1.myCore).sbuf = [])
include hst htile hbuf

theorem exec_migrate_free : exec (.migrate gd ga) s = conclude s (
    match freeSlot (s1.giveUpReservation s1.cur) (destCore d) with
    | none => writeDone (s1.giveUpReservation s1.cur) gd 1
    | some dst => .ok () (moveThread (s1.giveUpReservation s1.cur) (s1.giveUpReservation s1.cur).cur dst
        ((s1.giveUpReservation s1.cur).me.pc + 4) (some gd) .ready)) := by
  show execMigrate gd ga s = _
  simp only [execMigrate, hr, hd, Eff.andThen_ok, hh, hc, hst, htile, hbuf, List.any_nil, Bool.not_true, Bool.false_or,
    beq_iff_eq, if_false, Bool.or_self, ne_eq, not_true_eq_false, Bool.false_eq_true] <;> rfl

theorem exec_migrate_moves {dst : Nat} (hf : freeSlot (s1.giveUpReservation s1.cur) (destCore d) = some dst) :
    exec (.migrate gd ga) s = .next (moveThread (s1.giveUpReservation s1.cur) s1.cur dst
        ((s1.giveUpReservation s1.cur).me.pc + 4) (some gd) .ready) := by
  rw [exec_migrate_free hr hd hh hc hst htile hbuf, hf, giveUpReservation_cur]
  rfl

end

/-- The arrival of a thread. -/
theorem exec_migrateTransfer {s : State} {src dst : Nat} {r : Reg} (h : s.flights = [.thread src dst (some r) .ready]) :
    exec (.migrateTransfer 0) s = .next ((expireAll { s with flights := [] } (coreOf dst)).modSlot dst
      (fun sl => ({ sl with status := .ready } : Slot).setReg r 0)) := by
  show execMigrateTransfer 0 s = _
  rw [execMigrateTransfer, h]
  rfl

@[simp] theorem Slot.setReg_status (sl : Slot) (r : Reg) (v : Word) : (sl.setReg r v).status = sl.status := by
  unfold Slot.setReg; split <;> rfl

theorem Slot.reg_setReg_zero (sl : Slot) (r x : Reg) : (sl.setReg r 0).reg x = if x = r then 0 else sl.reg x := by
  split
  · rename_i h
    subst h
    rw [Slot.reg_setReg_same, ite_self]
  · rename_i h
    exact Slot.reg_setReg_ne _ _ h

/-- Settles O36: MIGRATE's answers in order, and both ends of a move. -/
theorem migration : Obligations.Migration := by
  unfold Obligations.Migration
  refine ⟨fun s s1 t gd ga d hr hd => ⟨exec_migrate_stays hr hd, fun hh hc => ⟨exec_migrate_bound hr hd hh hc,
    fun hst htile hbuf => ⟨fun hf hw => ?full, fun dst hf hne => ⟨_, exec_migrate_moves hr hd hh hc hst htile hbuf hf, ?moves⟩⟩⟩⟩,
    fun s src dst r h => ⟨_, exec_migrateTransfer h, rfl, ?arrives⟩⟩
  case full =>
    rw [exec_migrate_free hr hd hh hc hst htile hbuf, hf]
    exact conclude_writeDone s hw
  case moves =>
    obtain ⟨l, hdst⟩ := moveThread_dst (s1.giveUpReservation s1.cur) ((s1.giveUpReservation s1.cur).me.pc + 4) (some gd) .ready hne
    refine ⟨moveThread_flights .., moveThread_src .., ?_, ?_, ?_⟩ <;> rw [hdst]
    · exact giveUpReservation_g ..
    · rfl
    · rfl
  case arrives =>
    rw [State.slot_modSlot_same, expireAll_slot]
    refine ⟨?_, fun x => ?_, rfl, expireAll_cache _ _⟩
    · rw [Slot.setReg_status]
    · rw [Slot.reg_setReg_zero]
      rfl

end Sys2Proof.Machine
end


section
/-! The events of messages, tasks and spawns (R182, R185, R189, R190, R193, R197). -/

namespace Sys2Proof.Machine

/-! Delivery. -/

theorem deliver_ready {s : State} {m : InboxMsg} (hst : (s.slot m.slot).status = .ready) (hg : (s.slot m.slot).gen = m.gen)
    (hc : (s.slot m.slot).ctx = m.ctx) : deliver s m =
      s.modCore (coreOf m.slot) (fun k => { k with inbox := k.inbox ++ [⟨m.slot, dataHeader m, m.payload⟩] }) := by
  simp [deliver, hst, hg, hc]

theorem deliver_noTask {s : State} {m : InboxMsg} (hst : (s.slot m.slot).status = .noTask) : deliver s m = s := by
  simp [deliver, hst]

theorem inbox_append (s : State) (c : Nat) (e : InboxEntry) :
    ((s.modCore c (fun k => { k with inbox := k.inbox ++ [e] })).core c).inbox = (s.core c).inbox ++ [e] :=
  congrArg Core.inbox (State.core_modCore_same s c fun k => { k with inbox := k.inbox ++ [e] })

section
variable {s : State} {m : InboxMsg} (hw : messageWaits s m = false)
include hw

theorem exec_messageArrival_mine {src : Nat} (hf : s.flights = [.inbox m src]) :
    exec (.messageArrival (.mine 0)) s = .next (deliver { s with flights := [] } m) := by
  have he : earlierOnWay s 0 m = false := rfl
  show execMessageArrival (.mine 0) s = _
  simp only [execMessageArrival, hf, List.getElem?_cons_zero, hw, he, Bool.or_self, Bool.false_eq_true, if_false]
  rfl

theorem exec_messageArrival_outside (he : earlierOnWay s s.flights.length m = false) :
    exec (.messageArrival (.outside m)) s = .next (deliver s m) := by
  show execMessageArrival (.outside m) s = _
  simp only [execMessageArrival, hw, he, Bool.or_self, Bool.false_eq_true, if_false]

end

section
variable {s : State} {c : Nat} {e : Held} {rest : List Held} (h : (s.core c).held = e :: rest)
include h

theorem exec_completionMessagePlace_placed (hf : heldFor s e = true) (hroom : shareUsed s (coreOf e.entry.slot) true < 32) :
    exec (.completionMessagePlace c) s = .next ((s.modCore c (fun k => { k with held := rest })).modCore (coreOf e.entry.slot)
      (fun k => { k with inbox := k.inbox ++ [e.entry] })) := by
  show execCompletionMessagePlace c s = _
  simp only [execCompletionMessagePlace, h, hf, hroom, Bool.not_true, Bool.false_eq_true, if_false, if_true]

theorem exec_completionMessagePlace_dropped (hf : heldFor s e = false) :
    exec (.completionMessagePlace c) s = .next (s.modCore c (fun k => { k with held := rest })) := by
  show execCompletionMessagePlace c s = _
  simp only [execCompletionMessagePlace, h, hf, Bool.not_false, if_true]

end

theorem modCore_core (s : State) (c d : Nat) (f : Core → Core) :
    (s.modCore c f).core d = if d = c then f (s.core c) else s.core d := by
  split
  · rename_i h
    rw [h, State.core_modCore_same]
  · rename_i h
    exact State.core_modCore_ne _ _ _ _ h

/-! Tasks and spawns. -/

theorem taskFits_iff (s : State) (m : TaskMsg) : taskFits s m = true ↔
    m.ctx = residentCtx s m.core ∧ isLive s m.region = true ∧ clusterOf s m.core ∉ s.halted := by
  simp [taskFits, and_assoc]

theorem tryTask_some {s s1 : State} {m : TaskMsg} {i : Nat} (hfit : taskFits s m = true) (hfree : freeSlot s m.core = some i)
    (hc : charge s m.region [(.slots, 1)] = some s1) : tryTask s m = some (startTask s1 i m.region m.pc m.payload) := by
  rw [tryTask, if_pos hfit, hfree, hc]

/-- Whether a slot is free does not depend on what is on its way, threads apart. -/
theorem freeSlot_task {s : State} {m : TaskMsg} {src : Nat} (hf : s.flights = [.task m src]) (core : Nat) :
    freeSlot { s with flights := [] } core = freeSlot s core := by
  have h : (fun i => slotFree { s with flights := [] } i) = fun i => slotFree s i := by
    funext i
    have h1 : leaving { s with flights := [] } i = leaving s i := by rw [leaving, leaving, hf]; rfl
    rw [slotFree, slotFree, h1]
    rfl
  rw [freeSlot, freeSlot, h]

section
variable {s s1 : State} {m : TaskMsg} {i : Nat} (hctx : m.ctx = residentCtx s m.core) (hlive : isLive s m.region = true)
  (hhalt : s.halted = []) (hfree : freeSlot s m.core = some i)
include hctx hlive hhalt hfree

theorem tryTask_arrives {src : Nat} (hf : s.flights = [.task m src])
    (hc : charge { s with flights := [] } m.region [(.slots, 1)] = some s1) :
    tryTask { s with flights := [] } m = some (startTask s1 i m.region m.pc m.payload) :=
  tryTask_some ((taskFits_iff ..).mpr ⟨hctx, hlive, by rw [show ({ s with flights := [] } : State).halted = [] from hhalt]; simp⟩)
    ((freeSlot_task hf _).trans hfree) hc

theorem exec_taskStart_mine {src : Nat} (hf : s.flights = [.task m src])
    (hc : charge { s with flights := [] } m.region [(.slots, 1)] = some s1) :
    exec (.taskStart (.mine 0)) s = .next (startTask s1 i m.region m.pc m.payload) := by
  have he : earlierTask s 0 src m = false := rfl
  show execTaskStart (.mine 0) s = _
  simp only [execTaskStart, hf, List.getElem?_cons_zero, he, Bool.false_eq_true, if_false]
  rw [show dropAt [Flight.task m src] 0 = [] from rfl, tryTask_arrives hctx hlive hhalt hfree hf hc]
  rfl

theorem exec_taskBudgetRetest {src : Nat} (hf : s.flights = [.task m src])
    (hc : charge { s with flights := [] } m.region [(.slots, 1)] = some s1)
    (hfits : chargeFits (s.region m.region) [(.slots, 1)] = true) :
    exec (.taskBudgetRetest 0) s = .next (startTask s1 i m.region m.pc m.payload) := by
  have he : earlierTask s 0 src m = false := rfl
  show execTaskBudgetRetest 0 s = _
  simp only [execTaskBudgetRetest, hf, List.getElem?_cons_zero, he, hfits, Bool.not_false, Bool.and_self, if_true]
  rw [show dropAt [Flight.task m src] 0 = [] from rfl, tryTask_arrives hctx hlive hhalt hfree hf hc]
  rfl

theorem exec_taskStart_outside (hc : charge s m.region [(.slots, 1)] = some s1) :
    exec (.taskStart (.outside m)) s = .next (startTask s1 i m.region m.pc m.payload) := by
  show execTaskStart (.outside m) s = _
  rw [execTaskStart, tryTask_some ((taskFits_iff ..).mpr ⟨hctx, hlive, by rw [hhalt]; simp⟩) hfree hc]
  rfl

end

section
variable {s : State} {m : TaskMsg} {src : Nat} (hf : s.flights = [.spawn m src])
include hf

theorem freeSlot_spawn (core : Nat) : freeSlot { s with flights := [] } core = freeSlot s core := by
  have h : (fun i => slotFree { s with flights := [] } i) = fun i => slotFree s i := by
    funext i
    have h1 : leaving { s with flights := [] } i = leaving s i := by rw [leaving, leaving, hf]; rfl
    rw [slotFree, slotFree, h1]
    rfl
  rw [freeSlot, freeSlot, h]

theorem exec_spawnRequestArrival : exec (.spawnRequestArrival 0) s = .next (
    match charge { s with flights := [] } m.region [(.slots, 1)] with
    | none => { s with flights := [.spawned src 2] }
    | some s1 =>
      match freeSlot s m.core, taskFits s m with
      | none, _ | _, false => { s with flights := [.spawned src 1] }
      | some k, true =>
        let t := startTask s1 k m.region m.pc m.payload
        { t with flights := t.flights ++ [.spawned src 0] }) := by
  show execSpawnRequestArrival 0 s = _
  simp only [execSpawnRequestArrival, hf, List.getElem?_cons_zero]
  rw [show dropAt [Flight.spawn m src] 0 = [] from rfl, freeSlot_spawn hf] <;> rfl

end

theorem awaits_of_status {s : State} {i : Nat} (h : (s.slot i).status = .waiting .reply) : awaits s i = true := by
  rw [awaits, h]; rfl

theorem exec_spawnAnswerArrival {s : State} {src st : Nat} (hf : s.flights = [.spawned src st])
    (hst : (s.slot src).status = .waiting .reply) :
    exec (.spawnAnswerArrival 0) s = .next (answer { s with flights := [] } src (.val (BitVec.ofNat 64 st))) := by
  show execSpawnAnswerArrival 0 s = _
  simp only [execSpawnAnswerArrival, hf, List.getElem?_cons_zero]
  rw [show dropAt [Flight.spawned src st] 0 = [] from rfl, if_pos (awaits_of_status (s := { s with flights := [] }) hst)]

theorem exec_yieldTimeout {s : State} {slot : Nat} {z : Sleep} {u : Word} (hst : (s.slot slot).status = .asleep z)
    (hk : z.kind = .yield u) (hu : u.toNat ≤ s.time.toNat) : exec (.yieldTimeout slot) s = .next (resume s slot) := by
  show execYieldTimeout slot s = _
  simp only [execYieldTimeout, hst, hk]
  rw [if_pos]
  simpa [State.reached] using hu

/-! Hot cores. -/

section
variable {s : State} {c : Nat} (hhot : (s.core c).hot = true) (hlast : (s.core c).lastDisp = none)
include hhot hlast

theorem exec_thermalDisplacement_none (h : ∀ i, eligible s i = false) :
    exec (.thermalDisplacement c) s = .next (s.modCore c (fun k => { k with throttled := true })) := by
  have hn : ((List.range 8).map (fun i => 8 * c + i)).find? (fun i => eligible s i) = none :=
    List.find?_eq_none.mpr fun i _ => by rw [h i]; decide
  show execThermalDisplacement c s = _
  simp only [execThermalDisplacement, hhot, hlast, hn, Bool.and_self, if_true]

theorem exec_thermalDisplacement_some {i dst : Nat}
    (hi : ((List.range 8).map (fun n => 8 * c + n)).find? (fun n => eligible s n) = some i) (hd : coolTarget s c = some dst) :
    exec (.thermalDisplacement c) s = .next (if canLeave s i = true then
      (moveThread s i dst (s.slot i).pc none (displacedStatus (s.slot i))).modCore c (fun k => { k with lastDisp := some s.time })
      else s) := by
  show execThermalDisplacement c s = _
  simp only [execThermalDisplacement, hhot, hlast, hi, hd, Bool.and_self, if_true]

end

/-- Settles O37: each event by the state it finds. -/
theorem messageEvents : Obligations.MessageEvents := by
  unfold Obligations.MessageEvents
  refine ⟨fun s m src hw => ⟨fun hst hg hc => ⟨fun hf => ?mine, fun he => ?outside⟩, fun hst hf => ?discarded⟩,
    fun s c e rest h => ⟨fun hf hroom => ?placed, fun hf => ?dropped⟩,
    fun s s1 m src i hctx hlive hhalt hfree hf hc => ⟨exec_taskStart_mine hctx hlive hhalt hfree hf hc,
      exec_taskBudgetRetest hctx hlive hhalt hfree hf hc⟩,
    fun s s1 m i hctx hlive hhalt hfree hc => exec_taskStart_outside hctx hlive hhalt hfree hc,
    fun s m src hf => ⟨fun hc => ?overBudget, fun s1 hc hn => ?noSlot, fun s1 k hc hk hfit => ?starts⟩,
    fun s src st hf hst => ?answered, fun s slot z u hst hk hu => ?yields, fun s c hot => ?hot,
    fun s c hhot hlast => ⟨fun h => ?throttled, fun i dst hi hd hne => ⟨fun hl => ?stays, fun hl => ?leaves⟩⟩⟩
  case mine =>
    rw [exec_messageArrival_mine hw hf, deliver_ready (s := { s with flights := [] }) hst hg hc]
    exact ⟨_, rfl, rfl, inbox_append ..⟩
  case outside =>
    rw [exec_messageArrival_outside hw he, deliver_ready hst hg hc]
    exact ⟨_, rfl, inbox_append ..⟩
  case discarded =>
    rw [exec_messageArrival_mine hw hf, deliver_noTask (s := { s with flights := [] }) hst]
  case placed =>
    refine ⟨_, exec_completionMessagePlace_placed h hf hroom, ?_, ?_⟩
    · rw [modCore_core]
      split
      · rename_i heq
        rw [← heq, State.core_modCore_same]
      · rw [State.core_modCore_same]
    · rw [inbox_append, modCore_core]
      split
      · rename_i heq
        rw [heq]
      · rfl
  case dropped =>
    refine ⟨_, exec_completionMessagePlace_dropped h hf, ?_, ?_⟩ <;> rw [State.core_modCore_same]
  case overBudget => rw [exec_spawnRequestArrival hf, hc]
  case noSlot =>
    rw [exec_spawnRequestArrival hf, hc]
    rcases hn with hn | hn
    · rw [hn]
    · rw [hn]
      cases freeSlot s m.core <;> rfl
  case starts =>
    rw [exec_spawnRequestArrival hf, hc, hk, hfit]
    exact ⟨_, rfl, ⟨_, rfl⟩, rfl⟩
  case answered =>
    refine ⟨_, exec_spawnAnswerArrival hf hst, rfl, ?_, ?_⟩ <;> rw [answer_slot_same]
  case yields =>
    refine ⟨_, exec_yieldTimeout hst hk hu, ?_, rfl⟩
    rw [resume_slot_same]
  case hot =>
    refine ⟨_, rfl, ?_, fun h => ?_, fun d hd => State.core_modCore_ne _ _ _ _ hd, rfl⟩ <;> rw [State.core_modCore_same]
    rw [h, Bool.and_false]
  case throttled =>
    refine ⟨_, exec_thermalDisplacement_none hhot hlast h, ?_, rfl⟩
    rw [State.core_modCore_same]
  case stays => rw [exec_thermalDisplacement_some hhot hlast hi hd, if_neg (by rw [hl]; decide)]
  case leaves =>
    rw [exec_thermalDisplacement_some hhot hlast hi hd, if_pos hl]
    have hsrc := moveThread_src s i dst (s.slot i).pc none (displacedStatus (s.slot i))
    have hfl := moveThread_flights s i dst (s.slot i).pc none (displacedStatus (s.slot i))
    generalize moveThread s i dst (s.slot i).pc none (displacedStatus (s.slot i)) = t at hsrc hfl ⊢
    exact ⟨_, rfl, congrArg Core.lastDisp (State.core_modCore_same t c fun k => { k with lastDisp := some s.time }), hsrc, hfl⟩

end Sys2Proof.Machine
end


section
/-! Stream elements as operands (R289, R292). -/

namespace Sys2Proof.Machine

/-- A ring stands in its chunk: it had entered it, or it enters it now with ExpireAll (R292). -/
def InChunk (s : State) (q : Nat) (st st0 : Stream) (s0 : State) : Prop :=
  (st.pos / st.n0 < st.entered ∧ st0 = st ∧ s0 = s) ∨
  (st.entered ≤ st.pos / st.n0 ∧ chunkOpen s s.myCore st (st.pos / st.n0) = true ∧
    st0 = { st with entered := st.pos / st.n0 + 1 } ∧ s0 = expireAll (setStream s q st0) s.myCore)

theorem enterChunk_line {s : State} {q : Nat} {st : Stream} (h : st.ring = false) : enterChunk s q st = .ok st s := by
  simp [enterChunk, h]

theorem forceChunk_line {s : State} {q : Nat} {st : Stream} (h : st.ring = false) : forceChunk s q st = (st, s) := by
  simp [forceChunk, h]

theorem enterChunk_inChunk {s s0 : State} {q : Nat} {st st0 : Stream} (hr : st.ring = true) (h : InChunk s q st st0 s0) :
    enterChunk s q st = .ok st0 s0 := by
  rcases h with ⟨hk, rfl, rfl⟩ | ⟨hk, ho, rfl, rfl⟩
  · simp [enterChunk, hk]
  · simp [enterChunk, hr, Nat.not_lt.mpr hk, ho]

theorem enterChunk_waits {s : State} {q : Nat} {st : Stream} (hr : st.ring = true) (hk : st.entered ≤ st.pos / st.n0)
    (ho : chunkOpen s s.myCore st (st.pos / st.n0) = false) :
    enterChunk s q st = sleep (.ring (BitVec.ofNat 3 q) (st.pos / st.n0)) (elemAddr st st.pos) := by
  simp [enterChunk, hr, Nat.not_lt.mpr hk, ho]

/-- Entering a chunk changes nothing else of the stream. -/
theorem InChunk.stream {s s0 : State} {q : Nat} {st st0 : Stream} (h : InChunk s q st st0 s0) :
    ∃ e, st0 = { st with entered := e } := by
  rcases h with ⟨-, rfl, -⟩ | ⟨-, -, rfl, -⟩ <;> exact ⟨_, rfl⟩

theorem checkStream_ring {s : State} {st : Stream} (h : st.ring = true) : checkStream s st = .ok () s :=
  check_met s _ _ (by rw [h]; rfl)

theorem checkStream_line {s : State} {st : Stream} (h : st.pos < st.n0 * st.n1) : checkStream s st = .ok () s :=
  check_met s _ _ (by simp [h])

theorem checkStream_exhausted {s : State} {st : Stream} (hr : st.ring = false) (h : st.n0 * st.n1 ≤ st.pos) :
    checkStream s st = .trap .outside st.desc := by
  simp [checkStream, check, hr, Nat.not_lt.mpr h]

/-! The position moves on. -/

theorem advance_within {s : State} {q : Nat} {st : Stream} (h : st.ring = false ∨ (st.pos + 1) % st.n0 ≠ 0) :
    advance s q st = .ok () (setStream s q { st with pos := st.pos + 1 }) := by
  have hc : (st.ring && decide ((st.pos + 1) % st.n0 = 0)) = false := by
    rcases h with h | h <;> simp [h]
  simp [advance, leaveChunk, hc]

theorem advance_notifies {s s1 : State} {q : Nat} {st : Stream} {loc : Loc} (hr : st.ring = true) (h : (st.pos + 1) % st.n0 = 0)
    (hloc : accessLoc s s.who st.cw 8 .rmw = .ok (loc, s1)) (hroom : sbufRoom s1 = true) :
    advance s q st = .ok () (setStream (enterUpdate s1 st.cw loc 8 0 1 none st.scope (decide (2 ≤ st.scope.toNat))) q
      { st with pos := st.pos + 1 }) := by
  simp [advance, leaveChunk, hr, h, hloc, hroom]

/-! Pops. -/

theorem readG_bound {s : State} {r : Reg} {q : Nat} {st : Stream} (h : boundStream s.me r = some (q, st)) :
    readG s r = popStream s q st := by
  rw [readG, h]

theorem writeG_bound {s : State} {r : Reg} {q : Nat} {st : Stream} (h : boundStream s.me r = some (q, st)) (v : Word) :
    writeG s r v = pushStream s q st v := by
  rw [writeG, h]

theorem popBytes_kept {s : State} {q : Nat} {st : Stream} {bs : List Byte} (hr : st.ring = false)
    (hk : s.me.kept[s.me.popped.length]? = some bs) (hw : unwatched s) : popBytes s q st = .ok (bs, st) (notePop s bs) := by
  simp only [popBytes, hk, forceChunk_line hr, Eff.andThen_ok, checkWatch_unwatched hw]

theorem popBytes_fetched {s s0 s1 : State} {q : Nat} {st st0 : Stream} {bs : List Byte}
    (hk : s.me.kept[s.me.popped.length]? = none) (hc : checkStream s st = .ok () s) (he : enterChunk s q st = .ok st0 s0)
    (hf : fetchBytes s0 (elemAddr st0 st0.pos) (widthBytes st.ew) true false = .ok bs s1) (hw : unwatched s1) :
    popBytes s q st = .ok (bs, st0) (notePop s1 bs) := by
  simp only [popBytes, hk, hc, he, hf, Eff.andThen_ok, checkWatch_unwatched hw]

/-- The value of an element: extended as its descriptor says. -/
def poppedValue (st : Stream) (bs : List Byte) : Word :=
  if st.sx then sextBytes (2 ^ st.ew.toNat) (wordOf bs) else wordOf bs

theorem popStream_of {s s1 t : State} {q : Nat} {st st0 : Stream} {bs : List Byte}
    (hp : popBytes s q st = .ok (bs, st0) s1) (ha : advance s1 q st0 = .ok () t) :
    popStream s q st = .ok (poppedValue st bs) t := by
  simp only [popStream, hp, ha, Eff.andThen_ok]
  rfl

theorem popStream_exhausted {s : State} {q : Nat} {st : Stream} (hr : st.ring = false) (h : st.n0 * st.n1 ≤ st.pos)
    (hk : s.me.kept[s.me.popped.length]? = none) : popStream s q st = .trap .outside st.desc := by
  simp only [popStream, popBytes, hk, checkStream_exhausted hr h, Eff.andThen_trap]

theorem popStream_waits {s : State} {q : Nat} {st : Stream} (hr : st.ring = true) (hk : s.me.kept[s.me.popped.length]? = none)
    (hin : st.entered ≤ st.pos / st.n0) (ho : chunkOpen s s.myCore st (st.pos / st.n0) = false) :
    popStream s q st = sleep (.ring (BitVec.ofNat 3 q) (st.pos / st.n0)) (elemAddr st st.pos) := by
  simp only [popStream, popBytes, hk, checkStream_ring hr, enterChunk_waits hr hin ho, Eff.andThen_ok]
  rfl

/-! Pushes. -/

section
variable {s : State} {q : Nat} {st : Stream} {v : Word}

theorem pushStream_exhausted (hroom : roomFor s st = none) (hr : st.ring = false) (h : st.n0 * st.n1 ≤ st.pos) :
    pushStream s q st v = .trap .outside st.desc := by
  simp only [pushStream, hroom, checkStream_exhausted hr h, Eff.andThen_trap]

theorem pushStream_waits (hroom : roomFor s st = none) (hr : st.ring = true) (hin : st.entered ≤ st.pos / st.n0)
    (ho : chunkOpen s s.myCore st (st.pos / st.n0) = false) :
    pushStream s q st v = sleep (.ring (BitVec.ofNat 3 q) (st.pos / st.n0)) (elemAddr st st.pos) := by
  simp only [pushStream, hroom, checkStream_ring hr, enterChunk_waits hr hin ho, Eff.andThen_ok]
  rfl

theorem pushStream_stored {s0 s1 t : State} {st0 : Stream} (hroom : roomFor s st = none) (hc : checkStream s st = .ok () s)
    (he : enterChunk s q st = .ok st0 s0)
    (hs : storeBytes s0 (elemAddr st st.pos) (bytesOf (widthBytes st.ew) v) false 0 = .ok () s1)
    (ha : advance s1 q st0 = .ok () t) : pushStream s q st v = .ok () t := by
  simp only [pushStream, hroom, hc, he, hs, ha, Eff.andThen_ok]

theorem pushStream_checked {s1 t : State} {loc : Loc} (hroom : roomFor s st = some loc) (hr : st.ring = false)
    (hsent : takeSent s (elemAddr st st.pos) = none)
    (hs : storeAt s (elemAddr st st.pos) loc (bytesOf (widthBytes st.ew) v) false 0 = .ok () s1)
    (ha : advance s1 q st = .ok () t) : pushStream s q st v = .ok () t := by
  simp only [pushStream, hroom, forceChunk_line hr, hsent, hs, ha, Eff.andThen_ok]

end

theorem elemAddr_line {st : Stream} (h : st.ring = false) : elemAddr st st.pos =
    st.base + BitVec.ofNat 64 (st.pos / st.n0) * st.s1.signExtend 64 + BitVec.ofNat 64 (st.pos % st.n0) * st.s0.signExtend 64 := by
  simp [elemAddr, h]

theorem elemAddr_ring {st : Stream} (h : st.ring = true) : elemAddr st st.pos =
    st.base + BitVec.ofNat 64 (st.pos / st.n0 % st.n1) * st.s1.signExtend 64 +
      BitVec.ofNat 64 (st.pos % st.n0) * st.s0.signExtend 64 := by
  simp [elemAddr, h]

theorem chunkOpen_eq (s : State) (c : Nat) (st : Stream) (r : Nat) : chunkOpen s c st r =
    serialGe (if st.write then (s.core c).counter st.kc - st.f0 + BitVec.ofNat 32 st.n1 else (s.core c).counter st.kc - st.f0)
      (BitVec.ofNat 32 (r + 1)) := by
  rw [chunkOpen]
  split
  · rfl
  · rfl

/-- Settles O38: a stream's line and its ring, each by what the pop or the push finds. -/
theorem streamOperands : Obligations.StreamOperands := by
  unfold Obligations.StreamOperands
  refine ⟨fun s s1 r q st bs v hb hr => ?line, fun s s0 s1 s2 r gd q st st0 bs v imm loc hb hr hk hroom => ?ring⟩
  case line =>
    intro ea n
    have hea : ea = elemAddr st st.pos := (elemAddr_line hr).symm
    rw [readG_bound hb, writeG_bound hb, hea]
    refine ⟨fun h => ⟨popStream_exhausted hr h, fun hroom => pushStream_exhausted hroom hr h⟩, fun hw hf => ?_, fun hs => ?_⟩
    · refine popStream_of ?_ (advance_within (.inl hr))
      rcases hf with ⟨hk, rfl⟩ | ⟨hk, hlt, hf⟩
      · exact popBytes_kept hr hk hw
      · exact popBytes_fetched hk (checkStream_line hlt) (enterChunk_line hr) hf hw
    · rcases hs with ⟨hroom, hlt, hs⟩ | ⟨loc, hroom, hsent, hs⟩
      · exact pushStream_stored hroom (checkStream_line hlt) (enterChunk_line hr) hs (advance_within (.inl hr))
      · exact pushStream_checked hroom hr hsent hs (advance_within (.inl hr))
  case ring =>
    intro k ea n arrived opens
    have hea : ea = elemAddr st st.pos := (elemAddr_ring hr).symm
    have hopens : opens = chunkOpen s s.myCore st k := (chunkOpen_eq ..).symm
    rw [readG_bound hb, writeG_bound hb, hea, hopens]
    refine ⟨fun hin ho hst => ?_, fun h => ?_⟩
    · have hpop := popStream_waits (q := q) hr hk hin ho
      refine ⟨_, ⟨.ring (BitVec.ofNat 3 q) k, s.me.since.getD s.time, s.me.waitlim, elemAddr st st.pos, false⟩,
        ?_, ⟨_, pushStream_waits hroom hr hin ho, rfl⟩, ?_, rfl, rfl, rfl, ?_, ?_, rfl⟩
      · show execAddi gd r imm s = _
        rw [execAddi, unary, readG_bound hb, hpop]
        rfl
      all_goals rw [sleepFor_awake hst]
    · obtain ⟨e, he⟩ := InChunk.stream h
      have henter := enterChunk_inChunk hr h
      have hpos : st0.pos = st.pos := by rw [he]
      have hr0 : st0.ring = true := by rw [he]; exact hr
      have hstep : { st0 with pos := st0.pos + 1 } = { st0 with pos := st.pos + 1 } := by rw [hpos]
      refine ⟨fun hf hw => ?_, fun hs => ?_⟩
      · have hp : popBytes s q st = .ok (bs, st0) (notePop s1 bs) :=
          popBytes_fetched hk (checkStream_ring hr) henter (by rw [he]; exact hf) hw
        refine ⟨fun hin => ?_, fun hend hloc hsb => ?_⟩
        · rw [popStream_of hp (advance_within (.inr (by rw [he]; exact hin))), hstep]
          rfl
        · rw [popStream_of hp (advance_notifies hr0 (by rw [he]; exact hend) (by rw [he]; exact hloc) hsb), hstep, he]
          rfl
      · refine ⟨fun hin => ?_, fun hend hloc hsb => ?_⟩
        · rw [pushStream_stored hroom (checkStream_ring hr) henter hs (advance_within (.inr (by rw [he]; exact hin))), hstep]
          rfl
        · rw [pushStream_stored hroom (checkStream_ring hr) henter hs
            (advance_notifies hr0 (by rw [he]; exact hend) (by rw [he]; exact hloc) hsb), hstep, he]
          rfl

end Sys2Proof.Machine
end


section
/-! The gating heap (R277 to R280): the order of its entries, and the two sifts. -/

namespace Sys2Proof.Machine

/-! The order of the entries. -/

/-- The exponent of the last place of a finite value, where it has one, is none below q. -/
def NoFiner (q : Int) : Num → Prop
  | .fin _ _ e => q ≤ e
  | _ => True

theorem num32_noFiner (w : W32) : NoFiner fp32.qmin (num32 w) := by
  unfold num32 unpack
  dsimp only
  split
  · split <;> exact True.intro
  · rename_i h
    split
    · exact Int.le_refl _
    · rename_i h0
      show fp32.qmin ≤ fp32.qmin + _ - 1
      omega

/-- A number's place in the order of R100: the infinities outside the finite values, which all stand at one exponent. -/
def numKey : Num → Int × Int
  | .nan _ => (0, 0)
  | .inf neg => (if neg then -1 else 1, 0)
  | .fin neg m e => (0, atExp neg m e fp32.qmin)

/-- One place stands before another. -/
def numBefore (a b : Int × Int) : Prop := a.1 < b.1 ∨ a.1 = b.1 ∧ a.2 < b.2

theorem atExp_finer (neg : Bool) (m : Nat) {e q r : Int} (hq : q ≤ e) (hr : r ≤ q) :
    atExp neg m e r = atExp neg m e q * 2 ^ (q - r).toNat := by
  have hexp : (e - r).toNat = (e - q).toNat + (q - r).toNat := by omega
  have hval : ((m * 2 ^ (e - r).toNat : Nat) : Int) = (m * 2 ^ (e - q).toNat : Nat) * 2 ^ (q - r).toNat := by
    rw [hexp, Nat.pow_add, ← Nat.mul_assoc, Int.natCast_mul _ (2 ^ (q - r).toNat), Int.natCast_pow]
    rfl
  simp only [atExp, hval]
  cases neg
  · rfl
  · exact (Int.neg_mul ..).symm

theorem ltNum_fin {a : Bool} {m : Nat} {e : Int} {b : Bool} {n : Nat} {d r : Int} (he : r ≤ e) (hd : r ≤ d) :
    ltNum (.fin a m e) (.fin b n d) = true ↔ atExp a m e r < atExp b n d r := by
  have hpos : (0 : Int) < 2 ^ (min e d - r).toNat := Int.pow_pos (by decide)
  simp only [ltNum, decide_eq_true_eq]
  rw [atExp_finer a m (Int.min_le_left e d) (Int.le_min.mpr ⟨he, hd⟩), atExp_finer b n (Int.min_le_right e d) (Int.le_min.mpr ⟨he, hd⟩)]
  exact ⟨fun h => Int.mul_lt_mul_of_pos_right h hpos, fun h => Int.lt_of_mul_lt_mul_right h (Int.le_of_lt hpos)⟩

theorem ltNum_iff {x y : Num} (hx : isNan x = false) (hy : isNan y = false) (hxq : NoFiner fp32.qmin x)
    (hyq : NoFiner fp32.qmin y) : ltNum x y = true ↔ numBefore (numKey x) (numKey y) := by
  cases x with
  | nan s => cases hx
  | inf a =>
    cases y with
    | nan s => cases hy
    | inf b => cases a <;> cases b <;> simp [ltNum, numKey, numBefore]
    | fin b n d => cases a <;> simp [ltNum, numKey, numBefore]
  | fin a m e =>
    cases y with
    | nan s => cases hy
    | inf b => cases b <;> simp [ltNum, numKey, numBefore]
    | fin b n d => rw [ltNum_fin hxq hyq]; simp [numKey, numBefore]

/-- An entry's place in the heap's order: that of its score and its index. -/
def entryKey (x : Word) : (Int × Int) × Nat := (numKey (num32 (x.extractLsb' 0 32)), (x.extractLsb' 32 16).toNat)

/-- The worse place: the smaller score, and of equal scores the greater index. -/
def KeyLt (a b : (Int × Int) × Nat) : Prop := numBefore a.1 b.1 ∨ a.1 = b.1 ∧ b.2 < a.2

/-- A place that is no better than another. -/
def KeyLe (a b : (Int × Int) × Nat) : Prop := ¬ KeyLt b a

theorem keyLt_iff {a b : (Int × Int) × Nat} : KeyLt a b ↔
    a.1.1 < b.1.1 ∨ a.1.1 = b.1.1 ∧ (a.1.2 < b.1.2 ∨ a.1.2 = b.1.2 ∧ b.2 < a.2) := by
  rw [KeyLt, numBefore, Prod.ext_iff]
  omega

theorem KeyLe.refl (a : (Int × Int) × Nat) : KeyLe a a := by
  rw [KeyLe, keyLt_iff]
  omega

theorem KeyLe.trans {a b c : (Int × Int) × Nat} (h : KeyLe a b) (h' : KeyLe b c) : KeyLe a c := by
  rw [KeyLe, keyLt_iff] at *
  omega

theorem KeyLt.le {a b : (Int × Int) × Nat} (h : KeyLt a b) : KeyLe a b := by
  rw [KeyLe, keyLt_iff]
  rw [keyLt_iff] at h
  omega

theorem low32_eq (x : Word) : low32 x = x.extractLsb' 0 32 := by
  rw [low32, ← BitVec.setWidth_eq_extractLsb' (by omega)]

theorem eqNum_iff {x y : Num} (hx : isNan x = false) (hy : isNan y = false) (hxq : NoFiner fp32.qmin x)
    (hyq : NoFiner fp32.qmin y) : eqNum x y = true ↔ numKey x = numKey y := by
  simp only [eqNum, hx, hy, Bool.not_false, Bool.true_and, Bool.and_eq_true, Bool.not_eq_true', ← Bool.not_eq_true,
    ltNum_iff hx hy hxq hyq, ltNum_iff hy hx hyq hxq, numBefore, Prod.ext_iff]
  omega

theorem worse_iff {x y : Word} (hx : isNan (num32 (x.extractLsb' 0 32)) = false)
    (hy : isNan (num32 (y.extractLsb' 0 32)) = false) : worse x y = true ↔ KeyLt (entryKey x) (entryKey y) := by
  simp only [worse, low32_eq, Bool.or_eq_true, Bool.and_eq_true, decide_eq_true_eq,
    ltNum_iff hx hy (num32_noFiner _) (num32_noFiner _), eqNum_iff hx hy (num32_noFiner _) (num32_noFiner _), entryKey, KeyLt]

/-! Heaps by the keys of their entries. -/

/-- The key of the entry at a place. -/
def keyAt (es : List Word) (i : Nat) : (Int × Int) × Nat := entryKey (es.getD i 0)

/-- The entry at a place is no worse than its parent. -/
def InOrder (es : List Word) (i : Nat) : Prop := KeyLe (keyAt es ((i - 1) / 2)) (keyAt es i)

theorem getD_eq_getElem_of_lt {es : List Word} {i : Nat} (hi : i < es.length) : es.getD i 0 = es[i] := by
  rw [List.getD_eq_getElem?_getD, List.getElem?_eq_getElem hi, Option.getD_some]

theorem getD_noNan {es : List Word} (h : noNans es) {i : Nat} (hi : i < es.length) :
    isNan (num32 ((es.getD i 0).extractLsb' 0 32)) = false := by
  rw [getD_eq_getElem_of_lt hi]
  exact h _ (List.getElem_mem hi)

theorem worse_getD {es : List Word} (h : noNans es) {i j : Nat} (hi : i < es.length) (hj : j < es.length) :
    worse (es.getD i 0) (es.getD j 0) = true ↔ KeyLt (keyAt es i) (keyAt es j) :=
  worse_iff (getD_noNan h hi) (getD_noNan h hj)

theorem not_worse_getD {es : List Word} (h : noNans es) {i j : Nat} (hi : i < es.length) (hj : j < es.length) :
    ¬ worse (es.getD i 0) (es.getD j 0) = true ↔ KeyLe (keyAt es j) (keyAt es i) := by
  rw [worse_getD h hi hj, KeyLe]

theorem heapOrdered_iff {es : List Word} (h : noNans es) :
    heapOrdered es ↔ ∀ i, 0 < i → i < es.length → InOrder es i := by
  refine forall_congr' fun i => forall_congr' fun h0 => forall_congr' fun hi => ?_
  rw [← Bool.not_eq_true, not_worse_getD h hi (by omega)]
  rfl

theorem swapAt_perm {es : List Word} {i j : Nat} (hi : i < es.length) (hj : j < es.length) : (swapAt es i j).Perm es := by
  rw [swapAt, getD_eq_getElem_of_lt hi, getD_eq_getElem_of_lt hj]
  exact List.set_set_perm hi hj

theorem swapAt_length (es : List Word) (i j : Nat) : (swapAt es i j).length = es.length := by simp [swapAt]

theorem keyAt_swapAt {es : List Word} {i j : Nat} (hi : i < es.length) (hj : j < es.length) (n : Nat) :
    keyAt (swapAt es i j) n = if n = j then keyAt es i else if n = i then keyAt es j else keyAt es n := by
  unfold keyAt swapAt
  simp only [List.getD_eq_getElem?_getD, List.getElem?_set, List.length_set]
  by_cases h1 : n = j
  · subst h1; simp [hj]
  · by_cases h2 : n = i
    · subst h2; simp [hi, h1, Ne.symm h1]
    · simp [h1, h2, Ne.symm h1, Ne.symm h2]

theorem noNans_perm {es fs : List Word} (h : es.Perm fs) : noNans es ↔ noNans fs :=
  forall_congr' fun _ => by rw [h.mem_iff]

/-! An entry rises. -/

theorem siftUp_perm (fuel : Nat) {es : List Word} {e : Nat} (he : e < es.length) : (siftUp es e fuel).Perm es := by
  induction fuel generalizing es e with
  | zero => exact .refl _
  | succ fuel ih =>
    rw [siftUp]
    split
    · have hp : (e - 1) / 2 < es.length := by omega
      exact (ih (by rwa [swapAt_length])).trans (swapAt_perm he hp)
    · exact .refl _

/-- All stands in order but the entry at e, whose children are no worse than its parent. -/
structure RisesAt (es : List Word) (e : Nat) : Prop where
  bound : e < es.length
  order : ∀ i, 0 < i → i < es.length → i ≠ e → InOrder es i
  below : 0 < e → ∀ i, 0 < i → i < es.length → (i - 1) / 2 = e → KeyLe (keyAt es ((e - 1) / 2)) (keyAt es i)

theorem RisesAt.swap {es : List Word} {e : Nat} (h : RisesAt es e) (h0 : e ≠ 0)
    (hw : KeyLt (keyAt es e) (keyAt es ((e - 1) / 2))) : RisesAt (swapAt es e ((e - 1) / 2)) ((e - 1) / 2) := by
  have hp : (e - 1) / 2 < es.length := by have := h.bound; omega
  have hk := keyAt_swapAt h.bound hp
  refine ⟨by rwa [swapAt_length], fun i hi hlen hne => ?_, fun hpos i hi hlen hpar => ?_⟩ <;> rw [swapAt_length] at hlen
  · rw [InOrder, hk, hk i, if_neg hne]
    by_cases hie : i = e
    · rw [hie, if_pos rfl, if_pos rfl]; exact hw.le
    · rw [if_neg hie]
      have hord := h.order i hi hlen hie
      rw [InOrder] at hord
      split
      · rename_i hpar
        rw [hpar] at hord
        exact hw.le.trans hord
      · split
        · rename_i hpar
          exact h.below (by omega) i hi hlen hpar
        · exact hord
  · have hpp := h.order ((e - 1) / 2) hpos hp (by omega)
    rw [InOrder] at hpp
    rw [hk, hk i, if_neg (by omega), if_neg (by omega), if_neg (by omega)]
    split
    · exact hpp
    · rename_i hie
      have hord := h.order i hi hlen hie
      rw [InOrder, hpar] at hord
      exact hpp.trans hord

theorem siftUp_ordered (fuel : Nat) {es : List Word} {e : Nat} (hn : noNans es) (h : RisesAt es e) (hf : e < 2 ^ fuel) :
    heapOrdered (siftUp es e fuel) := by
  induction fuel generalizing es e with
  | zero =>
    rw [siftUp, heapOrdered_iff hn]
    exact fun i hi hlen => h.order i hi hlen (by omega)
  | succ fuel ih =>
    have hp : (e - 1) / 2 < es.length := by have := h.bound; omega
    rw [siftUp]
    split
    · rename_i hc
      have hw := (worse_getD hn h.bound hp).mp hc.2
      exact ih ((noNans_perm (swapAt_perm h.bound hp)).mpr hn) (h.swap hc.1 hw) (by rw [Nat.pow_succ] at hf; omega)
    · rename_i hc
      rw [heapOrdered_iff hn]
      intro i hi hlen
      by_cases hie : i = e
      · subst hie
        rw [InOrder, ← not_worse_getD hn h.bound hp]
        exact fun hw => hc ⟨by omega, hw⟩
      · exact h.order i hi hlen hie

/-! An entry sinks. -/

/-- The child of a place that siftDown looks at. -/
def worseChild (es : List Word) (e : Nat) : Nat :=
  if 2 * e + 2 < es.length ∧ worse (es.getD (2 * e + 2) 0) (es.getD (2 * e + 1) 0) then 2 * e + 2 else 2 * e + 1

theorem siftDown_succ (es : List Word) (e fuel : Nat) : siftDown es e (fuel + 1) =
    if worseChild es e < es.length ∧ worse (es.getD (worseChild es e) 0) (es.getD e 0) then
      siftDown (swapAt es e (worseChild es e)) (worseChild es e) fuel
    else es := rfl

theorem worseChild_parent (es : List Word) (e : Nat) : (worseChild es e - 1) / 2 = e ∧ 2 * e + 1 ≤ worseChild es e := by
  unfold worseChild
  split <;> omega

/-- No child is worse than the one that siftDown looks at, and where there is a child it is one. -/
theorem worseChild_least {es : List Word} (hn : noNans es) {e i : Nat} (hi : 0 < i) (hlen : i < es.length)
    (hpar : (i - 1) / 2 = e) : worseChild es e < es.length ∧ KeyLe (keyAt es (worseChild es e)) (keyAt es i) := by
  have hcase : i = 2 * e + 1 ∨ i = 2 * e + 2 := by omega
  unfold worseChild
  split
  · rename_i hc
    have hlt := (worse_getD hn hc.1 (by omega)).mp hc.2
    refine ⟨hc.1, ?_⟩
    rcases hcase with h | h
    · rw [h]; exact hlt.le
    · rw [h]; exact .refl _
  · rename_i hc
    refine ⟨by omega, ?_⟩
    rcases hcase with h | h
    · rw [h]; exact .refl _
    · rw [h, ← not_worse_getD hn (by omega) (by omega)]
      exact fun hw => hc ⟨by omega, hw⟩

theorem siftDown_perm (fuel : Nat) {es : List Word} {e : Nat} : (siftDown es e fuel).Perm es := by
  induction fuel generalizing es e with
  | zero => exact .refl _
  | succ fuel ih =>
    rw [siftDown_succ]
    split
    · rename_i hc
      have := (worseChild_parent es e).2
      exact ih.trans (swapAt_perm (by omega) hc.1)
    · exact .refl _

/-- All stands in order but the children of the entry at e, which are no worse than its parent. -/
structure SinksAt (es : List Word) (e : Nat) : Prop where
  order : ∀ i, 0 < i → i < es.length → (i - 1) / 2 ≠ e → InOrder es i
  below : 0 < e → ∀ i, 0 < i → i < es.length → (i - 1) / 2 = e → KeyLe (keyAt es ((e - 1) / 2)) (keyAt es i)

theorem SinksAt.swap {es : List Word} {e : Nat} (hn : noNans es) (h : SinksAt es e) (hc : worseChild es e < es.length)
    (hw : KeyLt (keyAt es (worseChild es e)) (keyAt es e)) : SinksAt (swapAt es e (worseChild es e)) (worseChild es e) := by
  obtain ⟨hcp, hce⟩ := worseChild_parent es e
  have hk := keyAt_swapAt (i := e) (by omega) hc
  have hleast : ∀ i, 0 < i → i < es.length → (i - 1) / 2 = e → KeyLe (keyAt es (worseChild es e)) (keyAt es i) := fun i hi hlen hpar =>
    (worseChild_least hn hi hlen hpar).2
  generalize worseChild es e = c at *
  refine ⟨fun i hi hlen hne => ?_, fun hpos i hi hlen hpar => ?_⟩ <;> rw [swapAt_length] at hlen
  · rw [InOrder, hk, hk i, if_neg hne]
    by_cases hic : i = c
    · rw [hic, hcp, if_pos rfl, if_pos rfl]; exact hw.le
    · rw [if_neg hic]
      by_cases hpar : (i - 1) / 2 = e
      · rw [if_pos hpar, if_neg (by omega)]
        exact hleast i hi hlen hpar
      · rw [if_neg hpar]
        split
        · rename_i hie
          rw [hie]
          exact h.below (by omega) c (by omega) hc hcp
        · exact h.order i hi hlen hpar
  · have hord := h.order i hi hlen (by omega)
    rw [InOrder, hpar] at hord
    rw [hk, hk i, hcp, if_neg (by omega), if_pos rfl, if_neg (by omega), if_neg (by omega)]
    exact hord

theorem siftDown_ordered (fuel : Nat) {es : List Word} {e : Nat} (hn : noNans es) (h : SinksAt es e)
    (hf : es.length < 2 * ((e + 1) * 2 ^ fuel)) : heapOrdered (siftDown es e fuel) := by
  induction fuel generalizing es e with
  | zero =>
    rw [siftDown, heapOrdered_iff hn]
    exact fun i hi hlen => h.order i hi hlen (by omega)
  | succ fuel ih =>
    obtain ⟨hcp, hce⟩ := worseChild_parent es e
    rw [siftDown_succ]
    split
    · rename_i hc
      have hlt := (worse_getD hn hc.1 (by omega)).mp hc.2
      refine ih ((noNans_perm (swapAt_perm (by omega) hc.1)).mpr hn) (h.swap hn hc.1 hlt) ?_
      rw [swapAt_length]
      calc es.length < 2 * ((e + 1) * 2 ^ (fuel + 1)) := hf
        _ = 2 * ((2 * e + 2) * 2 ^ fuel) := by rw [Nat.pow_succ', ← Nat.mul_assoc (e + 1), Nat.add_mul e 1 2, Nat.mul_comm e 2]
        _ ≤ 2 * ((worseChild es e + 1) * 2 ^ fuel) := Nat.mul_le_mul_left 2 (Nat.mul_le_mul_right _ (by omega))
    · rename_i hc
      rw [heapOrdered_iff hn]
      intro i hi hlen
      by_cases hpar : (i - 1) / 2 = e
      · obtain ⟨hcl, hle⟩ := worseChild_least hn hi hlen hpar
        rw [InOrder, hpar]
        refine .trans ?_ hle
        rw [← not_worse_getD hn hcl (by omega)]
        exact fun hw => hc ⟨hcl, hw⟩
      · exact h.order i hi hlen hpar

/-! HSIFT's and HTAKE's heaps. -/

theorem getD_append_left {es fs : List Word} {i : Nat} (h : i < es.length) : (es ++ fs).getD i 0 = es.getD i 0 := by
  rw [List.getD_eq_getElem?_getD, List.getElem?_append_left h, ← List.getD_eq_getElem?_getD]

theorem keyAt_append_left {es : List Word} (x : Word) {i : Nat} (h : i < es.length) : keyAt (es ++ [x]) i = keyAt es i := by
  rw [keyAt, keyAt, getD_append_left h]

theorem risesAt_append {es : List Word} (x : Word) (hn : noNans es) (h : heapOrdered es) : RisesAt (es ++ [x]) es.length := by
  have hlen : (es ++ [x]).length = es.length + 1 := by simp
  refine ⟨by omega, fun i hi hl hne => ?_, fun _ i hi hl hpar => by omega⟩
  rw [InOrder, keyAt_append_left x (by omega), keyAt_append_left x (by omega)]
  exact (heapOrdered_iff hn).mp h i hi (by omega)

/-- A heap with another root: all stands in order but the root's children. -/
theorem sinksAt_root {es fs : List Word} (hn : noNans es) (h : heapOrdered es) (hlen : fs.length ≤ es.length)
    (hsame : ∀ i, 0 < i → i < fs.length → fs.getD i 0 = es.getD i 0) : SinksAt fs 0 := by
  refine ⟨fun i hi hl hne => ?_, fun h0 => absurd h0 (by omega)⟩
  rw [InOrder, keyAt, keyAt, hsame _ (by omega) (by omega), hsame i hi hl]
  exact (heapOrdered_iff hn).mp h i hi (by omega)

section
variable {h : Heap} {x : Word}

theorem hsift_nan (hx : isNan (num32 (x.extractLsb' 0 32)) = true) : hsift h x = (2, none) := by
  rw [hsift, low32_eq, if_pos hx]

variable (hx : isNan (num32 (x.extractLsb' 0 32)) = false)
include hx

theorem hsift_room (hroom : h.es.length < h.kcap) : hsift h x = (1, some (siftUp (h.es ++ [x]) h.es.length 16)) := by
  rw [hsift, low32_eq, if_neg (by rw [hx]; decide), if_pos hroom]

theorem hsift_full (hfull : h.kcap ≤ h.es.length) : hsift h x =
    if worse (h.es.getD 0 0) x then (1, some (siftDown (h.es.set 0 x) 0 16)) else (0, none) := by
  rw [hsift, low32_eq, if_neg (by rw [hx]; decide), if_neg (by omega)]

theorem hsift_keeps {st : Nat} {es : List Word} (hcap : h.kcap ≤ 16) (hlen : h.es.length ≤ h.kcap) (hn : noNans h.es)
    (hord : heapOrdered h.es) (hs : hsift h x = (st, some es)) : heapOrdered es ∧ noNans es ∧ es.length ≤ h.kcap := by
  have hxs : ∀ {fs : List Word}, (∀ y ∈ fs, y = x ∨ y ∈ h.es) → noNans fs := fun hfs y hy => by
    rcases hfs y hy with rfl | hmem
    · exact hx
    · exact hn y hmem
  by_cases hroom : h.es.length < h.kcap
  · rw [hsift_room hx hroom] at hs
    simp only [Prod.mk.injEq, Option.some.injEq] at hs
    obtain ⟨-, rfl⟩ := hs
    have hp := siftUp_perm 16 (es := h.es ++ [x]) (e := h.es.length) (by simp)
    have hn' : noNans (h.es ++ [x]) := hxs fun y hy => by simpa [or_comm] using hy
    refine ⟨siftUp_ordered 16 hn' (risesAt_append x hn hord) (by omega), (noNans_perm hp).mpr hn', ?_⟩
    rw [hp.length_eq, List.length_append, List.length_singleton]
    omega
  · rw [hsift_full hx (by omega)] at hs
    split at hs
    · simp only [Prod.mk.injEq, Option.some.injEq] at hs
      obtain ⟨-, rfl⟩ := hs
      have hp := siftDown_perm 16 (es := h.es.set 0 x) (e := 0)
      have hn' : noNans (h.es.set 0 x) := hxs fun y hy => (List.mem_or_eq_of_mem_set hy).symm
      have hlen' : (h.es.set 0 x).length = h.es.length := List.length_set
      refine ⟨siftDown_ordered 16 hn' (sinksAt_root hn hord (Nat.le_of_eq hlen') fun i hi hl => ?_) (by omega), (noNans_perm hp).mpr hn', ?_⟩
      · rw [List.getD_eq_getElem?_getD, List.getElem?_set_ne (by omega), ← List.getD_eq_getElem?_getD]
      · rw [hp.length_eq, hlen']; exact hlen
    · cases hs

end

/-- The entries that HTAKE leaves of those after the root. -/
def takenRoot (rest : List Word) : List Word :=
  match rest.getLast? with
  | none => []
  | some y => siftDown (y :: rest.dropLast) 0 16

theorem dropLast_getLast? {l : List Word} {y : Word} (h : l.getLast? = some y) : l.dropLast ++ [y] = l := by
  obtain ⟨ys, rfl⟩ := List.getLast?_eq_some_iff.mp h
  rw [List.dropLast_concat]

theorem takenRoot_perm (rest : List Word) : (takenRoot rest).Perm rest := by
  unfold takenRoot
  cases hl : rest.getLast? with
  | none => rw [List.getLast?_eq_none_iff.mp hl]
  | some y =>
    refine (siftDown_perm 16).trans ?_
    have hne : rest.dropLast ++ [y] = rest := dropLast_getLast? hl
    refine .trans ?_ (.of_eq hne)
    exact (List.perm_append_singleton y rest.dropLast).symm

theorem takenRoot_ordered {x : Word} {rest : List Word} (hlen : (x :: rest).length ≤ 16) (hn : noNans (x :: rest))
    (h : heapOrdered (x :: rest)) : heapOrdered (takenRoot rest) := by
  have hn' := (noNans_perm (takenRoot_perm rest)).mpr fun y hy => hn y (List.mem_cons_of_mem x hy)
  unfold takenRoot at hn' ⊢
  cases hl : rest.getLast? with
  | none => exact fun e h0 hl' => absurd hl' (by simp)
  | some y =>
    rw [hl] at hn'
    have hne : rest.dropLast ++ [y] = rest := dropLast_getLast? hl
    have hlens : rest.dropLast.length + 1 = rest.length :=
      (List.length_append (bs := [y])).symm.trans (congrArg List.length hne)
    rw [List.length_cons] at hlen
    refine siftDown_ordered 16 ((noNans_perm (siftDown_perm 16)).mp hn') (sinksAt_root hn h ?_ fun i hi hl' => ?_) ?_
    · rw [List.length_cons, List.length_cons]; omega
    · obtain ⟨j, rfl⟩ := Nat.exists_eq_succ_of_ne_zero (Nat.pos_iff_ne_zero.mp hi)
      rw [List.length_cons] at hl'
      rw [List.getD_cons_succ, List.getD_cons_succ, ← hne, getD_append_left (by omega), hne]
    · rw [List.length_cons]; omega

/-! The two members. -/

theorem heapEntry_eq (x : Word) : heapEntry x = 0#16 ++ x.extractLsb' 0 48 := by
  refine BitVec.eq_of_getLsbD_eq fun i hi => ?_
  have hmask : (0x0000FFFFFFFFFFFF : Word).getLsbD i = decide (i < 48) := by
    have hall : (0x0000FFFFFFFFFFFF : Word) = (BitVec.allOnes 48).setWidth 64 := by decide
    rw [hall, BitVec.getLsbD_setWidth, BitVec.getLsbD_allOnes]
    simp [hi]
  rw [heapEntry, BitVec.getLsbD_and, hmask, BitVec.getLsbD_append]
  by_cases h : i < 48 <;> simp [h]

theorem watchHeap_unwatched {s : State} (h : unwatched s) (ea : Word) (o : Option Heap) (st : Bool) :
    watchHeap s ea o st = .ok () s := checkWatch_unwatched h ..

section
variable {s s1 s2 : State} {gd ga gb : Reg} {a x : Word} (ha : readG s ga = .ok a s1) (hb : readG s1 gb = .ok x s2)
  (hw : unwatched s2)
include ha hb hw

theorem exec_hsift_bad {t : State} (hh : heapAt s2 a = .ok none s2) (ht : writeG s2 gd 3 = .ok () t) :
    exec (.hsift gd ga gb) s = .next (t.retire 4) := by
  show execHsift gd ga gb s = _
  simp only [execHsift, ha, hb, hh, Eff.andThen_ok, watchHeap_unwatched hw]
  exact conclude_writeDone s ht

theorem exec_hsift {h : Heap} (hh : heapAt s2 a = .ok (some h) s2) {st : Nat} {o : Option (List Word)}
    (hs : hsift h (0#16 ++ x.extractLsb' 0 48) = (st, o)) : endsWith (.hsift gd ga gb) s
      (o.elim s2 (putHeap s2 h)) gd (BitVec.ofNat 64 st) := by
  refine endsWith_of_effectDone ?_
  show execHsift gd ga gb s = _
  simp only [execHsift, ha, hb, hh, Eff.andThen_ok, heapEntry_eq, hs, watchHeap_unwatched hw]
  cases o <;> rfl

end

section
variable {s s1 : State} {gd ga : Reg} {a : Word} (ha : readG s ga = .ok a s1) (hw : unwatched s1)
include ha hw

theorem exec_htake_bad {t : State} (hh : heapAt s1 a = .ok none s1) (ht : writeG s1 gd (1#64 <<< 62) = .ok () t) :
    exec (.htake gd ga) s = .next (t.retire 4) := by
  have hc : (0x4000000000000000 : Word) = 1#64 <<< 62 := by decide
  show execHtake gd ga s = _
  simp only [execHtake, ha, hh, Eff.andThen_ok, watchHeap_unwatched hw, hc]
  exact conclude_writeDone s ht

theorem exec_htake_empty {t : State} {h : Heap} (hh : heapAt s1 a = .ok (some h) s1) (hes : h.es = [])
    (ht : writeG s1 gd 0 = .ok () t) : exec (.htake gd ga) s = .next (t.retire 4) := by
  show execHtake gd ga s = _
  simp only [execHtake, ha, hh, Eff.andThen_ok, hes, watchHeap_unwatched hw]
  exact conclude_writeDone s ht

theorem exec_htake_root {h : Heap} {x : Word} {rest : List Word} (hh : heapAt s1 a = .ok (some h) s1) (hes : h.es = x :: rest) :
    endsWith (.htake gd ga) s (putHeap s1 h (takenRoot rest)) gd (1#1 ++ 0#15 ++ x.extractLsb' 0 48) := by
  refine endsWith_of_effectDone ?_
  show execHtake gd ga s = _
  simp only [execHtake, ha, hh, Eff.andThen_ok, hes, watchHeap_unwatched hw]
  rfl

end

/-- Settles O40: the members by the header they find, and the two sifts on a heap in order. -/
theorem gatingHeap : Obligations.GatingHeap := by
  unfold Obligations.GatingHeap
  refine ⟨fun s s1 s2 s3 t gd ga gb a x ha hb hw => ⟨exec_hsift_bad ha hb hw, fun h st hh hs => exec_hsift ha hb hw hh hs,
      fun h st es hh hs h3 => h3 ▸ exec_hsift ha hb hw hh hs⟩,
    fun h x => ⟨hsift_nan, fun hx hroom => ⟨_, hsift_room hx hroom, ?gains⟩, fun hx hfull r rest hes => ?replaces,
      fun st es hcap hlen hn hord hs => ?keeps⟩,
    fun s s1 t gd ga a ha hw => ⟨exec_htake_bad ha hw, fun h hh hes ht => exec_htake_empty ha hw hh hes ht,
      fun h x rest hh hes => ⟨takenRoot rest, takenRoot_perm rest, fun hlen hn hord => ?taken, exec_htake_root ha hw hh hes⟩⟩⟩
  case gains =>
    refine (siftUp_perm 16 (by simp)).trans ?_
    exact List.perm_append_singleton x h.es
  case replaces =>
    rw [hsift_full hx hfull, hes]
    exact ⟨fun hw => ⟨_, if_pos hw, siftDown_perm 16⟩, fun hw => if_neg (by rw [List.getD_cons_zero, hw]; decide)⟩
  case keeps =>
    cases hx : isNan (num32 (x.extractLsb' 0 32)) with
    | true => rw [hsift_nan hx] at hs; cases hs
    | false => exact hsift_keeps hx hcap hlen hn hord hs
  case taken =>
    rw [hes] at hlen hn hord
    exact takenRoot_ordered hlen hn hord

end Sys2Proof.Machine
end


section
/-! The checks of a handle, FORCE and FPOLL (R200, R201, R213, R215). -/

namespace Sys2Proof.Machine

/-! Handles. -/

theorem hType_of {x : Word} {t : BitVec 2} (h : x.extractLsb' 62 2 = t) : hType x = t.toNat := by rw [hType, h]

theorem handleEff_ok {s s1 : State} {x : Word} {v : Seen} (h : checkHandle s s.who x = .ok (v, s1)) :
    handleEff s x = .ok v s1 := by rw [handleEff, h]

theorem handleEff_error {s : State} {x : Word} {c : Cause} (h : checkHandle s s.who x = .error c) :
    handleEff s x = .trap c x := by rw [handleEff, h]

section
variable {s : State} {w : Who} {x : Word}

theorem checkHandle_null (h : x.extractLsb' 62 2 = 0 ∨ x.extractLsb' 62 2 = 3) : checkHandle s w x = .error .staleh := by
  rcases h with h | h <;> rw [checkHandle, hType_of h] <;> rfl

theorem checkHandle_immediate (h : x.extractLsb' 62 2 = 1) :
    checkHandle s w x = if hRegion x = w.region then .ok (.tile (hAddr x), s) else .error .prot := by
  rw [checkHandle, hType_of h]; rfl

theorem checkHandle_record_error (h : x.extractLsb' 62 2 = 2) {c : Cause} (ho : openRecord s w x = .error c) :
    checkHandle s w x = .error c := by
  rw [checkHandle, hType_of h, ho]; rfl

theorem checkHandle_record_ok (h : x.extractLsb' 62 2 = 2) {r : RecAt} {hd : Header} {s1 : State}
    (ho : openRecord s w x = .ok ((r, hd), s1)) :
    checkHandle s w x = if hd.st = stFree ∨ hd.gen ≠ hGen x then .error .staleh else .ok (.record r hd, s1) := by
  rw [checkHandle, hType_of h, ho]; rfl

theorem openRecord_region (h : hRegion x ≠ w.region) : openRecord s w x = .error .prot := by
  rw [openRecord]; exact if_pos (.inl h)

theorem openRecord_arena (h : inRange s (hAddr x) (s.region w.region).recBase (s.region w.region).recSize = false) :
    openRecord s w x = .error .prot := by
  rw [openRecord]; exact if_pos (.inr h)

/-- A record of the arena whose header's line is found at its home. -/
theorem openRecord_home {p h : Nat} {s1 : State} (hreg : hRegion x = w.region)
    (hin : inRange s (hAddr x) (s.region w.region).recBase (s.region w.region).recSize = true)
    (hloc : globalLoc s w (hAddr x) 8 .load = .ok (.home p h, s1)) : openRecord s w x =
      if ((touchLine s1 (p / 128) h).line (p / 128)).poison then .error .poison
      else if (mixedPart (touchLine s1 (p / 128) h) p 8).isSome && (s.region w.region).debug then .error .mixsize
      else .ok ((⟨hAddr x, p, h⟩, (recHeader (touchLine s1 (p / 128) h) ⟨hAddr x, p, h⟩).1),
        (recHeader (touchLine s1 (p / 128) h) ⟨hAddr x, p, h⟩).2) := by
  rw [openRecord]
  dsimp only
  rw [if_neg (by simp [hreg, hin]), hloc]

end

/-- Settles O41: the handle's type, and a record's checks in their order. -/
theorem handleChecks : Obligations.HandleChecks := by
  unfold Obligations.HandleChecks
  refine fun s x => ⟨fun h => handleEff_error (checkHandle_null h), fun h => ⟨fun hr => handleEff_ok ?tile, fun hr => handleEff_error ?other⟩,
    fun h => ⟨fun hr => handleEff_error (checkHandle_record_error h (openRecord_region hr)),
      fun hi => handleEff_error (checkHandle_record_error h (openRecord_arena hi)),
      fun p hm s1 hr hi hloc => ⟨fun hp => handleEff_error (checkHandle_record_error h ?poison),
        fun hp hmix hdbg => handleEff_error (checkHandle_record_error h ?mixed)⟩,
      fun r hd s1 ho => ⟨fun hst => handleEff_error ?stale, fun hst hg => handleEff_ok ?found⟩⟩⟩
  case tile => rw [checkHandle_immediate h]; exact if_pos hr
  case other => rw [checkHandle_immediate h]; exact if_neg hr
  case poison => rw [openRecord_home (w := s.who) hr hi hloc, if_pos hp]
  case mixed =>
    have hd : (s.region s.who.region).debug = true := hdbg
    rw [openRecord_home (w := s.who) hr hi hloc, if_neg (by rw [hp]; decide), hmix, hd]
    rfl
  case stale => rw [checkHandle_record_ok h ho]; exact if_pos hst
  case found => rw [checkHandle_record_ok h ho]; exact if_neg (by simp [stFree, hGen, hst, hg])

/-! FORCE and FPOLL. -/

section
variable {s s1 s2 t : State} {gd ga : Reg} {x : Word} (hr : readG s ga = .ok x s1)
include hr

theorem exec_force_fault {c : Cause} {v : Word} (h : s1.me.reply = some (.fault c v)) :
    exec (.force gd ga) s = .next (takeFault s c v) := by
  show execForce gd ga s = _
  simp only [execForce, hr, Eff.andThen_ok, h]
  rfl

/-- What FORCE does once its handle is checked. -/
def forceBody (gd : Reg) (x : Word) (s : State) : Seen → Eff Unit
  | .tile a => writeDone s gd a
  | .record r hd =>
    if hd.st = stValue then effectDone (acquire (recRead s r 16).2 4) gd (recRead s r 16).1
    else if hd.st = stFaulted then .trap (recordedCause hd) x
    else (probeG s gd).andThen fun _ s => act s (if hd.st = stThunk then forceThunk x r hd else sleepOn x r)

/-- What FPOLL does once its handle is checked. -/
def fpollBody (gd : Reg) (x : Word) (s : State) : Seen → Eff Unit
  | .tile a => writeDone s gd a
  | .record r hd =>
    if hd.st = stValue then effectDone (acquire (recRead s r 16).2 4) gd (recRead s r 16).1
    else if hd.st = stFaulted then .trap (recordedCause hd) x
    else if hd.st = stThunk then
      effectDone ((freeEval s s.myCore).elim s fun e => evalRecord s e s.me.region s.me.ctx false none x r hd) gd 0
    else effectDone s gd 0

theorem exec_force {v : Seen} (h0 : s1.me.reply = none) (hh : handleEff s1 x = .ok v s2) :
    exec (.force gd ga) s = conclude s (forceBody gd x s2 v) := by
  show execForce gd ga s = _
  simp only [execForce, hr, Eff.andThen_ok, h0, hh]
  cases v <;> rfl

theorem exec_fpoll {v : Seen} (hh : handleEff s1 x = .ok v s2) :
    exec (.fpoll gd ga) s = conclude s (fpollBody gd x s2 v) := by
  show execFpoll gd ga s = _
  simp only [execFpoll, hr, Eff.andThen_ok, hh]
  cases v with
  | tile a => rfl
  | record r hd =>
    simp only [fpollBody]
    cases freeEval s2 s2.myCore <;> rfl

end

section
variable {gd : Reg} {x : Word} {s : State} {r : RecAt} {hd : Header}

theorem forceBody_value (h : hd.st = 3) :
    forceBody gd x s (.record r hd) = effectDone (acquire (recRead s r 16).2 4) gd (recRead s r 16).1 := if_pos h

theorem fpollBody_value (h : hd.st = 3) :
    fpollBody gd x s (.record r hd) = effectDone (acquire (recRead s r 16).2 4) gd (recRead s r 16).1 := if_pos h

theorem forceBody_faulted (h : hd.st = 4) : forceBody gd x s (.record r hd) = .trap (recordedCause hd) x := by
  simp [forceBody, h, stValue, stFaulted]

theorem fpollBody_faulted (h : hd.st = 4) : fpollBody gd x s (.record r hd) = .trap (recordedCause hd) x := by
  simp [fpollBody, h, stValue, stFaulted]

theorem fpollBody_eval (h : hd.st = 2) : fpollBody gd x s (.record r hd) = effectDone s gd 0 := by
  simp [fpollBody, h, stValue, stFaulted, stThunk]

theorem fpollBody_thunk (h : hd.st = 1) : fpollBody gd x s (.record r hd) =
    effectDone ((freeEval s s.myCore).elim s fun e => evalRecord s e s.me.region s.me.ctx false none x r hd) gd 0 := by
  simp [fpollBody, h, stValue, stFaulted, stThunk]

theorem forceBody_eval {t : State} (h : hd.st = 2) (hp : probeG s gd = .ok () t) :
    forceBody gd x s (.record r hd) = act t (sleepOn x r) := by
  simp [forceBody, h, hp, stValue, stFaulted, stThunk]

theorem forceBody_thunk {t : State} (h : hd.st = 1) (hp : probeG s gd = .ok () t) :
    forceBody gd x s (.record r hd) = act t (forceThunk x r hd) := by
  simp [forceBody, h, hp, stValue, stFaulted, stThunk]

end

/-- Settles O42: the handle's kind, and a record by its state. -/
theorem forceAndPoll : Obligations.ForceAndPoll := by
  unfold Obligations.ForceAndPoll
  intro s s1 s2 t gd ga x hr
  refine ⟨fun c v h => exec_force_fault hr h, fun h0 => ⟨fun a hh hw => ⟨?_, ?_⟩, fun r hd hh => ?_⟩⟩
  · rw [exec_force hr h0 hh]
    exact conclude_writeDone s hw
  · rw [exec_fpoll hr hh]
    exact conclude_writeDone s hw
  · have hforce := exec_force (gd := gd) hr h0 hh
    have hpoll := exec_fpoll (gd := gd) hr hh
    refine ⟨fun hst i hi => ?value, fun hst c hc => ?faulted, fun hst => ?eval, fun hst => ⟨fun hf => ?busy, fun e he => ?starts, fun hp => ?thunk⟩⟩
    case value =>
      rw [forceBody_value hst] at hforce
      rw [fpollBody_value hst] at hpoll
      rcases List.mem_cons.mp hi with rfl | hi
      · exact endsWith_of_effectDone hforce
      · cases List.mem_singleton.mp hi
        exact endsWith_of_effectDone hpoll
    case faulted =>
      have hcause : recordedCause hd = c := by rw [recordedCause, hc]; rfl
      rw [hforce, hpoll, forceBody_faulted hst, fpollBody_faulted hst, hcause]
      exact ⟨rfl, rfl⟩
    case eval =>
      refine ⟨endsWith_of_effectDone (by rw [hpoll, fpollBody_eval hst]), fun hp => ?_⟩
      rw [hforce, forceBody_eval hst hp]
      rfl
    case busy => exact endsWith_of_effectDone (by rw [hpoll, fpollBody_thunk hst, hf]; rfl)
    case starts => exact endsWith_of_effectDone (by rw [hpoll, fpollBody_thunk hst, he]; rfl)
    case thunk =>
      rw [hforce, forceBody_thunk hst hp]
      rfl

end Sys2Proof.Machine
end


section
/-! The other thunk members (R207, R208, R216 to R220). -/

namespace Sys2Proof.Machine

/-! Members on a checked handle. -/

section
variable {s s1 s2 t : State} {gd ga : Reg} {x : Word} (hr : readG s ga = .ok x s1)
include hr

section
variable {a : Word} (hh : handleEff s1 x = .ok (.tile a) s2)
include hh

theorem exec_spark_tile (hw : writeG s2 gd 0 = .ok () t) : exec (.spark gd ga) s = .next (t.retire 4) := by
  show execSpark gd ga s = _
  simp only [execSpark, hr, hh, Eff.andThen_ok]
  exact conclude_writeDone s hw

theorem exec_retain_tile : exec (.retain ga) s = .next (s2.retire 4) := by
  show execRetain ga s = _
  simp only [execRetain, hr, hh, Eff.andThen_ok]
  exact conclude_done s s2

theorem exec_release_tile : exec (.release ga) s = conclude s (
    if inRange s2 a (s2.region s2.me.region).frmBase (s2.region s2.me.region).frmSize then
      if s2.frames.contains (s2.me.region, a) then done (returnFrame s2 s2.me.region a)
      else if (s2.region s2.me.region).debug then .trap .staleh x
      else done (scrambleFrames s2 s2.me.region)
    else done s2) := by
  show execRelease ga s = _
  simp only [execRelease, hr, hh, Eff.andThen_ok]

end

section
variable {r : RecAt} {hd : Header} (hh : handleEff s1 x = .ok (.record r hd) s2)
include hh

theorem exec_spark_record : exec (.spark gd ga) s = conclude s (
    if hd.st = stThunk ∧ (sparksOf s2 (clusterOf s2 s2.myCore)).length < s2.policy.sparkPool then
      effectDone { s2 with sparks := (mapPut s2.sparks (clusterOf s2 s2.myCore)
          (sparksOf s2 (clusterOf s2 s2.myCore) ++ [⟨x, (s2.core s2.myCore).part.toNat, s2.me.ctx⟩])) } gd 1
    else effectDone s2 gd 0) := by
  show execSpark gd ga s = _
  simp only [execSpark, hr, hh, Eff.andThen_ok]

theorem exec_retain_record : exec (.retain ga) s =
    .next ((if hd.refs = 65535 then s2 else putHeader s2 r { hd with refs := hd.refs + 1 }).retire 4) := by
  show execRetain ga s = _
  simp only [execRetain, hr, hh, Eff.andThen_ok]
  exact conclude_done s _

theorem exec_release_record : exec (.release ga) s = .next ((dropCount s2 s2.me.region r hd).retire 4) := by
  show execRelease ga s = _
  simp only [execRelease, hr, hh, Eff.andThen_ok]
  exact conclude_done s _

end

/-- MKVAL's test of an address (R218). -/
def mkvalGood (s : State) (x : Word) : Bool :=
  !(isLocal x) && (x.extractLsb' 54 9 == 0x1FF || x.extractLsb' 54 9 == s.dev) && x.extractLsb' 48 6 == 0

omit hr in
theorem mkvalGood_iff (s : State) (x : Word) : mkvalGood s x = true ↔
    isLocal x = false ∧ (x.extractLsb' 54 9 = 0x1FF ∨ x.extractLsb' 54 9 = s.dev) ∧ x.extractLsb' 48 6 = 0 := by
  simp only [mkvalGood, Bool.and_eq_true, Bool.not_eq_true', Bool.or_eq_true, beq_iff_eq, and_assoc]

theorem exec_mkval : exec (.mkval gd ga) s = conclude s ((check s1 (mkvalGood s1 x) .prot x).andThen fun _ s =>
    (checkAlign s x 64).andThen fun _ s => writeDone s gd (mkHandle 1 s.me.region x 0)) := by
  show execMkval gd ga s = _
  simp only [execMkval, hr, Eff.andThen_ok]
  rfl

theorem exec_hstate_null (h : x.extractLsb' 62 2 = 0) (hw : writeG s1 gd 0 = .ok () t) :
    exec (.hstate gd ga) s = .next (t.retire 4) := by
  show execHstate gd ga s = _
  simp only [execHstate, hr, Eff.andThen_ok, hType_of h]
  exact conclude_writeDone s hw

theorem exec_hstate_immediate (h : x.extractLsb' 62 2 = 1) (hreg : (x.extractLsb' 48 14).toNat = s1.me.region)
    (hw : writeG s1 gd 3 = .ok () t) : exec (.hstate gd ga) s = .next (t.retire 4) := by
  have hc : hRegion x = s1.me.region := hreg
  show execHstate gd ga s = _
  simp only [execHstate, hr, Eff.andThen_ok, hType_of h]
  exact (congrArg (conclude s) (if_pos hc)).trans (conclude_writeDone s hw)

theorem exec_hstate_record (h : x.extractLsb' 62 2 = 2) {r : RecAt} {hd : Header}
    (ho : openRecord s1 s1.who x = .ok ((r, hd), s2)) : exec (.hstate gd ga) s =
      conclude s (effectDone s2 gd (if hd.st = stFree ∨ hd.gen ≠ hGen x then 0 else hd.word)) := by
  show execHstate gd ga s = _
  simp only [execHstate, hr, Eff.andThen_ok, hType_of h]
  show conclude s (match openRecord s1 s1.who x with
    | .error c => .trap c x
    | .ok ((_, hd), s) => effectDone s gd (if hd.st = stFree ∨ hd.gen ≠ hGen x then 0 else hd.word)) = _
  rw [ho]

end

section
variable {s : State} {rg : Nat} {r : RecAt} {hd : Header}

theorem dropCount_sticky (h : hd.refs = 65535 ∨ hd.refs = 0) : dropCount s rg r hd = s := if_pos h

theorem dropCount_counts (h : hd.refs ≠ 65535) (h1 : 1 < hd.refs) :
    dropCount s rg r hd = putHeader s r { hd with refs := hd.refs - 1 } := by
  rw [dropCount, if_neg (by omega), if_neg (by omega)]
  exact if_neg (by omega)

theorem dropCount_frees (h : hd.refs = 1) (hst : hd.st ≠ 2) : dropCount s rg r hd = freeRecord s rg r hd := by
  rw [dropCount, if_neg (by omega), if_pos ⟨h, hst⟩]

theorem dropCount_marks (h : hd.refs = 1) (hst : hd.st = 2) : dropCount s rg r hd =
    { putHeader s r { hd with refs := 0 } with doomed := r.p :: (putHeader s r { hd with refs := 0 }).doomed } := by
  rw [dropCount, if_neg (by omega), if_neg (by simp [hst, stEval]), h]
  exact if_pos rfl

end

/-! SUSPEND: what its wrappers leave of an end and of a fault. -/

/-- An effect that comes to one state, whatever wraps its wait. -/
def Settles (e : Eff Unit) (t : State) : Prop := e = .ok () t ∨ ∃ f, e = .wait f ∧ ∀ s0, f s0 = t

theorem Settles.conclude {e : Eff Unit} {t : State} (h : Settles e t) (s : State) : conclude s e = .next t := by
  rcases h with rfl | ⟨f, rfl, hf⟩
  · rfl
  · exact congrArg Host.Outcome.next (hf s)

theorem Settles.released {s s1 t : State} {scope : BitVec 3} {k : State → Eff Unit} (hr : release s scope = .ok () s1)
    (h : Settles (k s1) t) : Settles (released s scope k) t := by
  unfold release at hr
  unfold Machine.released
  split
  · rename_i h2
    rw [if_pos h2] at hr
    rw [hr, Eff.andThen_ok]
    rcases h with hk | ⟨f, hk, hf⟩
    · rw [hk]; exact .inl rfl
    · rw [hk]; exact .inr ⟨_, rfl, fun s0 => hf _⟩
  · rename_i h2
    rw [if_neg h2] at hr
    cases hr
    exact h

theorem Settles.holding {e : Eff Unit} {t : State} (h : Settles e t) (a : Word) (bs : List Byte) :
    Settles (holding a bs e) t := by
  rcases h with rfl | ⟨f, rfl, hf⟩
  · exact .inl rfl
  · exact .inr ⟨_, rfl, fun s0 => hf _⟩

theorem Settles.orGiveUp {e : Eff Unit} {t : State} (h : Settles e t) : Settles (orGiveUp e) t := by
  rcases h with rfl | ⟨f, rfl, hf⟩
  · exact .inl rfl
  · exact .inr ⟨f, rfl, hf⟩

theorem released_trap {s s1 : State} {scope : BitVec 3} {k : State → Eff Unit} {c : Cause} {v : Word}
    (hr : release s scope = .ok () s1) (h : k s1 = .trap c v) : released s scope k = .trap c v := by
  unfold release at hr
  unfold Machine.released
  split
  · rename_i h2
    rw [if_pos h2] at hr
    rw [hr, Eff.andThen_ok, h]
  · rename_i h2
    rw [if_neg h2] at hr
    cases hr
    exact h

theorem effectDone_settles_now {s t : State} {r : Reg} {v : Word} (hp : pushWaits s r = false) (hw : writeG s r v = .ok () t) :
    Settles (effectDone s r v) (t.retire 4) := by
  rw [effectDone, if_neg (by rw [hp]; decide), writeDone, hw]
  exact .inl rfl

theorem effectDone_settles_later {s t : State} {r : Reg} {v : Word} (hp : pushWaits s r = true) (hw : probeG s r = .ok () t) :
    Settles (effectDone s r v) (t.modMe (pushLater r v)) := by
  rw [effectDone, if_pos hp, hw]
  exact .inr ⟨_, rfl, fun _ => rfl⟩

/-- An instruction that settles where its last effect does ends with that effect's write. -/
theorem endsWith_of_settles {i : Instr} {s u : State} {r : Reg} {v : Word}
    (h : ∀ t, Settles (effectDone u r v) t → exec i s = .next t) : endsWith i s u r v :=
  ⟨fun _ hp hw => h _ (effectDone_settles_now hp hw), fun _ hp hw => h _ (effectDone_settles_later hp hw)⟩

/-- A lazy SUSPEND's wait in the state that its decision has led to. -/
def decidedFirst (d : State → State) : Eff Unit → Eff Unit
  | .wait f => .wait (fun s0 => f (d s0))
  | .pause f look => .pause (fun s0 => f (d s0)) look
  | e => e

theorem Settles.decidedFirst {e : Eff Unit} {t : State} (h : Settles e t) (d : State → State) : Settles (decidedFirst d e) t := by
  rcases h with rfl | ⟨f, rfl, hf⟩
  · exact .inl rfl
  · exact .inr ⟨_, rfl, fun s0 => hf _⟩

/-- A SUSPEND whose checks are passed. -/
def suspendStart (gd : Reg) (ia : Word) (u : Susp) (s : State) : Eff Unit :=
  match u.pin with
  | none => act s (fun s0 => strictSuspend ia u (decideSusp u s0))
  | some _ => decidedFirst (fun s0 => decideSusp u (keepPops s s0)) (lazySuspend (decideSusp u s) gd u (fun s => .ok s s))

/-- SUSPEND once its image is read. -/
def suspendBody (s : State) (gd : Reg) (ia : Word) (t : TileWords) : Eff Unit :=
  match s.me.susp with
  | some u => suspendOn s gd ia t u
  | none => (suspendChecks s gd ia t).andThen fun u s => suspendStart gd ia u s

section
variable {s s1 s2 : State} {gd ga : Reg} {ia : Word} {bs : List Byte} (hr : readG s ga = .ok ia s1) (h32 : ia.toNat % 32 = 0)
  (hl : localRead s1 ia 32 = .ok bs s2)
include hr h32 hl

theorem exec_suspend : exec (.suspend gd ga) s =
    conclude s (orGiveUp (holding ia bs (suspendBody s2 gd ia (imageWords bs)))) := by
  show execSuspend gd ga s = _
  simp only [execSuspend, hr, hl, checkAlign_aligned s1 h32, Eff.andThen_ok, suspendBody]
  cases s2.me.susp with
  | some u => rfl
  | none =>
    refine congrArg (fun e => conclude s (orGiveUp (holding ia bs e))) (congrArg (Eff.andThen _) (funext fun u => funext fun s' => ?_))
    unfold suspendStart decidedFirst
    cases u.pin <;> rfl

theorem exec_suspend_settles {t : State} (h : Settles (suspendBody s2 gd ia (imageWords bs)) t) :
    exec (.suspend gd ga) s = .next t := by
  rw [exec_suspend hr h32 hl]
  exact (h.holding ia bs).orGiveUp.conclude s

theorem exec_suspend_trap {c : Cause} {v : Word} (h : suspendBody s2 gd ia (imageWords bs) = .trap c v) :
    exec (.suspend gd ga) s = .next (takeFault (dropSusp s s.cur) c v) := by
  rw [exec_suspend hr h32 hl, h]
  rfl

end

section
variable {s s4 s5 : State} {gd : Reg} {u : Susp} {r : RecAt} {k : State → Eff State} (hrel : release s 4 = .ok () s4)
  (hc : chooseRecord s4 s4.myCore s4.me.region 0 = some (r, s5))
include hrel hc

theorem lazySuspend_mixed {v : Word} (hm : mixedHeaders s5 r u.frame.ops = some v) : lazySuspend s gd u k = .trap .mixsize v := by
  refine released_trap hrel ?_
  dsimp only
  rw [hc]
  dsimp only
  rw [hm]

theorem lazySuspend_settles {s6 w v t : State} {hd : Header} (hm : mixedHeaders s5 r u.frame.ops = none)
    (hh : recHeader s5 r = (hd, s6))
    (hw : w = writeRecord (takeRefs s6 s6.myCore u.frame.ops) r hd u.depth u.frame.satf u.frame.ops u.frame.w0 u.frame.w4 u.frame.w5)
    (hk : k w = .ok v v) (ht : Settles (effectDone v gd (mkHandle 2 v.me.region r.a hd.gen)) t) :
    Settles (lazySuspend s gd u k) t := by
  refine Settles.released hrel ?_
  dsimp only
  rw [hc]
  dsimp only
  rw [hm]
  dsimp only
  rw [hh]
  dsimp only
  rw [← hw, hk, Eff.andThen_ok]
  exact ht

end

theorem suspendBody_checked {s s3 : State} {gd : Reg} {ia : Word} {t : TileWords} {u : Susp} (hs : s.me.susp = none)
    (hc : suspendChecks s gd ia t = .ok u s3) : suspendBody s gd ia t = suspendStart gd ia u s3 := by
  rw [suspendBody, hs]
  dsimp only
  rw [hc, Eff.andThen_ok]

theorem suspendBody_decided {s : State} {gd : Reg} {ia : Word} {t : TileWords} {u : Susp} (hs : s.me.susp = some u) :
    suspendBody s gd ia t = suspendOn s gd ia t u := by
  rw [suspendBody, hs]

theorem suspendStart_lazy {s : State} {gd : Reg} {ia : Word} {u : Susp} {p : Nat} (h : u.pin = some p) :
    suspendStart gd ia u s =
      decidedFirst (fun s0 => decideSusp u (keepPops s s0)) (lazySuspend (decideSusp u s) gd u (fun s => .ok s s)) := by
  rw [suspendStart, h]

theorem suspendStart_strict {s : State} {gd : Reg} {ia : Word} {u : Susp} (h : u.pin = none) :
    suspendStart gd ia u s = act s (fun s0 => strictSuspend ia u (decideSusp u s0)) := by
  rw [suspendStart, h]

theorem suspendOn_lazy {s : State} {gd : Reg} {ia : Word} {t : TileWords} {u : Susp} {p : Nat} (h : u.pin = some p) :
    suspendOn s gd ia t u = lazySuspend s gd u (fun s => operandsAgain s t) := by
  rw [suspendOn, h]

theorem suspendOn_strict {s : State} {gd : Reg} {ia : Word} {t : TileWords} {u : Susp} {v : Word} (h : u.pin = none)
    (hr : s.me.reply = some (.val v)) (hv : v ≠ 0) : suspendOn s gd ia t u =
      (operandsAgain s t).andThen fun s _ => writeDone (acquire s 4) gd v := by
  rw [suspendOn, h, hr]
  exact if_neg hv

/-- A SUSPEND that has passed its checks captures the image, its depth and its charge. -/
theorem suspendChecks_ok {s s3 s4 s5 s6 : State} {gd : Reg} {ia : Word} {t : TileWords} {a b c : Word × Nat} {sp : OpSpec}
    (hsp : imageSpec t.w0 = some sp)
    (hbad : badWord t sp true (formats t s.me.fmta s.me.fmtb s.me.fmtc) (ringLen s s.myCore) = none)
    (ha : imageOperand s t 1 = .ok a s3) (hb : imageOperand s3 t 2 = .ok b s4) (hc : imageOperand s4 t 3 = .ok c s5)
    (hw : unwatched s5) (hp : probeG s5 gd = .ok () s6) :
    let f := formats t s.me.fmta s.me.fmtb s.me.fmtc
    suspendChecks s gd ia t = .ok
      ⟨⟨0, t.w0, t.w4, (t.w5 &&& ~~~(0xFFF : W32)) ||| (f.2.2 ++ f.2.1 ++ f.1).setWidth 32, s.me.round,
          [a.1, b.1, c.1], [], none⟩,
        1 + max a.2 (max b.2 c.2),
        if isLazy s6 s6.me.region (1 + max a.2 (max b.2 c.2)) (pinned [a.1, b.1, c.1]) then
          some (pinned [a.1, b.1, c.1]) else none⟩ s6 := by
  intro f
  simp only [suspendChecks, hsp, hbad, ha, hb, hc, hp, Eff.andThen_ok, checkWatch_unwatched hw]
  rfl

theorem freeEval_modMe (s : State) (f : Slot → Slot) : freeEval (s.modMe f) (s.modMe f).myCore = freeEval s s.myCore := rfl

/-- A strict SUSPEND with no evaluation free sleeps, and holds its decision. -/
theorem strictSuspend_sleeps {s : State} {ia : Word} {u : Susp} (h : freeEval s s.myCore = none) :
    strictSuspend ia u s = (s.modMe (fun sl => { sl with reply := none })).sleepFor (.engine 0) ia := by
  rw [strictSuspend]
  dsimp only
  rw [show freeEval (s.modMe _) (s.modMe _).myCore = none from h]

theorem decideSusp_strict {s : State} {u : Susp} (h : u.pin = none) :
    decideSusp u s = s.modMe (fun sl => { sl with susp := some u }) := by
  rw [decideSusp, h]

/-- Settles O43: the members on a handle, and SUSPEND by what it has decided. -/
theorem thunkMembers : Obligations.ThunkMembers := by
  unfold Obligations.ThunkMembers
  refine ⟨fun s s1 s2 t gd ga x hr => ⟨fun a hh => ?tile, fun r hd hh => ?record, fun hbad => ?mkvalProt, fun hl hdev hz hal => ?mkvalAlign,
      fun hl hdev hz hal hw => ?mkval, exec_hstate_null hr, exec_hstate_immediate hr, fun h2 r hd ho => ?hstate⟩,
    fun s s1 s2 s3 s4 s5 s6 t gd ga ia bs hr h32 hl => ⟨fun a b c sp hsp hbad ha hb hc hw hp => ?checks,
      fun u p r hp hrel hc => ?lazy, fun u h hp hs hrep hne hops hw => ?strict, fun u hp hs hc hf hst => ?waits⟩⟩
  case tile =>
    refine ⟨exec_spark_tile hr hh, exec_retain_tile hr hh, fun hi => ?_, fun hi => ⟨fun hm => ?_, fun hm => ?_⟩⟩ <;>
      rw [exec_release_tile hr hh]
    · rw [if_neg (by rw [hi]; decide)]
      exact conclude_done s s2
    · rw [if_pos hi, if_pos (by simpa using hm)]
      exact conclude_done s _
    · rw [if_pos hi, if_neg (by simpa using hm)]
      split
      · rfl
      · exact conclude_done s _
  case record =>
    have hspark := exec_spark_record (gd := gd) hr hh
    have hrelease := exec_release_record hr hh
    refine ⟨fun hst hlen pool hpool => ?_, fun hno => ?_, exec_retain_record hr hh, fun hs => ?_, fun h1 h2 => ?_, fun h1 hst => ?_, fun h1 hst => ?_⟩
    · rw [if_pos ⟨hst, hlen⟩, ← hpool] at hspark
      exact endsWith_of_effectDone hspark
    · rw [if_neg (by simp only [stThunk]; omega)] at hspark
      exact endsWith_of_effectDone hspark
    · rw [hrelease, dropCount_sticky hs]
    · rw [hrelease, dropCount_counts h1 h2]
    · rw [hrelease, dropCount_frees h1 hst]
    · rw [dropCount_marks h1 hst] at hrelease
      have hdoom : (putHeader s2 r { hd with refs := 0 }).doomed = s2.doomed := (congrArg State.doomed (putHeader_work s2 r { hd with refs := 0 }).rest :)
      refine ⟨_, hrelease, ?_, rfl⟩
      rw [← hdoom]
      rfl
  case mkvalProt =>
    have hg : mkvalGood s1 x = false := by
      rw [← Bool.not_eq_true, mkvalGood_iff]
      rintro ⟨hl, hdev, hz⟩
      rcases hbad with h | ⟨h, h'⟩ | h
      · rw [hl] at h; cases h
      · exact hdev.elim h h'
      · exact h hz
    rw [exec_mkval hr, hg]
    rfl
  case mkvalAlign =>
    have hg : mkvalGood s1 x = true := (mkvalGood_iff ..).mpr ⟨hl, hdev, hz⟩
    rw [exec_mkval hr, hg, check_true, Eff.andThen_ok, checkAlign_misaligned s1 hal]
    rfl
  case mkval =>
    have hg : mkvalGood s1 x = true := (mkvalGood_iff ..).mpr ⟨hl, hdev, hz⟩
    rw [exec_mkval hr, hg, check_true, Eff.andThen_ok, checkAlign_aligned s1 hal, Eff.andThen_ok]
    exact conclude_writeDone s hw
  case hstate => exact endsWith_of_effectDone (exec_hstate_record hr h2 ho)
  case checks => exact suspendChecks_ok hsp hbad ha hb hc hw hp
  case lazy =>
    refine ⟨fun v hm => exec_suspend_trap hr h32 hl ?_, fun hm hd s6' w v hh hw hv => endsWith_of_settles fun t' ht =>
      exec_suspend_settles hr h32 hl ?_⟩
    · rcases hrel with ⟨hs, hck, hrel⟩ | ⟨hs, hrel⟩
      · rw [suspendBody_checked hs hck, suspendStart_lazy hp, lazySuspend_mixed hrel hc hm]
        rfl
      · rw [suspendBody_decided hs, suspendOn_lazy hp, lazySuspend_mixed hrel hc hm]
    · rcases hrel with ⟨hs, hck, hrel⟩ | ⟨hs, hrel⟩
      · rw [if_pos hs] at hv
        rw [suspendBody_checked hs hck, suspendStart_lazy hp]
        exact (lazySuspend_settles hrel hc hm hh hw (hv ▸ rfl) ht).decidedFirst _
      · rw [if_neg (by rw [hs]; simp)] at hv
        rw [suspendBody_decided hs, suspendOn_lazy hp]
        exact lazySuspend_settles hrel hc hm hh hw hv ht
  case strict =>
    refine exec_suspend_settles hr h32 hl ?_
    rw [suspendBody_decided hs, suspendOn_strict hp hrep hne, hops, Eff.andThen_ok, writeDone, hw]
    exact .inl rfl
  case waits =>
    have hexec : exec (.suspend gd ga) s =
        .next (strictSuspend ia u (decideSusp u (keepPops s3 (s.modMe (holding.keep ia bs))))) := by
      rw [exec_suspend hr h32 hl, suspendBody_checked hs hc, suspendStart_strict hp]
      rfl
    rw [decideSusp_strict hp, keepPops, State.modMe_modMe, State.modMe_modMe,
      strictSuspend_sleeps ((freeEval_modMe _ _).trans hf), State.modMe_modMe] at hexec
    refine ⟨_, ⟨.engine 0, _, _, ia, false⟩, hexec, congrArg Slot.status (sleepFor_awake ?awake (.engine 0) ia), rfl, ?susp, rfl⟩
    · rw [State.me_modMe]; exact hst
    · rw [sleepFor_awake (by rw [State.me_modMe]; exact hst), State.me_modMe]

end Sys2Proof.Machine
end


section
/-! The events of thunk engines (R208 to R219). -/

namespace Sys2Proof.Machine

/-! Sparks. -/

theorem findIdx_one {α : Type} {p : α → Bool} {x : α} (h : p x = true) : findIdx p [x] = some (0, x) := by
  simp [findIdx, h]

section
variable {s : State} {c : Nat} {x : Word} {ctx : Nat} (hidle : ∀ i ∈ [0, 1, 2, 3], (s.eval (4 * c + i)).phase = .idle)
  (hhalt : s.halted = []) (hgang : s.gangs = []) (hstop : (s.core c).stopped = false) (hlive : isLiveCore s c = true)
  (hpool : sparksOf s (clusterOf s c) = [⟨x, (s.core c).part.toNat, ctx⟩]) (hctx : ctx = residentCtx s c)
include hidle hhalt hgang hstop hlive hpool hctx

/-- An idle engine takes the one spark of the pool. -/
theorem exec_sparkTake : exec (.sparkTake c) s = .next (
    match checkHandle { s with sparks := mapPut s.sparks (clusterOf s c) [] } ⟨c, 8 * c, hRegion x⟩ x with
    | .ok (.record r hd, s') =>
      if hd.st = stThunk then evalRecord s' (4 * c) (hRegion x) ctx true none x r hd
      else { s with sparks := mapPut s.sparks (clusterOf s c) [] }
    | _ => { s with sparks := mapPut s.sparks (clusterOf s c) [] }) := by
  have hall : (List.range 4).all (fun i => (s.eval (4 * c + i)).phase == .idle) = true :=
    List.all_eq_true.mpr fun i hi => beq_iff_eq.mpr (hidle i (by revert i; decide))
  have hdue : switchDue s c = false := by rw [switchDue, hgang]; rfl
  have hfind : findIdx (fun p : Spark => p.part == (s.core c).part.toNat && p.ctx == residentCtx s c)
      [⟨x, (s.core c).part.toNat, ctx⟩] = some (0, ⟨x, (s.core c).part.toNat, ctx⟩) :=
    findIdx_one (by simp [hctx])
  show execSparkTake c s = _
  simp only [execSparkTake, hall, hdue, hhalt, hstop, hlive, hpool, hfind] <;> rfl

end

theorem sparksOf_mapPut (s : State) (cl d : Nat) (ps : List Spark) :
    sparksOf { s with sparks := mapPut s.sparks cl ps } d = if d = cl then ps else sparksOf s d := by
  simp only [sparksOf, mapGet_mapPut]
  split <;> rfl

/-! Wakes. -/

theorem slotLink_kind (slot : Nat) : ((slotLink slot).extractLsb' 62 2).toNat = 1 := by
  have h : (slotLink slot).extractLsb' 62 2 = 1#2 := by
    refine BitVec.eq_of_getLsbD_eq fun i hi => ?_
    have happ := BitVec.getLsbD_append (x := 1#2) (y := BitVec.ofNat 62 slot) (i := 62 + i)
    rw [BitVec.getLsbD_extractLsb', decide_eq_true hi, Bool.true_and]
    exact happ.trans (by simp)
  rw [h]; rfl

theorem linkNum_slotLink {slot : Nat} (h : slot < 2 ^ 14) : linkNum (slotLink slot) = slot := by
  have hlow : (slotLink slot).extractLsb' 0 14 = BitVec.ofNat 14 slot := by
    refine BitVec.eq_of_getLsbD_eq fun i hi => ?_
    have h62 : i < 62 := by omega
    have happ := BitVec.getLsbD_append (x := 1#2) (y := BitVec.ofNat 62 slot) (i := i)
    rw [BitVec.getLsbD_extractLsb', decide_eq_true hi, Bool.true_and, Nat.zero_add, BitVec.getLsbD_ofNat, decide_eq_true hi]
    exact happ.trans (by rw [if_pos h62, BitVec.getLsbD_ofNat, decide_eq_true h62])
  rw [linkNum, if_pos (slotLink_kind slot), hlow, BitVec.toNat_ofNat, Nat.mod_eq_of_lt h]

/-- What a wake answers a slot. -/
def wakeReply (hdl : Word) : WakeEvent → Reply
  | .value | .retry => .val 0
  | .handle v => .val v
  | .fault c v => .fault c v
  | .staleh => .fault .staleh hdl

section
variable {s : State} {slot : Nat} {z : Sleep} {h : Word} (hlt : slot < 2 ^ 14) (hst : (s.slot slot).status = .asleep z)
  (hk : z.kind = .thunk h)
include hlt hst hk

/-- A wake reaches a slot that sleeps on its record. -/
theorem exec_evalWake_slot {w : WakeEvent} (hw : s.wakes = [⟨slotLink slot, h, w⟩]) :
    exec (.evalWake 0) s = .next (answer { s with wakes := [] } slot (wakeReply h w)) := by
  have hst' : (State.slot { s with wakes := [] } slot).status = .asleep z := hst
  show execEvalWake 0 s = _
  simp only [execEvalWake, hw, List.getElem?_cons_zero, slotLink_kind, if_true, linkNum_slotLink hlt, wakeSlot]
  rw [show dropAt [Wake.mk (slotLink slot) h w] 0 = [] from rfl, hst']
  dsimp only
  rw [if_pos hk]
  cases w <;> rfl

theorem exec_evalWake_answers {w : WakeEvent} (hw : s.wakes = [⟨slotLink slot, h, w⟩]) :
    ∃ t, exec (.evalWake 0) s = .next t ∧ t.wakes = [] ∧ (t.slot slot).status = .ready ∧
      (t.slot slot).reply = some (wakeReply h w) := by
  refine ⟨_, exec_evalWake_slot hlt hst hk hw, rfl, ?_, ?_⟩ <;> rw [answer_slot_same]

end

/-! Commands of evaluations. -/

section
variable {s : State} {ev : Nat} {f : EvalFrame} {rest : List EvalFrame}

theorem exec_frameGrant {a : Word} (hph : (s.eval ev).phase = .frame) (hstack : (s.eval ev).stack = f :: rest)
    (hf : f.frame = some a) (hop : f.ops.getD 2 0 = 0)
    (hroom : queueRoom (s.modEval ev (fun _ => { s.eval ev with phase := .command, done := none, stack := f :: rest })) (ev / 4)
      (evalCommand s ev f a).words = true) (hhalt : evalHalted s ev = false) :
    exec (.frameGrant ev) s = .next (pushCmd
      (s.modEval ev (fun _ => { s.eval ev with phase := .command, done := none, stack := f :: rest })) (ev / 4)
      (evalCommand s ev f a)) := by
  show execFrameGrant ev s = _
  simp only [execFrameGrant, hph, hstack, hhalt, Bool.false_eq_true, if_false, issueEval, hf, Option.map_some, issueEval.go, hroom,
    Bool.not_true, hop]
  rfl

theorem exec_frameGrant_halted (hhalt : evalHalted s ev = true) : exec (.frameGrant ev) s = .next s := by
  show execFrameGrant ev s = _
  unfold execFrameGrant
  split
  · rw [if_pos hhalt]
  · rfl

theorem exec_evalCommandComplete_halted (hhalt : evalHalted s ev = true) : exec (.evalCommandComplete ev) s = .next s := by
  show execEvalCommandComplete ev s = _
  rw [execEvalCommandComplete]
  exact congrArg Host.Outcome.next (if_pos hhalt)

theorem eval_modEval_same (s : State) (e : Nat) (f : Eval → Eval) : (s.modEval e f).eval e = f (s.eval e) := by
  simp [State.modEval, State.eval]

theorem endEval_idle (s : State) (e : Nat) : ((endEval s e).eval e).phase = .idle := by
  simp [endEval, State.eval, Eval.init]

theorem exec_evalCommandComplete_strict {slot : Nat} {a : Word} (hph : (s.eval ev).phase = .command)
    (hdone : (s.eval ev).done = some none) (hstack : (s.eval ev).stack = [f]) (hf : f.hdl = 0) (ha : f.frame = some a)
    (hwait : (s.eval ev).waiter = some slot) (hhalt : evalHalted s ev = false) :
    exec (.evalCommandComplete ev) s = .next (endEval ((sendWake s (slotLink slot) 0
      (.handle (mkHandle 1 (s.eval ev).region a 0))).modEval ev (fun v => { v with stack := [], done := none })) ev) := by
  show execEvalCommandComplete ev s = _
  simp only [execEvalCommandComplete, hhalt, Bool.false_eq_true, if_false, hph, hdone, hstack, finishTop, hf, if_true, ha,
    Option.getD_some, finishStrict, hwait, List.isEmpty_nil]

end

theorem exec_referenceDrop {s s1 s2 : State} {x : Word} {r : RecAt} {hd : Header} (h : s.refDrops = [x])
    (hr : recAt { s with refDrops := [] } 0 (hAddr x) = some (r, s1)) (hh : recHeader s1 r = (hd, s2)) (hst : hd.st ≠ 0)
    (hg : hd.gen = hGen x) (hs : hd.refs ≠ 65535) (h1 : 1 < hd.refs) :
    exec (.referenceDrop 0) s = .next (putHeader s2 r { hd with refs := hd.refs - 1 }) := by
  show execReferenceDrop 0 s = _
  simp only [execReferenceDrop, h, List.getElem?_cons_zero]
  rw [show dropAt [x] 0 = [] from rfl, dropRef, hr]
  dsimp only
  rw [hh]
  dsimp only
  rw [if_neg (by simp [stFree, hst, hg]), dropCount_counts hs h1]

/-- Settles O44: each event of an engine by the state it finds. -/
theorem thunkEvents : Obligations.ThunkEvents := by
  unfold Obligations.ThunkEvents
  refine ⟨fun s s1 c x ctx hidle hhalt hgang hstop hlive hpool hctx => ?takes,
    fun s cl i => ⟨_, rfl, ?_, fun d hd => ?_, rfl⟩,
    fun s slot z h hlt hst hk => ⟨exec_evalWake_answers hlt hst hk, fun c v => exec_evalWake_answers hlt hst hk,
      fun v => exec_evalWake_answers hlt hst hk⟩,
    fun s ev f rest a hph hstack hf hop hroom hhalt => exec_frameGrant hph hstack hf hop hroom hhalt,
    fun s ev slot f a hph hdone hstack hf ha hwait hhalt =>
      ⟨_, exec_evalCommandComplete_strict hph hdone hstack hf ha hwait hhalt, endEval_idle _ _, rfl, rfl⟩,
    fun s ev hhalt => ⟨exec_frameGrant_halted hhalt, exec_evalCommandComplete_halted hhalt⟩,
    fun s s1 s2 x r hd h hr hh hst hg hs h1 => exec_referenceDrop h hr hh hst hg hs h1⟩
  case takes =>
    have htake := exec_sparkTake hidle hhalt hgang hstop hlive hpool hctx
    refine ⟨fun r hd hc hst => ?_, fun r hd hc hst => ?_, fun k hc => ?_⟩ <;> rw [htake, hc]
    · exact congrArg Host.Outcome.next (if_pos hst)
    · exact congrArg Host.Outcome.next (if_neg hst)
  · rw [sparksOf_mapPut, if_pos rfl]
  · rw [sparksOf_mapPut, if_neg hd]

end Sys2Proof.Machine
end


section
/-! What homes do for snapshots (R297 to R303). -/

namespace Sys2Proof.Machine

/-! What keeps the shadows. -/

/-- Work that leaves every line's shadows, tag and poison as they are. -/
structure KeepsShadows (s t : State) : Prop where
  shadows : ∀ l, (t.line l).shadows = (s.line l).shadows
  tag : ∀ l, (t.line l).tag = (s.line l).tag
  poison : ∀ l, (t.line l).poison = (s.line l).poison

theorem KeepsShadows.refl (s : State) : KeepsShadows s s := ⟨fun _ => rfl, fun _ => rfl, fun _ => rfl⟩

theorem KeepsShadows.trans {s t u : State} (h : KeepsShadows s t) (h' : KeepsShadows t u) : KeepsShadows s u :=
  ⟨fun l => (h'.shadows l).trans (h.shadows l), fun l => (h'.tag l).trans (h.tag l), fun l => (h'.poison l).trans (h.poison l)⟩

/-- Work that changes of a line neither of the three. -/
theorem KeepsShadows.of_line {s t : State}
    (h : ∀ l, ∃ sl v d st sh, t.line l = { s.line l with slice := sl, version := v, dirty := d, strong := st, sharers := sh }) :
    KeepsShadows s t := by
  refine ⟨fun l => ?_, fun l => ?_, fun l => ?_⟩ <;> obtain ⟨_, _, _, _, _, hl⟩ := h l <;> rw [hl]

theorem KeepsShadows.of_lines {s t : State} (h : t.lines = s.lines) : KeepsShadows s t :=
  .of_line fun l => ⟨_, _, _, _, _, by rw [State.line, h]; rfl⟩

theorem KeepsShadows.foldl {α : Type} {f : State → α → State} (h : ∀ s a, KeepsShadows s (f s a)) (xs : List α) (s : State) :
    KeepsShadows s (xs.foldl f s) := by
  induction xs generalizing s with
  | nil => exact .refl s
  | cons x xs ih => exact (h s x).trans (ih _)

/-- A line changed in neither of the three. -/
theorem modLine_keeps (s : State) (l : Nat) (f : LineInfo → LineInfo)
    (h : ∃ sl v d st sh, f (s.line l) = { s.line l with slice := sl, version := v, dirty := d, strong := st, sharers := sh }) :
    KeepsShadows s (s.modLine l f) := .of_line fun m => by
  rw [modLine_line]
  split
  · rename_i hm; rw [hm]; exact h
  · exact ⟨_, _, _, _, _, rfl⟩

theorem markSharers_keeps (s : State) (b : Nat) (ls : List Nat) : KeepsShadows s (markSharers s b ls) :=
  .foldl (fun _ _ => modLine_keeps _ _ _ ⟨_, _, _, _, _, rfl⟩) ls s

theorem modWalks_keeps (s : State) (r : Reader) (f : List WalkEntry → List WalkEntry) : KeepsShadows s (modWalks s r f) := by
  cases r <;> exact .of_lines rfl

theorem walk_keeps (s : State) (r : Reader) (va : Nat) : KeepsShadows s (walk s r va).2 := by
  unfold walk
  split
  · exact .refl s
  · dsimp only
    split
    · split
      · exact markSharers_keeps ..
      · exact markSharers_keeps ..
      · exact (markSharers_keeps ..).trans (modWalks_keeps ..)
    · exact .refl s

theorem leafFor_keeps {s t : State} {r : Reader} {va : Nat} {x : Word × Nat} (h : leafFor s r va = .ok (x, t)) :
    KeepsShadows s t := by
  have hw := walk_keeps s r va
  unfold leafFor at h
  split at h
  · rename_i heq
    cases h
    rwa [heq] at hw
  · cases h

theorem sendInvals_keeps (s : State) (w : Option Waiter) (f : Nat → Bool) : KeepsShadows s (sendInvals s w f) :=
  .of_line fun l => by
    rw [sendInvals_line]
    split
    · exact ⟨_, _, _, _, _, rfl⟩
    · exact ⟨_, _, _, _, _, rfl⟩

theorem makeRoom_keeps (s : State) (h : Nat) : KeepsShadows s (makeRoom s h) := by
  have hdraw : KeepsShadows s s.draw.2 := .of_lines rfl
  unfold makeRoom evictLine
  dsimp only
  split
  · exact .refl s
  · split
    · exact hdraw.trans (sendInvals_keeps _ _ _)
    · exact hdraw.trans (modLine_keeps _ _ _ ⟨_, _, _, _, _, rfl⟩)

theorem touchLine_keeps (s : State) (l h : Nat) : KeepsShadows s (touchLine s l h) := by
  unfold touchLine
  split
  · exact .refl s
  · have hver : KeepsShadows (makeRoom s h) (nextVersion (makeRoom s h) h (s.line l).version).2 := .of_lines rfl
    exact ((makeRoom_keeps s h).trans hver).trans (modLine_keeps _ _ _ ⟨_, _, _, _, _, rfl⟩)

theorem rawWrite_keeps (s : State) (p : Nat) (bs : List Byte) : KeepsShadows s (rawWrite s p bs) := .of_line fun l => by
  obtain ⟨v, d, h⟩ := rawWrite_line s p bs l
  exact ⟨_, v, d, _, _, h⟩

theorem putRegion_keeps (s : State) (r : Nat) (g : Region) : KeepsShadows s (putRegion s r g) := .of_line fun l => by
  obtain ⟨v, d, h⟩ := (putRegion_spec s r g).2.2.1 l
  exact ⟨_, v, d, _, _, h⟩

theorem charge_keeps {s t : State} {r : Nat} {xs : List (BudgetName × Nat)} (h : charge s r xs = some t) : KeepsShadows s t := by
  unfold charge at h
  split at h
  · cases h; exact putRegion_keeps ..
  · cases h

theorem clearStrong_keeps (s : State) (p n : Nat) : KeepsShadows s (clearStrong s p n) := by
  unfold clearStrong
  split
  · exact .refl s
  · split
    · exact modLine_keeps _ _ _ ⟨_, _, _, _, _, rfl⟩
    · exact .refl s

theorem chooseLine_keeps {s t : State} {r : Nat} {a : Word} (h : chooseLine s r = some (a, t)) : KeepsShadows s t := by
  unfold chooseLine at h
  dsimp only at h
  split at h
  · cases h
  · obtain ⟨i, -, hi⟩ := Option.map_eq_some_iff.mp h
    cases hi
    exact .of_lines rfl

theorem takePoolLine_keeps {s t : State} {r h : Nat} {a : Word} (ht : takePoolLine s r h = some (a, t)) : KeepsShadows s t := by
  unfold takePoolLine at ht
  split at ht
  · cases ht
  · rename_i hc
    split at ht
    · cases ht
    · rename_i hl
      split at ht
      · cases ht
        exact (chooseLine_keeps hc).trans (leafFor_keeps hl)
      · cases ht

theorem poolMiss_keeps (s : State) (r h : Nat) : KeepsShadows s (poolMiss s r h) := by
  unfold poolMiss
  split
  · exact .refl s
  · exact walk_keeps ..

/-! What keeps the snapshots, and what keeps memory. -/

theorem markSharers_rest (s : State) (b : Nat) (ls : List Nat) : { markSharers s b ls with lines := s.lines } = s := by
  unfold markSharers
  induction ls generalizing s with
  | nil => rfl
  | cons l ls ih => exact congrArg (fun u : State => { u with lines := s.lines }) (ih (s.modLine l _))

theorem markSharers_kept (s : State) (b : Nat) (ls : List Nat) :
    (markSharers s b ls).mem = s.mem ∧ (markSharers s b ls).snaps = s.snaps := by
  have h := markSharers_rest s b ls
  generalize markSharers s b ls = t at h
  exact ⟨(congrArg State.mem h :), (congrArg State.snaps h :)⟩

theorem walk_kept (s : State) (r : Reader) (va : Nat) : (walk s r va).2.mem = s.mem ∧ (walk s r va).2.snaps = s.snaps := by
  unfold walk
  split
  · exact ⟨rfl, rfl⟩
  · dsimp only
    split
    · split
      · exact markSharers_kept ..
      · exact markSharers_kept ..
      · cases r <;> exact markSharers_kept ..
    · exact ⟨rfl, rfl⟩

theorem leafFor_kept {s t : State} {r : Reader} {va : Nat} {x : Word × Nat} (h : leafFor s r va = .ok (x, t)) :
    t.mem = s.mem ∧ t.snaps = s.snaps := by
  have hw := walk_kept s r va
  unfold leafFor at h
  split at h
  · rename_i heq
    cases h
    rwa [heq] at hw
  · cases h

theorem takePoolLine_snaps {s t : State} {r h : Nat} {a : Word} (ht : takePoolLine s r h = some (a, t)) : t.snaps = s.snaps := by
  unfold takePoolLine at ht
  split at ht
  · cases ht
  · rename_i hc
    split at ht
    · cases ht
    · rename_i hl
      split at ht
      · cases ht
        refine (leafFor_kept hl).2.trans ?_
        unfold chooseLine at hc
        dsimp only at hc
        split at hc
        · cases hc
        · obtain ⟨i, -, hi⟩ := Option.map_eq_some_iff.mp hc
          cases hi
          rfl
      · cases ht

theorem charge_snaps {s t : State} {r : Nat} {xs : List (BudgetName × Nat)} (h : charge s r xs = some t) : t.snaps = s.snaps := by
  unfold charge at h
  split at h
  · cases h
    exact (congrArg State.snaps (putRegion_spec s r _).2.1 :)
  · cases h

theorem poolMiss_kept (s : State) (r h : Nat) : (poolMiss s r h).mem = s.mem ∧ (poolMiss s r h).snaps = s.snaps := by
  unfold poolMiss
  split
  · exact ⟨rfl, rfl⟩
  · exact walk_kept ..

theorem makeRoom_rest (s : State) (h : Nat) :
    { makeRoom s h with lines := s.lines, invals := s.invals, freeCtr := s.freeCtr } = s := by
  unfold makeRoom
  dsimp only
  split
  · rfl
  · split <;> rfl

theorem touchLine_rest (s : State) (l h : Nat) :
    { touchLine s l h with lines := s.lines, invals := s.invals, freeCtr := s.freeCtr, sliceVer := s.sliceVer } = s := by
  have hr := makeRoom_rest s h
  unfold touchLine
  split
  · rfl
  · generalize makeRoom s h = t at hr ⊢
    exact congrArg (fun u : State => { u with sliceVer := s.sliceVer }) hr

/-! The copy-on-write step. -/

section
variable {s : State} {a : Word} {p h : Nat} {n : Snap} (hn : inNeed s a p h = [n])
include hn

omit hn in
theorem levelMask_one (n : Snap) : levelMask [n] = 1#8 <<< n.level := by simp [levelMask]

theorem shadowStep_saves {s1 s' : State} {b : Word} (hp : takePoolLine s n.region h = some (b, s1))
    (hc : charge s1 n.region [(.shadows, 1)] = some s') :
    shadowStep s a p h = s'.modLine (p / 128) (fun i => { i with
      tag := max 0 n.seq
      shadows := ⟨b, readBytes s.mem (p / 128 * 128) 128, i.poison, levelMask [n], n.region, h⟩ :: i.shadows }) := by
  rw [shadowStep, hn]
  dsimp only
  rw [hp]
  simp only [Option.bind_some, hc, Option.map_some]
  rfl

theorem shadowStep_breaks (hno : takePoolLine s n.region h = none ∨
      ∃ b s1, takePoolLine s n.region h = some (b, s1) ∧ charge s1 n.region [(.shadows, 1)] = none) :
    shadowStep s a p h = breakSnap (poolMiss s n.region h) n (a &&& ~~~ (127 : Word)) (some h) := by
  rw [shadowStep, hn]
  dsimp only
  rcases hno with hno | ⟨b, s1, hp, hc⟩
  · rw [hno]
    rfl
  · rw [hp]
    simp only [Option.bind_some, hc, Option.map_none]
    rfl

end

/-! Answers to the tasks that wait. -/

theorem answerTask_slot {s : State} {w : Waiter} (r : Reply) (hg : (s.slot w.slot).gen = w.gen) (hc : (s.slot w.slot).ctx = w.ctx)
    (hst : (s.slot w.slot).status = .waiting .reply) : answerTask s w r = answer s w.slot r :=
  if_pos ⟨hg, hc, awaits_of_status hst⟩

/-- An answer changes slots and drawers alone. -/
theorem answerTask_rest (s : State) (w : Waiter) (r : Reply) :
    { answerTask s w r with slots := s.slots, drawers := s.drawers } = s := by
  unfold answerTask
  dsimp only
  split
  · rfl
  · split
    · split <;> rfl
    · rfl

/-- The snapshots of a device with one, whatever a home's record makes of it. -/
theorem comesFirst_one {s : State} {n : Snap} (h : s.snaps = [n]) (home : Nat) (e : Bool) : comesFirst s n home e = false := by
  simp [comesFirst, h]

theorem map_seq_one (n m : Snap) : [n].map (fun x : Snap => if x.seq = n.seq then m else x) = [m] := by simp

/-- Where a snapshot's task waits for its recording and every home has recorded, the task is answered. -/
def recordedAnswer (s : State) (n : Snap) : State :=
  match n.snapWait, allHomes s n.recorded with
  | some w, true => answerTask { s with snaps := [{ n with snapWait := none }] } w (.val (snapId n))
  | _, _ => s

theorem find_seq_one (n : Snap) : [n].find? (fun m => m.seq == n.seq) = some n := by simp

theorem settleSnap_recorded {s : State} {n : Snap} (h : s.snaps = [n]) (he : n.ending = none) :
    settleSnap s n.seq = recordedAnswer s n := by
  simp only [settleSnap, h, find_seq_one, map_seq_one]
  split
  · rename_i hsome
    rw [he] at hsome
    cases hsome
  · unfold recordedAnswer
    cases n.snapWait <;> cases allHomes s n.recorded <;> rfl

/-- The answer of an end that every home has carried out. -/
def endedAnswer (s : State) (n : Snap) (k : Nat) : State :=
  match n.endWait with
  | some w => answerTask { s with snaps := [] } w (.val (BitVec.ofNat 64 k))
  | none => { s with snaps := [] }

theorem settleSnap_ended {s : State} {n : Snap} {rej : Bool} {ended : BitVec 1024} {k : Nat} (h : s.snaps = [n])
    (hw : n.snapWait = none) (he : n.ending = some (rej, ended, k)) :
    settleSnap s n.seq = if allHomes s ended then endedAnswer s n k else s := by
  have hf : [n].filter (fun m => m.seq != n.seq) = [] := by simp
  simp only [settleSnap, h, find_seq_one, he, hw, hf]
  split
  · unfold endedAnswer
    cases n.endWait <;> rfl
  · rfl

/-! SNAP_ANNOUNCE. -/

section
variable {s : State} {n : Snap} {home : Nat} (h : s.snaps = [n]) (he : n.ending = none) (hr : n.recorded.getLsbD home = false)
  (hl : isLiveCore s home = true)
include h he hr hl

theorem exec_snapAnnounce : exec (.snapAnnounce n.seq home) s =
    .next (recordedAnswer { s with snaps := [{ n with recorded := n.recorded ||| (1#1024 <<< home) }] }
      { n with recorded := n.recorded ||| (1#1024 <<< home) }) := by
  have hmap : [n].map (fun m : Snap => if m.seq = n.seq then { m with recorded := m.recorded ||| (1#1024 <<< home) } else m) =
      [{ n with recorded := n.recorded ||| (1#1024 <<< home) }] := by simp
  show execSnapAnnounce n.seq home s = _
  simp only [execSnapAnnounce, h, find_seq_one, hr, comesFirst_one h, hl, Bool.not_true, Bool.or_self, Bool.false_eq_true, if_false,
    hmap]
  exact congrArg Host.Outcome.next (settleSnap_recorded
    (n := { n with recorded := n.recorded ||| (1#1024 <<< home) }) rfl he)

end

theorem recordedAnswer_kept (s : State) (n : Snap) : (recordedAnswer s n).mem = s.mem ∧
    (s.snaps = [n] → ∃ w, (recordedAnswer s n).snaps = [{ n with snapWait := w }]) := by
  unfold recordedAnswer
  split
  · rename_i w _ _
    have hr := answerTask_rest { s with snaps := [{ n with snapWait := none }] } w (.val (snapId n))
    generalize answerTask { s with snaps := [{ n with snapWait := none }] } w (.val (snapId n)) = t at hr
    exact ⟨(congrArg State.mem hr :), fun _ => ⟨none, (congrArg State.snaps hr :)⟩⟩
  · exact ⟨rfl, fun h => ⟨n.snapWait, h⟩⟩

theorem recordedAnswer_slot {s : State} {n : Snap} {w : Waiter} (ha : allHomes s n.recorded = true) (hw : n.snapWait = some w)
    (hg : (s.slot w.slot).gen = w.gen) (hc : (s.slot w.slot).ctx = w.ctx) (hst : (s.slot w.slot).status = .waiting .reply) :
    ((recordedAnswer s n).slot w.slot).reply = some (.val (snapId n)) ∧ ((recordedAnswer s n).slot w.slot).status = .ready := by
  rw [recordedAnswer, hw, ha]
  dsimp only
  rw [answerTask_slot (s := { s with snaps := [{ n with snapWait := none }] }) _ hg hc hst, answer_slot_same]
  exact ⟨rfl, rfl⟩

/-! The end of a snapshot at a home. -/

/-- The lines after a home has carried out an end. -/
def levelDropped (s : State) (n : Snap) (home : Nat) : State :=
  { s with lines := s.lines.map (fun e => (e.1, dropLevel n.region n.level home e.2)) }

theorem levelDropped_line (s : State) (n : Snap) (home l : Nat) :
    (levelDropped s n home).line l = dropLevel n.region n.level home (s.line l) := by
  rw [State.line, State.line, show (levelDropped s n home).lines = s.lines.map (fun e => (e.1, dropLevel n.region n.level home e.2)) from rfl,
    mapGet_map]
  cases mapGet s.lines l <;> rfl

/-- No shadow of the region at the home serves the level any more. -/
theorem dropLevel_mask (r level home : Nat) (i : LineInfo) :
    ∀ j ∈ (dropLevel r level home i).shadows, j.region = r → j.home = home → j.mask.getLsbD level = false := by
  intro j hj hreg hhome
  obtain ⟨h, -, rfl⟩ := List.mem_map.mp (List.mem_filter.mp hj).1
  by_cases hc : h.region = r ∧ h.home = home
  · simp [if_pos hc]
  · rw [if_neg hc] at hreg hhome
    exact absurd ⟨hreg, hhome⟩ hc

section
variable {s : State} {l home : Nat} {h : Shadow}

theorem clearStrong_rest (s : State) (p n : Nat) : { clearStrong s p n with lines := s.lines } = s := by
  unfold clearStrong
  split
  · rfl
  · split <;> rfl

/-- A restored line: its bytes are written, and regions and snapshots stay. -/
theorem restoreLine_kept : (restoreLine s l home h).mem = writeBytes s.mem (l * 128) h.bytes ∧
    (restoreLine s l home h).regions = s.regions ∧ (restoreLine s l home h).snaps = s.snaps := by
  have ht := touchLine_rest s l home
  have hr := rawWrite_rest (touchLine s l home) (l * 128) h.bytes
  have hm := rawWrite_mem (touchLine s l home) (l * 128) h.bytes
  have hc := clearStrong_rest (rawWrite (touchLine s l home) (l * 128) h.bytes) (l * 128) 128
  unfold restoreLine
  dsimp only
  generalize touchLine s l home = t at *
  generalize rawWrite t (l * 128) h.bytes = u at *
  generalize clearStrong u (l * 128) 128 = v at *
  refine ⟨?_, ?_, ?_⟩
  · rw [← show t.mem = s.mem from (congrArg State.mem ht :), ← hm]
    exact (congrArg State.mem hc :)
  · exact ((congrArg State.regions hc :).trans (congrArg State.regions hr :)).trans (congrArg State.regions ht :)
  · exact ((congrArg State.snaps hc :).trans (congrArg State.snaps hr :)).trans (congrArg State.snaps ht :)

theorem restoreLine_work : HomeWork s (restoreLine s l home h) :=
  ((((touchLine_work ..).trans (rawWrite_work ..)).trans (clearStrong_work ..)).trans (modLine_work ..)).trans (wakeCounters_work ..)

theorem restoreLine_poison : ((restoreLine s l home h).line l).poison = h.poison := by
  show (((clearStrong _ _ _).modLine l (fun i => { i with poison := h.poison })).line l).poison = _
  rw [modLine_line, if_pos rfl]

end

section
variable {s : State} {n : Snap} {home l : Nat} {i : LineInfo} {h : Shadow} {hs : List Shadow} (hlines : s.lines = [(l, i)])
  (hi : i.shadows = h :: hs) (hreg : h.region = n.region) (hhome : h.home = home) (hmask : h.mask.getLsbD n.level = true)
include hlines hi hreg hhome hmask

/-- The one line of the snapshot is restored where its end is a REJECT's; its level is dropped, and what no other level needs
is refunded. -/
theorem endAtHome_one (rej : Bool) : ∃ x, endAtHome s n rej home =
    (refund (levelDropped (if rej then restoreLine s l home h else s) n home) n.region [(.shadows, x)], if rej then 1 else 0) := by
  let u := if rej then restoreLine s l home h else s
  refine ⟨(allShadows u).length - (allShadows (levelDropped u n home)).length, ?_⟩
  simp only [endAtHome, hlines, List.filter_cons, List.filter_nil, hi, hreg, hhome, hmask, beq_self_eq_true, Bool.and_self, if_true,
    List.foldl_cons, List.foldl_nil]
  cases rej <;> rfl

end

/-- What a home has done at its part of an end: `t` is the state, with the one snapshot as it stands then. -/
structure EndsAt (s t : State) (n : Snap) (l : Nat) (h : Shadow) (rej : Bool) (home : Nat) : Prop where
  work : HomeWork s t
  snaps : t.snaps = s.snaps
  masks : ∀ j ∈ (t.line l).shadows, j.region = n.region → j.home = home → j.mask.getLsbD n.level = false
  bytes : ∀ a, blockClear s n.region a 1 → byteAt t.mem a =
    byteAt (if rej then writeBytes s.mem (l * 128) h.bytes else s.mem) a
  poison : rej = true → (t.line l).poison = h.poison

theorem HomeWork.ite {s t u : State} {c : Prop} [Decidable c] (ht : HomeWork s t) (hu : HomeWork s u) :
    HomeWork s (if c then t else u) := by
  split
  · exact ht
  · exact hu

theorem levelDropped_work (s : State) (n : Snap) (home : Nat) : HomeWork s (levelDropped s n home) := .light rfl rfl rfl rfl

theorem endsAt_refund {s : State} (n : Snap) (l home : Nat) (h : Shadow) (rej : Bool) (x : Nat) :
    EndsAt s (refund (levelDropped (if rej then restoreLine s l home h else s) n home) n.region [(.shadows, x)]) n l h rej home := by
  have hu : HomeWork s (if rej then restoreLine s l home h else s) := .ite restoreLine_work (.refl s)
  have hmem : (if rej then restoreLine s l home h else s).mem = if rej then writeBytes s.mem (l * 128) h.bytes else s.mem := by
    cases rej
    · rfl
    · exact restoreLine_kept.1
  have hreg : (if rej then restoreLine s l home h else s).region n.region = s.region n.region := by
    cases rej
    · rfl
    · exact region_congr restoreLine_kept.2.1 _
  have hsnaps : (if rej then restoreLine s l home h else s).snaps = s.snaps := by
    cases rej
    · rfl
    · exact restoreLine_kept.2.2
  have hpois : rej = true → ((if rej then restoreLine s l home h else s).line l).poison = h.poison := fun hr => by
    rw [if_pos hr]
    exact restoreLine_poison
  generalize (if rej then restoreLine s l home h else s) = u at *
  have hk := putRegion_keeps (levelDropped u n home) n.region (subCounts ((levelDropped u n home).region n.region) [(.shadows, x)])
  have hspec := putRegion_spec (levelDropped u n home) n.region (subCounts ((levelDropped u n home).region n.region) [(.shadows, x)])
  refine ⟨(hu.trans (levelDropped_work u n home)).trans (refund_work ..), ?_, ?_, fun a ha => ?_, fun hr => ?_⟩
  · exact (congrArg State.snaps hspec.2.1 :).trans hsnaps
  · rw [refund, State.modRegion, hk.shadows, levelDropped_line]
    exact dropLevel_mask n.region n.level home _
  · rw [refund, State.modRegion, hspec.2.2.2.2 a, ← hmem]
    · rfl
    · intro q hq
      have hphys : (s.region n.region).phys = some q := by
        rw [← hreg]
        exact hq
      have := ha q hphys
      omega
  · rw [refund, State.modRegion, hk.poison, levelDropped_line]
    exact hpois hr

theorem progressEndings_none {s : State} (h : s.endings = []) : progressEndings s = s := by
  rw [progressEndings, h]
  show { s with endings := [] } = s
  rw [← h]

section
variable {s : State} {n : Snap} {home l k : Nat} {rej : Bool} {ended : BitVec 1024} {i : LineInfo} {h : Shadow} {hs : List Shadow}
  (hsn : s.snaps = [n]) (hend : n.ending = some (rej, ended, k)) (hnot : ended.getLsbD home = false)
  (hrec : n.recorded.getLsbD home = true) (hfirst : storesFirst s n home = false) (hlive : isLiveCore s home = true)
  (hlines : s.lines = [(l, i)]) (hi : i.shadows = h :: hs) (hreg : h.region = n.region) (hhome : h.home = home)
  (hmask : h.mask.getLsbD n.level = true)
include hsn hend hnot hrec hfirst hlive hlines hi hreg hhome hmask

theorem snapEndAt_one : ∃ u, EndsAt s u n l h rej home ∧ snapEndAt n.seq home s =
    settleSnap { u with snaps := [{ n with ending := some (rej, ended ||| (1#1024 <<< home), k + if rej then 1 else 0) }] } n.seq := by
  obtain ⟨x, hx⟩ := endAtHome_one hlines hi hreg hhome hmask rej
  have hu := endsAt_refund (s := s) n l home h rej x
  generalize refund (levelDropped (if rej then restoreLine s l home h else s) n home) n.region [(.shadows, x)] = u at hx hu
  refine ⟨u, hu, ?_⟩
  have hmap : u.snaps.map (fun x : Snap => if x.seq = n.seq then
      { n with ending := some (rej, ended ||| (1#1024 <<< home), k + if rej then 1 else 0) } else x) =
      [{ n with ending := some (rej, ended ||| (1#1024 <<< home), k + if rej then 1 else 0) }] := by
    rw [hu.snaps, hsn, map_seq_one]
  rw [← hmap, snapEndAt, hsn, find_seq_one]
  dsimp only
  rw [hend]
  dsimp only
  rw [if_neg (by simp [hnot, hrec, comesFirst_one hsn, hfirst, hlive]), hx]

end

theorem allHomes_congr {s t : State} (hg : t.grade = s.grade) (hr : t.retired = s.retired) (m : BitVec 1024) :
    allHomes t m = allHomes s m := by
  have hn : t.logicalCores = s.logicalCores := by rw [State.logicalCores, State.liveCores, hg]; rfl
  have hl : isLiveCore t = isLiveCore s := funext fun c => by rw [isLiveCore, isLiveCore, hn, hr]
  rw [allHomes, allHomes, hn, hl]

theorem HomeWork.allHomes {s t : State} (h : HomeWork s t) (m : BitVec 1024) : Machine.allHomes t m = Machine.allHomes s m :=
  allHomes_congr (congrArg State.grade h.rest :) (congrArg State.retired h.rest :) m

theorem endedAnswer_kept (s : State) (n : Snap) (k : Nat) : (endedAnswer s n k).mem = s.mem ∧ (endedAnswer s n k).lines = s.lines ∧
    (endedAnswer s n k).snaps = [] ∧ (endedAnswer s n k).endings = s.endings := by
  unfold endedAnswer
  split
  · rename_i w _
    have hr := answerTask_rest { s with snaps := [] } w (.val (BitVec.ofNat 64 k))
    generalize answerTask { s with snaps := [] } w (.val (BitVec.ofNat 64 k)) = t at hr
    exact ⟨(congrArg State.mem hr :), (congrArg State.lines hr :), (congrArg State.snaps hr :), (congrArg State.endings hr :)⟩
  · exact ⟨rfl, rfl, rfl, rfl⟩

theorem endedAnswer_slot {s : State} {n : Snap} {k : Nat} {w : Waiter} (hw : n.endWait = some w)
    (hg : (s.slot w.slot).gen = w.gen) (hc : (s.slot w.slot).ctx = w.ctx) (hst : (s.slot w.slot).status = .waiting .reply) :
    ((endedAnswer s n k).slot w.slot).status = .ready ∧
      ((endedAnswer s n k).slot w.slot).reply = some (.val (BitVec.ofNat 64 k)) := by
  rw [endedAnswer, hw]
  dsimp only
  rw [answerTask_slot (s := { s with snaps := [] }) _ hg hc hst, answer_slot_same]
  exact ⟨rfl, rfl⟩

/-- An end at a home, with the snapshot's own answer where it is the last. -/
theorem exec_snapshotEndAnnounce {s u : State} {n : Snap} {home k : Nat} {rej : Bool} {ended : BitVec 1024}
    (hu : HomeWork s u) (hendings : s.endings = []) (hwait : n.snapWait = none) (hstep : snapEndAt n.seq home s =
      settleSnap { u with snaps := [{ n with ending := some (rej, ended, k) }] } n.seq) :
    exec (.snapshotEndAnnounce n.seq home) s = .next (
      if allHomes s ended then endedAnswer { u with snaps := [{ n with ending := some (rej, ended, k) }] } n k
      else { u with snaps := [{ n with ending := some (rej, ended, k) }] }) := by
  have hset := settleSnap_ended (s := { u with snaps := [{ n with ending := some (rej, ended, k) }] })
    (n := { n with ending := some (rej, ended, k) }) rfl hwait rfl
  have hall : allHomes { u with snaps := [{ n with ending := some (rej, ended, k) }] } ended = allHomes s ended := hu.allHomes ended
  have hend : u.endings = [] := (congrArg State.endings hu.rest :).trans hendings
  rw [hall] at hset
  have hset' : snapEndAt n.seq home s = if allHomes s ended then
      endedAnswer { u with snaps := [{ n with ending := some (rej, ended, k) }] } n k
      else { u with snaps := [{ n with ending := some (rej, ended, k) }] } := hstep.trans hset
  show Host.Outcome.next (progressEndings (snapEndAt n.seq home s)) = _
  rw [progressEndings_none, hset']
  rw [hset']
  split
  · exact (endedAnswer_kept ..).2.2.2.trans hend
  · exact hend

theorem line_congr {s t : State} (h : t.lines = s.lines) (l : Nat) : t.line l = s.line l := by
  rw [State.line, h]; rfl

theorem readBytes_congr {m m' : Memory} {a n : Nat} (h : ∀ i, i < n → byteAt m (a + i) = byteAt m' (a + i)) :
    readBytes m a n = readBytes m' a n := by
  apply List.ext_getElem (by simp)
  intro i h1 h2
  rw [getElem_readBytes, getElem_readBytes, h i (by simpa using h1)]

theorem blockClear_byte {s : State} {r a n i : Nat} (h : blockClear s r a n) (hi : i < n) : blockClear s r (a + i) 1 :=
  fun q hq => by have := h q hq; omega

/-- Settles O46: a shadow or a broken snapshot, an announcement, and an end at a home. -/
theorem snapshotEvents : Obligations.SnapshotEvents := by
  unfold Obligations.SnapshotEvents
  refine ⟨fun s s1 s' a b p h n hn hp hc => ?saves, fun s a p h n hn hno => ?breaks, fun s n home h he hr hl => ?announced,
    fun s n home l k rej ended i h hs hsn hendings hend hnot hrec hfirst hwait hlive hlines hi hreg hhome hmask hlen hclear => ?ends⟩
  case saves =>
    have hk := (takePoolLine_keeps hp).trans (charge_keeps hc)
    rw [shadowStep_saves hn hp hc]
    refine ⟨?_, rfl, (charge_snaps hc).trans (takePoolLine_snaps hp)⟩
    rw [modLine_line, if_pos rfl, hk.shadows, hk.poison, levelMask_one]
  case breaks =>
    obtain ⟨hmem, hsnaps⟩ := poolMiss_kept s n.region h
    have hk := poolMiss_keeps s n.region h
    rw [shadowStep_breaks hn hno]
    refine ⟨fun m hm hseq => ?_, hmem, fun l => ⟨hk.shadows l, hk.tag l⟩⟩
    obtain ⟨m', -, rfl⟩ := List.mem_map.mp hm
    split
    · rfl
    · rename_i hne
      rw [if_neg hne] at hseq
      exact absurd hseq hne
  case announced =>
    obtain ⟨hmem, hsnaps⟩ := recordedAnswer_kept { s with snaps := [{ n with recorded := n.recorded ||| (1#1024 <<< home) }] }
      { n with recorded := n.recorded ||| (1#1024 <<< home) }
    obtain ⟨w, hsnaps⟩ := hsnaps rfl
    exact ⟨_, exec_snapAnnounce h he hr hl, hmem, ⟨_, hsnaps, rfl, rfl, rfl, rfl, rfl, he⟩, fun w hall hw hg hc hst =>
      recordedAnswer_slot hall hw hg hc hst⟩
  case ends =>
    obtain ⟨u, hu, hstep⟩ := snapEndAt_one hsn hend hnot hrec hfirst hlive hlines hi hreg hhome hmask
    have hexec := exec_snapshotEndAnnounce hu.work hendings hwait hstep
    generalize hk : k + (if rej then 1 else 0) = k' at *
    have hkept : ∀ t, t = (if allHomes s (ended ||| (1#1024 <<< home)) then
        endedAnswer { u with snaps := [{ n with ending := some (rej, ended ||| (1#1024 <<< home), k') }] } n k'
        else { u with snaps := [{ n with ending := some (rej, ended ||| (1#1024 <<< home), k') }] }) →
        t.mem = u.mem ∧ ∀ l, t.line l = u.line l := by
      rintro t rfl
      split
      · obtain ⟨h1, h2, -, -⟩ := endedAnswer_kept { u with snaps := [{ n with ending := some (rej, ended ||| (1#1024 <<< home), k') }] } n k'
        exact ⟨h1, line_congr h2⟩
      · exact ⟨rfl, fun _ => rfl⟩
    refine ⟨_, hexec, ?_⟩
    obtain ⟨hm, hline⟩ := hkept _ rfl
    rw [hm, hline]
    refine ⟨hu.masks, fun a ha hout => ?_, fun hrej => ⟨?_, hu.poison hrej⟩, fun hall => ?_, fun hall => ?_⟩
    · rw [hu.bytes a ha]
      cases rej with
      | false => rfl
      | true => exact byteAt_writeBytes_outside _ _ _ _ (by rw [hlen]; simpa using hout)
    · rw [← readBytes_writeBytes s.mem (l * 128) h.bytes, hlen]
      refine readBytes_congr fun i hi' => ?_
      rw [hu.bytes _ (blockClear_byte hclear hi'), hrej]
      rfl
    · rw [if_pos hall]
      refine ⟨(endedAnswer_kept ..).2.2.1, fun w hw hg hc hst => ?_⟩
      obtain ⟨r, hslot⟩ := hu.work.slot w.slot
      exact endedAnswer_slot hw ((congrArg Slot.gen hslot).trans hg) ((congrArg Slot.ctx hslot).trans hc)
        ((congrArg Slot.status hslot).trans hst)
    · rw [if_neg (by rw [hall]; decide)]

end Sys2Proof.Machine
end


section
/-! What the I/O dies do on behalf of a slot: reads, writes and updates that leave all but homes, records and what leaves
for other devices as it is. -/

namespace Sys2Proof.Machine

/-- Work at homes and banks, with what it sends to other devices. -/
structure IoWork (s t : State) : Prop where
  rest : { t with
    mem := s.mem, lines := s.lines, sliceVer := s.sliceVer, freeCtr := s.freeCtr, invals := s.invals, cores := s.cores
    westWalks := s.westWalks, eastWalks := s.eastWalks, regions := s.regions, snaps := s.snaps
    trapsInFlight := s.trapsInFlight, slots := s.slots, outbox := s.outbox } = s
  form : Memory.wf s.mem = true → Memory.wf t.mem = true
  slot : ∀ i, ∃ r, t.slot i = { s.slot i with reply := r }
  core : ∀ c, ∃ w, t.core c = { s.core c with walks := w }

theorem HomeWork.io {s t : State} (h : HomeWork s t) : IoWork s t :=
  ⟨congrArg (fun u : State => { u with outbox := s.outbox }) h.rest, h.form, h.slot, h.core⟩

theorem IoWork.refl (s : State) : IoWork s s := (HomeWork.refl s).io

theorem IoWork.trans {s t u : State} (h : IoWork s t) (h' : IoWork t u) : IoWork s u where
  rest := by
    have h1 := h.rest
    rw [← h'.rest] at h1
    exact h1
  form hw := h'.form (h.form hw)
  slot i := by
    obtain ⟨_, h1⟩ := h.slot i
    obtain ⟨_, h2⟩ := h'.slot i
    exact ⟨_, by rw [h2, h1]⟩
  core c := by
    obtain ⟨_, h1⟩ := h.core c
    obtain ⟨_, h2⟩ := h'.core c
    exact ⟨_, by rw [h2, h1]⟩

theorem IoWork.foldl {α : Type} {f : State → α → State} (h : ∀ s a, IoWork s (f s a)) (xs : List α) (s : State) :
    IoWork s (xs.foldl f s) := by
  induction xs generalizing s with
  | nil => exact .refl s
  | cons x xs ih => exact (h s x).trans (ih _)

/-- Something leaves for another device. -/
theorem IoWork.out (s : State) (o : List Out) : IoWork s { s with outbox := o } :=
  ⟨rfl, id, fun _ => ⟨_, rfl⟩, fun _ => ⟨_, rfl⟩⟩

/-- A record leaves for the trap queue. -/
theorem sendRecord_work (s : State) (r : TrapRec) : HomeWork s (s.sendRecord r) := .light rfl rfl rfl rfl

theorem globalLoc_work {s t : State} {w : Who} {a : Word} {n : Nat} {need : Need} {loc : Loc}
    (h : globalLoc s w a n need = .ok (loc, t)) : HomeWork s t := by
  unfold globalLoc at h
  split at h
  · cases h
  · split at h
    · split at h
      · split at h <;> cases h
      · rename_i hl
        dsimp only at h
        split at h
        · cases h
        · split at h
          · cases h
          · split at h
            · cases h; exact leafFor_work hl
            · cases h
    · split at h
      · split at h
        · cases h; exact .refl s
        · cases h
      · cases h

theorem accessLoc_work {s t : State} {w : Who} {a : Word} {n : Nat} {need : Need} {loc : Loc}
    (h : accessLoc s w a n need = .ok (loc, t)) : HomeWork s t := by
  unfold accessLoc at h
  split at h
  · cases hl : localLoc s w a n need with
    | error c => rw [hl] at h; cases h
    | ok l => rw [hl] at h; cases h; exact .refl s
  · exact globalLoc_work h

theorem afterWalk_work (s : State) (w : Who) (a : Word) : HomeWork s (afterWalk s w a) := .ite (walk_work ..) (.refl s)

theorem updateFault_work (s : State) (dev : BitVec 9) (home : Option Nat) (c : Cause) (r i : Nat) (a : Word) :
    HomeWork s (updateFault s dev home c r i a) := sendRecord_work ..

theorem updateAt_work (s : State) (debug : Bool) {refuse : State → Nat → Cause → State} (a : Word) (loc : Loc) (op : BitVec 3)
    (v : Word) (hr : ∀ t h c, HomeWork t (refuse t h c)) : HomeWork s (updateAt s debug refuse a loc op v).1 := by
  unfold updateAt
  dsimp only
  cases loc with
  | bank k => exact bankWrite_work ..
  | away b => exact .refl s
  | home p h =>
    have ht := touchLine_work s (p / 128) h
    dsimp only
    generalize touchLine s (p / 128) h = u at ht ⊢
    split
    · exact ht.trans (hr ..)
    · split
      · exact ht.trans (hr ..)
      · split
        · exact ht.trans (hr ..)
        · have hb := strongBytes_work u a p h (updateFn op).2
          generalize strongBytes u a p h (updateFn op).2 = b at hb ⊢
          exact (ht.trans hb).trans (strongStore_work ..)

theorem applyUpdateFrom_work (dev : BitVec 9) (s : State) (r i : Nat) (a : Word) (loc : Loc) (op : BitVec 3) (v : Word)
    (cnt : Option Word) : IoWork s (applyUpdateFrom dev s r i a loc op v cnt).1 := by
  cases loc with
  | away b =>
    rw [applyUpdateFrom]
    split
    · exact .out ..
    · exact (updateFault_work ..).io
  | bank k => exact (updateAt_work _ _ _ _ _ _ fun _ _ _ => updateFault_work ..).io
  | home p h => exact (updateAt_work _ _ _ _ _ _ fun _ _ _ => updateFault_work ..).io

theorem notifyFrom_work (dev : BitVec 9) (s : State) (w : Who) (a v : Word) : IoWork s (notifyFrom dev s w a v) := by
  unfold notifyFrom
  split
  · exact ((afterWalk_work ..).trans (updateFault_work ..)).io
  · rename_i hl
    exact (accessLoc_work hl).io.trans (applyUpdateFrom_work ..)

theorem ioWrite_work {s t : State} {w : Who} {a : Word} {bs : List Byte} (h : ioWrite s w a bs = .ok t) : IoWork s t := by
  unfold ioWrite at h
  dsimp only at h
  split at h
  · cases h
  · cases h
    refine .foldl (fun s x => ?_) _ _
    split
    · rename_i hl; exact ((accessLoc_work hl).trans (plainStore_work ..)).io
    · rename_i hl; exact ((accessLoc_work hl).trans (bankWrite_work ..)).io
    · rename_i hl; exact (accessLoc_work hl).io.trans (.out ..)
    · exact .refl s

theorem ioRecordFrom_work (dev : BitVec 9) (s : State) (w : Who) (c : Cause) (a : Word) : HomeWork s (ioRecordFrom dev s w c a) :=
  sendRecord_work ..

theorem ioPutFrom_work (dev : BitVec 9) (s : State) (w : Who) (a : Word) (bs : List Byte) : IoWork s (ioPutFrom dev s w a bs) := by
  unfold ioPutFrom
  split
  · rename_i h; exact ioWrite_work h
  · exact ((afterWalk_work ..).trans (ioRecordFrom_work ..)).io

theorem ioReads_work (ps : List (Word × Nat)) {s t : State} {w : Who} {acc bs : List Byte}
    (h : ioReads s w acc ps = .ok (bs, t)) : HomeWork s t := by
  induction ps generalizing s acc with
  | nil => cases h; exact .refl _
  | cons p ps ih =>
    obtain ⟨a, n⟩ := p
    rw [ioReads] at h
    split at h
    · cases h
    · rename_i p h1 s1 hl
      have ht := touchLine_work s1 (p / 128) h1
      dsimp only at h
      generalize touchLine s1 (p / 128) h1 = u at ht h
      split at h
      · cases h
      · have hb := homeBytes_work u a p h1 n
        generalize homeBytes u a p h1 n = b at hb h
        exact (((accessLoc_work hl).trans ht).trans hb).trans (ih h)
    · rename_i hl
      exact (accessLoc_work hl).trans (ih h)
    · rename_i b s1 hl
      have hb := drawBytes_work s1 n
      dsimp only at h
      generalize s1.drawBytes n = d at hb h
      exact ((accessLoc_work hl).trans hb).trans (ih h)

theorem putRow_work (s : State) (w : Who) (e : Expert) (r : DispRow) (i : Nat) : IoWork s (putRow s w e r i) :=
  (ioPutFrom_work ..).trans (ioPutFrom_work ..)

end Sys2Proof.Machine
end

section
/-! The shuffle units (R315 to R324). -/

namespace Sys2Proof.Machine

theorem isHere_self (s : State) : isHere s 0x1FF = true := rfl

theorem senderDev_member {s : State} {grp memb : Nat} {g : Group} (hg : mapGet s.groups grp = some g) (hm : memb = g.memb) :
    senderDev s grp memb = 0x1FF := by
  rw [senderDev, hg]
  exact if_pos hm

theorem ackSlot_waiting {s : State} {i : Nat} {gen : Byte} (v : Nat) (hst : (s.slot i).status = .waiting .reply)
    (hg : (s.slot i).gen = gen) : ackSlot s 0x1FF i gen v = answer s i (.val (BitVec.ofNat 64 v)) := by
  rw [ackSlot, if_pos (isHere_self s), if_neg (fun h => h hg), hst]

theorem ackSlot_asleep {s : State} {i : Nat} {gen : Byte} {z : Sleep} (v : Nat) (hst : (s.slot i).status = .asleep z)
    (hk : z.kind = .shuf) (hg : (s.slot i).gen = gen) : ackSlot s 0x1FF i gen v = answer s i (.val (BitVec.ofNat 64 v)) := by
  rw [ackSlot, if_pos (isHere_self s), if_neg (fun h => h hg), hst]
  exact if_pos hk

/-- An acknowledgement reaches a slot or leaves for another device. -/
theorem ackSlot_rest (s : State) (dev : BitVec 9) (i : Nat) (gen : Byte) (v : Nat) :
    { ackSlot s dev i gen v with slots := s.slots, outbox := s.outbox } = s := by
  unfold ackSlot
  split
  · split
    · rfl
    · split
      · rfl
      · split <;> rfl
      · rfl
  · rfl

theorem code_empty {s : State} (h : s.codeQueue = []) : code s = s := by rw [code, h]; rfl

/-! Advertisements. -/

theorem settleAdvert_rest (s : State) (a : Advert) (st : Nat) : { settleAdvert s a st with cupboard := s.cupboard } = s := by
  unfold settleAdvert
  dsimp only
  split
  · rfl
  · split <;> rfl

theorem settleAdvert_shelf (s : State) (a : Advert) (st : Nat) : (settleAdvert s a st).shelf = s.shelf :=
  (congrArg State.shelf (settleAdvert_rest s a st) :)

/-- The hub's answer to an advertisement, with the state of its shelf. -/
def advertAnswer (s : State) (a : Advert) : Nat × State :=
  let rest := unshelve s a.grp a.memb a.blk
  if a.withdrawn then (if (shelfAt s a.grp a.memb a.blk).isSome then 0 else 1, rest)
  else if a.until_.toNat ≤ s.time.toNat + max 16 s.policy.margin then (2, settleAdvert s a 2)
  else if 65536 ≤ rest.shelf.length then (3, settleAdvert s a 3)
  else (0, settleAdvert { rest with shelf := rest.shelf ++ [⟨a.grp, a.memb, a.blk, a.until_⟩] } a 0)

section
variable {s : State} {a : Advert} {g : Group} (hq : s.codeQueue = []) (hg : mapGet s.groups a.grp = some g) (hm : a.memb = g.memb)
include hq hg hm

theorem takeAdvert_answer : takeAdvert s a = ackSlot (advertAnswer s a).2 0x1FF a.slot a.gen (advertAnswer s a).1 := by
  have hrest : code (unshelve s a.grp a.memb a.blk) = unshelve s a.grp a.memb a.blk := code_empty hq
  have hput : ∀ sh, code { unshelve s a.grp a.memb a.blk with shelf := sh } = { unshelve s a.grp a.memb a.blk with shelf := sh } :=
    fun sh => code_empty hq
  simp only [takeAdvert, senderDev_member hg hm, isHere_self, if_true, hrest, hput, advertAnswer]
  by_cases hw : a.withdrawn = true
  · simp only [hw, if_true]
  · simp only [hw, Bool.false_eq_true, if_false]
    by_cases h1 : a.until_.toNat ≤ s.time.toNat + max 16 s.policy.margin
    · simp only [h1, if_true]; rfl
    · by_cases h2 : 65536 ≤ (unshelve s a.grp a.memb a.blk).shelf.length
      · simp only [h1, h2, if_false, if_true]; rfl
      · simp only [h1, h2, if_false, if_true]

end

/-- The answer is a word, and of the state it changes the shelf and the cupboard alone. -/
theorem advertAnswer_rest (s : State) (a : Advert) :
    { (advertAnswer s a).2 with shelf := s.shelf, cupboard := s.cupboard } = s := by
  unfold advertAnswer
  dsimp only
  split
  · rfl
  · split
    · exact congrArg (fun u : State => { u with shelf := s.shelf }) (settleAdvert_rest s a 2)
    · split
      · exact congrArg (fun u : State => { u with shelf := s.shelf }) (settleAdvert_rest s a 3)
      · exact congrArg (fun u : State => { u with shelf := s.shelf, cupboard := s.cupboard }) (settleAdvert_rest _ a 0)

theorem advertAnswer_slots (s : State) (a : Advert) (i : Nat) : (advertAnswer s a).2.slot i = s.slot i :=
  slot_congr (congrArg State.slots (advertAnswer_rest s a) :) i

theorem exec_advertisementArrival {s : State} {a : Advert} {src : Src Advert}
    (hsrc : s.adverts = [a] ∧ src = .mine 0 ∨ s.adverts = [] ∧ src = .outside a) :
    exec (.advertisementArrival src) s = .next (takeAdvert { s with adverts := [] } a) := by
  rcases hsrc with ⟨h, rfl⟩ | ⟨h, rfl⟩
  · show execAdvertisementArrival (.mine 0) s = _
    rw [execAdvertisementArrival, h]
    rfl
  · show Host.Outcome.next (takeAdvert s a) = _
    rw [← h]

/-- An advertisement that arrives is answered, and the shelf stands as the answer says. -/
theorem exec_advertisementArrival_answers {s : State} {a : Advert} {src : Src Advert} {g : Group}
    (hsrc : s.adverts = [a] ∧ src = .mine 0 ∨ s.adverts = [] ∧ src = .outside a) (hq : s.codeQueue = [])
    (hg : mapGet s.groups a.grp = some g) (hm : a.memb = g.memb) (hst : (s.slot a.slot).status = .waiting .reply)
    (hgen : (s.slot a.slot).gen = a.gen) : ∃ t, exec (.advertisementArrival src) s = .next t ∧ t.adverts = [] ∧
      (t.slot a.slot).status = .ready ∧
      (t.slot a.slot).reply = some (.val (BitVec.ofNat 64 (advertAnswer { s with adverts := [] } a).1)) ∧
      t.shelf = (advertAnswer { s with adverts := [] } a).2.shelf := by
  have hs := advertAnswer_slots { s with adverts := [] } a a.slot
  have hr := advertAnswer_rest { s with adverts := [] } a
  have hexec := exec_advertisementArrival hsrc
  rw [takeAdvert_answer (s := { s with adverts := [] }) hq hg hm] at hexec
  generalize advertAnswer { s with adverts := [] } a = x at *
  rw [ackSlot_waiting _ (by rw [hs]; exact hst) (by rw [hs]; exact hgen)] at hexec
  refine ⟨_, hexec, (congrArg State.adverts hr :), ?_, ?_, rfl⟩ <;> rw [answer_slot_same]

/-! Posts and the coding queue. -/

theorem exec_blockPostArrival {s : State} {p : Post} {src : Src Post}
    (hsrc : s.posts = [p] ∧ src = .mine 0 ∨ s.posts = [] ∧ src = .outside p) :
    exec (.blockPostArrival src) s = .next (takePost { s with posts := [] } p) := by
  rcases hsrc with ⟨h, rfl⟩ | ⟨h, rfl⟩
  · show execBlockPostArrival (.mine 0) s = _
    rw [execBlockPostArrival, h]
    rfl
  · show Host.Outcome.next (takePost s p) = _
    rw [← h]

theorem setWith_alone (s : State) (g : Group) (q : Queued) : setWith s g [(q, 0)] q 0 = none := by
  simp [setWith]

/-- One block in the queue: it leaves alone once it has waited the window, and not before. -/
theorem code_one {s : State} {q : Queued} {g : Group} (hq : s.codeQueue = [q]) (hg : mapGet s.groups q.post.grp = some g) :
    code s = if q.time.toNat + min 4096 s.policy.window ≤ s.time.toNat then sendSet s g [0] else s := by
  have hz : s.codeQueue.zipIdx = [(q, 0)] := by rw [hq]; rfl
  rw [code, hq]
  show (match codeOnce s s.codeQueue.zipIdx s.codeQueue.zipIdx with
    | some s => codeAll s 0
    | none => s) = _
  rw [hz]
  simp only [codeOnce, hg, setWith_alone]
  by_cases hw : q.time.toNat + min 4096 s.policy.window ≤ s.time.toNat <;> simp only [hw, if_true, if_false] <;> rfl

theorem sendSet_one {s : State} {q : Queued} {g : Group} (hq : s.codeQueue = [q]) (hd : q.post.dst = g.memb) :
    sendSet s g [0] = { s with
      codeQueue := []
      packets := s.packets ++ [⟨q.post.grp, q.post.region, g.memb, [q.post], q.post.bytes⟩]
      retransmit := keepBlock s.retransmit ⟨q.post, s.time⟩ } := by
  simp only [sendSet, hq, List.filterMap_cons, List.filterMap_nil, List.getElem?_cons_zero, Option.map_some, List.foldl_cons,
    List.foldl_nil, sendPacket, hd, if_true]
  rfl

theorem dropAt_findIdx_count {α : Type} {f : α → Bool} {xs : List α} {i : Nat} {x : α} (h : findIdx f xs = some (i, x)) :
    (xs.filter f).length = ((dropAt xs i).filter f).length + 1 := by
  induction xs generalizing i with
  | nil => cases h
  | cons y ys ih =>
    rw [findIdx] at h
    split at h
    · rename_i hy
      cases h
      simp [dropAt, hy]
    · rename_i hy
      obtain ⟨⟨j, z⟩, hj, heq⟩ := Option.map_eq_some_iff.mp h
      cases heq
      simpa [dropAt, hy] using ih hj

theorem keepBlock_getLast? (held : List Queued) (q : Queued) : (keepBlock held q).getLast? = some q := by simp [keepBlock]

/-- A group's blocks in the retransmit buffer do not pass its limit. -/
theorem keepBlock_bound {held : List Queued} {q : Queued} (h : (ofGroup q.post.grp held).length ≤ 4096) :
    (ofGroup q.post.grp (keepBlock held q)).length ≤ 4096 := by
  have hone : (ofGroup q.post.grp [q]).length = 1 := by simp [ofGroup]
  have happ : ∀ xs, (ofGroup q.post.grp (xs ++ [q])).length = (ofGroup q.post.grp xs).length + 1 := fun xs => by
    rw [ofGroup, List.filter_append, List.length_append]
    exact congrArg _ hone
  unfold keepBlock
  dsimp only
  rw [happ]
  split
  · omega
  · rename_i hfull
    split
    · rename_i i x hf
      have := dropAt_findIdx_count hf
      unfold ofGroup at *
      omega
    · rename_i hn
      have hpos : 0 < (ofGroup q.post.grp held).length := by omega
      obtain ⟨y, hy⟩ := List.exists_mem_of_length_pos hpos
      obtain ⟨i, x, hi, -⟩ := findIdx_some (f := fun x : Queued => x.post.grp == q.post.grp) ⟨y, List.mem_filter.mp hy⟩
      rw [hi] at hn
      cases hn

/-- A block that the queue has no room for is refused. -/
theorem takePost_full {s : State} {p : Post} {g : Group} (hg : mapGet s.groups p.grp = some g) (hm : p.sender = g.memb)
    (hfull : 1024 ≤ (ofGroup p.grp s.codeQueue).length) : takePost s p = { s with refused := s.refused ++ [p] } := by
  simp only [takePost, senderDev_member hg hm, isHere_self, if_true, hg, Nat.not_lt.mpr hfull, and_false, if_false]

/-- A block enters the empty queue, and waits there for the coding window. -/
theorem takePost_empty {s : State} {p : Post} {g : Group} {z : Sleep} (hg : mapGet s.groups p.grp = some g)
    (hm : p.sender = g.memb) (hst : (s.slot p.slot).status = .asleep z) (hk : z.kind = .shuf) (hq : s.codeQueue = [])
    (hw : 0 < s.policy.window) :
    takePost s p = answer { s with codeQueue := [⟨p, s.time⟩] } p.slot (.val (BitVec.ofNat 64 0)) := by
  have hroom : (mapGet s.groups p.grp).isSome ∧ (ofGroup p.grp s.codeQueue).length < 1024 := by simp [hg, hq, ofGroup]
  have hack := ackSlot_asleep (s := { s with codeQueue := [⟨p, s.time⟩] }) 0 hst hk rfl
  rw [takePost, if_pos hroom, senderDev_member hg hm, hq, List.nil_append]
  refine ((congrArg code hack).trans (code_one (q := ⟨p, s.time⟩) (g := g) rfl hg)).trans (if_neg fun h => ?_)
  have h' : s.time.toNat + min 4096 s.policy.window ≤ s.time.toNat := h
  omega

/-! Packets, refusals and losses. -/

theorem exec_packetReceive {s : State} {p : Packet} {src : Src Packet}
    (hsrc : s.packets = [p] ∧ src = .mine 0 ∨ s.packets = [] ∧ src = .outside p) :
    exec (.packetReceive src) s = .next (receivePacket { s with packets := [] } p) := by
  rcases hsrc with ⟨h, rfl⟩ | ⟨h, rfl⟩
  · show execPacketReceive (.mine 0) s = _
    rw [execPacketReceive, h]
    rfl
  · show Host.Outcome.next (receivePacket s p) = _
    rw [← h]

theorem receivePacket_one {s : State} {p : Packet} {own : Post} {g : Group} (hg : mapGet s.groups p.grp = some g)
    (hr : g.region = p.region) (hc : p.comps = [own]) (hd : own.dst = g.memb) :
    receivePacket s p = deliverBlock s g own p.bytes := by
  simp [receivePacket, hg, hr, hc, hd]

theorem exec_nackArrival {s : State} {n : Nack} {src : Src Nack}
    (hsrc : s.nacks = [n] ∧ src = .mine 0 ∨ s.nacks = [] ∧ src = .outside n) :
    exec (.nackArrival src) s = .next (takeNack { s with nacks := [] } n) := by
  rcases hsrc with ⟨h, rfl⟩ | ⟨h, rfl⟩
  · show execNackArrival (.mine 0) s = _
    rw [execNackArrival, h]
    rfl
  · show Host.Outcome.next (takeNack s n) = _
    rw [← h]

/-- A packet for the hub's own member stays on this device. -/
theorem sendPacket_member {s : State} {g : Group} {p : Packet} (h : p.memb = g.memb) :
    sendPacket s g p = { s with packets := s.packets ++ [p] } := if_pos h

theorem takeNack_held {s : State} {n : Nack} {g : Group} {q : Queued} (hg : mapGet s.groups n.grp = some g)
    (hm : n.memb = g.memb) (hr : s.retransmit = [q])
    (hf : (q.post.grp == n.grp && q.post.dst == n.memb && q.post.blk == n.blk && q.post.arg == n.arg) = true) :
    takeNack s n = { s with packets := s.packets ++ [⟨n.grp, q.post.region, n.memb, [q.post], q.post.bytes⟩] } := by
  have hsend := sendPacket_member (s := s) (g := g) (p := ⟨n.grp, q.post.region, n.memb, [q.post], q.post.bytes⟩) hm
  rw [← hsend]
  simp only [takeNack, hg, hr, List.find?_cons, hf]

theorem takeNack_gone {s : State} {n : Nack} {g : Group} (hg : mapGet s.groups n.grp = some g) (hm : n.memb = g.memb)
    (hr : s.retransmit = []) : takeNack s n = { s with losses := s.losses ++ [n] } := by
  simp only [takeNack, hg, hr, List.find?_nil]
  exact if_pos hm

theorem exec_lossNotice {s : State} {n : Nack} {src : Src Nack}
    (hsrc : s.losses = [n] ∧ src = .mine 0 ∨ s.losses = [] ∧ src = .outside n) :
    exec (.lossNotice src) s = .next (takeLoss { s with losses := [] } n) := by
  rcases hsrc with ⟨h, rfl⟩ | ⟨h, rfl⟩
  · show execLossNotice (.mine 0) s = _
    rw [execLossNotice, h]
    rfl
  · show Host.Outcome.next (takeLoss s n) = _
    rw [← h]

theorem takeLoss_member {s : State} {n : Nack} {g : Group} (hg : mapGet s.groups n.grp = some g) (hm : n.memb = g.memb) :
    takeLoss s n = lost s g .decodemiss n.arg (recordDev s (senderDev s n.grp n.sender)) n.slot := by
  simp only [takeLoss, hg]
  exact if_pos hm

theorem shelfAt_unshelve (s : State) (grp memb : Nat) (blk : W32) : shelfAt (unshelve s grp memb blk) grp memb blk = none := by
  refine List.find?_eq_none.mpr fun e he => ?_
  have := (List.mem_filter.mp he).2
  cases h : e.grp == grp && e.memb == memb && e.blk == blk <;> simp_all

/-! Dispatched rows. -/

theorem exec_dispatchArrival {s : State} {r : DispRow} {src : Src DispRow}
    (hsrc : s.rows = [r] ∧ src = .mine 0 ∨ s.rows = [] ∧ src = .outside r) :
    exec (.dispatchArrival src) s = .next (takeRow { s with rows := [] } r) := by
  rcases hsrc with ⟨h, rfl⟩ | ⟨h, rfl⟩
  · show execDispatchArrival (.mine 0) s = _
    rw [execDispatchArrival, h]
    rfl
  · show Host.Outcome.next (takeRow s r) = _
    rw [← h]

/-- A row that has a place yet is not acknowledged. -/
theorem ackRow_placed {s : State} {r : DispRow} {q : PlaceReq} (hq : q ∈ s.places) (hr : q.row = r) : ackRow s r = s := by
  refine if_pos (List.any_eq_true.mpr ⟨q, hq, ?_⟩)
  simp [hr]

theorem ackRow_rest (s : State) (r : DispRow) : { ackRow s r with slots := s.slots, outbox := s.outbox } = s := by
  unfold ackRow
  split
  · rfl
  · exact ackSlot_rest ..

/-- The dies below 8 give a row for one expert one place. -/
theorem places_one (r : DispRow) {f : Nat → Nat} {e : Nat} (hd : f e < 8) :
    (List.range 8).filterMap (fun k => match [e].filter (fun e => f e == k) with
      | [] => none
      | xs => some (PlaceReq.mk r xs)) = [⟨r, [e]⟩] := by
  have hr : List.range 8 = [0, 1, 2, 3, 4, 5, 6, 7] := rfl
  rw [hr]
  simp only [List.filter_cons, List.filter_nil]
  generalize f e = d at hd
  match d, hd with
  | 0, _ | 1, _ | 2, _ | 3, _ | 4, _ | 5, _ | 6, _ | 7, _ => rfl

theorem takeRow_one {s : State} {r : DispRow} {e : Nat} {x : Expert} (hn : namedExperts s r.mask = [e]) (hm : r.mask = 1#64 <<< e)
    (hx : mapGet s.experts e = some x) (hd : x.die < 8) : takeRow s r = { s with places := s.places ++ [⟨r, [e]⟩] } := by
  have hgone : (List.range 64).any (fun e => r.mask.getLsbD e && (mapGet s.experts e).isNone) = false := by
    refine List.any_eq_false.mpr fun k _ => ?_
    by_cases hk : k = e
    · simp [hk, hx]
    · have : (1#64 <<< e).getLsbD k = false := by
        rw [BitVec.getLsbD_shiftLeft]
        simp
        omega
      simp [hm, this]
  have hp := places_one r (f := fun e => ((mapGet s.experts e).map Expert.die).getD 0) (e := e) (by simp [hx, hd])
  unfold takeRow
  simp only [hgone, Bool.false_eq_true, if_false, hn]
  refine (congrArg (fun ps => ackRow { s with places := s.places ++ ps } r) hp).trans ?_
  exact ackRow_placed (q := ⟨r, [e]⟩) (by simp) rfl

theorem exec_placeRow_last {s : State} {r : DispRow} {e : Nat} (hp : s.places = [⟨r, [e]⟩])
    (hk : (place s e r).places = s.places) :
    exec (.placeRow 0) s = .next (ackRow { place s e r with places := [] } r) := by
  show execPlaceRow 0 s = _
  rw [execPlaceRow, hp]
  show Host.Outcome.next (ackRow { place s e r with places := dropAt (place s e r).places 0 } r) = _
  rw [hk, hp]
  rfl

/-- An expert with room keeps the row. -/
theorem place_kept {s : State} {r : DispRow} {e : Nat} {x : Expert} (hx : mapGet s.experts e = some x) (hroom : x.kept < x.cap) :
    IoWork { s with experts := mapPut s.experts e { x with kept := x.kept + 1 } } (place s e r) := by
  simp only [place, hx, hroom, if_true]
  exact (putRow_work ..).trans (notifyFrom_work ..)

/-- A full expert takes the row for another or drops it. -/
theorem place_full {s : State} {r : DispRow} {e : Nat} {x : Expert} (hx : mapGet s.experts e = some x) (hfull : x.cap ≤ x.kept) :
    IoWork s (place s e r) := by
  simp only [place, hx, Nat.not_lt.mpr hfull, if_false]
  split
  · exact ((afterWalk_work ..).trans (ioRecordFrom_work ..)).io.trans (notifyFrom_work ..)
  · rename_i h
    have hw := (ioReads_work _ h).io
    split
    · refine (hw.trans ?_).trans (notifyFrom_work ..)
      split
      · exact putRow_work ..
      · exact .refl _
    · exact hw.trans (notifyFrom_work ..)

theorem ackRow_places (s : State) (r : DispRow) : (ackRow s r).places = s.places := (congrArg State.places (ackRow_rest s r) :)

theorem ackRow_experts (s : State) (r : DispRow) : (ackRow s r).experts = s.experts := (congrArg State.experts (ackRow_rest s r) :)

/-- Settles O48. -/
theorem shuffleEvents : Obligations.ShuffleEvents := by
  unfold Obligations.ShuffleEvents
  refine ⟨?advert, ?shelf, ?cupboard, ?post, ?resend, ?window, ?release, ?packet, ?nack, ?evict, ?row, ?place⟩
  case advert =>
    intro s a src g hsrc hq hg hm hst hgen
    obtain ⟨t, hexec, hads, hrdy, hrep, hshelf⟩ := exec_advertisementArrival_answers hsrc hq hg hm hst hgen
    refine ⟨t, hexec, hads, hrdy, fun hw => ?_, fun hw => ⟨fun hnear => ?_, fun hnear hfull => ?_, fun hnear hroom => ?_⟩⟩
    · rw [hrep, hshelf]
      refine ⟨by simp only [advertAnswer, hw, if_true]; rfl, ?_⟩
      have hfst : (advertAnswer { s with adverts := [] } a).1 = if (shelfAt s a.grp a.memb a.blk).isSome then 0 else 1 := by
        simp only [advertAnswer, hw, if_true]; rfl
      rw [hfst]
      cases (shelfAt s a.grp a.memb a.blk).isSome <;> rfl
    · rw [hrep, hshelf]
      constructor
      · simp only [advertAnswer, hw, Bool.false_eq_true, if_false, hnear, if_true]; rfl
      · simp only [advertAnswer, hw, Bool.false_eq_true, if_false, hnear, if_true]; exact settleAdvert_shelf ..
    · rw [hrep, hshelf]
      constructor
      · simp only [advertAnswer, hw, Bool.false_eq_true, if_false, hnear, unshelve, hfull, if_true]; rfl
      · simp only [advertAnswer, hw, Bool.false_eq_true, if_false, hnear, unshelve, hfull, if_true]; exact settleAdvert_shelf ..
    · rw [hrep, hshelf]
      have hroom' := Nat.not_le.mpr hroom
      constructor
      · simp only [advertAnswer, hw, Bool.false_eq_true, if_false, hnear, unshelve, hroom']; rfl
      · simp only [advertAnswer, hw, Bool.false_eq_true, if_false, hnear, unshelve, hroom']; exact settleAdvert_shelf ..
  case shelf =>
    intro s i e he hq
    refine ⟨_, rfl, ?_⟩
    by_cases h : e.until_.toNat ≤ s.time.toNat
    · simp only [he, State.reached, h, decide_true, if_true]
      rw [code_empty (by exact hq)]
    · simp only [he, State.reached, h, decide_false, Bool.false_eq_true, if_false]
  case cupboard =>
    intro s i e he hx
    refine ⟨_, rfl, ?_⟩
    by_cases h : e.until_.toNat ≤ s.time.toNat
    · simp [he, State.reached, h, hx]
    · simp [he, State.reached, h]
  case post =>
    intro s p src g z hsrc hg hm hst hk
    refine ⟨fun hq hw => ?_, fun hfull => ?_⟩
    · refine ⟨_, (exec_blockPostArrival hsrc).trans
        (congrArg _ (takePost_empty (s := { s with posts := [] }) hg hm hst hk hq hw)), rfl, rfl, ?_, ?_⟩ <;>
        rw [answer_slot_same]
      rfl
    · exact (exec_blockPostArrival hsrc).trans (congrArg _ (takePost_full (s := { s with posts := [] }) hg hm hfull))
  case resend =>
    intro s p g hr hg hh
    show execShufResend p.slot s = _
    simp [execShufResend, hr, findIdx, hg, toHub, hh, dropAt]
  case window =>
    intro s q g hq hg
    have hexec : exec .codingWindowExpiry s = .next (code s) := rfl
    rw [hexec, code_one hq hg]
    refine ⟨fun h => by rw [if_neg (Nat.not_le.mpr h)], fun h hd => ?_⟩
    rw [if_pos h, sendSet_one hq hd]
    exact ⟨_, rfl, rfl, rfl, keepBlock_getLast? .., fun hb => keepBlock_bound (q := ⟨q.post, s.time⟩) hb⟩
  case release =>
    intro s i q hq
    refine ⟨_, rfl, ?_⟩
    by_cases h : q.time.toNat + holdTime s q.post.grp ≤ s.time.toNat <;> simp [hq, h]
  case packet =>
    intro s p own src g hsrc hg hr hc hd
    exact (exec_packetReceive hsrc).trans (congrArg _ (receivePacket_one (s := { s with packets := [] }) hg hr hc hd))
  case nack =>
    intro s n src g hg hm
    refine ⟨fun hsrc => ⟨fun q hr h1 h2 h3 h4 => ?_, fun hr => ?_⟩, fun hsrc => ?_⟩
    · exact (exec_nackArrival hsrc).trans
        (congrArg _ (takeNack_held (s := { s with nacks := [] }) hg hm hr (by simp [h1, h2, h3, h4])))
    · exact (exec_nackArrival hsrc).trans (congrArg _ (takeNack_gone (s := { s with nacks := [] }) hg hm hr))
    · exact (exec_lossNotice hsrc).trans (congrArg _ (takeLoss_member (s := { s with losses := [] }) hg hm))
  case evict =>
    intro s i e he hq
    refine ⟨unshelveAtHub { s with cupboard := dropAt s.cupboard i, cupLost := s.cupLost + 1 } e, ?_, ?_⟩
    · show execCupboardEviction i s = _
      rw [execCupboardEviction, he]
    · cases hg : mapGet s.groups e.grp with
      | none => simp [unshelveAtHub, hg]
      | some g =>
        by_cases hh : g.hub = g.memb
        · simp only [unshelveAtHub, hg, toHub, hh, if_true]
          rw [code_empty (by exact hq)]
          refine ⟨rfl, rfl, fun g' hg' _ => ?_⟩
          cases hg'
          exact shelfAt_unshelve ..
        · simp only [unshelveAtHub, hg, toHub, hh, if_false]
          refine ⟨trivial, trivial, fun g' hg' hh' => ?_⟩
          cases hg'
          exact absurd hh' hh
  case row =>
    intro s r src e x hsrc hn hm hx hd
    exact (exec_dispatchArrival hsrc).trans (congrArg _ (takeRow_one (s := { s with rows := [] }) hn hm hx hd))
  case place =>
    intro s r e x hp hx
    refine ⟨fun hroom => ?_, fun hfull => ?_⟩
    · have hw := (place_kept (r := r) hx hroom).rest
      have hexec := exec_placeRow_last hp (congrArg State.places hw :)
      have hexp := (congrArg State.experts hw :)
      generalize place s e r = u at hexec hexp
      refine ⟨_, hexec, ackRow_places .., ?_⟩
      rw [ackRow_experts]
      exact (congrArg (mapGet · e) hexp).trans (mapGet_mapPut_same ..)
    · have hw := (place_full (r := r) hx hfull).rest
      have hexec := exec_placeRow_last hp (congrArg State.places hw :)
      have hexp := (congrArg State.experts hw :)
      generalize place s e r = u at hexec hexp
      exact ⟨_, hexec, ackRow_places .., (ackRow_experts ..).trans hexp⟩

end Sys2Proof.Machine
end


section
/-! Taking an exception, TRAP and the forms of ERET (R54, R355 to R359, R376). -/

namespace Sys2Proof.Machine

/-- Every cause is read back from its code. -/
theorem causeOf_causeCode (c : Cause) : causeOf (causeCode c) = some c := by cases c <;> rfl

theorem exec_trap {s s1 : State} {ga : Reg} {c : Cause} {v : Word} (hc : c ≠ .fatalhw) (ha : readG s ga = .ok v s1) :
    exec (.trap ga (causeCode c)) s = .next (takeFault s c v) := by
  show execTrap ga (causeCode c) s = _
  rw [execTrap, causeOf_causeCode, ha]
  cases c with
  | fatalhw => exact absurd rfl hc
  | _ => rfl

theorem exec_trap_unraised {s : State} {ga : Reg} {cc : BitVec 5} (h : causeOf cc = none ∨ cc = causeCode .fatalhw) :
    exec (.trap ga cc) s = .next (takeFault s .illegal ((encodeScalar (.trap ga cc)).setWidth 64)) := by
  show execTrap ga cc s = _
  rw [execTrap]
  rcases h with h | rfl
  · rw [h]; rfl
  · rw [causeOf_causeCode]; rfl

/-- The slot that ERET RESUME has let go on; a held record has left (R358). -/
def resumed (s : State) (i : Nat) (gb : Reg) (pc : Word) : State :=
  let s := match (s.slot i).status with
    | .parked (some r) => s.sendRecord r
    | _ => s
  s.modSlot i (fun sl => { clearProgress sl with inh := false, pc := if gb = 0 then sl.epc else pc, status := .ready })

theorem resumed_slot (s : State) (i : Nat) (gb : Reg) (pc : Word) : (resumed s i gb pc).slot i =
    { clearProgress (s.slot i) with inh := false, pc := if gb = 0 then (s.slot i).epc else pc, status := .ready } := by
  unfold resumed
  dsimp only
  rw [State.slot_modSlot_same]
  split <;> rfl

theorem resumed_mem (s : State) (i : Nat) (gb : Reg) (pc : Word) : (resumed s i gb pc).mem = s.mem := by
  unfold resumed
  dsimp only
  split <;> rfl

theorem resumed_held {s : State} {i : Nat} {r : TrapRec} (h : (s.slot i).status = .parked (some r)) (gb : Reg) (pc : Word) :
    (resumed s i gb pc).trapsInFlight = s.trapsInFlight ++ [r] := by
  rw [resumed, h]
  rfl

section
variable {s s1 s2 : State} {gd ga gb : Reg} {n pc : Word} (hsup : s.me.region = 0) (ha : readG s ga = .ok n s1)
include hsup ha

theorem exec_eretResume (hb : readG s1 gb = .ok pc s2) : exec (.eretResume gd ga gb) s = conclude s
    (effectDone (if parkedAt s2 n = 0 then resumed s2 n.toNat gb pc else s2) gd (BitVec.ofNat 64 (parkedAt s2 n))) := by
  show execEretResume gd ga gb s = _
  rw [execEretResume, checkSup_ok _ _ hsup, Eff.andThen_ok, ha, Eff.andThen_ok, hb]
  rfl

theorem exec_eretEnd : exec (.eretEnd gd ga) s = conclude s
    (effectDone (if parkedAt s1 n = 0 then endTask s1 n.toNat else s1) gd (BitVec.ofNat 64 (parkedAt s1 n))) := by
  show execEretEnd gd ga s = _
  rw [execEretEnd, checkSup_ok _ _ hsup, Eff.andThen_ok, ha]
  rfl

end

theorem exec_eretSelf {s : State} (h : s.me.inh = true) : exec .eretSelf s = .next (returnSelf s) := if_pos h

theorem exec_eretSelf_outside {s : State} (h : s.me.inh = false) :
    exec .eretSelf s = .next (takeFault s .illegal ((encodeScalar .eretSelf).setWidth 64)) := by
  show execEretSelf s = _
  rw [execEretSelf, h]
  rfl

/-- A cause that its region's mask handles is neither DOUBLE nor FATALHW (R357). -/
theorem takeFaultOf_handled {s : State} {i : Nat} {c : Cause} (v : Word) (hc : c ≠ .fatalhw) (hi : (s.slot i).inh = false)
    (hh : handles (s.region (s.slot i).region) c = true) (ht : (s.slot i).tvec ≠ 0) :
    (takeFaultOf s i c v).slot i = { clearProgress (s.slot i) with
      epc := (s.slot i).pc, cause := causeCode c, tval := v, wpSkip := false, awayResv := false
      inh := true, pc := (s.slot i).tvec, status := .ready } ∧
    (takeFaultOf s i c v).trapsInFlight = s.trapsInFlight := by
  obtain ⟨-, -, -, -, hslot, htraps⟩ := takeFaultOf_spec s i c v
  have hvec : ((s.slot i).tvec != 0) = true := by simpa using ht
  simp only [hc, hi, hh, hvec, if_false, Bool.false_eq_true, Bool.and_self, if_true, List.append_nil] at hslot htraps
  exact ⟨hslot, htraps⟩

/-- A fault that is not handled parks its slot and sends its record (R356). -/
theorem takeFaultOf_parked {s : State} {i : Nat} {c : Cause} (v : Word)
    (h : c = .fatalhw ∨ (s.slot i).inh = true ∨ handles (s.region (s.slot i).region) c = false ∨ (s.slot i).tvec = 0) :
    let code := if (s.slot i).inh = true ∧ c ≠ .fatalhw then causeCode .double else causeCode c
    (takeFaultOf s i c v).slot i = { clearProgress (s.slot i) with
      epc := (s.slot i).pc, cause := code, tval := v, wpSkip := false, awayResv := false, status := .parked none } ∧
    (takeFaultOf s i c v).trapsInFlight = s.trapsInFlight ++ [trapRec s (if c = .fatalhw then 3 else 0) code 0
      (s.slot i).region i (s.slot i).pc v (if (s.slot i).inh = true ∧ c ≠ .fatalhw then (causeCode c).setWidth 64
        else if c = .shadowfull then v else 0)] := by
  obtain ⟨-, -, -, -, hslot, htraps⟩ := takeFaultOf_spec s i c v
  rw [hslot, htraps]
  by_cases hc : c = .fatalhw
  · subst hc
    simp
  · cases hi : (s.slot i).inh with
    | true => simp [hc]
    | false =>
      have hno : (handles (s.region (s.slot i).region) c && (s.slot i).tvec != 0) = false := by
        rcases h with h | h | h | h
        · exact absurd h hc
        · rw [hi] at h; cases h
        · rw [h]; rfl
        · simp [h]
      simp only [hc, hno, if_false, false_and, Bool.false_eq_true]
      exact ⟨trivial, trivial⟩

/-- Settles O52. -/
theorem exceptions : Obligations.Exceptions := by
  unfold Obligations.Exceptions
  refine ⟨?taking, fun s s1 ga c v hc ha => exec_trap hc ha, fun s ga cc h => exec_trap_unraised h, fun s code => rfl, ?self, ?others⟩
  case taking =>
    intro s i c v
    obtain ⟨hmem, hregions, -, htq, -, -⟩ := takeFaultOf_spec s i c v
    by_cases h : c = .fatalhw ∨ (s.slot i).inh = true ∨ handles (s.region (s.slot i).region) c = false ∨ (s.slot i).tvec = 0
    · obtain ⟨hslot, htraps⟩ := takeFaultOf_parked v h
      dsimp only
      rw [hslot, htraps]
      refine ⟨rfl, rfl, rfl, rfl, rfl, rfl, rfl, hmem, hregions, htq, fun hc hi hh ht => ?_,
        fun _ => ⟨rfl, rfl, rfl, _, rfl, rfl, rfl, rfl, rfl, rfl, rfl, rfl, rfl, rfl⟩⟩
      exact absurd h (not_or.mpr ⟨hc, not_or.mpr ⟨by simp [hi], not_or.mpr ⟨by simp [hh], ht⟩⟩⟩)
    · have h' := h
      simp only [not_or, Bool.not_eq_true, Bool.not_eq_false] at h'
      obtain ⟨hc, hi, hh, ht⟩ := h'
      obtain ⟨hslot, htraps⟩ := takeFaultOf_handled v hc hi hh ht
      dsimp only
      rw [hslot, htraps]
      exact ⟨rfl, rfl, rfl, rfl, rfl, rfl, by simp [hi], hmem, hregions, htq, fun _ _ _ _ => ⟨rfl, rfl, rfl, rfl⟩,
        fun h' => absurd h' h⟩
  case self =>
    refine fun s => ⟨fun h => ⟨_, exec_eretSelf h, ?_⟩, exec_eretSelf_outside⟩
    rw [returnSelf, State.me_modMe]
    exact ⟨rfl, rfl, rfl, rfl, rfl, rfl, rfl, rfl, rfl⟩
  case others =>
    intro s s1 s2 gd ga gb n pc hsup ha
    refine ⟨fun hb => ⟨fun hp => ?_, fun hp => ?_⟩, fun hp => ?_, fun hp => ?_⟩
    · refine endsWith_of_effectDone ((exec_eretResume hsup ha hb).trans ?_)
      rw [if_neg hp]
    · refine ⟨resumed s2 n.toNat gb pc, ?_, ?_, ?_, ?_, resumed_mem .., fun r hr => resumed_held hr .., ?_⟩
      · rw [resumed_slot]
      · rw [resumed_slot]
      · rw [resumed_slot]
      · rw [resumed_slot]; rfl
      · refine endsWith_of_effectDone ((exec_eretResume hsup ha hb).trans ?_)
        rw [if_pos hp, hp]
        rfl
    · refine endsWith_of_effectDone ((exec_eretEnd hsup ha).trans ?_)
      rw [if_neg hp]
    · refine endsWith_of_effectDone ((exec_eretEnd hsup ha).trans ?_)
      rw [if_pos hp, hp]
      rfl

end Sys2Proof.Machine
end


section
/-! Control registers (R349 to R354). -/

namespace Sys2Proof.Machine

/-! The masks of fields: reserved bits read 0 (R9). -/

theorem setWidth_setWidth_eq_and (v : Word) {n : Nat} (m : Word) (hm : ∀ i, i < 64 → m.getLsbD i = decide (i < n)) :
    (v.setWidth n).setWidth 64 = v &&& m := by
  refine BitVec.eq_of_getLsbD_eq fun i hi => ?_
  rw [BitVec.getLsbD_setWidth, BitVec.getLsbD_setWidth, BitVec.getLsbD_and, hm i hi]
  simp [hi, Bool.and_comm]

theorem boolWord_getLsbD_zero (v : Word) : boolWord (v.getLsbD 0) = v &&& 1 := by
  refine BitVec.eq_of_getLsbD_eq fun i hi => ?_
  cases i with
  | zero => cases h : v.getLsbD 0 <;> simpa [boolWord] using h
  | succ i => cases h : v.getLsbD 0 <;> simp [boolWord]

/-! The registers of a slot. -/

theorem slotRegisters_kind : ∀ row ∈ slotRegisters, crKind row.1 = some row.2.1 ∧ crRemote row.1 = false ∧ row.2.1 ≠ .ro := by
  decide

theorem slotRegisters_value : ∀ row ∈ slotRegisters, ∀ s, crValue s row.1 = row.2.2.2 s := by
  simp only [slotRegisters, List.forall_mem_cons, List.not_mem_nil, false_implies, implies_true, and_true]
  refine ⟨?_, ?_, ?_, ?_, ?_, ?_, ?_, ?_, ?_, ?_, ?_, ?_, ?_, ?_, ?_, ?_⟩ <;> exact fun s => rfl

/-- A register changed in the slot whose turn it is: what it holds, and what stays. -/
theorem modMe_holds {s : State} {f : Slot → Slot} {read : Slot → Word} {v m : Word} (hf : ∀ sl, read (f sl) = v &&& m)
    (hg : ∀ sl, (f sl).g = sl.g) :
    read (s.modMe f).me = v &&& m ∧ (s.modMe f).me.g = s.me.g ∧ (s.modMe f).mem = s.mem := by
  rw [State.me_modMe]
  exact ⟨hf _, hg _, rfl⟩

/-- A write leaves the bits of a register's fields, and the general registers and memory as they were (R9, R350). -/
theorem slotRegisters_apply : ∀ row ∈ slotRegisters, ∀ s v ones, row.2.2.2 (crApply s row.1 v ones) = v &&& row.2.2.1 ∧
    (crApply s row.1 v ones).me.g = s.me.g ∧ (crApply s row.1 v ones).mem = s.mem := by
  have hall : ∀ v : Word, v = v &&& BitVec.allOnes 64 := fun v => BitVec.and_allOnes.symm
  have hlow : ∀ (n : Nat) (m : Word), (∀ i, i < 64 → m.getLsbD i = decide (i < n)) → ∀ v : Word,
    (v.setWidth n).setWidth 64 = v &&& m := fun n m h v => setWidth_setWidth_eq_and v m h
  simp only [slotRegisters, List.forall_mem_cons, List.not_mem_nil, false_implies, implies_true, and_true]
  refine ⟨fun s v o => ?cause, fun s v o => ?tval, fun s v o => ?epc, fun s v o => ?tvec, fun s v o => ?waitlim,
    fun s v o => ?fmta, fun s v o => ?fmtb, fun s v o => ?fmtc, fun s v o => ?scla, fun s v o => ?sclb, fun s v o => ?sclc,
    fun s v o => ?round, fun s v o => ?migok, fun s v o => ?tscr, fun s v o => ?mslot, fun s v o => ?hgsel⟩
  case cause => exact modMe_holds (read := fun sl => sl.cause.setWidth 64) (fun _ => hlow 5 0x1F (by decide) v) fun _ => rfl
  case tval => exact modMe_holds (read := Slot.tval) (fun _ => hall v) fun _ => rfl
  case epc => exact modMe_holds (read := Slot.epc) (fun _ => hall v) fun _ => rfl
  case tvec => exact modMe_holds (read := Slot.tvec) (fun _ => rfl) fun _ => rfl
  case waitlim =>
    exact modMe_holds (read := fun sl => sl.waitlim.setWidth 64) (fun _ => hlow 32 0xFFFFFFFF (by decide) v) fun _ => rfl
  case fmta => exact modMe_holds (read := fun sl => sl.fmta.setWidth 64) (fun _ => hlow 4 0xF (by decide) v) fun _ => rfl
  case fmtb => exact modMe_holds (read := fun sl => sl.fmtb.setWidth 64) (fun _ => hlow 4 0xF (by decide) v) fun _ => rfl
  case fmtc => exact modMe_holds (read := fun sl => sl.fmtc.setWidth 64) (fun _ => hlow 4 0xF (by decide) v) fun _ => rfl
  case scla => exact modMe_holds (read := Slot.scla) (fun _ => hall v) fun _ => rfl
  case sclb => exact modMe_holds (read := Slot.sclb) (fun _ => hall v) fun _ => rfl
  case sclc => exact modMe_holds (read := Slot.sclc) (fun _ => hall v) fun _ => rfl
  case round => exact modMe_holds (read := fun sl => boolWord sl.round) (fun _ => boolWord_getLsbD_zero v) fun _ => rfl
  case migok => exact modMe_holds (read := fun sl => boolWord sl.migok) (fun _ => boolWord_getLsbD_zero v) fun _ => rfl
  case tscr => exact modMe_holds (read := Slot.tscr) (fun _ => hall v) fun _ => rfl
  case mslot =>
    refine ⟨?_, rfl, rfl⟩
    show ((s.modCore s.myCore (fun k => { k with mslot := v })).core s.myCore).mslot = _
    rw [State.core_modCore_same]
    exact hall v
  case hgsel => exact ⟨rfl, rfl, rfl⟩

/-! The checks of an access, and the change it makes (R350, R351). -/

section
variable {s s1 : State} {cr : BitVec 6} {k : CrKind} (hk : crKind cr = some k) (hmay : k = .rw ∨ s.me.region = 0)
include hk hmay

theorem crReadable_ok (word : W32) : ∃ k', crReadable s cr word = .ok k' s := by
  rw [crReadable, hk]
  cases k with
  | sup => exact ⟨_, congrArg (Eff.andThen · _) (checkSup_ok s word (hmay.resolve_left nofun))⟩
  | ro => exact ⟨_, rfl⟩
  | rw => exact ⟨_, rfl⟩

theorem crWritable_ok (word : W32) : crWritable s cr word = .ok k s := by
  rw [crWritable, hk]
  cases k with
  | sup => exact congrArg (Eff.andThen · _) (checkSup_ok s word (hmay.resolve_left nofun))
  | ro => exact congrArg (Eff.andThen · _) (checkSup_ok s word (hmay.resolve_left nofun))
  | rw => rfl

theorem exec_crr {t : State} {gd : Reg} (hw : writeG s gd (crValue s cr) = .ok () t) :
    exec (.crr gd cr) s = .next (t.retire 4) := by
  obtain ⟨k', h⟩ := crReadable_ok hk hmay (encodeScalar (.crr gd cr))
  show execCrr gd cr s = _
  rw [execCrr, h]
  exact conclude_writeDone s hw

/-- A register of this core that is not read-only is changed at once. -/
theorem crChange_here {ga : Reg} {x : Word} (hro : k ≠ .ro) (hre : crRemote cr = false) (ha : readG s ga = .ok x s1) (op : CrOp)
    (word : W32) (gd : Reg) : crChange s cr op word gd ga =
      .ok (crValue s1 cr) (crApply s1 cr (crNext op (crValue s1 cr) x) (crOnes op x)) := by
  rw [crChange, crWritable_ok hk hmay, Eff.andThen_ok, ha, Eff.andThen_ok, if_neg hro, hre]
  rfl

/-- A write to read-only fields changes nothing. -/
theorem crChange_ro {ga : Reg} {x : Word} (hro : k = .ro) (ha : readG s ga = .ok x s1) (op : CrOp) (word : W32) (gd : Reg) :
    crChange s cr op word gd ga = .ok (crValue s1 cr) s1 := by
  rw [crChange, crWritable_ok hk hmay, Eff.andThen_ok, ha, Eff.andThen_ok, if_pos hro]

end

section
variable {s t : State} {cr : BitVec 6} {gd ga : Reg} {old : Word}

theorem exec_crw_of (h : crChange s cr .write (encodeScalar (.crw ga cr)) 0 ga = .ok old t) :
    exec (.crw ga cr) s = .next (t.retire 4) := by
  show execCrw ga cr s = _
  rw [execCrw, h]
  rfl

theorem exec_crs_of (h : crChange s cr .set (encodeScalar (.crs gd ga cr)) gd ga = .ok old t) :
    endsWith (.crs gd ga cr) s t gd old := by
  refine endsWith_of_effectDone ?_
  show execCrs gd ga cr s = _
  rw [execCrs, h]
  rfl

theorem exec_crc_of (h : crChange s cr .clear (encodeScalar (.crc gd ga cr)) gd ga = .ok old t) :
    endsWith (.crc gd ga cr) s t gd old := by
  refine endsWith_of_effectDone ?_
  show execCrc gd ga cr s = _
  rw [execCrc, h]
  rfl

end

/-! Accesses that are refused (R351). -/

/-- Every access to an unassigned number is ILLEGAL. -/
theorem exec_unassigned {s : State} {cr : BitVec 6} (h : crKind cr = none) (gd ga : Reg) :
    ∀ i ∈ [Instr.crr gd cr, .crw ga cr, .crs gd ga cr, .crc gd ga cr],
      exec i s = .next (takeFault s .illegal ((encodeScalar i).setWidth 64)) := by
  have hr : ∀ w, crReadable s cr w = .trap .illegal (w.setWidth 64) := fun w => by rw [crReadable, h]
  have hw : ∀ op w gd, crChange s cr op w gd ga = .trap .illegal (w.setWidth 64) := fun op w gd => by
    rw [crChange, crWritable, h]
    rfl
  simp only [List.forall_mem_cons, List.not_mem_nil, false_implies, implies_true, and_true]
  exact ⟨conclude_andThen_of_trap s (hr _) _, conclude_andThen_of_trap s (hw ..) _, conclude_andThen_of_trap s (hw ..) _,
    conclude_andThen_of_trap s (hw ..) _⟩

/-- A user slot's write to a register of read-only fields raises PRIV. -/
theorem exec_ro_user {s : State} {cr : BitVec 6} (h : crKind cr = some .ro) (huser : s.me.region ≠ 0) (gd ga : Reg) :
    ∀ i ∈ [Instr.crw ga cr, .crs gd ga cr, .crc gd ga cr],
      exec i s = .next (takeFault s .priv ((encodeScalar i).setWidth 64)) := by
  have hw : ∀ op w gd, crChange s cr op w gd ga = .trap .priv (w.setWidth 64) := fun op w gd => by
    rw [crChange, crWritable, h]
    exact congrArg (fun e : Eff Unit => (e.andThen _).andThen _) (checkSup_bad s w huser)
  simp only [List.forall_mem_cons, List.not_mem_nil, false_implies, implies_true, and_true]
  exact ⟨conclude_andThen_of_trap s (hw ..) _, conclude_andThen_of_trap s (hw ..) _, conclude_andThen_of_trap s (hw ..) _⟩

theorem readOnlyRegisters_kind : ∀ row ∈ readOnlyRegisters, crKind row.1 = some .ro := by decide

theorem readOnlyRegisters_value : ∀ row ∈ readOnlyRegisters, ∀ s, crValue s row.1 = row.2 s := by
  simp only [readOnlyRegisters, List.forall_mem_cons, List.not_mem_nil, false_implies, implies_true, and_true]
  refine ⟨?_, ?_, ?_, ?_, ?_, ?_, ?_, ?_, ?_, ?_, ?_, ?_, ?_⟩ <;> exact fun s => rfl

theorem crKind_unassigned : ∀ cr : BitVec 6, cr = 0x1F ∨ 0x3A ≤ cr.toNat → crKind cr = none := by decide

theorem crRemote_kind : ∀ cr : BitVec 6, crRemote cr = true → crKind cr = some .sup := by decide

/-! Protection windows (R112). -/

theorem windowNumber : ∀ i, i < 8 → (BitVec.ofNat 6 (0x20 + i)).toNat = 0x20 + i ∧
    crKind (BitVec.ofNat 6 (0x20 + i)) = some .sup ∧ crRemote (BitVec.ofNat 6 (0x20 + i)) = false := by decide

theorem crApply_window (s : State) {i : Nat} {v : Word} (o : Word) (hi : i < 8) (hv : v.extractLsb' 61 2 ≠ 3) :
    crApply s (BitVec.ofNat 6 (0x20 + i)) v o = s.modCore s.myCore (fun k => { k with pw := k.pw.set i (v &&& ~~~63#64) }) := by
  match i, hi with
  | 0, _ | 1, _ | 2, _ | 3, _ | 4, _ | 5, _ | 6, _ | 7, _ => exact if_pos ⟨by decide, by decide, hv⟩

/-! Registers of the device (R114, R363, R365). -/

/-- g0 is never an alias. -/
theorem boundStream_zero (sl : Slot) : boundStream sl 0 = none := rfl

section
variable {s s1 : State} {ga : Reg} {cr : BitVec 6} {x : Word} (hsup : s.me.region = 0) (hre : crRemote cr = true)
  (ha : readG s ga = .ok x s1)
include hsup hre ha

/-- The write leaves for the device, and the slot waits for it. -/
theorem exec_crw_remote (hn : s1.me.reply = none) : exec (.crw ga cr) s =
    .next (({ keepPops s1 s with devWrites := s.devWrites ++ [⟨s.cur, cr, .write, x⟩] } : State).stall .reply) := by
  have hk := crRemote_kind cr hre
  show execCrw ga cr s = _
  rw [execCrw, crChange, crWritable_ok hk (.inr hsup), Eff.andThen_ok, ha, Eff.andThen_ok, if_neg nofun, hre, if_pos rfl, hn,
    probeG_plain s1 (boundStream_zero s1.me)]
  rfl

theorem exec_crw_answered {v : Word} (hr : s1.me.reply = some (.val v)) : exec (.crw ga cr) s = .next (s1.retire 4) := by
  have hk := crRemote_kind cr hre
  refine exec_crw_of (old := v) ?_
  rw [crChange, crWritable_ok hk (.inr hsup), Eff.andThen_ok, ha, Eff.andThen_ok, if_neg nofun, hre, if_pos rfl, hr]

end

section
variable {s : State} {w : DevWrite} (hd : s.devWrites = [w])
include hd

theorem pendingWrite_one {f : BitVec 6 → Bool} (hf : f w.cr = true) : pendingWrite s w.slot f = some (0, w) := by
  rw [pendingWrite, hd]
  exact findIdx_one (by simp [hf])

/-- The write is done, and its slot goes on with the old value. -/
theorem writeBack_awaited {t : State} (htd : t.devWrites = s.devWrites) (hst : (t.slot w.slot).status = .waiting .reply) (r : Reply) :
    writeBack t 0 w.slot r = answer { t with devWrites := [] } w.slot r := by
  rw [writeBack, htd, hd]
  exact if_pos (awaits_of_status (s := { t with devWrites := [] }) hst)

end

/-- A word of a mask that has been replaced (R114). -/
theorem maskWord_replaced (m : BitVec 1152) (v : Word) {n : Nat} (hn : n < 18) :
    ((m &&& ~~~((BitVec.allOnes 64).setWidth 1152 <<< (64 * n))) ||| (v.setWidth 1152 <<< (64 * n))).extractLsb' (64 * n) 64 = v := by
  refine BitVec.eq_of_getLsbD_eq fun i hi => ?_
  have h1 : 64 * n + i < 1152 := by omega
  simp only [BitVec.getLsbD_extractLsb', BitVec.getLsbD_or, BitVec.getLsbD_and, BitVec.getLsbD_not, BitVec.getLsbD_shiftLeft,
    BitVec.getLsbD_setWidth, BitVec.getLsbD_allOnes, Nat.add_sub_cancel_left]
  have hn' : ¬ 64 * n + i < 64 * n := by omega
  simp only [hi, h1, hn', show i < 1152 by omega, decide_true, decide_false, Bool.true_and, Bool.and_true, Bool.not_false,
    Bool.not_true, Bool.and_false, Bool.false_or]

/-- HGDATA after its group's mask has been replaced. -/
theorem hgdata_replaced {s t : State} {v : Word} (hsel : t.hgsel = s.hgsel) (hn : (hgGroup s).2 < 18)
    (hg : mapGet t.hg (hgGroup s).1 = some ((groupMask s (hgGroup s).1 &&&
      ~~~((BitVec.allOnes 64).setWidth 1152 <<< (64 * (hgGroup s).2))) ||| (v.setWidth 1152 <<< (64 * (hgGroup s).2)))) :
    hgdata t = v := by
  have hgrp : hgGroup t = hgGroup s := by rw [hgGroup, hsel, hgGroup]
  rw [hgdata, hgrp]
  simp only [hn, if_true, groupMask, hg, Option.getD_some]
  exact maskWord_replaced _ v hn

theorem evictLines_work (ls : List Nat) (s : State) : HomeWork s (ls.foldl evictLine s) :=
  .foldl (fun _ _ => modLine_work ..) ls s

section
variable {s : State} {w : DevWrite} (hd : s.devWrites = [w])
include hd

/-- A new group mask waits while a sharer holds a table line that would leave (R368). -/
theorem execHgdataWrite_shared (hcr : w.cr = 0x39) (hs : (leavingLines s).any (isShared s) = true) (hn : (hgGroup s).2 < 18) :
    execHgdataWrite w.slot s = .next (sendInvals s none (fun l => (leavingLines s).contains l)) := by
  rw [execHgdataWrite, pendingWrite_one hd (by rw [hcr]; rfl)]
  simp only [hn, if_true, hs]

section
variable (hw : w.op = .write) (hst : (s.slot w.slot).status = .waiting .reply)
include hw hst

theorem execHgdataWrite_done (hcr : w.cr = 0x39) (hs : (leavingLines s).any (isShared s) = false) (hn : (hgGroup s).2 < 18) :
    execHgdataWrite w.slot s = .next (answer { (leavingLines s).foldl evictLine s with
      hg := mapPut s.hg (hgGroup s).1 ((groupMask s (hgGroup s).1 &&&
        ~~~((BitVec.allOnes 64).setWidth 1152 <<< (64 * (hgGroup s).2))) ||| (w.v.setWidth 1152 <<< (64 * (hgGroup s).2)))
      devWrites := [] } w.slot (.val (hgdata s))) := by
  have he := evictLines_work (leavingLines s) s
  rw [execHgdataWrite, pendingWrite_one hd (by rw [hcr]; rfl)]
  simp only [hn, if_true, hs, Bool.false_eq_true, if_false, hw, crNext]
  have hdw := (congrArg State.devWrites he.rest :)
  have hsl : (((leavingLines s).foldl evictLine s).slot w.slot).status = .waiting .reply := by
    obtain ⟨r, hr⟩ := he.slot w.slot
    rw [hr]
    exact hst
  generalize (leavingLines s).foldl evictLine s = u at hdw hsl ⊢
  exact congrArg Host.Outcome.next (writeBack_awaited hd (by exact hdw) (by exact hsl) _)

theorem execTqnoteWrite_ok (hcr : w.cr = 0x1D) (h : noteOk s w.v = true) :
    execTqnoteWrite w.slot s = .next (answer { s with tqnote := w.v, devWrites := [] } w.slot (.val s.tqnote)) := by
  rw [execTqnoteWrite, pendingWrite_one hd (by rw [hcr]; rfl)]
  simp only [hw, crNext, h, if_true]
  exact congrArg Host.Outcome.next (writeBack_awaited (t := { s with tqnote := w.v }) hd rfl hst _)

theorem execTqnoteWrite_bad (hcr : w.cr = 0x1D) (h : noteOk s w.v = false) :
    execTqnoteWrite w.slot s = .next (answer { s with devWrites := [] } w.slot (.fault .prot w.v)) := by
  rw [execTqnoteWrite, pendingWrite_one hd (by rw [hcr]; rfl)]
  simp only [hw, crNext, h, Bool.false_eq_true, if_false]
  exact congrArg Host.Outcome.next (writeBack_awaited hd rfl hst _)

theorem execTqstatWrite_done (hcr : w.cr = 0x1C) : execTqstatWrite w.slot s = .next (answer { s with
    tqOvf := if w.v.getLsbD 63 then false else s.tqOvf, tqLost := if w.v.getLsbD 63 then 0 else s.tqLost
    devWrites := [] } w.slot (.val (tqstat s))) := by
  rw [execTqstatWrite, pendingWrite_one hd (by rw [hcr]; rfl)]
  simp only [hw, crOnes]
  cases w.v.getLsbD 63
  · exact congrArg Host.Outcome.next (writeBack_awaited hd rfl hst _)
  · exact congrArg Host.Outcome.next (writeBack_awaited (t := { s with tqOvf := false, tqLost := 0 }) hd rfl hst _)

theorem execRafWrite_done {i : Nat} (hi : i < 16) (hcr : w.cr = BitVec.ofNat 6 (0x28 + i)) :
    execRafWrite w.slot s = .next (answer { s with
      raf := s.raf.set (i % 16) (w.v &&& 0xE000FFFFFFFFF000) (Nat.mod_lt _ (by decide)), devWrites := [] } w.slot
        (.val (s.raf[i % 16]'(Nat.mod_lt _ (by decide))))) := by
  have hnum : w.cr.toNat = 0x28 + i := by rw [hcr, BitVec.toNat_ofNat]; omega
  have hpend := pendingWrite_one (f := fun c => decide (0x28 ≤ c.toNat) && decide (c.toNat < 0x38)) hd
    (by simp [hnum]; omega)
  have hidx : (w.cr.toNat - 0x28) % 16 = i % 16 := by rw [hnum]; omega
  rw [execRafWrite, hpend]
  simp only [hw, crNext, hidx]
  exact congrArg Host.Outcome.next (writeBack_awaited hd (by exact rfl) (by exact hst) _)

end

end

theorem answer_slot_reply (s : State) (i : Nat) (r : Reply) : ((answer s i r).slot i).reply = some r := by
  rw [answer_slot_same]

/-- Settles O51. -/
theorem controlRegisters : Obligations.ControlRegisters := by
  unfold Obligations.ControlRegisters
  refine ⟨?slot, ?ro, ?flags, fun s gd ga cr hcr => exec_unassigned (crKind_unassigned cr hcr) gd ga,
    fun s gd ga cr hcr huser => (privilegeChecks.2 s gd ga ga cr huser).1 hcr, ?window, ?remote, ?device⟩
  case slot =>
    intro row hrow s s1 t gd ga x hmay
    obtain ⟨hk, hre, hro⟩ := slotRegisters_kind row hrow
    have hval := slotRegisters_value row hrow
    refine ⟨hval s, fun hw => exec_crr hk hmay (by rw [hval]; exact hw), fun ha => ?_⟩
    have hch := fun op word gd => crChange_here hk hmay hro hre ha op word gd
    simp only [hval] at hch
    obtain ⟨h1, h2, h3⟩ := slotRegisters_apply row hrow s1 x x
    obtain ⟨h4, h5, h6⟩ := slotRegisters_apply row hrow s1 (row.2.2.2 s1 ||| x) x
    obtain ⟨h7, h8, h9⟩ := slotRegisters_apply row hrow s1 (row.2.2.2 s1 &&& ~~~x) 0
    exact ⟨_, _, _, exec_crw_of (hch ..), h1, h2, h3, h4, h5, h6, exec_crs_of (hch ..), h7, h8, h9, exec_crc_of (hch ..)⟩
  case ro =>
    intro row hrow s s1 t gd ga x
    have hk := readOnlyRegisters_kind row hrow
    have hval := readOnlyRegisters_value row hrow
    refine ⟨hval s, fun hw => ?_, fun hsup ha => ?_, fun huser => exec_ro_user hk huser gd ga⟩
    · have hr : crReadable s row.1 (encodeScalar (.crr gd row.1)) = .ok .ro s := by rw [crReadable, hk]
      show execCrr gd row.1 s = _
      rw [execCrr, hr, Eff.andThen_ok, hval]
      exact conclude_writeDone s hw
    · have hch := fun op word gd => crChange_ro hk (.inr hsup) rfl ha op word gd
      simp only [hval] at hch
      exact ⟨exec_crw_of (hch ..), exec_crs_of (hch ..), exec_crc_of (hch ..)⟩
  case flags =>
    intro s s1 ga x ha
    exact exec_crw_of (crChange_here (k := .rw) rfl (.inl rfl) nofun rfl ha ..)
  case window =>
    intro s s1 ga i x hi hsup ha hx
    obtain ⟨-, hk, hre⟩ := windowNumber i hi
    exact (exec_crw_of (crChange_here hk (.inr hsup) nofun hre ha ..)).trans
      (congrArg (fun u : State => Host.Outcome.next (u.retire 4)) (crApply_window s1 _ hi hx))
  case remote =>
    exact fun s s1 ga cr x hsup hre ha => ⟨exec_crw_remote hsup hre ha, fun v => exec_crw_answered hsup hre ha⟩
  case device =>
    intro s w hd hw hst
    refine ⟨fun i hi hcr => ⟨_, execRafWrite_done hd hw hst hi hcr, rfl, ?_, answer_slot_reply ..⟩,
      fun hcr hs hn => ⟨_, execHgdataWrite_shared hd hcr hs hn, hd, rfl⟩,
      fun hcr hs hn => ⟨_, execHgdataWrite_done hd hw hst hcr hs hn, rfl, ?_, answer_slot_reply ..⟩, fun hcr => ?_, fun hcr => ?_⟩
    · exact Vector.getElem_set_self ..
    · have hsel := (congrArg State.hgsel (evictLines_work (leavingLines s) s).rest :)
      generalize (leavingLines s).foldl evictLine s = u at hsel ⊢
      exact hgdata_replaced (s := s) (by exact hsel) hn (mapGet_mapPut_same ..)
    · cases h : noteOk s w.v with
      | true => exact ⟨_, execTqnoteWrite_ok hd hw hst hcr h, rfl, fun _ => ⟨rfl, answer_slot_reply ..⟩, nofun⟩
      | false => exact ⟨_, execTqnoteWrite_bad hd hw hst hcr h, rfl, nofun, fun _ => ⟨rfl, answer_slot_reply ..⟩⟩
    · refine ⟨_, execTqstatWrite_done hd hw hst hcr, rfl, rfl, fun h => ?_, fun h => ?_⟩
      · exact ⟨if_pos h, if_pos h⟩
      · exact ⟨if_neg (by rw [h]; nofun), if_neg (by rw [h]; nofun)⟩

end Sys2Proof.Machine
end


section
/-! Issue of tile commands (R49). -/

namespace Sys2Proof.Machine

/-- A tile command is issued by the rules of its row. -/
theorem exec_tile : ∀ row ∈ tileRows ++ otherTileRows, ∀ (s : State) (w : TileWords),
    exec (row.1 w) s = conclude s (issueTile s w row.2) := by
  simp only [tileRows, otherTileRows, List.cons_append, List.nil_append, List.forall_mem_cons, List.not_mem_nil, false_implies,
    implies_true, and_true]
  and_intros <;> exact fun _ _ => rfl

/-- The command that a slot issues, from its words and what it has captured (R49, R235). -/
def issued (s4 : State) (w : TileWords) (sp : OpSpec) (v1 v2 v3 v6 : Word) (f : BitVec 4 × BitVec 4 × BitVec 4) (pc : Word) :
    TileCmd :=
  ⟨w, v1, v2, v3, v6, f.1, f.2.1, f.2.2, s4.cur, s4.me.region, s4.me.ctx, pc, (s4.core s4.myCore).sbNext,
    if sp.engine == .copy then some s4.me.batchId else none, s4.me.scla, s4.me.sclb, s4.me.sclc, s4.me.round, none, s4.me.gen, none⟩

/-- The queue that w0's bit 13 names. -/
def Core.queueOf (k : Core) (w : TileWords) : List TileCmd := if w.w0.getLsbD 13 then k.qp else k.qn

theorem pushCmd_queue (s : State) (c : TileCmd) (core : Nat) :
    ((pushCmd s core c).core core).queueOf c.words = (s.core core).queueOf c.words ++ [c] := by
  rw [pushCmd, State.core_modCore_same]
  unfold Core.queueOf
  cases c.words.w0.getLsbD 13 <;> rfl

theorem queueRoom_iff (s : State) (c : Nat) (w : TileWords) : queueRoom s c w = true ↔ ((s.core c).queueOf w).length < 32 :=
  decide_eq_true_iff

section
variable {s : State} {w : TileWords} {sp : OpSpec}

theorem issueTile_bad {i : Nat} (h : badWord w sp false (formats w s.me.fmta s.me.fmtb s.me.fmtc) (ringLen s s.myCore) = some i) :
    issueTile s w sp = .trap .illegal (badTval w i) := by
  simp only [issueTile, h]

variable (hok : badWord w sp false (formats w s.me.fmta s.me.fmtb s.me.fmtc) (ringLen s s.myCore) = none)
include hok

theorem issueTile_full (hfull : 32 ≤ ((s.core s.myCore).queueOf w).length) : issueTile s w sp = stall .poll := by
  have hroom : queueRoom s s.myCore w = false := by
    rw [← Bool.not_eq_true, queueRoom_iff]
    omega
  simp only [issueTile, hok, hroom, Bool.false_eq_true, if_false]

theorem issueTile_room {s1 s2 s3 s4 : State} {v1 v2 v3 v6 : Word} (hroom : ((s.core s.myCore).queueOf w).length < 32)
    (h1 : capture s w 1 true = .ok v1 s1) (h2 : capture s1 w 2 true = .ok v2 s2) (h3 : capture s2 w 3 true = .ok v3 s3)
    (h6 : capture s3 w 6 (w.smode == 1) = .ok v6 s4) :
    let u := pushCmd s4 s4.myCore (issued s4 w sp v1 v2 v3 v6 (formats w s.me.fmta s.me.fmtb s.me.fmtc) s.me.pc)
    issueTile s w sp = .ok () ((if sp.engine == .copy then u.modMe join else u).retire 32) := by
  simp only [issueTile, hok, (queueRoom_iff s s.myCore w).mpr hroom, if_true, h1, h2, h3, h6, Eff.andThen_ok]
  rfl

end

/-- Settles O57. -/
theorem tileIssue : Obligations.TileIssue := by
  unfold Obligations.TileIssue
  intro row hrow s s1 s2 s3 s4 w v1 v2 v3 v6
  refine ⟨fun i hi => ?_, fun hok hfull => ?_, fun hok hroom h1 h2 h3 h6 => ?_⟩
  · rw [exec_tile row hrow, issueTile_bad hi]
    rfl
  · rw [exec_tile row hrow, issueTile_full hok hfull]
    rfl
  · refine ⟨_, issued s4 w row.2 v1 v2 v3 v6 (formats w s.me.fmta s.me.fmtb s.me.fmtc) s.me.pc,
      (exec_tile row hrow s w).trans (congrArg (conclude s) (issueTile_room hok hroom h1 h2 h3 h6)), ?_⟩
    have hq := pushCmd_queue s4 (issued s4 w row.2 v1 v2 v3 v6 (formats w s.me.fmta s.me.fmtb s.me.fmtc) s.me.pc) s4.myCore
    by_cases hc : row.2.engine = .copy
    · have hb : (row.2.engine == .copy) = true := by rw [hc]; rfl
      simp only [hb, if_true]
      simp only [hc, if_true]
      refine ⟨hq, rfl, rfl, rfl, rfl, rfl, rfl, rfl, rfl, rfl, rfl, rfl, rfl, rfl, ?_, ?_, ?_, rfl, ?_⟩
      · rw [issued, if_pos hb]
      all_goals rw [State.me_modMe]; rfl
    · have hb : (row.2.engine == .copy) = false := by simpa using hc
      simp only [hb, Bool.false_eq_true, if_false, hc]
      refine ⟨hq, rfl, rfl, rfl, rfl, rfl, rfl, rfl, rfl, rfl, rfl, rfl, rfl, rfl, ?_, rfl, rfl, rfl, rfl⟩
      rw [issued, if_neg (by rw [hb]; nofun)]

end Sys2Proof.Machine
end


section
/-! How sleeps end (R169, R413). -/

namespace Sys2Proof.Machine

section
variable {s : State} {i : Nat} {z : Sleep} (hst : (s.slot i).status = .asleep z)
include hst

theorem exec_sleepWake_asleep (hi : i < 16384) :
    exec (.sleepWake i none) s = .next (if sleepOver s i z then resume s i else s) := by
  show execSleepWake i none s = _
  unfold execSleepWake
  rw [if_neg (Nat.not_le.mpr hi), hst]

/-- Before its limit a sleep goes on. -/
theorem exec_waitlimExpiry_early (h : z.lim = 0 ∨ s.time.toNat < z.start.toNat + z.lim.toNat) :
    exec (.waitlimExpiry i) s = .next s := by
  have hno : limitReached s i z = false := by
    rcases h with h | h
    · simp [limitReached, h]
    · simp [limitReached, Nat.not_le.mpr h]
  show execWaitlimExpiry i s = _
  rw [execWaitlimExpiry, hst]
  simp [hno]

/-- At its limit the withdrawal leaves. -/
theorem exec_waitlimExpiry_reached (hi : i < 16384) (h : limitReached s i z = true) (hw : z.withdrawn = false) :
    exec (.waitlimExpiry i) s = .next (s.modSlot i (fun sl => { sl with status := .asleep { z with withdrawn := true } })) := by
  show execWaitlimExpiry i s = _
  rw [execWaitlimExpiry, hst]
  exact congrArg Host.Outcome.next (if_pos ⟨hi, h, hw⟩)

variable (hw : z.withdrawn = true)
include hw

theorem exec_withdrawalResult_over (h : sleepOver s i z = true) : exec (.withdrawalResult i) s = .next (resume s i) := by
  show execWithdrawalResult i s = _
  rw [execWithdrawalResult, hst]
  simp only [hw, h, if_true]

/-- A withdrawal that comes too late, or that a halt holds. -/
theorem exec_withdrawalResult_late (h : sleepOver s i z = false)
    (hl : (isPlacing s i || s.wakes.any (fun w => w.to_ == slotLink i) || isHalted s i) = true) :
    exec (.withdrawalResult i) s = .next s := by
  show execWithdrawalResult i s = _
  rw [execWithdrawalResult, hst]
  simp only [hw, h, hl, if_true, Bool.false_eq_true, if_false]

theorem exec_withdrawalResult_long (h : sleepOver s i z = false)
    (hl : (isPlacing s i || s.wakes.any (fun w => w.to_ == slotLink i) || isHalted s i) = false) :
    exec (.withdrawalResult i) s =
      .next (noteFault (takeFaultOf (withdrawSlot s i) i .waitlong z.tval) i (s.slot i).pc) := by
  show execWithdrawalResult i s = _
  rw [execWithdrawalResult, hst]
  simp only [hw, h, hl, if_true, Bool.false_eq_true, if_false]

end

theorem limited_of {k : SleepFor} (h : ∀ u, k ≠ .yield u ∧ k ≠ .waitt u) (hd : k ≠ .dump) : limited k = true := by
  cases k with
  | yield u => exact absurd rfl (h u).1
  | waitt u => exact absurd rfl (h u).2
  | dump => exact absurd rfl hd
  | _ => rfl

/-! The answers of other devices to requests (R157). -/

section
variable {s : State} {i : Nat} {a : Word} {op : AtomOp} {look : Bool} (hi : i < 16384) (ho : s.outbox = [.atom i a op look])
  (hst : (s.slot i).status = .waiting .reply ∨ (∃ z, (s.slot i).status = .asleep z))
include hi ho hst

/-- An answer goes to the slot once what the request leaves on this device has ended. -/
theorem exec_sleepWake_atom (ans : Answer) : exec (.sleepWake i (some ans)) s =
    .next (answer (requestEnds { s with outbox := [] } i (.atom i a op look) ans) i
      (match ans with
        | .val v => .val v
        | .fault c => .fault c a)) := by
  have hfirst : takeFirst (asked i) s.outbox = some (.atom i a op look, []) := by
    rw [ho, takeFirst]
    exact if_pos (beq_self_eq_true i)
  show execSleepWake i (some ans) s = _
  unfold execSleepWake
  rw [if_neg (Nat.not_le.mpr hi)]
  show Host.Outcome.next (takeAnswer s i ans) = _
  rw [takeAnswer, hfirst]
  rcases hst with h | ⟨z, h⟩ <;> rw [h] <;> cases ans <;> rfl

end

/-- What an atomic's answer changes besides the slot is nothing that is on its way to other devices. -/
theorem requestEnds_atom_outbox (s : State) (i : Nat) (a : Word) (op : AtomOp) (look : Bool) (ans : Answer) :
    (requestEnds s i (.atom i a op look) ans).outbox = s.outbox := by
  have hlease : ∀ b : Bool, (if b then endLease s (coreOf i) a else s).outbox = s.outbox := fun b => by cases b <;> rfl
  cases ans with
  | fault c => cases look <;> rfl
  | val v =>
    cases look with
    | true => rfl
    | false =>
      cases op with
      | sch n x =>
        show (if v = 0 then State.modSlot (if atomWrites (.sch n x) then endLease s (coreOf i) a else s) i _
          else if atomWrites (.sch n x) then endLease s (coreOf i) a else s).outbox = _
        by_cases hv : v = 0
        · rw [if_pos hv]; exact hlease _
        · rw [if_neg hv]; exact hlease _
      | _ => exact hlease _

/-- Settles O59. -/
theorem sleepEvents : Obligations.SleepEvents := by
  unfold Obligations.SleepEvents
  refine ⟨fun s i z hi hst => ⟨exec_sleepWake_asleep hst hi, exec_waitlimExpiry_early hst, ?limit, fun hw => ⟨?done_, ?late, ?long⟩⟩,
    fun s i => ⟨resume_slot_same s i, rfl, rfl⟩, ?answers⟩
  case limit =>
    intro hl ht hk hd hh hw
    have hreached : limitReached s i z = true := by
      rw [limitReached, limited_of hk hd, bne_iff_ne.mpr hl, decide_eq_true ht]
      simp [hh]
    refine ⟨_, exec_waitlimExpiry_reached hst hi hreached hw, ?_, ?_, rfl⟩ <;> rw [State.slot_modSlot_same]
  case done_ => exact exec_withdrawalResult_over hst hw
  case late =>
    intro ho hl
    refine exec_withdrawalResult_late hst hw ho ?_
    rcases hl with h | ⟨w, hm, hto⟩ | h
    · simp [h]
    · have : s.wakes.any (fun w => w.to_ == slotLink i) = true := List.any_eq_true.mpr ⟨w, hm, by simp [hto]⟩
      simp [this]
    · simp [h]
  case long =>
    intro ho hp hn hh
    refine exec_withdrawalResult_long hst hw ho ?_
    have : s.wakes.any (fun w => w.to_ == slotLink i) = false := List.any_eq_false.mpr fun w hm => by simp [hn w hm]
    simp [hp, this, hh]
  case answers =>
    intro s i a op look hi ho hst
    have hexec := exec_sleepWake_atom hi ho hst
    have hout := requestEnds_atom_outbox { s with outbox := [] } i a op look
    refine ⟨fun v => ⟨_, hexec (.val v), hout _, ?_, ?_⟩, fun c => ⟨_, hexec (.fault c), hout _, ?_, ?_⟩⟩ <;>
      rw [answer_slot_same]

end Sys2Proof.Machine
end


section
/-! The members that manage regions, launches and time (R336 to R347). -/

namespace Sys2Proof.Machine

theorem writeDone_settles {s t : State} {r : Reg} {v : Word} (hw : writeG s r v = .ok () t) : Settles (writeDone s r v) (t.retire 4) := by
  rw [writeDone, hw]
  exact .inl rfl

/-- A check that is passed changes nothing. -/
theorem check_ok {s t : State} {ok : Bool} {c : Cause} {v : Word} (h : check s ok c v = .ok () t) : t = s := by
  cases ok
  · cases h
  · cases h; rfl

theorem checkWatch_ok {s t : State} {a : Word} {n : Nat} {ld st : Bool} (h : checkWatch s a n ld st = .ok () t) : t = s := by
  unfold checkWatch at h
  split at h
  · cases h
  · cases h; rfl

theorem checkDest_ok {s t : State} {d : Word} (h : checkDest s d = .ok () t) : t = s := by
  obtain ⟨_, s1, h1, h⟩ := Eff.andThen_eq_ok.mp h
  obtain ⟨_, s2, h2, h⟩ := Eff.andThen_eq_ok.mp h
  rw [check_ok h, check_ok h2, check_ok h1]

theorem blockLoad_ok {s t : State} {a : Word} {n : Nat} {bs : List Byte} (h : loadRange s a n = .ok bs t) :
    blockLoad s a n = .ok bs t := by rw [blockLoad, h]; rfl

theorem atBlock_ok {α : Type} {a : Word} {e : Eff α} {x : α} {t : State} (h : e = .ok x t) : atBlock a e = .ok x t := by rw [h]; rfl

/-! RCREATE and the child's region (R333, R336). -/

section
variable {s s1 s2 s3 s4 : State} {gd ga : Reg} {x : Word} {bs : List Byte} (ha : readG s ga = .ok x s1)
include ha

/-- RCREATE of a block that it has read. -/
def rcreateEnd (gd : Reg) (a : Word) (bs : List Byte) (s : State) : Eff Unit :=
  match childRegion s s.me.region bs with
  | none => writeDone s gd 0x8000000000000001
  | some g =>
    match freeNumber s 1 16383 with
    | none => writeDone s gd 0x8000000000000003
    | some n =>
      match recAt s s.myCore a with
      | none => .trap .outside a (fun s0 => afterWalk s0 s0.who a)
      | some (r, s) =>
        effectDone (putRegion (endBlockLease (shadowBlock s r) a) n { g with addr := a, phys := some r.p }) gd (BitVec.ofNat 64 n)

theorem exec_rcreate (h512 : x.toNat % 512 = 0) (hg : isLocal x = false) (hdev : devOf s1 x = 0x1FF)
    (hsrc : sourceChecks s1 x x 512 false true = .ok () s2) (hr : release s2 4 = .ok () s3) (hl : loadRange s3 x 512 = .ok bs s4)
    {t : State} (h : Settles (rcreateEnd gd x bs s4) t) : exec (.rcreate gd ga) s = .next t := by
  have hplace : (!(isLocal x) && devOf s1 x == 0x1FF) = true := by rw [hg, hdev]; rfl
  show execRcreate gd ga s = _
  rw [execRcreate, ha, Eff.andThen_ok, checkAlign_aligned s1 h512, Eff.andThen_ok, check_met s1 _ _ hplace, Eff.andThen_ok,
    atBlock_ok hsrc, Eff.andThen_ok]
  refine (Settles.released hr ?_).conclude s
  rw [blockLoad_ok hl, Eff.andThen_ok]
  exact h

end

theorem childRegion_bounds {s : State} {p : Nat} {bs : List Byte} {g : Region} (h : childRegion s p bs = some g) :
    g.parent = p ∧ g.state = .live ∧ g.prio ≤ (s.region p).prio ∧ g.cap ≤ (s.region p).cap ∧ 1 ≤ g.cap ∧
      ∀ i : Fin 5, g.budgets[i].count = 0 ∧ g.budgets[i].limit.toNat ≤ (s.region p).budgets[i].limit.toNat := by
  unfold childRegion at h
  dsimp only at h
  split at h
  case isFalse => cases h
  case isTrue hc =>
    obtain ⟨-, -, hlimits, hprio, -, -, -, hone, hcap, -⟩ := hc
    cases h
    refine ⟨rfl, rfl, hprio, hcap, hone, fun i => ?_⟩
    have hi := List.all_eq_true.mp hlimits i (List.mem_finRange i)
    simpa using hi

/-! RBUDGET (R337). -/

section
variable {s s1 s2 s3 : State} {gd ga gb : Reg} {x y : Word} (ha : readG s ga = .ok x s1) (hb : readG s1 gb = .ok y s2)
  (hchk : blockChecks s2 x = .ok () s3)
include ha hb hchk

theorem exec_rbudget_none (hn : namedRegion s3 x = none) : exec (.rbudget gd ga gb) s = conclude s (writeDone s3 gd 2) := by
  show execRbudget gd ga gb s = _
  rw [execRbudget, ha, Eff.andThen_ok, hb, Eff.andThen_ok, hchk, Eff.andThen_ok, hn]

theorem exec_rbudget {r : Nat} (hn : namedRegion s3 x = some r) :
    let sel := (y.extractLsb' 0 3).toNat
    let v := (y.extractLsb' 8 56).toNat
    exec (.rbudget gd ga gb) s = conclude s (
      if sel = 7 ∨ v < (budgetOf s3 r sel).2.1 then writeDone s3 gd 1
      else if (budgetOf s3 r sel).2.2 < v then writeDone s3 gd 3
      else effectDone ((endBlockLease s3 x).modRegion r (fun g => setLimit g sel v)) gd 0) := by
  show execRbudget gd ga gb s = _
  rw [execRbudget, ha, Eff.andThen_ok, hb, Eff.andThen_ok, hchk, Eff.andThen_ok, hn]

end

/-! RESIDE (R338). -/

theorem findIdx_lt {α : Type} {p : α → Bool} {xs : List α} {i : Nat} {x : α} (h : findIdx p xs = some (i, x)) : i < xs.length := by
  induction xs generalizing i with
  | nil => cases h
  | cons y ys ih =>
    rw [findIdx] at h
    split at h
    · cases h
      exact Nat.zero_lt_succ _
    · obtain ⟨⟨j, z⟩, hj, heq⟩ := Option.map_eq_some_iff.mp h
      cases heq
      exact Nat.succ_lt_succ (ih hj)

theorem entryAt_lt {s : State} {r i : Nat} {b : Word} {e : ResEntry} (h : entryAt s r b = some (i, e)) : i < 8 := by
  have := findIdx_lt h
  simpa using this

/-- RESIDE QRY's word: the entry's number above its state. -/
theorem entryWord {i : Nat} (hi : i < 8) (st : BitVec 2) :
    (BitVec.ofNat 3 i ++ 0#2 ++ st).setWidth 64 = BitVec.ofNat 64 (16 * i + st.toNat) := by
  match i, hi with
  | 0, _ | 1, _ | 2, _ | 3, _ | 4, _ | 5, _ | 6, _ | 7, _ => revert st; decide

section
variable {s s1 s2 : State} {gd ga gb : Reg} {x y : Word} (ha : readG s ga = .ok x s1) (hb : readG s1 gb = .ok y s2)
include ha hb

theorem exec_resideReq_answered {v : Word} (hr : s2.me.reply = some (.val v)) :
    exec (.resideReq gd ga gb) s = conclude s (writeDone s2 gd v) := by
  show execResideReq gd ga gb s = _
  rw [execResideReq, ha, Eff.andThen_ok, hb, Eff.andThen_ok, hr]

theorem exec_resideReq_none (hr : s2.me.reply = none) (he : entryExact s2 s2.me.region x y = none) :
    exec (.resideReq gd ga gb) s = conclude s (writeDone s2 gd 1) := by
  show execResideReq gd ga gb s = _
  rw [execResideReq, ha, Eff.andThen_ok, hb, Eff.andThen_ok, hr, he]

theorem exec_resideReq_entry {i : Nat} {e : ResEntry} (hr : s2.me.reply = none) (he : entryExact s2 s2.me.region x y = some (i, e)) :
    exec (.resideReq gd ga gb) s = conclude s (if e.st = 2 then writeDone s2 gd 0 else if e.st = 3 then writeDone s2 gd 3
      else (probeG s2 gd).andThen fun _ s => act s (fun s0 => (requestEntry s0 s0.me.region i).sleepFor (.reside i) x)) := by
  have hst : e.st = 0 ∨ e.st = 1 ∨ e.st = 2 ∨ e.st = 3 := by
    generalize e.st = st
    revert st
    decide
  show execResideReq gd ga gb s = _
  rw [execResideReq, ha, Eff.andThen_ok, hb, Eff.andThen_ok, hr, he]
  rcases hst with h | h | h | h <;> simp [h]

theorem exec_resideRel_none (he : entryExact s2 s2.me.region x y = none) :
    exec (.resideRel gd ga gb) s = conclude s (writeDone s2 gd 1) := by
  show execResideRel gd ga gb s = _
  rw [execResideRel, ha, Eff.andThen_ok, hb, Eff.andThen_ok, he]

theorem exec_resideRel_entry {i : Nat} {e : ResEntry} (he : entryExact s2 s2.me.region x y = some (i, e)) :
    exec (.resideRel gd ga gb) s =
      conclude s (effectDone (if e.st = 2 then endLeaseOn s2 s2.me.region i 0 false else s2) gd 0) := by
  show execResideRel gd ga gb s = _
  rw [execResideRel, ha, Eff.andThen_ok, hb, Eff.andThen_ok, he]

theorem exec_resideQry {t : State} (hw : writeG s2 gd (match entryAt s2 s2.me.region x with
    | none => 0xFF
    | some (i, e) => BitVec.ofNat 64 (16 * i + e.st.toNat)) = .ok () t) : exec (.resideQry gd ga gb) s = .next (t.retire 4) := by
  show execResideQry gd ga gb s = _
  rw [execResideQry, ha, Eff.andThen_ok, hb, Eff.andThen_ok]
  cases h : entryAt s2 s2.me.region x with
  | none =>
    rw [h] at hw
    exact conclude_writeDone s hw
  | some ie =>
    obtain ⟨i, e⟩ := ie
    rw [h] at hw
    replace hw : writeG s2 gd (BitVec.ofNat 64 (16 * i + e.st.toNat)) = .ok () t := hw
    rw [← entryWord (entryAt_lt h)] at hw
    exact conclude_writeDone s hw

/-! AT (R343). -/

theorem exec_atTime {s3 s4 s5 s6 : State} {w : Word} {bs : List Byte} (hd : readG s2 gd = .ok w s3) (h8 : w.toNat % 8 = 0)
    (hl : localRead s3 w 72 = .ok bs s4) (htask : x.getLsbD 63 = false ∨ (w64At bs 64).toNat % 4 = 0)
    (hhere : isHere s4 (destDev x) = true) (hdest : checkDest s4 x = .ok () s5) (hwatch : checkWatch s5 w 72 true false = .ok () s6) :
    exec (.atTime gd ga gb) s = conclude s (if 16 ≤ (s6.core s6.myCore).alarms.length then writeDone s6 gd 1
      else effectDone (s6.modCore s6.myCore (fun k =>
        { k with alarms := k.alarms ++ [⟨y, s6.cur, s6.me.region, s6.me.ctx, x, w64At bs 64, bs.take 64⟩] })) gd 0) := by
  have hmis : (!(x.getLsbD 63) || decide ((w64At bs 64).toNat % 4 = 0)) = true := by
    rcases htask with h | h
    · rw [h]; rfl
    · rw [decide_eq_true h, Bool.or_true]
  have hsame : s6 = s4 := (checkWatch_ok hwatch).trans (checkDest_ok hdest)
  have hhere6 : (!(isHere s6 (destDev x))) = false := by rw [hsame, hhere]; rfl
  show execAtTime gd ga gb s = _
  rw [execAtTime, ha, Eff.andThen_ok, hb, Eff.andThen_ok, hd, Eff.andThen_ok, checkAlign_aligned s3 h8, Eff.andThen_ok, hl,
    Eff.andThen_ok, check_met s4 _ _ hmis, Eff.andThen_ok, hdest, Eff.andThen_ok, hwatch, Eff.andThen_ok, hhere6]
  rfl

end

/-! LAUNCH (R340). -/

/-- LAUNCH of a descriptor that it has read. -/
def launchEnd (gd : Reg) (d : List Byte) (s : State) : Eff Unit :=
  match checkLaunch s s.me.region 0 false d with
  | .error st => writeDone s gd (BitVec.ofNat 64 st)
  | .ok l => if l.time ≠ 0 ∧ s.clockFaults ≠ [] then hold execLaunch.retryBlock else effectDone (acceptLaunch s l) gd 0

section
variable {s s1 s2 : State} {gd ga : Reg} {x : Word} (ha : readG s ga = .ok x s1) (h64 : x.toNat % 64 = 0)
  (hsrc : sourceChecks s1 x x 64 false true = .ok () s2)
include ha h64 hsrc

theorem exec_launch : exec (.launch gd ga) s = conclude s (released s2 4 fun s => (blockLoad s x 64).andThen fun d s => launchEnd gd d s) := by
  show execLaunch gd ga s = _
  rw [execLaunch, ha, Eff.andThen_ok, checkAlign_aligned s1 h64, Eff.andThen_ok, atBlock_ok hsrc, Eff.andThen_ok]
  rfl

variable {s3 s4 : State} {bs : List Byte} (hr : release s2 4 = .ok () s3) (hl : loadRange s3 x 64 = .ok bs s4)
include hr hl

theorem exec_launch_settles {t : State} (h : Settles (launchEnd gd bs s4) t) : exec (.launch gd ga) s = .next t := by
  rw [exec_launch ha h64 hsrc]
  refine (Settles.released hr ?_).conclude s
  rw [blockLoad_ok hl, Eff.andThen_ok]
  exact h

/-- A timed launch waits while a clock fault is in force (R27). -/
theorem exec_launch_held {l : Launch} (hc : checkLaunch s4 s4.me.region 0 false bs = .ok l) (ht : l.time ≠ 0)
    (hf : s4.clockFaults ≠ []) : ∃ s', DrainOf s s' ∧ exec (.launch gd ga) s = .next (execLaunch.retryBlock s') := by
  obtain ⟨s', hdr, hexec⟩ := conclude_released hr s (fun s => (blockLoad s x 64).andThen fun d s => launchEnd gd d s)
  refine ⟨s', hdr, ?_⟩
  rw [exec_launch ha h64 hsrc, hexec, blockLoad_ok hl, Eff.andThen_ok, launchEnd, hc]
  show concludeDrained s s' (if l.time ≠ 0 ∧ s4.clockFaults ≠ [] then _ else _) = _
  rw [if_pos ⟨ht, hf⟩]
  rfl

end

/-! WAITT and GANG (R342, R345). -/

section
variable {s s1 s2 : State} {gd ga : Reg} {x : Word} {bs : List Byte} (ha : readG s ga = .ok x s1)
include ha

theorem exec_waitt : exec (.waitt gd ga) s =
    conclude s (if x.toNat ≤ s1.time.toNat then writeDone s1 gd s1.time else sleep (.waitt x) 0) := by
  show execWaitt gd ga s = _
  rw [execWaitt, ha, Eff.andThen_ok]
  by_cases h : x.toNat ≤ s1.time.toNat <;> simp [State.reached, h]

theorem exec_gang (hsup : s.me.region = 0) (h16 : x.toNat % 16 = 0) (hl : loadRange s1 x 16 = .ok bs s2) :
    let part := (s2.core s2.myCore).part.toNat
    exec (.gang gd ga) s = conclude s (
      if (w64At bs 0).toNat < s2.time.toNat + 10000 then writeDone s2 gd 1
      else if s2.clockFaults ≠ [] then writeDone s2 gd 2
      else if s2.gangs.any (fun g => g.part == part) then writeDone s2 gd 3
      else effectDone { s2 with gangs := s2.gangs ++ [⟨part, w64At bs 0,
        if (bs.getD 8 0).getLsbD 1 then some ((bs.getD 8 0).extractLsb' 4 2).toNat else none,
        if (bs.getD 8 0).getLsbD 0 then some ((bs.getD 8 0).extractLsb' 2 2).toNat else none, false⟩] } gd 0) := by
  show execGang gd ga s = _
  rw [execGang, checkSup_ok _ _ hsup, Eff.andThen_ok, ha, Eff.andThen_ok, checkAlign_aligned s1 h16, Eff.andThen_ok, blockLoad_ok hl,
    Eff.andThen_ok]

/-! RDONE (R347). -/

theorem exec_rdone_answered {v : Word} (hr : s1.me.reply = some (.val v)) :
    exec (.rdone gd ga) s = conclude s (writeDone s1 gd v) := by
  show execRdone gd ga s = _
  rw [execRdone, ha, Eff.andThen_ok, hr]

theorem exec_rdone_root (hr : s1.me.reply = none) (hx : x = 0) : exec (.rdone gd ga) s = conclude s (writeDone s1 gd 1) := by
  have hchk : blockChecks s1 x = .ok () s1 := if_pos hx
  show execRdone gd ga s = _
  rw [execRdone, ha, Eff.andThen_ok, hr]
  show conclude s ((blockChecks s1 x).andThen _) = _
  rw [hchk, Eff.andThen_ok, if_pos hx]

variable (hr : s1.me.reply = none) (hx : x ≠ 0) (hchk : blockChecks s1 x = .ok () s2)
include hr hx hchk

theorem exec_rdone_none (hn : namedRegion s2 x = none) : exec (.rdone gd ga) s = conclude s (writeDone s2 gd 2) := by
  show execRdone gd ga s = _
  rw [execRdone, ha, Eff.andThen_ok, hr]
  show conclude s ((blockChecks s1 x).andThen _) = _
  rw [hchk, Eff.andThen_ok, if_neg hx, hn]

theorem exec_rdone {r : Nat} (hn : namedRegion s2 x = some r) :
    let own := isBelow s2 s2.me.region r 16384
    exec (.rdone gd ga) s = conclude s (
      if (endFor r s2).endings.any (fun e => [e.keep, e.waiter].contains (some (waiterOf s2 s2.cur))) then
        (if own then .ok () s2 else probeG s2 gd).andThen fun _ s => act s (fun s0 => (endFor r s0).stall .reply)
      else if own then .ok () (endFor r s2)
      else effectDone (endFor r s2) gd 0) := by
  show execRdone gd ga s = _
  rw [execRdone, ha, Eff.andThen_ok, hr]
  show conclude s ((blockChecks s1 x).andThen _) = _
  rw [hchk, Eff.andThen_ok, if_neg hx, hn]

end

/-- The ends that a task waits for. -/
theorem endings_any (s : State) (me : Waiter) : s.endings.any (fun e => [e.keep, e.waiter].contains (some me)) =
    s.endings.any (fun e => e.keep == some me || e.waiter == some me) := by
  refine congrArg (s.endings.any ·) (funext fun e => ?_)
  show (some me == e.keep || (some me == e.waiter || false)) = _
  rw [Bool.or_false, BEq.comm, BEq.comm (a := some me) (b := e.waiter)]

/-- Settles O49. -/
theorem regionInstructions : Obligations.RegionInstructions := by
  unfold Obligations.RegionInstructions
  intro s s1 s2 s3 s4 s5 s6 t gd ga gb x y w bs ha
  refine ⟨?rcreate, fun st p g h => childRegion_bounds h, fun hb => ⟨?rbudget, ?answered, ?absent, ?entry, exec_resideQry ha hb, ?at_⟩,
    ?launch, ?come, ?early, ?gang, ?rdoneAnswered, ?rdoneRoot, ?rdone⟩
  case rcreate =>
    intro h512 hg hdev hsrc hr hl
    refine ⟨fun hc hw => exec_rcreate ha h512 hg hdev hsrc hr hl ?_, fun g n r hc hn hrec => endsWith_of_settles fun t h =>
      exec_rcreate ha h512 hg hdev hsrc hr hl ?_⟩
    · rw [rcreateEnd, hc]
      exact writeDone_settles hw
    · simp only [rcreateEnd, hc, hn, hrec]
      exact h
  case rbudget =>
    intro hchk
    refine ⟨fun hn hw => (exec_rbudget_none ha hb hchk hn).trans (conclude_writeDone s hw), fun r hn => ?_⟩
    have hexec := exec_rbudget (gd := gd) ha hb hchk hn
    refine ⟨fun h hw => ?_, fun h7 hv hp hw => ?_, fun h7 hv hp => endsWith_of_effectDone ?_⟩
    · rw [hexec, if_pos h]
      exact conclude_writeDone s hw
    · rw [hexec, if_neg (not_or.mpr ⟨h7, Nat.not_lt.mpr hv⟩), if_pos hp]
      exact conclude_writeDone s hw
    · rw [hexec, if_neg (not_or.mpr ⟨h7, Nat.not_lt.mpr hv⟩), if_neg (Nat.not_lt.mpr hp)]
  case answered => exact fun v hr hw => (exec_resideReq_answered ha hb hr).trans (conclude_writeDone s hw)
  case absent =>
    exact fun he hw => ⟨fun hr => (exec_resideReq_none ha hb hr he).trans (conclude_writeDone s hw),
      (exec_resideRel_none ha hb he).trans (conclude_writeDone s hw)⟩
  case entry =>
    intro i e he
    refine ⟨fun hr hst hw => ?_, fun hr hst hw => ?_, fun hr hst hp => ?_, endsWith_of_effectDone (exec_resideRel_entry ha hb he)⟩
    · rw [exec_resideReq_entry ha hb hr he, if_pos hst]
      exact conclude_writeDone s hw
    · rw [exec_resideReq_entry ha hb hr he, hst, if_neg (by decide), if_pos rfl]
      exact conclude_writeDone s hw
    · have hne : e.st ≠ 2 ∧ e.st ≠ 3 := by rcases hst with h | h <;> rw [h] <;> decide
      rw [exec_resideReq_entry ha hb hr he, if_neg hne.1, if_neg hne.2, hp]
      rfl
  case at_ =>
    intro hd h8 hl htask hhere hdest hwatch
    have hexec := exec_atTime ha hb hd h8 hl htask hhere hdest hwatch
    refine ⟨fun hfull hw => ?_, fun hroom => endsWith_of_effectDone ?_⟩
    · rw [hexec, if_pos hfull]
      exact conclude_writeDone s hw
    · rw [hexec, if_neg (Nat.not_le.mpr hroom)]
  case launch =>
    intro h64 hsrc hr hl
    refine ⟨fun st hc hw => exec_launch_settles ha h64 hsrc hr hl ?_, fun l hc hok => endsWith_of_settles fun t h =>
      exec_launch_settles ha h64 hsrc hr hl ?_, fun l hc ht hf => ?_⟩
    · rw [launchEnd, hc]
      exact writeDone_settles hw
    · have hno : ¬(l.time ≠ 0 ∧ s4.clockFaults ≠ []) := fun hn => hok.elim hn.1 hn.2
      simp only [launchEnd, hc]
      rw [if_neg hno]
      exact h
    · obtain ⟨s', hdr, hexec⟩ := exec_launch_held ha h64 hsrc hr hl hc ht hf
      obtain ⟨d, hme⟩ := hdr.me
      refine ⟨_, hexec, ?_, ?_, (congrArg State.launches hdr.rest :)⟩
      · rw [execLaunch.retryBlock, me_stall]
      · rw [execLaunch.retryBlock, me_stall, State.me_modMe, hme]
  case come =>
    intro h hw
    rw [exec_waitt ha, if_pos h]
    exact conclude_writeDone s hw
  case early =>
    intro h
    rw [exec_waitt ha, if_neg (Nat.not_le.mpr h)]
    rfl
  case gang =>
    intro hsup h16 hl
    have hexec := exec_gang (gd := gd) ha hsup h16 hl
    refine ⟨fun hnear hw => ?_, fun hfar hf hg => endsWith_of_effectDone ?_⟩
    · rw [hexec, if_pos hnear]
      exact conclude_writeDone s hw
    · have hno : (s2.gangs.any fun g => g.part == (s2.core s2.myCore).part.toNat) = false :=
        List.any_eq_false.mpr fun g hm => by simpa using hg g hm
      rw [hexec, if_neg hfar, if_neg (fun h => h hf), hno]
      rfl
  case rdoneAnswered => exact fun v hr hw => (exec_rdone_answered ha hr).trans (conclude_writeDone s hw)
  case rdoneRoot => exact fun hr hx hw => (exec_rdone_root ha hr hx).trans (conclude_writeDone s hw)
  case rdone =>
    intro hr hx hchk
    refine ⟨fun hn hw => (exec_rdone_none ha hr hx hchk hn).trans (conclude_writeDone s hw), fun r u hn => ?_⟩
    have hexec := exec_rdone (gd := gd) ha hr hx hchk hn
    intro own me hu
    have hend : endFor r s2 = u := hu.symm
    rw [hend, endings_any] at hexec
    refine ⟨fun hw ho => ?_, fun hw ho => endsWith_of_effectDone ?_, fun hw ho => ?_⟩
    · rw [hexec, if_neg (ne_true_of_eq_false hw), if_pos ho]
      rfl
    · rw [hexec, if_neg (ne_true_of_eq_false hw), if_neg (ne_true_of_eq_false ho)]
    · rw [hexec, if_pos hw]
      by_cases hown : own = true
      · rw [if_pos hown]
        exact ⟨_, rfl, stall_status ..⟩
      · rw [if_neg hown, ho.resolve_left hown]
        exact ⟨_, rfl, stall_status ..⟩

end Sys2Proof.Machine
end


section
/-! What a launch does in its cores before its tasks start (R87, R340, R341). -/

namespace Sys2Proof.Machine

/-- What keeps a part of the state that it is told to keep, and memory in its form. -/
structure Keeps {α : Type} (part : State → α) (s t : State) : Prop where
  same : part t = part s
  form : Memory.wf s.mem = true → Memory.wf t.mem = true

namespace Keeps

variable {α : Type} {part : State → α}

theorem refl (s : State) : Keeps part s s := ⟨rfl, id⟩

theorem trans {s t u : State} (h : Keeps part s t) (h' : Keeps part t u) : Keeps part s u :=
  ⟨h'.same.trans h.same, fun hw => h'.form (h.form hw)⟩

/-- A change beside that part and beside memory. -/
theorem light {s t : State} (h : part t = part s) (hm : t.mem = s.mem) : Keeps part s t := ⟨h, fun hw => by rwa [hm]⟩

theorem foldl {β : Type} {f : State → β → State} (h : ∀ s b, Keeps part s (f s b)) (xs : List β) (s : State) :
    Keeps part s (xs.foldl f s) := by
  induction xs generalizing s with
  | nil => exact refl s
  | cons x xs ih => exact (h s x).trans (ih _)

end Keeps

/-- What the start of a launch leaves to the scheduler: the launches that are held, and the journal's head. -/
def heldPart (s : State) : List Launch × Nat := (s.launches, s.jhead)

theorem HomeWork.held {s t : State} (h : HomeWork s t) : Keeps heldPart s t := ⟨(congrArg heldPart h.rest :), h.form⟩

theorem serveLoads_held (xs : List Nat) (s : State) (key : Nat) : Keeps heldPart s (serveLoads s key xs) := by
  induction xs generalizing s with
  | nil => exact .refl s
  | cons x xs ih =>
    rw [serveLoads]
    split
    · split
      · exact .trans (t := satisfy s x (wordOf (readBytes s.mem key 8))) (.light rfl rfl) (ih _)
      · exact ih s
    · split
      · exact .light rfl rfl
      · exact ih s
    · exact ih s

theorem serveStore_held (xs : List Nat) (s : State) (key : Nat) : Keeps heldPart s (serveStore s key xs) := by
  induction xs generalizing s with
  | nil => exact .refl s
  | cons x xs ih =>
    rw [serveStore]
    split
    · rename_i v _
      split
      · have h1 : Keeps heldPart s (satisfy s x 0) := .light rfl rfl
        have h2 := (bankWrite_work (satisfy s x 0) key (bytesOf 8 v)).held
        exact (h1.trans h2).trans (.trans (t := setFull (bankWrite (satisfy s x 0) key (bytesOf 8 v)) key true) (.light rfl rfl)
          (serveLoads_held ..))
      · exact ih s
    · exact ih s

theorem launchTag_held (s : State) (key : Nat) (full : Bool) : Keeps heldPart s (launchTag s key full) := by
  unfold launchTag
  split
  · exact .refl s
  · split
    · exact .trans (t := setFull s key true) (.light rfl rfl) (serveLoads_held ..)
    · exact .trans (t := setFull s key false) (.light rfl rfl) (serveStore_held ..)

theorem writeTags_held (s : State) (cluster : Nat) (es : List LocalImage) : Keeps heldPart s (writeTags s cluster es) :=
  .foldl (fun _ _ => .foldl (fun _ _ => launchTag_held ..) _ _) _ _

theorem writeWindows_held (s : State) (r core : Nat) (es : List LocalImage) : Keeps heldPart s (writeWindows s r core es) := by
  unfold writeWindows
  refine .foldl (fun _ _ => ?_) _ _
  exact .light rfl rfl

theorem schedReads_work (ps : List (Word × Nat)) {s t : State} {acc bs : List Byte} (h : schedReads s acc ps = some (bs, t)) :
    HomeWork s t := by
  induction ps generalizing s acc with
  | nil => cases h; exact .refl _
  | cons p ps ih =>
    rw [schedReads] at h
    split at h
    · cases h
    · split at h
      · cases h
      · rename_i hl
        dsimp only at h
        split at h
        · cases h
        · exact (leafFor_work hl).trans (ih h)

theorem copyImages_held (es : List LocalImage) {s t : State} {cores : List Nat} (h : copyImages s cores es = some t) :
    Keeps heldPart s t := by
  induction es generalizing s with
  | nil => cases h; exact .refl _
  | cons e es ih =>
    rw [copyImages] at h
    split at h
    · cases h
    · rename_i bs u hu
      have hread : Keeps heldPart s u := by
        split at hu
        · cases hu; exact .refl _
        · exact (schedReads_work _ hu).held
      exact (hread.trans (.foldl (fun _ _ => (bankWrite_work ..).held) _ _)).trans (ih h)

theorem installTables_held (s : State) (l : Launch) : Keeps heldPart s (installTables s l) := by
  unfold installTables
  refine .trans (.foldl (fun _ _ => ?_) l.groups s) (.foldl (fun _ _ => ?_) l.experts _) <;> exact .light rfl rfl

theorem startTask_held (s : State) (i r : Nat) (pc : Word) (payload : List Byte) : Keeps heldPart s (startTask s i r pc payload) :=
  .light rfl rfl

theorem startAll_held (s : State) (l : Launch) (args : List Byte) (slots : List Nat) : Keeps heldPart s (startAll s l args slots) :=
  .foldl (fun _ _ => startTask_held ..) _ _

/-- A journal entry is in memory, and the journal's head has moved on. -/
theorem journal_work (s : State) (r op st : Nat) (tag : W32) (d : List Byte) :
    ∃ u, HomeWork s u ∧ journal s r op st tag d = { u with jhead := s.jhead + 1 } := ⟨_, rawWrite_work .., rfl⟩

/-! The tasks of a launch. -/

/-- A task's slot while nothing of it has run. -/
def beginsAt (l : Launch) (s : State) (i : Nat) : Prop :=
  (s.slot i).pc = l.pc ∧ (s.slot i).region = l.region ∧ (s.slot i).status = .ready

theorem startTask_slot_other (s : State) (i r : Nat) (pc : Word) (payload : List Byte) {n : Nat} (h : n ≠ i) :
    ∃ f, (startTask s i r pc payload).slot n = { s.slot n with fetch := f } := by
  unfold startTask
  dsimp only
  rw [expireAll_slot, State.slot_setSlot_ne _ _ _ _ h]
  exact ⟨_, rfl⟩

theorem startTask_begins (s : State) (l : Launch) (i : Nat) (payload : List Byte) :
    beginsAt l (startTask s i l.region l.pc payload) i := by
  rw [beginsAt, startTask_slot]
  exact ⟨rfl, rfl, rfl⟩

theorem startTask_keeps_begun {s : State} {l : Launch} {n : Nat} (h : beginsAt l s n) (i : Nat) (payload : List Byte) :
    beginsAt l (startTask s i l.region l.pc payload) n := by
  by_cases hn : n = i
  · rw [hn]; exact startTask_begins ..
  · obtain ⟨f, hf⟩ := startTask_slot_other s i l.region l.pc payload hn
    rw [beginsAt, hf]
    exact h

theorem startTasks_begin (l : Launch) (args : List Byte) (xs : List (Nat × Nat)) (s : State) {n : Nat}
    (h : beginsAt l s n ∨ n ∈ xs.map Prod.fst) :
    beginsAt l (xs.foldl (fun s x => startTask s x.1 l.region l.pc ((args.drop (64 * x.2)).take 64)) s) n := by
  induction xs generalizing s with
  | nil => exact h.resolve_right List.not_mem_nil
  | cons x xs ih =>
    refine ih _ ?_
    rcases h with h | h
    · exact .inl (startTask_keeps_begun h ..)
    · rcases List.mem_cons.mp h with rfl | h
      · exact .inl (startTask_begins ..)
      · exact .inr h

theorem startAll_begin (s : State) (l : Launch) (args : List Byte) {slots : List Nat} {n : Nat} (h : n ∈ slots) :
    beginsAt l (startAll s l args slots) n :=
  startTasks_begin l args _ s (.inr (by rwa [List.zipIdx_map_fst]))

theorem HomeWork.begun {s t : State} (h : HomeWork s t) {l : Launch} {n : Nat} (hb : beginsAt l s n) : beginsAt l t n := by
  obtain ⟨r, hr⟩ := h.slot n
  rw [beginsAt, hr]
  exact hb

theorem planTasks_length {s : State} {part windows : Nat} (xs : List (Word × Nat)) {plan slots : List Nat}
    (h : planTasks s part windows plan xs = some slots) : slots.length = plan.length + xs.length := by
  induction xs generalizing plan with
  | nil => cases h; rfl
  | cons x xs ih =>
    rw [planTasks] at h
    split at h
    · rw [ih h, List.length_append, List.length_singleton, List.length_cons]
      omega
    · cases h

/-- What a launch that starts has come to. -/
theorem startLaunch_some {u t : State} {l : Launch} (h : startLaunch u l = some t) :
    let g := u.region l.region
    let es := (imageList u l.limg).list.filter (fun e => e.len != 0)
    isLive u l.region = true ∧ launchesRun u g.part = true ∧ l.time.toNat ≤ u.time.toNat ∧ (mapGet u.resident g.part).getD 0 = g.ctx ∧
    (∀ e ∈ g.res.toList, l.ranges.any (touches u e) = true → e.st = 2) ∧
    ∃ slots args v, planTasks u g.part es.length [] l.ranges = some slots ∧ Keeps heldPart u v ∧
      t = journalEvent (startAll v l args slots) l.region 2 0 := by
  unfold startLaunch at h
  dsimp only at h
  split at h
  · cases h
  · rename_i hc
    simp only [not_or, Bool.not_eq_false, Bool.not_eq_true, ne_eq, Classical.not_not] at hc
    obtain ⟨hlive, hrun, hready, htime, -, hctx⟩ := hc
    split at h
    · cases h
    · split at h
      · rename_i slots u' hplan hch
        obtain ⟨v, hv, rfl⟩ := Option.map_eq_some_iff.mp h
        refine ⟨hlive, hrun, of_decide_eq_true htime, hctx, fun e he ht => ?_, slots, _, _, hplan, ?_, rfl⟩
        · have := List.all_eq_true.mp hready e he
          simpa [ht] using this
        · exact (((charge_work hch).held.trans (copyImages_held _ hv)).trans
            (.foldl (fun _ _ => (writeWindows_held ..).trans (writeTags_held ..)) _ _)).trans (installTables_held ..)
      · cases h

/-- What a launch that starts leaves: it is held no more, the journal has its entry, and its tasks are about to begin. -/
theorem startLaunch_placed {u t : State} {l : Launch} (h : startLaunch u l = some t) :
    isLive u l.region = true ∧ launchesRun u (u.region l.region).part = true ∧ l.time.toNat ≤ u.time.toNat ∧
    (mapGet u.resident (u.region l.region).part).getD 0 = (u.region l.region).ctx ∧
    (∀ e ∈ (u.region l.region).res.toList, l.ranges.any (touches u e) = true → e.st = 2) ∧
    t.launches = u.launches ∧ t.jhead = u.jhead + 1 ∧
    ∀ slots, planTasks u (u.region l.region).part ((imageList u l.limg).list.filter (fun e => e.len != 0)).length []
      l.ranges = some slots → slots.length = l.ranges.length ∧ ∀ i ∈ slots, beginsAt l t i := by
  obtain ⟨hlive, hrun, htime, hctx, hres, slots, args, v, hplan, hv, rfl⟩ := startLaunch_some h
  have hheld := (hv.trans (startAll_held v l args slots)).same
  have hbegin : ∀ i ∈ slots, beginsAt l (startAll v l args slots) i := fun i hi => startAll_begin v l args hi
  generalize startAll v l args slots = w at hheld hbegin
  obtain ⟨hlaunches, hhead⟩ := Prod.mk.inj hheld
  obtain ⟨x, hx, hj⟩ := journal_work w l.region 0 2 0 (List.replicate 32 0)
  have hx' := (congrArg State.launches hx.rest :)
  rw [journalEvent, hj]
  refine ⟨hlive, hrun, htime, hctx, hres, hx'.trans hlaunches, congrArg (· + 1) hhead, fun slots' hs => ?_⟩
  rw [hplan] at hs
  cases hs
  exact ⟨by simpa using planTasks_length _ hplan, fun i hi => hx.begun (hbegin i hi)⟩

theorem exec_launchPlacement {s : State} {l : Launch} (hl : s.launches = [l]) : exec (.launchPlacement 0) s =
    .next ((startLaunch { s with launches := [] } l).getD (requestEntries s l)) := by
  have hno : [l].any (fun o => ranksFirst s o.region l.region (decide (o.order < l.order)) && (startLaunch s o).isSome) = false := by
    simp [ranksFirst]
  show execLaunchPlacement 0 s = _
  rw [execLaunchPlacement, hl]
  show Host.Outcome.next (match startLaunch { s with launches := [] } l with
    | some t => if [l].any (fun o => ranksFirst s o.region l.region (decide (o.order < l.order)) && (startLaunch s o).isSome) then s else t
    | none => requestEntries s l) = _
  rw [hno]
  generalize startLaunch { s with launches := [] } l = o
  generalize requestEntries s l = r
  cases o <;> rfl

/-! Leases and alarms (R338, R342, R343). -/

theorem setEntry_entry (s : State) (r i : Nat) (st : BitVec 2) :
    (((setEntry s r i st).region r).res[i % 8]'(Nat.mod_lt _ (by decide))).st = st := by
  rw [setEntry, State.modRegion, (putRegion_spec s r _).1, if_pos rfl]
  simp

theorem setEntry_slots (s : State) (r i : Nat) (st : BitVec 2) : (setEntry s r i st).slots = s.slots :=
  (congrArg State.slots (putRegion_spec s r _).2.1 :)

theorem wakeReside_regions (s : State) (r i : Nat) (v : Word) : (wakeReside s r i v).regions = s.regions := by
  have h : Keeps State.regions s (wakeReside s r i v) := by
    unfold wakeReside
    refine .foldl (fun _ _ => ?_) _ _
    exact .light rfl rfl
  exact h.same

/-- The one slot, which sleeps on the entry, is answered. -/
theorem wakeReside_one {s : State} {r i j : Nat} {sl : Slot} {z : Sleep} (hs : s.slots = [(j, sl)]) (hr : sl.region = r)
    (hst : sl.status = .asleep z) (hk : z.kind = .reside i) (v : Word) : wakeReside s r i v = answer s j (.val v) := by
  rw [wakeReside, hs]
  simp [hr, hst, hk]

theorem exec_residencyGrant {s : State} {r i : Nat} (hi : i < 8) (hlive : isLive s r = true)
    (hst : ((s.region r).res[i % 8]'(Nat.mod_lt _ (by decide))).st = 1)
    (hlease : canLease s ((s.region r).res[i % 8]'(Nat.mod_lt _ (by decide))).base
      ((s.region r).res[i % 8]'(Nat.mod_lt _ (by decide))).len.toNat = true)
    (hq : ∀ q ∈ s.resReqs, q = (r, i)) : ∃ rs, exec (.residencyGrant r i) s =
      .next { wakeReside (setEntry s r i 2) r i 0 with resReqs := rs } := by
  have hg : grantable s r i = true := by simp [grantable, hi, hlive, hst, hlease]
  have hnone : s.resReqs.filter (fun q => q != (r, i)) = [] := List.filter_eq_nil_iff.mpr fun q hm => by simp [hq q hm]
  refine ⟨(wakeReside (setEntry s r i 2) r i 0).resReqs.filter (fun q => q != (r, i)), ?_⟩
  show execResidencyGrant r i s = _
  rw [execResidencyGrant, hg, hnone]
  rfl

theorem exec_residencyRelease {s : State} {r i n : Nat} {b : Word} {host : Bool} (h : s.leaseEnds = [⟨r, i, b, n, host⟩]) :
    exec (.residencyRelease r i) s = .next (if accessing s r b n then s
      else if host then breakCovering { s with leaseEnds := [] } b n else { s with leaseEnds := [] }) := by
  have hf : findIdx (fun x : LeaseEnd => x.region == r && x.entry == i) s.leaseEnds = some (0, ⟨r, i, b, n, host⟩) := by
    rw [h]
    exact findIdx_one (by simp)
  show execResidencyRelease r i s = _
  rw [execResidencyRelease, hf, h]
  rfl

theorem switchFirst_quiet {s : State} (hf : s.flash = none) (hg : s.gangs = []) (p : Nat) : switchFirst s p = false := by
  rw [switchFirst, flashDue, hf, hg]
  rfl

section
variable {s : State} {core i : Nat} {a : Alarm} (ha : (s.core core).alarms[i]? = some a)
include ha

theorem exec_alarm (ht : a.time.toNat ≤ s.time.toNat) (ho : outgoing s core < 4) (hf : s.flash = none) (hg : s.gangs = []) :
    exec (.alarm core i) s =
      .next (postAlarm (s.modCore core (fun k => { k with alarms := dropAt k.alarms i })) core a) := by
  have hreached : s.reached a.time = true := decide_eq_true ht
  show execAlarm core i s = _
  rw [execAlarm, ha]
  refine congrArg Host.Outcome.next (if_pos ⟨hreached, ho, ?_⟩)
  simp [switchFirst_quiet hf hg]

theorem exec_alarm_early (ht : s.time.toNat < a.time.toNat) : exec (.alarm core i) s = .next s := by
  have hno : s.reached a.time = false := decide_eq_false (Nat.not_le.mpr ht)
  show execAlarm core i s = _
  rw [execAlarm, ha]
  refine congrArg Host.Outcome.next (if_neg fun h => ?_)
  rw [hno] at h
  exact Bool.false_ne_true h.1

end

/-- An alarm's message to a slot of this device is on its way. -/
theorem postAlarm_inbox {s : State} {core : Nat} {a : Alarm} (h : a.dest.getLsbD 63 = false) :
    ∃ m, postAlarm s core a = { s with flights := s.flights ++ [.inbox m a.slot] } ∧ m.payload = a.payload := by
  refine ⟨_, if_neg (by rw [h]; nofun), rfl⟩

theorem exec_waittWake {s : State} {i : Nat} {z : Sleep} {x : Word} (hst : (s.slot i).status = .asleep z) (hk : z.kind = .waitt x)
    (ht : x.toNat ≤ s.time.toNat) : exec (.waittWake i) s = .next (resume s i) := by
  have hreached : s.reached x = true := decide_eq_true ht
  show execWaittWake i s = _
  rw [execWaittWake, hst]
  simp only [hk, hreached, if_true]

/-! Gang switches (R344 to R346). -/

/-- What is left of a context as it goes out: the drawers, the switches, what is resident, and the status of a slot. -/
def outPart (i : Nat) (s : State) : SMap (Slot × List InboxEntry) × List Gang × SMap Nat × Status :=
  (s.drawers, s.gangs, s.resident, (s.slot i).status)

theorem outPart_eq {s t : State} {i : Nat} (hd : t.drawers = s.drawers) (hg : t.gangs = s.gangs) (hr : t.resident = s.resident)
    (hs : (t.slot i).status = (s.slot i).status) : outPart i t = outPart i s := by
  rw [outPart, hd, hg, hr, hs]
  rfl

theorem IoWork.out_ {s t : State} (h : IoWork s t) (i : Nat) : Keeps (outPart i) s t := by
  obtain ⟨_, hr⟩ := h.slot i
  exact ⟨outPart_eq (congrArg State.drawers h.rest :) (congrArg State.gangs h.rest :) (congrArg State.resident h.rest :)
    (by rw [hr]), h.form⟩

theorem writeDrawer_work (s : State) (w : Who) (off n : Nat) : IoWork s (writeDrawer s w off n) := by
  unfold writeDrawer
  dsimp only
  generalize min n ((s.region w.region).drwSize.toNat - off) = m
  split
  · exact .refl s
  · have hb := (drawBytes_work s m).io
    split
    · rename_i h
      exact hb.trans (ioWrite_work h)
    · exact hb

/-- What a slot leaves in its drawer (R344, R346). -/
def drawerOf (s : State) (i : Nat) : Slot × List InboxEntry :=
  let sl := s.slot i
  let alone := finishesAlone s (waiterOf s i)
  let st := match sl.status with
    | .parked h => Status.parked h
    | _ => if alone then .waiting .reply else .ready
  ({ (if alone then sl else clearProgress sl) with status := st, fetch := none, awayResv := false }, entriesOf (withdrawSlot s i) i)

theorem drawerOf_registers (s : State) (i : Nat) :
    (drawerOf s i).1.g = (s.slot i).g ∧ (drawerOf s i).1.pc = (s.slot i).pc := by
  unfold drawerOf
  cases finishesAlone s (waiterOf s i) <;> exact ⟨rfl, rfl⟩

theorem saveSlot_out (s : State) (i : Nat) : outPart i (saveSlot s i) =
    (mapPut s.drawers (8192 * (s.slot i).ctx + i) (drawerOf s i), s.gangs, s.resident, .noTask) := by
  have hw := withdrawSlot_withdrawal s i
  have hd := (congrArg State.drawers hw.rest :)
  have hg := (congrArg State.gangs hw.rest :)
  have hr := (congrArg State.resident hw.rest :)
  unfold saveSlot drawerOf
  dsimp only
  generalize withdrawSlot s i = u at hd hg hr ⊢
  refine (((writeDrawer_work ..).out_ i).same).trans ?_
  rw [outPart, State.slot_setSlot_same]
  exact congr (congrArg Prod.mk (congrArg (mapPut · _ _) hd)) (congr (congrArg Prod.mk hg) (congrArg (·, Status.noTask) hr))

theorem saveCore_out (s : State) (ctx c i : Nat) : Keeps (outPart i) s (saveCore s ctx c) := by
  unfold saveCore
  refine .trans ?_ ((writeDrawer_work ..).out_ i)
  exact .light rfl rfl

theorem spillMessages_out (s : State) (cores : List Nat) (part ctx i : Nat) : Keeps (outPart i) s (spillMessages s cores part ctx) := by
  unfold spillMessages
  refine .trans (t := { s with flights := [] }) (.light rfl rfl) (.foldl (fun _ _ => ?_) _ _)
  dsimp only
  split <;> exact .light rfl rfl

/-- A context of one slot on its way out: evaluations end, the slot and the cores are saved, and messages spilled. -/
def switchedAway (s : State) (part ctx i : Nat) : State :=
  let cores := partCores s part
  spillMessages (cores.foldl (fun s c => saveCore s ctx c) (saveSlot (abandonEvals s cores part ctx) i)) cores part ctx

theorem abandonEvals_none {s : State} (h : s.evals = []) (cores : List Nat) (part ctx : Nat) :
    ∃ sp, abandonEvals s cores part ctx = { s with sparks := sp } := by
  refine ⟨s.sparks.map (fun e => (e.1, e.2.filter (fun p => !(p.part == part && p.ctx == ctx)))), ?_⟩
  simp only [abandonEvals, h, List.filter_nil, List.map_nil, List.foldl_nil]

theorem drawerOf_sparks (s : State) (sp : SMap (List Spark)) (i : Nat) :
    (drawerOf { s with sparks := sp } i).1 = (drawerOf s i).1 := rfl

theorem switchedAway_out {s : State} {i : Nat} (h : s.evals = []) (part ctx : Nat) :
    ∃ d, outPart i (switchedAway s part ctx i) = (mapPut s.drawers (8192 * (s.slot i).ctx + i) d, s.gangs, s.resident, .noTask) ∧
      d.1.g = (s.slot i).g ∧ d.1.pc = (s.slot i).pc := by
  obtain ⟨sp, he⟩ := abandonEvals_none h (partCores s part) part ctx
  refine ⟨drawerOf { s with sparks := sp } i, ?_, drawerOf_registers { s with sparks := sp } i⟩
  have hcores : ∀ u, Keeps (outPart i) u ((partCores s part).foldl (fun s c => saveCore s ctx c) u) :=
    Keeps.foldl (fun _ _ => saveCore_out ..) _
  unfold switchedAway
  dsimp only
  rw [he]
  exact ((spillMessages_out ..).same.trans (hcores _).same).trans (saveSlot_out ..)

theorem flashDue_none {s : State} (h : s.flash = none) : flashDue s = false := by rw [flashDue, h]; rfl

theorem abandonStore_free {s : State} {i : Nat} (ha : (s.slot i).status ≠ .waiting .accept) (hw : waitsCheck s i = false) :
    abandonStore s i = s := by
  have hb : ((s.slot i).status == .waiting .accept) = false := by simpa using ha
  simp only [abandonStore, hb, hw, Bool.or_self, Bool.false_and, Bool.false_eq_true, if_false]

theorem exec_gangSwitchOut {s : State} {g : Gang} {ctx i : Nat} (hg : s.gangs = [g]) (ho : g.outDone = false)
    (ht : g.time.toNat ≤ s.time.toNat) (hout : g.out = some ctx) (hres : (mapGet s.resident g.part).getD 0 = ctx)
    (hready : readyToSwitch s (partCores s g.part) ctx = true) (hf : s.flash = none)
    (he : s.evals = []) (ha : (s.slot i).status ≠ .waiting .accept) (hw : waitsCheck s i = false) (hc : ctxSlots s (partCores s g.part) ctx = [i]) :
    ∃ hs ss, let v := switchedAway s g.part ctx i
      exec (.gangSwitchOut g.part) s = .next { v with
        gangs := if g.in_.isSome then modAt (fun g => { g with outDone := true }) v.gangs 0 else dropAt v.gangs 0
        resident := mapPut v.resident g.part noContext, halted := hs, savedHalts := ss } := by
  have hfind : findIdx (fun x : Gang => x.part == g.part && !x.outDone) s.gangs = some (0, g) := by
    rw [hg]
    exact findIdx_one (by simp [ho])
  have hreached : s.reached g.time = true := decide_eq_true ht
  have hstores : abandonStore s i = s := abandonStore_free ha hw
  have hc' : ctxSlots (abandonEvals s (partCores s g.part) g.part ctx) (partCores s g.part) ctx = [i] := by
    obtain ⟨sp, h⟩ := abandonEvals_none he (partCores s g.part) g.part ctx
    rw [h]
    exact hc
  let v := switchedAway s g.part ctx i
  let halts := v.halted.filter (fun cl => (partCores s g.part).any (fun c => clusterOf v c == cl))
  refine ⟨v.halted.filter (fun cl => !(halts.contains cl)), v.savedHalts ++ halts.map (fun cl => (cl, ctx)), ?_⟩
  show execGangSwitchOut g.part s = _
  rw [execGangSwitchOut, hfind]
  simp only [hreached, flashDue_none hf, hout, hres, hc, List.foldl_cons, List.foldl_nil, hstores, hready, hc', Bool.not_true,
    Bool.or_self, Bool.false_eq_true, if_false, ne_eq, not_true_eq_false]
  rfl

/-! A context comes back. -/

/-- A state but for the free values that have been drawn. -/
def undrawn (s : State) : State := { s with freeCtr := 0 }

theorem Keeps.drawn {α : Type} {part : State → α} {s t : State} (h : Keeps undrawn s t) (hp : ∀ u, part (undrawn u) = part u) :
    Keeps part s t := ⟨(hp t).symm.trans ((congrArg part h.same).trans (hp s)), h.form⟩

theorem drawWords_undrawn (s : State) (n : Nat) : Keeps undrawn s (s.drawWords n).2 := by
  induction n generalizing s with
  | zero => exact .refl s
  | succ n ih => exact .trans (t := s.draw.2) (.light rfl rfl) (ih _)

theorem drawBytes_undrawn (s : State) (n : Nat) : Keeps undrawn s (s.drawBytes n).2 := by
  induction n generalizing s with
  | zero => exact .refl s
  | succ n ih => exact .trans (t := s.draw.2) (.light rfl rfl) (ih _)

theorem drawMany_undrawn {α : Type} {one : State → α × State} (h : ∀ s, Keeps undrawn s (one s).2) (s : State) (n : Nat) :
    Keeps undrawn s (drawMany s one n).2 := by
  induction n generalizing s with
  | zero => exact .refl s
  | succ n ih => exact (h s).trans (ih _)

theorem strayCmd_undrawn (c region ctx : Nat) (s : State) : Keeps undrawn s (strayCmd c region ctx s).2 := by
  have h := drawWords_undrawn s 18
  unfold strayCmd
  generalize s.drawWords 18 = x at h ⊢
  exact h

/-- The draws, and the definition that makes them, stand behind variables here, so that nothing evaluates 4,096 draws. -/
theorem strayCore_undrawn (s : State) (c region ctx : Nat) (v : CoreSave) : Keeps undrawn s (strayCore s c region ctx v).2 := by
  obtain ⟨words, hw⟩ : ∃ w, w = State.drawWords := ⟨_, rfl⟩
  have hwords : ∀ s n, Keeps undrawn s (words s n).2 := by
    rw [hw]
    exact drawWords_undrawn
  obtain ⟨f, hf⟩ : ∃ f, f = @strayCore := ⟨_, rfl⟩
  rw [← hf]
  delta strayCore at hf
  rw [← hw] at hf
  subst hf
  have h1 := hwords s 32
  dsimp only
  generalize words s 32 = x at h1 ⊢
  obtain ⟨ks, s1⟩ := x
  have h2 := h1.trans (hwords s1 4096)
  dsimp only
  generalize words s1 4096 = x at h2 ⊢
  obtain ⟨as, s2⟩ := x
  have h3 := h2.trans (hwords s2 256)
  dsimp only
  generalize words s2 256 = x at h3 ⊢
  obtain ⟨ts, s3⟩ := x
  have h4 := h3.trans (hwords s3 6)
  dsimp only
  generalize words s3 6 = x at h4 ⊢
  obtain ⟨ws, s4⟩ := x
  exact ((h4.trans (drawBytes_undrawn ..)).trans (drawMany_undrawn (strayCmd_undrawn c region ctx) ..)).trans
    (drawMany_undrawn (strayCmd_undrawn c region ctx) ..)

theorem savedCore_undrawn (s : State) (ctx c region : Nat) (v : CoreSave) : Keeps undrawn s (savedCore s ctx c region v).2 := by
  unfold savedCore
  split
  · exact .refl s
  · exact strayCore_undrawn ..

/-- What the cores leave to the slots as a context comes back: the drawers, the switches and the regions. -/
def inPart (s : State) : SMap (Slot × List InboxEntry) × List Gang × SMap Region := (s.drawers, s.gangs, s.regions)

theorem restoreCore_in (s : State) (ctx c : Nat) : Keeps inPart s (restoreCore s ctx c) := by
  unfold restoreCore
  dsimp only
  have h1 : Keeps inPart s ((expireAll s c).modCore c (fun k => { k with cache := [] })) := .light rfl rfl
  generalize (expireAll s c).modCore c (fun k => { k with cache := [] }) = u at h1 ⊢
  split
  · exact h1
  · rename_i v _
    have h2 := (savedCore_undrawn u ctx c (coreRegion u ctx c) v).drawn (part := inPart) fun _ => rfl
    generalize savedCore u ctx c (coreRegion u ctx c) v = x at h2 ⊢
    exact (h1.trans h2).trans (.light rfl rfl)

/-- A slot comes back with what its drawer holds. -/
theorem restoreSlot_held {s : State} {d : Nat} {sl : Slot} {inbox : List InboxEntry} (hd : s.drawers = [(d, sl, inbox)])
    (hsize : 8192 * (d % 8192) + 8192 ≤ (s.region sl.region).drwSize.toNat) :
    (restoreSlot s d).drawers = [] ∧ (restoreSlot s d).gangs = s.gangs ∧
      (restoreSlot s d).slot (d % 8192) = { sl with link := (s.slot (d % 8192)).link } := by
  have hget : mapGet s.drawers d = some (sl, inbox) := by rw [hd]; simp [mapGet]
  have hsaved : savedSlot s (d % 8192) sl inbox = (sl, inbox, s) := if_pos hsize
  unfold restoreSlot
  simp only [hget, hsaved]
  refine ⟨?_, rfl, State.slot_setSlot_same ..⟩
  show mapDel s.drawers d = []
  rw [hd]
  simp [mapDel]

theorem exec_gangSwitchIn {s : State} {g : Gang} {ctx : Nat} (hg : s.gangs = [g]) (ho : g.outDone = true) (hin : g.in_ = some ctx)
    (hf : s.flash = none) (hsn : s.snaps = []) :
    let cores := partCores s g.part
    let mine := (s.drawers.filter (fun e => e.1 / 8192 == ctx && cores.contains (coreOf (e.1 % 8192)))).map Prod.fst
    ∃ hs ss, let u := reinject (mine.foldl restoreSlot (cores.foldl (fun s c => restoreCore s ctx c) { s with gangs := [] })) g.part ctx
      exec (.gangSwitchIn g.part) s =
        .next (haltAgain { u with resident := mapPut u.resident g.part ctx, savedHalts := ss } hs) := by
  intro cores mine
  have hfind : findIdx (fun x : Gang => x.part == g.part && x.outDone) s.gangs = some (0, g) := by
    rw [hg]
    exact findIdx_one (by simp [ho])
  have hsnap : ∀ ds, awaitsSnap s ds = false := fun ds => by
    rw [awaitsSnap, hsn]
    simp
  let u := reinject (mine.foldl restoreSlot (cores.foldl (fun s c => restoreCore s ctx c) { s with gangs := [] })) g.part ctx
  let halts := u.savedHalts.filter (fun h => h.2 == ctx && cores.any (fun c => clusterOf u c == h.1))
  refine ⟨halts.map Prod.fst, u.savedHalts.filter (fun h => !(halts.contains h)), ?_⟩
  show execGangSwitchIn g.part s = _
  rw [execGangSwitchIn, hfind]
  simp only [hin, flashDue_none hf, hsnap, hg, Bool.or_self, Bool.false_eq_true, if_false]
  rfl

/-- Settles O50. -/
theorem regionEvents : Obligations.RegionEvents := by
  unfold Obligations.RegionEvents
  refine ⟨?launch, ?grant, fun s r i n b host h => exec_residencyRelease h, ?alarm, ?waitt, ?out_, ?in_⟩
  case launch =>
    intro s l hl u
    have hexec : exec (.launchPlacement 0) s = .next ((startLaunch u l).getD (requestEntries s l)) := exec_launchPlacement hl
    have hl' : u.launches = [] := rfl
    have hj : u.jhead = s.jhead := rfl
    generalize u = v at hexec hl' hj ⊢
    refine ⟨fun hn => by rw [hexec, hn, Option.getD_none], fun t ht => ?_⟩
    rw [ht, Option.getD_some] at hexec
    obtain ⟨hlive, hrun, htime, hctx, hres, hlaunches, hhead, htasks⟩ := startLaunch_placed ht
    exact ⟨hexec, hlive, hrun, htime, hctx, hres, hlaunches.trans hl', by rw [hhead, hj], htasks⟩
  case grant =>
    intro s r i hi hlive hst e hb hd hm hq
    have hlease : canLease s e.base e.len.toNat = true := by
      rw [canLease, hb, hd, if_pos rfl, hm]
      rfl
    obtain ⟨rs, hexec⟩ := exec_residencyGrant hi hlive hst hlease hq
    have hregions := wakeReside_regions (setEntry s r i 2) r i 0
    have hslots := setEntry_slots s r i 2
    have hentry := setEntry_entry s r i 2
    refine ⟨_, hexec, ?_, fun j z hj hjr hjst hk => ?_⟩
    · have hreg : ({ wakeReside (setEntry s r i 2) r i 0 with resReqs := rs } : State).region r = (setEntry s r i 2).region r :=
        region_congr hregions r
      rw [hreg]
      exact hentry
    · rw [wakeReside_one (hslots.trans hj) hjr hjst hk]
      show ((answer (setEntry s r i 2) j (.val 0)).slot j).status = _ ∧ ((answer (setEntry s r i 2) j (.val 0)).slot j).reply = _
      rw [answer_slot_same]
      exact ⟨rfl, rfl⟩
  case alarm =>
    intro s core i a ha
    refine ⟨fun ht ho hd hf hg => ?_, exec_alarm_early ha⟩
    obtain ⟨m, hm, hp⟩ := postAlarm_inbox (s := s.modCore core (fun k => { k with alarms := dropAt k.alarms i })) (core := core) hd
    have hexec := exec_alarm ha ht ho hf hg
    rw [hm] at hexec
    refine ⟨_, m, hexec, ?_, rfl, hp⟩
    show ((s.modCore core (fun k => { k with alarms := dropAt k.alarms i })).core core).alarms = _
    rw [State.core_modCore_same]
  case waitt =>
    intro s slot z x hst hk ht
    refine ⟨_, exec_waittWake hst hk ht, ?_, rfl⟩
    rw [resume_slot_same]
  case out_ =>
    intro s g ctx i hg ho ht hout hres hready hf he hi ha hw hctx hc
    obtain ⟨hs, ss, hexec⟩ := exec_gangSwitchOut hg ho ht hout hres hready hf he ha hw hc
    obtain ⟨d, hpart, hdg, hdpc⟩ := switchedAway_out (i := i) he g.part ctx
    generalize switchedAway s g.part ctx i = v at hexec hpart
    obtain ⟨hd, hgs, hrs, hst⟩ : v.drawers = mapPut s.drawers (8192 * (s.slot i).ctx + i) d ∧ v.gangs = s.gangs ∧
        v.resident = s.resident ∧ (v.slot i).status = .noTask := by simpa [outPart] using hpart
    refine ⟨_, d, hexec, mapGet_mapPut_same .., hst, ?_, hdg, hdpc, ?_⟩
    · show mapGet v.drawers _ = _
      rw [hd, hctx, mapGet_mapPut_same]
    · show (if g.in_.isSome then modAt _ v.gangs 0 else dropAt v.gangs 0) = _
      rw [hgs, hg]
      rfl
  case in_ =>
    intro s g ctx d sl inbox hg ho hin hd hdc hcore hf hsn hsize
    obtain ⟨hs, ss, hexec⟩ := exec_gangSwitchIn hg ho hin hf hsn
    have hmine : (s.drawers.filter (fun e => e.1 / 8192 == ctx && (partCores s g.part).contains (coreOf (e.1 % 8192)))).map Prod.fst = [d] := by
      rw [hd]
      simp [hdc, hcore]
    have hcores := (Keeps.foldl (fun u c => restoreCore_in u ctx c) (partCores s g.part) { s with gangs := [] }).same
    simp only [hmine, List.foldl_cons, List.foldl_nil] at hexec
    generalize (partCores s g.part).foldl (fun s c => restoreCore s ctx c) { s with gangs := [] } = u at hcores hexec
    obtain ⟨hud, hug, hur⟩ : u.drawers = s.drawers ∧ u.gangs = [] ∧ u.regions = s.regions := by simpa [inPart] using hcores
    have hslot := restoreSlot_held (hud.trans hd) (by rw [region_congr hur]; exact hsize)
    generalize restoreSlot u d = v at hslot hexec
    obtain ⟨hvd, hvg, hvs⟩ := hslot
    refine ⟨_, hexec, hvg.trans hug, hvd, mapGet_mapPut_same .., ?_⟩
    show (v.slot (d % 8192)).g = _ ∧ (v.slot (d % 8192)).pc = _ ∧ (v.slot (d % 8192)).status = _
    rw [hvs]
    exact ⟨rfl, rfl, rfl⟩

end Sys2Proof.Machine
end


section
/-! Tier 1: samples of the encoding, the state of reset, what a fetch gives,
and what a step runs. -/

namespace Sys2Proof.Machine

/-- Whether words decode to an instruction. -/
def decodesTo (ws : List W32) (i : Instr) : Bool :=
  match decodeWords ws with
  | .ok j => decide (j = i)
  | .error _ => false

/-- Whether words are refused with a reason. -/
def refusedWith (ws : List W32) (r : Reject) : Bool :=
  match decodeWords ws with
  | .ok _ => false
  | .error q => decide (q = r)

theorem decodeWords_of_decodesTo {ws : List W32} {i : Instr} (h : decodesTo ws i = true) : decodeWords ws = .ok i := by
  unfold decodesTo at h
  split at h
  · rename_i hd
    rw [hd, of_decide_eq_true h]
  · cases h

theorem decodeWords_of_refusedWith {ws : List W32} {r : Reject} (h : refusedWith ws r = true) :
    decodeWords ws = .error r := by
  unfold refusedWith at h
  split at h
  · cases h
  · rename_i hd
    rw [hd, of_decide_eq_true h]

/-- Settles O3: each sample evaluates. -/
theorem wordsDecode : Obligations.WordsDecode := by
  have hsamples : ∀ p ∈ wordSamples, decodesTo [p.1] p.2 = true := by decide
  have hrefused : ∀ p ∈ wordsRefused, refusedWith [p.1, 0, 0, 0, 0, 0, 0, 0] p.2 = true := by decide
  exact ⟨fun p hp => decodeWords_of_decodesTo (hsamples p hp), fun p hp => decodeWords_of_refusedWith (hrefused p hp),
    decodeWords_of_decodesTo (by decide)⟩

/-- Settles O8: the fields of the reset state, which list nothing but what the spec gives. -/
theorem resetState : Obligations.ResetState := by
  refine ⟨rfl, rfl, rfl, ?_, ?_, fun n => rfl, rfl, rfl, rfl, rfl, fun c => ⟨rfl, fun i => ?_⟩⟩
  · decide
  · decide
  · match i with
    | 0 | 1 | 2 | 3 | 4 | 5 | 6 | 7 => rfl

/-- A place in local memory lies in its line as its address does: each space begins with a line. -/
theorem localLoc_line {s : State} {w : Who} {a : Word} {n k : Nat} {need : Need}
    (h : localLoc s w a n need = .ok (.bank k)) : k % 128 = a.toNat % 128 := by
  have ha : (a.extractLsb' 0 48).toNat % 128 = a.toNat % 128 := by
    rw [BitVec.extractLsb'_toNat]; omega
  unfold localLoc localSpace at h
  simp only [] at h
  split at h
  · cases h
  · next sp off hsp =>
    split at h
    · injection h with h
      injection h with h
      subst h
      unfold spaceKey tcmKey spadKey sramKey
      split at hsp
      · cases hsp; simp only [if_true]; omega
      · split at hsp
        · cases hsp; simp only [Nat.one_ne_zero, if_false, if_true]; omega
        · split at hsp
          · cases hsp; rw [if_neg (by decide), if_neg (by decide)]; omega
          · cases hsp
    · cases h

theorem accessLoc_line {s t : State} {w : Who} {a : Word} {n k : Nat} {need : Need}
    (h : accessLoc s w a n need = .ok (.bank k, t)) : k % 128 = a.toNat % 128 := by
  unfold accessLoc at h
  by_cases hl : isLocal a = true
  · rw [if_pos hl] at h
    cases hloc : localLoc s w a n need with
    | ok l =>
      rw [hloc] at h
      obtain ⟨rfl, -⟩ : l = .bank k ∧ s = t := by simpa [Except.map] using h
      exact localLoc_line hloc
    | error c => rw [hloc] at h; cases h
  · rw [if_neg hl] at h
    exact absurd h globalLoc_not_bank

theorem drop_readBytes (m : Memory) (a n d : Nat) :
    (readBytes m a n).drop d = readBytes m (a + d) (n - d) := by
  refine List.ext_getElem (by simp) fun i h1 h2 => ?_
  simp [getElem_readBytes, Nat.add_assoc]

section
variable {s : State} {slot key : Nat} {pc : Word} (hpc : (s.slot slot).pc = pc) (ha : pc.toNat % 4 = 0)
  (hf : (s.slot slot).fetch = none)
  (hloc : accessLoc s ⟨coreOf slot, slot, (s.slot slot).region⟩ pc 4 .fetch = .ok (.bank key, s))
include hpc ha hf hloc

/-- Code in a scratchpad is fetched as its banks serve it (R110). -/
theorem fetchWords_banks (hb : inBanks key = true) :
    fetchWords s slot = .miss (pc &&& ~~~(127 : Word)) (.bank key) s := by
  subst hpc
  simp only [fetchWords, ha, hloc, codeBytes, hf, hb, ne_eq, not_true_eq_false, if_false, if_true]

theorem fetchWords_local (hb : inBanks key = false)
    (hlead : fMaj ((wordsOfBytes (readBytes s.mem key (128 - pc.toNat % 128))).headD 0) = 0x3F → pc.toNat % 32 = 0 →
      accessLoc (s.modSlot slot (fun sl => { sl with
        fetch := some (pc &&& ~~~(127 : Word), readBytes s.mem (key - pc.toNat % 128) 128) }))
        ⟨coreOf slot, slot, (s.slot slot).region⟩ pc 32 .fetch = .ok (.bank key, s.modSlot slot (fun sl => { sl with
          fetch := some (pc &&& ~~~(127 : Word), readBytes s.mem (key - pc.toNat % 128) 128) }))) :
    fetchWords s slot = .words (wordsOfBytes (readBytes s.mem key (128 - pc.toNat % 128)))
      (s.modSlot slot (fun sl => { sl with
        fetch := some (pc &&& ~~~(127 : Word), readBytes s.mem (key - pc.toNat % 128) 128) })) := by
  subst hpc
  have hk := accessLoc_line hloc
  have hbytes : (readBytes s.mem (key - (s.slot slot).pc.toNat % 128) 128).drop ((s.slot slot).pc.toNat % 128) =
      readBytes s.mem key (128 - (s.slot slot).pc.toNat % 128) := by
    rw [drop_readBytes, Nat.sub_add_cancel (by omega)]
  simp only [fetchWords, ha, hloc, codeBytes, hf, hb, ne_eq, not_true_eq_false, if_false, Bool.false_eq_true, hbytes]
  revert hlead
  cases wordsOfBytes (readBytes s.mem key (128 - (s.slot slot).pc.toNat % 128)) with
  | nil => exact fun _ => rfl
  | cons x xs =>
    intro hlead
    by_cases hl : fMaj x = 0x3F ∧ (s.slot slot).pc.toNat % 32 = 0
    · have hlead := hlead hl.1 hl.2
      simp only [hl.1, hl.2, beq_self_eq_true, decide_true, Bool.and_self, if_true, hlead]
    · have hl : (fMaj x == 0x3F && decide ((s.slot slot).pc.toNat % 32 = 0)) = false := by simpa using hl
      simp only [hl, Bool.false_eq_true, if_false]

end

theorem instrAt_bad {pc : Word} {w : W32} {ws : List W32}
    (h : (∃ e, decodeWords (w :: ws) = .error e) ∨ (fMaj w = 0x3F ∧ pc.toNat % 32 ≠ 0)) :
    instrAt pc (w :: ws) = .illegalEncoding w 0 := by
  simp only [instrAt, List.headD_cons]
  obtain ⟨e, he⟩ | ⟨hm, hp⟩ := h
  · simp [he]
  · simp [hm, hp]

/-- Settles O5: code of the TCM and the SRAM is at hand, code of a scratchpad its banks give. -/
theorem fetchOrFault : Obligations.FetchOrFault := by
  refine ⟨fun s slot key pc hpc ha hf => ⟨?_, ?_⟩, fun pc w ws => ⟨instrAt_bad, fun idx s => rfl⟩⟩
  · exact fun hloc hb => fetchWords_banks hpc ha hf hloc hb
  · exact fun hb hloc hlead => fetchWords_local hpc ha hf hloc hb hlead

/-! What a step runs. -/

theorem fMaj_of_scalar {w : W32} {ws : List W32} {i : Instr} (hd : decodeWords (w :: ws) = .ok i) (ht : i.tile? = none) :
    (fMaj w == 0x3F) = false := by
  cases hm : fMaj w == 0x3F with
  | false => rfl
  | true =>
    simp only [decodeWords, hm, if_true] at hd
    split at hd
    · exact absurd (decodeTile_tile hd) (by rw [ht]; nofun)
    · cases hd

theorem instrAt_decoded {pc : Word} {ws : List W32} {i : Instr} (hd : decodeWords ws = .ok i)
    (ht : i.tile? = none ∨ pc.toNat % 32 = 0) : instrAt pc ws = i := by
  cases ws with
  | nil => cases hd
  | cons w ws =>
    have hlead : (fMaj w == 0x3F && decide (pc.toNat % 32 ≠ 0)) = false := by
      obtain ht | hp := ht
      · rw [fMaj_of_scalar hd ht, Bool.false_and]
      · simp [hp]
    simp only [instrAt, hlead, hd, Bool.false_eq_true, if_false]

/-- The slot whose turn it is runs its instruction, and its outcome is noted. -/
theorem fetchAndRun_runs {note : Host.Outcome State Fault Refusal → Host.Outcome State Fault Refusal} {v u : State}
    {i : Instr} (h : runsIn v i u) : fetchAndRun note v = note (exec i (issueNow u i)) := by
  obtain ⟨hp, ⟨hi, rfl⟩ | ⟨hi, ht, ws, hf, hd⟩⟩ := h
  · simp only [fetchAndRun, hp, hi]
  · simp only [fetchAndRun, hp, hi, hf, instrAt_decoded hd ht]

theorem fetchAndRun_pushes {note : Host.Outcome State Fault Refusal → Host.Outcome State Fault Refusal} {v : State}
    {r : Reg} {x : Word} (h : v.me.push = some (r, x)) : fetchAndRun note v = note (conclude v (writeDone v r x)) := by
  simp only [fetchAndRun, h, pushOn]

theorem takeTurn_eq (s : State) (slot : Nat) :
    takeTurn s slot = fetchAndRun (noted (beginTurn s slot)) (beginTurn s slot) := rfl

section
variable {s : State} (hdue : dueNow s = none)
include hdue

/-- A cycle's turns and services come of the agenda, or of the default schedule with no event to come (log entry 1). -/
theorem step_passes (h : (∃ n rest, s.agenda = .pass (n + 1) :: rest) ∨ (s.agenda = [] ∧ nextEvent s = none)) :
    ∃ after, step s = passStep s after := by
  unfold step
  rw [hdue]
  obtain ⟨n, rest, ha⟩ | ⟨ha, he⟩ := h
  · rw [ha]; exact ⟨_, rfl⟩
  · rw [ha]
    simp only [defaultMove, he]
    exact ⟨_, rfl⟩

theorem step_takesTurn {s0 : State} {slot : Nat}
    (h : (∃ rest, s.agenda = .turn slot :: rest ∧ s0 = { s with agenda := rest } ∧ takesTurn s0 slot = true) ∨
      ((∃ n rest, s.agenda = .pass (n + 1) :: rest) ∨ (s.agenda = [] ∧ nextEvent s = none)) ∧ nextTurn s = some slot ∧
        s0 = s) : step s = takeTurn s0 slot := by
  obtain ⟨rest, ha, rfl, ht⟩ | ⟨hpass, ht, rfl⟩ := h
  · unfold step
    rw [hdue, ha]
    simp only [runMove, ht, if_true]
  · obtain ⟨after, h⟩ := step_passes hdue hpass
    rw [h, passStep, ht]

theorem step_serves {b slot : Nat}
    (hpass : (∃ n rest, s.agenda = .pass (n + 1) :: rest) ∨ (s.agenda = [] ∧ nextEvent s = none))
    (ht : nextTurn s = none) (hs : nextService s = some (b, slot)) : step s = serviceTurn s b slot := by
  obtain ⟨after, h⟩ := step_passes hdue hpass
  rw [h, passStep, ht, hs]

end

/-- What the service of a word comes to, by the words that are left and by what waits for them (R110). -/
theorem serviceTurn_of {s v : State} {b slot : Nat} (hv : v = { serveBank s b slot with cur := slot }) :
    (wordsDue v.me ≠ [] → serviceTurn s b slot = .next v) ∧
    (∀ line, wordsDue v.me = [] → v.me.status = .waiting (.fetch line) → serviceTurn s b slot = .next (v.modMe lineServed)) ∧
    ∀ (u t : State) (i : Instr), wordsDue v.me = [] → (∀ line, v.me.status ≠ .waiting (.fetch line)) →
      runsIn (v.modMe (fun sl => { sl with status := .ready })) i u → exec i (issueNow u i) = .next t →
      serviceTurn s b slot = .next (if tookFault v t then noteFault t slot v.me.pc else t) := by
  unfold serviceTurn
  simp only [← hv]
  refine ⟨fun hd => ?_, fun line hd hst => ?_, fun u t i hd hst hr he => ?_⟩
  · simp [hd]
  · simp [hd, hst]
  · rw [if_neg (by simp [hd])]
    split
    · next line h => exact absurd h (hst line)
    · rw [fetchAndRun_runs hr, he]

/-- Settles O4: the turns of the agenda and of a cycle are one `takeTurn`, and what it runs is what it has fetched. -/
theorem stepRunsDecoded : Obligations.StepRunsDecoded := by
  refine fun s slot hdue => ⟨fun s0 u t i hturn => ?_, fun b v hpass ht hs hv => ?_⟩
  · rw [step_takesTurn hdue hturn, takeTurn_eq]
    refine ⟨fun hr he => ?_, fun r x hp he => ?_⟩
    · rw [fetchAndRun_runs hr, he]; rfl
    · rw [fetchAndRun_pushes (v := beginTurn s0 slot) (r := r) (x := x) hp, he]; rfl
  · rw [step_serves hdue hpass ht hs]
    exact serviceTurn_of hv

end Sys2Proof.Machine
end


section
/-! The instructions of the trap queue, the translations, enumeration and debugging. -/

namespace Sys2Proof.Machine

theorem exec_nop (s : State) : exec .nop s = .next (s.retire 4) := rfl

theorem exec_enum {s s1 t : State} {gd ga : Reg} {x : Word} (hr : readG s ga = .ok x s1)
    (hw : writeG s1 gd (enumEntry s1 x) = .ok () t) : exec (.enum gd ga) s = .next (t.retire 4) := by
  show execEnum gd ga s = _
  rw [execEnum, hr]
  exact conclude_writeDone s hw

theorem exec_watch {s s1 s2 : State} {ga gb : Reg} {x y : Word} (ha : readG s ga = .ok x s1) (hb : readG s1 gb = .ok y s2)
    (kind : BitVec 2) (wp : Bool) : exec (.watch ga gb kind wp) s =
      .next ((s2.modMe (fun sl => if wp then { sl with wp1 := ⟨if y = 0 then 0 else kind, x, y⟩ }
        else { sl with wp0 := ⟨if y = 0 then 0 else kind, x, y⟩ })).retire 4) := by
  show execWatch ga gb kind wp s = _
  simp only [execWatch, ha, hb, Eff.andThen_ok]
  rfl

/-! TQPOP. -/

theorem recordBytes_length (r : TrapRec) : (recordBytes r).length = 64 := by
  simp [recordBytes, bytesOf_length]

section
variable {s s1 : State} {gd ga : Reg} {x : Word} (h0 : s.me.region = 0) (hr : readG s ga = .ok x s1)
include h0 hr

theorem exec_tqpop_stored (hb : bankStored s1 = true) : exec (.tqpop gd ga) s =
    conclude s (effectDone (acquire (bankOver s1) 4) gd 0) := by
  show execTqpop gd ga s = _
  simp only [execTqpop, checkSup_ok s _ h0, hr, Eff.andThen_ok, hb, if_true]

variable (hb : bankStored s1 = false) (hx : x.toNat % 64 = 0) {key : Nat} {s2 : State}
  (hk : localKey s1 x 64 .store = .ok key s2)
include hb hx hk

theorem exec_tqpop_empty {t : State} (hq : s2.tq = []) (hw : writeG s2 gd 1 = .ok () t) :
    exec (.tqpop gd ga) s = .next (t.retire 4) := by
  show execTqpop gd ga s = _
  simp only [execTqpop, checkSup_ok s _ h0, hr, Eff.andThen_ok, hb, Bool.false_eq_true, if_false, checkAlign_aligned s1 hx, hk, hq]
  exact conclude_writeDone s hw

variable {r : TrapRec} {rest : List TrapRec} {s3 : State} (hq : s2.tq = r :: rest)
  (hw : checkWatch s2 x 64 false true = .ok () s3)
  (hf : bankFree s3 s3.myCore key 64 = true)
include hq hw hf

theorem exec_tqpop_moves (hi : inBanks key = false) : exec (.tqpop gd ga) s =
    conclude s (effectDone (acquire (bankWrite { s3 with tq := rest } key (recordBytes r)) 4) gd 0) := by
  show execTqpop gd ga s = _
  simp only [execTqpop, checkSup_ok s _ h0, hr, Eff.andThen_ok, hb, Bool.false_eq_true, if_false, checkAlign_aligned s1 hx, hk, hq,
    hw, hi, Bool.false_and, hf, if_true]

theorem exec_tqpop_banks (hi : inBanks key = true) (hd : bankDone s3 key 64 false = none) : exec (.tqpop gd ga) s =
    .next { askBanks s3 key 64 (some (x, recordBytes r)) true s with tq := rest } := by
  show execTqpop gd ga s = _
  simp only [execTqpop, checkSup_ok s _ h0, hr, Eff.andThen_ok, hb, Bool.false_eq_true, if_false, checkAlign_aligned s1 hx, hk, hq,
    hw, hi, hd, Option.isNone_none, Bool.and_self, if_true, popToBanks, hf]
  rfl

end

/-! TLBINV. -/

theorem probeG_lists {s p : State} {r : Reg} (h : probeG s r = .ok () p) : p.lines = s.lines ∧ p.invals = s.invals := by
  obtain rfl | ⟨a, loc, rfl⟩ := probeG_ok h <;> exact ⟨rfl, rfl⟩

section
variable {s p : State} {gd : Reg} {f : Nat → Bool} (hp : probeG s gd = .ok () p)
include hp

/-- No sharer holds a line and no invalidate of one is on its way: there is nothing to wait for (R369). -/
theorem tlbinv_now {t : State} (hs : ∀ e ∈ s.lines, f e.1 = true → e.2.sharers = []) (hi : ∀ v ∈ s.invals, f v.line = false)
    (hw : writeG p gd 0 = .ok () t) : tlbinv s gd f = .ok () (t.retire 4) := by
  obtain ⟨hl, hv⟩ := probeG_lists hp
  have hlines : s.lines.any (fun e => f e.1 && !e.2.sharers.isEmpty) = false := by
    rw [List.any_eq_false]
    intro e he
    cases hf : f e.1 with
    | false => simp
    | true => simp [hs e he hf]
  have hinvals : s.invals.any (fun v => f v.line) = false := by
    rw [List.any_eq_false]
    intro v hv
    simp [hi v hv]
  simp only [tlbinv, hp, Eff.andThen_ok, hl, hv, hlines, hinvals, Bool.or_self, Bool.false_eq_true, if_false, writeDone, hw]
  rfl

theorem tlbinv_waits (h : (∃ e ∈ s.lines, f e.1 = true ∧ e.2.sharers ≠ []) ∨ ∃ v ∈ s.invals, f v.line = true) :
    tlbinv s gd f = act p (fun s0 => (sendInvalidates s0 s0.cur f).stall .reply) := by
  obtain ⟨hl, hv⟩ := probeG_lists hp
  have hheld : (s.lines.any (fun e => f e.1 && !e.2.sharers.isEmpty) || s.invals.any (fun v => f v.line)) = true := by
    rw [Bool.or_eq_true, List.any_eq_true, List.any_eq_true]
    refine h.imp (fun ⟨e, he, hf, hs⟩ => ⟨e, he, ?_⟩) id
    simp [hf, hs]
  simp only [tlbinv, hp, Eff.andThen_ok, hl, hv, hheld, if_true]

end

section
variable {s : State} (h0 : s.me.region = 0) {gd ga gb : Reg} {t : State}
include h0

theorem exec_tlbinvAll_replied {v : Reply} (hv : s.me.reply = some v) (hw : writeG s gd 0 = .ok () t) :
    exec (.tlbinvAll gd) s = .next (t.retire 4) := by
  show execTlbinvAll gd s = _
  simp only [execTlbinvAll, checkSup_ok s _ h0, Eff.andThen_ok, hv]
  exact conclude_writeDone s hw

theorem exec_tlbinvRange_replied {v : Reply} (hv : s.me.reply = some v) {x y : Word} {s1 s2 : State}
    (ha : readG s ga = .ok x s1) (hb : readG s1 gb = .ok y s2) (hw : writeG s2 gd 0 = .ok () t) :
    exec (.tlbinvRange gd ga gb) s = .next (t.retire 4) := by
  show execTlbinvRange gd ga gb s = _
  simp only [execTlbinvRange, checkSup_ok s _ h0, Eff.andThen_ok, hv, ha, hb]
  exact conclude_writeDone s hw

variable (hv : s.me.reply = none) {s1 : State} (hd : waitDrained s = .ok () s1)
include hv hd

theorem exec_tlbinvAll_drained : exec (.tlbinvAll gd) s = conclude s (tlbinv s1 gd (fun _ => true)) := by
  show execTlbinvAll gd s = _
  simp only [execTlbinvAll, checkSup_ok s _ h0, Eff.andThen_ok, hv, hd]

theorem exec_tlbinvRange_drained {x y : Word} {s2 s3 : State} (ha : readG s1 ga = .ok x s2) (hb : readG s2 gb = .ok y s3)
    (hx : x.toNat % 4096 = 0) (hy : y.toNat % 4096 = 0) (h63 : x.getLsbD 63 = false) (hdev : devOf s3 x = 0x1FF) :
    exec (.tlbinvRange gd ga gb) s =
      conclude s (tlbinv s3 gd (fun l => (rangeLines s3 (vaOf x) (vaOf x + y.toNat)).contains l)) := by
  have hown : check s3 (!(x.getLsbD 63) && devOf s3 x == 0x1FF) .prot x = .ok () s3 :=
    check_met s3 _ _ (by rw [h63, hdev]; rfl)
  show execTlbinvRange gd ga gb s = _
  simp only [execTlbinvRange, checkSup_ok s _ h0, Eff.andThen_ok, hv, hd, ha, hb, checkAlign_aligned s3 hx,
    checkAlign_aligned s3 hy, hown]

end

section
variable {s : State} (h0 : s.me.region = 0) {gd ga gb : Reg} {t : State} {x y : Word} {s1 s2 s3 : State}
  (ha : readG s ga = .ok x s1) (hb : readG s1 gb = .ok y s2)
include h0 ha hb

theorem exec_tlbinvReplay_empty (hd : waitDrained s2 = .ok () s3) (hf : s3.faultBuf = []) (hw : writeG s3 gd 1 = .ok () t) :
    exec (.tlbinvReplay gd ga gb) s = .next (t.retire 4) := by
  show execTlbinvReplay gd ga gb s = _
  simp only [execTlbinvReplay, checkSup_ok s _ h0, Eff.andThen_ok, ha, hb, hd, hf, findIdx]
  exact conclude_writeDone s hw

theorem exec_tlbinvReplay_parked (hd : waitDrained s2 = .ok () s3) {p : ParkedAccess} {q : W32} (hf : s3.faultBuf = [p])
    (hs : p.seq = some q) (hq : q.setWidth 64 = x) :
    exec (.tlbinvReplay gd ga gb) s = conclude s (effectDone (if y.getLsbD 0 || late s3 p then failParked s3 0 p
      else (remoteTry { s3 with faultBuf := [] } p.acc).getD (failParked (walk s3 .east (vaOf p.acc.va)).2 0 p)) gd 0) := by
  have hdrop : dropAt s3.faultBuf 0 = [] := by rw [hf]; rfl
  show execTlbinvReplay gd ga gb s = _
  simp only [execTlbinvReplay, checkSup_ok s _ h0, Eff.andThen_ok, ha, hb, hd]
  rw [hf] at hdrop ⊢
  rw [findIdx_one (by simp [hs, hq])]
  simp only [hdrop]

/-! The mirror. -/

theorem exec_tracewStart : exec (.tracewStart gd ga gb) s = conclude s (
    if isRecording s2 (mirrorOf s2 (clusterArg x)) then writeDone s2 gd 1
    else effectDone { s2 with mirrors := mapPut s2.mirrors (clusterArg x) ⟨true, s2.cycle + 1, none, []⟩ } gd 0) := by
  show execTracewStart gd ga gb s = _
  simp only [execTracewStart, checkSup_ok s _ h0, Eff.andThen_ok, ha, hb]

theorem exec_tracewStop : exec (.tracewStop gd ga gb) s = conclude s (
    if isRecording s2 (mirrorOf s2 (clusterArg x)) then
      effectDone { s2 with mirrors := mapPut s2.mirrors (clusterArg x) (if y = 0 then
        { mirrorOf s2 (clusterArg x) with recording := false }
        else { mirrorOf s2 (clusterArg x) with stopAt := some (s2.cycle + y.toNat) }) } gd 0
    else writeDone s2 gd 1) := by
  show execTracewStop gd ga gb s = _
  simp only [execTracewStop, checkSup_ok s _ h0, Eff.andThen_ok, ha, hb]

theorem exec_tracewDump_over {v : Word} (hv : s2.me.reply = some (.val v))
    (hw : writeG (endRange s2 s2.myCore y (BitVec.ofNat 64 (64 + 9437184))) gd v = .ok () t) :
    exec (.tracewDump gd ga gb) s = .next (t.retire 4) := by
  show execTracewDump gd ga gb s = _
  simp only [execTracewDump, checkSup_ok s _ h0, Eff.andThen_ok, ha, hb, hv]
  exact conclude_writeDone s hw

variable (hr : s2.me.reply = none) (hta : traceArea s2 y 4096 mirrorBytes = .ok () s2)
include hr hta

theorem exec_tracewDump_recording (hm : isRecording s2 (mirrorOf s2 (clusterArg x)) = true) (hw : writeG s2 gd 1 = .ok () t) :
    exec (.tracewDump gd ga gb) s = .next (t.retire 4) := by
  show execTracewDump gd ga gb s = _
  simp only [execTracewDump, checkSup_ok s _ h0, Eff.andThen_ok, ha, hb, hr, hta, hm, if_true]
  exact conclude_writeDone s hw

theorem exec_tracewDump_begins {p : State} (hm : isRecording s2 (mirrorOf s2 (clusterArg x)) = false)
    (hp : probeG s2 gd = .ok () p) :
    exec (.tracewDump gd ga gb) s = .next (beginDump (mirrorOf s2 (clusterArg x)) y (keepPops p s)) := by
  show execTracewDump gd ga gb s = _
  simp only [execTracewDump, checkSup_ok s _ h0, Eff.andThen_ok, ha, hb, hr, hta, hm, Bool.false_eq_true, if_false, hp]
  rfl

end

/-- A dump begins: its head is written and the slot sleeps for it (R382). -/
theorem beginDump_of (m : Mirror) (d : Word) {s p : State} (hst : s.me.status = .ready) :
    let u := beginDump m d (keepPops p s)
    u.me.pc = s.me.pc ∧ u.me.g = s.me.g ∧
      u.dumps = s.dumps ++ [⟨waiterOf s s.cur, s.me.region, d + 64, (m.cycles.map Prod.snd).reverse, 65536⟩] ∧
      u.mem = (ioPut (keepPops p s) s.who d (mirrorHead m)).mem ∧ ∃ z, u.me.status = .asleep z ∧ z.kind = .dump := by
  have hkept := me_keepPops p s
  have hwho : (keepPops p s).who = s.who := by rw [State.who, hkept]; rfl
  have hwaiter : waiterOf (keepPops p s) s.cur = waiterOf s s.cur := by
    show (⟨s.cur, (keepPops p s).me.gen, (keepPops p s).me.ctx⟩ : Waiter) = _
    rw [hkept]; rfl
  have hio : IoWork (keepPops p s) (ioPut (keepPops p s) s.who d (mirrorHead m)) := ioPutFrom_work ..
  dsimp only [beginDump]
  rw [hwho]
  generalize ioPut (keepPops p s) s.who d (mirrorHead m) = t at hio ⊢
  have hcur : t.cur = s.cur := (congrArg State.cur hio.rest :)
  have hdumps : t.dumps = s.dumps := (congrArg State.dumps hio.rest :)
  obtain ⟨r, hslot⟩ := hio.slot s.cur
  have hme : t.me = { (keepPops p s).me with reply := r } := by rw [State.me, hcur]; exact hslot
  rw [hkept] at hme
  have hawake : ∀ z, t.me.status ≠ .asleep z := fun z hz => by
    rw [hme] at hz
    exact nomatch hst.symm.trans hz
  have hds : t.dumps ++ [⟨waiterOf (keepPops p s) (keepPops p s).cur, (keepPops p s).me.region, d + 64,
      (m.cycles.map Prod.snd).reverse, 65536⟩] =
      s.dumps ++ [⟨waiterOf s s.cur, s.me.region, d + 64, (m.cycles.map Prod.snd).reverse, 65536⟩] := by
    rw [hdumps, hkept]
    exact congrArg (fun w => s.dumps ++ [Dump.mk w _ _ _ _]) hwaiter
  rw [hds]
  generalize s.dumps ++ [_] = ds
  have hsleep : (({ t with dumps := ds } : State).sleepFor .dump d).me = _ := sleepFor_awake hawake ..
  refine ⟨?_, ?_, rfl, rfl, _, congrArg Slot.status hsleep, rfl⟩
  · exact (congrArg Slot.pc hsleep).trans (congrArg Slot.pc hme :)
  · exact (congrArg Slot.g hsleep).trans (congrArg Slot.g hme :)

/-! FLASH and XTRIG. -/

section
variable {s : State} (h0 : s.me.region = 0) {gd ga gb : Reg} {t : State} {x y z : Word} {s1 s2 s3 s5 : State}
  (ha : readG s ga = .ok x s1)
include h0 ha

theorem exec_flash (hb : readG s1 gb = .ok y s2) (hd : readG s2 gd = .ok z s3) (hta : traceArea s3 y 2048 131072 = .ok () s5) :
    exec (.flash gd ga gb) s = conclude s (
      if s5.flash.isSome then writeDone s5 gd 1
      else if s5.reached x then writeDone s5 gd 2
      else if s5.clockFaults ≠ [] then writeDone s5 gd 3
      else effectDone { s5 with flash := some ⟨x, y, z, s5.cur, s5.me.region⟩ } gd 0) := by
  show execFlash gd ga gb s = _
  simp only [execFlash, checkSup_ok s _ h0, Eff.andThen_ok, ha, hb, hd, hta]

theorem exec_xtrigHalt : exec (.xtrigHalt gd ga) s = conclude s (
    if s1.halted.contains (clusterArg x) then writeDone s1 gd 1
    else effectDone { s1 with
      halted := s1.halted ++ [clusterArg x]
      mirrors := if (mirrorOf s1 (clusterArg x)).recording then
        mapPut s1.mirrors (clusterArg x) { mirrorOf s1 (clusterArg x) with recording := false } else s1.mirrors } gd 0) := by
  show execXtrigHalt gd ga s = _
  simp only [execXtrigHalt, checkSup_ok s _ h0, Eff.andThen_ok, ha]
  split
  · rfl
  · split <;> rfl

theorem exec_xtrigResume : exec (.xtrigResume gd ga) s = conclude s (
    if s1.halted.contains (clusterArg x) then
      effectDone { s1 with halted := s1.halted.filter (fun c => c != clusterArg x) } gd 0
    else writeDone s1 gd 1) := by
  show execXtrigResume gd ga s = _
  simp only [execXtrigResume, checkSup_ok s _ h0, Eff.andThen_ok, ha]

theorem exec_xtrigQuery : exec (.xtrigQuery gd ga) s =
    conclude s (writeDone s1 gd (s1.halted.foldl (fun (m : Word) cl => m ||| (1#64 <<< cl)) 0)) := by
  show execXtrigQuery gd ga s = _
  simp only [execXtrigQuery, checkSup_ok s _ h0, Eff.andThen_ok, ha]

end

/-- A bit of the halted clusters' mask stands for its cluster. -/
theorem getLsbD_halted (cls : List Nat) {n : Nat} (hn : n < 64) (m : Word) :
    (cls.foldl (fun (m : Word) cl => m ||| (1#64 <<< cl)) m).getLsbD n = true ↔ m.getLsbD n = true ∨ n ∈ cls := by
  induction cls generalizing m with
  | nil => simp
  | cons cl cls ih =>
    have hbit : (1#64 <<< cl).getLsbD n = true ↔ n = cl := by
      simp only [BitVec.getLsbD_shiftLeft, BitVec.getLsbD_one, hn, decide_true, Bool.true_and, Bool.and_eq_true,
        Bool.not_eq_true', decide_eq_false_iff_not, decide_eq_true_eq]
      omega
    rw [List.foldl_cons, ih, BitVec.getLsbD_or, Bool.or_eq_true, hbit, List.mem_cons, or_assoc]

/-! The statement's parts. -/

section
variable {s s1 s2 s3 s5 p t : State} {gd ga gb : Reg} {x y z : Word} (h0 : s.me.region = 0)
include h0

theorem tqpop_of (hr : readG s ga = .ok x s1) (hb : bankStored s1 = false) (hx : x.toNat % 64 = 0) {key : Nat}
    (hk : localKey s1 x 64 .store = .ok key s2) :
    (s2.tq = [] → writeG s2 gd 1 = .ok () t → exec (.tqpop gd ga) s = .next (t.retire 4)) ∧
    (∀ r rest, s2.tq = r :: rest → checkWatch s2 x 64 false true = .ok () s3 →
      bankFree s3 s3.myCore key 64 = true → (recordBytes r).length = 64 ∧
      (inBanks key = false →
        endsWith (.tqpop gd ga) s (acquire (bankWrite { s3 with tq := rest } key (recordBytes r)) 4) gd 0) ∧
      (inBanks key = true → bankDone s3 key 64 false = none → exec (.tqpop gd ga) s =
        .next { askBanks s3 key 64 (some (x, recordBytes r)) true s with tq := rest })) :=
  ⟨exec_tqpop_empty h0 hr hb hx hk, fun r _ hq hw hf => ⟨recordBytes_length r,
    fun hi => endsWith_of_effectDone (exec_tqpop_moves h0 hr hb hx hk hq hw hf hi),
    exec_tqpop_banks h0 hr hb hx hk hq hw hf⟩⟩

theorem tlbinvRange_of (hv : s.me.reply = none) (hd : waitDrained s = .ok () s1) (ha : readG s1 ga = .ok x s2)
    (hb : readG s2 gb = .ok y s3) (hx : x.toNat % 4096 = 0) (hy : y.toNat % 4096 = 0) (h63 : x.getLsbD 63 = false)
    (hdev : devOf s3 x = 0x1FF) (hp : probeG s3 gd = .ok () p) :
    let ls := rangeLines s3 (vaOf x) (vaOf x + y.toNat)
    ((∀ e ∈ s3.lines, ls.contains e.1 = true → e.2.sharers = []) →
      (∀ v ∈ s3.invals, ls.contains v.line = false) → writeG p gd 0 = .ok () t →
      exec (.tlbinvRange gd ga gb) s = .next (t.retire 4)) ∧
    ((∃ e ∈ s3.lines, ls.contains e.1 = true ∧ e.2.sharers ≠ []) ∨ (∃ v ∈ s3.invals, ls.contains v.line = true) →
      exec (.tlbinvRange gd ga gb) s = .next ((sendInvalidates (keepPops p s) s.cur (fun l => ls.contains l)).stall .reply)) := by
  dsimp only
  rw [exec_tlbinvRange_drained h0 hv hd ha hb hx hy h63 hdev]
  refine ⟨fun hs hi hw => ?_, fun h => ?_⟩
  · rw [tlbinv_now (f := fun l => (rangeLines s3 (vaOf x) (vaOf x + y.toNat)).contains l) hp hs hi hw, conclude_ok]
  · rw [tlbinv_waits (f := fun l => (rangeLines s3 (vaOf x) (vaOf x + y.toNat)).contains l) hp h]
    rfl

theorem tlbinvAll_of (hv : s.me.reply = none) (hd : waitDrained s = .ok () s1) :
    ((∀ e ∈ s1.lines, e.2.sharers = []) → s1.invals = [] → probeG s1 gd = .ok () p → writeG p gd 0 = .ok () t →
      exec (.tlbinvAll gd) s = .next (t.retire 4)) ∧
    ((∃ e ∈ s1.lines, e.2.sharers ≠ []) ∨ s1.invals ≠ [] → probeG s1 gd = .ok () p →
      exec (.tlbinvAll gd) s = .next ((sendInvalidates (keepPops p s) s.cur (fun _ => true)).stall .reply)) := by
  rw [exec_tlbinvAll_drained h0 hv hd]
  refine ⟨fun hs hi hp hw => ?_, fun h hp => ?_⟩
  · rw [tlbinv_now hp (fun e he _ => hs e he) (by rw [hi]; nofun) hw, conclude_ok]
  · rw [tlbinv_waits hp (h.imp (fun ⟨e, he, hs⟩ => ⟨e, he, rfl, hs⟩) fun hi => ?_)]
    · rfl
    · obtain ⟨v, hv⟩ := List.exists_mem_of_ne_nil _ hi
      exact ⟨v, hv, rfl⟩

variable (ha : readG s ga = .ok x s1)
include ha

theorem tlbinvReplay_of (hb : readG s1 gb = .ok y s2) (hd : waitDrained s2 = .ok () s3) :
    (s3.faultBuf = [] → writeG s3 gd 1 = .ok () t → exec (.tlbinvReplay gd ga gb) s = .next (t.retire 4)) ∧
    (∀ p q, s3.faultBuf = [p] → p.seq = some q → q.setWidth 64 = x →
      (y.getLsbD 0 = true ∨ p.since.toNat + max s3.policy.replayLimit 100000 ≤ s3.time.toNat →
        endsWith (.tlbinvReplay gd ga gb) s (remoteFault { s3 with faultBuf := [] } p.acc .xlate) gd 0) ∧
      (y.getLsbD 0 = false → s3.time.toNat < p.since.toNat + max s3.policy.replayLimit 100000 →
        ∀ u, remoteTry { s3 with faultBuf := [] } p.acc = some u → endsWith (.tlbinvReplay gd ga gb) s u gd 0)) := by
  refine ⟨exec_tlbinvReplay_empty h0 ha hb hd, fun p q hf hs hq => ?_⟩
  have hexec := exec_tlbinvReplay_parked (gd := gd) h0 ha hb hd hf hs hq
  refine ⟨fun h => endsWith_of_effectDone ?_, fun hy hl u hu => endsWith_of_effectDone ?_⟩
  · have hlate : (y.getLsbD 0 || late s3 p) = true := by
      rw [Bool.or_eq_true]
      exact h.imp id (fun h => decide_eq_true h)
    rw [hexec, if_pos hlate, failParked, hf]
    rfl
  · have hlate : late s3 p = false := decide_eq_false (Nat.not_le_of_lt hl)
    rw [hexec, hy, hlate, Bool.or_self, if_neg Bool.false_ne_true, hu]
    rfl

theorem flash_of (hb : readG s1 gb = .ok y s2) (hd : readG s2 gd = .ok z s3) (hta : traceArea s3 y 2048 131072 = .ok () s5) :
    (∀ f, s5.flash = some f → writeG s5 gd 1 = .ok () t → exec (.flash gd ga gb) s = .next (t.retire 4)) ∧
    (s5.flash = none → x.toNat ≤ s5.time.toNat → writeG s5 gd 2 = .ok () t →
      exec (.flash gd ga gb) s = .next (t.retire 4)) ∧
    (s5.flash = none → s5.time.toNat < x.toNat → s5.clockFaults = [] →
      endsWith (.flash gd ga gb) s { s5 with flash := some ⟨x, y, z, s5.cur, s5.me.region⟩ } gd 0) := by
  have hexec := exec_flash h0 ha hb hd hta
  refine ⟨fun f hf hw => ?_, fun hf hx hw => ?_, fun hf hx hc => endsWith_of_effectDone ?_⟩
  · rw [hexec, hf]
    exact conclude_writeDone s hw
  · rw [hexec, hf, if_neg (by decide), if_pos (show s5.reached x = true from decide_eq_true hx)]
    exact conclude_writeDone s hw
  · have hr : ¬ s5.reached x = true := by simp [State.reached, hx]
    rw [hexec, if_neg (by rw [hf]; decide), if_neg hr, if_neg (by rw [hc]; exact fun h => h rfl)]

theorem tracew_of (hb : readG s1 gb = .ok y s2) :
    let cl := (x.extractLsb' 0 6).toNat
    let m := mirrorOf s2 cl
    (isRecording s2 m = true →
      (writeG s2 gd 1 = .ok () t → exec (.tracewStart gd ga gb) s = .next (t.retire 4)) ∧
      endsWith (.tracewStop gd ga gb) s { s2 with mirrors := mapPut s2.mirrors cl (if y = 0 then
          { m with recording := false } else { m with stopAt := some (s2.cycle + y.toNat) }) } gd 0 ∧
      (s2.me.reply = none → traceArea s2 y 4096 mirrorBytes = .ok () s2 → writeG s2 gd 1 = .ok () t →
        exec (.tracewDump gd ga gb) s = .next (t.retire 4))) ∧
    (isRecording s2 m = false →
      endsWith (.tracewStart gd ga gb) s
        { s2 with mirrors := mapPut s2.mirrors cl ⟨true, s2.cycle + 1, none, []⟩ } gd 0 ∧
      (writeG s2 gd 1 = .ok () t → exec (.tracewStop gd ga gb) s = .next (t.retire 4)) ∧
      (s2.me.reply = none → traceArea s2 y 4096 mirrorBytes = .ok () s2 → probeG s2 gd = .ok () p →
        s.me.status = .ready → ∃ u, exec (.tracewDump gd ga gb) s = .next u ∧ u.me.pc = s.me.pc ∧ u.me.g = s.me.g ∧
          u.dumps = s.dumps ++ [⟨waiterOf s s.cur, s.me.region, y + 64, (m.cycles.map Prod.snd).reverse, 65536⟩] ∧
          u.mem = (ioPut (keepPops p s) s.who y (mirrorHead m)).mem ∧ (∃ z, u.me.status = .asleep z ∧ z.kind = .dump))) ∧
    (∀ v, s2.me.reply = some (.val v) →
      writeG (endRange s2 s2.myCore y (BitVec.ofNat 64 (64 + 9437184))) gd v = .ok () t →
      exec (.tracewDump gd ga gb) s = .next (t.retire 4)) := by
  have hstart := exec_tracewStart (gd := gd) h0 ha hb
  have hstop := exec_tracewStop (gd := gd) h0 ha hb
  refine ⟨fun hm => ⟨fun hw => ?_, endsWith_of_effectDone ?_, fun hr hta hw => ?_⟩,
    fun hm => ⟨endsWith_of_effectDone ?_, fun hw => ?_, fun hr hta hp hst => ?_⟩, fun v hv hw => exec_tracewDump_over h0 ha hb hv hw⟩
  · exact hstart.trans ((congrArg (conclude s) (if_pos hm)).trans (conclude_writeDone s hw))
  · exact hstop.trans (congrArg (conclude s) (if_pos hm))
  · exact exec_tracewDump_recording h0 ha hb hr hta hm hw
  · exact hstart.trans (congrArg (conclude s) (if_neg (ne_true_of_eq_false hm)))
  · exact hstop.trans ((congrArg (conclude s) (if_neg (ne_true_of_eq_false hm))).trans (conclude_writeDone s hw))
  · exact ⟨_, exec_tracewDump_begins h0 ha hb hr hta hm hp, beginDump_of _ y hst⟩

theorem xtrig_of :
    let cl := (x.extractLsb' 0 6).toNat
    (cl ∈ s1.halted →
      (writeG s1 gd 1 = .ok () t → exec (.xtrigHalt gd ga) s = .next (t.retire 4)) ∧
      endsWith (.xtrigResume gd ga) s { s1 with halted := s1.halted.filter (fun c => c != cl) } gd 0) ∧
    (cl ∉ s1.halted →
      (∀ u : State, u = { s1 with
          halted := s1.halted ++ [cl],
          mirrors := if (mirrorOf s1 cl).recording then
            mapPut s1.mirrors cl { mirrorOf s1 cl with recording := false } else s1.mirrors } →
        endsWith (.xtrigHalt gd ga) s u gd 0) ∧
      (writeG s1 gd 1 = .ok () t → exec (.xtrigResume gd ga) s = .next (t.retire 4))) ∧
    (∃ m : Word, (∀ n, n < 64 → (m.getLsbD n = true ↔ n ∈ s1.halted)) ∧
      (writeG s1 gd m = .ok () t → exec (.xtrigQuery gd ga) s = .next (t.retire 4))) := by
  have hhalt := exec_xtrigHalt (gd := gd) h0 ha
  have hresume := exec_xtrigResume (gd := gd) h0 ha
  refine ⟨fun hm => ⟨fun hw => ?_, endsWith_of_effectDone ?_⟩, fun hm => ⟨fun u hu => endsWith_of_effectDone ?_, fun hw => ?_⟩,
    _, fun n hn => (getLsbD_halted s1.halted hn 0).trans (by simp), fun hw => ?_⟩
  · exact hhalt.trans ((congrArg (conclude s) (if_pos (List.contains_iff_mem.mpr hm))).trans (conclude_writeDone s hw))
  · exact hresume.trans (congrArg (conclude s) (if_pos (List.contains_iff_mem.mpr hm)))
  · subst hu
    exact hhalt.trans (congrArg (conclude s) (if_neg (mt List.contains_iff_mem.mp hm)))
  · exact hresume.trans ((congrArg (conclude s) (if_neg (mt List.contains_iff_mem.mp hm))).trans (conclude_writeDone s hw))
  · exact (exec_xtrigQuery (gd := gd) h0 ha).trans (conclude_writeDone s hw)

end

/-- Settles O54: each member by what its checks lead to. -/
theorem systemInstructions : Obligations.SystemInstructions := by
  refine ⟨exec_nop, fun s s1 s2 s3 s5 p t gd ga gb x y z => ⟨exec_enum, fun ha hb kind => ⟨?_, ?_⟩, fun h0 => ⟨?_, ?_, ?_, ?_, ?_, ?_⟩⟩⟩
  · exact exec_watch ha hb kind false
  · exact exec_watch ha hb kind true
  · exact fun hr hb => endsWith_of_effectDone (exec_tqpop_stored h0 hr hb)
  · exact fun hr hb hx key hk => tqpop_of h0 hr hb hx hk
  · exact fun v hv => ⟨exec_tlbinvAll_replied h0 hv, exec_tlbinvRange_replied h0 hv⟩
  · intro hv hd
    have hall := tlbinvAll_of (gd := gd) (p := p) (t := t) h0 hv hd
    exact ⟨hall.1, hall.2, fun ha hb hx hy h63 hdev hp => tlbinvRange_of h0 hv hd ha hb hx hy h63 hdev hp⟩
  · exact fun ha hb => ⟨tlbinvReplay_of h0 ha hb, tracew_of h0 ha hb, flash_of h0 ha hb⟩
  · exact fun ha => xtrig_of h0 ha

end Sys2Proof.Machine
end


section
/-! What the device does for traps, translations, other devices, mirrors and the flash. -/

namespace Sys2Proof.Machine

/-! Records of the trap queue. -/

theorem heldBefore_full {s : State} (h : 4094 ≤ s.tq.length) (r : TrapRec) : heldBefore s r = false := by
  rw [heldBefore, decide_eq_false (show ¬ s.tq.length < trapCapacity - 2 from Nat.not_lt.mpr h), Bool.false_and]

theorem trapRoom_iff {s : State} {r : TrapRec} (hk : r.kind ≠ 3) : trapRoom s r = true ↔ s.tq.length < 4094 := by
  rw [trapRoom, if_neg hk]
  exact decide_eq_true_iff

/-- What an append to the queue does where no parked access waits for its number and TQNOTE is off (R360). -/
theorem enterQueue_quiet {s : State} (hn : s.tqnote = 0) (r : TrapRec) : enterQueue s r = { s with
    tq := s.tq ++ [{ r with seq := s.tqSeq }]
    tqSeq := nextSeq s.tqSeq
    faultBuf := (enterQueue s r).faultBuf } := by
  unfold enterQueue
  dsimp only
  cases findIdx (fun p : ParkedAccess => p.record == r && p.seq.isNone) s.faultBuf <;> simp only [hn, if_true]

theorem nextSeq_eq (n : W32) : nextSeq n = if n = 0xFFFFFFFF then 1 else n + 1 := by
  unfold nextSeq
  congr 1
  rw [eq_iff_iff]
  constructor <;> intro h <;> bv_omega

section
variable {s : State} {r : TrapRec} (hf : s.trapsInFlight = [r])
include hf

theorem exec_trapRecordAppend_waits (h : originWrites s r = true ∨ heldBefore s r = true) :
    exec (.trapRecordAppend 0) s = .next s := by
  show execTrapRecordAppend 0 s = _
  obtain h | h := h <;> simp [execTrapRecordAppend, hf, h]

theorem exec_trapRecordAppend_arrives (ho : originWrites s r = false) (hb : heldBefore s r = false) (h3 : r.kind ≠ 3) :
    exec (.trapRecordAppend 0) s = .next (if trapRoom s r then enterQueue { s with trapsInFlight := [] } r
      else (turnAway { s with trapsInFlight := [] } r).getD s) := by
  have hdrop : dropAt s.trapsInFlight 0 = [] := by rw [hf]; rfl
  show execTrapRecordAppend 0 s = _
  simp only [execTrapRecordAppend, hdrop]
  simp only [hf, List.getElem?_cons_zero, List.take_zero, List.any_nil, ho, hb, Bool.or_self, Bool.false_eq_true, if_false,
    if_neg h3]

variable (ho : originWrites s r = false)
include ho

theorem trapRecordAppend_enters (h3 : r.kind ≠ 3) (hl : s.tq.length < 4094) (hn : s.tqnote = 0)
    (hb : heldBefore s r = false) : ∃ t, exec (.trapRecordAppend 0) s = .next t ∧
      t.trapsInFlight = [] ∧ t.tq = s.tq ++ [{ r with seq := s.tqSeq }] ∧
      t.tqSeq = (if s.tqSeq = 0xFFFFFFFF then 1 else s.tqSeq + 1) ∧ t.mem = s.mem ∧ t.tqLost = s.tqLost := by
  rw [exec_trapRecordAppend_arrives hf ho hb h3, if_pos ((trapRoom_iff h3).mpr hl), enterQueue_quiet (by exact hn)]
  exact ⟨_, rfl, rfl, rfl, nextSeq_eq _, rfl, rfl⟩

theorem trapRecordAppend_turnsAway (h3 : r.kind ≠ 3) (hl : 4094 ≤ s.tq.length) : exec (.trapRecordAppend 0) s =
    .next ((turnAway { s with trapsInFlight := [] } r).getD s) := by
  rw [exec_trapRecordAppend_arrives hf ho (heldBefore_full hl r) h3,
    if_neg (mt (trapRoom_iff h3).mp (Nat.not_lt.mpr hl))]

theorem trapRecordAppend_loses (hk : r.kind = 1) (hl : 4094 ≤ s.tq.length) : exec (.trapRecordAppend 0) s = .next { s with
    trapsInFlight := [], tqLost := if s.tqLost = 0xFFFF then 0xFFFF else s.tqLost + 1, tqOvf := true } := by
  rw [trapRecordAppend_turnsAway hf ho (by rw [hk]; decide) hl]
  have hlost : (if s.tqLost = 0xFFFF then s.tqLost else s.tqLost + 1) = if s.tqLost = 0xFFFF then 0xFFFF else s.tqLost + 1 := by
    split
    · assumption
    · rfl
  unfold turnAway
  rw [hk]
  exact congrArg (fun n => Host.Outcome.next { s with trapsInFlight := [], tqLost := n, tqOvf := true }) hlost

theorem trapRecordAppend_holds (hk : r.kind = 0) (hl : 4094 ≤ s.tq.length) (hp : (s.slot r.slot).status = .parked none) :
    ∃ t, exec (.trapRecordAppend 0) s = .next t ∧ t.trapsInFlight = [] ∧ t.tq = s.tq ∧
      (t.slot r.slot).status = .parked (some r) := by
  have hp' : (({ s with trapsInFlight := [] } : State).slot r.slot).status == .parked none := beq_iff_eq.mpr hp
  have haway : turnAway { s with trapsInFlight := [] } r =
      some (({ s with trapsInFlight := [] } : State).modSlot r.slot (fun sl => { sl with status := .parked (some r) })) := by
    unfold turnAway
    rw [hk]
    exact if_pos hp'
  rw [trapRecordAppend_turnsAway hf ho (by rw [hk]; decide) hl, haway]
  exact ⟨_, rfl, rfl, rfl, by rw [Option.getD_some, State.slot_modSlot_same]⟩

end

/-- The one record held, of a parked slot (R361). -/
theorem exec_heldRecordAppend {s : State} {i : Nat} {sl : Slot} {r : TrapRec} (hs : s.slots = [(i, sl)])
    (hp : sl.status = .parked (some r)) (hd : s.drawers = []) (hb : s.faultBuf = []) (h3 : r.kind ≠ 3) (hn : s.tqnote = 0) :
    (s.tq.length < 4094 → ∃ t, exec (.heldRecordAppend 0) s = .next t ∧ (t.slot i).status = .parked none ∧
      t.tq = s.tq ++ [{ r with seq := s.tqSeq }]) ∧
    (4094 ≤ s.tq.length → exec (.heldRecordAppend 0) s = .next s) := by
  have hheld : heldRecords s = [r] := by simp [heldRecords, hs, hd, hb, hp]
  show (_ → ∃ t, execHeldRecordAppend 0 s = _ ∧ _) ∧ (_ → execHeldRecordAppend 0 s = _)
  simp only [execHeldRecordAppend, hheld, List.getElem?_cons_zero]
  refine ⟨fun hl => ?_, fun hl => ?_⟩
  · rw [if_pos (by simp [(trapRoom_iff h3).mpr hl])]
    rw [enterQueue_quiet (by exact hn)]
    refine ⟨_, rfl, ?_, rfl⟩
    simp [State.slot, hs, hp, mapGet]
  · rw [if_neg (by simp [mt (trapRoom_iff h3).mp (Nat.not_lt.mpr hl)])]

/-! A sharer's invalidate. -/

/-- No page is used on behalf of a sharer while nothing of it is on its way. -/
theorem usesPages_idle {s : State} (hl : s.loads = []) (ha : s.atoms = []) (hc : s.copies = [])
    (hb : ∀ c ∈ s.cores, c.2.sbuf = []) (hp : ∀ e ∈ s.slots, e.2.push = none) (b : Nat) (ps : List WalkEntry) :
    usesPages s b ps = false := by
  have hslots : s.slots.any (fun e => physOf s (coreOf e.1) == b && e.2.push.isSome && match e.2.room with
      | some (a, _) => inPages s ps a
      | none => false) = false := by
    rw [List.any_eq_false]
    intro e he
    simp [hp e he]
  have hcores : s.cores.any (fun c => physOf s c.1 == b && c.2.sbuf.any (fun e => inPages s ps e.addr)) = false := by
    rw [List.any_eq_false]
    intro c hc
    simp [hb c hc]
  unfold usesPages
  rw [hl, ha, hc, hcores, Bool.or_false]
  exact (congrArg (fun x => (false || x || false || false)) hslots :)

theorem invalidate_rest (s : State) (b l : Nat) : { invalidate s b l with
    cores := s.cores, westWalks := s.westWalks, eastWalks := s.eastWalks } = s := by
  unfold invalidate
  dsimp only
  split
  · rfl
  · split <;> rfl

theorem invalidate_sbuf {s : State} (h : ∀ c ∈ s.cores, c.2.sbuf = []) (b l : Nat) :
    ∀ c ∈ (invalidate s b l).cores, c.2.sbuf = [] := by
  unfold invalidate
  dsimp only
  split
  · exact h
  · split
    · exact h
    · intro c hc
      obtain ⟨e, he, rfl⟩ := List.mem_map.mp hc
      have := h e he
      split <;> exact this

/-- A sharer keeps nothing of a table line that it has dropped. -/
theorem pagesOf_invalidate {s t : State} (b l : Nat) (hi : t.invals = []) (hw : t.westWalks = (invalidate s b l).westWalks)
    (he : t.eastWalks = (invalidate s b l).eastWalks) (hc : t.cores = (invalidate s b l).cores)
    (hp : ∀ c, physOf t c = physOf s c) : pagesOf t b l = [] := by
  have hdrop : ∀ c : List WalkEntry, (c.filter (fun e => !e.lines.contains l)).filter (fun e => e.lines.contains l) = [] := by
    intro c
    rw [List.filter_filter, List.filter_eq_nil_iff]
    intro e _
    simp
  unfold pagesOf
  rw [hi, hw, he, hc]
  unfold invalidate
  rw [List.filter_nil]
  dsimp only
  rw [List.flatMap_nil, List.nil_append]
  by_cases h1 : b = 1152
  · rw [if_pos h1, if_pos h1]
    exact hdrop _
  rw [if_neg h1, if_neg h1]
  by_cases h2 : b = 1153
  · rw [if_pos h2, if_pos h2]
    exact hdrop _
  rw [if_neg h2, if_neg h2, List.flatMap_eq_nil_iff]
  intro e hem
  obtain ⟨hem, hb⟩ := List.mem_filter.mp hem
  obtain ⟨k, -, rfl⟩ := List.mem_map.mp hem
  rw [hp, beq_iff_eq] at hb
  by_cases hk : physOf s k.1 = b
  · rw [if_pos hk]
    exact hdrop _
  · rw [if_neg hk] at hb
    exact absurd hb hk

theorem nthLive_congr {s t : State} (h : t.nonlive = s.nonlive) (cl k p n : Nat) : nthLive t cl k p n = nthLive s cl k p n := by
  induction n generalizing k p with
  | zero => rfl
  | succ n ih => simp only [nthLive, h, ih]

theorem physOf_congr {s t : State} (hn : t.nonlive = s.nonlive) (hg : t.grade = s.grade) (ht : t.takeover = s.takeover) (l : Nat) :
    physOf t l = physOf s l := by
  simp only [physOf, origOf, clusterOf, State.liveCores, nthLive_congr hn, hg, ht]

/-- The last acknowledgement answers the slot that waits for it (R369). -/
theorem acknowledged_last {s : State} {slot : Nat} {l : Nat} {x : Waiter} (hi : s.invals = []) (hx : waiterOf s slot = x)
    (hst : (s.slot slot).status = .waiting .reply) : acknowledged s l (some x) = answer s slot (.val 0) := by
  subst hx
  unfold acknowledged
  rw [hi]
  exact answerTask_slot (w := waiterOf s slot) _ rfl rfl hst

section
variable {s : State} {b l slot : Nat} (hi : s.invals = [⟨b, l, waiterOf s slot, none⟩])
  (hst : (s.slot slot).status = .waiting .reply) (hl : s.loads = []) (ha : s.atoms = []) (hc : s.copies = [])
  (hb : ∀ c ∈ s.cores, c.2.sbuf = []) (hp : ∀ e ∈ s.slots, e.2.push = none)
include hi hst hl ha hc hb hp

/-- The one invalidate that the slot waits for: the sharer drops its pages, and the slot has its answer. -/
theorem exec_sharerInvalidate_last :
    ∃ w, w = { invalidate s b l with invals := [] } ∧ exec (.sharerInvalidate b l) s = .next (answer w slot (.val 0)) := by
  have hrest := invalidate_rest s b l
  have hsbuf := invalidate_sbuf hb b l
  show ∃ w, _ ∧ execSharerInvalidate b l s = _
  unfold execSharerInvalidate
  simp only [hi, List.filter_cons, BEq.rfl, Bool.and_self, if_true, List.filter_nil, List.isEmpty_cons, Bool.false_eq_true, if_false]
  generalize invalidate s b l = u at hrest hsbuf ⊢
  have hidle : ∀ ps, usesPages u b ps = false := usesPages_idle (s := u) ((congrArg State.loads hrest :).trans hl)
    ((congrArg State.atoms hrest :).trans ha) ((congrArg State.copies hrest :).trans hc) hsbuf
    (by rw [(congrArg State.slots hrest :)]; exact hp) b
  have hslots : u.slots = s.slots := (congrArg State.slots hrest :)
  have hinv : u.invals = s.invals := (congrArg State.invals hrest :)
  simp only [hidle, Bool.false_eq_true, if_false, hinv, hi, List.filter_cons, BEq.rfl, Bool.and_self, Bool.not_true, List.filter_nil,
    List.map_cons, List.map_nil, List.eraseDups_cons, List.eraseDups_nil, List.foldl_cons, List.foldl_nil]
  obtain ⟨w, hw⟩ : ∃ w, w = { u with invals := [] } := ⟨_, rfl⟩
  have hwi : w.invals = [] := by rw [hw]
  have hslot : w.slot slot = s.slot slot := slot_congr (by rw [hw]; exact hslots) slot
  rw [← hw]
  exact ⟨w, rfl, congrArg Host.Outcome.next (acknowledged_last hwi (by rw [waiterOf, hslot]; rfl) (by rw [hslot]; exact hst))⟩

theorem exec_sharerInvalidate : ∃ t, exec (.sharerInvalidate b l) s = .next t ∧
    t.invals = [] ∧ (t.slot slot).status = .ready ∧ (t.slot slot).reply = some (.val 0) ∧ t.mem = s.mem ∧
    pagesOf t b l = [] := by
  have hrest := invalidate_rest s b l
  have hpages := fun t => pagesOf_invalidate (s := s) (t := t) b l
  obtain ⟨w, hw, hexec⟩ := exec_sharerInvalidate_last hi hst hl ha hc hb hp
  generalize invalidate s b l = u at hrest hpages hw
  have hwi : w.invals = [] := by rw [hw]
  have hwm : w.mem = s.mem := by rw [hw]; exact (congrArg State.mem hrest :)
  obtain ⟨hwest, heast, hcores⟩ : w.westWalks = u.westWalks ∧ w.eastWalks = u.eastWalks ∧ w.cores = u.cores := by
    rw [hw]; exact ⟨rfl, rfl, rfl⟩
  have hn : w.nonlive = s.nonlive := by rw [hw]; exact (congrArg State.nonlive hrest :)
  have hg : w.grade = s.grade := by rw [hw]; exact (congrArg State.grade hrest :)
  have ht : w.takeover = s.takeover := by rw [hw]; exact (congrArg State.takeover hrest :)
  exact ⟨_, hexec, hwi, by rw [answer_slot_same], by rw [answer_slot_same], hwm,
    hpages (answer w slot (.val 0)) hwi hwest heast hcores (physOf_congr hn hg ht)⟩

end

/-! Errors. -/

theorem retirePage_rest (s : State) (p : Nat) : { retirePage s p with badPages := s.badPages, enumGen := s.enumGen } = s := by
  unfold retirePage
  split <;> rfl

theorem exec_linePoison (s : State) (l : Nat) : ∃ t r, exec (.linePoison l) s = .next t ∧ (t.line l).poison = true ∧ t.mem = s.mem ∧
    t.trapsInFlight = s.trapsInFlight ++ [r] ∧ r.kind = 1 ∧ r.cause = causeCode .poison ∧ r.origin = 6 ∧
    r.tval = BitVec.ofNat 64 (l * 128) := by
  have hrest := retirePage_rest (s.modLine l (fun i => { i with poison := true })) (l / 32)
  show ∃ t r, execLinePoison l s = .next t ∧ _
  unfold execLinePoison
  dsimp only
  generalize retirePage (s.modLine l (fun i => { i with poison := true })) (l / 32) = u at hrest ⊢
  refine ⟨_, { trapRec u 1 (causeCode .poison) 6 0 0 0 (BitVec.ofNat 64 (l * 128)) 0 with home := (u.line l).slice }, rfl, ?_,
    ?_, ?_, rfl, rfl, rfl, rfl⟩
  · have hlines : u.line l = (s.modLine l (fun i => { i with poison := true })).line l :=
      line_congr (congrArg State.lines hrest :) l
    show (u.line l).poison = true
    rw [hlines, modLine_line, if_pos rfl]
  · exact (congrArg State.mem hrest :)
  · exact congrArg (· ++ _) (congrArg State.trapsInFlight hrest :)

theorem exec_uncorrectableError (s : State) (l : Nat) : (∃ t, exec (.uncorrectableError (.sharerBitmap l)) s = .next t ∧
      (t.line l).sharers = List.range 1154 ∧ (t.line l).poison = (s.line l).poison ∧ t.mem = s.mem) ∧
    ∃ t r, exec (.uncorrectableError .directory) s = .next t ∧ t = { s with trapsInFlight := s.trapsInFlight ++ [r] } ∧
      r.kind = 3 ∧ r.cause = causeCode .fatalhw := by
  refine ⟨⟨_, rfl, ?_, ?_, rfl⟩, _, _, rfl, rfl, rfl, rfl⟩
  · rw [modLine_line, if_pos rfl]
  · rw [modLine_line, if_pos rfl]

/-! Accesses of other devices. -/

theorem walk_rest (s : State) (r : Reader) (va : Nat) : { (walk s r va).2 with
    lines := s.lines, cores := s.cores, westWalks := s.westWalks, eastWalks := s.eastWalks } = s := by
  have hmark := fun ls => congrArg (fun u : State => { u with cores := s.cores, westWalks := s.westWalks, eastWalks := s.eastWalks })
    (markSharers_rest s (readerBit s r) ls)
  unfold walk
  split
  · rfl
  · dsimp only
    split
    · split
      · exact hmark _
      · exact hmark _
      · cases r <;> exact hmark _
    · rfl

theorem exec_remoteAccessArrival {s : State} {a : RemoteAccess} (hk : a.kind ≠ .withdraw) (hs : s.outOfService = false) :
    exec (.remoteAccessArrival a) s = .next ((remoteTry s a).getD (parkAccess (walk s .east (vaOf a.va)).2 a)) := by
  show execRemoteAccessArrival a s = _
  unfold execRemoteAccessArrival
  split
  · rename_i h; exact absurd h hk
  · rw [hs, if_neg Bool.false_ne_true]

/-- A fault's way back to a device whose slot waits for the access (R370). -/
theorem remoteFault_reply {s : State} {a : RemoteAccess} (h : ∀ o w c, a.kind ≠ .update o w c) (c : Cause) :
    remoteFault s a c = { s with outbox := s.outbox ++ [.reply a.dev a.slot (.fault c)] } := by
  unfold remoteFault
  split
  · rename_i hk; exact absurd hk (h _ _ _)
  · rfl

/-- An access that gets no translation while the buffer has room is parked with a record (R370). -/
theorem parkAccess_room {s : State} {a : RemoteAccess} (h : s.faultBuf.length < 64) : ∃ t r, parkAccess s a = t ∧
    t.faultBuf = s.faultBuf ++ [⟨a, r, none, s.time⟩] ∧ t.trapsInFlight = s.trapsInFlight ++ [r] ∧ r.kind = 2 ∧
      r.cause = causeCode .xlate ∧ r.origin = 8 ∧ r.dev = a.dev ∧ t.outbox = s.outbox ∧ t.mem = s.mem := by
  rw [parkAccess, if_neg (Nat.not_le_of_lt h)]
  exact ⟨_, _, rfl, rfl, rfl, rfl, rfl, rfl, rfl, rfl, rfl⟩

theorem remoteAccessArrival_of {s : State} {a : RemoteAccess} (hk : a.kind ≠ .withdraw) (hs : s.outOfService = false) :
    let s' := (walk s .east (vaOf a.va)).2
    (∀ t, remoteTry s a = some t → exec (.remoteAccessArrival a) s = .next t) ∧
    (remoteTry s a = none → 64 ≤ s.faultBuf.length → (∀ o w c, a.kind ≠ .update o w c) → exec (.remoteAccessArrival a) s =
        .next { s' with outbox := s'.outbox ++ [.reply a.dev a.slot (.fault .xlate)] }) ∧
    (remoteTry s a = none → s.faultBuf.length < 64 → ∃ t r, exec (.remoteAccessArrival a) s = .next t ∧
      t.faultBuf = s.faultBuf ++ [⟨a, r, none, s.time⟩] ∧ t.trapsInFlight = s.trapsInFlight ++ [r] ∧ r.kind = 2 ∧
      r.cause = causeCode .xlate ∧ r.origin = 8 ∧ r.dev = a.dev ∧ t.outbox = s.outbox ∧ t.mem = s.mem) := by
  have hw := walk_rest s .east (vaOf a.va)
  dsimp only
  rw [exec_remoteAccessArrival hk hs]
  generalize (walk s .east (vaOf a.va)).2 = u at hw ⊢
  have hbuf : u.faultBuf = s.faultBuf := (congrArg State.faultBuf hw :)
  refine ⟨fun t ht => by rw [ht]; rfl, fun ht hb hu => ?_, fun ht hb => ?_⟩
  · rw [ht, Option.getD_none, parkAccess, if_pos (by rwa [hbuf]), remoteFault_reply hu]
  · rw [ht, Option.getD_none]
    obtain ⟨t, r, h, hf, htr, h2, hc, ho, hd, hout, hm⟩ := parkAccess_room (s := u) (a := a) (by rwa [hbuf])
    rw [hbuf, (congrArg State.time hw :)] at hf
    rw [(congrArg State.trapsInFlight hw :)] at htr
    exact ⟨t, r, by rw [h], hf, htr, h2, hc, ho, hd, hout.trans (congrArg State.outbox hw :), hm.trans (congrArg State.mem hw :)⟩

theorem remoteAccessArrival_withdraws {s : State} {a : RemoteAccess} (hk : a.kind = .withdraw) :
    ∃ t, exec (.remoteAccessArrival a) s = .next t ∧
      t.faultBuf = s.faultBuf.filter (fun p => !(p.acc.dev == a.dev && p.acc.slot == a.slot)) ∧ t.mem = s.mem ∧
      mapGet t.slots (guestSlot a) = none := by
  obtain ⟨-, hrest, -⟩ := giveUpReservation_spec s (guestSlot a)
  have hexec : exec (.remoteAccessArrival a) s = .next (withdrawGuest s a) := by
    show execRemoteAccessArrival a s = _
    unfold execRemoteAccessArrival
    rw [hk]
  rw [hexec]
  unfold withdrawGuest
  dsimp only
  generalize s.giveUpReservation (guestSlot a) = u at hrest ⊢
  exact ⟨_, rfl, by rw [(congrArg State.faultBuf hrest :)], (congrArg State.mem hrest :), by rw [mapGet_mapDel, if_pos rfl]⟩

/-! A load of another device. -/

/-- The answer to another device's load is the one to a load of this device (R121). -/
theorem guestLoad_plain {s : State} {a : RemoteAccess} {n p h : Nat} {v : Option (BitVec 48)}
    (hsl : (s.line (p / 128)).slice = some h) (hpool : inShadowPool s (lineAddr s (normAddr s a.va)) 128 = false)
    (hstage : inStaging s (lineAddr s (normAddr s a.va)) 128 = false) : guestLoad s a p h n false v = { s with
      outbox := s.outbox ++ [.line a.dev a.slot ⟨if v = some (s.line (p / 128)).version then none
        else some (readBytes s.mem (p / 128 * 128) 128), (s.line (p / 128)).poison, (s.line (p / 128)).version,
        readBytes s.mem (p / 128 * 128) 128, none⟩] } := by
  have hline : p / 128 * 128 / 128 = p / 128 := Nat.mul_div_cancel _ (by decide)
  unfold guestLoad
  rw [if_neg Bool.false_ne_true]
  have hans : ∀ r : LoadReq, r.strong = none → r.line = lineAddr s (normAddr s a.va) → r.version = v →
      homeAnswer s r (p / 128 * 128) h = (⟨if v = some (s.line (p / 128)).version then none
        else some (readBytes s.mem (p / 128 * 128) 128), (s.line (p / 128)).poison, (s.line (p / 128)).version,
        readBytes s.mem (p / 128 * 128) 128, none⟩, s) := fun r hst hl hv => by
    rw [homeAnswer_plain hst (by rw [hline]; exact hsl) (by rw [hl]; exact hpool) (by rw [hl]; exact hstage), hline, hv]
  dsimp only
  rw [hans _ rfl rfl rfl]

section
variable {s s1 : State} {a : RemoteAccess} {n p h : Nat} {strong : Bool} {v : Option (BitVec 48)} {leaf : Word} {bits : Nat}
  (hk : a.kind = .load n strong v) (hs : s.outOfService = false)
  (hl : leafFor s .east (vaOf a.va) = .ok ((leaf, bits), s1)) (hp : p = frameOf leaf bits (vaOf a.va))
  (hh : homeOf s1 (leaf.extractLsb' 44 12) p = some h)
include hk hs hl hp hh

theorem exec_remoteLoad : exec (.remoteAccessArrival a) s = .next (
    if inJournal s1 p n then remoteFault s1 a .outside
    else if leafPermits leaf .load && !(a.debug && inShadowPool s1 (normAddr s1 a.va) n) then remoteAtHome s1 a p h
    else remoteFault s1 a .prot) := by
  subst hp
  rw [exec_remoteAccessArrival (by rw [hk]; nofun) hs]
  simp only [remoteTry, hl, hh, hk, remoteNeed, remoteBytes, softRefuses, Bool.or_false, Option.getD_some]

theorem remoteLoad_of :
    (inJournal s1 p n = true → exec (.remoteAccessArrival a) s =
      .next { s1 with outbox := s1.outbox ++ [.reply a.dev a.slot (.fault .outside)] }) ∧
    (inJournal s1 p n = false → leafPermits leaf .load = false ∨ (a.debug = true ∧ inShadowPool s1 (normAddr s1 a.va) n = true) →
      exec (.remoteAccessArrival a) s =
        .next { s1 with outbox := s1.outbox ++ [.reply a.dev a.slot (.fault .prot)] }) ∧
    (inJournal s1 p n = false → leafPermits leaf .load = true → strong = false → a.look = false → (s1.line (p / 128)).slice = some h →
      (a.debug = false ∨ inShadowPool s1 (normAddr s1 a.va) n = false) →
      inShadowPool s1 (lineAddr s1 (normAddr s1 a.va)) 128 = false →
      inStaging s1 (lineAddr s1 (normAddr s1 a.va)) 128 = false →
      let bs := readBytes s1.mem (p / 128 * 128) 128
      exec (.remoteAccessArrival a) s = .next { s1 with
        outbox := s1.outbox ++ [.line a.dev a.slot ⟨if v = some (s1.line (p / 128)).version then none else some bs,
          (s1.line (p / 128)).poison, (s1.line (p / 128)).version, bs, none⟩] }) := by
  have hreply := fun c => remoteFault_reply (s := s1) (a := a) (by rw [hk]; nofun) c
  rw [exec_remoteLoad hk hs hl hp hh]
  refine ⟨fun hj => ?_, fun hj hd => ?_, fun hj hl hst hlook hsl hdb hpool hstage => ?_⟩
  · rw [if_pos hj, hreply]
  · rw [if_neg (ne_true_of_eq_false hj), if_neg, hreply]
    obtain hd | ⟨hd, hpool⟩ := hd
    · simp [hd]
    · simp [hd, hpool]
  · have hpass : (leafPermits leaf .load && !(a.debug && inShadowPool s1 (normAddr s1 a.va) n)) = true := by
      obtain hd | hd := hdb <;> simp [hl, hd]
    rw [if_neg (ne_true_of_eq_false hj), if_pos hpass]
    unfold remoteAtHome
    simp only [hlook, hk, Bool.false_eq_true, if_false, hst]
    rw [guestLoad_plain hsl hpool hstage]

end

theorem exec_xlateReplayTimeout {s : State} {p : ParkedAccess} (hf : s.faultBuf = [p]) :
    (p.since.toNat + max s.policy.replayLimit 100000 ≤ s.time.toNat → exec (.xlateReplayTimeout 0) s =
      .next (remoteFault { s with faultBuf := [] } p.acc .xlate)) ∧
    (s.time.toNat < p.since.toNat + max s.policy.replayLimit 100000 → exec (.xlateReplayTimeout 0) s = .next s) := by
  have hexec : exec (.xlateReplayTimeout 0) s = .next (if late s p then failParked s 0 p else s) := by
    show execXlateReplayTimeout 0 s = _
    simp only [execXlateReplayTimeout, hf, List.getElem?_cons_zero]
  rw [hexec]
  refine ⟨fun h => ?_, fun h => ?_⟩
  · rw [if_pos (show late s p = true from decide_eq_true h), failParked, hf]
    rfl
  · rw [if_neg (show ¬ late s p = true from fun hl => Nat.not_le_of_lt h (of_decide_eq_true hl))]

/-! Mirrors and the flash. -/

theorem dumpRow_row {s : State} {d : Dump} {ds : List Dump} {r : List Word} {rest : List (List Word)} {n : Nat}
    (hd : s.dumps = d :: ds) (hn : d.left = n + 1) (hr : d.rows = r :: rest) :
    let u := ioPut s ⟨coreOf d.who.slot, d.who.slot, d.region⟩ d.at_ (r.flatMap (bytesOf 8))
    dumpRow s = { u with dumps := { d with at_ := d.at_ + 144, rows := rest, left := n } :: ds } := by
  simp only [dumpRow, hd, hn, hr, dumpBytes, List.drop_succ_cons, List.drop_zero]

theorem dumpRow_last {s : State} {d : Dump} {z : Sleep} (hd : s.dumps = [d]) (hn : d.left = 0)
    (hst : (s.slot d.who.slot).status = .asleep z) (hz : z.kind = .dump) (hw : waiterOf s d.who.slot = d.who) :
    (dumpRow s).dumps = [] ∧ ((dumpRow s).slot d.who.slot).status = .ready ∧
      ((dumpRow s).slot d.who.slot).reply = some (.val 0) := by
  have hend : dumpRow s = answer { s with dumps := [] } d.who.slot (.val 0) := by
    have hst' : (({ s with dumps := [] } : State).slot d.who.slot).status = .asleep z := hst
    have hw' : waiterOf { s with dumps := [] } d.who.slot = d.who := hw
    simp only [dumpRow, hd, hn, endDump, hst', hz, hw', and_self, if_true]
  rw [hend, answer_slot_same]
  exact ⟨rfl, rfl, rfl⟩

theorem exec_traceStop {s : State} {cl c : Nat} (hr : (mirrorOf s cl).recording = true) (hs : (mirrorOf s cl).stopAt = some c)
    (hc : c ≤ s.cycle) : ∃ t, exec (.traceStop cl) s = .next t ∧ (mirrorOf t cl).recording = false ∧
      (mirrorOf t cl).cycles = (mirrorOf s cl).cycles ∧ t.mem = s.mem := by
  have hover : isRecording s (mirrorOf s cl) = false := by simp [isRecording, hs, Nat.not_lt.mpr hc]
  have hexec : exec (.traceStop cl) s =
      .next { s with mirrors := mapPut s.mirrors cl { mirrorOf s cl with recording := false, stopAt := none } } := by
    show execTraceStop cl s = _
    simp only [execTraceStop, hr, hover, Bool.not_false, Bool.and_self, if_true]
  have hmirror : mirrorOf { s with mirrors := mapPut s.mirrors cl { mirrorOf s cl with recording := false, stopAt := none } } cl =
      { mirrorOf s cl with recording := false, stopAt := none } := by
    show (mapGet (mapPut s.mirrors cl _) cl).getD _ = _
    rw [mapGet_mapPut_same, Option.getD_some]
  exact ⟨_, hexec, by rw [hmirror], by rw [hmirror], rfl⟩

/-- The writes of a flash arm none. -/
theorem writeFlash_flash (f : Flash) (rs : List (Nat × List Byte)) (s : State) : (writeFlash s f rs).flash = s.flash := by
  induction rs generalizing s with
  | nil =>
    unfold writeFlash
    split
    · rfl
    · split
      · exact (congrArg State.flash (notifyFrom_work ..).rest :)
      · rfl
  | cons r rs ih =>
    obtain ⟨n, bs⟩ := r
    unfold writeFlash
    split
    · rename_i u hu
      exact (ih u).trans (congrArg State.flash (ioWrite_work hu).rest :)
    · rfl

theorem exec_flashPulse {s : State} {f : Flash} (hf : s.flash = some f) :
    (f.time.toNat ≤ s.time.toNat → ∃ t, exec .flashPulse s = .next t ∧ t.flash = none) ∧
    (s.time.toNat < f.time.toNat → exec .flashPulse s = .next s) := by
  show (_ → ∃ t, execFlashPulse s = _ ∧ _) ∧ (_ → execFlashPulse s = _)
  simp only [execFlashPulse, hf]
  refine ⟨fun h => ⟨_, rfl, ?_⟩, fun h => ?_⟩
  · rw [if_pos (show s.reached f.time = true from decide_eq_true h), writeFlash_flash]
  · rw [if_neg (show ¬ s.reached f.time = true from fun hr => Nat.not_le_of_lt h (of_decide_eq_true hr))]

/-- Settles O55: each unit's event by the state it meets. -/
theorem systemEvents : Obligations.SystemEvents := by
  refine ⟨fun s r => exec_trapRecordAppend_waits, fun s r hf ho => ⟨?_, ?_, ?_⟩, ?_, ?_, exec_linePoison, exec_uncorrectableError,
    fun s a => remoteAccessArrival_of, fun s a => remoteAccessArrival_withdraws, ?_, fun s p => exec_xlateReplayTimeout,
    fun s d ds r rest n => dumpRow_row, fun s d z => dumpRow_last, fun s cl c => exec_traceStop, fun s f => exec_flashPulse⟩
  · exact trapRecordAppend_enters hf ho
  · exact trapRecordAppend_loses hf ho
  · exact trapRecordAppend_holds hf ho
  · exact fun s i sl r => exec_heldRecordAppend
  · exact fun s b l slot => exec_sharerInvalidate
  · exact fun s a n p h strong v leaf bits s1 => remoteLoad_of

end Sys2Proof.Machine
end


section
/-! What ends without starting anything: tasks, evaluations, snapshots and regions on their way to their ends. -/

namespace Sys2Proof.Machine

/-- What keeps a part of the state that it is told to keep, starts no task where there is none, and keeps memory in its form. -/
structure Calm {α : Type} (part : State → α) (s t : State) : Prop where
  same : part t = part s
  form : Memory.wf s.mem = true → Memory.wf t.mem = true
  idle : ∀ i, (s.slot i).status = .noTask → (t.slot i).status = .noTask

namespace Calm

variable {α : Type} {part : State → α}

theorem refl (s : State) : Calm part s s := ⟨rfl, id, fun _ => id⟩

theorem trans {s t u : State} (h : Calm part s t) (h' : Calm part t u) : Calm part s u :=
  ⟨h'.same.trans h.same, fun hw => h'.form (h.form hw), fun i hi => h'.idle i (h.idle i hi)⟩

/-- A change beside that part, beside memory and beside the slots. -/
theorem light {s t : State} (h : part t = part s) (hm : t.mem = s.mem) (hs : t.slots = s.slots) : Calm part s t :=
  ⟨h, fun hw => by rwa [hm], fun i hi => by rwa [slot_congr hs]⟩

theorem foldl {β : Type} {f : State → β → State} (h : ∀ s b, Calm part s (f s b)) (xs : List β) (s : State) :
    Calm part s (xs.foldl f s) := by
  induction xs generalizing s with
  | nil => exact refl s
  | cons x xs ih => exact (h s x).trans (ih _)

theorem ite {s t u : State} {c : Prop} [Decidable c] (ht : Calm part s t) (hu : Calm part s u) :
    Calm part s (if c then t else u) := by
  split
  · exact ht
  · exact hu

/-- A slot changed that had a task, or that has none after. -/
theorem setSlot {s : State} {i : Nat} {sl : Slot} (hp : part (s.setSlot i sl) = part s)
    (h : (s.slot i).status = .noTask → sl.status = .noTask) : Calm part s (s.setSlot i sl) := by
  refine ⟨hp, id, fun j hj => ?_⟩
  by_cases hji : j = i
  · subst hji
    rw [State.slot_setSlot_same]
    exact h hj
  · rw [State.slot_setSlot_ne _ _ _ _ hji]
    exact hj

end Calm

/-- What the manufacture, the failures and the takeovers of cores have left, with the number of the table's changes. -/
def tablePart (s : State) : SMap Nat × SMap Nat × List Nat × BitVec 8 × BitVec 1152 × List Nat × Nat :=
  (s.takeover, s.failed, s.retired, s.enumGen, s.nonlive, s.defect, s.grade)

/-- That part with the ends of regions under way and the journal's head. -/
def lifePart (s : State) := (tablePart s, s.endings, s.jhead)

theorem Calm.table {s t : State} (h : Calm lifePart s t) : Calm tablePart s t := ⟨congrArg Prod.fst h.same, h.form, h.idle⟩


theorem IoWork.calm {s t : State} (h : IoWork s t) : Calm lifePart s t :=
  ⟨(congrArg lifePart h.rest :), h.form, fun i hi => by
    obtain ⟨r, hr⟩ := h.slot i
    rw [hr]
    exact hi⟩

theorem HomeWork.calm {s t : State} (h : HomeWork s t) : Calm lifePart s t := h.io.calm

theorem Withdrawal.calm {s t : State} (h : Withdrawal s t) : Calm lifePart s t :=
  ⟨(congrArg lifePart h.rest :), h.form, fun i hi => by
    obtain ⟨_, _, _, _, hr⟩ := h.slot i
    rw [hr]
    exact hi⟩

theorem RecordWork.calm {s t : State} (h : RecordWork s t) : Calm lifePart s t := h.withdrawal.calm

theorem sendHeld_calm (s : State) (sl : Slot) : Calm lifePart s (sendHeld s sl) := by
  unfold sendHeld
  split
  · exact .light rfl rfl rfl
  · exact .refl s

theorem refund_calm (s : State) (r : Nat) (xs : List (BudgetName × Nat)) : Calm lifePart s (refund s r xs) := (refund_work ..).calm

theorem uncounted_calm (u : State) (sl : Slot) (i : Nat) : Calm lifePart u (uncounted u sl i) := by
  unfold uncounted
  exact .trans (t := u.modCore (coreOf i) _) (.light rfl rfl rfl) (.setSlot rfl fun _ => rfl)

theorem endTask_calm (s : State) (i : Nat) : Calm lifePart s (endTask s i) := by
  by_cases h : (s.slot i).status = .noTask
  · have heq : endTask s i = s := by simp only [endTask, h]
    rw [heq]
    exact .refl s
  · rw [endTask_of_task h]
    refine .trans (.trans (.trans (sendHeld_calm s (s.slot i)) (withdrawSlot_withdrawal _ i).calm) (uncounted_calm ..)) (refund_calm ..)

/-- A task that has been told to end has ended. -/
theorem endTask_noTask (s : State) (i : Nat) : ((endTask s i).slot i).status = .noTask := by
  by_cases h : (s.slot i).status = .noTask
  · exact (endTask_calm s i).idle i h
  · rw [endTask_slot h]
    rfl

/-- Tasks end in their slots, and what is held of those in drawers is sent. -/
theorem endSlots_calm (s : State) (mine : List Nat) (out ds : SMap (Slot × List InboxEntry)) :
    Calm lifePart s { out.foldl (fun s e => sendHeld s e.2.1) (mine.foldl endTask s) with drawers := ds } :=
  .trans (t := out.foldl (fun s e => sendHeld s e.2.1) (mine.foldl endTask s))
    (.trans (.foldl endTask_calm mine s) (.foldl (fun s e => sendHeld_calm s e.2.1) out _)) (.light rfl rfl rfl)

theorem endTasks_calm (s : State) (r : Nat) (keep : Option Waiter) (part : Option Nat) : Calm lifePart s (endTasks s r keep part) := by
  unfold endTasks
  exact (endSlots_calm ..).trans (refund_calm ..)

/-! Evaluations. -/

theorem endEval_work (s : State) (e : Nat) : RecordWork s (endEval s e) := .light rfl rfl rfl rfl

theorem sendWake_work (s : State) (w h : Word) (e : WakeEvent) : RecordWork s (sendWake s w h e) := .light rfl rfl rfl rfl

theorem recMiss_record (s : State) (c : Nat) (a : Word) : RecordWork s (recMiss s c a) := (recMiss_work s c a).records

/-- Wakes on their way for the waiters that a record no longer lists. -/
theorem wakeList_work (s : State) (r : RecAt) (ws : List Wake) :
    RecordWork s { recWrite s r 8 0 with wakes := ws } :=
  .trans (t := recWrite s r 8 0) (recWrite_work ..).records (.light rfl rfl rfl rfl)

theorem freeWaiters_work (s : State) (r : RecAt) (ws : List Wake) (rg : Nat) (hd : Header) :
    RecordWork s (freeRecord { recWrite s r 8 0 with wakes := ws } rg r hd) :=
  (wakeList_work ..).trans (freeRecord_work ..)

theorem unwindRecord_work (s : State) (c rg : Nat) (fault : Option (Cause × Word)) (starter : Option Nat) (f : EvalFrame) :
    RecordWork s (unwindRecord s c rg fault starter f) := by
  unfold unwindRecord
  dsimp only
  cases f.frame
  case' none => refine .ite (.refl s) ?_
  case' some a => refine .ite (returnFrame_work ..) ((returnFrame_work s rg a).trans ?_)
  all_goals
    dsimp only
    split
    · exact recMiss_record ..
    · rename_i r v ha
      have hh := recHeader_work v r
      generalize recHeader v r = x at hh ⊢
      have hws := waitersOf_work x.2 r
      generalize waitersOf x.2 r = y at hws ⊢
      refine (recAt_work ha).records.trans (hh.records.trans (.ite ?_ ?_))
      · exact hws.records.trans (freeWaiters_work y.2 r _ rg _)
      · exact (putHeader_work ..).records.trans (wakeWaiters_work ..)

theorem failEval_work (s : State) (e : Nat) (c : Cause) (v : Word) : RecordWork s (failEval s e c v) := by
  unfold failEval
  dsimp only
  split
  · exact .trans (.trans (.foldl (fun _ _ => unwindRecord_work ..) _ _) (sendWake_work ..)) (endEval_work ..)
  · exact .trans (.foldl (fun _ _ => unwindRecord_work ..) _ _) (endEval_work ..)

theorem failTop_work (s : State) (e : Nat) (f : EvalFrame) (c : Cause) : RecordWork s (failTop s e f c) := by
  unfold failTop
  refine .ite ?_ (failEval_work ..)
  exact (draw_work s).records.trans (failEval_work ..)

theorem finishStrict_work (s : State) (e : Nat) (a : Word) : RecordWork s (finishStrict s e a) := by
  unfold finishStrict
  dsimp only
  split
  · exact sendWake_work ..
  · exact returnFrame_work ..

/-- A record has its value, or is freed with its last reference gone; its waiters look again. -/
theorem settleRecord_work (s : State) (rg : Nat) (r : RecAt) (hd : Header) (h : Word) : RecordWork s (
    if s.doomed.contains r.p then wakeWaiters (freeRecord s rg r hd) r h .staleh
    else wakeWaiters (putHeader s r hd) r h .value) :=
  .ite ((freeRecord_work ..).trans (wakeWaiters_work ..)) ((putHeader_work ..).records.trans (wakeWaiters_work ..))

theorem finishRecord_work (s : State) (e : Nat) (f : EvalFrame) (a : Word) : RecordWork s (finishRecord s e f a) := by
  unfold finishRecord
  dsimp only
  split
  · exact recMiss_record ..
  · rename_i r v ha
    refine (recAt_work ha).records.trans ((recHeader_work v r).records.trans ?_)
    refine .trans ?_ (settleRecord_work ..)
    refine .trans ?_ (recWrite_work ..).records
    exact .trans (.trans (refund_work ..).records (.foldl (fun s x => dropRef_work s (e / 4) x) _ _))
      (.foldl (fun s o => (recWrite_work s r o 0).records) _ _)

theorem finishTop_work (s : State) (e : Nat) (f : EvalFrame) : RecordWork s (finishTop s e f) := by
  unfold finishTop
  exact .ite (finishStrict_work ..) (finishRecord_work ..)

theorem unpark_work (s : State) (e : Nat) : RecordWork s (unpark s e) := by
  unfold unpark
  split
  · split
    · rename_i ha
      exact (recAt_work ha).records.trans (leaveWaiters_work ..)
    · exact recMiss_record ..
  · exact .refl s

/-- An evaluation's records go back to what they were, and the evaluation ends. -/
theorem unwind_work (s : State) (e c rg : Nat) (fs : List EvalFrame) :
    RecordWork s (endEval (fs.foldl (fun s f => unwindRecord s c rg none none f) s) e) :=
  .trans (.foldl (fun _ _ => unwindRecord_work ..) _ _) (endEval_work ..)

theorem abandonEval_calm (s : State) (e : Nat) : Calm lifePart s (abandonEval s e) := by
  unfold abandonEval
  dsimp only
  refine (unpark_work s e).calm.trans ?_
  generalize unpark s e = u
  refine .trans (t := u.modCore (e / 4) (fun k => { k with
    qn := k.qn.filter (fun c => c.eval != some e), qp := k.qp.filter (fun c => c.eval != some e) })) (.light rfl rfl rfl) ?_
  split
  · exact (failTop_work ..).calm
  · exact (finishTop_work ..).calm.trans (unwind_work ..).calm
  · exact (unwind_work ..).calm

/-! Answers to tasks, snapshots. -/

theorem awaits_task {s : State} {i : Nat} (h : awaits s i = true) : (s.slot i).status ≠ .noTask := by
  rw [awaits, beq_iff_eq] at h
  rw [h]
  nofun

theorem answer_calm {s : State} {i : Nat} (h : (s.slot i).status ≠ .noTask) (r : Reply) : Calm lifePart s (answer s i r) := by
  refine ⟨rfl, id, fun j hj => ?_⟩
  rw [answer_slot_ne s i j r (fun hji => h (hji ▸ hj))]
  exact hj

theorem answerTask_calm (s : State) (w : Waiter) (r : Reply) : Calm lifePart s (answerTask s w r) := by
  unfold answerTask
  dsimp only
  split
  · rename_i h
    exact answer_calm (awaits_task h.2.2) r
  · split
    · exact .ite (.light rfl rfl rfl) (.refl s)
    · exact .refl s

theorem putSnaps_calm (s : State) (ss : List Snap) : Calm lifePart s { s with snaps := ss } := .light rfl rfl rfl

/-- A snapshot that has ended is gone, and what waits for its end goes on (R303). -/
theorem overSnap_calm (s : State) (ss : List Snap) (w : Option Waiter) (k : Nat) : Calm lifePart s (match w with
    | some w => answerTask { s with snaps := ss } w (.val (BitVec.ofNat 64 k))
    | none => { s with snaps := ss }) := by
  cases w with
  | none => exact putSnaps_calm ..
  | some w => exact (putSnaps_calm s ss).trans (answerTask_calm ..)

theorem settleSnap_calm (s : State) (n : Nat) : Calm lifePart s (settleSnap s n) := by
  have hdone : ∀ (m : Snap) (u : State), Calm lifePart u (match m.ending with
      | some (_, ended, k) => if allHomes u ended then
          match m.endWait with
          | some w => answerTask { u with snaps := u.snaps.filter (fun x => x.seq != n) } w (.val (BitVec.ofNat 64 k))
          | none => { u with snaps := u.snaps.filter (fun x => x.seq != n) }
        else u
      | none => u) := by
    intro m u
    cases m.ending with
    | none => exact .refl u
    | some e => exact .ite (overSnap_calm ..) (.refl u)
  unfold settleSnap
  split
  · exact .refl s
  · rename_i m _
    cases hw : m.snapWait with
    | none => exact hdone m s
    | some w =>
      cases hh : allHomes s m.recorded with
      | false => exact hdone m s
      | true => exact .trans ((putSnaps_calm ..).trans (answerTask_calm ..)) (hdone m _)

theorem settleSnaps_calm (s : State) : Calm lifePart s (settleSnaps s) := by
  unfold settleSnaps
  exact .foldl (fun _ _ => settleSnap_calm ..) _ _

/-! Regions. -/

theorem stopEvals_calm (s : State) (r : Nat) : Calm lifePart s (stopEvals s r) := by
  unfold stopEvals
  refine .foldl (fun s e => ?_) _ _
  dsimp only
  refine .trans (t := s.modCore (e / 4) (fun k => { k with
    qn := k.qn.filter (fun c => !(c.eval == some e)), qp := k.qp.filter (fun c => !(c.eval == some e)) })) (.light rfl rfl rfl) ?_
  exact .ite (modEval_work ..).calm (endEval_work ..).calm

theorem beginEnd_calm (keep : Option Waiter) (s : State) (r : Nat) : Calm lifePart s (beginEnd keep s r) := by
  unfold beginEnd
  refine .trans (.trans (t := s.modRegion r (fun g => { g with state := .ending })) ?_ (endTasks_calm ..)) (stopEvals_calm ..)
  exact (putRegion_work ..).calm

theorem dropRecords_calm (s : State) (rs fs : List (Nat × Word)) : Calm lifePart s { s with records := rs, frames := fs } :=
  .light rfl rfl rfl

theorem freeAll_calm (s : State) (r : Nat) : Calm lifePart s (freeAll s r) := by
  unfold freeAll
  dsimp only
  refine .trans (.trans (.foldl (fun s a => ?_) _ s) (dropRecords_calm ..)) (putRegion_work ..).calm
  split
  · exact (recMiss_work ..).calm
  · rename_i ha
    exact (recAt_work ha).calm.trans ((recHeader_work ..).calm.trans (putHeader_work ..).calm)

theorem clearWindows_calm (s : State) (r : Nat) : Calm lifePart s (clearWindows s r) := .light rfl rfl rfl

/-! The coding rule sends what may leave. -/

theorem sendPacket_rest (s : State) (g : Group) (p : Packet) :
    { sendPacket s g p with packets := s.packets, outbox := s.outbox } = s := by
  unfold sendPacket
  split <;> rfl

theorem sendPackets_rest {α : Type} (g : Group) (f : α → Packet) (ps : List α) (s : State) :
    { ps.foldl (fun s p => sendPacket s g (f p)) s with packets := s.packets, outbox := s.outbox } = s := by
  induction ps generalizing s with
  | nil => rfl
  | cons p ps ih =>
    have h := congrArg (fun u : State => { u with packets := s.packets, outbox := s.outbox }) (ih (sendPacket s g (f p)))
    exact h.trans (sendPacket_rest s g (f p))

/-- What the coding rule changes: packets that leave, and the blocks that are queued or kept for another try (R318). -/
def coded (s : State) (t : State) : State :=
  { t with packets := s.packets, outbox := s.outbox, codeQueue := s.codeQueue, retransmit := s.retransmit }

theorem sendSet_rest (s : State) (g : Group) (is : List Nat) : coded s (sendSet s g is) = s := by
  unfold sendSet coded
  dsimp only
  generalize is.filterMap (fun i => (s.codeQueue[i]?).map Queued.post) = ps
  exact congrArg (fun u : State => { u with codeQueue := s.codeQueue, retransmit := s.retransmit })
    (sendPackets_rest g (fun p => ⟨p.grp, p.region, p.dst, ps, _⟩) ps s)

theorem codeOnce_rest {s t : State} (q xs : List (Queued × Nat)) (h : codeOnce s q xs = some t) : coded s t = s := by
  induction xs with
  | nil => cases h
  | cons x xs ih =>
    obtain ⟨p, i⟩ := x
    unfold codeOnce at h
    split at h
    · exact ih h
    · split at h
      · cases h; exact sendSet_rest ..
      · split at h
        · cases h; exact sendSet_rest ..
        · exact ih h

theorem codeAll_rest (n : Nat) (s : State) : coded s (codeAll s n) = s := by
  induction n generalizing s with
  | zero => rfl
  | succ n ih =>
    unfold codeAll
    split
    · rename_i t ht
      exact (congrArg (coded s) (ih t)).trans (codeOnce_rest _ _ ht)
    · rfl

theorem unshelveAtHub_rest (s : State) (e : CupEntry) : { coded s (unshelveAtHub s e) with shelf := s.shelf } = s := by
  unfold unshelveAtHub
  split
  · rfl
  · rename_i g _
    unfold toHub
    split
    · exact congrArg (fun u : State => { coded s u with shelf := s.shelf }) (codeAll_rest _ (unshelve s e.grp g.memb e.blk))
    · rfl

theorem unshelveAtHub_calm (s : State) (e : CupEntry) : Calm lifePart s (unshelveAtHub s e) := by
  have h := unshelveAtHub_rest s e
  generalize unshelveAtHub s e = t at h ⊢
  exact .light (congrArg lifePart h :) (congrArg State.mem h :) (congrArg State.slots h :)

theorem endShuffle_calm (s : State) (r : Nat) : Calm lifePart s (endShuffle s r) := by
  unfold endShuffle
  dsimp only
  have h := Calm.foldl unshelveAtHub_calm
    (s.cupboard.filter (fun e => ((s.groups.filter (fun e => e.2.region == r)).map Prod.fst).contains e.grp)) s
  generalize List.foldl unshelveAtHub s _ = u at h ⊢
  exact h.trans (.light rfl rfl rfl)

theorem endSnaps_calm (s : State) (r : Nat) : Calm lifePart s (endSnaps s r) := by
  unfold endSnaps
  refine .foldl (fun s n => ?_) _ _
  unfold popSnap putStack
  exact (putSnaps_calm ..).trans (putRegion_work ..).calm

theorem endLeaseOn_calm (s : State) (r i : Nat) (st : BitVec 2) (host : Bool) : Calm lifePart s (endLeaseOn s r i st host) := by
  have hset : Calm lifePart s (setEntry s r i st) := (putRegion_work ..).calm
  unfold endLeaseOn
  dsimp only
  refine .ite (hset.trans ?_) hset
  exact .light rfl rfl rfl

/-- A journal entry moves the journal's head on and leaves the rest of what a region's end leaves (R392). -/
theorem journalEvent_calm (s : State) (r st : Nat) (tag : W32) : Calm tablePart s (journalEvent s r st tag) := by
  obtain ⟨u, hu, h⟩ := journal_work s r 0 st tag (List.replicate 32 0)
  rw [journalEvent, h]
  exact hu.calm.table.trans (.light rfl rfl rfl)

theorem dropLaunches_calm (s : State) (ls : List Launch) (qs : List (Nat × Nat)) :
    Calm lifePart s { s with launches := ls, resReqs := qs } := .light rfl rfl rfl

theorem finishEnd_calm (keep : Option Waiter) (s : State) (r : Nat) : Calm tablePart s (finishEnd keep s r) := by
  unfold finishEnd
  dsimp only
  refine .trans (Calm.table (.trans ?_ (putRegion_work ..).calm)) (journalEvent_calm ..)
  refine .trans (.trans ?_ (freeAll_calm ..)) (.foldl (fun s i => .ite (endLeaseOn_calm ..) (.refl s)) _ _)
  refine .trans ?_ (dropLaunches_calm ..)
  exact .trans (.trans (endTasks_calm ..) (endShuffle_calm ..)) (clearWindows_calm ..)

theorem advanceEnd_calm (keep : Option Waiter) (s : State) (r : Nat) : Calm tablePart s (advanceEnd keep s r).1 := by
  unfold advanceEnd
  split
  · exact .refl s
  · split
    · exact .refl s
    · dsimp only
      split
      · exact (endSnaps_calm ..).table
      · exact (endSnaps_calm ..).table.trans (finishEnd_calm ..)

theorem advanceEnds_calm (keep : Option Waiter) (rs : List Nat) (s : State) : Calm tablePart s (advanceEnds keep s rs).1 := by
  induction rs generalizing s with
  | nil => exact .refl s
  | cons r rs ih =>
    have h := advanceEnd_calm keep s r
    unfold advanceEnds
    split
    · rename_i t ht
      rw [ht] at h
      exact h.trans (ih t)
    · rename_i t ht
      rw [ht] at h
      exact h

theorem endKept_calm (s : State) (w : Waiter) : Calm lifePart s (endKept s w) := by
  unfold endKept
  dsimp only
  split
  · exact endTask_calm ..
  · split
    · refine .ite ?_ (.refl s)
      refine .trans (.trans ?_ (sendHeld_calm ..)) (refund_calm ..)
      exact .light rfl rfl rfl
    · exact .refl s

theorem advanceEnding_calm (s : State) (e : Ending) : Calm tablePart s (advanceEnding s e) := by
  have h := advanceEnds_calm e.keep e.regions s
  unfold advanceEnding
  split
  · rename_i t ht
    rw [ht] at h
    refine h.trans (Calm.table ?_)
    dsimp only
    cases e.keep
    case' none => refine .trans (.refl t) ?_
    case' some w => refine .trans (endKept_calm t w) ?_
    all_goals
      dsimp only
      split
      · exact answerTask_calm ..
      · exact .refl _
  · rename_i t rs _ ht
    rw [ht] at h
    exact h.trans (.light rfl rfl rfl)

theorem progressEndings_calm (s : State) : Calm tablePart s (progressEndings s) := by
  unfold progressEndings
  exact .trans (t := { s with endings := [] }) (.light rfl rfl rfl) (.foldl (fun _ _ => advanceEnding_calm ..) _ _)

theorem endRegion_calm (s : State) (r : Nat) (keep w : Option Waiter) : Calm tablePart s (endRegion s r keep w) := by
  unfold endRegion
  dsimp only
  refine .trans (.trans (Calm.foldl (fun s r => beginEnd_calm keep s r) (subtree s r) s).table ?_) (progressEndings_calm ..)
  exact .light rfl rfl rfl

end Sys2Proof.Machine
end


section
/-! The module's life: failing cores, the clock, the domain, power, links. -/

namespace Sys2Proof.Machine

/-- The same without the part that it keeps. -/
theorem Calm.any {α : Type} {part : State → α} {s t : State} (h : Calm part s t) : Calm (fun _ => ()) s t := ⟨rfl, h.form, h.idle⟩

/-! The failure of a core. -/

theorem sendRecords_calm {α : Type} (f : State → α → TrapRec) (xs : List α) (s : State) :
    Calm lifePart s (xs.foldl (fun s x => s.sendRecord (f s x)) s) := by
  refine .foldl (fun _ _ => ?_) _ _
  exact .light rfl rfl rfl

theorem sendAllHeld_calm (ds : SMap (Slot × List InboxEntry)) (s : State) :
    Calm lifePart s (ds.foldl (fun s e => sendHeld s e.2.1) s) := .foldl (fun _ _ => sendHeld_calm ..) _ _

theorem refundSlots_calm (rs : List (Nat × Nat)) (s : State) :
    Calm lifePart s (rs.foldl (fun s e => refund s e.2 [(.slots, 1)]) s) := .foldl (fun _ _ => refund_calm ..) _ _

theorem putDrawers_calm (s : State) (ds : SMap (Slot × List InboxEntry)) : Calm lifePart s { s with drawers := ds } :=
  .light rfl rfl rfl

/-- The tasks of a list end, the messages held for them are sent, and their slots are given back. -/
theorem failTasks_calm (s : State) (c : Nat) : Calm lifePart s (failTasks s c) := by
  unfold failTasks
  dsimp only
  refine .trans ?_ (sendRecords_calm ..)
  refine .trans ?_ (putDrawers_calm ..)
  exact .trans (.trans (.foldl (fun _ _ => endTask_calm ..) _ _) (sendAllHeld_calm ..)) (refundSlots_calm ..)

/-- Every task of a list has ended once each has been told to. -/
theorem endTasks_noTask {α : Type} (f : α → Nat) (xs : List α) (s : State) {j : Nat} (h : ∃ x ∈ xs, f x = j) :
    ((xs.foldl (fun s x => endTask s (f x)) s).slot j).status = .noTask := by
  induction xs generalizing s with
  | nil => obtain ⟨x, hx, -⟩ := h; cases hx
  | cons x xs ih =>
    rw [List.foldl_cons]
    by_cases hx : f x = j
    · subst hx
      exact (Calm.foldl (fun s x => endTask_calm s (f x)) xs _).idle _ (endTask_noTask ..)
    · refine ih _ ?_
      obtain ⟨y, hy, hyj⟩ := h
      obtain rfl | hy := List.mem_cons.mp hy
      · exact absurd hyj hx
      · exact ⟨y, hy, hyj⟩

theorem mem_slots_of_task {s : State} {j : Nat} (h : (s.slot j).status ≠ .noTask) : (j, s.slot j) ∈ s.slots := by
  cases hm : mapGet s.slots j with
  | none => exact absurd (show (s.slot j).status = .noTask by rw [State.slot, hm]; rfl) h
  | some sl => rw [State.slot, hm]; exact mem_of_mapGet hm

theorem failTasks_noTask (s : State) {c j : Nat} (hj : coreOf j = c) : ((failTasks s c).slot j).status = .noTask := by
  by_cases h : (s.slot j).status = .noTask
  · exact (failTasks_calm s c).idle j h
  · unfold failTasks
    dsimp only
    refine (sendRecords_calm ..).idle j ((putDrawers_calm ..).idle j ?_)
    refine (refundSlots_calm ..).idle j ((sendAllHeld_calm ..).idle j (endTasks_noTask Prod.fst _ s ?_))
    refine ⟨(j, (s.slot j).region), List.mem_map.mpr ⟨(j, s.slot j), List.mem_filter.mpr ⟨mem_slots_of_task h, ?_⟩, rfl⟩, rfl⟩
    simp [hj, h]

theorem failUnits_calm (s : State) (c : Nat) : Calm lifePart s (failUnits s c) := by
  unfold failUnits
  dsimp only
  refine .trans ?_ (.foldl (fun _ _ => abandonEval_calm ..) _ _)
  exact .light rfl rfl rfl

theorem failMemory_calm (s : State) (c : Nat) : Calm lifePart s (failMemory s c) :=
  ⟨rfl, Memory.wf_filter _ _, fun _ => id⟩

theorem setCore_calm (s : State) (c : Nat) (k : Core) : Calm lifePart s (s.setCore c k) := .light rfl rfl rfl

theorem freeSpares_congr {s t : State} (h : tablePart t = tablePart s) (cl : Nat) : freeSpares t cl = freeSpares s cl := by
  obtain ⟨ht, hf, -, -, hn, hd, -⟩ : t.takeover = s.takeover ∧ t.failed = s.failed ∧ t.retired = s.retired ∧
      t.enumGen = s.enumGen ∧ t.nonlive = s.nonlive ∧ t.defect = s.defect ∧ t.grade = s.grade := by
    simpa only [tablePart, Prod.mk.injEq] using h
  simp only [freeSpares, isNonlive, ht, hf, hn, hd]

theorem clusterOf_congr {s t : State} (h : t.grade = s.grade) (c : Nat) : clusterOf t c = clusterOf s c := by
  rw [clusterOf, State.liveCores, h]
  rfl

theorem sleepServedBy_noTask {c d : Nat} {st : Status} (h : st = .noTask) : sleepServedBy c d st = .noTask := by rw [h]; rfl

theorem retireId_calm (s : State) (c : Nat) : Calm (fun _ => ()) s (retireId s c) := by
  unfold retireId
  dsimp only
  split
  · exact .light rfl rfl rfl
  · rename_i d _
    refine ⟨rfl, id, fun i hi => ?_⟩
    have hslots := mapGet_map s.slots (fun sl : Slot => { sl with status := sleepServedBy c d sl.status }) i
    rw [State.slot] at hi ⊢
    refine (congrArg (fun o : Option Slot => (o.getD Slot.idle).status) hslots).trans ?_
    cases hm : mapGet s.slots i with
    | none => rfl
    | some sl =>
      rw [hm] at hi
      exact sleepServedBy_noTask hi

/-- A retired id is noted, and the ids that spares have taken over, the failures, the ends under way and the journal stay. -/
theorem retireId_part (s : State) (c : Nat) : lifePart (retireId s c) =
    ((s.takeover, s.failed, s.retired ++ [c], s.enumGen, s.nonlive, s.defect, s.grade), s.endings, s.jhead) := by
  unfold retireId
  dsimp only
  split <;> rfl

/-- The failure of a core is noted: in the enumeration table and in the journal; and what waited for it goes on (R18). -/
def failureNoted (v : State) (phys c : Nat) : State :=
  progressEndings (settleSnaps (journalEvent (tableChanged { v with failed := mapPut v.failed phys c }) 0 8 (BitVec.ofNat 32 c)))

/-- A core whose tasks, units and memory are gone, as a spare or nothing takes it over. -/
def coreGone (s : State) (c : Nat) : State := (failMemory (failUnits (failTasks s c) c) c).setCore c (spareCore (s.core c))

theorem failCore_eq (s : State) (c : Nat) : failCore s c = failureNoted (
    match freeSpares (coreGone s c) (clusterOf (coreGone s c) c) with
    | p :: _ => { coreGone s c with takeover := mapPut (coreGone s c).takeover c p }
    | [] => retireId (coreGone s c) c) (physOf s c) c := by
  unfold failCore failureNoted coreGone
  rfl

theorem coreGone_calm (s : State) (c : Nat) : Calm lifePart s (coreGone s c) :=
  .trans (.trans (.trans (failTasks_calm s c) (failUnits_calm ..)) (failMemory_calm ..)) (setCore_calm ..)

theorem coreGone_noTask (s : State) {c j : Nat} (hj : coreOf j = c) : ((coreGone s c).slot j).status = .noTask :=
  (setCore_calm ..).idle j ((failMemory_calm ..).idle j ((failUnits_calm ..).idle j (failTasks_noTask s hj)))

theorem failureNoted_calm (v : State) (phys c : Nat) :
    Calm tablePart (tableChanged { v with failed := mapPut v.failed phys c }) (failureNoted v phys c) :=
  .trans (.trans (journalEvent_calm ..) (settleSnaps_calm ..).table) (progressEndings_calm ..)

theorem failureNoted_table (v : State) (phys c : Nat) :
    mapGet (failureNoted v phys c).failed phys = some c ∧ (failureNoted v phys c).enumGen = v.enumGen + 1 ∧
      (failureNoted v phys c).takeover = v.takeover ∧ (failureNoted v phys c).retired = v.retired := by
  have h := (failureNoted_calm v phys c).same
  have hf : (failureNoted v phys c).failed = mapPut v.failed phys c := (congrArg (fun p => p.2.1) h :)
  exact ⟨by rw [hf, mapGet_mapPut_same], (congrArg (fun p => p.2.2.2.1) h :), (congrArg Prod.fst h :),
    (congrArg (fun p => p.2.2.1) h :)⟩

theorem failureNoted_idle {v : State} (phys c : Nat) {j : Nat} (h : (v.slot j).status = .noTask) :
    ((failureNoted v phys c).slot j).status = .noTask := (failureNoted_calm v phys c).idle j h

theorem failureNoted_jhead {v : State} (phys c : Nat) (h : v.endings = []) : (failureNoted v phys c).jhead = v.jhead + 1 := by
  obtain ⟨u, hu, hj⟩ := journal_work (tableChanged { v with failed := mapPut v.failed phys c }) 0 0 8 (BitVec.ofNat 32 c)
    (List.replicate 32 0)
  have hends : u.endings = [] := (congrArg State.endings hu.rest :).trans h
  have hset := (settleSnaps_calm { u with jhead := v.jhead + 1 }).same
  have he : (settleSnaps { u with jhead := v.jhead + 1 }).endings = [] := (congrArg (fun p => p.2.1) hset :).trans hends
  rw [failureNoted, journalEvent, hj]
  show (progressEndings (settleSnaps { u with jhead := v.jhead + 1 })).jhead = _
  rw [progressEndings_none he]
  exact (congrArg (fun p => p.2.2) hset :)

theorem exec_coreFail {s : State} {c : Nat} (hc : isLiveCore s c = true) : ∃ t, exec (.coreFail c) s = .next t ∧
    exec (.builtInSelfCheck c true) s = .next t ∧ mapGet t.failed (physOf s c) = some c ∧
    (s.endings = [] → t.jhead = s.jhead + 1) ∧ t.enumGen = s.enumGen + 1 ∧
    (∀ p ps, freeSpares s (clusterOf s c) = p :: ps → mapGet t.takeover c = some p ∧ t.retired = s.retired) ∧
    (freeSpares s (clusterOf s c) = [] → t.retired = s.retired ++ [c] ∧ t.takeover = s.takeover) ∧
    ∀ j, coreOf j = c → (t.slot j).status = .noTask := by
  have hgone := coreGone_calm s c
  obtain ⟨htable, hends, hjhead⟩ : tablePart (coreGone s c) = tablePart s ∧ (coreGone s c).endings = s.endings ∧
      (coreGone s c).jhead = s.jhead := by simpa only [lifePart, Prod.mk.injEq] using hgone.same
  have hidle := fun j => coreGone_noTask s (c := c) (j := j)
  have hspares : freeSpares (coreGone s c) (clusterOf (coreGone s c) c) = freeSpares s (clusterOf s c) := by
    rw [clusterOf_congr (congrArg (fun p => p.2.2.2.2.2.2) htable :), freeSpares_congr htable]
  have hexec : exec (.coreFail c) s = .next (failCore s c) ∧ exec (.builtInSelfCheck c true) s = .next (failCore s c) := by
    show execCoreFail c s = _ ∧ execBuiltInSelfCheck c true s = _
    simp only [execCoreFail, execBuiltInSelfCheck, hc, Bool.and_self, if_true, and_self]
  refine ⟨_, hexec.1, hexec.2, ?_⟩
  rw [failCore_eq, hspares]
  generalize coreGone s c = u at htable hends hjhead hidle
  cases hs : freeSpares s (clusterOf s c) with
  | cons p ps =>
    obtain ⟨hf, hg, ht, hr⟩ := failureNoted_table { u with takeover := mapPut u.takeover c p } (physOf s c) c
    refine ⟨hf, fun he => ?_, hg.trans ?_, fun q qs hq => ?_, nofun, fun j hj => failureNoted_idle _ _ (hidle j hj)⟩
    · exact (failureNoted_jhead (v := { u with takeover := mapPut u.takeover c p }) _ _ (hends.trans he)).trans
        (congrArg (· + 1) hjhead)
    · exact congrArg (fun p => p.2.2.2.1 + 1) htable
    · cases hq
      exact ⟨by rw [ht, mapGet_mapPut_same], hr.trans (congrArg (fun p => p.2.2.1) htable)⟩
  | nil =>
    have hpart := retireId_part u c
    have hcalm := retireId_calm u c
    dsimp only
    generalize retireId u c = v at hpart hcalm
    have hve : v.endings = u.endings := (congrArg (fun p => p.2.1) hpart :)
    have hvj : v.jhead = u.jhead := (congrArg (fun p => p.2.2) hpart :)
    have hvg : v.enumGen = u.enumGen := (congrArg (fun p => p.1.2.2.2.1) hpart :)
    have hvr : v.retired = u.retired ++ [c] := (congrArg (fun p => p.1.2.2.1) hpart :)
    have hvt : v.takeover = u.takeover := (congrArg (fun p => p.1.1) hpart :)
    obtain ⟨hf, hg, ht, hr⟩ := failureNoted_table v (physOf s c) c
    refine ⟨hf, fun he => ?_, ?_, nofun, fun _ => ⟨?_, ?_⟩, fun j hj => failureNoted_idle _ _ (hcalm.idle j (hidle j hj))⟩
    · exact (failureNoted_jhead _ _ (hve.trans (hends.trans he))).trans (congrArg (· + 1) (hvj.trans hjhead))
    · exact hg.trans (congrArg (· + 1) (hvg.trans (congrArg (fun p => p.2.2.2.1) htable :)))
    · exact (hr.trans hvr).trans (congrArg (fun p => p.2.2.1 ++ [c]) htable)
    · exact (ht.trans hvt).trans (congrArg Prod.fst htable)

theorem exec_coreFail_not {s : State} {c : Nat} : exec (.builtInSelfCheck c false) s = .next s ∧
    (isLiveCore s c = false → exec (.coreFail c) s = .next s) := by
  refine ⟨rfl, fun h => ?_⟩
  show execCoreFail c s = _
  rw [execCoreFail, h, if_neg Bool.false_ne_true]

/-! The clock and the domain. -/

theorem journalEvent_rest (s : State) (r st : Nat) (tag : W32) : { journalEvent s r st tag with
    mem := s.mem, lines := s.lines, sliceVer := s.sliceVer, jhead := s.jhead } = s := by
  exact congrArg (fun u : State => { u with jhead := s.jhead }) (rawWrite_rest s _ _)

theorem unshelveAtHub_shelf {s : State} (h : s.shelf = []) (e : CupEntry) : (unshelveAtHub s e).shelf = [] := by
  unfold unshelveAtHub
  split
  · exact h
  · rename_i g _
    unfold toHub
    split
    · refine (congrArg State.shelf (codeAll_rest _ (unshelve s e.grp g.memb e.blk)) :).trans ?_
      rw [unshelve, h]
      rfl
    · exact h

/-- What a clock fault leaves alone while the shelf empties at the hubs. -/
theorem unshelveAll_rest (es : List CupEntry) (s : State) (h : s.shelf = []) :
    coded s (es.foldl unshelveAtHub s) = s := by
  induction es generalizing s with
  | nil => rfl
  | cons e es ih =>
    have h1 := unshelveAtHub_rest s e
    have h2 := unshelveAtHub_shelf h e
    rw [List.foldl_cons]
    refine (congrArg (coded s) (ih _ h2)).trans ?_
    generalize unshelveAtHub s e = u at h1 h2 ⊢
    rw [show s.shelf = u.shelf from h.trans h2.symm] at h1
    exact h1

/-- Every lease of the device is over, and every shelf entry gone. -/
def leasesOver (s : State) : State := { s with
  cores := s.cores.map (fun e => (e.1, { e.2 with cache := e.2.cache.map (fun l => { l with live := false }) }))
  loads := s.loads.map (fun l => { l with live := false })
  shelf := [] }

theorem leasesOver_cache (s : State) (c : Nat) : ∀ l ∈ ((leasesOver s).core c).cache, l.live = false := by
  have hcore := mapGet_map s.cores (fun k : Core => { k with cache := k.cache.map (fun l : CacheLine => { l with live := false }) }) c
  have hcache : ((leasesOver s).core c).cache = (s.core c).cache.map (fun l : CacheLine => { l with live := false }) := by
    refine (congrArg (fun o : Option Core => (o.getD Core.init).cache) hcore).trans ?_
    rw [State.core]
    cases mapGet s.cores c <;> rfl
  rw [hcache]
  intro l hl
  obtain ⟨l', -, rfl⟩ := List.mem_map.mp hl
  rfl

theorem exec_clockFault (s : State) (die : Nat) : (die ∈ s.clockFaults → exec (.clockFault die) s = .next s) ∧
    (die ∉ s.clockFaults → ∃ t, exec (.clockFault die) s = .next t ∧ t.clockFaults = s.clockFaults ++ [die] ∧
      t.shelf = [] ∧ t.cupboard = [] ∧ t.jhead = s.jhead + 1 ∧ t.slots = s.slots ∧
      ∀ c, ∀ l ∈ (t.core c).cache, l.live = false) ∧
    exec (.clockFaultClear die) s = .next { s with clockFaults := s.clockFaults.filter (fun d => d != die) } := by
  refine ⟨fun h => ?_, fun h => ?_, rfl⟩
  · show execClockFault die s = _
    rw [execClockFault, if_pos (List.contains_iff_mem.mpr h)]
  · show ∃ t, execClockFault die s = _ ∧ _
    rw [execClockFault, if_neg (mt List.contains_iff_mem.mp h)]
    have hrest := unshelveAll_rest s.cupboard { leasesOver s with cupboard := [] } rfl
    obtain ⟨w, hw⟩ : ∃ w, w = s.cupboard.foldl unshelveAtHub { leasesOver s with cupboard := [] } := ⟨_, rfl⟩
    rw [← hw] at hrest
    have hj := journalEvent_rest { w with clockFaults := w.clockFaults ++ [die] } 0 4 0
    refine ⟨journalEvent { w with clockFaults := w.clockFaults ++ [die] } 0 4 0, by rw [hw]; rfl, ?_⟩
    have hhead : (journalEvent { w with clockFaults := w.clockFaults ++ [die] } 0 4 0).jhead = w.jhead + 1 := rfl
    generalize journalEvent { w with clockFaults := w.clockFaults ++ [die] } 0 4 0 = t at hj hhead
    have hcores : t.cores = (leasesOver s).cores := (congrArg State.cores hj :).trans (congrArg State.cores hrest :)
    refine ⟨(congrArg State.clockFaults hj :).trans ?_, (congrArg State.shelf hj :).trans (congrArg State.shelf hrest :),
      (congrArg State.cupboard hj :).trans (congrArg State.cupboard hrest :), hhead.trans ?_,
      (congrArg State.slots hj :).trans (congrArg State.slots hrest :), fun c => ?_⟩
    · exact congrArg (· ++ [die]) (congrArg State.clockFaults hrest :)
    · exact congrArg (· + 1) (congrArg State.jhead hrest :)
    · rw [core_congr hcores]
      exact leasesOver_cache s c

theorem exec_domainJoin (s : State) {dev : BitVec 9} (x : Word) (hd : dev.toNat < 432) : ∃ t, exec (.domainJoin dev x) s = .next t ∧
    t.dev = dev ∧ t.time = (if s.time.toNat < x.toNat then x else s.time) ∧ t.timeHold = s.time.toNat - x.toNat ∧
    t.jhead = s.jhead + 1 ∧ t.slots = s.slots := by
  show ∃ t, execDomainJoin dev x s = _ ∧ _
  rw [execDomainJoin, if_neg (Nat.not_le_of_lt hd)]
  obtain ⟨u, hu⟩ : ∃ u : State, u = { s with
      dev := dev
      time := if s.time.toNat < x.toNat then x else s.time
      timeHold := s.time.toNat - x.toNat
      present := s.present.filter (fun d => d != dev.toNat) } := ⟨_, rfl⟩
  have hrest := journalEvent_rest u 0 7 0
  refine ⟨journalEvent u 0 7 0, by rw [hu], (congrArg State.dev hrest :).trans (by rw [hu]), (congrArg State.time hrest :).trans (by rw [hu]),
    (congrArg State.timeHold hrest :).trans (by rw [hu]), ?_, (congrArg State.slots hrest :).trans (by rw [hu])⟩
  show u.jhead + 1 = _
  rw [hu]

theorem exec_reset (s : State) : let t := { State.reset with
      agenda := s.agenda, freeCtr := s.freeCtr, fwMinSvn := s.fwMinSvn, present := s.present,
      grade := s.grade, nonlive := s.nonlive, defect := s.defect }
    exec .powerOn s = .next t ∧ ∀ ok, exec (.moduleReset ok) s = .next { t with
      outOfService := !ok, linkWidth := if ok = true then State.reset.linkWidth else s.linkWidth
      mem := s.mem.filter (fun c => decide (s.jbase.toNat < c.1 + 1) && decide (c.1 < s.jbase.toNat + journalSize))
      jbase := s.jbase, jhead := s.jhead, disc := s.disc, rfcnt := s.rfcnt, refusals := s.refusals, tqSeq := s.tqSeq
      snapSerial := s.snapSerial, collCounts := s.collCounts, cycle := s.cycle } := by
  refine ⟨rfl, fun ok => ?_⟩
  cases ok <;> rfl

theorem exec_linkWidthChange {s : State} {l : Nat} {w : BitVec 2} (hl : l < 14) (hw : ((mapGet s.linkWidth l).getD 0).toNat < w.toNat)
    (h2 : w.toNat ≤ 2) : exec (.linkWidthChange l w) s =
      .next { s with linkWidth := mapPut s.linkWidth l w, enumGen := s.enumGen + 1 } := by
  show execLinkWidthChange l w s = _
  rw [execLinkWidthChange, if_pos ⟨hl, hw, h2⟩]
  rfl

/-! Links. -/

theorem keepOff_work {α : Type} (l : Nat) (ends : α → Nat × Nat) (xs : List α) (s : State) : HomeWork s (keepOff l ends s xs).2 := by
  induction xs generalizing s with
  | nil => exact .refl s
  | cons x xs ih =>
    unfold keepOff
    split
    · exact (draw_work s).trans (ih _)
    · exact ih s

/-- Traffic whose way cannot lead over the lost link stays; of the rest, none that was not there (R387; log entry 108). -/
theorem keepOff_of (l : Nat) (ends : Flight → Nat × Nat) (fs : List Flight) (s : State) :
    (keepOff l ends s fs).1.Sublist fs ∧ (keepOff l ends s fs).2.mem = s.mem ∧
      ∀ f ∈ fs, leadsOver l (ends f).1 (ends f).2 = false → f ∈ (keepOff l ends s fs).1 := by
  induction fs generalizing s with
  | nil => exact ⟨.refl _, rfl, nofun⟩
  | cons x xs ih =>
    unfold keepOff
    split
    · rename_i hx
      obtain ⟨hsub, hmem, hkeep⟩ := ih s.draw.2
      refine ⟨?_, hmem, fun f hf hl => ?_⟩
      · dsimp only
        split
        · exact hsub.cons x
        · exact hsub.cons_cons x
      · obtain rfl | hf := List.mem_cons.mp hf
        · rw [hl] at hx; cases hx
        · dsimp only
          split
          · exact hkeep f hf hl
          · exact List.mem_cons_of_mem _ (hkeep f hf hl)
    · obtain ⟨hsub, hmem, hkeep⟩ := ih s
      refine ⟨hsub.cons_cons x, hmem, fun f hf hl => ?_⟩
      obtain rfl | hf := List.mem_cons.mp hf
      · exact List.mem_cons_self
      · exact List.mem_cons_of_mem _ (hkeep f hf hl)

theorem cutBuffers_calm (l : Nat) (s : State) : Calm lifePart s (cutBuffers l s) := by
  unfold cutBuffers
  refine .foldl (fun s e => ?_) _ _
  dsimp only
  refine (keepOff_work ..).calm.trans (.ite (.refl _) ?_)
  exact .light rfl rfl rfl

theorem keepOff_kept {α : Type} {l : Nat} {ends : α → Nat × Nat} {s t : State} {xs ys : List α}
    (h : keepOff l ends s xs = (ys, t)) : Calm lifePart s t := by
  have hw := (keepOff_work l ends xs s).calm
  rwa [h] at hw

theorem cutAccesses_calm (l : Nat) (s : State) : Calm lifePart s (cutAccesses l s) := by
  unfold cutAccesses
  iterate 6
    split
    rename_i h
    refine (keepOff_kept h).trans ?_
    clear h
  exact .light rfl rfl rfl

theorem cutMessages_calm (l : Nat) (s : State) : Calm lifePart s (cutMessages l s) := by
  unfold cutMessages
  iterate 6
    split
    rename_i h
    refine (keepOff_kept h).trans ?_
    clear h
  exact .light rfl rfl rfl

theorem cutEngines_calm (l : Nat) (s : State) : Calm lifePart s (cutEngines l s) := by
  unfold cutEngines
  iterate 3
    split
    rename_i h
    refine (keepOff_kept h).trans ?_
    clear h
  exact .light rfl rfl rfl

theorem cutSnap_calm (l : Nat) (s : State) (n : Snap) : Calm lifePart s (cutSnap l s n) := by
  unfold cutSnap
  dsimp only
  have hk := (keepOff_work l (fun h => (dieOf s (coreOf n.slot), dieOf s h))
    ((List.range s.logicalCores).filter (fun h => !(n.recorded.getLsbD h) && isLiveCore s h)) s).calm
  generalize keepOff l (fun h => (dieOf s (coreOf n.slot), dieOf s h)) s _ = x at hk ⊢
  refine hk.trans ?_
  cases n.ending with
  | none => exact putSnaps_calm ..
  | some e => exact .trans (keepOff_work ..).calm (putSnaps_calm ..)

theorem cutTraffic_calm (l : Nat) (s : State) : Calm lifePart s (cutTraffic l s) := by
  unfold cutTraffic cutSnaps
  refine .trans (.trans (.trans (.trans (cutBuffers_calm l s) (cutAccesses_calm l _)) (cutMessages_calm l _)) (cutEngines_calm l _)) ?_
  exact .trans (.foldl (fun _ _ => cutSnap_calm ..) _ _) (settleSnaps_calm ..)

/-! Partitions. -/

/-- The partition of a core is what only the device sets (R331). -/
structure SameParts (s t : State) : Prop where
  core : ∀ c, (t.core c).part = (s.core c).part

theorem SameParts.refl (s : State) : SameParts s s := ⟨fun _ => rfl⟩

theorem SameParts.trans {s t u : State} (h : SameParts s t) (h' : SameParts t u) : SameParts s u :=
  ⟨fun c => (h'.core c).trans (h.core c)⟩

theorem SameParts.foldl {α : Type} {f : State → α → State} (h : ∀ s a, SameParts s (f s a)) (xs : List α) (s : State) :
    SameParts s (xs.foldl f s) := by
  induction xs generalizing s with
  | nil => exact .refl s
  | cons x xs ih => exact (h s x).trans (ih _)

theorem IoWork.parts {s t : State} (h : IoWork s t) : SameParts s t := ⟨fun c => by
  obtain ⟨w, hw⟩ := h.core c
  rw [hw]⟩

theorem Withdrawal.parts {s t : State} (h : Withdrawal s t) : SameParts s t := ⟨fun c => by
  obtain ⟨w, b, hw⟩ := h.core c
  rw [hw]⟩

theorem sendHeld_parts (s : State) (sl : Slot) : SameParts s (sendHeld s sl) := by
  unfold sendHeld
  split
  · exact ⟨fun _ => rfl⟩
  · exact .refl s

theorem uncounted_parts (u : State) (sl : Slot) (i : Nat) : SameParts u (uncounted u sl i) := by
  refine ⟨fun c => ?_⟩
  unfold uncounted
  rw [show ∀ (t : State) (x : Slot), (t.setSlot i x).core c = t.core c from fun _ _ => rfl]
  by_cases hc : c = coreOf i
  · subst hc
    rw [State.core_modCore_same]
  · rw [State.core_modCore_ne _ _ _ _ hc]

theorem endTask_parts (s : State) (i : Nat) : SameParts s (endTask s i) := by
  by_cases h : (s.slot i).status = .noTask
  · have heq : endTask s i = s := by simp only [endTask, h]
    rw [heq]
    exact .refl s
  · rw [endTask_of_task h]
    exact .trans (.trans (.trans (sendHeld_parts s (s.slot i)) (withdrawSlot_withdrawal _ i).parts) (uncounted_parts ..))
      (refund_work ..).io.parts

theorem endOut_calm (ds : SMap (Slot × List InboxEntry)) (s : State) :
    Calm lifePart s (ds.foldl (fun s e => refund (sendHeld s e.2.1) e.2.1.region [(.slots, 1)]) s) := by
  refine .foldl (fun _ _ => ?_) _ _
  exact (sendHeld_calm ..).trans (refund_calm ..)

theorem endOut_parts (ds : SMap (Slot × List InboxEntry)) (s : State) :
    SameParts s (ds.foldl (fun s e => refund (sendHeld s e.2.1) e.2.1.region [(.slots, 1)]) s) := by
  refine .foldl (fun _ _ => ?_) _ _
  exact (sendHeld_parts ..).trans (refund_work ..).io.parts

/-- The tasks of a partition, in their slots. -/
def tasksOn (s : State) (p : Nat) : List Nat := (s.slots.filter (fun e =>
  e.2.status != .noTask && decide (e.1 < 16384) && ((s.core (coreOf e.1)).part.toNat == p))).map Prod.fst

theorem endPartition_eq (s : State) (p : Nat) : ∃ out : SMap (Slot × List InboxEntry), ∃ ds, endPartition s p =
    { out.foldl (fun s e => refund (sendHeld s e.2.1) e.2.1.region [(.slots, 1)]) ((tasksOn s p).foldl endTask s) with
      drawers := ds } := ⟨_, _, rfl⟩

theorem endPartition_parts (s : State) (p : Nat) : SameParts s (endPartition s p) := by
  obtain ⟨out, ds, h⟩ := endPartition_eq s p
  rw [h]
  exact .trans (.trans (.foldl endTask_parts (tasksOn s p) s) (endOut_parts out _)) ⟨fun _ => rfl⟩

theorem endPartition_calm (s : State) (p : Nat) : Calm lifePart s (endPartition s p) := by
  obtain ⟨out, ds, h⟩ := endPartition_eq s p
  rw [h]
  exact .trans (.trans (.foldl endTask_calm (tasksOn s p) s) (endOut_calm out _)) (putDrawers_calm ..)

theorem endPartition_noTask (s : State) {j : Nat} (hj : j < 16384) :
    ((endPartition s (s.core (coreOf j)).part.toNat).slot j).status = .noTask := by
  by_cases h : (s.slot j).status = .noTask
  · exact (endPartition_calm ..).idle j h
  · obtain ⟨out, ds, heq⟩ := endPartition_eq s (s.core (coreOf j)).part.toNat
    rw [heq]
    refine (endOut_calm out _).idle j (endTasks_noTask id _ s ⟨j, List.mem_map.mpr ⟨(j, s.slot j), ?_, rfl⟩, rfl⟩)
    exact List.mem_filter.mpr ⟨mem_slots_of_task h, by simp [h, hj]⟩

/-- Each partition of a list ends: so do the tasks of its cores. -/
theorem endPartitions_noTask (ps : List Nat) (s : State) {j : Nat} (hj : j < 16384) (hp : (s.core (coreOf j)).part.toNat ∈ ps) :
    ((ps.foldl endPartition s).slot j).status = .noTask := by
  induction ps generalizing s with
  | nil => cases hp
  | cons p ps ih =>
    rw [List.foldl_cons]
    by_cases h : (s.core (coreOf j)).part.toNat = p
    · subst h
      exact (Calm.foldl endPartition_calm ps _).idle j (endPartition_noTask s hj)
    · refine ih _ ?_
      rw [(endPartition_parts s p).core (coreOf j)]
      exact List.mem_of_ne_of_mem h hp

theorem mem_partitions {s : State} {c : Nat} (h : isLiveCore s c = true) : (s.core c).part.toNat ∈ partitions s := by
  have hc : c < s.logicalCores := by
    rw [isLiveCore, Bool.and_eq_true, decide_eq_true_eq] at h
    exact h.1
  unfold partitions
  rw [List.mem_eraseDups, List.mem_map]
  exact ⟨c, List.mem_filter.mpr ⟨List.mem_range.mpr hc, h⟩, rfl⟩

theorem isLiveCore_slot {s : State} {j : Nat} (h : isLiveCore s (coreOf j) = true) : j < 16384 := by
  rw [isLiveCore, Bool.and_eq_true, decide_eq_true_eq] at h
  have hc := h.1
  unfold State.logicalCores State.liveCores Config.clusters coreOf at hc
  omega

/-! The loss of a link. -/

theorem enterQueue_work (s : State) (r : TrapRec) : ∃ u : State, (∃ q n b, u = { s with tq := q, tqSeq := n, faultBuf := b }) ∧
    IoWork u (enterQueue s r) := by
  have hnote : ∀ u : State, IoWork u (if u.tqnote = 0 then u else notifyFor u ⟨westDie, 0, 0⟩ u.tqnote 1) := fun u => by
    split
    · exact .refl u
    · exact notifyFrom_work ..
  unfold enterQueue
  dsimp only
  cases findIdx (fun p : ParkedAccess => p.record == r && p.seq.isNone) s.faultBuf with
  | none => exact ⟨_, ⟨_, _, _, rfl⟩, hnote _⟩
  | some x => exact ⟨_, ⟨_, _, _, rfl⟩, hnote _⟩

theorem enterQueue_calm (s : State) (r : TrapRec) : Calm lifePart s (enterQueue s r) := by
  obtain ⟨u, ⟨q, n, b, hu⟩, hw⟩ := enterQueue_work s r
  refine .trans ?_ hw.calm
  rw [hu]
  exact .light rfl rfl rfl

theorem enterQueue_parts (s : State) (r : TrapRec) : SameParts s (enterQueue s r) := by
  obtain ⟨u, ⟨q, n, b, hu⟩, hw⟩ := enterQueue_work s r
  refine .trans ?_ hw.parts
  rw [hu]
  exact ⟨fun _ => rfl⟩

theorem remoteFault_rest (s : State) (a : RemoteAccess) (c : Cause) :
    { remoteFault s a c with outbox := s.outbox, trapsInFlight := s.trapsInFlight } = s := by
  unfold remoteFault
  split <;> rfl

theorem remoteFault_calm (s : State) (a : RemoteAccess) (c : Cause) : Calm lifePart s (remoteFault s a c) := by
  unfold remoteFault
  split <;> exact .light rfl rfl rfl

theorem remoteFaults_faultBuf (as : List RemoteAccess) (c : Cause) (s : State) :
    (as.foldl (fun s a => remoteFault s a c) s).faultBuf = s.faultBuf := by
  induction as generalizing s with
  | nil => rfl
  | cons a as ih => exact (ih _).trans (congrArg State.faultBuf (remoteFault_rest s a c) :)

theorem dropGuest_calm (s : State) (g : Nat) (out : List Out) : Calm lifePart s { s with slots := mapDel s.slots g, outbox := out } := by
  refine ⟨rfl, id, fun i hi => ?_⟩
  have hslot : ({ s with slots := mapDel s.slots g, outbox := out } : State).slot i = if i = g then Slot.idle else s.slot i := by
    show (mapGet (mapDel s.slots g) i).getD _ = _
    rw [mapGet_mapDel]
    split <;> rfl
  rw [hslot]
  split
  · rfl
  · exact hi

theorem clearBuffer_calm (s : State) : Calm lifePart s { s with faultBuf := [] } := .light rfl rfl rfl

theorem failGuests_calm (s : State) : Calm lifePart s (failGuests s) := by
  unfold failGuests
  dsimp only
  refine .trans (.trans (.foldl (fun s g => ?_) _ s) (clearBuffer_calm _)) (.foldl (fun _ _ => remoteFault_calm ..) _ _)
  exact (giveUpReservation_withdrawal s g).calm.trans (dropGuest_calm ..)

theorem failGuests_faultBuf (s : State) : (failGuests s).faultBuf = [] := remoteFaults_faultBuf ..

/-- The regions of a list have the fault in their blocks, and end but for the root (R387). -/
def regionsLost (s : State) (live : List Nat) (w : Word) : State :=
  live.foldl (fun s n => if n != 0 && isLive s n then endRegion s n none none else s)
    (live.foldl (fun s n => s.modRegion n (fun g => if g.fault.getLsbD 63 then g else { g with fault := w })) s)

theorem regionsLost_calm (s : State) (live : List Nat) (w : Word) : Calm tablePart s (regionsLost s live w) := by
  unfold regionsLost
  refine .trans (.foldl (fun _ _ => ?_) live s) (.foldl (fun s n => .ite (endRegion_calm ..) (.refl s)) live _)
  exact (putRegion_work ..).calm.table

/-- The journal's entry for each partition that stops. -/
def journalStops (s : State) (parts : List Nat) : State := parts.foldl (fun s _ => journalEvent s 0 5 0) s

theorem journalStops_calm (s : State) (parts : List Nat) : Calm tablePart s (journalStops s parts) :=
  .foldl (fun _ _ => journalEvent_calm ..) _ _

theorem journalStops_faultBuf (parts : List Nat) (s : State) : (journalStops s parts).faultBuf = s.faultBuf := by
  unfold journalStops
  induction parts generalizing s with
  | nil => rfl
  | cons p ps ih => exact (ih _).trans (congrArg State.faultBuf (journalEvent_rest s 0 5 0) :)

theorem exec_linkLoss_eq {s : State} {l : Nat} (hl : l < 14) : ∃ q live w stops,
    (q = s ∨ ∃ r, q = enterQueue s r) ∧ exec (.linkLoss l) s = .next {
      journalStops (failGuests (cutTraffic l (regionsLost ((partitions q).foldl endPartition q) live w))) (partitions q) with
      stoppedParts := stops, outOfService := true } := by
  show ∃ q live w stops, _ ∧ execLinkLoss l s = _
  rw [execLinkLoss, if_neg (Nat.not_le_of_lt hl)]
  refine ⟨_, _, _, _, ?_, rfl⟩
  split
  · exact .inr ⟨_, rfl⟩
  · exact .inl rfl

theorem exec_linkLoss (s : State) (l : Nat) : (14 ≤ l → exec (.linkLoss l) s = .next s) ∧
    (l < 14 → ∃ t, exec (.linkLoss l) s = .next t ∧ t.outOfService = true ∧ t.faultBuf = [] ∧
      ∀ j, isLiveCore s (coreOf j) = true → (t.slot j).status = .noTask) := by
  refine ⟨fun h => ?_, fun h => ?_⟩
  · show execLinkLoss l s = _
    rw [execLinkLoss, if_pos h]
  · obtain ⟨q, live, w, stops, hq, hexec⟩ := exec_linkLoss_eq (s := s) h
    refine ⟨_, hexec, rfl, (journalStops_faultBuf ..).trans (failGuests_faultBuf _), fun j hj => ?_⟩
    have hcalm : Calm lifePart s q := by
      obtain rfl | ⟨r, rfl⟩ := hq
      · exact .refl _
      · exact enterQueue_calm ..
    have hlive : isLiveCore q (coreOf j) = true := by
      rw [← hj]
      have hr : q.retired = s.retired := (congrArg (fun p => p.1.2.2.1) hcalm.same :)
      have hg : q.grade = s.grade := (congrArg (fun p => p.1.2.2.2.2.2.2) hcalm.same :)
      simp only [isLiveCore, State.logicalCores, State.liveCores, hr, hg]
      rfl
    refine (journalStops_calm ..).idle j ((failGuests_calm ..).idle j ((cutTraffic_calm ..).idle j
      ((regionsLost_calm ..).idle j ?_)))
    exact endPartitions_noTask _ q (isLiveCore_slot hj) (mem_partitions hlive)

/-! Modules that join and leave. -/

theorem Keeps.ite {α : Type} {part : State → α} {s t u : State} {c : Prop} [Decidable c] (ht : Keeps part s t)
    (hu : Keeps part s u) : Keeps part s (if c then t else u) := by
  split
  · exact ht
  · exact hu

theorem RecordWork.present {s t : State} (h : RecordWork s t) : Keeps State.present s t := ⟨(congrArg State.present h.rest :), h.form⟩

theorem giveUp_present (s : State) (i : Nat) : Keeps State.present s (s.giveUpReservation i) := by
  have h := giveUpReservation_withdrawal s i
  exact ⟨(congrArg State.present h.rest :), h.form⟩

theorem takeFaultOf_present (s : State) (i : Nat) (c : Cause) (v : Word) : Keeps State.present s (takeFaultOf s i c v) := by
  have h := giveUp_present s i
  unfold takeFaultOf
  generalize s.giveUpReservation i = u at h ⊢
  refine h.trans (.ite ?_ (.ite ?_ (.ite ?_ ?_)))
  all_goals exact .light rfl rfl

theorem lateFault_present (s : State) (i : Nat) (c : Cause) : Keeps State.present s (lateFault s i c) := by
  unfold lateFault noteFault
  refine .trans (.trans (dropSusp_work s i).present (takeFaultOf_present ..)) (.ite (.refl _) ?_)
  exact .light rfl rfl

theorem requestLine_present (s : State) (i : Nat) (w : Bool) (a : Word) (n : Nat) (loc : Loc) (strong : Option Bool)
    (fwd : Option (List Byte)) (code : Bool) : Keeps State.present s (requestLine s i w a n loc strong fwd code) := by
  unfold requestLine
  cases loc <;> exact .light rfl rfl

theorem codeReply_present (s : State) (i : Nat) (r : LoadReq) (a : LoadAnswer) : Keeps State.present s (codeReply s i r a) := by
  unfold codeReply
  split
  · split
    · exact .refl s
    · split
      · exact lateFault_present ..
      · exact lateFault_present ..
      · split
        · exact .light rfl rfl
        · exact requestLine_present ..
  · exact .refl s

theorem fillFrom_present (s : State) (r : LoadReq) (a : LoadAnswer) : Keeps State.present s (fillFrom s r a) := by
  obtain ⟨h, -⟩ := fillFrom_rest s r a
  exact .light (congrArg State.present h :) (congrArg State.mem h :)

theorem arriveLoad_present (s : State) (r : LoadReq) (a : LoadAnswer) : Keeps State.present s (arriveLoad s r a) := by
  have hfill : Keeps State.present s (if r.fwd.isSome || (a.fault.isSome && a.fault != some .mixsize) then s else fillFrom s r a) :=
    .ite (.refl s) (fillFrom_present ..)
  unfold arriveLoad
  refine .ite (.light rfl rfl) ?_
  unfold deliverLoad
  dsimp only
  generalize (if r.fwd.isSome || (a.fault.isSome && a.fault != some .mixsize) then s else fillFrom s r a) = u at hfill ⊢
  refine hfill.trans ?_
  split
  · exact .refl u
  · refine .ite (codeReply_present ..) (.ite ?_ (.refl u))
    exact .light rfl rfl

theorem absentSlot_present (s : State) (i : Nat) (a : Word) : Keeps State.present s (absentSlot s i a) := by
  unfold absentSlot
  split <;> exact .light rfl rfl

theorem absentRecord_present (s : State) (r i : Nat) (a : Word) : Keeps State.present s (absentRecord s r i a) := .light rfl rfl

theorem putLoads_present (s : State) (ls : List LoadReq) : Keeps State.present s { s with loads := ls } := .light rfl rfl

theorem answerAbsent_present (s : State) (o : Out) : Keeps State.present s (answerAbsent s o) := by
  cases o with
  | load slot a n v =>
    unfold answerAbsent
    dsimp only
    split
    · exact (putLoads_present s _).trans (arriveLoad_present ..)
    · exact .refl s
  | store slot a bs st look =>
    cases look with
    | true => exact .light rfl rfl
    | false =>
      unfold answerAbsent
      dsimp only
      split
      · exact .light rfl rfl
      · exact absentRecord_present ..
  | atom slot a op look => exact .trans (t := s.modSlot slot (fun sl => { sl with awayResv := false })) (.light rfl rfl) (absentSlot_present ..)
  | bard n d slot => exact absentSlot_present ..
  | advert a d => exact absentSlot_present ..
  | unside g m b slot d => exact absentSlot_present ..
  | post p d => exact absentSlot_present ..
  | row r d => exact absentSlot_present ..
  | message slot x as => cases as <;> exact .light rfl rfl
  | _ => exact .light rfl rfl

/-- What has left for a module that leaves is on its way to no device that is there. -/
theorem isAbsent_left {s : State} {o : Out} {dev : BitVec 9} (ho : outDev s o = some dev) (hd : dev ≠ s.dev) (h : dev.toNat < 432)
    (hp : dev.toNat ∉ s.present) : isAbsent s o = true := by
  have h511 : dev ≠ 511#9 := by
    rintro rfl
    exact absurd h (by decide)
  simp [isAbsent, ho, isHere, h511, hd, isPresent, hp]

theorem exec_moduleRemoval {s : State} {dev : BitVec 9} (h : dev.toNat < 432) (hd : dev ≠ s.dev) :
    exec (.moduleRemoval dev true) s =
      .next { s with present := s.present.filter (fun d => d != dev.toNat) ++ [dev.toNat] } ∧
    exec (.moduleRemoval dev false) s =
      .next (answerAllAbsent { s with present := s.present.filter (fun d => d != dev.toNat) }) := by
  have hout : ¬ (432 ≤ dev.toNat ∨ dev = s.dev) := fun ho => ho.elim (fun h' => absurd h (Nat.not_lt.mpr h')) hd
  show execModuleRemoval dev true s = _ ∧ execModuleRemoval dev false s = _
  rw [execModuleRemoval, execModuleRemoval, if_neg hout, if_neg hout]
  exact ⟨rfl, rfl⟩

theorem answerAllAbsent_present (s : State) : (answerAllAbsent s).present = s.present := by
  unfold answerAllAbsent
  exact (Keeps.foldl (part := State.present) answerAbsent_present _ _).same

/-- The one thing on its way to a module that leaves is answered. -/
theorem answerAllAbsent_one {s : State} {o : Out} {dev : BitVec 9} (hd : dev ≠ s.dev) (h : dev.toNat < 432)
    (hp : dev.toNat ∉ s.present) (ho : s.outbox = [o]) (hdev : outDev s o = some dev) :
    answerAllAbsent s = answerAbsent { s with outbox := [] } o := by
  have ha := isAbsent_left hdev hd h hp
  simp only [answerAllAbsent, ho, List.filter_cons, List.filter_nil, ha, if_true, Bool.not_true, Bool.false_eq_true, if_false,
    List.foldl_cons, List.foldl_nil]

/-- A slot that waits for another device's answer takes the fault. -/
theorem absentSlot_waits {s : State} {i : Nat} {a : Word} (h : (s.slot i).status = .waiting .reply ∨ ∃ z, (s.slot i).status = .asleep z) :
    absentSlot s i a = answer s i (.fault .fatalhw a) := by
  unfold absentSlot
  obtain h | ⟨z, h⟩ := h <;> rw [h]

section
variable {s : State} {dev : BitVec 9} (h : dev.toNat < 432) (hd : dev ≠ s.dev) {o : Out} (ho : s.outbox = [o]) {i : Nat} {a : Word}
include h hd ho

/-- The one thing on its way to the module that leaves is answered. -/
theorem moduleRemoval_one (hdev : outDev s o = some dev) : exec (.moduleRemoval dev false) s =
    .next (answerAbsent { s with present := s.present.filter (fun d => d != dev.toNat), outbox := [] } o) := by
  rw [(exec_moduleRemoval h hd).2]
  refine congrArg Host.Outcome.next (answerAllAbsent_one (s := { s with present := _ }) hd h (by simp) ho ?_)
  cases o <;> exact hdev

theorem moduleRemoval_slot
    (hk : (∃ op look, o = .atom i a op look ∧ devOf s a = dev) ∨ (∃ r, o = .row r dev.toNat ∧ i = r.slot ∧ a = r.dw) ∨
      (∃ p, o = .post p dev.toNat ∧ i = p.slot ∧ a = p.blk.setWidth 64) ∨
      (∃ p, o = .advert p dev.toNat ∧ i = p.slot ∧ a = p.blk.setWidth 64))
    (hst : (s.slot i).status = .waiting .reply ∨ (∃ z, (s.slot i).status = .asleep z)) :
    ∃ t, exec (.moduleRemoval dev false) s = .next t ∧ t.outbox = [] ∧ (t.slot i).status = .ready ∧
      (t.slot i).reply = some (.fault .fatalhw a) := by
  have hnum : BitVec.ofNat 9 dev.toNat = dev := by simp
  have hans : ∀ u : State, (u.slot i).status = (s.slot i).status → u.outbox = [] → ∃ t,
      Host.Outcome.next (φ := Fault) (ρ := Refusal) (absentSlot u i a) = .next t ∧ t.outbox = [] ∧ (t.slot i).status = .ready ∧
        (t.slot i).reply = some (.fault .fatalhw a) := fun u hs hout => by
    rw [absentSlot_waits (by rw [hs]; exact hst)]
    refine ⟨_, rfl, hout, ?_, ?_⟩ <;> rw [answer_slot_same]
  obtain ⟨op, look, rfl, hdev⟩ | ⟨r, rfl, rfl, rfl⟩ | ⟨p, rfl, rfl, rfl⟩ | ⟨p, rfl, rfl, rfl⟩ := hk
  · rw [moduleRemoval_one h hd ho (congrArg some hdev)]
    refine hans (State.modSlot _ i (fun sl => { sl with awayResv := false })) ?_ rfl
    rw [State.slot_modSlot_same]
    rfl
  all_goals
    rw [moduleRemoval_one h hd ho (congrArg some hnum)]
    exact hans { s with present := s.present.filter (fun d => d != dev.toNat), outbox := [] } rfl rfl

theorem moduleRemoval_record
    (hk : (∃ bs, o = .write i a bs ∧ devOf s a = dev) ∨ (a = 0 ∧ ∃ p, o = .coll p i dev.toNat)) :
    ∃ t r, exec (.moduleRemoval dev false) s = .next t ∧ t.outbox = [] ∧ t.trapsInFlight = s.trapsInFlight ++ [r] ∧
      r.kind = 3 ∧ r.cause = causeCode .fatalhw ∧ r.tval = a := by
  have hnum : BitVec.ofNat 9 dev.toNat = dev := by simp
  obtain ⟨bs, rfl, hdev⟩ | ⟨rfl, p, rfl⟩ := hk
  · rw [moduleRemoval_one h hd ho (congrArg some hdev)]
    exact ⟨_, _, rfl, rfl, rfl, rfl, rfl, rfl⟩
  · rw [moduleRemoval_one h hd ho (congrArg some hnum)]
    exact ⟨_, _, rfl, rfl, rfl, rfl, rfl, rfl⟩

end

/-- Settles O56: a failure's frame is `Calm`, the rest is what each event sets. -/
theorem moduleEvents : Obligations.ModuleEvents := by
  refine ⟨fun s c => exec_coreFail, fun s c => exec_coreFail_not, exec_clockFault, fun s dev x => exec_domainJoin s x, exec_reset,
    fun s l w => exec_linkWidthChange, exec_linkLoss, fun s l ends fs => keepOff_of l ends fs s, fun s dev h hd => ?_⟩
  obtain ⟨hjoin, hleave⟩ := exec_moduleRemoval h hd
  exact ⟨hjoin, ⟨_, hleave, answerAllAbsent_present _⟩, fun o i a ho => moduleRemoval_slot h hd ho, fun o i a ho => moduleRemoval_record h hd ho⟩

end Sys2Proof.Machine
end


section
/-! The host's side: what its writes and its commands do (R90, R390 to R394). -/

namespace Sys2Proof.Machine

/-! Host writes (R90, R391). -/

section HostWrite

variable {s : State} {p : Nat} {b : Byte} {bs : List Byte}

/-- A write that lies in one line is one write at its home, or none. -/
theorem exec_hostMemWrite_line (hline : p % 128 + (b :: bs).length ≤ 128) : exec (.hostMemWrite p (b :: bs)) s =
    .next (if inJournal s p (b :: bs).length = false ∧ p + (b :: bs).length ≤ 2 ^ 40 then loaderWrite s p (b :: bs) else s) := by
  have hlen : (b :: bs).length ≤ 128 - p % 128 := by omega
  show execHostMemWrite p (b :: bs) s = _
  rw [execHostMemWrite, hostWrite]
  rw [List.take_of_length_le hlen, List.drop_eq_nil_of_le hlen]
  · cases (b :: bs).length / 128 <;> rfl
  · nofun

theorem inJournal_below {n : Nat} (h : p + n ≤ s.jbase.toNat) : inJournal s p n = false := by
  simp only [inJournal, Bool.and_eq_false_iff, decide_eq_false_iff_not]
  omega

theorem inJournal_inside {n : Nat} (hn : 0 < n) (hlo : s.jbase.toNat ≤ p) (hhi : p + n ≤ s.jbase.toNat + journalSize) :
    inJournal s p n = true := by
  simp only [inJournal, Bool.and_eq_true, decide_eq_true_eq]
  omega

/-- Where no snapshot covers them, the bytes are written at their home, and a strong record that they cover is cleared. -/
theorem loaderWrite_mem (hs : snappedAt s p = none) (bs : List Byte) : (loaderWrite s p bs).mem = writeBytes s.mem p bs := by
  rw [loaderWrite, hs]
  exact (congrArg State.mem (clearStrong_rest _ _ _) :).trans (rawWrite_mem s p bs)

theorem hostMemWrite_spec (hline : p % 128 + (b :: bs).length ≤ 128) (hmem : p + (b :: bs).length ≤ 2 ^ 40) :
    (p + (b :: bs).length ≤ s.jbase.toNat → ∀ a h, snappedAt s p = some (a, h) → exec (.hostMemWrite p (b :: bs)) s =
      .next (clearStrong (homeWrite s a p h (b :: bs)) p (b :: bs).length)) ∧
    (p + (b :: bs).length ≤ s.jbase.toNat → snappedAt s p = none → ∃ t, exec (.hostMemWrite p (b :: bs)) s = .next t ∧
      readBytes t.mem p (b :: bs).length = b :: bs ∧
      ∀ a, a < p ∨ p + (b :: bs).length ≤ a → byteAt t.mem a = byteAt s.mem a) ∧
    (s.jbase.toNat ≤ p → p + (b :: bs).length ≤ s.jbase.toNat + journalSize →
      exec (.hostMemWrite p (b :: bs)) s = .next s) := by
  refine ⟨fun hj a h hs => ?_, fun hj hs => ⟨_, exec_hostMemWrite_line hline, ?_⟩, fun hlo hhi => ?_⟩
  · rw [exec_hostMemWrite_line hline, if_pos ⟨inJournal_below hj, hmem⟩, loaderWrite, hs]
  · rw [if_pos ⟨inJournal_below hj, hmem⟩, loaderWrite_mem hs]
    exact ⟨readBytes_writeBytes .., fun a ha => byteAt_writeBytes_outside _ _ _ _ ha⟩
  · rw [exec_hostMemWrite_line hline, if_neg]
    rintro ⟨hin, -⟩
    rw [inJournal_inside (by simp) hlo hhi] at hin
    cases hin

end HostWrite

/-! The policy (R394). -/

/-- What a policy tells a core: its lease length and its marked slot. -/
def underPolicy (p : Policy) (s : State) (c : Nat) : State :=
  s.modCore c (fun k => { k with leaselen := (mapGet p.leaselens c).getD p.leaselen, mslot := p.mslot })

theorem underPolicy_rest (p : Policy) (cs : List Nat) (s : State) :
    { cs.foldl (underPolicy p) s with cores := s.cores } = s := by
  induction cs generalizing s with
  | nil => rfl
  | cons c cs ih => exact congrArg (fun u : State => { u with cores := s.cores }) (ih (underPolicy p s c))

theorem underPolicy_leaselen_kept (p : Policy) (cs : List Nat) {s : State} {c n : Nat} (h : (s.core c).leaselen = n)
    (hn : (mapGet p.leaselens c).getD p.leaselen = n) : ((cs.foldl (underPolicy p) s).core c).leaselen = n := by
  induction cs generalizing s with
  | nil => exact h
  | cons d cs ih =>
    refine ih ?_
    by_cases hd : c = d
    · subst hd
      rw [underPolicy, State.core_modCore_same]
      exact hn
    · rw [underPolicy, State.core_modCore_ne _ _ _ _ hd]
      exact h

theorem underPolicy_leaselen (p : Policy) {cs : List Nat} (s : State) {c : Nat} (hc : c ∈ cs) :
    ((cs.foldl (underPolicy p) s).core c).leaselen = (mapGet p.leaselens c).getD p.leaselen := by
  obtain ⟨as, ds, rfl⟩ := List.mem_iff_append.mp hc
  rw [List.foldl_append, List.foldl_cons]
  refine underPolicy_leaselen_kept p ds ?_ rfl
  rw [underPolicy, State.core_modCore_same]

/-- The lease length that a policy within the limits gives a core (R119). -/
theorem clampPolicy_leaselen (p : Policy) (c : Nat) :
    (mapGet (clampPolicy p).leaselens c).getD (clampPolicy p).leaselen =
      max 64 (min ((mapGet p.leaselens c).getD p.leaselen) 65536) := by
  show (mapGet (p.leaselens.map (fun e => (e.1, max 64 (min e.2 65536)))) c).getD (max 64 (min p.leaselen 65536)) = _
  rw [mapGet_map p.leaselens (fun n => max 64 (min n 65536))]
  cases mapGet p.leaselens c <;> rfl

theorem policyActivate_spec (s : State) (p : Policy) : (s.fwPending = false → exec (.policyActivate p) s = .next s) ∧
    (s.fwPending = true → ∃ t, exec (.policyActivate p) s = .next t ∧ t.fwPending = false ∧ t.mem = s.mem ∧
      t.policy = clampPolicy p ∧ (clampPolicy p).window ≤ 4096 ∧ 16 ≤ (clampPolicy p).margin ∧
      100000 ≤ (clampPolicy p).replayLimit ∧
      ∀ c, c < s.logicalCores →
        (t.core c).leaselen = max 64 (min ((mapGet p.leaselens c).getD p.leaselen) 65536)) := by
  have hexec : exec (.policyActivate p) s = .next (if s.fwPending then
      (List.range s.logicalCores).foldl (underPolicy (clampPolicy p)) { s with policy := clampPolicy p, fwPending := false }
    else s) := rfl
  refine ⟨fun h => by rw [hexec, h, if_neg Bool.false_ne_true], fun h => ?_⟩
  rw [h, if_pos rfl] at hexec
  have hrest := underPolicy_rest (clampPolicy p) (List.range s.logicalCores) { s with policy := clampPolicy p, fwPending := false }
  refine ⟨_, hexec, (congrArg State.fwPending hrest :), (congrArg State.mem hrest :), (congrArg State.policy hrest :),
    Nat.min_le_right .., Nat.le_max_right .., Nat.le_max_right .., fun c hc => ?_⟩
  rw [underPolicy_leaselen _ _ (List.mem_range.mpr hc), clampPolicy_leaselen]

/-! The command port (R390, R391, R393). -/

section Port

variable {s : State} {op : Nat} {cmd : List Byte}

theorem runCommand_discarded (h : cmd.length ≠ 64) (check : CmdCheck) : runCommand s op cmd check = .next (discard s) := by
  unfold runCommand
  rw [if_pos h]

theorem runCommand_held (hl : cmd.length = 64) (h : s.timeHold ≠ 0) (check : CmdCheck) : runCommand s op cmd check = .next s := by
  unfold runCommand
  rw [if_neg (by simp [hl]), if_pos (Or.inr h)]

theorem runCommand_taken (hl : cmd.length = 64) (h : s.timeHold = 0) (hop : byteNat cmd 0 = op) (check : CmdCheck) :
    runCommand s op cmd check = .next (if s.outOfService ∧ op ≠ 7 then refuse s (cmdTag cmd) 5
      else match check with
        | .error code => refuse s (cmdTag cmd) code
        | .ok (r, effect) => effect (journal s r op 1 (cmdTag cmd) (sha256 cmd))) := by
  unfold runCommand
  cases check <;> simp [hl, hop, h]

theorem runCommand_refused (hl : cmd.length = 64) (h : s.timeHold = 0) (hop : byteNat cmd 0 = op) (ho : s.outOfService = false)
    (code : Nat) : runCommand s op cmd (.error code) = .next (refuse s (cmdTag cmd) code) := by
  rw [runCommand_taken hl h hop, if_neg (by simp [ho])]

theorem runCommand_accepted (hl : cmd.length = 64) (h : s.timeHold = 0) (hop : byteNat cmd 0 = op) (ho : s.outOfService = false)
    (r : Nat) (effect : CmdEffect) :
    runCommand s op cmd (.ok (r, effect)) = .next (effect (journal s r op 1 (cmdTag cmd) (sha256 cmd))) := by
  rw [runCommand_taken hl h hop, if_neg (by simp [ho])]

theorem runCommand_outOfService (hl : cmd.length = 64) (h : s.timeHold = 0) (hop : byteNat cmd 0 = op) (ho : s.outOfService = true)
    (h7 : op ≠ 7) (check : CmdCheck) : runCommand s op cmd check = .next (refuse s (cmdTag cmd) 5) := by
  rw [runCommand_taken hl h hop, if_pos ⟨ho, h7⟩]

/-- A launch by the host is taken as any other command is, or waits as the port's clock does. -/
theorem hostLaunch_held (hl : cmd.length = 64) (h : s.timeHold ≠ 0) : exec (.hostLaunch cmd) s = .next s := by
  show execHostLaunch cmd s = _
  rw [execHostLaunch]
  split
  · exact runCommand_held hl h _
  · split
    · exact runCommand_held hl h _
    · split
      · rfl
      · exact runCommand_held hl h _

end Port

theorem refuse_spec (s : State) (tag : W32) (code : Nat) : (refuse s tag code).rfcnt = s.rfcnt + 1 ∧
    (refuse s tag code).mem = s.mem ∧ (refuse s tag code).jhead = s.jhead ∧
    mapGet (refuse s tag code).refusals ((s.rfcnt + 1) % 64) =
      some (tag ++ BitVec.ofNat 24 (s.rfcnt + 1) ++ BitVec.ofNat 8 code) :=
  ⟨rfl, rfl, rfl, mapGet_mapPut_same ..⟩

/-! The journal (R392, R393). -/

/-- The bytes of a journal entry after its number. -/
def entryTail (s : State) (r op st : Nat) (tag : W32) (d : List Byte) : List Byte :=
  bytesOf 8 s.time ++ (d ++ (bytesOfNat 4 tag.toNat ++ ([BitVec.ofNat 8 st, BitVec.ofNat 8 op] ++
    (bytesOfNat 2 r ++ List.replicate 8 0))))

theorem journal_mem (s : State) (r op st : Nat) (tag : W32) (d : List Byte) : (journal s r op st tag d).mem =
    writeBytes s.mem (s.jbase.toNat + 64 * (s.jhead % 262144)) (bytesOfNat 8 s.jhead ++ entryTail s r op st tag d) := by
  rw [journal, entryTail]
  simp only [rawWrite_mem, List.append_assoc]

theorem entryTail_length (s : State) (r op st : Nat) (tag : W32) {d : List Byte} (hd : d.length = 32) :
    (entryTail s r op st tag d).length = 56 := by
  simp [entryTail, hd]

/-- The front of what has been written is read back. -/
theorem readBytes_writeBytes_front (m : Memory) (a : Nat) (xs ys : List Byte) :
    readBytes (writeBytes m a (xs ++ ys)) a xs.length = xs := by
  refine List.ext_getElem (readBytes_length ..) fun i hi hx => ?_
  rw [getElem_readBytes, byteAt_writeBytes_inside _ _ _ _ (by rw [List.length_append]; omega), List.getElem_append_left hx]

theorem journal_spec (s : State) (r op st : Nat) (tag : W32) (d : List Byte) (hd : d.length = 32) :
    (journal s r op st tag d).jhead = s.jhead + 1 ∧
    (∀ a, a < s.jbase.toNat ∨ s.jbase.toNat + journalSize ≤ a →
      byteAt (journal s r op st tag d).mem a = byteAt s.mem a) ∧
    readBytes (journal s r op st tag d).mem (s.jbase.toNat + 64 * (s.jhead % 262144)) 8 = bytesOfNat 8 s.jhead := by
  refine ⟨rfl, fun a ha => ?_, ?_⟩
  · have hmod : s.jhead % 262144 < 262144 := Nat.mod_lt _ (by decide)
    rw [journal_mem]
    refine byteAt_writeBytes_outside _ _ _ _ ?_
    rw [List.length_append, bytesOfNat_length, entryTail_length s r op st tag hd]
    simp only [journalSize] at ha
    omega
  · rw [journal_mem]
    have h := readBytes_writeBytes_front s.mem (s.jbase.toNat + 64 * (s.jhead % 262144)) (bytesOfNat 8 s.jhead)
      (entryTail s r op st tag d)
    rwa [bytesOfNat_length] at h

theorem journal_rest (s : State) (r op st : Nat) (tag : W32) (d : List Byte) : { journal s r op st tag d with
    mem := s.mem, lines := s.lines, sliceVer := s.sliceVer, jhead := s.jhead } = s :=
  congrArg (fun u : State => { u with jhead := s.jhead }) (rawWrite_rest s _ _)

/-! The commands' own effects. -/

theorem endLeaseOn_jhead (s : State) (r i : Nat) (st : BitVec 2) (host : Bool) : (endLeaseOn s r i st host).jhead = s.jhead :=
  (congrArg (fun p => p.2.2) (endLeaseOn_calm s r i st host).same :)

theorem wakeReside_jhead (s : State) (r i : Nat) (v : Word) : (wakeReside s r i v).jhead = s.jhead := by
  have h : Keeps State.jhead s (wakeReside s r i v) := by
    unfold wakeReside
    refine .foldl (fun _ _ => ?_) _ _
    exact .light rfl rfl
  exact h.same

theorem endLeaseOn_entry (s : State) (r i : Nat) (st : BitVec 2) (host : Bool) :
    (((endLeaseOn s r i st host).region r).res[i % 8]'(Nat.mod_lt _ (by decide))).st = st := by
  have h : (endLeaseOn s r i st host).regions = (setEntry s r i st).regions := by
    unfold endLeaseOn
    dsimp only
    split <;> rfl
  rw [region_congr h]
  exact setEntry_entry s r i st

/-- ALLOW puts the entry that the command gives (R390). -/
def allowed (s : State) (r i : Nat) (base len : Word) : State :=
  (dropRequest (endLeaseOn s r i 0 true) r i).modRegion r (fun g =>
    { g with res := g.res.set (i % 8) ⟨base, len, 0⟩ (Nat.mod_lt _ (by decide)) })

theorem allowed_spec (s : State) (r i : Nat) (base len : Word) : (allowed s r i base len).jhead = s.jhead ∧
    ((allowed s r i base len).region r).res[i % 8]'(Nat.mod_lt _ (by decide)) = ⟨base, len, 0⟩ := by
  obtain ⟨hreg, hrest, -⟩ := putRegion_spec (dropRequest (endLeaseOn s r i 0 true) r i) r
    { (dropRequest (endLeaseOn s r i 0 true) r i).region r with
      res := ((dropRequest (endLeaseOn s r i 0 true) r i).region r).res.set (i % 8) ⟨base, len, 0⟩ (Nat.mod_lt _ (by decide)) }
  refine ⟨(congrArg State.jhead hrest :).trans (endLeaseOn_jhead ..), ?_⟩
  rw [allowed, State.modRegion, hreg, if_pos rfl]
  simp

section Commands

variable {s : State} {cmd : List Byte} {r : Nat}

theorem exec_allow (hr : commandRegion s cmd = .ok r) (hi : byteNat cmd 16 < 8) (hb : (w64At cmd 24).toNat % 4096 = 0)
    (hn : (w64At cmd 32).toNat % 4096 = 0) (h63 : (w64At cmd 24).getLsbD 63 = false) : exec (.allow cmd) s =
      runCommand s 2 cmd (.ok (r, fun s => allowed s r (byteNat cmd 16) (w64At cmd 24) (w64At cmd 32))) := by
  show execAllow cmd s = _
  rw [execAllow, hr]
  dsimp only
  rw [if_neg]
  · rfl
  · rintro (h | h | h | h)
    · omega
    · exact h hb
    · exact h hn
    · rw [h63] at h
      cases h

theorem exec_allow_bad (hr : commandRegion s cmd = .ok r)
    (h : 8 ≤ byteNat cmd 16 ∨ (w64At cmd 24).toNat % 4096 ≠ 0 ∨ (w64At cmd 32).toNat % 4096 ≠ 0 ∨ (w64At cmd 24).getLsbD 63 = true) :
    exec (.allow cmd) s = runCommand s 2 cmd (.error 1) := by
  show execAllow cmd s = _
  rw [execAllow, hr]
  dsimp only
  rw [if_pos h]

theorem exec_revoke (hr : commandRegion s cmd = .ok r) (hi : byteNat cmd 16 < 8)
    (hlen : ((s.region r).res[byteNat cmd 16 % 8]'(Nat.mod_lt _ (by decide))).len ≠ 0) : exec (.revoke cmd) s =
      runCommand s 3 cmd (.ok (r, fun s => wakeReside (dropRequest (endLeaseOn s r (byteNat cmd 16) 3 true) r (byteNat cmd 16))
        r (byteNat cmd 16) 3)) := by
  show execRevoke cmd s = _
  rw [execRevoke, hr]
  dsimp only
  rw [if_neg]
  rintro (h | h)
  · omega
  · exact hlen h

theorem exec_endCommand (hr : commandRegion s cmd = .ok r) (h8 : w64At cmd 8 ≠ 0) :
    exec (.endRegion cmd) s = runCommand s 4 cmd (.ok (r, fun s => endRegion s r none none)) := by
  show execEndRegion cmd s = _
  rw [execEndRegion, if_neg h8, hr]

theorem exec_fwload {bs : List Byte} {u : State} (hb : schedRead s (w64At cmd 8) (w64At cmd 16).toNat = some (bs, u)) :
    exec (.fwload cmd) s = runCommand s 6 cmd (if imageAccepted s bs then
        .ok (0, fun s => journalEvent { s with fwPending := true, fwMinSvn := fwVersion bs } 0 6 0)
      else .error 4) := by
  show execFwload cmd s = _
  rw [execFwload, hb]

theorem exec_hostLaunch_refused {d : List Byte} {u : State} {st : Nat} (h64 : (w64At cmd 8).toNat % 64 = 0)
    (hd : schedRead s (w64At cmd 8) 64 = some (d, u)) (hc : checkLaunch s 0 (cmdTag cmd) true d = .error st) :
    exec (.hostLaunch cmd) s = runCommand s 1 cmd (.error (if st = 4 then 5 else st)) := by
  show execHostLaunch cmd s = _
  rw [execHostLaunch]
  rw [if_pos h64, hd]
  dsimp only
  rw [hc]

theorem exec_hostLaunch_accepted {d : List Byte} {u : State} {l : Launch} (h64 : (w64At cmd 8).toNat % 64 = 0)
    (hd : schedRead s (w64At cmd 8) 64 = some (d, u)) (hc : checkLaunch s 0 (cmdTag cmd) true d = .ok l)
    (ht : l.time = 0 ∨ s.clockFaults = []) :
    exec (.hostLaunch cmd) s = runCommand s 1 cmd (.ok (l.region, fun s => acceptLaunch s l)) := by
  show execHostLaunch cmd s = _
  rw [execHostLaunch]
  rw [if_pos h64, hd]
  dsimp only
  rw [hc]
  dsimp only
  rw [if_neg]
  rintro ⟨h1, h2, -⟩
  exact ht.elim h1 h2

/-! Each command as it is taken, 64 bytes long, while the device's time runs. -/

variable (hl : cmd.length = 64) (hh : s.timeHold = 0)

include hl hh

theorem markCmd_spec (hop : byteNat cmd 0 = 7) : exec (.markCmd cmd) s = .next (journal s 0 7 1 (cmdTag cmd) (sha256 cmd)) := by
  show runCommand s 7 cmd (.ok (0, fun s => s)) = _
  rw [runCommand_taken hl hh hop, if_neg (fun h => h.2 rfl)]

theorem allow_outOfService (ho : s.outOfService = true) (hop : byteNat cmd 0 = 2) :
    exec (.allow cmd) s = .next (refuse s (cmdTag cmd) 5) := runCommand_outOfService hl hh hop ho (by decide) _

theorem otherOpCommand_spec (hop : byteNat cmd 0 = 0 ∨ 7 < byteNat cmd 0) : exec (.otherOpCommand cmd) s =
    .next (refuse s (cmdTag cmd) (if s.outOfService then 5 else 1)) := by
  show execOtherOpCommand cmd s = _
  rw [execOtherOpCommand]
  rw [if_neg (by omega)]
  cases ho : s.outOfService with
  | true => exact runCommand_outOfService hl hh rfl ho (by omega) _
  | false => exact runCommand_refused hl hh rfl ho 1

variable (ho : s.outOfService = false)

include ho

theorem allow_spec (hr : commandRegion s cmd = .ok r) :
    (byteNat cmd 0 = 2 → byteNat cmd 16 < 8 → (w64At cmd 24).toNat % 4096 = 0 → (w64At cmd 32).toNat % 4096 = 0 →
      (w64At cmd 24).getLsbD 63 = false → ∃ t, exec (.allow cmd) s = .next t ∧ t.jhead = s.jhead + 1 ∧
        (t.region r).res[byteNat cmd 16 % 8]'(Nat.mod_lt _ (by decide)) = ⟨w64At cmd 24, w64At cmd 32, 0⟩) ∧
    (byteNat cmd 0 = 2 → 8 ≤ byteNat cmd 16 ∨ (w64At cmd 24).toNat % 4096 ≠ 0 ∨ (w64At cmd 32).toNat % 4096 ≠ 0 ∨
      (w64At cmd 24).getLsbD 63 = true → exec (.allow cmd) s = .next (refuse s (cmdTag cmd) 1)) := by
  refine ⟨fun hop hi hb hn h63 => ?_, fun hop hbad => ?_⟩
  · have hspec := allowed_spec (journal s r 2 1 (cmdTag cmd) (sha256 cmd)) r (byteNat cmd 16) (w64At cmd 24) (w64At cmd 32)
    exact ⟨_, (exec_allow hr hi hb hn h63).trans (runCommand_accepted hl hh hop ho _ _), hspec.1, hspec.2⟩
  · exact (exec_allow_bad hr hbad).trans (runCommand_refused hl hh hop ho 1)

theorem revoke_spec (hr : commandRegion s cmd = .ok r) (hop : byteNat cmd 0 = 3) (hi : byteNat cmd 16 < 8)
    (hlen : ((s.region r).res[byteNat cmd 16 % 8]'(Nat.mod_lt _ (by decide))).len ≠ 0) :
    ∃ t, exec (.revoke cmd) s = .next t ∧ t.jhead = s.jhead + 1 ∧
      ((t.region r).res[byteNat cmd 16 % 8]'(Nat.mod_lt _ (by decide))).st = 3 := by
  refine ⟨_, (exec_revoke hr hi hlen).trans (runCommand_accepted hl hh hop ho _ _), ?_⟩
  generalize hj : journal s r 3 1 (cmdTag cmd) (sha256 cmd) = u
  have hhead : u.jhead = s.jhead + 1 := by rw [← hj]; rfl
  refine ⟨(wakeReside_jhead ..).trans ((endLeaseOn_jhead u ..).trans hhead), ?_⟩
  rw [region_congr (wakeReside_regions ..)]
  exact endLeaseOn_entry u r (byteNat cmd 16) 3 true

theorem endCommand_spec (hr : commandRegion s cmd = .ok r) (hop : byteNat cmd 0 = 4) (h8 : w64At cmd 8 ≠ 0) :
    exec (.endRegion cmd) s = .next (endRegion (journal s r 4 1 (cmdTag cmd) (sha256 cmd)) r none none) :=
  (exec_endCommand hr h8).trans (runCommand_accepted hl hh hop ho _ _)

theorem ackstop_spec (hop : byteNat cmd 0 = 5) : exec (.ackstop cmd) s =
    .next (if s.stoppedParts.contains (byteNat cmd 8) then
        { journal s 0 5 1 (cmdTag cmd) (sha256 cmd) with stoppedParts := s.stoppedParts.filter (fun p => p != byteNat cmd 8) }
      else refuse s (cmdTag cmd) 1) := by
  show execAckstop cmd s = _
  rw [execAckstop]
  cases hc : s.stoppedParts.contains (byteNat cmd 8) with
  | true =>
    have hs := (congrArg State.stoppedParts (journal_rest s 0 5 1 (cmdTag cmd) (sha256 cmd)) :)
    simp only [hc, if_true]
    rw [runCommand_accepted hl hh hop ho, ← hs]
  | false =>
    simp only [hc]
    exact runCommand_refused hl hh hop ho 1

theorem fwload_spec (hop : byteNat cmd 0 = 6) {bs : List Byte} {u : State}
    (hb : schedRead s (w64At cmd 8) (w64At cmd 16).toNat = some (bs, u)) : exec (.fwload cmd) s =
      .next (if imageAccepted s bs then journalEvent { journal s 0 6 1 (cmdTag cmd) (sha256 cmd) with
          fwPending := true, fwMinSvn := fwVersion bs } 0 6 0
        else refuse s (cmdTag cmd) 4) := by
  rw [exec_fwload hb]
  cases imageAccepted s bs with
  | true => exact runCommand_accepted hl hh hop ho _ _
  | false => exact runCommand_refused hl hh hop ho 4

theorem hostLaunch_spec (hop : byteNat cmd 0 = 1) (h64 : (w64At cmd 8).toNat % 64 = 0) {d : List Byte} {u : State}
    (hd : schedRead s (w64At cmd 8) 64 = some (d, u)) :
    (∀ l, checkLaunch s 0 (cmdTag cmd) true d = .ok l → l.time = 0 ∨ s.clockFaults = [] →
      exec (.hostLaunch cmd) s = .next (acceptLaunch (journal s l.region 1 1 (cmdTag cmd) (sha256 cmd)) l)) ∧
    (∀ st, checkLaunch s 0 (cmdTag cmd) true d = .error st →
      exec (.hostLaunch cmd) s = .next (refuse s (cmdTag cmd) (if st = 4 then 5 else st))) :=
  ⟨fun _ hc ht => (exec_hostLaunch_accepted h64 hd hc ht).trans (runCommand_accepted hl hh hop ho _ _),
    fun _ hc => (exec_hostLaunch_refused h64 hd hc).trans (runCommand_refused hl hh hop ho _)⟩

end Commands

/-- Settles O60, command by command: what each check gives its effect, and what that effect keeps of the journal's entry. -/
theorem hostCommands : Obligations.HostCommands := by
  unfold Obligations.HostCommands
  refine ⟨fun s p b bs hline hmem => hostMemWrite_spec hline hmem, fun s => ⟨rfl, rfl⟩, policyActivate_spec, fun s cmd h => ?_,
    refuse_spec, journal_spec, fun s cmd hl h => ?_, fun s cmd hl hh => ?_⟩
  · exact ⟨runCommand_discarded h _, runCommand_discarded h _, runCommand_discarded h _, runCommand_discarded h _,
      runCommand_discarded h _,
      runCommand_discarded h (.ok (0, fun s => s))⟩
  · exact ⟨hostLaunch_held hl h, runCommand_held hl h _, runCommand_held hl h _, runCommand_held hl h _, runCommand_held hl h _,
      runCommand_held hl h _, runCommand_held hl h (.ok (0, fun s => s))⟩
  · refine ⟨markCmd_spec hl hh, allow_outOfService hl hh, otherOpCommand_spec hl hh, fun ho => ⟨fun r hr => ?_,
      ackstop_spec hl hh ho, fun hop bs u hb => fwload_spec hl hh ho hop hb,
      fun hop h64 d u hd => hostLaunch_spec hl hh ho hop h64 hd⟩⟩
    obtain ⟨hgood, hbad⟩ := allow_spec hl hh ho hr
    exact ⟨hgood, hbad, revoke_spec hl hh ho hr, endCommand_spec hl hh ho hr⟩

end Sys2Proof.Machine
end


section
/-! A copy command that stops with a fault, and the snapshot that its end breaks (R285, R300). -/

namespace Sys2Proof.Machine

/-- A COPY of two rows of 64 bytes, each onto itself, 4,096 bytes apart; its first row has been moved. -/
def selfCopy : Running where
  cmd := { words := ⟨0xFCC00000, 0x80000000, 0x80000000, 0x80000000, 0x00000402, 0, 0, 0⟩
           v1 := 0x7FC0000002000000, v2 := 0x0000100000001000, v3 := 0x7FC0000002000000, v6 := 0
           fa := 0, fb := 0, fc := 0, slot := 0, region := 0, ctx := 0, at_ := 0, mark := 0, batch := none
           scla := 0, sclb := 0, sclc := 0, round := false, eval := none, gen := 0, trig := none }
  block := 1
  cause := none
  flags := 0
  acc := []
  ring := none
  copy := ⟨[some (some 0x7FC0000002000000, 0x7FC0000002000000)], none, []⟩

/-- One page of 4 KiB at that address, homed at core 0 and resident, with a live snapshot over it. The region has no pool for
shadows. -/
def snappedPage : State := { State.reset with
  cores := [(0, { Core.init with walks := [⟨0x2000, 12, 0xE000000002000000, []⟩] })]
  regions := [(0, { Region.root with res := Vector.replicate 8 ⟨0x7FC0000002000000, 4096, 2⟩ })]
  snaps := [⟨0, 0, 1, 0x7FC0000002000000, 4096, false, 0, 1, none, none, none⟩] }

/-- The second row lies under no lease: it stops the command, and nothing has been recorded so far. -/
theorem copyRow_selfCopy :
    copyRow snappedPage selfCopy.cmd selfCopy.copy selfCopy.block = .stopped snappedPage .outside 0x7FC0000002001000 := rfl

set_option maxRecDepth 100000 in
/-- The first row's bytes, a source and a destination at once, become undefined. That write finds no room for a shadow, so the
snapshot breaks with a record of its own before the command's. -/
theorem copyNext_selfCopy_records :
    ((copyNext snappedPage selfCopy).map (fun x => x.2.trapsInFlight.map TrapRec.cause)) =
      some [causeCode .shadowfull, causeCode .outside] := by decide

/-- Refutes O58: a copy command that stops with a fault does not always add one record alone to those on their way, since the
bytes that its end leaves undefined may break a snapshot, which has a record too. -/
theorem not_engineEvents : ¬ Obligations.EngineEvents := by
  unfold Obligations.EngineEvents
  rintro ⟨-, -, -, hcopy, -⟩
  obtain ⟨t, q, r', hnext, -, -, hrecords, -⟩ := (hcopy snappedPage snappedPage selfCopy rfl).2 _ _ copyRow_selfCopy rfl
  have hcauses := copyNext_selfCopy_records
  rw [hnext, Option.map_some, hrecords, Option.some_inj] at hcauses
  exact absurd (congrArg List.length hcauses) (Nat.ne_of_lt (Nat.lt_succ_self 1))

end Sys2Proof.Machine
end


section
/-! The form of memory: what functions on the state, on homes and on records leave.
One lemma for each function of the model, in the model's order: from a state with memory in form it leaves one with memory in
form. Only `rawWrite`, `bankWrite`, `scrambleBytes`, the failure
of a core and the two resets change memory; every other function puts such functions together, and its proof names those. -/

namespace Sys2Proof.Machine

/-- Memory is in its canonical form. -/
def Formed (s : State) : Prop := Memory.wf s.mem = true

/-- Every state that an effect of an instruction may leave has memory in form: what it does to a state in form included. -/
def EffFormed {α : Type} : Eff α → Prop
  | .ok _ t => Formed t
  | .seen _ t _ => Formed t
  | .wait f => ∀ u, Formed u → Formed (f u)
  | .pause f g => (∀ u, Formed u → Formed (f u)) ∧ ∀ u, Formed u → Formed (g u)
  | .trap _ _ w => ∀ u, Formed u → Formed (w u)

/-- The same of an effect whose value is a state too. -/
def BothFormed : Eff State → Prop
  | .ok a t => Formed a ∧ Formed t
  | .seen a t _ => Formed a ∧ Formed t
  | .wait f => ∀ u, Formed u → Formed (f u)
  | .pause f g => (∀ u, Formed u → Formed (f u)) ∧ ∀ u, Formed u → Formed (g u)
  | .trap _ _ w => ∀ u, Formed u → Formed (w u)

/-- The state that a part of a command leaves has memory in form. -/
def WorkFormed {α : Type} : Work α → Prop
  | .ok _ t => Formed t
  | _ => True

/-- The next state has memory in form. -/
def OutFormed : Host.Outcome State Fault Refusal → Prop
  | .next t => Formed t
  | _ => True

/-- The state, where there is one, has memory in form. -/
def OptFormed : Option State → Prop
  | some t => Formed t
  | none => True

/-- The same of a state that comes with a value. -/
def MaybeFormed {α : Type} : Option (α × State) → Prop
  | some x => Formed x.2
  | none => True

/-- The same of a state that comes with two values. -/
def BesideFormed {α β : Type} : Option (α × β × State) → Prop
  | some x => Formed x.2.2
  | none => True

/-- The same of a state where there is no error. -/
def ResFormed {ε : Type} : Except ε State → Prop
  | .ok t => Formed t
  | .error _ => True

/-- The same of a state that comes with a value where there is no error. -/
def ExceptFormed {ε α : Type} : Except ε (α × State) → Prop
  | .ok x => Formed x.2
  | .error _ => True

/-- What a command of the host does to a state in form leaves it in form. -/
def CheckFormed : CmdCheck → Prop
  | .ok x => ∀ u, Formed u → Formed (x.2 u)
  | .error _ => True

/-- The same of a row of a copy command. -/
def MovedFormed : Moved → Prop
  | .ready _ _ t => Formed t
  | .stopped t _ _ => Formed t
  | .blocked => True

/-- The same of a fetch. -/
def FetchedFormed : Fetched → Prop
  | .words _ t => Formed t
  | .miss _ _ t => Formed t
  | .fault _ t => Formed t

/-! How the ways in which the model puts its functions together keep the form. -/

/-- A change beside memory. -/
theorem Formed.congr {s t : State} (h : Formed s) (hm : t.mem = s.mem := by rfl) : Formed t := by
  rwa [Formed, hm]

theorem foldl_formed {β : Type} {f : State → β → State} (hf : ∀ u b, Formed u → Formed (f u b)) (xs : List β) {s : State}
    (h : Formed s) : Formed (xs.foldl f s) := by
  induction xs generalizing s with
  | nil => exact h
  | cons x xs ih => exact ih (hf s x h)

theorem OptFormed.getD {o : Option State} (ho : OptFormed o) {s : State} (h : Formed s) : Formed (o.getD s) := by
  cases o with
  | none => exact h
  | some t => exact ho

theorem OptFormed.map {o : Option State} (ho : OptFormed o) {f : State → State} (hf : ∀ u, Formed u → Formed (f u)) :
    OptFormed (o.map f) := by
  cases o with
  | none => trivial
  | some t => exact hf t ho

theorem OptFormed.pair {α : Type} {o : Option State} (ho : OptFormed o) {f : State → α × State}
    (hf : ∀ u, Formed u → Formed (f u).2) : MaybeFormed (o.map f) := by
  cases o with
  | none => trivial
  | some t => exact hf t ho

theorem maybe_formed_map {α β : Type} (o : Option α) {f : α → β × State} (hf : ∀ a, Formed (f a).2) :
    MaybeFormed (o.map f) := by
  cases o with
  | none => trivial
  | some a => exact hf a

theorem findSome_formed {β : Type} {f : β → Option State} (xs : List β) (hf : ∀ x ∈ xs, OptFormed (f x)) :
    OptFormed (xs.findSome? f) := by
  cases ho : xs.findSome? f with
  | none => trivial
  | some t =>
    obtain ⟨x, hx, hfx⟩ := List.exists_of_findSome?_eq_some ho
    have := hf x hx
    rwa [hfx] at this

theorem OptFormed.or {o o' : Option State} (ho : OptFormed o) (ho' : OptFormed o') : OptFormed (o.or o') := by
  cases o with
  | none => exact ho'
  | some t => exact ho

theorem State.reset_formed : Formed State.reset := rfl

/-! The operations on the state, and how the parts of an instruction come together. -/

section

variable {s : State} (h : Formed s)
include h

theorem State.setSlot_formed (i : Nat) (sl : Slot) : Formed (s.setSlot i sl) := h

theorem State.setCore_formed (c : Nat) (k : Core) : Formed (s.setCore c k) := (setCore_calm ..).form h

theorem State.modSlot_formed (i : Nat) (f : Slot → Slot) : Formed (s.modSlot i f) := State.setSlot_formed h ..

theorem State.modCore_formed (c : Nat) (f : Core → Core) : Formed (s.modCore c f) := State.setCore_formed h ..

theorem State.modMe_formed (f : Slot → Slot) : Formed (s.modMe f) := State.modSlot_formed h ..

theorem State.draw_formed : Formed (s.draw).2 := (draw_work ..).form h

theorem State.drawBytes_formed (n : Nat) : Formed (s.drawBytes n).2 := (drawBytes_work ..).form h

theorem State.drawWords_formed (n : Nat) : Formed (s.drawWords n).2 := (drawWords_work ..).form h

theorem State.sendRecord_formed (r : TrapRec) : Formed (s.sendRecord r) := (sendRecord_work ..).form h

theorem grantHead_formed (key : Nat) : Formed (grantHead s key) := by
  unfold grantHead
  grind [Formed, State.modSlot_formed]

theorem leaveQueue_formed (slot key : Nat) : Formed (leaveQueue s slot key) := by
  unfold leaveQueue
  grind [Formed, grantHead_formed]

theorem dropAway_formed (slot : Nat) : Formed (dropAway s slot) := by
  unfold dropAway
  grind [Formed, State.modSlot_formed]

theorem State.giveUpReservation_formed (slot : Nat) : Formed (s.giveUpReservation slot) :=
  (giveUpReservation_withdrawal ..).form h

theorem State.park_formed (slot : Nat) : Formed (s.park slot) := State.modSlot_formed h ..

theorem takeFaultOf_formed (slot : Nat) (c : Cause) (v : Word) : Formed (takeFaultOf s slot c v) :=
  (takeFaultOf_present ..).form h

theorem takeFault_formed (c : Cause) (v : Word) : Formed (takeFault s c v) := takeFaultOf_formed h ..

theorem noteFault_formed (slot : Nat) (pc : Word) : Formed (noteFault s slot pc) := by
  unfold noteFault
  grind [Formed]

theorem returnSelf_formed : Formed (returnSelf s) := State.modMe_formed h ..

omit h in
theorem Eff.watched_formed {α : Type} (b : Word) {e : Eff α} (he : EffFormed e) : EffFormed (e.watched b) := by
  unfold Eff.watched
  grind [EffFormed]

omit h in
theorem Eff.andThen_formed {α β : Type} {e : Eff α} {k : α → State → Eff β} (he : EffFormed e)
    (hk : ∀ a t, Formed t → EffFormed (k a t)) : EffFormed (e.andThen k) := by
  unfold Eff.andThen
  grind [EffFormed, Eff.watched_formed]

omit h in
theorem BothFormed.watched {e : Eff State} (he : BothFormed e) (b : Word) : BothFormed (e.watched b) := by
  cases e with
  | ok _ _ => exact he
  | seen _ _ _ => exact he
  | wait _ => exact fun _ hu => hu
  | pause _ _ => exact ⟨he.2, he.2⟩
  | trap _ _ _ => exact he

omit h in
theorem andThen_both {α : Type} {e : Eff α} {k : α → State → Eff State} (he : EffFormed e)
    (hk : ∀ a t, Formed t → BothFormed (k a t)) : BothFormed (e.andThen k) := by
  cases e with
  | ok a t => exact hk a t he
  | seen a t b => exact (hk a t he).watched b
  | wait f => exact he
  | pause f g => exact he
  | trap c v w => exact he

omit h in
theorem BothFormed.andThen {β : Type} {e : Eff State} (he : BothFormed e) {k : State → State → Eff β}
    (hk : ∀ a t, Formed a → Formed t → EffFormed (k a t)) : EffFormed (e.andThen k) := by
  cases e with
  | ok a t => exact hk a t he.1 he.2
  | seen a t b => exact Eff.watched_formed b (hk a t he.1 he.2)
  | wait f => exact he
  | pause f g => exact he
  | trap c v w => exact he

omit h in
theorem conclude_formed {s : State} (h : Formed s) {e : Eff Unit} (he : EffFormed e) : OutFormed (conclude s e) := by
  cases e with
  | ok _ _ => exact he
  | seen _ _ _ => exact takeFault_formed h ..
  | wait f => exact he s h
  | pause f _ => exact he.1 s h
  | trap _ _ w => exact takeFault_formed (he s h) ..

theorem check_formed (ok : Bool) (c : Cause) (v : Word) : EffFormed (check s ok c v) := by
  unfold check
  grind [EffFormed]

theorem State.finish_formed (pc : Word) : Formed (s.finish pc) := State.modMe_formed h ..

theorem State.retire_formed (k : Nat) : Formed (s.retire k) := State.finish_formed h ..

theorem done_formed : EffFormed (done s) := State.retire_formed h ..

theorem State.stall_formed (w : Wait) : Formed (s.stall w) := State.modMe_formed h ..

omit h in
theorem hold_formed {α : Type} {f : State → State} (hf : ∀ u, Formed u → Formed (f u)) : EffFormed (hold f : Eff α) := by
  unfold hold
  grind [EffFormed]

omit h in
theorem keepPops_formed (s : State) {s0 : State} (h : Formed s0) : Formed (keepPops s s0) := State.modMe_formed h ..

omit h in
theorem act_formed {α : Type} (s : State) {f : State → State} (hf : ∀ u, Formed u → Formed (f u)) :
    EffFormed (act s f : Eff α) := by
  unfold act
  grind [EffFormed, keepPops_formed]

omit h in
theorem stall_formed {α : Type} (w : Wait) : EffFormed (stall w : Eff α) := by
  unfold stall
  grind [State.stall_formed, hold_formed]

theorem State.sleepFor_formed (k : SleepFor) (tval : Word) : Formed (s.sleepFor k tval) := State.modMe_formed h ..

omit h in
theorem sleep_formed {α : Type} (k : SleepFor) (tval : Word) : EffFormed (sleep k tval : Eff α) := by
  unfold sleep
  grind [State.sleepFor_formed, hold_formed]

theorem expireAll_formed (c : Nat) : Formed (expireAll s c) := by
  unfold expireAll
  grind [Formed, State.modCore_formed]

theorem acquire_formed (scope : BitVec 3) : Formed (acquire s scope) := by
  unfold acquire
  grind [expireAll_formed]

theorem waitDrained_formed : EffFormed (waitDrained s) := by
  unfold waitDrained
  grind [EffFormed, State.modMe_formed, hold_formed]

omit h in
theorem keepDrain_formed (s : State) {f : State → State} (hf : ∀ u, Formed u → Formed (f u)) {s0 : State} (h : Formed s0)
    : Formed (keepDrain s f s0) := by
  unfold keepDrain
  grind [State.modMe_formed]

omit h in
theorem released_formed {α : Type} {s : State} (h : Formed s) (scope : BitVec 3) {k : State → Eff α}
    (hk : ∀ t, Formed t → EffFormed (k t)) : EffFormed (released s scope k) := by
  unfold released
  split
  · refine Eff.andThen_formed (waitDrained_formed h) fun _ s' h' => ?_
    have hk' := hk s' h'
    cases hks : k s' with
    | ok _ _ => rwa [hks] at hk'
    | seen _ _ _ => rwa [hks] at hk'
    | trap _ _ _ => rwa [hks] at hk'
    | wait f =>
      rw [hks] at hk'
      exact fun u hu => keepDrain_formed s' hk' hu
    | pause f look =>
      rw [hks] at hk'
      exact ⟨fun u hu => keepDrain_formed s' hk'.1 hu, fun u hu => keepDrain_formed s' hk'.2 hu⟩
  · exact hk s h

omit h in
theorem afterDrain_formed {α : Type} {s : State} (h : Formed s) {k : State → Eff α} (hk : ∀ t, Formed t → EffFormed (k t))
    : EffFormed (afterDrain s k) := by
  unfold afterDrain
  grind [released_formed]

theorem checkScope_formed (scope : BitVec 3) (word : W32) : EffFormed (checkScope s scope word) := check_formed h ..

theorem checkSup_formed (word : W32) : EffFormed (checkSup s word) := check_formed h ..

end

/-! Regions. -/

section

variable {s : State} (h : Formed s)
include h

theorem State.modLine_formed (l : Nat) (f : LineInfo → LineInfo) : Formed (s.modLine l f) := (modLine_work ..).form h

theorem nextVersion_formed (h : Nat) (old : BitVec 48) : Formed (nextVersion s h old).2 := by
  unfold nextVersion
  grind [Formed]

theorem invalidate_formed (bit line : Nat) : Formed (invalidate s bit line) := by
  unfold invalidate
  grind [Formed]

theorem sendInvals_formed (who : Option Waiter) (f : Nat → Bool) : Formed (sendInvals s who f) :=
  (sendInvals_work ..).form h

theorem evictLine_formed (l : Nat) : Formed (evictLine s l) := State.modLine_formed h ..

theorem makeRoom_formed (h : Nat) : Formed (makeRoom s h) := by
  unfold makeRoom
  grind [State.draw_formed, evictLine_formed, sendInvals_formed]

theorem touchLine_formed (l h : Nat) : Formed (touchLine s l h) := by
  unfold touchLine
  grind [State.modLine_formed, makeRoom_formed, nextVersion_formed]

theorem bumpLine_formed (l : Nat) : Formed (bumpLine s l) := (bumpLine_work ..).form h

theorem rawWrite_formed (p : Nat) (bs : List Byte) : Formed (rawWrite s p bs) := (rawWrite_work ..).form h

theorem rawWriteLines_formed (p : Nat) (bs : List Byte) (n : Nat) : Formed (rawWriteLines s p bs n) :=
  (rawWriteLines_work ..).form h

theorem putRegion_formed (r : Nat) (g : Region) : Formed (putRegion s r g) := (putRegion_work ..).form h

theorem State.modRegion_formed (r : Nat) (f : Region → Region) : Formed (s.modRegion r f) := putRegion_formed h ..

theorem charge_formed (r : Nat) (xs : List (BudgetName × Nat)) : OptFormed (charge s r xs) := by
  unfold charge
  grind [OptFormed, State.modRegion_formed]

theorem refund_formed (r : Nat) (xs : List (BudgetName × Nat)) : Formed (refund s r xs) := (refund_work ..).form h

end

/-! Walks and the checks of an access. -/

section

variable {s : State} (h : Formed s)
include h

theorem modWalks_formed (r : Reader) (f : List WalkEntry → List WalkEntry) : Formed (modWalks s r f) :=
  (modWalks_work ..).form h

theorem markSharers_formed (bit : Nat) (lines : List Nat) : Formed (markSharers s bit lines) :=
  (markSharers_work ..).form h

theorem walk_formed (r : Reader) (va : Nat) : Formed (walk s r va).2 := (walk_work ..).form h

theorem leafFor_formed (r : Reader) (va : Nat) : ExceptFormed (leafFor s r va) := by
  unfold leafFor
  grind [ExceptFormed, walk_formed]

theorem globalLoc_formed (w : Who) (a : Word) (n : Nat) (need : Need) : ExceptFormed (globalLoc s w a n need) := by
  unfold globalLoc
  grind [ExceptFormed, leafFor_formed]

theorem afterWalk_formed (w : Who) (a : Word) : Formed (afterWalk s w a) := (afterWalk_work ..).form h

theorem accessLoc_formed (w : Who) (a : Word) (n : Nat) (need : Need) : ExceptFormed (accessLoc s w a n need) := by
  unfold accessLoc
  split
  · cases localLoc s w a n need with
    | error _ => trivial
    | ok _ => exact h
  · exact globalLoc_formed h ..

end

/-! What happens at a home or a bank. -/

section

variable {s : State} (h : Formed s)
include h

theorem wakeCounters_formed (key len : Nat) : Formed (wakeCounters s key len) := (wakeCounters_work ..).form h

theorem bankWrite_formed (key : Nat) (bs : List Byte) : Formed (bankWrite s key bs) := (bankWrite_work ..).form h

theorem breakSnap_formed (n : Snap) (a : Word) (home : Option Nat) : Formed (breakSnap s n a home) :=
  (breakSnap_work ..).form h

theorem chooseLine_formed (r : Nat) : MaybeFormed (chooseLine s r) := by
  unfold chooseLine
  dsimp only
  split
  · trivial
  · exact maybe_formed_map _ fun _ => State.draw_formed h

theorem takePoolLine_formed (r h : Nat) : MaybeFormed (takePoolLine s r h) := by
  unfold takePoolLine
  grind [ExceptFormed, MaybeFormed, chooseLine_formed, leafFor_formed]

theorem poolMiss_formed (r h : Nat) : Formed (poolMiss s r h) := by
  unfold poolMiss
  grind [chooseLine_formed, walk_formed]

omit h in
theorem shadowStep_formed {s : State} (hs : Formed s) (a : Word) (p h : Nat) : Formed (shadowStep s a p h) := by
  unfold shadowStep
  have hnone : ∀ r ns,
      Formed (List.foldl (fun s n => breakSnap s n (a &&& ~~~ (127 : Word)) (some h)) (poolMiss s r h) ns) := fun r ns =>
    foldl_formed (fun _ _ hu => breakSnap_formed hu ..) ns (poolMiss_formed hs r h)
  split
  · exact hs
  · rename_i n ns _
    have hp := takePoolLine_formed hs n.region h
    cases htp : takePoolLine s n.region h with
    | none => simpa [htp] using hnone n.region (n :: ns)
    | some x =>
      rw [htp] at hp
      have hc := charge_formed hp n.region [(.shadows, 1)]
      cases hch : charge x.2 n.region [(.shadows, 1)] with
      | none => simpa [htp, hch] using hnone n.region (n :: ns)
      | some t =>
        rw [hch] at hc
        simp only [hch, Option.bind_some, Option.map_some]
        exact State.modLine_formed hc _ _

theorem blur_formed (bs : List Byte) (part : Option (Nat × Nat)) : Formed (blur s bs part).2 := (blur_work ..).form h

theorem recordStrong_formed (p n : Nat) : Formed (recordStrong s p n) := (recordStrong_work ..).form h

theorem clearStrong_formed (p n : Nat) : Formed (clearStrong s p n) := (clearStrong_work ..).form h

theorem homeWrite_formed (a : Word) (p h : Nat) (bs : List Byte) : Formed (homeWrite s a p h bs) := by
  unfold homeWrite
  grind [rawWrite_formed, shadowStep_formed, touchLine_formed, wakeCounters_formed]

theorem scrambleRegion_formed (r : Nat) : Formed (scrambleRegion s r) := (scrambleRegion_work ..).form h

theorem scramblePool_formed (a : Word) (n : Nat) : Formed (scramblePool s a n) := (scramblePool_work ..).form h

theorem scrambleBytes_formed (p n : Nat) : Formed (scrambleBytes s p n) := (scrambleBytes_work ..).form h

omit h in
theorem softHarm_formed (before : State) {s : State} (h : Formed s) (a : Word) (p n : Nat) :
    Formed (softHarm before s a p n) := by
  unfold softHarm
  grind [foldl_formed, scrambleBytes_formed, scramblePool_formed, scrambleRegion_formed]

theorem plainStore_formed (a : Word) (p h : Nat) (bs : List Byte) : Formed (plainStore s a p h bs) := by
  unfold plainStore
  grind [clearStrong_formed, homeWrite_formed, softHarm_formed]

theorem strongStore_formed (a : Word) (p h : Nat) (bs : List Byte) : Formed (strongStore s a p h bs) := by
  unfold strongStore
  grind [blur_formed, homeWrite_formed, recordStrong_formed, softHarm_formed]

theorem homeBytes_formed (a : Word) (p h n : Nat) : Formed (homeBytes s a p h n).2 := by
  unfold homeBytes
  grind [State.drawBytes_formed, scramblePool_formed]

theorem strongBytes_formed (a : Word) (p h n : Nat) : Formed (strongBytes s a p h n).2 := by
  unfold strongBytes
  grind [blur_formed, homeBytes_formed]

end

/-! Records of thunks. -/

section

variable {s : State} (h : Formed s)
include h

theorem recAt_formed (core : Nat) (a : Word) : MaybeFormed (recAt s core a) := by
  unfold recAt
  have hl := leafFor_formed h (Who.reader ⟨core, 0, 0⟩) (vaOf a)
  split
  · trivial
  · rename_i heq
    rw [heq] at hl
    exact maybe_formed_map _ fun _ => hl

theorem recMiss_formed (core : Nat) (a : Word) : Formed (recMiss s core a) := (recMiss_work ..).form h

theorem recRead_formed (r : RecAt) (off : Nat) : Formed (recRead s r off).2 := (recRead_work ..).form h

theorem recWrite_formed (r : RecAt) (off : Nat) (v : Word) : Formed (recWrite s r off v) := (recWrite_work ..).form h

theorem recHeader_formed (r : RecAt) : Formed (recHeader s r).2 := (recHeader_work ..).form h

theorem putHeader_formed (r : RecAt) (h : Header) : Formed (putHeader s r h) := by
  unfold putHeader
  grind [recWrite_formed]

theorem recOps_formed (r : RecAt) : Formed (recOps s r).2 := (recOps_work ..).form h

theorem State.modEval_formed (e : Nat) (f : Eval → Eval) : Formed (s.modEval e f) := (modEval_work ..).form h

theorem setLink_formed (w v : Word) : Formed (setLink s w v) := (setLink_work ..).form h

theorem waitersOf_formed (r : RecAt) : Formed (waitersOf s r).2 := (waitersOf_work ..).form h

theorem linkChain_formed (xs : List Word) : Formed (linkChain s xs) := (linkChain_work ..).form h

theorem joinWaiters_formed (r : RecAt) (w : Word) : Formed (joinWaiters s r w) := (joinWaiters_work ..).form h

theorem leaveWaiters_formed (r : RecAt) (w : Word) : Formed (leaveWaiters s r w) := (leaveWaiters_work ..).form h

theorem wakeWaiters_formed (r : RecAt) (hdl : Word) (what : WakeEvent) : Formed (wakeWaiters s r hdl what) :=
  (wakeWaiters_work ..).form h

theorem returnFrame_formed (rg : Nat) (f : Word) : Formed (returnFrame s rg f) := (returnFrame_work ..).form h

theorem freeRecord_formed (rg : Nat) (r : RecAt) (hd : Header) : Formed (freeRecord s rg r hd) :=
  (freeRecord_work ..).form h

theorem dropCount_formed (rg : Nat) (r : RecAt) (hd : Header) : Formed (dropCount s rg r hd) := (dropCount_work ..).form h

theorem dropRef_formed (core : Nat) (x : Word) : Formed (dropRef s core x) := (dropRef_work ..).form h

theorem dropSusp_formed (slot : Nat) : Formed (dropSusp s slot) := (dropSusp_work ..).form h

theorem withdrawThunk_formed (slot : Nat) : Formed (withdrawThunk s slot) := (withdrawThunk_work ..).form h

end

end Sys2Proof.Machine
end


section
/-! The form of memory: what memory accesses, synchronisation, messages and the issue of tile commands leave. -/

namespace Sys2Proof.Machine

/-! The loads and stores of a slot. -/

section

variable {s : State} (h : Formed s)
include h

theorem checkWatch_formed (a : Word) (n : Nat) (ld st : Bool) : EffFormed (checkWatch s a n ld st) := by
  unfold checkWatch
  grind [EffFormed]

theorem walkFirst_formed (a : Word) : EffFormed (walkFirst s a) := by
  unfold walkFirst
  grind [EffFormed, State.stall_formed, afterWalk_formed, hold_formed, walk_formed]

theorem slotLoc_formed (a : Word) (n : Nat) (need : Need) : EffFormed (slotLoc s a n need) := by
  unfold slotLoc
  grind [EffFormed, ExceptFormed, Eff.andThen_formed, accessLoc_formed, afterWalk_formed, walkFirst_formed]

theorem checkAlign_formed (a : Word) (n : Nat) : EffFormed (checkAlign s a n) := check_formed h ..

theorem useLine_formed (c : Nat) (a : Word) : Formed (useLine s c a) := State.modCore_formed h ..

theorem requestLine_formed (from_ : Nat) (waits : Bool) (a : Word) (n : Nat) (loc : Loc) (strong : Option Bool)
    (fwd : Option (List Byte)) (code : Bool) : Formed (requestLine s from_ waits a n loc strong fwd code) :=
  (requestLine_present ..).form h

theorem takeGot_formed (a : Word) (n : Nat) : MaybeFormed (takeGot s a n) := by
  unfold takeGot
  exact maybe_formed_map _ fun _ => State.modMe_formed h _

omit h in
theorem waitOverlap_formed (s : State) (a : Word) (n : Nat) {s0 : State} (h : Formed s0) :
    Formed (waitOverlap s a n s0) :=
  State.modMe_formed h ..

omit h in
theorem askBanks_formed (s : State) (k n : Nat) (store : Option (Word × List Byte)) (must : Bool) {s0 : State}
    (h : Formed s0) : Formed (askBanks s k n store must s0) :=
  State.modMe_formed h ..

theorem fetchBanks_formed (slot k : Nat) : Formed (fetchBanks s slot k) := State.modSlot_formed h ..

theorem bankOver_formed : Formed (bankOver s) := State.modMe_formed h ..

omit h in
theorem atService_formed {α : Type} (s : State) (k n : Nat) (must : Bool) {e : Eff α} (he : EffFormed e) :
    EffFormed (atService s k n must e) := by
  unfold atService
  grind [askBanks_formed, hold_formed]

omit h in
theorem atFreeBank_formed {α : Type} (s : State) (k n : Nat) (must : Bool) {e : Eff α} (he : EffFormed e) :
    EffFormed (atFreeBank s k n must e) := by
  unfold atFreeBank
  grind [atService_formed, stall_formed]

theorem bankRead_formed (k n : Nat) : EffFormed (bankRead s k n) := by
  unfold bankRead
  grind [EffFormed, atFreeBank_formed, bankOver_formed]

theorem bankStore_formed (a : Word) (k : Nat) (bs : List Byte) : EffFormed (bankStore s a k bs) := by
  unfold bankStore
  grind [EffFormed, askBanks_formed, bankOver_formed, bankWrite_formed, stall_formed]

theorem coreBytes_formed (a : Word) (n : Nat) (bs : List Byte) : Formed (coreBytes s a n bs).2 := by
  unfold coreBytes
  grind [State.drawBytes_formed, scramblePool_formed]

omit h in
theorem fromCore_formed {s : State} (h : Formed s) (a : Word) (n : Nat) (bs : List Byte) {ask : Option (State → State)}
    (hf : ∀ f, ask = some f → ∀ u, Formed u → Formed (f u)) : EffFormed (fromCore s a n bs ask) := by
  unfold fromCore
  grind [EffFormed, coreBytes_formed, hold_formed]

theorem fetchBytes_formed (a : Word) (n : Nat) (cached strong : Bool) : EffFormed (fetchBytes s a n cached strong) := by
  unfold fetchBytes
  have hg := takeGot_formed h a n
  split
  · grind [EffFormed]
  · rename_i heq
    rw [heq] at hg
    exact hg
  · grind [EffFormed, Eff.andThen_formed, slotLoc_formed, bankRead_formed, hold_formed, waitOverlap_formed,
    fromCore_formed,
      requestLine_formed, State.stall_formed, useLine_formed]

theorem noteRead_formed (a : Word) (bs : List Byte) : Formed (noteRead s a bs) := State.modMe_formed h ..

theorem loadBytes_formed (a : Word) (n : Nat) (cached strong : Bool) : EffFormed (loadBytes s a n cached strong) := by
  unfold loadBytes
  grind [EffFormed, Eff.andThen_formed, checkWatch_formed, fetchBytes_formed, noteRead_formed]

theorem updateCache_formed (c : Nat) (a : Word) (loc : Loc) (bs : List Byte) : Formed (updateCache s c a loc bs) :=
  State.modCore_formed h ..

theorem storeShows_formed (c : Nat) (e : SbEntry) : Formed (storeShows s c e) := by
  unfold storeShows
  grind [foldl_formed, updateCache_formed]

theorem staleLoads_formed (c : Nat) (a : Word) : Formed (staleLoads s c a) := h

theorem enterSbuf_formed (c slot region : Nat) (a : Word) (loc : Loc) (bs : List Byte) (kind : SbKind) (scope : BitVec 3)
    (after : Bool) : Formed (enterSbuf s c slot region a loc bs kind scope after) :=
  State.setCore_formed h ..

theorem takeSent_formed (a : Word) : MaybeFormed (takeSent s a) := by
  unfold takeSent
  exact maybe_formed_map _ fun _ => State.modMe_formed h _

omit h in
theorem lookAway_formed {s0 : State} (h : Formed s0) (b : Word) (bs : List Byte) (strong : Bool) :
    Formed (lookAway b bs strong s0) := by
  unfold lookAway
  grind [Formed, State.stall_formed]

omit h in
theorem lookedFirst_formed (s : State) (a : Word) {e : Eff Unit} (he : EffFormed e) : EffFormed (lookedFirst s a e) := by
  unfold lookedFirst
  grind [EffFormed]

theorem atPlace_formed (a : Word) (loc : Loc) : Formed (atPlace s a loc) := State.modMe_formed h ..

theorem storeAt_formed (a : Word) (loc : Loc) (bs : List Byte) (strong : Bool) (scope : BitVec 3) :
    EffFormed (storeAt s a loc bs strong scope) := by
  unfold storeAt
  grind [EffFormed, Formed, Eff.andThen_formed, State.stall_formed, atPlace_formed, bankStore_formed, checkWatch_formed,
    enterSbuf_formed, keepPops_formed, lookAway_formed, lookedFirst_formed, stall_formed, updateCache_formed]

theorem storeBytes_formed (a : Word) (bs : List Byte) (strong : Bool) (scope : BitVec 3) :
    EffFormed (storeBytes s a bs strong scope) := by
  unfold storeBytes
  grind [EffFormed, MaybeFormed, Eff.andThen_formed, slotLoc_formed, storeAt_formed, takeSent_formed]

theorem enterUpdate_formed (a : Word) (loc : Loc) (n : Nat) (op : BitVec 3) (v : Word) (cnt : Option Word)
    (scope : BitVec 3) (after : Bool) : Formed (enterUpdate s a loc n op v cnt scope after) :=
  enterSbuf_formed h ..

end

/-! Operands and stream registers. -/

section

variable {s : State} (h : Formed s)
include h

theorem setStream_formed (q : Nat) (st : Stream) : Formed (setStream s q st) := State.modMe_formed h ..

theorem enterChunk_formed (q : Nat) (st : Stream) : EffFormed (enterChunk s q st) := by
  unfold enterChunk
  grind [EffFormed, expireAll_formed, setStream_formed, sleep_formed]

theorem leaveChunk_formed (st : Stream) : EffFormed (leaveChunk s st) := by
  unfold leaveChunk
  grind [EffFormed, ExceptFormed, State.sendRecord_formed, accessLoc_formed, enterUpdate_formed, stall_formed]

theorem advance_formed (q : Nat) (st : Stream) : EffFormed (advance s q st) := by
  unfold advance
  grind [EffFormed, Eff.andThen_formed, leaveChunk_formed, setStream_formed]

theorem checkStream_formed (st : Stream) : EffFormed (checkStream s st) := check_formed h ..

theorem forceChunk_formed (q : Nat) (st : Stream) : Formed (forceChunk s q st).2 := by
  unfold forceChunk
  grind [expireAll_formed, setStream_formed]

theorem notePop_formed (bs : List Byte) : Formed (notePop s bs) := State.modMe_formed h ..

theorem popBytes_formed (q : Nat) (st : Stream) : EffFormed (popBytes s q st) := by
  unfold popBytes
  dsimp only
  refine Eff.andThen_formed ?_ fun x s1 h1 => ?_
  · have hc := forceChunk_formed h q st
    grind [EffFormed, Eff.andThen_formed, checkStream_formed, enterChunk_formed, fetchBytes_formed]
  · exact Eff.andThen_formed (checkWatch_formed h1 ..) fun _ s2 h2 => notePop_formed h2 _

theorem popStream_formed (q : Nat) (st : Stream) : EffFormed (popStream s q st) := by
  unfold popStream
  grind [EffFormed, Eff.andThen_formed, advance_formed, popBytes_formed]

theorem pushStream_formed (q : Nat) (st : Stream) (v : Word) : EffFormed (pushStream s q st v) := by
  unfold pushStream
  grind [EffFormed, MaybeFormed, Eff.andThen_formed, advance_formed, checkStream_formed, enterChunk_formed,
    forceChunk_formed, storeAt_formed, storeBytes_formed, takeSent_formed]

theorem probeG_formed (r : Reg) : EffFormed (probeG s r) := by
  unfold probeG
  split
  · exact h
  · dsimp only
    split
    · exact h
    · refine Eff.andThen_formed (checkStream_formed h ..) fun _ _ _ =>
        Eff.andThen_formed (enterChunk_formed h ..) fun _ _ _ =>
        Eff.andThen_formed (slotLoc_formed h ..) fun loc _ _ => Eff.andThen_formed (checkWatch_formed h ..) fun _ s h => ?_
      grind [EffFormed, hold_formed, lookAway_formed, atPlace_formed]

theorem probeBoth_formed (r q : Reg) : EffFormed (probeBoth s r q) := by
  unfold probeBoth
  grind [EffFormed, Eff.andThen_formed, probeG_formed]

theorem readG_formed (r : Reg) : EffFormed (readG s r) := by
  unfold readG
  grind [EffFormed, popStream_formed]

theorem writeG_formed (r : Reg) (v : Word) : EffFormed (writeG s r v) := by
  unfold writeG
  grind [EffFormed, State.modMe_formed, pushStream_formed]

theorem writeDone_formed (r : Reg) (v : Word) : EffFormed (writeDone s r v) := by
  unfold writeDone
  grind [Eff.andThen_formed, done_formed, writeG_formed]

theorem effectDone_formed (r : Reg) (v : Word) : EffFormed (effectDone s r v) := by
  unfold effectDone
  grind [EffFormed, Eff.andThen_formed, State.modMe_formed, probeG_formed, writeDone_formed]

end

/-! Requests at a location. -/

section

variable {s : State} (h : Formed s)
include h

theorem wakePhase_formed (key ph : Nat) : Formed (wakePhase s key ph) := h

theorem passOn_formed (key : Nat) : Formed (passOn s key) := by
  unfold passOn
  grind [Formed, grantHead_formed]

theorem joinQueue_formed (slot : Nat) (a : Word) (key n : Nat) (m : Word) (home : Option Nat) :
    Formed (joinQueue s slot a key n m home).1 := by
  unfold joinQueue
  grind [Formed, State.giveUpReservation_formed]

theorem atomFinish_formed (slot : Nat) (a : Word) (key : Nat) (m : Word) (op : AtomOp) (r : AtomRes) (home : Option Nat) :
    Formed (atomFinish s slot a key m op r home).1 := by
  unfold atomFinish
  split
  · exact passOn_formed h _
  · dsimp only
    split
    · exact foldl_formed (fun u ph hu => wakePhase_formed hu key ph) _ h
    · exact h
  · exact joinQueue_formed h ..
  · exact h

theorem atBank_formed (slot : Nat) (a : Word) (key : Nat) (op : AtomOp) : Formed (atBank s slot a key op).1 := by
  unfold atBank
  grind [atomFinish_formed, bankWrite_formed]

theorem atHomeIn_formed (debug : Bool) (slot : Nat) (a : Word) (p h : Nat) (op : AtomOp) :
    Formed (atHomeIn s debug slot a p h op).1 := by
  unfold atHomeIn
  grind [atomFinish_formed, recordStrong_formed, strongBytes_formed, strongStore_formed, touchLine_formed]

theorem atHome_formed (slot : Nat) (a : Word) (p h : Nat) (op : AtomOp) : Formed (atHome s slot a p h op).1 := by
  unfold atHome
  grind [atHomeIn_formed]

theorem lookAtHome_formed (slot : Nat) (a : Word) (p h : Nat) (op : AtomOp) : Formed (lookAtHome s slot a p h op).1 := by
  unfold lookAtHome
  grind [atHome_formed, touchLine_formed]

theorem endLease_formed (c : Nat) (a : Word) : Formed (endLease s c a) := by
  unfold endLease
  grind [State.modCore_formed, staleLoads_formed]

theorem updateFault_formed (dev : BitVec 9) (home : Option Nat) (c : Cause) (region slot : Nat) (a : Word) :
    Formed (updateFault s dev home c region slot a) :=
  (updateFault_work ..).form h

omit h in
theorem updateAt_formed {s : State} (h : Formed s) (debug : Bool) {refuse : State → Nat → Cause → State}
    (hr : ∀ u n c, Formed u → Formed (refuse u n c)) (a : Word) (loc : Loc) (op : BitVec 3) (v : Word) :
    Formed (updateAt s debug refuse a loc op v).1 := by
  unfold updateAt
  grind [bankWrite_formed, strongBytes_formed, strongStore_formed, touchLine_formed]

theorem applyUpdateFrom_formed (dev : BitVec 9) (region slot : Nat) (a : Word) (loc : Loc) (op : BitVec 3) (v : Word)
    (cnt : Option Word) : Formed (applyUpdateFrom dev s region slot a loc op v cnt).1 :=
  (applyUpdateFrom_work ..).form h

theorem applyUpdate_formed (region slot : Nat) (a : Word) (loc : Loc) (op : BitVec 3) (v : Word) (cnt : Option Word) :
    Formed (applyUpdate s region slot a loc op v cnt).1 :=
  applyUpdateFrom_formed h ..

theorem notifyFrom_formed (dev : BitVec 9) (w : Who) (a v : Word) : Formed (notifyFrom dev s w a v) :=
  (notifyFrom_work ..).form h

theorem notifyFor_formed (w : Who) (a v : Word) : Formed (notifyFor s w a v) := notifyFrom_formed h ..

end

/-! Loads, stores, fences and leases. -/

section

variable {s : State} (h : Formed s)
include h

theorem loadInstr_formed (gd ga : Reg) (n : Nat) (off : BitVec 11) (sx : Bool) :
    EffFormed (loadInstr s gd ga n off sx) := by
  unfold loadInstr
  grind [Eff.andThen_formed, checkAlign_formed, loadBytes_formed, readG_formed, writeDone_formed]

theorem storeInstr_formed (gd ga : Reg) (n : Nat) (off : BitVec 11) : EffFormed (storeInstr s gd ga n off) := by
  unfold storeInstr
  grind [Eff.andThen_formed, checkAlign_formed, done_formed, readG_formed, storeBytes_formed]

theorem execLd_formed (gd ga : Reg) (w : BitVec 2) (off : BitVec 11) : OutFormed (execLd gd ga w off s) :=
  conclude_formed h (loadInstr_formed h ..)

theorem execLdA8_formed (gd ga : Reg) (off : BitVec 11) : OutFormed (execLdA8 gd ga off s) :=
  conclude_formed h (loadInstr_formed h ..)

theorem execLdu_formed (gd ga : Reg) (w : BitVec 2) (off : BitVec 11) : OutFormed (execLdu gd ga w off s) :=
  conclude_formed h (loadInstr_formed h ..)

theorem execSt_formed (gd ga : Reg) (w : BitVec 2) (off : BitVec 11) : OutFormed (execSt gd ga w off s) :=
  conclude_formed h (storeInstr_formed h ..)

theorem execStA8_formed (gd ga : Reg) (off : BitVec 11) : OutFormed (execStA8 gd ga off s) :=
  conclude_formed h (storeInstr_formed h ..)

theorem execLdq_formed (gd ga : Reg) (_flags : BitVec 2) (off : BitVec 11) : OutFormed (execLdq gd ga _flags off s) := by
  unfold execLdq
  grind [Eff.andThen_formed, checkAlign_formed, conclude_formed, loadBytes_formed, probeBoth_formed, readG_formed,
    writeDone_formed, writeG_formed]

theorem execStq_formed (gd ga : Reg) (_flags : BitVec 2) (off : BitVec 11) : OutFormed (execStq gd ga _flags off s) := by
  unfold execStq
  grind [Eff.andThen_formed, checkAlign_formed, conclude_formed, done_formed, readG_formed, storeBytes_formed]

theorem askLine_formed (a : Word) (loc : Loc) : Formed (askLine s a loc) := requestLine_formed h ..

theorem execRenew_formed (ga : Reg) : OutFormed (execRenew ga s) := by
  unfold execRenew
  grind [Eff.andThen_formed, askLine_formed, conclude_formed, done_formed, readG_formed, walkFirst_formed]

theorem dropLines_formed (f : CacheLine → Bool) : Formed (dropLines s f) := State.modCore_formed h ..

theorem execDrop_formed (ga : Reg) : OutFormed (execDrop ga s) := by
  unfold execDrop
  grind [Eff.andThen_formed, conclude_formed, done_formed, dropLines_formed, readG_formed]

theorem endRange_formed (c : Nat) (a n : Word) : Formed (endRange s c a n) := by
  unfold endRange
  grind [endLease_formed, foldl_formed]

theorem execPrune_formed (ga gb : Reg) : OutFormed (execPrune ga gb s) := by
  unfold execPrune
  grind [Eff.andThen_formed, conclude_formed, done_formed, dropLines_formed, readG_formed]

theorem execPref_formed (ga : Reg) : OutFormed (execPref ga s) := by
  unfold execPref
  grind [Eff.andThen_formed, askLine_formed, conclude_formed, done_formed, readG_formed, walkFirst_formed]

theorem execLdacq_formed (gd ga : Reg) (scope : BitVec 3) (w : BitVec 2) (off : BitVec 11) :
    OutFormed (execLdacq gd ga scope w off s) := by
  unfold execLdacq
  grind [Eff.andThen_formed, acquire_formed, checkAlign_formed, checkScope_formed, conclude_formed, loadBytes_formed,
    readG_formed, writeDone_formed]

theorem execStrel_formed (gd ga : Reg) (scope : BitVec 3) (w : BitVec 2) (off : BitVec 11) :
    OutFormed (execStrel gd ga scope w off s) := by
  unfold execStrel
  grind [Eff.andThen_formed, checkAlign_formed, checkScope_formed, conclude_formed, done_formed, readG_formed,
    released_formed, slotLoc_formed, storeBytes_formed]

theorem execFenceAcq_formed (scope : BitVec 3) : OutFormed (execFenceAcq scope s) := by
  unfold execFenceAcq
  grind [Eff.andThen_formed, acquire_formed, checkScope_formed, conclude_formed, done_formed]

theorem execFenceRel_formed (scope : BitVec 3) : OutFormed (execFenceRel scope s) := by
  unfold execFenceRel
  grind [Eff.andThen_formed, checkScope_formed, conclude_formed, done_formed, released_formed]

theorem execFenceFull_formed (scope : BitVec 3) : OutFormed (execFenceFull scope s) := by
  unfold execFenceFull
  grind [Eff.andThen_formed, acquire_formed, checkScope_formed, conclude_formed, done_formed, released_formed]

theorem resume_formed (slot : Nat) : Formed (resume s slot) := State.modSlot_formed h ..

theorem answer_formed (slot : Nat) (r : Reply) : Formed (answer s slot r) := by
  unfold answer
  grind [State.modSlot_formed, resume_formed]

theorem answerStore_formed (slot : Nat) (a : Word) (c : Option Cause) : Formed (answerStore s slot a c) := by
  unfold answerStore
  grind [State.modSlot_formed, resume_formed]

theorem answerLook_formed (slot : Nat) (a : Word) (c : Option Cause) : Formed (answerLook s slot a c) := by
  unfold answerLook
  grind [State.modSlot_formed, resume_formed]

theorem checkedStore_formed (c : Nat) (e : SbEntry) (p h : Nat) (strong : Bool) :
    Formed (checkedStore s c e p h strong) := by
  unfold checkedStore
  grind [answerStore_formed, plainStore_formed, storeShows_formed, strongStore_formed]

theorem lookedStore_formed (e : SbEntry) (p h : Nat) (strong : Bool) : Formed (lookedStore s e p h strong) := by
  unfold lookedStore
  grind [answerLook_formed, touchLine_formed]

theorem countAdd_formed (c : Nat) (e : SbEntry) (w : Word) : Formed (countAdd s c e w) := by
  unfold countAdd
  grind [Formed, accessLoc_formed, notifyFor_formed]

theorem drainUpdate_formed (c : Nat) (e : SbEntry) (op : BitVec 3) (v : Word) (cnt : Option Word) :
    Formed (drainUpdate s c e op v cnt) := by
  unfold drainUpdate
  grind [State.draw_formed, applyUpdate_formed, countAdd_formed, endLease_formed]

theorem applyEntry_formed (c : Nat) (e : SbEntry) : Formed (applyEntry s c e) := by
  unfold applyEntry
  grind [bankWrite_formed, checkedStore_formed, drainUpdate_formed, lookedStore_formed, plainStore_formed,
    staleLoads_formed, strongStore_formed]

theorem execStoreDrain_formed (core i : Nat) : OutFormed (execStoreDrain core i s) := by
  unfold execStoreDrain
  grind [OutFormed, State.modCore_formed, applyEntry_formed]

theorem writeLanded_formed (slot : Nat) : Formed (writeLanded s slot) := by
  unfold writeLanded
  grind [Formed]

theorem execRemoteStoreAccept_formed (slot : Nat) (ans : Answer) : OutFormed (execRemoteStoreAccept slot ans s) := by
  unfold execRemoteStoreAccept
  grind [Formed, OutFormed, State.modCore_formed, answerStore_formed, storeShows_formed, writeLanded_formed]

theorem homeAnswer_formed (r : LoadReq) (p h : Nat) : Formed (homeAnswer s r p h).2 := by
  unfold homeAnswer
  grind [State.drawBytes_formed, homeBytes_formed, recordStrong_formed, touchLine_formed]

theorem execHomeLoadRequest_formed (i : Nat) : OutFormed (execHomeLoadRequest i s) := by
  unfold execHomeLoadRequest
  grind [Formed, OutFormed, homeAnswer_formed]

theorem outrun_formed (r : LoadReq) (v : BitVec 48) : Formed (outrun s r v) := h

theorem fillFrom_formed (r : LoadReq) (a : LoadAnswer) : Formed (fillFrom s r a) := (fillFrom_present ..).form h

theorem lateFault_formed (slot : Nat) (c : Cause) : Formed (lateFault s slot c) := (lateFault_present ..).form h

theorem codeReply_formed (slot : Nat) (r : LoadReq) (a : LoadAnswer) : Formed (codeReply s slot r a) :=
  (codeReply_present ..).form h

theorem deliverLoad_formed (r : LoadReq) (a : LoadAnswer) : Formed (deliverLoad s r a) := by
  unfold deliverLoad
  grind [State.modSlot_formed, codeReply_formed, fillFrom_formed, resume_formed]

theorem arriveLoad_formed (r : LoadReq) (a : LoadAnswer) : Formed (arriveLoad s r a) := (arriveLoad_present ..).form h

theorem execLoadReply_formed (src : Src RemoteData) : OutFormed (execLoadReply src s) := by
  unfold execLoadReply
  grind [Formed, OutFormed, arriveLoad_formed, deliverLoad_formed]

theorem execLeaseExpiry_formed (core i : Nat) : OutFormed (execLeaseExpiry core i s) := State.modCore_formed h ..

theorem execHomeEviction_formed (line : Nat) : OutFormed (execHomeEviction line s) := by
  unfold execHomeEviction
  grind [OutFormed, evictLine_formed, sendInvals_formed]

theorem codeHit_formed (c : Nat) (a : Word) : MaybeFormed (codeHit s c a) := by
  unfold codeHit
  grind [MaybeFormed, useLine_formed]

theorem execFetchLineFill_formed (slot : Nat) : OutFormed (execFetchLineFill slot s) := by
  unfold execFetchLineFill
  grind [ExceptFormed, MaybeFormed, OutFormed, State.modSlot_formed, accessLoc_formed, codeHit_formed, fetchBanks_formed,
    lateFault_formed, requestLine_formed, resume_formed]

theorem execStreamStallResume_formed (slot : Nat) : OutFormed (execStreamStallResume slot s) := by
  unfold execStreamStallResume
  grind [OutFormed, resume_formed]

end

/-! Atomics, tags and barriers. -/

section

variable {s : State} (h : Formed s)
include h

theorem watchAtom_formed (a : Word) (op : AtomOp) : EffFormed (watchAtom s a op) := checkWatch_formed h ..

omit h in
theorem lineWait_formed {s : State} {a : Word} {loc : Loc} {f : State → State} (hf : lineWait s a loc = some f)
    {u : State} (h : Formed u) : Formed (f u) := by
  unfold lineWait at hf
  grind [State.modMe_formed]

theorem sendAtom_formed (a : Word) (loc : Loc) (op : AtomOp) (look : Bool) : Formed (sendAtom s a loc op look) := by
  unfold sendAtom
  grind [Formed, State.giveUpReservation_formed, State.modMe_formed]

omit h in
theorem withResult_formed {s0 : State} (h : Formed s0) (v : Word) : Formed (withResult s0 v) := State.modMe_formed h ..

theorem request_formed (gd : Reg) (a : Word) (op : AtomOp) (need : Need) (rel : Bool) (scope : BitVec 3)
    (asleep : Option (Loc → SleepFor)) : EffFormed (request s gd a op need rel scope asleep) := by
  unfold request
  dsimp only
  split
  · exact fun _ hu => hu
  · exact Eff.andThen_formed (watchAtom_formed h ..) fun _ _ h => h
  · refine Eff.andThen_formed (checkAlign_formed h ..) fun _ s h => Eff.andThen_formed (slotLoc_formed h ..) fun loc s h =>
      Eff.andThen_formed (watchAtom_formed h ..) fun _ s h => Eff.andThen_formed (probeG_formed h gd) fun _ s h =>
      released_formed h _ fun s h => ?_
    have hw := fun f hf u hu => lineWait_formed (s := s) (a := a) (loc := loc) (f := f) hf (u := u) hu
    have hb := fun (u : State) hu key => atBank_formed (s := u) hu u.cur a key op
    have hbs := fun key => atBank_formed h s.cur a key op
    grind [EffFormed, hold_formed, atService_formed, act_formed, withResult_formed, sendAtom_formed, keepPops_formed,
      State.stall_formed, State.sleepFor_formed]

theorem amoInstr_formed (word : W32) (fn : BitVec 4) (gd ga gb : Reg) (scope : BitVec 3) (ord : BitVec 2) (n : Nat) :
    EffFormed (amoInstr s word fn gd ga gb scope ord n) := by
  unfold amoInstr
  grind [Eff.andThen_formed, acquire_formed, checkScope_formed, readG_formed, request_formed, writeDone_formed]

theorem execAmoAdd_formed (gd ga gb : Reg) (scope : BitVec 3) (ord : BitVec 2) (w8 : Bool) :
    OutFormed (execAmoAdd gd ga gb scope ord w8 s) :=
  conclude_formed h (amoInstr_formed h ..)

theorem execAmoAnd_formed (gd ga gb : Reg) (scope : BitVec 3) (ord : BitVec 2) (w8 : Bool) :
    OutFormed (execAmoAnd gd ga gb scope ord w8 s) :=
  conclude_formed h (amoInstr_formed h ..)

theorem execAmoOr_formed (gd ga gb : Reg) (scope : BitVec 3) (ord : BitVec 2) (w8 : Bool) :
    OutFormed (execAmoOr gd ga gb scope ord w8 s) :=
  conclude_formed h (amoInstr_formed h ..)

theorem execAmoXor_formed (gd ga gb : Reg) (scope : BitVec 3) (ord : BitVec 2) (w8 : Bool) :
    OutFormed (execAmoXor gd ga gb scope ord w8 s) :=
  conclude_formed h (amoInstr_formed h ..)

theorem execAmoMin_formed (gd ga gb : Reg) (scope : BitVec 3) (ord : BitVec 2) (w8 : Bool) :
    OutFormed (execAmoMin gd ga gb scope ord w8 s) :=
  conclude_formed h (amoInstr_formed h ..)

theorem execAmoMax_formed (gd ga gb : Reg) (scope : BitVec 3) (ord : BitVec 2) (w8 : Bool) :
    OutFormed (execAmoMax gd ga gb scope ord w8 s) :=
  conclude_formed h (amoInstr_formed h ..)

theorem execAmoMinu_formed (gd ga gb : Reg) (scope : BitVec 3) (ord : BitVec 2) (w8 : Bool) :
    OutFormed (execAmoMinu gd ga gb scope ord w8 s) :=
  conclude_formed h (amoInstr_formed h ..)

theorem execAmoMaxu_formed (gd ga gb : Reg) (scope : BitVec 3) (ord : BitVec 2) (w8 : Bool) :
    OutFormed (execAmoMaxu gd ga gb scope ord w8 s) :=
  conclude_formed h (amoInstr_formed h ..)

theorem execAmoSwap_formed (gd ga gb : Reg) (scope : BitVec 3) (ord : BitVec 2) (w8 : Bool) :
    OutFormed (execAmoSwap gd ga gb scope ord w8 s) :=
  conclude_formed h (amoInstr_formed h ..)

theorem execAmoFadd_formed (gd ga gb : Reg) (scope : BitVec 3) (ord : BitVec 2) :
    OutFormed (execAmoFadd gd ga gb scope ord s) :=
  conclude_formed h (amoInstr_formed h ..)

theorem execCas_formed (gd ga gb : Reg) (scope : BitVec 3) (sord : BitVec 2) (facq w8 : Bool) :
    OutFormed (execCas gd ga gb scope sord facq w8 s) := by
  unfold execCas
  grind [Eff.andThen_formed, acquire_formed, checkScope_formed, conclude_formed, readG_formed, request_formed,
    writeDone_formed]

theorem execLrw_formed (gd ga : Reg) (scope : BitVec 3) (w8 : Bool) : OutFormed (execLrw gd ga scope w8 s) := by
  unfold execLrw
  grind [Eff.andThen_formed, acquire_formed, checkScope_formed, conclude_formed, readG_formed, request_formed,
    writeDone_formed]

theorem execSch_formed (gd ga gb : Reg) (scope : BitVec 3) (w8 : Bool) : OutFormed (execSch gd ga gb scope w8 s) := by
  unfold execSch
  grind [Eff.andThen_formed, checkScope_formed, conclude_formed, readG_formed, request_formed, writeDone_formed]

theorem execArrive_formed (gd ga gb : Reg) (scope : BitVec 3) : OutFormed (execArrive gd ga gb scope s) := by
  unfold execArrive
  grind [Eff.andThen_formed, checkScope_formed, conclude_formed, readG_formed, request_formed, writeDone_formed]

theorem execWaitph_formed (ga gb : Reg) (scope : BitVec 3) : OutFormed (execWaitph ga gb scope s) := by
  unfold execWaitph
  grind [Eff.andThen_formed, acquire_formed, checkScope_formed, conclude_formed, done_formed, readG_formed,
    request_formed]

theorem execWaitcnt_formed (gd ga gb : Reg) (scope : BitVec 3) : OutFormed (execWaitcnt gd ga gb scope s) := by
  unfold execWaitcnt
  grind [Eff.andThen_formed, acquire_formed, checkScope_formed, conclude_formed, readG_formed, request_formed,
    writeDone_formed]

theorem execNotify_formed (ga gb : Reg) (scope : BitVec 3) : OutFormed (execNotify ga gb scope s) := by
  unfold execNotify
  grind [Eff.andThen_formed, checkAlign_formed, checkScope_formed, checkWatch_formed, conclude_formed, done_formed,
    enterUpdate_formed, readG_formed, released_formed, slotLoc_formed, stall_formed]

theorem rupdLocs_formed (a : Word) (n : Nat) (cnt : Option Word) : EffFormed (rupdLocs s a n cnt) := by
  unfold rupdLocs
  grind [EffFormed, ExceptFormed, Eff.andThen_formed, accessLoc_formed, walkFirst_formed]

theorem execRupd_formed (gd ga gb : Reg) (scope op : BitVec 3) : OutFormed (execRupd gd ga gb scope op s) := by
  unfold execRupd
  refine conclude_formed h ?_
  refine Eff.andThen_formed (checkScope_formed h ..) fun _ s h => ?_
  refine Eff.andThen_formed (readG_formed h ga) fun _ s h => ?_
  refine Eff.andThen_formed (readG_formed h gb) fun _ s h => ?_
  grind [EffFormed, Eff.andThen_formed, readG_formed, checkAlign_formed, check_formed, rupdLocs_formed,
    checkWatch_formed, released_formed, done_formed, enterUpdate_formed, stall_formed]

theorem setFull_formed (key : Nat) (f : Bool) : Formed (setFull s key f) := h

theorem satisfy_formed (slot : Nat) (v : Word) : Formed (satisfy s slot v) := by
  unfold satisfy
  grind [Formed, State.modSlot_formed]

theorem serveLoads_formed (key : Nat) (xs : List Nat) : Formed (serveLoads s key xs) := (serveLoads_held ..).form h

theorem fillWord_formed (key : Nat) (v : Word) : Formed (fillWord s key v) := by
  unfold fillWord
  grind [bankWrite_formed, serveLoads_formed, setFull_formed]

theorem serveStore_formed (key : Nat) (xs : List Nat) : Formed (serveStore s key xs) := (serveStore_held ..).form h

theorem emptyWord_formed (key : Nat) : Formed (emptyWord s key) := by
  unfold emptyWord
  grind [serveStore_formed, setFull_formed]

theorem feLoc_formed (a : Word) (need : Need) : EffFormed (feLoc s a need) := by
  unfold feLoc
  grind [EffFormed, Eff.andThen_formed, checkAlign_formed]

omit h in
theorem bankSleep_formed {s0 : State} (h : Formed s0) (k : SleepFor) (a : Word) : Formed (bankSleep k a s0) := by
  unfold bankSleep
  grind [Formed, State.sleepFor_formed]

theorem execLdfe_formed (gd ga : Reg) : OutFormed (execLdfe gd ga s) := by
  unfold execLdfe
  grind [Eff.andThen_formed, acquire_formed, act_formed, atFreeBank_formed, bankSleep_formed, checkWatch_formed,
    conclude_formed, emptyWord_formed, feLoc_formed, probeG_formed, readG_formed, withResult_formed, writeDone_formed]

theorem execLdff_formed (gd ga : Reg) : OutFormed (execLdff gd ga s) := by
  unfold execLdff
  grind [Eff.andThen_formed, acquire_formed, act_formed, atFreeBank_formed, bankSleep_formed, checkWatch_formed,
    conclude_formed, feLoc_formed, probeG_formed, readG_formed, withResult_formed, writeDone_formed]

theorem execStef_formed (ga gb : Reg) : OutFormed (execStef ga gb s) := by
  unfold execStef
  grind [Eff.andThen_formed, act_formed, atFreeBank_formed, bankSleep_formed, checkWatch_formed, conclude_formed,
    done_formed, feLoc_formed, fillWord_formed, readG_formed, released_formed]

theorem execSete_formed (ga : Reg) : OutFormed (execSete ga s) := by
  unfold execSete
  grind [Eff.andThen_formed, atFreeBank_formed, conclude_formed, done_formed, emptyWord_formed, feLoc_formed,
    readG_formed]

theorem sendBard_formed (d : BitVec 9) (n : BardNote) : Formed (sendBard s d n) := by
  unfold sendBard
  grind [Formed]

omit h in
theorem bardProgress_formed {s0 : State} (h : Formed s0) (f : Slot → Slot) : Formed (bardProgress f s0) :=
  State.modMe_formed h ..

theorem bardRound_formed (table : Word) (i n : Nat) : EffFormed (bardRound s table i n) := by
  unfold bardRound
  grind [EffFormed, Eff.andThen_formed, act_formed, bardProgress_formed, loadBytes_formed, sendBard_formed, sleep_formed]

theorem execBard_formed (gd ga gb : Reg) (scope : BitVec 3) : OutFormed (execBard gd ga gb scope s) := by
  unfold execBard
  grind [EffFormed, Eff.andThen_formed, State.modMe_formed, acquire_formed, bardRound_formed, checkAlign_formed,
    checkScope_formed, conclude_formed, probeG_formed, readG_formed, released_formed, writeDone_formed]

theorem execAtomicAtHome_formed (i : Nat) : OutFormed (execAtomicAtHome i s) := by
  unfold execAtomicAtHome
  grind [Formed, OutFormed, State.modSlot_formed, answer_formed, atHome_formed, endLease_formed, lookAtHome_formed]

theorem execLrwResend_formed (slot : Nat) : OutFormed (execLrwResend slot s) := by
  unfold execLrwResend
  grind [Formed, OutFormed]

theorem execReservationTimeout_formed (i : Nat) : OutFormed (execReservationTimeout i s) := by
  unfold execReservationTimeout
  grind [OutFormed, passOn_formed]

theorem takeNote_formed (n : BardNote) : OptFormed (takeNote s n) := by
  unfold takeNote
  grind [OptFormed, State.modSlot_formed]

theorem execBardNotificationArrival_formed (src : Src BardNote) : OutFormed (execBardNotificationArrival src s) := by
  unfold execBardNotificationArrival
  cases src with
  | mine i => grind [OutFormed, OptFormed, Formed, takeNote_formed]
  | outside n =>
    dsimp only [OutFormed]
    split
    · exact (takeNote_formed h n).getD h
    · exact h

theorem execBardResend_formed (i : Nat) : OutFormed (execBardResend i s) := by
  unfold execBardResend
  grind [Formed, OutFormed]

end

/-! Tasks. -/

section

variable {s : State} (h : Formed s)
include h

theorem answerTask_formed (w : Waiter) (r : Reply) : Formed (answerTask s w r) := (answerTask_calm ..).form h

theorem startTask_formed (i region : Nat) (pc : Word) (payload : List Byte) : Formed (startTask s i region pc payload) :=
  (startTask_held ..).form h

theorem withdrawAway_formed (i : Nat) : Formed (withdrawAway s i) := (withdrawAway_withdrawal ..).form h

theorem withdrawLoads_formed (i : Nat) : Formed (withdrawLoads s i) := (withdrawLoads_withdrawal ..).form h

theorem withdrawStore_formed (i : Nat) : Formed (withdrawStore s i) := (withdrawStore_withdrawal ..).form h

theorem withdrawSlot_formed (i : Nat) : Formed (withdrawSlot s i) := (withdrawSlot_withdrawal ..).form h

theorem sendHeld_formed (sl : Slot) : Formed (sendHeld s sl) := (sendHeld_calm ..).form h

theorem endTask_formed (i : Nat) : Formed (endTask s i) := (endTask_calm ..).form h

end

/-! Messages. -/

section

variable {s : State} (h : Formed s)
include h

theorem checkDest_formed (d : Word) : EffFormed (checkDest s d) := by
  unfold checkDest
  grind [Eff.andThen_formed, check_formed]

theorem localKey_formed (a : Word) (n : Nat) (need : Need) : EffFormed (localKey s a n need) := by
  unfold localKey
  grind [EffFormed]

theorem localRead_formed (a : Word) (n : Nat) : EffFormed (localRead s a n) := by
  unfold localRead
  grind [EffFormed, MaybeFormed, Eff.andThen_formed, bankRead_formed, localKey_formed, noteRead_formed, takeGot_formed]

theorem post_formed (src region : Nat) (d x : Word) (payload : List Byte) : Formed (post s src region d x payload) := by
  unfold post
  grind [Formed]

omit h in
theorem holding_formed (a : Word) (bs : List Byte) {e : Eff Unit} (he : EffFormed e) : EffFormed (holding a bs e) := by
  unfold holding
  grind [EffFormed, State.modMe_formed]

omit h in
theorem sendPart_formed {s : State} (h : Formed s) (word : W32) (task : Word → Bool) (gd ga gb : Reg) (dest : Option Reg)
    (scope : BitVec 3) {k : Word → Word → List Byte → State → Eff Unit}
    (hk : ∀ d x pl t, Formed t → EffFormed (k d x pl t)) : EffFormed (sendPart s word task gd ga gb dest scope k) := by
  unfold sendPart
  refine Eff.andThen_formed (checkScope_formed h ..) fun _ s h => ?_
  refine Eff.andThen_formed (readG_formed h ga) fun _ s h => ?_
  refine Eff.andThen_formed (readG_formed h gb) fun _ s h => ?_
  refine Eff.andThen_formed (readG_formed h gd) fun _ s h => ?_
  refine Eff.andThen_formed ?_ fun pl s h =>
    holding_formed _ _ (released_formed (noteRead_formed h ..) scope fun s h => hk _ _ pl s h)
  have ht := takeGot_formed h
  grind [EffFormed, Eff.andThen_formed, MaybeFormed, takeGot_formed, checkWatch_formed, checkAlign_formed, check_formed,
    localKey_formed, checkDest_formed, probeG_formed, bankRead_formed]

theorem execSend_formed (gd ga gb : Reg) (scope : BitVec 3) : OutFormed (execSend gd ga gb scope s) := by
  unfold execSend
  grind [conclude_formed, done_formed, post_formed, sendPart_formed, stall_formed]

theorem execSpawn_formed (gd ga gb : Reg) (scope : BitVec 3) : OutFormed (execSpawn gd ga gb scope s) := by
  unfold execSpawn
  grind [Formed, State.stall_formed, act_formed, conclude_formed, sendPart_formed, writeDone_formed]

theorem dropOldest_formed (slot : Nat) : Formed (dropOldest s slot) := State.modCore_formed h ..

theorem execRecv_formed (gd ga : Reg) : OutFormed (execRecv gd ga s) := by
  unfold execRecv
  refine conclude_formed h ?_
  refine Eff.andThen_formed (readG_formed h ga) fun _ s h => ?_
  refine Eff.andThen_formed ?_ fun key s h => ?_
  · split
    · exact h
    · exact Eff.andThen_formed (checkAlign_formed h ..) fun _ s h => localKey_formed h ..
  · split
    · exact sleep_formed ..
    · refine Eff.andThen_formed ?_ fun _ s h => effectDone_formed (expireAll_formed (dropOldest_formed h s.cur) _) ..
      split
      · exact h
      · exact Eff.andThen_formed (checkWatch_formed h ..) fun _ s h => bankStore_formed h ..

theorem execPeek_formed (gd : Reg) : OutFormed (execPeek gd s) := by
  unfold execPeek
  grind [conclude_formed, writeDone_formed]

theorem execYield_formed (gd ga : Reg) : OutFormed (execYield gd ga s) := by
  unfold execYield
  grind [Eff.andThen_formed, conclude_formed, readG_formed, sleep_formed, writeDone_formed]

theorem execExit_formed : OutFormed (execExit s) := endTask_formed h ..

theorem execSlotq_formed (gd : Reg) : OutFormed (execSlotq gd s) := conclude_formed h (writeDone_formed h ..)

theorem moveThread_formed (src dst : Nat) (pc : Word) (gd : Option Reg) (st : Status) :
    Formed (moveThread s src dst pc gd st) := by
  unfold moveThread
  grind [Formed, State.modCore_formed, State.modSlot_formed, State.setSlot_formed, withdrawSlot_formed]

theorem execMigrate_formed (gd ga : Reg) : OutFormed (execMigrate gd ga s) := by
  unfold execMigrate
  grind [EffFormed, Eff.andThen_formed, State.giveUpReservation_formed, checkDest_formed, conclude_formed,
    moveThread_formed, readG_formed, stall_formed, writeDone_formed]

theorem execCompletionMessagePlace_formed (core : Nat) : OutFormed (execCompletionMessagePlace core s) := by
  unfold execCompletionMessagePlace
  grind [OutFormed, State.modCore_formed]

theorem deliver_formed (m : InboxMsg) : Formed (deliver s m) := by
  unfold deliver
  grind [State.modCore_formed]

theorem execMessageArrival_formed (src : Src InboxMsg) : OutFormed (execMessageArrival src s) := by
  unfold execMessageArrival
  grind [Formed, OutFormed, deliver_formed]

theorem tryTask_formed (m : TaskMsg) : OptFormed (tryTask s m) := by
  unfold tryTask
  grind [OptFormed, charge_formed, startTask_formed]

theorem execTaskStart_formed (src : Src TaskMsg) : OutFormed (execTaskStart src s) := by
  unfold execTaskStart
  cases src with
  | mine i =>
    dsimp only [OutFormed]
    split
    · split
      · exact h
      · exact (tryTask_formed h.congr _).getD h
    · exact h
  | outside m =>
    refine (tryTask_formed h m).getD ?_
    split <;> exact h

theorem execTaskBudgetRetest_formed (i : Nat) : OutFormed (execTaskBudgetRetest i s) := by
  unfold execTaskBudgetRetest
  dsimp only [OutFormed]
  split
  · split
    · exact (tryTask_formed h.congr _).getD h
    · exact h
  · exact h

theorem execSpawnRequestArrival_formed (i : Nat) : OutFormed (execSpawnRequestArrival i s) := by
  unfold execSpawnRequestArrival
  grind [Formed, OptFormed, OutFormed, charge_formed, startTask_formed]

theorem execSpawnAnswerArrival_formed (i : Nat) : OutFormed (execSpawnAnswerArrival i s) := by
  unfold execSpawnAnswerArrival
  grind [Formed, OutFormed, answer_formed]

theorem execMigrateTransfer_formed (i : Nat) : OutFormed (execMigrateTransfer i s) := by
  unfold execMigrateTransfer
  grind [Formed, OutFormed, State.modSlot_formed, expireAll_formed]

theorem execYieldTimeout_formed (slot : Nat) : OutFormed (execYieldTimeout slot s) := by
  unfold execYieldTimeout
  grind [OutFormed, resume_formed]

theorem execCoreHot_formed (core : Nat) (hot : Bool) : OutFormed (execCoreHot core hot s) := State.modCore_formed h ..

theorem execThermalDisplacement_formed (core : Nat) : OutFormed (execThermalDisplacement core s) := by
  unfold execThermalDisplacement
  grind [OutFormed, State.modCore_formed, moveThread_formed]

end

/-! Faults, control registers and returns. -/

section

variable {s : State} (h : Formed s)
include h

theorem crApply_formed (cr : BitVec 6) (v ones : Word) : Formed (crApply s cr v ones) := by
  unfold crApply
  grind [Formed, State.modCore_formed, State.modMe_formed]

theorem crReadable_formed (cr : BitVec 6) (word : W32) : EffFormed (crReadable s cr word) := by
  unfold crReadable
  grind [EffFormed, Eff.andThen_formed, checkSup_formed]

theorem crWritable_formed (cr : BitVec 6) (word : W32) : EffFormed (crWritable s cr word) := by
  unfold crWritable
  grind [EffFormed, Eff.andThen_formed, checkSup_formed]

theorem crChange_formed (cr : BitVec 6) (op : CrOp) (word : W32) (gd ga : Reg) :
    EffFormed (crChange s cr op word gd ga) := by
  unfold crChange
  grind [EffFormed, Formed, Eff.andThen_formed, State.stall_formed, act_formed, crApply_formed, crWritable_formed,
    probeG_formed, readG_formed]

theorem execCrr_formed (gd : Reg) (cr : BitVec 6) : OutFormed (execCrr gd cr s) := by
  unfold execCrr
  grind [Eff.andThen_formed, conclude_formed, crReadable_formed, writeDone_formed]

theorem execCrw_formed (ga : Reg) (cr : BitVec 6) : OutFormed (execCrw ga cr s) := by
  unfold execCrw
  grind [Eff.andThen_formed, conclude_formed, crChange_formed, done_formed]

theorem execCrs_formed (gd ga : Reg) (cr : BitVec 6) : OutFormed (execCrs gd ga cr s) := by
  unfold execCrs
  grind [Eff.andThen_formed, conclude_formed, crChange_formed, effectDone_formed]

theorem execCrc_formed (gd ga : Reg) (cr : BitVec 6) : OutFormed (execCrc gd ga cr s) := by
  unfold execCrc
  grind [Eff.andThen_formed, conclude_formed, crChange_formed, effectDone_formed]

theorem writeBack_formed (i slot : Nat) (r : Reply) : Formed (writeBack s i slot r) := by
  unfold writeBack
  grind [Formed, answer_formed]

theorem execHgdataWrite_formed (slot : Nat) : OutFormed (execHgdataWrite slot s) := by
  unfold execHgdataWrite
  grind [Formed, OutFormed, evictLine_formed, foldl_formed, sendInvals_formed, writeBack_formed]

theorem execRafWrite_formed (slot : Nat) : OutFormed (execRafWrite slot s) := by
  unfold execRafWrite
  grind [Formed, OutFormed, writeBack_formed]

theorem execTqnoteWrite_formed (slot : Nat) : OutFormed (execTqnoteWrite slot s) := by
  unfold execTqnoteWrite
  grind [Formed, OutFormed, writeBack_formed]

theorem execTqstatWrite_formed (slot : Nat) : OutFormed (execTqstatWrite slot s) := by
  unfold execTqstatWrite
  grind [Formed, OutFormed, writeBack_formed]

theorem execTrap_formed (ga : Reg) (cc : BitVec 5) : OutFormed (execTrap ga cc s) := by
  unfold execTrap
  grind [EffFormed, Eff.andThen_formed, conclude_formed, readG_formed]

theorem execEretSelf_formed : OutFormed (execEretSelf s) := by
  unfold execEretSelf
  grind [OutFormed, returnSelf_formed, takeFault_formed]

theorem execEretResume_formed (gd ga gb : Reg) : OutFormed (execEretResume gd ga gb s) := by
  unfold execEretResume
  grind [Eff.andThen_formed, State.modSlot_formed, State.sendRecord_formed, checkSup_formed, conclude_formed,
    effectDone_formed, readG_formed]

theorem execEretEnd_formed (gd ga : Reg) : OutFormed (execEretEnd gd ga s) := by
  unfold execEretEnd
  grind [Eff.andThen_formed, checkSup_formed, conclude_formed, effectDone_formed, endTask_formed, readG_formed]

omit h in
theorem popToBanks_formed (a : Word) (key : Nat) (r : TrapRec) (rest : List TrapRec) :
    EffFormed (popToBanks s a key r rest) := by
  unfold popToBanks
  grind [EffFormed, Formed, askBanks_formed, stall_formed]

theorem execTqpop_formed (gd ga : Reg) : OutFormed (execTqpop gd ga s) := by
  unfold execTqpop
  refine conclude_formed h ?_
  refine Eff.andThen_formed (checkSup_formed h _) fun _ s h => ?_
  refine Eff.andThen_formed (readG_formed h ga) fun _ s h => ?_
  split
  · exact effectDone_formed (acquire_formed (bankOver_formed h) _) ..
  · refine Eff.andThen_formed (checkAlign_formed h ..) fun _ s h =>
      Eff.andThen_formed (localKey_formed h ..) fun key s h => ?_
    split
    · exact writeDone_formed h ..
    · refine Eff.andThen_formed (checkWatch_formed h ..) fun _ s h => ?_
      split
      · exact popToBanks_formed ..
      · split
        · exact effectDone_formed (acquire_formed (bankWrite_formed h.congr ..) _) ..
        · exact stall_formed _

theorem sendInvalidates_formed (slot : Nat) (f : Nat → Bool) : Formed (sendInvalidates s slot f) := by
  unfold sendInvalidates
  grind [Formed, sendInvals_formed]

theorem tlbinv_formed (gd : Reg) (f : Nat → Bool) : EffFormed (tlbinv s gd f) := by
  unfold tlbinv
  grind [Eff.andThen_formed, State.stall_formed, act_formed, probeG_formed, sendInvalidates_formed, writeDone_formed]

theorem execTlbinvRange_formed (gd ga gb : Reg) : OutFormed (execTlbinvRange gd ga gb s) := by
  unfold execTlbinvRange
  refine conclude_formed h ?_
  refine Eff.andThen_formed (checkSup_formed h _) fun _ s h => ?_
  split
  · exact Eff.andThen_formed (readG_formed h ga) fun _ s h => Eff.andThen_formed (readG_formed h gb) fun _ s h =>
      writeDone_formed h ..
  · exact Eff.andThen_formed (waitDrained_formed h) fun _ s h => Eff.andThen_formed (readG_formed h ga) fun b s h =>
      Eff.andThen_formed (readG_formed h gb) fun n s h => Eff.andThen_formed (checkAlign_formed h ..) fun _ s h =>
      Eff.andThen_formed (checkAlign_formed h ..) fun _ s h => Eff.andThen_formed (check_formed h ..) fun _ s h =>
      tlbinv_formed h ..

theorem execTlbinvAll_formed (gd : Reg) : OutFormed (execTlbinvAll gd s) := by
  unfold execTlbinvAll
  grind [Eff.andThen_formed, checkSup_formed, conclude_formed, tlbinv_formed, waitDrained_formed, writeDone_formed]

theorem acknowledged_formed (line : Nat) (w : Option Waiter) : Formed (acknowledged s line w) := by
  unfold acknowledged
  grind [answerTask_formed, evictLine_formed]

theorem execSharerInvalidate_formed (reader line : Nat) : OutFormed (execSharerInvalidate reader line s) := by
  unfold execSharerInvalidate
  grind [Formed, OutFormed, acknowledged_formed, foldl_formed, invalidate_formed]

theorem execNop_formed : OutFormed (execNop s) := conclude_formed h (done_formed h ..)

theorem tableChanged_formed : Formed (tableChanged s) := h

theorem retirePage_formed (page : Nat) : Formed (retirePage s page) := by
  unfold retirePage
  grind [Formed, tableChanged_formed]

theorem execLinePoison_formed (line : Nat) : OutFormed (execLinePoison line s) := by
  unfold execLinePoison
  grind [OutFormed, State.modLine_formed, State.sendRecord_formed, retirePage_formed]

theorem execUncorrectableError_formed (u : ErrorSite) : OutFormed (execUncorrectableError u s) := by
  unfold execUncorrectableError
  grind [OutFormed, State.modLine_formed, State.sendRecord_formed]

end

/-! Streams and batches. -/

section

variable {s : State} (h : Formed s)
include h

theorem execBind_formed (ga : Reg) (q : BitVec 3) : OutFormed (execBind ga q s) := by
  unfold execBind
  grind [Eff.andThen_formed, checkAlign_formed, checkWatch_formed, check_formed, conclude_formed, done_formed,
    localRead_formed, readG_formed, setStream_formed]

theorem execUnbind_formed (q : BitVec 3) : OutFormed (execUnbind q s) := by
  unfold execUnbind
  grind [State.modMe_formed, conclude_formed, done_formed]

theorem execSpos_formed (gd : Reg) (q : BitVec 3) : OutFormed (execSpos gd q s) := by
  unfold execSpos
  grind [conclude_formed, writeDone_formed]

theorem closing_formed (tval : Word) : EffFormed (closing s tval) := by
  unfold closing
  grind [EffFormed, State.modMe_formed, sleep_formed]

theorem execCloseb_formed (gd : Reg) : OutFormed (execCloseb gd s) := by
  unfold execCloseb
  grind [Eff.andThen_formed, closing_formed, conclude_formed, writeDone_formed]

theorem execWaitb_formed (gd : Reg) (n : BitVec 4) : OutFormed (execWaitb gd n s) := by
  unfold execWaitb
  grind [Eff.andThen_formed, State.modMe_formed, State.sleepFor_formed, act_formed, closing_formed, conclude_formed,
    expireAll_formed, writeDone_formed]

theorem execKset_formed (ga : Reg) (kc : BitVec 5) : OutFormed (execKset ga kc s) := by
  unfold execKset
  grind [Eff.andThen_formed, State.modCore_formed, conclude_formed, done_formed, readG_formed]

theorem execKwait_formed (gd ga : Reg) (kc : BitVec 5) : OutFormed (execKwait gd ga kc s) := by
  unfold execKwait
  grind [Eff.andThen_formed, conclude_formed, expireAll_formed, readG_formed, sleep_formed, writeDone_formed]

theorem execKread_formed (gd : Reg) (kc : BitVec 5) : OutFormed (execKread gd kc s) := by
  unfold execKread
  grind [conclude_formed, expireAll_formed, writeDone_formed]

theorem heapAt_formed (ea : Word) : EffFormed (heapAt s ea) := by
  unfold heapAt
  grind [EffFormed, Eff.andThen_formed, atFreeBank_formed, checkAlign_formed]

theorem putHeap_formed (h : Heap) (es : List Word) : Formed (putHeap s h es) := by
  unfold putHeap
  grind [bankWrite_formed]

theorem watchHeap_formed (ea : Word) (h : Option Heap) (st : Bool) : EffFormed (watchHeap s ea h st) := by
  unfold watchHeap
  grind [checkWatch_formed]

theorem execHsift_formed (gd ga gb : Reg) : OutFormed (execHsift gd ga gb s) := by
  unfold execHsift
  refine conclude_formed h ?_
  refine Eff.andThen_formed (readG_formed h ga) fun _ s h => ?_
  refine Eff.andThen_formed (readG_formed h gb) fun _ s h => ?_
  refine Eff.andThen_formed (heapAt_formed h _) fun hp s h => ?_
  split
  · exact Eff.andThen_formed (watchHeap_formed h ..) fun _ s h => writeDone_formed h ..
  · refine Eff.andThen_formed (watchHeap_formed h ..) fun _ s h => effectDone_formed ?_ ..
    split
    · exact putHeap_formed h ..
    · exact h

theorem execHtake_formed (gd ga : Reg) : OutFormed (execHtake gd ga s) := by
  unfold execHtake
  grind [Eff.andThen_formed, conclude_formed, effectDone_formed, heapAt_formed, putHeap_formed, readG_formed,
    watchHeap_formed, writeDone_formed]

end

/-! The issue of tile commands. -/

section

variable {s : State} (h : Formed s)
include h

theorem capture_formed (t : TileWords) (i : Nat) (used : Bool) : EffFormed (capture s t i used) := by
  unfold capture
  grind [EffFormed, readG_formed]

theorem pushCmd_formed (core : Nat) (c : TileCmd) : Formed (pushCmd s core c) := State.modCore_formed h ..

theorem issueTile_formed (t : TileWords) (sp : OpSpec) : EffFormed (issueTile s t sp) := by
  unfold issueTile
  grind [EffFormed, Eff.andThen_formed, State.modMe_formed, State.retire_formed, capture_formed, pushCmd_formed,
    stall_formed]

theorem execMma_formed (t : TileWords) : OutFormed (execMma t s) := conclude_formed h (issueTile_formed h ..)

theorem execMmar_formed (t : TileWords) : OutFormed (execMmar t s) := conclude_formed h (issueTile_formed h ..)

theorem execRot_formed (t : TileWords) : OutFormed (execRot t s) := conclude_formed h (issueTile_formed h ..)

theorem execZacc_formed (t : TileWords) : OutFormed (execZacc t s) := conclude_formed h (issueTile_formed h ..)

theorem execTadd_formed (t : TileWords) : OutFormed (execTadd t s) := conclude_formed h (issueTile_formed h ..)

theorem execTsub_formed (t : TileWords) : OutFormed (execTsub t s) := conclude_formed h (issueTile_formed h ..)

theorem execTmul_formed (t : TileWords) : OutFormed (execTmul t s) := conclude_formed h (issueTile_formed h ..)

theorem execTfma_formed (t : TileWords) : OutFormed (execTfma t s) := conclude_formed h (issueTile_formed h ..)

theorem execTmax_formed (t : TileWords) : OutFormed (execTmax t s) := conclude_formed h (issueTile_formed h ..)

theorem execTmin_formed (t : TileWords) : OutFormed (execTmin t s) := conclude_formed h (issueTile_formed h ..)

theorem execTexp_formed (t : TileWords) : OutFormed (execTexp t s) := conclude_formed h (issueTile_formed h ..)

theorem execTrcp_formed (t : TileWords) : OutFormed (execTrcp t s) := conclude_formed h (issueTile_formed h ..)

theorem execTrsq_formed (t : TileWords) : OutFormed (execTrsq t s) := conclude_formed h (issueTile_formed h ..)

theorem execTsilu_formed (t : TileWords) : OutFormed (execTsilu t s) := conclude_formed h (issueTile_formed h ..)

theorem execTgelu_formed (t : TileWords) : OutFormed (execTgelu t s) := conclude_formed h (issueTile_formed h ..)

theorem execTcmp_formed (t : TileWords) : OutFormed (execTcmp t s) := conclude_formed h (issueTile_formed h ..)

theorem execTsel_formed (t : TileWords) : OutFormed (execTsel t s) := conclude_formed h (issueTile_formed h ..)

theorem execTtrn_formed (t : TileWords) : OutFormed (execTtrn t s) := conclude_formed h (issueTile_formed h ..)

theorem execTred_formed (t : TileWords) : OutFormed (execTred t s) := conclude_formed h (issueTile_formed h ..)

theorem execTbcast_formed (t : TileWords) : OutFormed (execTbcast t s) := conclude_formed h (issueTile_formed h ..)

theorem execTfill_formed (t : TileWords) : OutFormed (execTfill t s) := conclude_formed h (issueTile_formed h ..)

theorem execCombine_formed (t : TileWords) : OutFormed (execCombine t s) := conclude_formed h (issueTile_formed h ..)

theorem execLdtab_formed (t : TileWords) : OutFormed (execLdtab t s) := conclude_formed h (issueTile_formed h ..)

theorem execCvt_formed (t : TileWords) : OutFormed (execCvt t s) := conclude_formed h (issueTile_formed h ..)

theorem execQnt_formed (t : TileWords) : OutFormed (execQnt t s) := conclude_formed h (issueTile_formed h ..)

theorem execDqt_formed (t : TileWords) : OutFormed (execDqt t s) := conclude_formed h (issueTile_formed h ..)

theorem execAmax_formed (t : TileWords) : OutFormed (execAmax t s) := conclude_formed h (issueTile_formed h ..)

theorem execScl_formed (t : TileWords) : OutFormed (execScl t s) := conclude_formed h (issueTile_formed h ..)

theorem execCopy_formed (t : TileWords) : OutFormed (execCopy t s) := conclude_formed h (issueTile_formed h ..)

theorem execGather_formed (t : TileWords) : OutFormed (execGather t s) := conclude_formed h (issueTile_formed h ..)

theorem execScatter_formed (t : TileWords) : OutFormed (execScatter t s) := conclude_formed h (issueTile_formed h ..)

theorem execColl_formed (t : TileWords) : OutFormed (execColl t s) := conclude_formed h (issueTile_formed h ..)

end

end Sys2Proof.Machine
end


section
/-! The form of memory: what engines leave. -/

namespace Sys2Proof.Machine

/-! The memory accesses of engines. -/

section

variable {s : State} (h : Formed s)
include h

omit h in
theorem Work.andThen_formed {α β : Type} {e : Work α} {k : α → State → Work β} (he : WorkFormed e)
    (hk : ∀ a t, Formed t → WorkFormed (k a t)) : WorkFormed (e.andThen k) := by
  unfold Work.andThen
  grind [WorkFormed]

omit h in
theorem Work.fails_formed {α : Type} (s : State) (c : Cause) (a : Word) : WorkFormed (Work.fails s c a : Work α) := by
  unfold Work.fails
  grind [WorkFormed]

theorem engLoc_formed (c : TileCmd) (a : Word) (n : Nat) (need : Need) : WorkFormed (engLoc s c a n need) := by
  unfold engLoc
  grind [ExceptFormed, WorkFormed, Work.fails_formed, accessLoc_formed, afterWalk_formed]

theorem remotePart_formed (a : Word) (read : Bool) : WorkFormed (remotePart s a read) := by
  unfold remotePart
  grind [WorkFormed, State.draw_formed, Work.fails_formed]

theorem engReadPiece_formed (c : TileCmd) (a : Word) (n : Nat) : WorkFormed (engReadPiece s c a n) := by
  unfold engReadPiece
  grind [WorkFormed, State.drawBytes_formed, Work.andThen_formed, Work.fails_formed, engLoc_formed, homeBytes_formed,
    remotePart_formed, touchLine_formed]

theorem engReads_formed (c : TileCmd) (acc : List Byte) (xs : List (Word × Nat)) : WorkFormed (engReads s c acc xs) := by
  induction xs generalizing s acc with
  | nil => exact h
  | cons p ps ih => exact Work.andThen_formed (engReadPiece_formed h ..) fun _ _ h' => ih h' _

theorem engRead_formed (c : TileCmd) (a : Word) (n : Nat) : WorkFormed (engRead s c a n) := engReads_formed h ..

theorem engAlign_formed (a : Word) (n : Nat) : WorkFormed (engAlign s a n) := by
  unfold engAlign
  grind [WorkFormed, Work.fails_formed]

theorem readRows_formed (c : TileCmd) (base : Word) (n w : Nat) (acc : List (List (List Byte))) (xs : List Nat) :
    WorkFormed (readRows s c base n w acc xs) := by
  induction xs generalizing s acc with
  | nil => exact h
  | cons i is ih => exact Work.andThen_formed (engReads_formed h ..) fun _ _ h' => ih h' _

theorem readTile_formed (c : TileCmd) (base : Word) (m n w : Nat) : WorkFormed (readTile s c base m n w) := by
  unfold readTile
  grind [Work.andThen_formed, engAlign_formed, readRows_formed]

theorem readVals_formed (c : TileCmd) (base : Word) (m n : Nat) (f : BitVec 4) :
    WorkFormed (readVals s c base m n f) := by
  unfold readVals
  grind [WorkFormed, Work.andThen_formed, readTile_formed]

theorem engCheckWrites_formed (c : TileCmd) (acc : List (Word × Loc × List Byte)) (xs : List (Word × List Byte)) :
    WorkFormed (engCheckWrites s c acc xs) := by
  induction xs generalizing s acc with
  | nil => exact h
  | cons w ws ih =>
    refine Work.andThen_formed (engLoc_formed h ..) fun loc s1 h1 => Work.andThen_formed ?_ fun _ _ h2 => ih h2 _
    cases loc with
    | away _ => exact remotePart_formed h1 ..
    | bank _ => exact h1
    | home _ _ => exact h1

theorem engWritePiece_formed (c : TileCmd) (w : Word × Loc × List Byte) : Formed (engWritePiece s c w) := by
  unfold engWritePiece
  grind [Formed, bankWrite_formed, plainStore_formed]

theorem clearPoison_formed (ws : List (Word × Loc × List Byte)) : Formed (clearPoison s ws) := by
  unfold clearPoison
  grind [State.modLine_formed, foldl_formed]

theorem engPut_formed (c : TileCmd) (ws : List (Word × List Byte)) : WorkFormed (engPut s c ws) := by
  unfold engPut
  grind [WorkFormed, Work.andThen_formed, engCheckWrites_formed, engWritePiece_formed, foldl_formed]

theorem engWrites_formed (c : TileCmd) (ws : List (Word × List Byte)) : WorkFormed (engWrites s c ws) := by
  unfold engWrites
  grind [WorkFormed, Work.andThen_formed, clearPoison_formed, engPut_formed]

theorem scramble_formed (c : TileCmd) (ps : List (Word × Nat)) : Formed (scramble s c ps) := by
  unfold scramble
  grind [WorkFormed, State.drawBytes_formed, State.draw_formed, engLoc_formed, engWritePiece_formed, foldl_formed]

theorem readScales_formed (c : TileCmd) (addr : Word) (i0 n : Nat) : WorkFormed (readScales s c addr i0 n) := by
  unfold readScales
  grind [WorkFormed, Work.andThen_formed, engAlign_formed, engRead_formed]

end

/-! The vector and conversion units. -/

section

variable {s : State} (h : Formed s)
include h

theorem writeVals_formed (c : TileCmd) (base : Word) (f : BitVec 4) (rows : List (List (Num × Bool))) :
    WorkFormed (writeVals s c base f rows) := by
  unfold writeVals
  grind [WorkFormed, Work.andThen_formed, engWrites_formed]

theorem combineWork_formed (c : TileCmd) (m n : Nat) : WorkFormed (combineWork s c m n) := by
  unfold combineWork
  grind [WorkFormed, Work.andThen_formed, engAlign_formed, engRead_formed, readRows_formed, readVals_formed,
    writeVals_formed]

theorem vectorWork_formed (c : TileCmd) : WorkFormed (vectorWork s c) := by
  unfold vectorWork
  dsimp only
  split
  · exact combineWork_formed h ..
  refine Work.andThen_formed (engAlign_formed h ..) fun _ s h => ?_
  split
  · refine Work.andThen_formed ?_ fun _ s h => writeVals_formed h ..
    split
    · exact h
    · exact Work.andThen_formed (readVals_formed h ..) fun _ s h => h
  split
  · exact Work.andThen_formed (readTile_formed h ..) fun _ s h => Work.andThen_formed (engWrites_formed h ..) fun _ s h => h
  split
  · refine Work.andThen_formed ?_ fun _ s h => writeVals_formed h ..
    split <;> exact readVals_formed h ..
  refine Work.andThen_formed (readVals_formed h ..) fun x s h => ?_
  split
  · exact writeVals_formed h ..
  split
  · exact writeVals_formed h ..
  refine Work.andThen_formed (readVals_formed h ..) fun y s h => ?_
  split
  · exact Work.andThen_formed (engWrites_formed h ..) fun _ s h => h
  split
  · exact Work.andThen_formed (readVals_formed h ..) fun _ s h => Work.andThen_formed (engWrites_formed h ..) fun _ s h => h
  split
  · exact Work.andThen_formed (readVals_formed h ..) fun _ s h => writeVals_formed h ..
  · exact writeVals_formed h ..

theorem ldtabWork_formed (c : TileCmd) : WorkFormed (ldtabWork s c) := by
  unfold ldtabWork
  grind [WorkFormed, State.modCore_formed, Work.andThen_formed, Work.fails_formed, engAlign_formed, engRead_formed]

theorem qntWork_formed (c : TileCmd) : WorkFormed (qntWork s c) := by
  unfold qntWork
  grind [WorkFormed, Work.andThen_formed, Work.fails_formed, engAlign_formed, engRead_formed, engWrites_formed,
    foldl_formed, readVals_formed]

theorem convertWork_formed (c : TileCmd) : WorkFormed (convertWork s c) := by
  unfold convertWork
  grind [WorkFormed, Work.andThen_formed, Work.fails_formed, engAlign_formed, engRead_formed, engWrites_formed,
    foldl_formed, ldtabWork_formed, qntWork_formed, readScales_formed, readVals_formed, writeVals_formed]

end

/-! The matrix unit. -/

section

variable {s : State} (h : Formed s)
include h

theorem readRowCount_formed (c : TileCmd) : WorkFormed (readRowCount s c) := by
  unfold readRowCount
  grind [WorkFormed, State.drawBytes_formed, Work.andThen_formed, Work.fails_formed, engAlign_formed, engLoc_formed,
    recordStrong_formed, remotePart_formed, strongBytes_formed, touchLine_formed]

theorem readWholeB_formed (c : TileCmd) : WorkFormed (readWholeB s c) := by
  unfold readWholeB
  grind [WorkFormed, Work.andThen_formed, engAlign_formed, engRead_formed]

theorem readB_formed (r : Running) : WorkFormed (readB s r) := by
  unfold readB
  grind [WorkFormed, Work.andThen_formed, readVals_formed, readWholeB_formed]

theorem rowScales_formed (c : TileCmd) (addr : Word) (i0 n : Nat) : WorkFormed (rowScales s c addr i0 n) := by
  unfold rowScales
  grind [WorkFormed, Work.andThen_formed, readScales_formed]

theorem mmaBlock_formed (r : Running) : WorkFormed (mmaBlock s r) := by
  unfold mmaBlock
  grind [WorkFormed, State.setCore_formed, Work.andThen_formed, engAlign_formed, readB_formed, readRowCount_formed,
    readVals_formed, readWholeB_formed, rowScales_formed]

theorem mmaHarm_formed (r : Running) : Formed (mmaHarm s r) := by
  unfold mmaHarm
  grind [State.drawWords_formed, State.modCore_formed, foldl_formed]

theorem rotWork_formed (c : TileCmd) : WorkFormed (rotWork s c) := by
  unfold rotWork
  grind [WorkFormed, State.modCore_formed, Work.andThen_formed, engAlign_formed, foldl_formed, readVals_formed,
    writeVals_formed]

theorem zaccWork_formed (c : TileCmd) : WorkFormed (zaccWork s c) := State.modCore_formed h ..

theorem rotHarm_formed (c : TileCmd) : Formed (rotHarm s c) := by
  unfold rotHarm
  grind [State.drawWords_formed, State.modCore_formed, foldl_formed]

end

/-! Copy commands. -/

section

variable {s : State} (h : Formed s)
include h

theorem rowMove_formed (c : TileCmd) (i : Nat) : WorkFormed (rowMove s c i) := by
  unfold rowMove
  grind [WorkFormed, Work.andThen_formed, engRead_formed]

theorem movesOf_formed (c : TileCmd) (acc : List RowMove) (xs : List Nat) : BesideFormed (movesOf s c acc xs) := by
  induction xs generalizing s acc with
  | nil => exact h
  | cons i is ih =>
    unfold movesOf
    grind [rowMove_formed, WorkFormed, BesideFormed, Formed]

theorem checkBeats_formed (c : TileCmd) (acc : List (List (Word × Loc × List Byte))) (xs : List (Word × List Byte)) :
    WorkFormed (checkBeats s c acc xs) := by
  induction xs generalizing s acc with
  | nil => exact h
  | cons b bs ih => exact Work.andThen_formed (engCheckWrites_formed h ..) fun _ _ h' => ih h' _

theorem rowBeats_formed (c : TileCmd) (src : Option Word) (dst : Word) : WorkFormed (rowBeats s c src dst) := by
  unfold rowBeats
  grind [WorkFormed, Work.andThen_formed, checkBeats_formed, engRead_formed]

theorem rowClears_formed (c : TileCmd) (moved : List RowMove) (at_ : List (Loc × Nat)) :
    Formed (rowClears s c moved at_) := by
  unfold rowClears
  grind [State.modLine_formed, foldl_formed]

theorem rowHarm_formed (c : TileCmd) (dst : Word) : Formed (rowHarm s c dst) := scramble_formed h ..

theorem nextMove_formed (c : TileCmd) (p : CopyProgress) (i : Nat) : WorkFormed (nextMove s c p i) := by
  unfold nextMove
  grind [WorkFormed, Work.fails_formed, rowMove_formed]

theorem rowStops_formed (c : TileCmd) (dst : Word) (e : Cause) (a : Word) : MovedFormed (rowStops s c dst e a) := by
  unfold rowStops
  grind [MovedFormed, rowHarm_formed]

theorem copyRow_formed (c : TileCmd) (p : CopyProgress) (i : Nat) : MovedFormed (copyRow s c p i) := by
  unfold copyRow
  grind [Formed, MovedFormed, WorkFormed, nextMove_formed, rowBeats_formed, rowStops_formed]

omit h in
theorem copyRefused_formed {s : State} (h : Formed s) (c : TileCmd) {m : Moved} (hm : copyRefused s c = some m) :
    MovedFormed m := by
  unfold copyRefused at hm
  obtain ⟨a, -, rfl⟩ := Option.map_eq_some_iff.mp hm
  split
  · exact h
  · exact rowStops_formed h ..

theorem copyAhead_formed (c : TileCmd) : BesideFormed (copyAhead s c) := by
  unfold copyAhead
  split
  · have hm := movesOf_formed h c [] (List.range c.words.m)
    cases ho : movesOf s c [] (List.range c.words.m) with
    | none => trivial
    | some x =>
      rw [ho] at hm
      exact hm
  · exact h

theorem copyEnd_formed (c : TileCmd) (rows : List RowMove) : Formed (copyEnd s c rows) := scramble_formed h ..

end

/-! How engines take and complete commands. -/

section

variable {s : State} (h : Formed s)
include h

theorem testTrigger_formed (core : Nat) (c : TileCmd) : Formed (testTrigger s core c).2.2 := by
  unfold testTrigger
  grind [Formed, WorkFormed, Work.andThen_formed, engAlign_formed, engRead_formed]

theorem scanQueue_formed (core : Nat) (e : Engine) (f : TileCmd → Bool) (late : Bool) (xs : List TileCmd) :
    Formed (scanQueue s core e f late xs).2.2 := by
  induction xs generalizing s late with
  | nil => exact h
  | cons c cs ih =>
    unfold scanQueue
    grind [testTrigger_formed]

theorem takeFrom_formed (core : Nat) (e : Engine) (f : TileCmd → Bool) (prio : Bool) :
    Formed (takeFrom s core e f prio).2 := by
  unfold takeFrom
  grind [State.modCore_formed, scanQueue_formed]

theorem takeCmd_formed (core : Nat) (e : Engine) (f : TileCmd → Bool) (prio : Nat) :
    Formed (takeCmd s core e f prio).2 := by
  unfold takeCmd
  grind [takeFrom_formed]

theorem unqueue_formed (core : Nat) (c : TileCmd) (p : Bool) : Formed (unqueue s core c p) := State.modCore_formed h ..

theorem takeMatrix_formed (core prio : Nat) : Formed (takeMatrix s core prio).2 := by
  unfold takeMatrix
  grind [takeCmd_formed]

theorem engineFault_formed (c : TileCmd) (e : Cause) (a : Word) : Formed (engineFault s c e a) := by
  unfold engineFault
  grind [State.sendRecord_formed]

omit h in
theorem startWhole_formed {s : State} (h : Formed s) (c : TileCmd) {w : Work (BitVec 3)} (hw : WorkFormed w)
    (dest : List (Word × Nat)) : MaybeFormed (startWhole s c w dest) := by
  unfold startWhole
  split
  · exact engineFault_formed h ..
  · cases w with
    | ok _ _ => exact hw
    | blocked => trivial
    | fault e a n =>
      dsimp only
      split
      · trivial
      · exact engineFault_formed (scramble_formed (s := { s with freeCtr := n }) h c dest) c e a

theorem runBlock_formed (r : Running) : MaybeFormed (runBlock s r) := by
  unfold runBlock
  grind [Formed, MaybeFormed, WorkFormed, engineFault_formed, mmaBlock_formed, mmaHarm_formed]

theorem injectorHandoff_formed (core : Nat) (r : Running) : Formed (injectorHandoff s core r) := by
  unfold injectorHandoff
  grind [State.modCore_formed]

theorem startMatrix_formed (core : Nat) (c : TileCmd) : MaybeFormed (startMatrix s core c) := by
  unfold startMatrix
  grind [MaybeFormed, State.setCore_formed, engineFault_formed, injectorHandoff_formed, rotHarm_formed, rotWork_formed,
    runBlock_formed, startWhole_formed, zaccWork_formed]

theorem dispatchCore_formed (e : Engine) (core : Nat) : Formed (dispatchCore s e core) := by
  unfold dispatchCore
  grind [MaybeFormed, State.modCore_formed, convertWork_formed, startMatrix_formed, startWhole_formed, takeCmd_formed,
    takeMatrix_formed, unqueue_formed, vectorWork_formed]

theorem takeCopy_formed (xs : List Nat) : Formed (takeCopy s xs).2 := by
  induction xs generalizing s with
  | nil => exact h
  | cons core cs ih =>
    unfold takeCopy
    grind [takeCmd_formed]

theorem leaveCore_formed (core : Nat) (x : CopyFound) : Formed (leaveCore s core x).2 := by
  unfold leaveCore
  grind [State.modCore_formed, unqueue_formed]

theorem copyStops_formed (r : Running) (e : Cause) (a : Word) : Formed (copyStops s r e a).2 := by
  unfold copyStops
  grind [copyEnd_formed, engineFault_formed, rowClears_formed]

theorem rowDone_formed (r : Running) : Formed (rowDone s r).2 := by
  unfold rowDone
  grind [copyEnd_formed, rowClears_formed]

theorem copyBeat_formed (r : Running) : Formed (copyBeat s r).2 := by
  unfold copyBeat
  grind [engWritePiece_formed, foldl_formed, rowDone_formed]

theorem copyNext_formed (r : Running) : MaybeFormed (copyNext s r) := by
  unfold copyNext
  grind [MaybeFormed, MovedFormed, copyBeat_formed, copyRow_formed, copyStops_formed]

theorem copyStart_formed (r : Running) : MaybeFormed (copyStart s r) := by
  unfold copyStart
  have hr := fun m => copyRefused_formed h r.cmd (m := m)
  grind [MaybeFormed, BesideFormed, MovedFormed, engineFault_formed, copyAhead_formed, copyNext_formed]

theorem dispatchCopy_formed (cl : Nat) : Formed (dispatchCopy s cl) := by
  unfold dispatchCopy
  grind [Formed, MaybeFormed, copyNext_formed, copyStart_formed, leaveCore_formed, takeCopy_formed]

theorem stageWork_formed (c : TileCmd) (stage : Word) (p : Nat) : WorkFormed (stageWork s c stage p) := by
  unfold stageWork
  grind [WorkFormed, State.drawBytes_formed, engWrites_formed]

theorem collAdvance_formed (i : Nat) : Formed (collAdvance s i) := by
  unfold collAdvance
  grind [Formed, WorkFormed, Work.andThen_formed, engineFault_formed, foldl_formed, scramble_formed, stageWork_formed,
    writeVals_formed]

theorem collRead_formed (c : TileCmd) : WorkFormed (collRead s c) := by
  unfold collRead
  refine Work.andThen_formed (engAlign_formed h ..) fun _ s h => Work.andThen_formed (engAlign_formed h ..) fun _ s h =>
    Work.andThen_formed (engAlign_formed h ..) fun _ s h => Work.andThen_formed (engRead_formed h ..) fun d s h => ?_
  dsimp only
  split
  · trivial
  · exact Work.andThen_formed (engAlign_formed h ..) fun _ s h => Work.andThen_formed (engAlign_formed h ..) fun _ s h =>
      Work.andThen_formed (engRead_formed h ..) fun _ s h => Work.andThen_formed (readVals_formed h ..) fun _ s h => h

theorem collStart_formed (c : TileCmd) : WorkFormed (collStart s c) := by
  unfold collStart
  grind [WorkFormed, Work.andThen_formed, collRead_formed, stageWork_formed]

theorem countColl_formed (c : TileCmd) : Formed (countColl s c).2 := by
  unfold countColl
  grind [Formed, Work.andThen_formed, engAlign_formed, engRead_formed]

theorem stageLeft_formed (r : CollRun) : Formed (stageLeft s r) := by
  unfold stageLeft
  grind [WorkFormed, stageWork_formed]

theorem collFails_formed (i : Nat) (r : CollRun) (e : Cause) : Formed (collFails s i r e) := engineFault_formed h ..

theorem joinPartial_formed (p : Partial) : Formed (joinPartial s p) := by
  unfold joinPartial
  grind [Formed, State.drawWords_formed, collAdvance_formed, collFails_formed]

theorem takeEarly_formed : Formed (takeEarly s) := by
  unfold takeEarly
  grind [Formed, foldl_formed, joinPartial_formed]

theorem dispatchColl_formed (core : Nat) : Formed (dispatchColl s core) := by
  unfold dispatchColl
  grind [Formed, WorkFormed, State.modCore_formed, collAdvance_formed, collStart_formed, countColl_formed,
    engineFault_formed, scramble_formed, takeCmd_formed, takeEarly_formed, unqueue_formed]

theorem execTileDispatch_formed (e : Engine) (unit : Nat) : OutFormed (execTileDispatch e unit s) := by
  unfold execTileDispatch
  grind [OutFormed, dispatchColl_formed, dispatchCopy_formed, dispatchCore_formed]

theorem modTask_formed (c : TileCmd) (f : Slot → Slot) : Formed (modTask s c f) := by
  unfold modTask
  grind [Formed, State.modSlot_formed]

theorem placeMessage_formed (core : Nat) (c : TileCmd) (cause : Option Cause) : Formed (placeMessage s core c cause) := by
  unfold placeMessage
  grind [Formed, State.modCore_formed]

theorem bumpCounter_formed (core ctx : Nat) (bk : BitVec 5) : Formed (bumpCounter s core ctx bk) := by
  unfold bumpCounter
  grind [Formed, State.modCore_formed]

theorem finishCmd_formed (core : Nat) (r : Running) : Formed (finishCmd s core r) := by
  unfold finishCmd
  grind [Formed, bumpCounter_formed, modTask_formed, placeMessage_formed]

theorem tileCompletion_formed (e : Engine) (unit : Nat) : Formed (tileCompletion e unit s) := by
  unfold tileCompletion
  grind [Formed, State.modCore_formed, finishCmd_formed]

theorem execRingHandoff_formed (core : Nat) : OutFormed (execRingHandoff core s) := by
  unfold execRingHandoff
  grind [OutFormed, State.modCore_formed]

theorem execMatrixBlockEnd_formed (core : Nat) : OutFormed (execMatrixBlockEnd core s) := by
  unfold execMatrixBlockEnd
  grind [MaybeFormed, OutFormed, State.modCore_formed, injectorHandoff_formed, runBlock_formed]

theorem execCollTimeout_formed (i : Nat) : OutFormed (execCollTimeout i s) := by
  unfold execCollTimeout
  grind [OutFormed, collFails_formed, stageLeft_formed]

theorem execPartialResultArrival_formed (p : Partial) : OutFormed (execPartialResultArrival p s) :=
  joinPartial_formed h ..

end

end Sys2Proof.Machine
end


section
/-! The form of memory: what snapshots, thunks, the shuffle and regions leave. -/

namespace Sys2Proof.Machine

/-! Snapshots. -/

section

variable {s : State} (h : Formed s)
include h

theorem putStack_formed (r : Nat) : Formed (putStack s r) := State.modRegion_formed h ..

theorem execSnap_formed (gd ga gb : Reg) : OutFormed (execSnap gd ga gb s) := by
  unfold execSnap
  refine conclude_formed h ?_
  refine Eff.andThen_formed (readG_formed h ga) fun _ s h => ?_
  refine Eff.andThen_formed (readG_formed h gb) fun _ s h => ?_
  split
  · exact writeDone_formed h ..
  · refine Eff.andThen_formed (checkAlign_formed h ..) fun _ s h => Eff.andThen_formed (check_formed h ..) fun _ s h =>
      Eff.andThen_formed (check_formed h ..) fun _ s h => ?_
    split
    · exact fun _ hu => hu
    · refine afterDrain_formed h fun s h => ?_
      dsimp only
      split
      · exact fun _ hu => hu
      · refine Eff.andThen_formed (probeG_formed h gd) fun _ s h => act_formed s fun u hu => ?_
        exact State.stall_formed (putStack_formed hu.congr _) _

theorem popSnap_formed (n : Snap) (reject : Bool) (who : Option Waiter) : Formed (popSnap s n reject who) := by
  unfold popSnap
  grind [Formed, putStack_formed]

theorem innermost_formed (id : Word) : EffFormed (innermost s id) := by
  unfold innermost
  grind [EffFormed]

omit h in
theorem endSnap_formed {α : Type} (s : State) (n : Snap) (reject : Bool) : EffFormed (endSnap s n reject : Eff α) := by
  unfold endSnap
  grind [State.stall_formed, act_formed, popSnap_formed]

theorem execAccept_formed (ga : Reg) : OutFormed (execAccept ga s) := by
  unfold execAccept
  grind [Eff.andThen_formed, conclude_formed, done_formed, endSnap_formed, innermost_formed, readG_formed]

theorem execReject_formed (gd ga : Reg) : OutFormed (execReject gd ga s) := by
  unfold execReject
  grind [Eff.andThen_formed, afterDrain_formed, check_formed, conclude_formed, endSnap_formed, expireAll_formed,
    innermost_formed, probeG_formed, readG_formed, writeDone_formed]

theorem execSnapq_formed (gd ga : Reg) : OutFormed (execSnapq gd ga s) := by
  unfold execSnapq
  grind [Eff.andThen_formed, conclude_formed, readG_formed, writeDone_formed]

theorem settleSnap_formed (seq : Nat) : Formed (settleSnap s seq) := (settleSnap_calm ..).form h

theorem execSnapAnnounce_formed (seq home : Nat) : OutFormed (execSnapAnnounce seq home s) := by
  unfold execSnapAnnounce
  grind [Formed, OutFormed, settleSnap_formed]

theorem restoreLine_formed (l home : Nat) (h : Shadow) : Formed (restoreLine s l home h) := by
  unfold restoreLine
  grind [State.modLine_formed, clearStrong_formed, rawWrite_formed, touchLine_formed, wakeCounters_formed]

theorem endAtHome_formed (n : Snap) (reject : Bool) (home : Nat) : Formed (endAtHome s n reject home).1 := by
  unfold endAtHome
  grind [Formed, foldl_formed, refund_formed, restoreLine_formed]

theorem snapEndAt_formed (seq home : Nat) : Formed (snapEndAt seq home s) := by
  unfold snapEndAt
  grind [Formed, endAtHome_formed, settleSnap_formed]

theorem settleSnaps_formed : Formed (settleSnaps s) := (settleSnaps_calm ..).form h

theorem endSnaps_formed (r : Nat) : Formed (endSnaps s r) := (endSnaps_calm ..).form h

theorem breakCovering_formed (b : Word) (n : Nat) : Formed (breakCovering s b n) := by
  unfold breakCovering
  grind [breakSnap_formed, foldl_formed]

end

/-! Thunks and their evaluation. -/

section

variable {s : State} (h : Formed s)
include h

theorem openRecord_formed (w : Who) (x : Word) : ExceptFormed (openRecord s w x) := by
  unfold openRecord
  grind [ExceptFormed, globalLoc_formed, recHeader_formed, touchLine_formed]

theorem checkHandle_formed (w : Who) (x : Word) : ExceptFormed (checkHandle s w x) := by
  unfold checkHandle
  grind [ExceptFormed, openRecord_formed]

theorem handleEff_formed (x : Word) : EffFormed (handleEff s x) := by
  unfold handleEff
  grind [EffFormed, ExceptFormed, checkHandle_formed]

theorem scrambleFrame_formed (e : Nat) : Formed (scrambleFrame s e) := by
  unfold scrambleFrame
  grind [State.drawBytes_formed, bankWrite_formed]

theorem pushFrame_formed (e : Nat) (x : Word) (r : RecAt) (hd : Header) (room : Bool) :
    Formed (pushFrame s e x r hd room) := by
  unfold pushFrame
  grind [State.modEval_formed, recOps_formed, recRead_formed, scrambleFrame_formed]

theorem takeFrame_formed (rg : Nat) : MaybeFormed (takeFrame s rg) := by
  unfold takeFrame
  split
  · trivial
  · exact (charge_formed h ..).pair fun _ hu => hu

theorem copyOperand_formed (c : TileCmd) (src at_ : Word) : WorkFormed (copyOperand s c src at_) := by
  unfold copyOperand
  grind [Work.andThen_formed, engRead_formed, engWrites_formed]

theorem sendWake_formed (w hdl : Word) (what : WakeEvent) : Formed (sendWake s w hdl what) := (sendWake_work ..).form h

theorem endEval_formed (e : Nat) : Formed (endEval s e) := h

theorem unwindRecord_formed (core rg : Nat) (fault : Option (Cause × Word)) (starter : Option Nat) (f : EvalFrame) :
    Formed (unwindRecord s core rg fault starter f) :=
  (unwindRecord_work ..).form h

theorem failEval_formed (e : Nat) (c : Cause) (v : Word) : Formed (failEval s e c v) := (failEval_work ..).form h

theorem parkEval_formed (e : Nat) (x : Word) (r : RecAt) : Formed (parkEval s e x r) := by
  unfold parkEval
  grind [State.modEval_formed, failEval_formed, joinWaiters_formed, leaveWaiters_formed]

omit h in
theorem issueEval.go_formed (e : Nat) {s : State} (h : Formed s) (v : Eval) (f : EvalFrame) (rest : List EvalFrame)
    (a : Word) {wait : State} (hw : Formed wait) : Formed (issueEval.go e s v f rest a wait) := by
  unfold issueEval.go
  dsimp only
  have hm := State.modEval_formed h e (fun _ => { v with phase := .command, done := none, stack := f :: rest })
  split
  · exact hw
  · split
    · exact pushCmd_formed hm ..
    · have ho := copyOperand_formed hm (evalCommand s e f a) (f.addrs.getD 2 0) a
      split
      · rename_i heq
        rw [heq] at ho
        exact pushCmd_formed ho ..
      · exact State.modEval_formed (s := { s.modEval e _ with freeCtr := _ }) hm ..
      · exact hw

theorem issueEval_formed (e : Nat) (f : EvalFrame) (rest : List EvalFrame) : Formed (issueEval s e f rest) := by
  unfold issueEval
  have hw := State.modEval_formed h e (fun v => { v with phase := .frame })
  cases f.frame with
  | some a => exact issueEval.go_formed e h _ _ _ a hw
  | none =>
    have ht := takeFrame_formed h (s.eval e).region
    cases htf : takeFrame s (s.eval e).region with
    | none => simpa [htf] using hw
    | some x =>
      rw [htf] at ht
      simp only [htf, Option.map_none]
      exact issueEval.go_formed e ht _ _ _ x.1 (State.modEval_formed ht _ _)

theorem claim_formed (e : Nat) (r : RecAt) (hd : Header) : Formed (claim s e r hd) := putHeader_formed h ..

theorem enterRecord_formed (e : Nat) (x : Word) (r : RecAt) (hd : Header) : Formed (enterRecord s e x r hd).1 := by
  unfold enterRecord
  grind [pushFrame_formed]

theorem addAddr_formed (e : Nat) (a : Word) : Formed (addAddr s e a) := State.modEval_formed h ..

theorem runEval_formed (e n : Nat) : Formed (runEval s e n) := by
  induction n generalizing s with
  | zero => exact h
  | succ fuel ih =>
    unfold runEval
    have hc := fun w x => checkHandle_formed h w x
    grind [ExceptFormed, endEval_formed, issueEval_formed, addAddr_formed, failEval_formed, recRead_formed,
      enterRecord_formed,
      claim_formed, parkEval_formed]

theorem goOn_formed (e : Nat) : Formed (goOn s e) := by
  unfold goOn
  grind [State.modEval_formed, runEval_formed]

theorem startEval_formed (e region ctx : Nat) (spark strict : Bool) (waiter : Option Nat) (stack : List EvalFrame) :
    Formed (startEval s e region ctx spark strict waiter stack) :=
  State.modEval_formed h ..

theorem evalRecord_formed (e region ctx : Nat) (spark : Bool) (waiter : Option Nat) (x : Word) (r : RecAt) (hd : Header) :
    Formed (evalRecord s e region ctx spark waiter x r hd) := by
  unfold evalRecord
  grind [claim_formed, enterRecord_formed, failEval_formed, goOn_formed, joinWaiters_formed, startEval_formed]

theorem imageOperand_formed (t : TileWords) (i : Nat) : EffFormed (imageOperand s t i) := by
  unfold imageOperand
  grind [EffFormed, Eff.andThen_formed, handleEff_formed, readG_formed]

theorem operandAgain_formed (t : TileWords) (i : Nat) : EffFormed (operandAgain s t i) := by
  unfold operandAgain
  grind [EffFormed, readG_formed]

theorem chooseRecord.go_formed (core : Nat) (a : Word) (skip n : Nat) :
    MaybeFormed (chooseRecord.go core s a skip n) := by
  induction n generalizing s a skip with
  | zero => trivial
  | succ n ih =>
    unfold chooseRecord.go
    grind [MaybeFormed, recAt_formed, recMiss_formed]

theorem chooseRecord_formed (core rg skip : Nat) : MaybeFormed (chooseRecord s core rg skip) := by
  unfold chooseRecord
  grind [MaybeFormed, chooseRecord.go_formed]

theorem takeRefs_formed (core : Nat) (xs : List Word) : Formed (takeRefs s core xs) := by
  induction xs generalizing s with
  | nil => exact h
  | cons x xs ih =>
    unfold takeRefs
    grind [MaybeFormed, recAt_formed, recMiss_formed, recHeader_formed, putHeader_formed]

theorem writeRecord_formed (r : RecAt) (old : Header) (depth : Nat) (satf : Bool) (ops : List Word) (w0 w4 w5 : W32) :
    Formed (writeRecord s r old depth satf ops w0 w4 w5) := by
  unfold writeRecord
  grind [Formed, putHeader_formed, recWrite_formed]

theorem decideSusp_formed (u : Susp) : Formed (decideSusp u s) := by
  unfold decideSusp
  have hm := State.modMe_formed h (fun sl => { sl with susp := some u })
  dsimp only
  split
  · exact (charge_formed hm ..).getD hm
  · exact hm

omit h in
theorem lazySuspend_formed {s : State} (h : Formed s) (gd : Reg) (u : Susp) {k : State → Eff State}
    (hk : ∀ t, Formed t → BothFormed (k t)) : EffFormed (lazySuspend s gd u k) := by
  unfold lazySuspend
  refine released_formed h 4 fun s h => ?_
  have hc := chooseRecord_formed h s.myCore s.me.region 0
  split
  · exact stall_formed _
  · rename_i r s heq
    rw [heq] at hc
    dsimp only
    split
    · exact fun _ hu => hu
    · refine (hk _ ?_).andThen fun _ _ hu _ => effectDone_formed hu ..
      exact writeRecord_formed (takeRefs_formed (recHeader_formed hc r) ..) ..

omit h in
theorem strictSuspend_formed {s0 : State} (h : Formed s0) (ia : Word) (u : Susp) : Formed (strictSuspend ia u s0) := by
  unfold strictSuspend
  grind [State.modMe_formed, State.sleepFor_formed, goOn_formed, startEval_formed]

omit h in
theorem orGiveUp_formed {e : Eff Unit} (he : EffFormed e) : EffFormed (orGiveUp e) := by
  unfold orGiveUp
  grind [EffFormed, dropSusp_formed, takeFault_formed]

omit h in
theorem operandsAgain_formed {s : State} (h : Formed s) (t : TileWords) : BothFormed (operandsAgain s t) := by
  unfold operandsAgain
  exact andThen_both (operandAgain_formed h t 1) fun _ s h => andThen_both (operandAgain_formed h t 2) fun _ s h =>
    andThen_both (operandAgain_formed h t 3) fun _ s h => ⟨h, h⟩

theorem suspendOn_formed (gd : Reg) (ia : Word) (t : TileWords) (u : Susp) : EffFormed (suspendOn s gd ia t u) := by
  unfold suspendOn
  split
  · exact lazySuspend_formed h gd u fun _ ht => operandsAgain_formed ht t
  · exact fun _ hu => hu
  · split
    · exact fun _ hu => strictSuspend_formed hu ia u
    · exact (operandsAgain_formed h t).andThen fun _ _ hu _ => writeDone_formed (acquire_formed hu 4) ..
  · exact fun _ hu => strictSuspend_formed hu ia u

theorem suspendChecks_formed (gd : Reg) (ia : Word) (t : TileWords) : EffFormed (suspendChecks s gd ia t) := by
  unfold suspendChecks
  dsimp only
  split
  · exact fun _ hu => hu
  · split
    · exact fun _ hu => hu
    · exact Eff.andThen_formed (imageOperand_formed h ..) fun _ s h =>
        Eff.andThen_formed (imageOperand_formed h ..) fun _ s h =>
        Eff.andThen_formed (imageOperand_formed h ..) fun _ s h => Eff.andThen_formed (checkWatch_formed h ..) fun _ s h =>
        Eff.andThen_formed (probeG_formed h gd) fun _ s h => h

theorem execSuspend_formed (gd ga : Reg) : OutFormed (execSuspend gd ga s) := by
  unfold execSuspend
  refine conclude_formed h (orGiveUp_formed (Eff.andThen_formed (readG_formed h ga) fun ia s h =>
    Eff.andThen_formed (checkAlign_formed h ..) fun _ s h => Eff.andThen_formed (localRead_formed h ..) fun bs s h =>
    holding_formed ia bs ?_))
  dsimp only
  split
  · exact suspendOn_formed h ..
  · refine Eff.andThen_formed (suspendChecks_formed h ..) fun u s' h' => ?_
    split
    · exact act_formed s' fun _ hu => strictSuspend_formed (decideSusp_formed hu u) ia u
    · have hd : ∀ u0, Formed u0 → Formed (decideSusp u (keepPops s' u0)) := fun _ hu =>
        decideSusp_formed (keepPops_formed s' hu) u
      have hl := lazySuspend_formed (decideSusp_formed h' u) gd u (k := fun s => .ok s s) fun _ ht => ⟨ht, ht⟩
      split
      · rename_i heq
        rw [heq] at hl
        exact fun _ hu => hl _ (hd _ hu)
      · rename_i heq
        rw [heq] at hl
        exact ⟨fun _ hu => hl.1 _ (hd _ hu), hl.2⟩
      · exact hl

omit h in
theorem sleepOn_formed {s0 : State} (h : Formed s0) (x : Word) (r : RecAt) : Formed (sleepOn x r s0) := by
  unfold sleepOn
  grind [State.modMe_formed, State.sleepFor_formed, joinWaiters_formed, recHeader_formed]

omit h in
theorem forceThunk_formed {s0 : State} (h : Formed s0) (x : Word) (r : RecAt) (hd : Header) :
    Formed (forceThunk x r hd s0) := by
  unfold forceThunk
  grind [State.modMe_formed, State.sleepFor_formed, evalRecord_formed]

theorem execForce_formed (gd ga : Reg) : OutFormed (execForce gd ga s) := by
  unfold execForce
  grind [EffFormed, Eff.andThen_formed, acquire_formed, act_formed, conclude_formed, effectDone_formed,
    forceThunk_formed, handleEff_formed, probeG_formed, readG_formed, recRead_formed, sleepOn_formed, writeDone_formed]

theorem execFpoll_formed (gd ga : Reg) : OutFormed (execFpoll gd ga s) := by
  unfold execFpoll
  grind [EffFormed, Eff.andThen_formed, acquire_formed, conclude_formed, effectDone_formed, evalRecord_formed,
    handleEff_formed, readG_formed, recRead_formed, writeDone_formed]

theorem execSpark_formed (gd ga : Reg) : OutFormed (execSpark gd ga s) := by
  unfold execSpark
  grind [Formed, Eff.andThen_formed, conclude_formed, effectDone_formed, handleEff_formed, readG_formed, writeDone_formed]

theorem execRetain_formed (ga : Reg) : OutFormed (execRetain ga s) := by
  unfold execRetain
  grind [Eff.andThen_formed, conclude_formed, done_formed, handleEff_formed, putHeader_formed, readG_formed]

theorem scrambleFrames_formed (rg : Nat) : Formed (scrambleFrames s rg) := by
  unfold scrambleFrames
  grind [State.draw_formed, State.modRegion_formed]

theorem execRelease_formed (ga : Reg) : OutFormed (execRelease ga s) := by
  unfold execRelease
  grind [EffFormed, Eff.andThen_formed, conclude_formed, done_formed, dropCount_formed, handleEff_formed, readG_formed,
    returnFrame_formed, scrambleFrames_formed]

theorem execMkval_formed (gd ga : Reg) : OutFormed (execMkval gd ga s) := by
  unfold execMkval
  grind [Eff.andThen_formed, checkAlign_formed, check_formed, conclude_formed, readG_formed, writeDone_formed]

theorem execHstate_formed (gd ga : Reg) : OutFormed (execHstate gd ga s) := by
  unfold execHstate
  grind [EffFormed, ExceptFormed, Eff.andThen_formed, conclude_formed, effectDone_formed, openRecord_formed,
    readG_formed, writeDone_formed]

theorem execSparkTake_formed (core : Nat) : OutFormed (execSparkTake core s) := by
  unfold execSparkTake
  grind [ExceptFormed, Formed, OutFormed, checkHandle_formed, evalRecord_formed]

theorem execSparkDrop_formed (cluster i : Nat) : OutFormed (execSparkDrop cluster i s) := h

theorem wakeSlot_formed (slot : Nat) (w : Wake) : Formed (wakeSlot s slot w) := by
  unfold wakeSlot
  grind [answer_formed, returnFrame_formed]

theorem wakeEval_formed (e : Nat) (w : Wake) : Formed (wakeEval s e w) := by
  unfold wakeEval
  grind [failEval_formed, goOn_formed]

theorem execEvalWake_formed (i : Nat) : OutFormed (execEvalWake i s) := by
  unfold execEvalWake
  grind [Formed, OutFormed, wakeEval_formed, wakeSlot_formed]

theorem execFrameGrant_formed (ev : Nat) : OutFormed (execFrameGrant ev s) := by
  unfold execFrameGrant
  grind [OutFormed, issueEval_formed]

theorem finishRecord_formed (e : Nat) (f : EvalFrame) (a : Word) : Formed (finishRecord s e f a) :=
  (finishRecord_work ..).form h

theorem finishStrict_formed (e : Nat) (a : Word) : Formed (finishStrict s e a) := (finishStrict_work ..).form h

theorem failTop_formed (e : Nat) (f : EvalFrame) (c : Cause) : Formed (failTop s e f c) := (failTop_work ..).form h

theorem finishTop_formed (e : Nat) (f : EvalFrame) : Formed (finishTop s e f) := (finishTop_work ..).form h

theorem execEvalCommandComplete_formed (ev : Nat) : OutFormed (execEvalCommandComplete ev s) := by
  unfold execEvalCommandComplete
  grind [OutFormed, State.modEval_formed, endEval_formed, failTop_formed, finishTop_formed, goOn_formed]

theorem execReferenceDrop_formed (i : Nat) : OutFormed (execReferenceDrop i s) := by
  unfold execReferenceDrop
  grind [Formed, OutFormed, dropRef_formed]

theorem unpark_formed (e : Nat) : Formed (unpark s e) := (unpark_work ..).form h

theorem abandonEval_formed (e : Nat) : Formed (abandonEval s e) := (abandonEval_calm ..).form h

theorem abandonEvals_formed (cores : List Nat) (part ctx : Nat) : Formed (abandonEvals s cores part ctx) := by
  unfold abandonEvals
  grind [Formed, abandonEval_formed, foldl_formed]

end

/-! The shuffle. -/

section

variable {s : State} (h : Formed s)
include h

theorem ioReads_formed (w : Who) (acc : List Byte) (xs : List (Word × Nat)) : ExceptFormed (ioReads s w acc xs) := by
  induction xs generalizing s acc with
  | nil => exact h
  | cons p ps ih =>
    unfold ioReads
    have ha := accessLoc_formed h w p.1 p.2 .load
    grind [ExceptFormed, touchLine_formed, homeBytes_formed, State.drawBytes_formed]

theorem ioRead_formed (w : Who) (a : Word) (n : Nat) : ExceptFormed (ioRead s w a n) := ioReads_formed h ..

omit h in
theorem ioWrite_formed {s : State} (h : Formed s) (w : Who) (a : Word) (bs : List Byte) :
    ResFormed (ioWrite s w a bs) := by
  unfold ioWrite
  dsimp only
  split
  · trivial
  · refine foldl_formed (fun u x hu => ?_) _ h
    have ha := accessLoc_formed hu w x.1 x.2.length .store
    split <;> rename_i heq
    · rw [heq] at ha
      exact plainStore_formed ha ..
    · rw [heq] at ha
      exact bankWrite_formed ha ..
    · rw [heq] at ha
      exact ha
    · exact hu

theorem ioRecordFrom_formed (dev : BitVec 9) (w : Who) (c : Cause) (a : Word) : Formed (ioRecordFrom dev s w c a) :=
  (ioRecordFrom_work ..).form h

theorem ioPutFrom_formed (dev : BitVec 9) (w : Who) (a : Word) (bs : List Byte) : Formed (ioPutFrom dev s w a bs) :=
  (ioPutFrom_work ..).form h

theorem ioPut_formed (w : Who) (a : Word) (bs : List Byte) : Formed (ioPut s w a bs) := ioPutFrom_formed h ..

theorem loadPieces_formed (acc : List Byte) (xs : List (Word × Nat)) : EffFormed (loadPieces s acc xs) := by
  induction xs generalizing s acc with
  | nil => exact h
  | cons p ps ih => exact Eff.andThen_formed (loadBytes_formed h ..) fun _ _ h' => ih h' _

theorem loadRange_formed (a : Word) (n : Nat) : EffFormed (loadRange s a n) := loadPieces_formed h ..

theorem groupFor_formed (bw : Word) (ok : Bool) : EffFormed (groupFor s bw ok) := by
  unfold groupFor
  grind [EffFormed]

theorem sourceChecks_formed (bw src : Word) (n : Nat) (gone reads : Bool) :
    EffFormed (sourceChecks s bw src n gone reads) := by
  unfold sourceChecks
  refine Eff.andThen_formed ?_ fun _ s h => ?_
  · split
    · exact Eff.andThen_formed (walkFirst_formed h _) fun _ s h => walkFirst_formed h _
    · exact h
  · grind [EffFormed, afterWalk_formed]

theorem unshelve_formed (grp memb : Nat) (blk : W32) : Formed (unshelve s grp memb blk) := h

theorem sendPacket_formed (g : Group) (p : Packet) : Formed (sendPacket s g p) := by
  unfold sendPacket
  grind [Formed]

theorem sendSet_formed (g : Group) (is : List Nat) : Formed (sendSet s g is) := by
  unfold sendSet
  grind [Formed, foldl_formed, sendPacket_formed]

theorem codeOnce_formed (q xs : List (Queued × Nat)) : OptFormed (codeOnce s q xs) := by
  induction xs with
  | nil => trivial
  | cons x xs ih =>
    unfold codeOnce
    grind [OptFormed, sendSet_formed]

theorem codeAll_formed (n : Nat) : Formed (codeAll s n) := by
  induction n generalizing s with
  | zero => exact h
  | succ fuel ih =>
    unfold codeAll
    have hc := codeOnce_formed h s.codeQueue.zipIdx s.codeQueue.zipIdx
    grind [OptFormed]

theorem code_formed : Formed (code s) := codeAll_formed h ..

omit h in
theorem toHub_formed {s : State} (h : Formed s) (g : Group) {here : State → State} (hf : ∀ u, Formed u → Formed (here u))
    (out : Nat → Out) : Formed (toHub s g here out) := by
  unfold toHub
  grind [Formed]

theorem execShuf_formed (gd ga gb : Reg) : OutFormed (execShuf gd ga gb s) := by
  unfold execShuf
  refine conclude_formed h ?_
  refine Eff.andThen_formed (readG_formed h ga) fun _ s h => ?_
  refine Eff.andThen_formed (readG_formed h gb) fun _ s h => ?_
  split
  · exact fun _ hu => hu
  · exact writeDone_formed h ..
  · refine Eff.andThen_formed (checkAlign_formed h ..) fun _ s h => Eff.andThen_formed (groupFor_formed h ..) fun g s h =>
      Eff.andThen_formed (check_formed h ..) fun _ s h => Eff.andThen_formed (sourceChecks_formed h ..) fun _ s h =>
      released_formed h 5 fun s h => Eff.andThen_formed (loadRange_formed h ..) fun bs s h =>
      Eff.andThen_formed (probeG_formed h gd) fun _ s h => act_formed s fun u hu => ?_
    exact State.sleepFor_formed (toHub_formed hu g (fun _ ht => ht.congr) _) ..

omit h in
theorem advertise_formed {s0 : State} (h : Formed s0) (g : Group) (bw v : Word) (fresh : Bool) :
    Formed (advertise g bw v fresh s0) := by
  unfold advertise
  grind [Formed, State.stall_formed, toHub_formed]

theorem settleAdvert_formed (a : Advert) (st : Nat) : Formed (settleAdvert s a st) := by
  unfold settleAdvert
  grind [Formed]

theorem execSide_formed (gd ga gb : Reg) : OutFormed (execSide gd ga gb s) := by
  unfold execSide
  refine conclude_formed h ?_
  refine Eff.andThen_formed (readG_formed h ga) fun _ s h => ?_
  refine Eff.andThen_formed (readG_formed h gb) fun _ s h => ?_
  dsimp only
  split
  · exact writeDone_formed h ..
  · exact fun _ hu => hu
  · refine Eff.andThen_formed (checkAlign_formed h ..) fun _ s h => Eff.andThen_formed (groupFor_formed h ..) fun g s h => ?_
    split
    · exact Eff.andThen_formed (sourceChecks_formed h ..) fun _ s h => Eff.andThen_formed (probeG_formed h gd) fun _ s h =>
        act_formed s fun _ hu => advertise_formed hu ..
    · refine Eff.andThen_formed (sourceChecks_formed h ..) fun _ s h => released_formed h 5 fun s h => ?_
      split
      · exact writeDone_formed h ..
      · exact Eff.andThen_formed (loadRange_formed h ..) fun _ s h => Eff.andThen_formed (probeG_formed h gd) fun _ s h =>
          act_formed s fun u hu => advertise_formed hu.congr ..

theorem unshow_formed (grp : Nat) (blk : W32) : Formed (unshow s grp blk) := h

theorem execUnside_formed (gd gb : Reg) : OutFormed (execUnside gd gb s) := by
  unfold execUnside
  grind [EffFormed, Formed, Eff.andThen_formed, State.stall_formed, act_formed, check_formed, code_formed,
    conclude_formed, effectDone_formed, groupFor_formed, probeG_formed, readG_formed, unshelve_formed, writeDone_formed]

theorem execDisp_formed (gd ga gb : Reg) : OutFormed (execDisp gd ga gb s) := by
  unfold execDisp
  refine conclude_formed h ?_
  refine Eff.andThen_formed (readG_formed h ga) fun _ s h => ?_
  refine Eff.andThen_formed (readG_formed h gb) fun _ s h => ?_
  refine Eff.andThen_formed (readG_formed h gd) fun _ s h => ?_
  dsimp only
  split
  · exact fun _ hu => hu
  · exact writeDone_formed h ..
  · refine Eff.andThen_formed (checkAlign_formed h ..) fun _ s h => Eff.andThen_formed (groupFor_formed h ..) fun g s h =>
      Eff.andThen_formed (check_formed h ..) fun _ s h => Eff.andThen_formed (sourceChecks_formed h ..) fun _ s h => ?_
    split
    · exact writeDone_formed h ..
    · refine released_formed h 5 fun s h => Eff.andThen_formed (loadRange_formed h ..) fun _ s h =>
        Eff.andThen_formed (probeG_formed h gd) fun _ s h => act_formed s fun u hu => State.sleepFor_formed ?_ ..
      split <;> exact hu

theorem hubView_formed (g : Group) (grp : Nat) : Formed (hubView s g grp).2 := by
  unfold hubView
  grind [Formed, State.draw_formed]

theorem execShq_formed (gd ga : Reg) : OutFormed (execShq gd ga s) := by
  unfold execShq
  grind [Eff.andThen_formed, conclude_formed, hubView_formed, readG_formed, writeDone_formed]

theorem ackSlot_formed (dev : BitVec 9) (slot : Nat) (gen : Byte) (v : Nat) : Formed (ackSlot s dev slot gen v) := by
  unfold ackSlot
  grind [Formed, answer_formed]

theorem takeAdvert_formed (a : Advert) : Formed (takeAdvert s a) := by
  unfold takeAdvert
  grind [Formed, ackSlot_formed, code_formed, settleAdvert_formed, unshelve_formed]

theorem execAdvertisementArrival_formed (src : Src Advert) : OutFormed (execAdvertisementArrival src s) := by
  unfold execAdvertisementArrival
  grind [Formed, OutFormed, takeAdvert_formed]

theorem execShelfExpiry_formed (i : Nat) : OutFormed (execShelfExpiry i s) := by
  unfold execShelfExpiry
  grind [Formed, OutFormed, code_formed]

theorem execCupboardExpiry_formed (i : Nat) : OutFormed (execCupboardExpiry i s) := by
  unfold execCupboardExpiry
  grind [Formed, OutFormed]

theorem takePost_formed (p : Post) : Formed (takePost s p) := by
  unfold takePost
  grind [Formed, ackSlot_formed, code_formed]

theorem execBlockPostArrival_formed (src : Src Post) : OutFormed (execBlockPostArrival src s) := by
  unfold execBlockPostArrival
  grind [Formed, OutFormed, takePost_formed]

theorem execShufResend_formed (slot : Nat) : OutFormed (execShufResend slot s) := by
  unfold execShufResend
  grind [Formed, OutFormed, toHub_formed]

theorem execCodingWindowExpiry_formed : OutFormed (execCodingWindowExpiry s) := code_formed h ..

theorem execRetransmitRelease_formed (i : Nat) : OutFormed (execRetransmitRelease i s) := by
  unfold execRetransmitRelease
  grind [Formed, OutFormed]

theorem countLost_formed (g : Group) (w : Who) (dev : BitVec 9) (slot : Nat) : Formed (countLost s g w dev slot) := by
  unfold countLost
  grind [ExceptFormed, Formed, accessLoc_formed, afterWalk_formed, bankWrite_formed, strongBytes_formed,
    strongStore_formed, touchLine_formed, updateFault_formed]

theorem lost_formed (g : Group) (c : Cause) (arg : Nat) (dev : BitVec 9) (slot : Nat) :
    Formed (lost s g c arg dev slot) := by
  unfold lost
  grind [countLost_formed, ioRecordFrom_formed]

theorem deliverBlock_formed (g : Group) (own : Post) (b : List Byte) : Formed (deliverBlock s g own b) := by
  unfold deliverBlock
  dsimp only
  split
  · exact lost_formed h ..
  · have hw := ioWrite_formed h (ioWho own.slot g.region) (g.rbase + BitVec.ofNat 64 (2048 * own.arg)) b
    split
    · exact ioRecordFrom_formed (afterWalk_formed h ..) ..
    · rename_i u heq
      rw [heq] at hw
      split
      · exact hw
      · exact notifyFrom_formed (Formed.congr (s := u) hw) ..

theorem sendNack_formed (g : Group) (n : Nack) : Formed (sendNack s g n) := by
  unfold sendNack
  grind [Formed, toHub_formed]

theorem receivePacket_formed (p : Packet) : Formed (receivePacket s p) := by
  unfold receivePacket
  grind [deliverBlock_formed, foldl_formed, sendNack_formed]

theorem execPacketReceive_formed (src : Src Packet) : OutFormed (execPacketReceive src s) := by
  unfold execPacketReceive
  grind [Formed, OutFormed, receivePacket_formed]

theorem takeNack_formed (n : Nack) : Formed (takeNack s n) := by
  unfold takeNack
  grind [Formed, sendPacket_formed]

theorem execNackArrival_formed (src : Src Nack) : OutFormed (execNackArrival src s) := by
  unfold execNackArrival
  grind [Formed, OutFormed, takeNack_formed]

theorem takeLoss_formed (n : Nack) : Formed (takeLoss s n) := by
  unfold takeLoss
  grind [lost_formed]

theorem execLossNotice_formed (src : Src Nack) : OutFormed (execLossNotice src s) := by
  unfold execLossNotice
  grind [Formed, OutFormed, takeLoss_formed]

theorem unshelveAtHub_formed (e : CupEntry) : Formed (unshelveAtHub s e) := (unshelveAtHub_calm ..).form h

theorem execCupboardEviction_formed (i : Nat) : OutFormed (execCupboardEviction i s) := by
  unfold execCupboardEviction
  grind [Formed, OutFormed, unshelveAtHub_formed]

theorem ackRow_formed (r : DispRow) : Formed (ackRow s r) := by
  unfold ackRow
  grind [ackSlot_formed]

theorem takeRow_formed (r : DispRow) : Formed (takeRow s r) := by
  unfold takeRow
  grind [Formed, ackRow_formed, ioRecordFrom_formed]

theorem execDispatchArrival_formed (src : Src DispRow) : OutFormed (execDispatchArrival src s) := by
  unfold execDispatchArrival
  grind [Formed, OutFormed, takeRow_formed]

theorem putRow_formed (w : Who) (e : Expert) (r : DispRow) (slot : Nat) : Formed (putRow s w e r slot) :=
  (putRow_work ..).form h

theorem place_formed (e : Nat) (r : DispRow) : Formed (place s e r) := by
  unfold place
  grind [ExceptFormed, Formed, afterWalk_formed, ioRead_formed, ioRecordFrom_formed, notifyFrom_formed, putRow_formed]

theorem execPlaceRow_formed (i : Nat) : OutFormed (execPlaceRow i s) := by
  unfold execPlaceRow
  grind [Formed, OutFormed, ackRow_formed, place_formed]

theorem endShuffle_formed (r : Nat) : Formed (endShuffle s r) := (endShuffle_calm ..).form h

end

/-! The journal. -/

section

variable {s : State} (h : Formed s)
include h

theorem journal_formed (region op status : Nat) (tag : W32) (digest : List Byte) :
    Formed (journal s region op status tag digest) :=
  rawWrite_formed h ..

theorem journalEvent_formed (region status : Nat) (tag : W32) : Formed (journalEvent s region status tag) :=
  (journalEvent_calm ..).form h

theorem refuse_formed (tag : W32) (code : Nat) : Formed (refuse s tag code) := h

end

/-! Drawers. -/

section

variable {s : State} (h : Formed s)
include h

omit h in
theorem drawMany_formed {α : Type} {s : State} (h : Formed s) {one : State → α × State}
    (hf : ∀ u, Formed u → Formed (one u).2) (n : Nat) : Formed (drawMany s one n).2 := by
  induction n generalizing s with
  | zero => exact h
  | succ n ih => exact ih (hf s h)

theorem strayEntry_formed (slot : Nat) : Formed (strayEntry slot s).2 := by
  unfold strayEntry
  grind [State.drawBytes_formed, State.draw_formed]

theorem strayStream_formed : Formed (strayStream s).2 := by
  unfold strayStream
  grind [State.drawWords_formed]

theorem straySlot_formed (i : Nat) (sl : Slot) : Formed (straySlot s i sl).2.2 := by
  unfold straySlot
  grind [State.drawWords_formed, drawMany_formed, strayEntry_formed, strayStream_formed]

theorem strayCmd_formed (c region ctx : Nat) : Formed (strayCmd c region ctx s).2 := (strayCmd_undrawn ..).form h

theorem strayCore_formed (c region ctx : Nat) (v : CoreSave) : Formed (strayCore s c region ctx v).2 :=
  (strayCore_undrawn ..).form h

theorem writeDrawer_formed (w : Who) (off n : Nat) : Formed (writeDrawer s w off n) := (writeDrawer_work ..).form h

theorem savedSlot_formed (i : Nat) (sl : Slot) (inbox : List InboxEntry) : Formed (savedSlot s i sl inbox).2.2 := by
  unfold savedSlot
  grind [straySlot_formed]

theorem savedCore_formed (ctx c region : Nat) (v : CoreSave) : Formed (savedCore s ctx c region v).2 :=
  (savedCore_undrawn ..).form h

end

/-! Launches, residency and the gang switch. -/

section

variable {s : State} (h : Formed s)
include h

omit h in
theorem atBlock_formed {α : Type} (a : Word) {e : Eff α} (he : EffFormed e) : EffFormed (atBlock a e) := by
  unfold atBlock
  grind [EffFormed]

theorem blockLoad_formed (a : Word) (n : Nat) : EffFormed (blockLoad s a n) := by
  unfold blockLoad
  grind [EffFormed, State.modMe_formed, atBlock_formed, loadRange_formed]

theorem shadowBlock_formed (r : RecAt) : Formed (shadowBlock s r) := by
  unfold shadowBlock
  grind [foldl_formed, shadowStep_formed, touchLine_formed]

theorem endBlockLease_formed (a : Word) : Formed (endBlockLease s a) := by
  unfold endBlockLease
  grind [endRange_formed]

theorem execRcreate_formed (gd ga : Reg) : OutFormed (execRcreate gd ga s) := by
  unfold execRcreate
  refine conclude_formed h ?_
  refine Eff.andThen_formed (readG_formed h ga) fun _ s h => ?_
  refine Eff.andThen_formed (checkAlign_formed h ..) fun _ s h => ?_
  refine Eff.andThen_formed (check_formed h ..) fun _ s h => ?_
  refine Eff.andThen_formed (atBlock_formed _ (sourceChecks_formed h ..)) fun _ s h => ?_
  refine released_formed h 4 fun s h => Eff.andThen_formed (blockLoad_formed h ..) fun bs s h => ?_
  split
  · exact writeDone_formed h ..
  · split
    · exact writeDone_formed h ..
    · have hr := recAt_formed h s.myCore
      grind [EffFormed, MaybeFormed, afterWalk_formed, effectDone_formed, putRegion_formed, endBlockLease_formed,
        shadowBlock_formed]

theorem blockChecks_formed (a : Word) : EffFormed (blockChecks s a) := by
  unfold blockChecks
  grind [EffFormed, Eff.andThen_formed, atBlock_formed, checkAlign_formed, check_formed, sourceChecks_formed]

theorem execRbudget_formed (gd ga gb : Reg) : OutFormed (execRbudget gd ga gb s) := by
  unfold execRbudget
  grind [Eff.andThen_formed, State.modRegion_formed, blockChecks_formed, conclude_formed, effectDone_formed,
    endBlockLease_formed, readG_formed, writeDone_formed]

theorem setEntry_formed (r i : Nat) (st : BitVec 2) : Formed (setEntry s r i st) := State.modRegion_formed h ..

theorem requestEntry_formed (r i : Nat) : Formed (requestEntry s r i) := setEntry_formed h ..

theorem endLeaseOn_formed (r i : Nat) (st : BitVec 2) (host : Bool) : Formed (endLeaseOn s r i st host) :=
  (endLeaseOn_calm ..).form h

theorem execResideReq_formed (gd ga gb : Reg) : OutFormed (execResideReq gd ga gb s) := by
  unfold execResideReq
  refine conclude_formed h ?_
  refine Eff.andThen_formed (readG_formed h ga) fun _ s h => ?_
  refine Eff.andThen_formed (readG_formed h gb) fun _ s h => ?_
  grind [EffFormed, Eff.andThen_formed, writeDone_formed, probeG_formed, act_formed, requestEntry_formed,
    State.sleepFor_formed]

theorem execResideRel_formed (gd ga gb : Reg) : OutFormed (execResideRel gd ga gb s) := by
  unfold execResideRel
  grind [Eff.andThen_formed, conclude_formed, effectDone_formed, endLeaseOn_formed, readG_formed, writeDone_formed]

theorem execResideQry_formed (gd ga gb : Reg) : OutFormed (execResideQry gd ga gb s) := by
  unfold execResideQry
  grind [Eff.andThen_formed, conclude_formed, readG_formed, writeDone_formed]

theorem schedReads_formed (acc : List Byte) (xs : List (Word × Nat)) : MaybeFormed (schedReads s acc xs) := by
  induction xs generalizing s acc with
  | nil => exact h
  | cons p ps ih =>
    unfold schedReads
    grind [MaybeFormed, ExceptFormed, leafFor_formed]

theorem schedRead_formed (a : Word) (n : Nat) : MaybeFormed (schedRead s a n) := schedReads_formed h ..

theorem requestEntries_formed (l : Launch) : Formed (requestEntries s l) := by
  unfold requestEntries
  grind [foldl_formed, requestEntry_formed]

theorem acceptLaunch_formed (l : Launch) : Formed (acceptLaunch s l) := by
  unfold acceptLaunch
  dsimp only
  generalize newlyCharged s l.region _ = new
  generalize thunkSections s l.pc l.limg = ts
  exact requestEntries_formed ((charge_formed h l.region (thunkCharge new)).getD h).congr l

theorem execLaunch.retryBlock_formed : Formed (execLaunch.retryBlock s) := by
  unfold execLaunch.retryBlock
  grind [State.modMe_formed, State.stall_formed]

theorem execLaunch_formed (gd ga : Reg) : OutFormed (execLaunch gd ga s) := by
  unfold execLaunch
  refine conclude_formed h ?_
  refine Eff.andThen_formed (readG_formed h ga) fun _ s h => ?_
  refine Eff.andThen_formed (checkAlign_formed h ..) fun _ s h => ?_
  refine Eff.andThen_formed (atBlock_formed _ (sourceChecks_formed h ..)) fun _ s h => ?_
  refine released_formed h 4 fun s h => Eff.andThen_formed (blockLoad_formed h ..) fun d s h => ?_
  split
  · exact writeDone_formed h ..
  · split
    · exact hold_formed fun _ hu => execLaunch.retryBlock_formed hu
    · exact effectDone_formed (acceptLaunch_formed h _) ..

theorem writeWindows_formed (r core : Nat) (es : List LocalImage) : Formed (writeWindows s r core es) :=
  (writeWindows_held ..).form h

theorem launchTag_formed (key : Nat) (full : Bool) : Formed (launchTag s key full) := (launchTag_held ..).form h

theorem writeTags_formed (cluster : Nat) (es : List LocalImage) : Formed (writeTags s cluster es) :=
  (writeTags_held ..).form h

theorem copyImages_formed (cores : List Nat) (xs : List LocalImage) : OptFormed (copyImages s cores xs) := by
  induction xs generalizing s with
  | nil => exact h
  | cons e es ih =>
    unfold copyImages
    have hr := schedRead_formed h e.src e.len
    grind [MaybeFormed, OptFormed, foldl_formed, bankWrite_formed]

theorem installTables_formed (l : Launch) : Formed (installTables s l) := (installTables_held ..).form h

theorem startAll_formed (l : Launch) (args : List Byte) (slots : List Nat) : Formed (startAll s l args slots) :=
  (startAll_held ..).form h

theorem startLaunch_formed (l : Launch) : OptFormed (startLaunch s l) := by
  unfold startLaunch
  dsimp only
  split
  · trivial
  · split
    · trivial
    · have hc := charge_formed h l.region [(.slots, l.ranges.length)]
      split
      · rename_i heq
        rw [heq] at hc
        refine (copyImages_formed hc _ _).map fun u hu => ?_
        refine journalEvent_formed (startAll_formed (installTables_formed (foldl_formed (fun v c hv => ?_) _ hu) _) ..) ..
        exact writeTags_formed (writeWindows_formed hv ..) ..
      · trivial

theorem execLaunchPlacement_formed (i : Nat) : OutFormed (execLaunchPlacement i s) := by
  unfold execLaunchPlacement
  grind [Formed, OptFormed, OutFormed, requestEntries_formed, startLaunch_formed]

theorem wakeReside_formed (r i : Nat) (v : Word) : Formed (wakeReside s r i v) := by
  unfold wakeReside
  grind [answer_formed, foldl_formed]

theorem execResidencyGrant_formed (region entry : Nat) : OutFormed (execResidencyGrant region entry s) := by
  unfold execResidencyGrant
  grind [Formed, OutFormed, setEntry_formed, wakeReside_formed]

theorem execResidencyRelease_formed (region entry : Nat) : OutFormed (execResidencyRelease region entry s) := by
  unfold execResidencyRelease
  grind [Formed, OutFormed, breakCovering_formed]

theorem execWaitt_formed (gd ga : Reg) : OutFormed (execWaitt gd ga s) := by
  unfold execWaitt
  grind [Eff.andThen_formed, conclude_formed, readG_formed, sleep_formed, writeDone_formed]

theorem execWaittWake_formed (slot : Nat) : OutFormed (execWaittWake slot s) := by
  unfold execWaittWake
  grind [OutFormed, resume_formed]

theorem execAtTime_formed (gd ga gb : Reg) : OutFormed (execAtTime gd ga gb s) := by
  unfold execAtTime
  refine conclude_formed h ?_
  refine Eff.andThen_formed (readG_formed h ga) fun _ s h => ?_
  refine Eff.andThen_formed (readG_formed h gb) fun _ s h => ?_
  refine Eff.andThen_formed (readG_formed h gd) fun _ s h => ?_
  refine Eff.andThen_formed (checkAlign_formed h ..) fun _ s h => ?_
  refine Eff.andThen_formed (localRead_formed h ..) fun _ s h => ?_
  refine Eff.andThen_formed (check_formed h ..) fun _ s h => ?_
  refine Eff.andThen_formed (checkDest_formed h _) fun _ s h => ?_
  refine Eff.andThen_formed (checkWatch_formed h ..) fun _ s h => ?_
  dsimp only
  split
  · exact writeDone_formed h ..
  · split
    · exact writeDone_formed h ..
    · exact effectDone_formed (State.setCore_formed h ..) ..

theorem postAlarm_formed (core : Nat) (a : Alarm) : Formed (postAlarm s core a) := by
  unfold postAlarm
  grind [Formed, post_formed]

theorem execAlarm_formed (core i : Nat) : OutFormed (execAlarm core i s) := by
  unfold execAlarm
  grind [OutFormed, State.modCore_formed, postAlarm_formed]

theorem execGang_formed (gd ga : Reg) : OutFormed (execGang gd ga s) := by
  unfold execGang
  grind [Formed, Eff.andThen_formed, blockLoad_formed, checkAlign_formed, checkSup_formed, conclude_formed,
    effectDone_formed, readG_formed, writeDone_formed]

theorem abandonStore_formed (i : Nat) : Formed (abandonStore s i) := by
  unfold abandonStore
  grind [State.modSlot_formed, withdrawAway_formed, withdrawStore_formed]

theorem saveSlot_formed (i : Nat) : Formed (saveSlot s i) := by
  unfold saveSlot
  grind [Formed, State.modCore_formed, State.setSlot_formed, withdrawSlot_formed, writeDrawer_formed]

theorem saveCore_formed (ctx c : Nat) : Formed (saveCore s ctx c) := by
  unfold saveCore
  grind [Formed, State.setCore_formed, writeDrawer_formed]

theorem spillMessages_formed (cores : List Nat) (part ctx : Nat) : Formed (spillMessages s cores part ctx) := by
  unfold spillMessages
  grind [Formed, foldl_formed]

theorem reinject_formed (part ctx : Nat) : Formed (reinject s part ctx) := h

theorem execGangSwitchOut_formed (part : Nat) : OutFormed (execGangSwitchOut part s) := by
  unfold execGangSwitchOut
  grind [Formed, OutFormed, abandonEvals_formed, abandonStore_formed, foldl_formed, saveCore_formed, saveSlot_formed,
    spillMessages_formed]

theorem restoreSlot_formed (d : Nat) : Formed (restoreSlot s d) := by
  unfold restoreSlot
  grind [Formed, State.modCore_formed, State.setSlot_formed, savedSlot_formed]

theorem restoreCore_formed (ctx c : Nat) : Formed (restoreCore s ctx c) := (restoreCore_in ..).form h

theorem haltAgain_formed (halts : List Nat) : Formed (haltAgain s halts) := h

theorem execGangSwitchIn_formed (part : Nat) : OutFormed (execGangSwitchIn part s) := by
  unfold execGangSwitchIn
  grind [Formed, OutFormed, foldl_formed, haltAgain_formed, reinject_formed, restoreCore_formed, restoreSlot_formed]

theorem endTasks_formed (r : Nat) (keep : Option Waiter) (part : Option Nat) : Formed (endTasks s r keep part) :=
  (endTasks_calm ..).form h

theorem stopEvals_formed (r : Nat) : Formed (stopEvals s r) := (stopEvals_calm ..).form h

theorem freeAll_formed (r : Nat) : Formed (freeAll s r) := (freeAll_calm ..).form h

theorem clearWindows_formed (r : Nat) : Formed (clearWindows s r) := (clearWindows_calm ..).form h

theorem beginEnd_formed (keep : Option Waiter) (r : Nat) : Formed (beginEnd keep s r) := (beginEnd_calm ..).form h

theorem finishEnd_formed (keep : Option Waiter) (r : Nat) : Formed (finishEnd keep s r) := (finishEnd_calm ..).form h

theorem advanceEnd_formed (keep : Option Waiter) (r : Nat) : Formed (advanceEnd keep s r).1 := (advanceEnd_calm ..).form h

theorem advanceEnds_formed (keep : Option Waiter) (xs : List Nat) : Formed (advanceEnds keep s xs).1 :=
  (advanceEnds_calm ..).form h

theorem endKept_formed (w : Waiter) : Formed (endKept s w) := (endKept_calm ..).form h

theorem advanceEnding_formed (e : Ending) : Formed (advanceEnding s e) := (advanceEnding_calm ..).form h

theorem progressEndings_formed : Formed (progressEndings s) := (progressEndings_calm ..).form h

theorem execTileCompletion_formed (e : Engine) (unit : Nat) : OutFormed (execTileCompletion e unit s) := by
  unfold execTileCompletion
  grind [OutFormed, progressEndings_formed, tileCompletion_formed]

theorem execSnapshotEndAnnounce_formed (seq home : Nat) : OutFormed (execSnapshotEndAnnounce seq home s) := by
  unfold execSnapshotEndAnnounce
  grind [OutFormed, progressEndings_formed, snapEndAt_formed]

theorem endRegion_formed (r : Nat) (keep waiter : Option Waiter) : Formed (endRegion s r keep waiter) :=
  (endRegion_calm ..).form h

theorem endDomain_formed (r : Nat) : Formed (endDomain s r) := by
  unfold endDomain
  grind [endRegion_formed, foldl_formed]

theorem endFor_formed (r : Nat) : Formed (endFor r s) := by
  unfold endFor
  grind [endRegion_formed]

theorem execRdone_formed (gd ga : Reg) : OutFormed (execRdone gd ga s) := by
  unfold execRdone
  grind [EffFormed, Eff.andThen_formed, State.stall_formed, act_formed, blockChecks_formed, conclude_formed,
    effectDone_formed, endFor_formed, probeG_formed, readG_formed, writeDone_formed]

end

end Sys2Proof.Machine
end


section
/-! The form of memory: what the device, the host and the scalar instructions leave, and so every step. -/

namespace Sys2Proof.Machine

/-! The trap queue. -/

section

variable {s : State} (h : Formed s)
include h

theorem enterQueue_formed (r : TrapRec) : Formed (enterQueue s r) := (enterQueue_calm ..).form h

theorem endForFatal_formed (r : TrapRec) : Formed (endForFatal s r) := by
  unfold endForFatal
  grind [endDomain_formed, endTasks_formed]

theorem endPartition_formed (part : Nat) : Formed (endPartition s part) := (endPartition_calm ..).form h

theorem stopPartition_formed (r : TrapRec) : Formed (stopPartition s r) := by
  unfold stopPartition
  grind [Formed, State.modRegion_formed, endDomain_formed, endPartition_formed, journalEvent_formed]

theorem turnAway_formed (r : TrapRec) : OptFormed (turnAway s r) := by
  unfold turnAway
  grind [Formed, OptFormed, State.modSlot_formed, stopPartition_formed]

theorem execTrapRecordAppend_formed (i : Nat) : OutFormed (execTrapRecordAppend i s) := by
  unfold execTrapRecordAppend
  dsimp only [OutFormed]
  split
  · exact h
  · split
    · exact h
    · have ht : Formed { s with trapsInFlight := dropAt s.trapsInFlight i } := h
      split
      · split
        · exact endForFatal_formed (enterQueue_formed ht _) _
        · exact enterQueue_formed ht _
      · exact (turnAway_formed ht _).getD h

theorem execHeldRecordAppend_formed (i : Nat) : OutFormed (execHeldRecordAppend i s) := by
  unfold execHeldRecordAppend
  grind [Formed, OutFormed, enterQueue_formed]

end

/-! Accesses of other devices. -/

section

variable {s : State} (h : Formed s)
include h

theorem sendReply_formed (a : RemoteAccess) (r : Found (List Byte)) : Formed (sendReply s a r) := h

theorem remoteFault_formed (a : RemoteAccess) (c : Cause) : Formed (remoteFault s a c) := (remoteFault_calm ..).form h

theorem guestStands_formed (a : RemoteAccess) (loc : Loc) : Formed (guestStands s a loc) := State.setSlot_formed h ..

theorem guestLoad_formed (a : RemoteAccess) (p h n : Nat) (strong : Bool) (version : Option (BitVec 48)) :
    Formed (guestLoad s a p h n strong version) := by
  unfold guestLoad
  grind [Formed, homeAnswer_formed]

theorem guestStore_formed (a : RemoteAccess) (p h : Nat) (bs : List Byte) (strong : Bool) :
    Formed (guestStore s a p h bs strong) := by
  unfold guestStore
  grind [plainStore_formed, remoteFault_formed, sendReply_formed, strongStore_formed]

theorem guestCount_formed (a : RemoteAccess) (h : Nat) (w : Word) : Formed (guestCount s a h w) := by
  unfold guestCount
  grind [ExceptFormed, Formed, leafFor_formed, remoteFault_formed, updateAt_formed, walk_formed]

theorem remoteLook_formed (a : RemoteAccess) (p h : Nat) : Formed (remoteLook s a p h) := by
  unfold remoteLook
  grind [guestStands_formed, lookAtHome_formed, remoteFault_formed, sendReply_formed]

theorem remoteAtHome_formed (a : RemoteAccess) (p h : Nat) : Formed (remoteAtHome s a p h) := by
  unfold remoteAtHome
  grind [Formed, atHome_formed, guestCount_formed, guestLoad_formed, guestStands_formed, guestStore_formed,
    remoteFault_formed, remoteLook_formed, sendReply_formed, updateAt_formed]

theorem remoteTry_formed (a : RemoteAccess) : OptFormed (remoteTry s a) := by
  unfold remoteTry
  grind [ExceptFormed, OptFormed, leafFor_formed, remoteAtHome_formed, remoteFault_formed, walk_formed]

theorem execRupdCountAdd_formed (i : Nat) : OutFormed (execRupdCountAdd i s) := by
  unfold execRupdCountAdd
  dsimp only [OutFormed]
  split
  · exact notifyFor_formed h.congr ..
  · rename_i b _ _
    have hg : Formed { s with guestAdds := dropAt s.guestAdds (i - s.cntAdds.length) } := h
    exact (remoteTry_formed hg b).getD (remoteFault_formed (walk_formed hg ..) ..)
  · exact h

theorem parkAccess_formed (a : RemoteAccess) : Formed (parkAccess s a) := by
  unfold parkAccess
  grind [Formed, State.sendRecord_formed, remoteFault_formed]

theorem withdrawGuest_formed (a : RemoteAccess) : Formed (withdrawGuest s a) := State.giveUpReservation_formed h ..

theorem execRemoteAccessArrival_formed (a : RemoteAccess) : OutFormed (execRemoteAccessArrival a s) := by
  unfold execRemoteAccessArrival
  dsimp only [OutFormed]
  split
  · exact withdrawGuest_formed h a
  · split
    · exact remoteFault_formed h ..
    · exact (remoteTry_formed h a).getD (parkAccess_formed (walk_formed h ..) a)

theorem failParked_formed (i : Nat) (p : ParkedAccess) : Formed (failParked s i p) := by
  unfold failParked
  grind [Formed, remoteFault_formed]

theorem execXlateReplayTimeout_formed (i : Nat) : OutFormed (execXlateReplayTimeout i s) := by
  unfold execXlateReplayTimeout
  grind [OutFormed, failParked_formed]

theorem execTlbinvReplay_formed (gd ga gb : Reg) : OutFormed (execTlbinvReplay gd ga gb s) := by
  unfold execTlbinvReplay
  refine conclude_formed h ?_
  refine Eff.andThen_formed (checkSup_formed h _) fun _ s h => ?_
  refine Eff.andThen_formed (readG_formed h ga) fun _ s h => ?_
  refine Eff.andThen_formed (readG_formed h gb) fun _ s h => ?_
  refine Eff.andThen_formed (waitDrained_formed h) fun _ s h => ?_
  split
  · exact writeDone_formed h ..
  · refine effectDone_formed ?_ ..
    split
    · exact failParked_formed h ..
    · exact (remoteTry_formed h.congr _).getD (failParked_formed (walk_formed h ..) ..)

end

/-! Debugging. -/

section

variable {s : State} (h : Formed s)
include h

theorem execBkpt_formed (code : BitVec 6) : OutFormed (execBkpt code s) := conclude_formed h fun _ hu => hu

theorem execWatch_formed (ga gb : Reg) (kind : BitVec 2) (wp : Bool) : OutFormed (execWatch ga gb kind wp s) := by
  unfold execWatch
  grind [Eff.andThen_formed, State.modMe_formed, conclude_formed, done_formed, readG_formed]

theorem execXtrigHalt_formed (gd ga : Reg) : OutFormed (execXtrigHalt gd ga s) := by
  unfold execXtrigHalt
  grind [Formed, Eff.andThen_formed, checkSup_formed, conclude_formed, effectDone_formed, readG_formed, writeDone_formed]

theorem execXtrigResume_formed (gd ga : Reg) : OutFormed (execXtrigResume gd ga s) := by
  unfold execXtrigResume
  grind [Formed, Eff.andThen_formed, checkSup_formed, conclude_formed, effectDone_formed, readG_formed, writeDone_formed]

theorem execXtrigQuery_formed (gd ga : Reg) : OutFormed (execXtrigQuery gd ga s) := by
  unfold execXtrigQuery
  grind [Eff.andThen_formed, checkSup_formed, conclude_formed, foldl_formed, readG_formed, writeDone_formed]

theorem execTracewStart_formed (gd ga gb : Reg) : OutFormed (execTracewStart gd ga gb s) := by
  unfold execTracewStart
  grind [Formed, Eff.andThen_formed, checkSup_formed, conclude_formed, effectDone_formed, readG_formed, writeDone_formed]

theorem execTracewStop_formed (gd ga gb : Reg) : OutFormed (execTracewStop gd ga gb s) := by
  unfold execTracewStop
  grind [Formed, Eff.andThen_formed, checkSup_formed, conclude_formed, effectDone_formed, readG_formed, writeDone_formed]

theorem execTraceStop_formed (cluster : Nat) : OutFormed (execTraceStop cluster s) := by
  unfold execTraceStop
  grind [Formed, OutFormed]

theorem traceArea_formed (a : Word) (align n : Nat) : EffFormed (traceArea s a align n) := by
  unfold traceArea
  grind [EffFormed, Eff.andThen_formed, checkAlign_formed, check_formed]

omit h in
theorem beginDump_formed {s0 : State} (h : Formed s0) (m : Mirror) (d : Word) : Formed (beginDump m d s0) := by
  unfold beginDump
  grind [Formed, State.sleepFor_formed, ioPut_formed]

theorem endDump_formed (w : Waiter) : Formed (endDump s w) := by
  unfold endDump
  grind [answer_formed]

theorem dumpBytes_formed (xs : List (List Word)) : Formed (dumpBytes s xs).2 := by
  unfold dumpBytes
  grind [State.drawBytes_formed]

theorem dumpRow_formed : Formed (dumpRow s) := by
  unfold dumpRow
  grind [Formed, dumpBytes_formed, endDump_formed, ioPut_formed]

theorem execTracewDump_formed (gd ga gb : Reg) : OutFormed (execTracewDump gd ga gb s) := by
  unfold execTracewDump
  grind [Eff.andThen_formed, act_formed, beginDump_formed, checkSup_formed, conclude_formed, endRange_formed,
    probeG_formed, readG_formed, traceArea_formed, writeDone_formed]

theorem execFlash_formed (gd ga gb : Reg) : OutFormed (execFlash gd ga gb s) := by
  unfold execFlash
  grind [Formed, Eff.andThen_formed, checkSup_formed, conclude_formed, effectDone_formed, readG_formed, traceArea_formed,
    writeDone_formed]

theorem writeFlash_formed (f : Flash) (xs : List (Nat × List Byte)) : Formed (writeFlash s f xs) := by
  induction xs generalizing s with
  | nil =>
    unfold writeFlash
    grind [notifyFor_formed, State.sendRecord_formed]
  | cons e es ih =>
    unfold writeFlash
    have hw := ioWrite_formed h
    grind [ResFormed, State.sendRecord_formed]

theorem execFlashPulse_formed : OutFormed (execFlashPulse s) := by
  unfold execFlashPulse
  grind [Formed, OutFormed, writeFlash_formed]

omit h in
theorem noteTurn_formed (before : State) (pc : Word) {s : State} (h : Formed s) : Formed (noteTurn before pc s) := by
  unfold noteTurn
  grind [Formed]

theorem recordMirrors_formed : Formed (recordMirrors s) := by
  unfold recordMirrors
  grind [Formed]

theorem State.passCycle_formed : Formed (s.passCycle) := by
  unfold State.passCycle
  grind [Formed, recordMirrors_formed]

end

/-! The module's life. -/

section

variable {s : State} (h : Formed s)
include h

theorem execEnum_formed (gd ga : Reg) : OutFormed (execEnum gd ga s) := by
  unfold execEnum
  grind [Eff.andThen_formed, conclude_formed, readG_formed, writeDone_formed]

theorem configWrite_formed (offset : Nat) (v : W32) : Formed (configWrite s offset v) := by
  unfold configWrite
  grind [Formed]

theorem failTasks_formed (c : Nat) : Formed (failTasks s c) := (failTasks_calm ..).form h

theorem failUnits_formed (c : Nat) : Formed (failUnits s c) := (failUnits_calm ..).form h

theorem failMemory_formed (c : Nat) : Formed (failMemory s c) := (failMemory_calm ..).form h

theorem retireId_formed (c : Nat) : Formed (retireId s c) := (retireId_calm ..).form h

theorem failCore_formed (c : Nat) : Formed (failCore s c) := by
  unfold failCore
  grind [Formed, State.setCore_formed, failMemory_formed, failTasks_formed, failUnits_formed, journalEvent_formed,
    progressEndings_formed, retireId_formed, settleSnaps_formed, tableChanged_formed]

theorem execCoreFail_formed (core : Nat) : OutFormed (execCoreFail core s) := by
  unfold execCoreFail
  grind [OutFormed, failCore_formed]

theorem execBuiltInSelfCheck_formed (core : Nat) (faulty : Bool) : OutFormed (execBuiltInSelfCheck core faulty s) := by
  unfold execBuiltInSelfCheck
  grind [OutFormed, failCore_formed]

theorem execClockFault_formed (die : Nat) : OutFormed (execClockFault die s) := by
  unfold execClockFault
  grind [Formed, OutFormed, foldl_formed, journalEvent_formed, unshelveAtHub_formed]

theorem execClockFaultClear_formed (die : Nat) : OutFormed (execClockFaultClear die s) := h

theorem execDomainJoin_formed (dev : BitVec 9) (time : Word) : OutFormed (execDomainJoin dev time s) := by
  unfold execDomainJoin
  grind [Formed, OutFormed, journalEvent_formed]

omit h in
theorem poweredOn_formed : Formed (poweredOn s) := by
  unfold poweredOn
  grind [Formed, State.reset_formed]

omit h in
theorem execPowerOn_formed : OutFormed (execPowerOn s) := poweredOn_formed ..

theorem resetPowered_formed : Formed (resetPowered s) := Memory.wf_filter _ _ h

theorem execModuleReset_formed (linksRun : Bool) : OutFormed (execModuleReset linksRun s) := by
  unfold execModuleReset
  grind [Formed, OutFormed, resetPowered_formed]

theorem execLinkWidthChange_formed (link : Nat) (width : BitVec 2) : OutFormed (execLinkWidthChange link width s) := by
  unfold execLinkWidthChange
  grind [Formed, OutFormed, tableChanged_formed]

theorem failGuests_formed : Formed (failGuests s) := (failGuests_calm ..).form h

omit h in
theorem keepOff_formed {α : Type} (link : Nat) (ends : α → Nat × Nat) {s : State} (h : Formed s) (xs : List α) :
    Formed (keepOff link ends s xs).2 := by
  induction xs generalizing s with
  | nil => exact h
  | cons x xs ih =>
    unfold keepOff
    grind [State.draw_formed]

theorem cutBuffers_formed (link : Nat) : Formed (cutBuffers link s) := (cutBuffers_calm ..).form h

theorem cutAccesses_formed (link : Nat) : Formed (cutAccesses link s) := (cutAccesses_calm ..).form h

theorem cutMessages_formed (link : Nat) : Formed (cutMessages link s) := (cutMessages_calm ..).form h

theorem cutEngines_formed (link : Nat) : Formed (cutEngines link s) := (cutEngines_calm ..).form h

theorem cutSnap_formed (link : Nat) (n : Snap) : Formed (cutSnap link s n) := (cutSnap_calm ..).form h

theorem cutSnaps_formed (link : Nat) : Formed (cutSnaps link s) := by
  unfold cutSnaps
  grind [cutSnap_formed, foldl_formed, settleSnaps_formed]

theorem cutTraffic_formed (link : Nat) : Formed (cutTraffic link s) := (cutTraffic_calm ..).form h

theorem execLinkLoss_formed (link : Nat) : OutFormed (execLinkLoss link s) := by
  unfold execLinkLoss
  grind [Formed, OutFormed, State.modRegion_formed, cutTraffic_formed, endPartition_formed, endRegion_formed,
    enterQueue_formed, failGuests_formed, foldl_formed, journalEvent_formed]

theorem absentRecord_formed (region slot : Nat) (a : Word) : Formed (absentRecord s region slot a) :=
  (absentRecord_present ..).form h

theorem absentSlot_formed (slot : Nat) (a : Word) : Formed (absentSlot s slot a) := (absentSlot_present ..).form h

theorem answerAbsent_formed (o : Out) : Formed (answerAbsent s o) := (answerAbsent_present ..).form h

theorem answerAllAbsent_formed : Formed (answerAllAbsent s) := by
  unfold answerAllAbsent
  grind [Formed, answerAbsent_formed, foldl_formed]

theorem execModuleRemoval_formed (dev : BitVec 9) (joins : Bool) : OutFormed (execModuleRemoval dev joins s) := by
  unfold execModuleRemoval
  grind [Formed, OutFormed, answerAllAbsent_formed]

end

/-! The host's commands. -/

section

variable {s : State} (h : Formed s)
include h

theorem loaderWrite_formed (p : Nat) (bs : List Byte) : Formed (loaderWrite s p bs) := by
  unfold loaderWrite
  grind [clearStrong_formed, homeWrite_formed, rawWrite_formed, wakeCounters_formed]

theorem hostWrite_formed (p : Nat) (bs : List Byte) (n : Nat) : Formed (hostWrite s p bs n) := by
  induction n generalizing s p bs with
  | zero => exact h
  | succ fuel ih =>
    unfold hostWrite
    split
    · exact h
    · dsimp only
      refine ih ?_ _ _
      split
      · exact loaderWrite_formed h ..
      · exact h

theorem execHostMemWrite_formed (addr : Nat) (bytes : List Byte) : OutFormed (execHostMemWrite addr bytes s) :=
  hostWrite_formed h ..

theorem discard_formed : Formed (discard s) := h

theorem execDiscardedWrite_formed : OutFormed (execDiscardedWrite s) := discard_formed h ..

theorem execDiscClear_formed : OutFormed (execDiscClear s) := h

omit h in
theorem runCommand_formed {s : State} (h : Formed s) (op : Nat) (cmd : List Byte) {check : CmdCheck}
    (hc : CheckFormed check) : OutFormed (runCommand s op cmd check) := by
  unfold runCommand
  grind [OutFormed, CheckFormed, discard_formed, refuse_formed, journal_formed]

theorem execHostLaunch_formed (cmd : List Byte) : OutFormed (execHostLaunch cmd s) := by
  unfold execHostLaunch
  grind [Formed, MaybeFormed, OutFormed, CheckFormed, acceptLaunch_formed, runCommand_formed, schedRead_formed]

theorem dropRequest_formed (r i : Nat) : Formed (dropRequest s r i) := h

theorem execAllow_formed (cmd : List Byte) : OutFormed (execAllow cmd s) := by
  unfold execAllow
  grind [Formed, OutFormed, CheckFormed, State.modRegion_formed, dropRequest_formed, endLeaseOn_formed, runCommand_formed]

theorem execRevoke_formed (cmd : List Byte) : OutFormed (execRevoke cmd s) := by
  unfold execRevoke
  grind [Formed, OutFormed, CheckFormed, dropRequest_formed, endLeaseOn_formed, runCommand_formed, wakeReside_formed]

theorem execEndRegion_formed (cmd : List Byte) : OutFormed (execEndRegion cmd s) := by
  unfold execEndRegion
  grind [Formed, OutFormed, CheckFormed, endRegion_formed, runCommand_formed]

theorem execAckstop_formed (cmd : List Byte) : OutFormed (execAckstop cmd s) := by
  unfold execAckstop
  grind [Formed, OutFormed, CheckFormed, runCommand_formed]

theorem execFwload_formed (cmd : List Byte) : OutFormed (execFwload cmd s) := by
  unfold execFwload
  grind [Formed, MaybeFormed, OutFormed, CheckFormed, journalEvent_formed, runCommand_formed, schedRead_formed]

theorem execMarkCmd_formed (cmd : List Byte) : OutFormed (execMarkCmd cmd s) := by
  unfold execMarkCmd
  grind [Formed, OutFormed, CheckFormed, runCommand_formed]

theorem execOtherOpCommand_formed (cmd : List Byte) : OutFormed (execOtherOpCommand cmd s) := by
  unfold execOtherOpCommand
  grind [Formed, OutFormed, CheckFormed, runCommand_formed]

theorem execPolicyActivate_formed (p : Policy) : OutFormed (execPolicyActivate p s) := by
  unfold execPolicyActivate
  grind [Formed, OutFormed, State.modCore_formed, foldl_formed]

end

/-! How sleeps end. -/

section

variable {s : State} (h : Formed s)
include h

theorem bardAnswer_formed (i : Nat) (n : BardNote) (a : Answer) : Formed (bardAnswer s i n a) := by
  unfold bardAnswer
  grind [State.modSlot_formed]

theorem requestEnds_formed (i : Nat) (o : Out) (a : Answer) : Formed (requestEnds s i o a) := by
  unfold requestEnds
  grind [State.modSlot_formed, endLease_formed, settleAdvert_formed, unshow_formed]

theorem noteAccepted_formed (grp : Nat) : Formed (noteAccepted s grp) := h

theorem takeAnswer_formed (i : Nat) (a : Answer) : Formed (takeAnswer s i a) := by
  unfold takeAnswer
  grind [Formed, answerLook_formed, answer_formed, bardAnswer_formed, noteAccepted_formed, requestEnds_formed]

theorem answerGuest_formed (i : Nat) : Formed (answerGuest s i) := by
  unfold answerGuest
  grind [Formed]

theorem execSleepWake_formed (slot : Nat) (ans : Option Answer) : OutFormed (execSleepWake slot ans s) := by
  unfold execSleepWake
  grind [OutFormed, answerGuest_formed, resume_formed, takeAnswer_formed]

theorem execWaitlimExpiry_formed (slot : Nat) : OutFormed (execWaitlimExpiry slot s) := by
  unfold execWaitlimExpiry
  grind [OutFormed, State.modSlot_formed]

theorem execWithdrawalResult_formed (slot : Nat) : OutFormed (execWithdrawalResult slot s) := by
  unfold execWithdrawalResult
  grind [OutFormed, noteFault_formed, resume_formed, takeFaultOf_formed, withdrawSlot_formed]

end

/-! Fetches. -/

section

variable {s : State} (h : Formed s)
include h

theorem codeBytes_formed (slot : Nat) (loc : Loc) (pc : Word) : MaybeFormed (codeBytes s slot loc pc) := by
  unfold codeBytes
  grind [MaybeFormed, State.modSlot_formed, codeHit_formed]

theorem fetchWords_formed (slot : Nat) : FetchedFormed (fetchWords s slot) := by
  unfold fetchWords
  grind [ExceptFormed, FetchedFormed, MaybeFormed, accessLoc_formed, afterWalk_formed, codeBytes_formed]

theorem fetchMiss_formed (line : Word) (loc : Loc) : Formed (fetchMiss s line loc) := by
  unfold fetchMiss
  grind [State.stall_formed, fetchBanks_formed, requestLine_formed]

theorem execIllegalEncoding_formed (word : W32) (idx : BitVec 3) : OutFormed (execIllegalEncoding word idx s) :=
  conclude_formed h fun _ hu => hu

end

/-! The service of banks. -/

section

variable {s : State} (h : Formed s)
include h

theorem markServed_formed (b core : Nat) : Formed (markServed s b core) := h

theorem serveWord_formed (slot w : Nat) : Formed (serveWord s slot w) := by
  unfold serveWord
  grind [State.modSlot_formed, bankWrite_formed]

theorem serveBank_formed (b slot : Nat) : Formed (serveBank s b slot) := by
  unfold serveBank
  grind [foldl_formed, markServed_formed, serveWord_formed]

theorem execUpdateEntryArrival_formed (core i : Nat) : OutFormed (execUpdateEntryArrival core i s) := by
  unfold execUpdateEntryArrival
  grind [OutFormed, State.modCore_formed, applyEntry_formed, foldl_formed, markServed_formed]

end

/-! Scalar instructions. -/

section

variable {s : State} (h : Formed s)
include h

theorem binary_formed (gd ga gb : Reg) (f : Word → Word → Word) : EffFormed (binary s gd ga gb f) := by
  unfold binary
  grind [Eff.andThen_formed, readG_formed, writeDone_formed]

theorem unary_formed (gd ga : Reg) (f : Word → Word) : EffFormed (unary s gd ga f) := by
  unfold unary
  grind [Eff.andThen_formed, readG_formed, writeDone_formed]

theorem branch_formed (ga gb : Reg) (off : BitVec 16) (taken : Word → Word → Bool) :
    EffFormed (branch s ga gb off taken) := by
  unfold branch
  grind [EffFormed, Eff.andThen_formed, State.finish_formed, done_formed, readG_formed]

theorem execAdd_formed (gd ga gb : Reg) : OutFormed (execAdd gd ga gb s) := conclude_formed h (binary_formed h ..)

theorem execSub_formed (gd ga gb : Reg) : OutFormed (execSub gd ga gb s) := conclude_formed h (binary_formed h ..)

theorem execAnd_formed (gd ga gb : Reg) : OutFormed (execAnd gd ga gb s) := conclude_formed h (binary_formed h ..)

theorem execOr_formed (gd ga gb : Reg) : OutFormed (execOr gd ga gb s) := conclude_formed h (binary_formed h ..)

theorem execXor_formed (gd ga gb : Reg) : OutFormed (execXor gd ga gb s) := conclude_formed h (binary_formed h ..)

theorem execAndn_formed (gd ga gb : Reg) : OutFormed (execAndn gd ga gb s) := conclude_formed h (binary_formed h ..)

theorem execSll_formed (gd ga gb : Reg) : OutFormed (execSll gd ga gb s) := conclude_formed h (binary_formed h ..)

theorem execSrl_formed (gd ga gb : Reg) : OutFormed (execSrl gd ga gb s) := conclude_formed h (binary_formed h ..)

theorem execSra_formed (gd ga gb : Reg) : OutFormed (execSra gd ga gb s) := conclude_formed h (binary_formed h ..)

theorem execRol_formed (gd ga gb : Reg) : OutFormed (execRol gd ga gb s) := conclude_formed h (binary_formed h ..)

theorem execMin_formed (gd ga gb : Reg) : OutFormed (execMin gd ga gb s) := conclude_formed h (binary_formed h ..)

theorem execMax_formed (gd ga gb : Reg) : OutFormed (execMax gd ga gb s) := conclude_formed h (binary_formed h ..)

theorem execMinu_formed (gd ga gb : Reg) : OutFormed (execMinu gd ga gb s) := conclude_formed h (binary_formed h ..)

theorem execMaxu_formed (gd ga gb : Reg) : OutFormed (execMaxu gd ga gb s) := conclude_formed h (binary_formed h ..)

theorem execSlt_formed (gd ga gb : Reg) : OutFormed (execSlt gd ga gb s) := conclude_formed h (binary_formed h ..)

theorem execSltu_formed (gd ga gb : Reg) : OutFormed (execSltu gd ga gb s) := conclude_formed h (binary_formed h ..)

theorem execSeq_formed (gd ga gb : Reg) : OutFormed (execSeq gd ga gb s) := conclude_formed h (binary_formed h ..)

theorem execSel_formed (gd ga gb : Reg) : OutFormed (execSel gd ga gb s) := by
  unfold execSel
  grind [Eff.andThen_formed, conclude_formed, done_formed, readG_formed, writeDone_formed]

theorem execClz_formed (gd ga : Reg) : OutFormed (execClz gd ga s) := conclude_formed h (unary_formed h ..)

theorem execCtz_formed (gd ga : Reg) : OutFormed (execCtz gd ga s) := conclude_formed h (unary_formed h ..)

theorem execPopc_formed (gd ga : Reg) : OutFormed (execPopc gd ga s) := conclude_formed h (unary_formed h ..)

theorem execBswap_formed (gd ga : Reg) : OutFormed (execBswap gd ga s) := conclude_formed h (unary_formed h ..)

theorem execSextb_formed (gd ga : Reg) : OutFormed (execSextb gd ga s) := conclude_formed h (unary_formed h ..)

theorem execSexth_formed (gd ga : Reg) : OutFormed (execSexth gd ga s) := conclude_formed h (unary_formed h ..)

theorem execSextw_formed (gd ga : Reg) : OutFormed (execSextw gd ga s) := conclude_formed h (unary_formed h ..)

theorem execZextw_formed (gd ga : Reg) : OutFormed (execZextw gd ga s) := conclude_formed h (unary_formed h ..)

theorem execAddi_formed (gd ga : Reg) (imm : BitVec 16) : OutFormed (execAddi gd ga imm s) :=
  conclude_formed h (unary_formed h ..)

theorem execAndi_formed (gd ga : Reg) (imm : BitVec 16) : OutFormed (execAndi gd ga imm s) :=
  conclude_formed h (unary_formed h ..)

theorem execOri_formed (gd ga : Reg) (imm : BitVec 16) : OutFormed (execOri gd ga imm s) :=
  conclude_formed h (unary_formed h ..)

theorem execXori_formed (gd ga : Reg) (imm : BitVec 16) : OutFormed (execXori gd ga imm s) :=
  conclude_formed h (unary_formed h ..)

theorem execSlli_formed (gd ga : Reg) (sh : BitVec 6) : OutFormed (execSlli gd ga sh s) :=
  conclude_formed h (unary_formed h ..)

theorem execSrli_formed (gd ga : Reg) (sh : BitVec 6) : OutFormed (execSrli gd ga sh s) :=
  conclude_formed h (unary_formed h ..)

theorem execSrai_formed (gd ga : Reg) (sh : BitVec 6) : OutFormed (execSrai gd ga sh s) :=
  conclude_formed h (unary_formed h ..)

theorem execSlti_formed (gd ga : Reg) (imm : BitVec 15) : OutFormed (execSlti gd ga imm s) :=
  conclude_formed h (unary_formed h ..)

theorem execSltiu_formed (gd ga : Reg) (imm : BitVec 15) : OutFormed (execSltiu gd ga imm s) :=
  conclude_formed h (unary_formed h ..)

theorem execLui_formed (gd : Reg) (imm : BitVec 21) : OutFormed (execLui gd imm s) :=
  conclude_formed h (writeDone_formed h ..)

theorem execAdpc_formed (gd : Reg) (imm : BitVec 21) : OutFormed (execAdpc gd imm s) :=
  conclude_formed h (writeDone_formed h ..)

theorem execMul_formed (gd ga gb : Reg) : OutFormed (execMul gd ga gb s) := conclude_formed h (binary_formed h ..)

theorem execMulh_formed (gd ga gb : Reg) : OutFormed (execMulh gd ga gb s) := conclude_formed h (binary_formed h ..)

theorem execMulhu_formed (gd ga gb : Reg) : OutFormed (execMulhu gd ga gb s) := conclude_formed h (binary_formed h ..)

theorem execDiv_formed (gd ga gb : Reg) : OutFormed (execDiv gd ga gb s) := conclude_formed h (binary_formed h ..)

theorem execDivu_formed (gd ga gb : Reg) : OutFormed (execDivu gd ga gb s) := conclude_formed h (binary_formed h ..)

theorem execRem_formed (gd ga gb : Reg) : OutFormed (execRem gd ga gb s) := conclude_formed h (binary_formed h ..)

theorem execRemu_formed (gd ga gb : Reg) : OutFormed (execRemu gd ga gb s) := conclude_formed h (binary_formed h ..)

theorem execFadd_formed (gd ga gb : Reg) : OutFormed (execFadd gd ga gb s) := conclude_formed h (binary_formed h ..)

theorem execFsub_formed (gd ga gb : Reg) : OutFormed (execFsub gd ga gb s) := conclude_formed h (binary_formed h ..)

theorem execFmul_formed (gd ga gb : Reg) : OutFormed (execFmul gd ga gb s) := conclude_formed h (binary_formed h ..)

theorem execFmin_formed (gd ga gb : Reg) : OutFormed (execFmin gd ga gb s) := conclude_formed h (binary_formed h ..)

theorem execFmax_formed (gd ga gb : Reg) : OutFormed (execFmax gd ga gb s) := conclude_formed h (binary_formed h ..)

theorem execFfma_formed (gd ga gb : Reg) : OutFormed (execFfma gd ga gb s) := by
  unfold execFfma
  grind [Eff.andThen_formed, conclude_formed, readG_formed, writeDone_formed]

theorem execFcmp_formed (gd ga gb : Reg) (cc : BitVec 2) : OutFormed (execFcmp gd ga gb cc s) :=
  conclude_formed h (binary_formed h ..)

theorem execFcvtif_formed (gd ga : Reg) (u : Bool) : OutFormed (execFcvtif gd ga u s) :=
  conclude_formed h (unary_formed h ..)

theorem execFcvtfi_formed (gd ga : Reg) (u : Bool) : OutFormed (execFcvtfi gd ga u s) :=
  conclude_formed h (unary_formed h ..)

theorem execFneg_formed (gd ga : Reg) : OutFormed (execFneg gd ga s) := conclude_formed h (unary_formed h ..)

theorem execBeq_formed (ga gb : Reg) (off : BitVec 16) : OutFormed (execBeq ga gb off s) :=
  conclude_formed h (branch_formed h ..)

theorem execBne_formed (ga gb : Reg) (off : BitVec 16) : OutFormed (execBne ga gb off s) :=
  conclude_formed h (branch_formed h ..)

theorem execBlt_formed (ga gb : Reg) (off : BitVec 16) : OutFormed (execBlt ga gb off s) :=
  conclude_formed h (branch_formed h ..)

theorem execBge_formed (ga gb : Reg) (off : BitVec 16) : OutFormed (execBge ga gb off s) :=
  conclude_formed h (branch_formed h ..)

theorem execBltu_formed (ga gb : Reg) (off : BitVec 16) : OutFormed (execBltu ga gb off s) :=
  conclude_formed h (branch_formed h ..)

theorem execBgeu_formed (ga gb : Reg) (off : BitVec 16) : OutFormed (execBgeu ga gb off s) :=
  conclude_formed h (branch_formed h ..)

theorem execJmp_formed (off : BitVec 26) : OutFormed (execJmp off s) := conclude_formed h (State.finish_formed h _)

theorem execCall_formed (off : BitVec 26) : OutFormed (execCall off s) := by
  unfold execCall
  grind [EffFormed, Eff.andThen_formed, State.finish_formed, conclude_formed, writeG_formed]

theorem execJr_formed (gd ga : Reg) : OutFormed (execJr gd ga s) := by
  unfold execJr
  grind [EffFormed, Eff.andThen_formed, State.finish_formed, check_formed, conclude_formed, readG_formed, writeG_formed]

end

/-! The dispatch. -/

section

variable {s : State} (h : Formed s)
include h

theorem exec_formed (i : Instr) : OutFormed (exec i s) :=
  match i with
  | .add gd ga gb => execAdd_formed h gd ga gb
  | .sub gd ga gb => execSub_formed h gd ga gb
  | .and gd ga gb => execAnd_formed h gd ga gb
  | .or gd ga gb => execOr_formed h gd ga gb
  | .xor gd ga gb => execXor_formed h gd ga gb
  | .andn gd ga gb => execAndn_formed h gd ga gb
  | .sll gd ga gb => execSll_formed h gd ga gb
  | .srl gd ga gb => execSrl_formed h gd ga gb
  | .sra gd ga gb => execSra_formed h gd ga gb
  | .rol gd ga gb => execRol_formed h gd ga gb
  | .min gd ga gb => execMin_formed h gd ga gb
  | .max gd ga gb => execMax_formed h gd ga gb
  | .minu gd ga gb => execMinu_formed h gd ga gb
  | .maxu gd ga gb => execMaxu_formed h gd ga gb
  | .slt gd ga gb => execSlt_formed h gd ga gb
  | .sltu gd ga gb => execSltu_formed h gd ga gb
  | .seq gd ga gb => execSeq_formed h gd ga gb
  | .sel gd ga gb => execSel_formed h gd ga gb
  | .clz gd ga => execClz_formed h gd ga
  | .ctz gd ga => execCtz_formed h gd ga
  | .popc gd ga => execPopc_formed h gd ga
  | .bswap gd ga => execBswap_formed h gd ga
  | .sextb gd ga => execSextb_formed h gd ga
  | .sexth gd ga => execSexth_formed h gd ga
  | .sextw gd ga => execSextw_formed h gd ga
  | .zextw gd ga => execZextw_formed h gd ga
  | .addi gd ga imm => execAddi_formed h gd ga imm
  | .andi gd ga imm => execAndi_formed h gd ga imm
  | .ori gd ga imm => execOri_formed h gd ga imm
  | .xori gd ga imm => execXori_formed h gd ga imm
  | .slli gd ga sh => execSlli_formed h gd ga sh
  | .srli gd ga sh => execSrli_formed h gd ga sh
  | .srai gd ga sh => execSrai_formed h gd ga sh
  | .slti gd ga imm => execSlti_formed h gd ga imm
  | .sltiu gd ga imm => execSltiu_formed h gd ga imm
  | .lui gd imm => execLui_formed h gd imm
  | .adpc gd imm => execAdpc_formed h gd imm
  | .mul gd ga gb => execMul_formed h gd ga gb
  | .mulh gd ga gb => execMulh_formed h gd ga gb
  | .mulhu gd ga gb => execMulhu_formed h gd ga gb
  | .div gd ga gb => execDiv_formed h gd ga gb
  | .divu gd ga gb => execDivu_formed h gd ga gb
  | .rem gd ga gb => execRem_formed h gd ga gb
  | .remu gd ga gb => execRemu_formed h gd ga gb
  | .fadd gd ga gb => execFadd_formed h gd ga gb
  | .fsub gd ga gb => execFsub_formed h gd ga gb
  | .fmul gd ga gb => execFmul_formed h gd ga gb
  | .ffma gd ga gb => execFfma_formed h gd ga gb
  | .fmin gd ga gb => execFmin_formed h gd ga gb
  | .fmax gd ga gb => execFmax_formed h gd ga gb
  | .fcmp gd ga gb cc => execFcmp_formed h gd ga gb cc
  | .fcvtif gd ga u => execFcvtif_formed h gd ga u
  | .fcvtfi gd ga u => execFcvtfi_formed h gd ga u
  | .fneg gd ga => execFneg_formed h gd ga
  | .beq ga gb off => execBeq_formed h ga gb off
  | .bne ga gb off => execBne_formed h ga gb off
  | .blt ga gb off => execBlt_formed h ga gb off
  | .bge ga gb off => execBge_formed h ga gb off
  | .bltu ga gb off => execBltu_formed h ga gb off
  | .bgeu ga gb off => execBgeu_formed h ga gb off
  | .jmp off => execJmp_formed h off
  | .call off => execCall_formed h off
  | .jr gd ga => execJr_formed h gd ga
  | .ld gd ga w off => execLd_formed h gd ga w off
  | .ldA8 gd ga off => execLdA8_formed h gd ga off
  | .ldu gd ga w off => execLdu_formed h gd ga w off
  | .st gd ga w off => execSt_formed h gd ga w off
  | .stA8 gd ga off => execStA8_formed h gd ga off
  | .ldacq gd ga scope w off => execLdacq_formed h gd ga scope w off
  | .strel gd ga scope w off => execStrel_formed h gd ga scope w off
  | .renew ga => execRenew_formed h ga
  | .drop ga => execDrop_formed h ga
  | .prune ga gb => execPrune_formed h ga gb
  | .pref ga => execPref_formed h ga
  | .fenceAcq scope => execFenceAcq_formed h scope
  | .fenceRel scope => execFenceRel_formed h scope
  | .fenceFull scope => execFenceFull_formed h scope
  | .amoAdd gd ga gb scope ord w8 => execAmoAdd_formed h gd ga gb scope ord w8
  | .amoAnd gd ga gb scope ord w8 => execAmoAnd_formed h gd ga gb scope ord w8
  | .amoOr gd ga gb scope ord w8 => execAmoOr_formed h gd ga gb scope ord w8
  | .amoXor gd ga gb scope ord w8 => execAmoXor_formed h gd ga gb scope ord w8
  | .amoMin gd ga gb scope ord w8 => execAmoMin_formed h gd ga gb scope ord w8
  | .amoMax gd ga gb scope ord w8 => execAmoMax_formed h gd ga gb scope ord w8
  | .amoMinu gd ga gb scope ord w8 => execAmoMinu_formed h gd ga gb scope ord w8
  | .amoMaxu gd ga gb scope ord w8 => execAmoMaxu_formed h gd ga gb scope ord w8
  | .amoSwap gd ga gb scope ord w8 => execAmoSwap_formed h gd ga gb scope ord w8
  | .amoFadd gd ga gb scope ord => execAmoFadd_formed h gd ga gb scope ord
  | .cas gd ga gb scope sord facq w8 => execCas_formed h gd ga gb scope sord facq w8
  | .lrw gd ga scope w8 => execLrw_formed h gd ga scope w8
  | .sch gd ga gb scope w8 => execSch_formed h gd ga gb scope w8
  | .ldfe gd ga => execLdfe_formed h gd ga
  | .ldff gd ga => execLdff_formed h gd ga
  | .stef ga gb => execStef_formed h ga gb
  | .sete ga => execSete_formed h ga
  | .arrive gd ga gb scope => execArrive_formed h gd ga gb scope
  | .waitph ga gb scope => execWaitph_formed h ga gb scope
  | .bard gd ga gb scope => execBard_formed h gd ga gb scope
  | .waitcnt gd ga gb scope => execWaitcnt_formed h gd ga gb scope
  | .notify ga gb scope => execNotify_formed h ga gb scope
  | .rupd gd ga gb scope op => execRupd_formed h gd ga gb scope op
  | .ldq gd ga flags off => execLdq_formed h gd ga flags off
  | .stq gd ga flags off => execStq_formed h gd ga flags off
  | .send gd ga gb scope => execSend_formed h gd ga gb scope
  | .spawn gd ga gb scope => execSpawn_formed h gd ga gb scope
  | .recv gd ga => execRecv_formed h gd ga
  | .peek gd => execPeek_formed h gd
  | .migrate gd ga => execMigrate_formed h gd ga
  | .yield gd ga => execYield_formed h gd ga
  | .exit => execExit_formed h
  | .slotq gd => execSlotq_formed h gd
  | .suspend gd ga => execSuspend_formed h gd ga
  | .force gd ga => execForce_formed h gd ga
  | .fpoll gd ga => execFpoll_formed h gd ga
  | .spark gd ga => execSpark_formed h gd ga
  | .retain ga => execRetain_formed h ga
  | .release ga => execRelease_formed h ga
  | .mkval gd ga => execMkval_formed h gd ga
  | .hstate gd ga => execHstate_formed h gd ga
  | .snap gd ga gb => execSnap_formed h gd ga gb
  | .accept ga => execAccept_formed h ga
  | .reject gd ga => execReject_formed h gd ga
  | .snapq gd ga => execSnapq_formed h gd ga
  | .shuf gd ga gb => execShuf_formed h gd ga gb
  | .side gd ga gb => execSide_formed h gd ga gb
  | .unside gd gb => execUnside_formed h gd gb
  | .disp gd ga gb => execDisp_formed h gd ga gb
  | .shq gd ga => execShq_formed h gd ga
  | .bind ga q => execBind_formed h ga q
  | .unbind q => execUnbind_formed h q
  | .closeb gd => execCloseb_formed h gd
  | .waitb gd n => execWaitb_formed h gd n
  | .spos gd q => execSpos_formed h gd q
  | .launch gd ga => execLaunch_formed h gd ga
  | .rcreate gd ga => execRcreate_formed h gd ga
  | .rbudget gd ga gb => execRbudget_formed h gd ga gb
  | .resideReq gd ga gb => execResideReq_formed h gd ga gb
  | .resideRel gd ga gb => execResideRel_formed h gd ga gb
  | .resideQry gd ga gb => execResideQry_formed h gd ga gb
  | .atTime gd ga gb => execAtTime_formed h gd ga gb
  | .waitt gd ga => execWaitt_formed h gd ga
  | .gang gd ga => execGang_formed h gd ga
  | .rdone gd ga => execRdone_formed h gd ga
  | .crr gd cr => execCrr_formed h gd cr
  | .crw ga cr => execCrw_formed h ga cr
  | .crs gd ga cr => execCrs_formed h gd ga cr
  | .crc gd ga cr => execCrc_formed h gd ga cr
  | .trap ga cc => execTrap_formed h ga cc
  | .eretSelf => execEretSelf_formed h
  | .eretResume gd ga gb => execEretResume_formed h gd ga gb
  | .eretEnd gd ga => execEretEnd_formed h gd ga
  | .tqpop gd ga => execTqpop_formed h gd ga
  | .tlbinvRange gd ga gb => execTlbinvRange_formed h gd ga gb
  | .tlbinvAll gd => execTlbinvAll_formed h gd
  | .tlbinvReplay gd ga gb => execTlbinvReplay_formed h gd ga gb
  | .nop => execNop_formed h
  | .enum gd ga => execEnum_formed h gd ga
  | .bkpt code => execBkpt_formed h code
  | .watch ga gb kind wp => execWatch_formed h ga gb kind wp
  | .xtrigHalt gd ga => execXtrigHalt_formed h gd ga
  | .xtrigResume gd ga => execXtrigResume_formed h gd ga
  | .xtrigQuery gd ga => execXtrigQuery_formed h gd ga
  | .tracewStart gd ga gb => execTracewStart_formed h gd ga gb
  | .tracewStop gd ga gb => execTracewStop_formed h gd ga gb
  | .tracewDump gd ga gb => execTracewDump_formed h gd ga gb
  | .flash gd ga gb => execFlash_formed h gd ga gb
  | .hsift gd ga gb => execHsift_formed h gd ga gb
  | .htake gd ga => execHtake_formed h gd ga
  | .kset ga kc => execKset_formed h ga kc
  | .kwait gd ga kc => execKwait_formed h gd ga kc
  | .kread gd kc => execKread_formed h gd kc
  | .mma t => execMma_formed h t
  | .mmar t => execMmar_formed h t
  | .rot t => execRot_formed h t
  | .zacc t => execZacc_formed h t
  | .tadd t => execTadd_formed h t
  | .tsub t => execTsub_formed h t
  | .tmul t => execTmul_formed h t
  | .tfma t => execTfma_formed h t
  | .tmax t => execTmax_formed h t
  | .tmin t => execTmin_formed h t
  | .texp t => execTexp_formed h t
  | .trcp t => execTrcp_formed h t
  | .trsq t => execTrsq_formed h t
  | .tsilu t => execTsilu_formed h t
  | .tgelu t => execTgelu_formed h t
  | .tcmp t => execTcmp_formed h t
  | .tsel t => execTsel_formed h t
  | .ttrn t => execTtrn_formed h t
  | .tred t => execTred_formed h t
  | .tbcast t => execTbcast_formed h t
  | .tfill t => execTfill_formed h t
  | .combine t => execCombine_formed h t
  | .ldtab t => execLdtab_formed h t
  | .cvt t => execCvt_formed h t
  | .qnt t => execQnt_formed h t
  | .dqt t => execDqt_formed h t
  | .amax t => execAmax_formed h t
  | .scl t => execScl_formed h t
  | .copy t => execCopy_formed h t
  | .gather t => execGather_formed h t
  | .scatter t => execScatter_formed h t
  | .coll t => execColl_formed h t
  | .illegalEncoding word idx => execIllegalEncoding_formed h word idx
  | .tileDispatch e unit => execTileDispatch_formed h e unit
  | .tileCompletion e unit => execTileCompletion_formed h e unit
  | .completionMessagePlace core => execCompletionMessagePlace_formed h core
  | .ringHandoff core => execRingHandoff_formed h core
  | .fetchLineFill slot => execFetchLineFill_formed h slot
  | .streamStallResume slot => execStreamStallResume_formed h slot
  | .storeDrain core n => execStoreDrain_formed h core n
  | .remoteStoreAccept slot ans => execRemoteStoreAccept_formed h slot ans
  | .homeLoadRequest n => execHomeLoadRequest_formed h n
  | .loadReply src => execLoadReply_formed h src
  | .leaseExpiry core n => execLeaseExpiry_formed h core n
  | .homeEviction line => execHomeEviction_formed h line
  | .atomicAtHome n => execAtomicAtHome_formed h n
  | .updateEntryArrival core n => execUpdateEntryArrival_formed h core n
  | .rupdCountAdd n => execRupdCountAdd_formed h n
  | .lrwResend slot => execLrwResend_formed h slot
  | .reservationTimeout n => execReservationTimeout_formed h n
  | .bardNotificationArrival src => execBardNotificationArrival_formed h src
  | .bardResend n => execBardResend_formed h n
  | .sleepWake slot ans => execSleepWake_formed h slot ans
  | .waitlimExpiry slot => execWaitlimExpiry_formed h slot
  | .withdrawalResult slot => execWithdrawalResult_formed h slot
  | .messageArrival src => execMessageArrival_formed h src
  | .taskStart src => execTaskStart_formed h src
  | .taskBudgetRetest n => execTaskBudgetRetest_formed h n
  | .spawnRequestArrival n => execSpawnRequestArrival_formed h n
  | .spawnAnswerArrival n => execSpawnAnswerArrival_formed h n
  | .migrateTransfer n => execMigrateTransfer_formed h n
  | .yieldTimeout slot => execYieldTimeout_formed h slot
  | .coreHot core hot => execCoreHot_formed h core hot
  | .thermalDisplacement core => execThermalDisplacement_formed h core
  | .sparkTake core => execSparkTake_formed h core
  | .sparkDrop cluster n => execSparkDrop_formed h cluster n
  | .evalWake n => execEvalWake_formed h n
  | .frameGrant ev => execFrameGrant_formed h ev
  | .evalCommandComplete ev => execEvalCommandComplete_formed h ev
  | .referenceDrop n => execReferenceDrop_formed h n
  | .snapAnnounce seq home => execSnapAnnounce_formed h seq home
  | .snapshotEndAnnounce seq home => execSnapshotEndAnnounce_formed h seq home
  | .advertisementArrival src => execAdvertisementArrival_formed h src
  | .shelfExpiry n => execShelfExpiry_formed h n
  | .cupboardExpiry n => execCupboardExpiry_formed h n
  | .blockPostArrival src => execBlockPostArrival_formed h src
  | .shufResend slot => execShufResend_formed h slot
  | .codingWindowExpiry => execCodingWindowExpiry_formed h
  | .retransmitRelease n => execRetransmitRelease_formed h n
  | .packetReceive src => execPacketReceive_formed h src
  | .nackArrival src => execNackArrival_formed h src
  | .lossNotice src => execLossNotice_formed h src
  | .cupboardEviction n => execCupboardEviction_formed h n
  | .dispatchArrival src => execDispatchArrival_formed h src
  | .placeRow n => execPlaceRow_formed h n
  | .collTimeout n => execCollTimeout_formed h n
  | .launchPlacement n => execLaunchPlacement_formed h n
  | .residencyGrant region entry => execResidencyGrant_formed h region entry
  | .residencyRelease region entry => execResidencyRelease_formed h region entry
  | .alarm core n => execAlarm_formed h core n
  | .waittWake slot => execWaittWake_formed h slot
  | .gangSwitchOut part => execGangSwitchOut_formed h part
  | .gangSwitchIn part => execGangSwitchIn_formed h part
  | .trapRecordAppend n => execTrapRecordAppend_formed h n
  | .heldRecordAppend n => execHeldRecordAppend_formed h n
  | .remoteAccessArrival a => execRemoteAccessArrival_formed h a
  | .xlateReplayTimeout n => execXlateReplayTimeout_formed h n
  | .sharerInvalidate reader line => execSharerInvalidate_formed h reader line
  | .linePoison line => execLinePoison_formed h line
  | .builtInSelfCheck core faulty => execBuiltInSelfCheck_formed h core faulty
  | .coreFail core => execCoreFail_formed h core
  | .clockFault die => execClockFault_formed h die
  | .domainJoin dev time => execDomainJoin_formed h dev time
  | .powerOn => execPowerOn_formed
  | .linkWidthChange link width => execLinkWidthChange_formed h link width
  | .linkLoss link => execLinkLoss_formed h link
  | .moduleReset linksRun => execModuleReset_formed h linksRun
  | .moduleRemoval dev joins => execModuleRemoval_formed h dev joins
  | .hostMemWrite addr bytes => execHostMemWrite_formed h addr bytes
  | .hostLaunch cmd => execHostLaunch_formed h cmd
  | .allow cmd => execAllow_formed h cmd
  | .revoke cmd => execRevoke_formed h cmd
  | .endRegion cmd => execEndRegion_formed h cmd
  | .ackstop cmd => execAckstop_formed h cmd
  | .fwload cmd => execFwload_formed h cmd
  | .markCmd cmd => execMarkCmd_formed h cmd
  | .discardedWrite => execDiscardedWrite_formed h
  | .discClear => execDiscClear_formed h
  | .policyActivate p => execPolicyActivate_formed h p
  | .hgdataWrite slot => execHgdataWrite_formed h slot
  | .rafWrite slot => execRafWrite_formed h slot
  | .tqnoteWrite slot => execTqnoteWrite_formed h slot
  | .tqstatWrite slot => execTqstatWrite_formed h slot
  | .traceStop cluster => execTraceStop_formed h cluster
  | .flashPulse => execFlashPulse_formed h
  | .clockFaultClear die => execClockFaultClear_formed h die
  | .matrixBlockEnd core => execMatrixBlockEnd_formed h core
  | .partialResultArrival p => execPartialResultArrival_formed h p
  | .uncorrectableError u => execUncorrectableError_formed h u
  | .otherOpCommand cmd => execOtherOpCommand_formed h cmd

end

/-! The events of the device. -/

section

variable {s : State} (h : Formed s)
include h

omit h in
theorem changing_formed (s : State) {o : Host.Outcome State Fault Refusal} (ho : OutFormed o) :
    OptFormed (changing s o) := by
  unfold changing
  split
  · split
    · trivial
    · exact ho
  · trivial

omit h in
theorem firstOf_formed (s : State) {f : Nat → Host.Outcome State Fault Refusal} (hf : ∀ n, OutFormed (f n))
    (ns : List Nat) : OptFormed (firstOf s f ns) := by
  induction ns with
  | nil => trivial
  | cons n ns ih => exact (changing_formed s (hf n)).or ih

omit h in
theorem among_formed (n : Nat) {f : Nat → State → Host.Outcome State Fault Refusal} {s : State}
    (hf : ∀ i, OutFormed (f i s)) : OptFormed (among n f s) := by
  unfold among
  grind [firstOf_formed]

end

theorem OptFormed.ite {c : Prop} [Decidable c] {o : Option State} (ho : OptFormed o) :
    OptFormed (if c then o else none) := by
  split
  · exact ho
  · trivial

theorem OptFormed.elim {o : Option State} (ho : OptFormed o) {s : State} (h : Formed s) :
    OutFormed (o.elim (.next s) .next) := by
  cases o with
  | none => exact h
  | some t => exact ho

theorem dueEvents_formed {s : State} (h : Formed s) : ∀ f ∈ dueEvents s, OptFormed (f s) := by
  simp only [dueEvents, List.forall_mem_cons]
  exact ⟨(changing_formed s (execFlashPulse_formed h)).ite,
    firstOf_formed s (fun i => execGangSwitchOut_formed h i) _,
    firstOf_formed s (fun i => execGangSwitchIn_formed h i) _,
    firstOf_formed s (fun i => execLaunchPlacement_formed h i) _,
    firstOf_formed s (fun c => (firstOf_formed s (fun i => execAlarm_formed h c i) _).elim h) _,
    among_formed _ fun i => execShelfExpiry_formed h i,
    among_formed _ fun i => execCupboardExpiry_formed h i,
    firstOf_formed s (fun i => execWaittWake_formed h i) _,
    firstOf_formed s (fun i => execYieldTimeout_formed h i) _,
    firstOf_formed s (fun i => execWaitlimExpiry_formed h i) _,
    (by split; trivial; exact changing_formed s (execCodingWindowExpiry_formed h)),
    among_formed _ fun i => execRetransmitRelease_formed h i,
    among_formed _ fun i => execCollTimeout_formed h i,
    among_formed _ fun i => execXlateReplayTimeout_formed h i,
    among_formed _ fun i => execReservationTimeout_formed h i,
    OptFormed.ite (answerAllAbsent_formed h),
    firstOf_formed s (fun c => execTraceStop_formed h c) _, by simp⟩

section

variable {s : State} (h : Formed s)
include h

theorem dueNow_formed : OptFormed (dueNow s) := findSome_formed _ (dueEvents_formed h)

theorem drainOf_formed (c i : Nat) : OutFormed (drainOf c i s) := by
  unfold drainOf
  grind [OutFormed, execStoreDrain_formed, execUpdateEntryArrival_formed]

theorem loadOf_formed (i : Nat) : OutFormed (loadOf i s) := by
  unfold loadOf
  grind [OutFormed, execHomeLoadRequest_formed, execLoadReply_formed]

theorem registerWrite_formed (w : DevWrite) : OutFormed (registerWrite w s) := by
  unfold registerWrite
  grind [execHgdataWrite_formed, execRafWrite_formed, execTqnoteWrite_formed, execTqstatWrite_formed]

theorem flightOf_formed (i : Nat) : OutFormed (flightOf i s) := by
  unfold flightOf
  grind [OutFormed, execBardNotificationArrival_formed, execMessageArrival_formed, execMigrateTransfer_formed,
    execSpawnAnswerArrival_formed, execSpawnRequestArrival_formed, execTaskStart_formed]

omit h in
theorem coreUnits_formed (c : Nat) {s : State} (h : Formed s) : OptFormed (coreUnits c s) := by
  refine findSome_formed _ fun f hf => changing_formed s ?_
  simp only [List.mem_cons, List.not_mem_nil, or_false] at hf
  rcases hf with rfl | rfl | rfl | rfl | rfl | rfl | rfl | rfl | rfl | rfl | rfl
  · exact execTileCompletion_formed h ..
  · exact execTileCompletion_formed h ..
  · exact execTileCompletion_formed h ..
  · exact execMatrixBlockEnd_formed h c
  · exact execRingHandoff_formed h c
  · exact execCompletionMessagePlace_formed h c
  · exact execTileDispatch_formed h ..
  · exact execTileDispatch_formed h ..
  · exact execTileDispatch_formed h ..
  · exact execTileDispatch_formed h ..
  · exact execTileDispatch_formed h ..

end

theorem slotEvents_formed {s : State} (h : Formed s) : ∀ f ∈ slotEvents s, OptFormed (f s) := by
  simp only [slotEvents, List.forall_mem_cons]
  exact ⟨firstOf_formed s (fun i => execSleepWake_formed h i none) _,
    firstOf_formed s (fun i => execWithdrawalResult_formed h i) _,
    firstOf_formed s (fun i => execFetchLineFill_formed h i) _, by simp⟩

theorem memoryEvents_formed {s : State} (h : Formed s) : ∀ f ∈ memoryEvents s, OptFormed (f s) := by
  simp only [memoryEvents, List.forall_mem_append, List.forall_mem_map, List.forall_mem_cons]
  refine ⟨fun e _ => among_formed _ fun i => drainOf_formed h e.1 i, among_formed _ fun i => loadOf_formed h i,
    among_formed _ fun i => execAtomicAtHome_formed h i, among_formed _ fun i => execRupdCountAdd_formed h i,
    among_formed _ fun i => flightOf_formed h i, findSome_formed _ fun w _ => changing_formed s (registerWrite_formed h w),
    findSome_formed _ fun v _ => changing_formed s (execSharerInvalidate_formed h _ _),
    among_formed _ fun i => execTrapRecordAppend_formed h i, ?_, findSome_formed _ fun n _ => ?_,
    findSome_formed _ fun x _ => changing_formed s (execResidencyRelease_formed h _ _),
    findSome_formed _ fun q _ => changing_formed s (execResidencyGrant_formed h _ _), by simp⟩
  · split
    · trivial
    · exact among_formed _ fun i => execHeldRecordAppend_formed h i
  · refine (firstOf_formed s (fun g => execSnapAnnounce_formed h n.seq g) _).or ?_
    cases n.ending with
    | none => trivial
    | some e => exact firstOf_formed s (fun g => execSnapshotEndAnnounce_formed h n.seq g) _

theorem unitEvents_formed {s : State} (h : Formed s) : ∀ f ∈ unitEvents s, OptFormed (f s) := by
  simp only [unitEvents, List.forall_mem_append, List.forall_mem_map, List.forall_mem_cons]
  exact ⟨fun e _ => coreUnits_formed e.1 h,
    firstOf_formed s (fun cl => execTileCompletion_formed h .copy cl) _,
    firstOf_formed s (fun cl => execTileDispatch_formed h .copy cl) _,
    changing_formed s (progressEndings_formed h), (by split; trivial; exact dumpRow_formed h),
    among_formed _ fun i => execTileCompletion_formed h .collective i, among_formed _ fun i => execEvalWake_formed h i,
    firstOf_formed s (fun e => execEvalCommandComplete_formed h e) _,
    firstOf_formed s (fun e => execFrameGrant_formed h e) _,
    among_formed _ fun i => execReferenceDrop_formed h i,
    findSome_formed _ fun e _ => firstOf_formed s (fun c => execSparkTake_formed h c) _,
    among_formed _ fun i => execAdvertisementArrival_formed h _, among_formed _ fun i => execBlockPostArrival_formed h _,
    among_formed _ fun i => execPacketReceive_formed h _, among_formed _ fun i => execNackArrival_formed h _,
    among_formed _ fun i => execLossNotice_formed h _, among_formed _ fun i => execDispatchArrival_formed h _,
    among_formed _ fun i => execPlaceRow_formed h i,
    firstOf_formed s (fun c => execThermalDisplacement_formed h c) _, by simp⟩

section

variable {s : State} (h : Formed s)
include h

theorem nextEvent_formed : OptFormed (nextEvent s) := by
  unfold nextEvent
  refine findSome_formed _ ?_
  simp only [List.cons_append, List.forall_mem_cons, List.forall_mem_append]
  exact ⟨among_formed _ fun i => execLaunchPlacement_formed h i, ⟨slotEvents_formed h, memoryEvents_formed h⟩,
    unitEvents_formed h⟩

theorem resendAll_formed : Formed (resendAll s) := by
  unfold resendAll
  have hgo : ∀ u o, Formed u → OutFormed o → Formed ((changing u o).getD u) := fun u _ hu ho =>
    (changing_formed u ho).getD hu
  refine foldl_formed (fun u i hu => hgo u _ hu (execShufResend_formed hu i)) _ ?_
  refine foldl_formed (fun u i hu => hgo u _ hu (execBardResend_formed hu i)) _ ?_
  exact foldl_formed (fun u i hu => hgo u _ hu (execLrwResend_formed hu i)) _ h

theorem passOne_formed : Formed (passOne s) := by
  unfold passOne
  grind [State.passCycle_formed, resendAll_formed]

end

/-! Turns. -/

section

variable {s : State} (h : Formed s)
include h

omit h in
theorem noted_formed (s : State) {o : Host.Outcome State Fault Refusal} (ho : OutFormed o) : OutFormed (noted s o) := by
  unfold noted
  grind [OutFormed, noteTurn_formed]

theorem beginTurn_formed (slot : Nat) : Formed (beginTurn s slot) := h

theorem issueNow_formed (i : Instr) : Formed (issueNow s i) := State.modMe_formed h ..

theorem pushOn_formed (r : Reg) (v : Word) : OutFormed (pushOn s r v) := conclude_formed h (writeDone_formed h ..)

omit h in
theorem fetchAndRun_formed {note : Host.Outcome State Fault Refusal → Host.Outcome State Fault Refusal}
    (hn : ∀ o, OutFormed o → OutFormed (note o)) {s : State} (h : Formed s) : OutFormed (fetchAndRun note s) := by
  unfold fetchAndRun
  grind [FetchedFormed, OutFormed, dropSusp_formed, exec_formed, fetchMiss_formed, fetchWords_formed, issueNow_formed,
    pushOn_formed, takeFault_formed]

theorem takeTurn_formed (slot : Nat) : OutFormed (takeTurn s slot) := by
  unfold takeTurn
  grind [beginTurn_formed, fetchAndRun_formed, noted_formed]

theorem serviceTurn_formed (b slot : Nat) : OutFormed (serviceTurn s b slot) := by
  unfold serviceTurn
  grind [Formed, OutFormed, State.modMe_formed, fetchAndRun_formed, noteFault_formed, serveBank_formed]

theorem passStep_formed (after : List Move) : OutFormed (passStep s after) := by
  unfold passStep
  grind [Formed, OutFormed, passOne_formed, serviceTurn_formed, takeTurn_formed]

theorem delivered_formed (i : Nat) : Formed (delivered s i) := by
  unfold delivered
  grind [Formed]

theorem runMove_formed (m : Move) (rest : List Move) : OutFormed (runMove m rest s) := by
  unfold runMove
  grind [Formed, OutFormed, configWrite_formed, delivered_formed, dumpRow_formed, exec_formed, passStep_formed,
    takeTurn_formed]

theorem defaultMove_formed : OutFormed (defaultMove s) := by
  unfold defaultMove
  grind [OptFormed, OutFormed, nextEvent_formed, passStep_formed]

end

/-! One step. -/

section

variable {s : State} (h : Formed s)
include h

theorem step_formed : OutFormed (step s) := by
  unfold step
  grind [OptFormed, OutFormed, defaultMove_formed, dueNow_formed, runMove_formed]

end

/-- Settles O7: due events, the agenda's moves and the default schedule put together functions that keep the form. -/
theorem stepKeepsMemoryForm : Obligations.StepKeepsMemoryForm := by
  unfold Obligations.StepKeepsMemoryForm
  intro s t hs hstep
  have h : OutFormed (step s) := step_formed hs
  rwa [hstep] at h

end Sys2Proof.Machine
end
